-- ==== Sys2Proof/Word.lean ====
section
/-! DEFINITION. The word types of the Igisen module model: bytes, W32 codes and the sparse
tables that hold every per-unit piece of state. -/
namespace Sys2Proof

/-- One byte (00_scope R5). -/
abbrev Byte := BitVec 8
/-- The code of a W32 value, IEEE 754-2019 binary32 (02_number_formats R27, R28). -/
abbrev W32 := BitVec 32
/-- A 64-bit scalar register or register word (06 R187, 05 R144). -/
abbrev Word64 := BitVec 64
/-- A sparse table: keys strictly rising, no entry equal to the table's default. -/
abbrev Tbl (α : Type) := List (Nat × α)

end Sys2Proof
end

