-- ==== Sys2Proof/Syntax.lean ====
section
/-! DEFINITION. The commands of the Igisen block, one constructor per row of
spec/opcode_table.json, and the plain-data operand records they carry. -/
namespace Sys2Proof

/-- The sizes a control-space access has (05 R144): the driver's words, or any other size. -/
inductive AccessSize where
  | w32 | w64
  | other (bytes : Nat)
  deriving DecidableEq, Repr

/-- Blocks that own a COMMIT register (12 R342, 16 R421). -/
inductive CommitBlock where
  | port (p : Fin 32)
  | rtTable
  deriving DecidableEq, Repr

/-- How a 64-bit RC counter is read (00 R11). -/
inductive RcPart where
  | whole | low | high
  deriving DecidableEq, Repr

/-- The completion-queue registers whose write CQ_CONFIG_WRITE names (06 R170). -/
inductive CqReg where
  | base | cfg
  deriving DecidableEq, Repr

/-- Fields of an R-format control-core word (06 R189): `rest` is bits [31:23]. -/
structure RForm where
  rd : BitVec 5
  ra : BitVec 5
  rb : BitVec 5
  rest : BitVec 9
  deriving DecidableEq, Repr

/-- Fields of an I-format control-core word (06 R189). -/
structure IForm where
  rd : BitVec 5
  ra : BitVec 5
  imm : BitVec 14
  deriving DecidableEq, Repr

/-- Fields of a B-format control-core word (06 R189). -/
structure BForm where
  ra : BitVec 5
  rb : BitVec 5
  off : BitVec 14
  deriving DecidableEq, Repr

/-- Fields of a P-format control-core word (06 R189): `rest` is bits [31:13]. -/
structure PForm where
  rd : BitVec 5
  rest : BitVec 19
  deriving DecidableEq, Repr

/-- What the scrub of a stack meets (05 R120, R122, R123): a burst, by its stack-local byte
address, with a correctable or an uncorrectable error. -/
structure ScrubHit where
  addr : BitVec 40
  uncorrectable : Bool
  deriving DecidableEq, Repr

/-- A message of a collective from the module at `position` (10 R278): the COP, the fields of the
CXH (11 R299) that every packet of the message carries, and the message's whole data. -/
structure ColMsg where
  position : Fin 64
  mapid : BitVec 32
  gen : BitVec 32
  ctag : BitVec 32
  op : BitVec 8
  count : Nat
  abort : Bool
  /-- Piece, shard or value index the data belongs to (the COFF of the first packet). -/
  index : Nat
  data : List Byte
  deriving DecidableEq, Repr

/-- Address header of an RMT request (11 R299). -/
structure Axh where
  key : BitVec 32
  length : BitVec 32
  offset : Word64
  imm : BitVec 32
  reserved : BitVec 32
  deriving DecidableEq, Repr

/-- Collective header of an RMT packet (11 R299). -/
structure Cxh where
  mapid : BitVec 32
  gen : BitVec 32
  ctag : BitVec 32
  cop : Byte
  cxflags : Byte
  reserved : BitVec 16
  count : Word64
  coff : Word64
  deriving DecidableEq, Repr

/-- The UDP checksum a datagram carries: zero, right or wrong (11 R296). -/
inductive UdpSum where
  | zero | right | wrong
  deriving DecidableEq, Repr

/-- An RMT packet as received (11 R296–R300): whether it came over IPv6, an IPv4 header with options, a
fragment, whether the IPv4 header checksum is right, the UDP checksum, CE; `crc` is the end-to-end check
carried. -/
structure Packet where
  srcIp : BitVec 128
  v6 : Bool
  options : Bool
  fragment : Bool
  headerSumOk : Bool
  udpSum : UdpSum
  ce : Bool
  opc : Byte
  first : Bool
  last : Bool
  hasCxh : Bool
  ece : Bool
  areq : Bool
  flagsRest : BitVec 3
  ver : Byte
  sub : Byte
  dcn : BitVec 32
  epoch : BitVec 32
  psn : BitVec 32
  apsn : BitVec 32
  axh : Option Axh
  cxh : Option Cxh
  opnd0 : Word64
  opnd1 : Word64
  payload : List Byte
  crc : BitVec 32
  deriving DecidableEq, Repr

/-- What an Ethernet frame carries behind its MAC header (12 R338). -/
inductive FrameKind where
  /-- IPv4 or IPv6 UDP: destination address (IPv4 in the low 32 bits) and destination port. -/
  | udp (v6 : Bool) (dstIp : BitVec 128) (dstPort : BitVec 16)
  /-- ARP request for an IPv4 address, with the asker's hardware and protocol address. -/
  | arp (mac : BitVec 48) (ip target : BitVec 32)
  /-- ICMPv6 Neighbor Solicitation for an IPv6 address, with the asker's link-layer address and source. -/
  | neighborSolicit (mac : BitVec 48) (ip target : BitVec 128)
  /-- MAC control frame with its opcode (12 R343). -/
  | macControl (opcode : BitVec 16) (enable : BitVec 8) (quanta : List (BitVec 16))
  | other
  deriving DecidableEq, Repr

/-- A frame as it arrives at a port (12 R340). `len` counts from the destination address through
the FCS; `tag` is the 802.1Q tag's VID and PCP. -/
structure Frame where
  /-- Codewords that carried it which the FEC corrected, the symbols it corrected in them, and codewords it marked
  uncorrectable (12 R349). -/
  fecCorrected : Nat
  fecSymbols : Nat
  fecBad : Nat
  fcsOk : Bool
  len : Nat
  dst : BitVec 48
  tag : Option (BitVec 12 × Fin 8)
  kind : FrameKind
  deriving DecidableEq, Repr

/-- What a Puell training found (13 R353): widths, lane reversal and good lanes. -/
structure Training where
  txw : BitVec 2
  rxw : BitVec 2
  reversed : Bool
  txok : BitVec 16
  rxok : BitVec 16
  deriving DecidableEq, Repr

/-- An Ethernet link that goes down (12 R349, R350): its port, whether a frame was being received, and the faults
that the link shows. -/
structure LinkLoss where
  port : Fin 32
  cut : Bool
  lfault : Bool
  rfault : Bool
  deriving DecidableEq, Repr

/-- The bytes that an aperture write names: SIZE and the byte mask (13 R361). -/
structure WriteMask where
  size : Nat
  bits : BitVec 64
  deriving DecidableEq, Repr

/-- STATUS of a Response (13 R360). -/
inductive RspStatus where
  | ok | refused | poison
  deriving DecidableEq, Repr

/-- Clocked domains of a die stack (01 R20, 14 R385). -/
inductive Domain where
  | hbm (j : Fin 4)
  | mac (p : Fin 8)
  | d2d (k : Fin 2)
  | puell
  | watch
  | spi
  | smbus
  | tap
  deriving DecidableEq, Repr

/-- Handshakes of one cluster over 1 µs, by kind (15 R404), in the order of R404's list: blocks by
format pair, vector words by class, 64-byte moves, control-core instructions; and the temperature
of the hottest of the cluster's compute-die sensors is not part of it. -/
structure Activity where
  blocks : List Nat
  vectorWords : List Nat
  moves : Nat
  instrs : Nat
  deriving DecidableEq, Repr

/-- Measurements of one slow interval (15 R402, R406): input power, per-stack compute and base
rail power, in mW, and the worst 1 ms window. -/
structure SlowMeasure where
  inputMw : Nat
  compMw : List Nat
  baseMw : List Nat
  /-- Power the compute rails would draw at full bubbles (15 R408). -/
  floorMw : Nat
  deriving DecidableEq, Repr

/-- One 10 µs sample (15 R406, 16 R433): energy in nJ, weighted activity per context and of the
house, and the latest input voltage. -/
structure RailReading where
  energyNj : Nat
  activity : List (Fin 256 × Nat)
  house : Nat
  inputMv : Nat
  deriving DecidableEq, Repr

/-- How one try of a boot step ended (20 R498), with what it found. -/
structure BootResult where
  pass : Bool
  /-- The unit's own failure code, or for step 7 the reason of the halt (20 R497). -/
  code : BitVec 16
  /-- Measured or trained data the step hands over: step 2 and 4 bank; step 6 training;
  step 7 the receive groups per stack and port; step 9 observed MISR and address. -/
  data : List Word64
  deriving DecidableEq, Repr


/-- One command of the block: one constructor per row of spec/opcode_table.json, in the table's order.
Each docstring names the row and the rule that governs it. -/
inductive Instr where
  /-- REGISTER_WRITE (R12): A control-space write to a register without its own row takes effect per field by its change class and range. -/
  | registerWrite (link : Fin 2) (off : BitVec 28) (size : AccessSize) (value : Word64)
  /-- COMMIT (R13): A write of a block's COMMIT register requests that all shadow copies be applied at the next quiescent point. -/
  | commit (block : CommitBlock)
  /-- COMMIT_APPLY (R13): At the block's quiescent point the pending shadow copies are applied together and COMMIT reads 0. -/
  | commitApply (block : CommitBlock)
  /-- RC_COUNTER_READ (R11): A read of an RC counter returns and clears it indivisibly, latching the high word on a low-word read. -/
  | rcCounterRead (link : Fin 2) (off : BitVec 28) (part : RcPart)
  /-- MACC (R67): The engine discards any open accumulation, zeroes accumulators and stacks and opens a span at SEG0. -/
  | macc (core : Fin 256) (eng : Fin 2)
  /-- MMA (R67): The engine streams KB blocks through the canonical product, tree, scale and segment chain, pushing completed segments. -/
  | mma (core : Fin 256) (eng : Fin 2)
  /-- MPART (R68): The engine pushes, folds and writes an acceptable span as a partial tile with a Tally report. -/
  | mpart (core : Fin 256) (eng : Fin 2)
  /-- MCOMB (R62): The engine folds its span and adds a sibling partial tile when the two form a node of the tree. -/
  | mcomb (core : Fin 256) (eng : Fin 2)
  /-- MOUT (R69): The engine folds the complete span, converts the tile once and writes it in panels as one write stream. -/
  | mout (core : Fin 256) (eng : Fin 2)
  /-- VADD (R88): Each active lane computes a + b in W32. -/
  | vadd (core : Fin 256)
  /-- VSUB (R88): Each active lane computes a − b in W32. -/
  | vsub (core : Fin 256)
  /-- VMUL (R88): Each active lane computes a × b in W32. -/
  | vmul (core : Fin 256)
  /-- VFMA (R88): Each active lane computes a × b + c with one rounding. -/
  | vfma (core : Fin 256)
  /-- VFNMA (R88): Each active lane computes c − a × b with one rounding. -/
  | vfnma (core : Fin 256)
  /-- VMIN (R88): Each active lane takes the minimum of a and b under R79. -/
  | vmin (core : Fin 256)
  /-- VMAX (R88): Each active lane takes the maximum of a and b under R79. -/
  | vmax (core : Fin 256)
  /-- VABS (R88): Each active lane takes the magnitude of a. -/
  | vabs (core : Fin 256)
  /-- VNEG (R88): Each active lane negates a. -/
  | vneg (core : Fin 256)
  /-- VMOV (R88): Each active lane copies a, with no census report. -/
  | vmov (core : Fin 256)
  /-- VDIV (R88): Each active lane computes a correctly rounded a / b. -/
  | vdiv (core : Fin 256)
  /-- VSQRT (R88): Each active lane computes a correctly rounded square root of a. -/
  | vsqrt (core : Fin 256)
  /-- VCLAMP (R88): Each active lane computes min(max(a, b), c). -/
  | vclamp (core : Fin 256)
  /-- VCVTI (R88): Each active lane converts a to a saturated unsigned 32-bit integer. -/
  | vcvti (core : Fin 256)
  /-- VCVTF (R88): Each active lane converts the unsigned integer bits of a to W32. -/
  | vcvtf (core : Fin 256)
  /-- VCEQ (R88): Sets a mask bit per lane where a equals b. -/
  | vceq (core : Fin 256)
  /-- VCNE (R88): Sets a mask bit per lane where a differs from b. -/
  | vcne (core : Fin 256)
  /-- VCLT (R88): Sets a mask bit per lane where a is less than b. -/
  | vclt (core : Fin 256)
  /-- VCLE (R88): Sets a mask bit per lane where a is less than or equal to b. -/
  | vcle (core : Fin 256)
  /-- VCUNORD (R88): Sets a mask bit per lane where a and b are unordered. -/
  | vcunord (core : Fin 256)
  /-- VCFIN (R88): Sets a mask bit per lane where a is finite. -/
  | vcfin (core : Fin 256)
  /-- KAND (R88): A mask receives the AND of two masks. -/
  | kand (core : Fin 256)
  /-- KOR (R88): A mask receives the OR of two masks. -/
  | kor (core : Fin 256)
  /-- KXOR (R88): A mask receives the XOR of two masks. -/
  | kxor (core : Fin 256)
  /-- KANDN (R88): A mask receives one mask AND NOT another. -/
  | kandn (core : Fin 256)
  /-- KNOT (R88): A mask receives the complement of a mask. -/
  | knot (core : Fin 256)
  /-- KFIRST (R88): A mask receives lanes 0 to n − 1 set, n from a scalar. -/
  | kfirst (core : Fin 256)
  /-- KCOUNT (R88): A scalar receives the count of set lanes of a mask. -/
  | kcount (core : Fin 256)
  /-- VEXP (R97): Each active lane computes e^x. -/
  | vexp (core : Fin 256)
  /-- VEXP2 (R97): Each active lane computes 2^x. -/
  | vexp2 (core : Fin 256)
  /-- VLOG (R97): Each active lane computes ln x. -/
  | vlog (core : Fin 256)
  /-- VLOG2 (R97): Each active lane computes log2 x. -/
  | vlog2 (core : Fin 256)
  /-- VRCP (R97): Each active lane computes a correctly rounded 1/x. -/
  | vrcp (core : Fin 256)
  /-- VRSQRT (R97): Each active lane computes 1/√x. -/
  | vrsqrt (core : Fin 256)
  /-- VTANH (R97): Each active lane computes tanh x. -/
  | vtanh (core : Fin 256)
  /-- VSIGM (R97): Each active lane computes the logistic sigmoid of x. -/
  | vsigm (core : Fin 256)
  /-- VERF (R97): Each active lane computes erf x. -/
  | verf (core : Fin 256)
  /-- VSIN (R97): Each active lane computes sin x. -/
  | vsin (core : Fin 256)
  /-- VCOS (R97): Each active lane computes cos x. -/
  | vcos (core : Fin 256)
  /-- VLD (R89): Loads one vector from the operand cache, converting to W32 with the descriptor's coarse scale. -/
  | vld (core : Fin 256)
  /-- VST (R91): Stores one vector to the operand cache as a converting write stream in whole 16-lane blocks. -/
  | vst (core : Fin 256)
  /-- VACCZ (R99): Sets every lane's compensated accumulator pair to zero. -/
  | vaccz (core : Fin 256)
  /-- VACC (R99): Adds a selected value to each active lane's compensated pair. -/
  | vacc (core : Fin 256)
  /-- VFOLD (R100): Combines the 128 compensated pairs by the canonical tree and scales the result. -/
  | vfold (core : Fin 256)
  /-- VRSUM (R100): Sums the active lanes by the canonical tree in plain W32. -/
  | vrsum (core : Fin 256)
  /-- VRMAX (R100): Takes the maximum over the active lanes. -/
  | vrmax (core : Fin 256)
  /-- VRMIN (R100): Takes the minimum over the active lanes. -/
  | vrmin (core : Fin 256)
  /-- VCOMPRESS (R94): Packs the active lanes of a into the low lanes of D and writes their count. -/
  | vcompress (core : Fin 256)
  /-- VCSTORE (R94): Writes the active lanes contiguously to the operand cache and advances the address scalar. -/
  | vcstore (core : Fin 256)
  /-- VEXPAND (R94): Spreads low lanes of a onto the active lanes in rank order. -/
  | vexpand (core : Fin 256)
  /-- VXLOAD (R94): Loads contiguous elements onto the active lanes in rank order and advances the address scalar. -/
  | vxload (core : Fin 256)
  /-- VGATHER (R94): Each lane loads a W32 from an indexed operand-cache address. -/
  | vgather (core : Fin 256)
  /-- VSCATTER (R96): Each active lane writes a W32 to an indexed address, the higher lane winning collisions. -/
  | vscatter (core : Fin 256)
  /-- VBCAST (R94): Every active lane receives lane k of a. -/
  | vbcast (core : Fin 256)
  /-- VSOFTMAX (R103): Computes a soft maximum over one row in three passes and writes the converted row. -/
  | vsoftmax (core : Fin 256)
  /-- VLSE (R103): Computes the log-sum-exp of one row in two passes. -/
  | vlse (core : Fin 256)
  /-- VXENT (R103): Computes the cross-entropy loss and gradient row of one row. -/
  | vxent (core : Fin 256)
  /-- VWIN (R88): Sets the vector window base from a scalar for later words. -/
  | vwin (core : Fin 256)
  /-- ADD (R190): rd = ra + rb modulo 2^64. -/
  | add (core : Fin 256) (f : RForm)
  /-- SUB (R190): rd = ra − rb modulo 2^64. -/
  | sub (core : Fin 256) (f : RForm)
  /-- MUL (R190): rd = low 64 bits of ra × rb. -/
  | mul (core : Fin 256) (f : RForm)
  /-- AND (R190): rd = bitwise AND of ra and rb. -/
  | andOp (core : Fin 256) (f : RForm)
  /-- OR (R190): rd = bitwise OR of ra and rb. -/
  | orOp (core : Fin 256) (f : RForm)
  /-- XOR (R190): rd = bitwise XOR of ra and rb. -/
  | xor (core : Fin 256) (f : RForm)
  /-- SHL (R190): rd = ra shifted left by rb mod 64. -/
  | shl (core : Fin 256) (f : RForm)
  /-- SHR (R190): rd = ra shifted logically right by rb mod 64. -/
  | shr (core : Fin 256) (f : RForm)
  /-- SAR (R190): rd = ra shifted arithmetically right by rb mod 64. -/
  | sar (core : Fin 256) (f : RForm)
  /-- SLTU (R190): rd = 1 when ra < rb unsigned, else 0. -/
  | sltu (core : Fin 256) (f : RForm)
  /-- SLT (R190): rd = 1 when ra < rb signed, else 0. -/
  | slt (core : Fin 256) (f : RForm)
  /-- ADDI (R190): rd = ra + sign-extended immediate. -/
  | addi (core : Fin 256) (f : IForm)
  /-- ANDI (R190): rd = ra AND immediate. -/
  | andi (core : Fin 256) (f : IForm)
  /-- ORI (R190): rd = ra OR immediate. -/
  | ori (core : Fin 256) (f : IForm)
  /-- SHLI (R190): rd = ra shifted left by imm[5:0]. -/
  | shli (core : Fin 256) (f : IForm)
  /-- SHRI (R190): rd = ra shifted logically right by imm[5:0]. -/
  | shri (core : Fin 256) (f : IForm)
  /-- SARI (R190): rd = ra shifted arithmetically right by imm[5:0]. -/
  | sari (core : Fin 256) (f : IForm)
  /-- LI (R190): rd = zero-extended payload word. -/
  | li (core : Fin 256) (f : PForm) (payload : BitVec 32)
  /-- LIH (R190): rd[63:32] = payload word, low half kept. -/
  | lih (core : Fin 256) (f : PForm) (payload : BitVec 32)
  /-- LD (R190): Loads a 64-bit operand-cache word into rd. -/
  | ld (core : Fin 256) (f : IForm)
  /-- ST (R190): Stores rd as a 64-bit operand-cache word. -/
  | st (core : Fin 256) (f : IForm)
  /-- LDD (R190): Loads a doubleword of the buffer record bound at a binding index. -/
  | ldd (core : Fin 256) (f : IForm)
  /-- BEQ (R190): Branches when ra equals rb. -/
  | beq (core : Fin 256) (f : BForm)
  /-- BNE (R190): Branches when ra differs from rb. -/
  | bne (core : Fin 256) (f : BForm)
  /-- BLTU (R190): Branches when ra < rb unsigned. -/
  | bltu (core : Fin 256) (f : BForm)
  /-- BGEU (R190): Branches when ra ≥ rb unsigned. -/
  | bgeu (core : Fin 256) (f : BForm)
  /-- JAL (R190): Links PC + 4 into rd and jumps PC-relative. -/
  | jal (core : Fin 256) (f : IForm)
  /-- JR (R190): Links PC + 4 into rd and jumps to ra + imm. -/
  | jr (core : Fin 256) (f : IForm)
  /-- MIS (R191): Issues a 128-bit engine word to an engine queue, waiting while it is full. -/
  | mis (core : Fin 256) (f : PForm) (word : BitVec 128)
  /-- VIS (R191): Issues a 64-bit vector word to the vector queue, waiting while it is full. -/
  | vis (core : Fin 256) (f : PForm) (word : BitVec 64)
  /-- MVC (R191): Issues a 64-byte mover command read from the operand cache. -/
  | mvc (core : Fin 256) (f : RForm)
  /-- FENCE (R192): Waits until earlier words and commands to the selected units are complete. -/
  | fence (core : Fin 256) (f : IForm)
  /-- FENCE_RELEASE (R192): The awaited units complete and the fenced instance continues. -/
  | fenceRelease (core : Fin 256)
  /-- SEMW (R181): Queues a wait for count v on a semaphore. -/
  | semw (core : Fin 256) (f : RForm)
  /-- SEMS (R181): Signals a semaphore by v, refused on overflow. -/
  | sems (core : Fin 256) (f : RForm)
  /-- SEMT (R181): Tries to take count v only when the queue is empty, returning 1 or 0. -/
  | semt (core : Fin 256) (f : RForm)
  /-- EXIT (R193): Waits as a full fence and then ends the instance. -/
  | exitOp (core : Fin 256) (f : RForm)
  /-- TRAP (R194): Faults the context with the immediate as detail. -/
  | trap (core : Fin 256) (f : IForm)
  /-- RDS (R190): Reads a logical start value by RDS number into rd. -/
  | rds (core : Fin 256) (f : IForm)
  /-- FADD (R190): W32 addition of ra and rb into rd. -/
  | fadd (core : Fin 256) (f : RForm)
  /-- FMUL (R190): W32 multiplication of ra and rb into rd. -/
  | fmul (core : Fin 256) (f : RForm)
  /-- FFMA (R190): W32 fused ra × rb + rd with one rounding. -/
  | ffma (core : Fin 256) (f : RForm)
  /-- FLT (R190): rd = 1 when ra < rb in W32. -/
  | flt (core : Fin 256) (f : RForm)
  /-- COPY (R136): A mover copies or converts ROWS rows of ROWLEN elements between spaces. -/
  | copy (core : Fin 256) (mover : Fin 2) (index : Fin 8)
  /-- PACK (R137): A mover writes operand panels into the operand cache. -/
  | pack (core : Fin 256) (mover : Fin 2) (index : Fin 8)
  /-- FILL (R136): A mover writes rows with a repeated 32-bit pattern. -/
  | fill (core : Fin 256) (mover : Fin 2) (index : Fin 8)
  /-- CMFLUSH (R136): A mover writes back dirty bytes of a range in the context's cache ways. -/
  | cmflush (core : Fin 256) (mover : Fin 2) (index : Fin 8)
  /-- CMINV (R136): A mover discards lines of a range in the context's cache ways. -/
  | cminv (core : Fin 256) (mover : Fin 2) (index : Fin 8)
  /-- CM_WAY_WRITE (R115): A write changing OWNER, VALID or MODE of a way starts its clear. -/
  | cmWayWrite (cluster : Fin 32) (way : Fin 16) (value : BitVec 32)
  /-- WAY_CLEAR_DONE (R115): A way's clear ends, ZEROING drops and waiting accesses proceed. -/
  | wayClearDone (cluster : Fin 32) (way : Fin 16)
  /-- IS_DESC_WRITE (R127): A write of an interleave-set descriptor is checked and a validation starts the members' clear. -/
  | isDescWrite (set : Fin 256) (value : Word64)
  /-- SET_CLEAR_DONE (R127): Clearing of a newly validated set ends and the set enters service. -/
  | setClearDone (set : Fin 256)
  /-- MEM_CFG_WRITE (R143): The arming write of package memory names the page-table set and sets READY. -/
  | memCfgWrite (value : BitVec 32)
  /-- MEM_TINV (R132): A write requests invalidation of cached translations of a page or context. -/
  | memTinv (value : Word64)
  /-- TINV_DONE (R132): Every cached copy is discarded and old accesses have completed, so DONE reads 1. -/
  | tinvDone
  /-- PROTECTED_PAGE_WRITE (R133): A write reaches a write-protected page and waits for a first-touch copy or faults. -/
  | protectedPageWrite (ctx : Fin 256) (unit : Fin 36) (cva : BitVec 48) (data : List Byte)
  /-- FIRST_TOUCH_COPY_DONE (R466): The page copy ends, protection clears and the waiting writes proceed in issue order. -/
  | firstTouchCopyDone (ctx : Fin 256) (region : Fin 64) (page : Nat)
  /-- HBM_SCRUB (R120): The scrub interval drives reading of every line of a stack. -/
  | hbmScrub (stack : Fin 16) (found : List ScrubHit)
  /-- HBM_REFRESH (R119): A per-bank refresh falls due and is scheduled around traffic. -/
  | hbmRefresh (stack : Fin 16) (channel : Fin 32)
  /-- SUBMIT (R164): A present SUBMIT entry is consumed, HEAD advances and the image check begins. -/
  | submit (ctx : Fin 256)
  /-- CANCEL (R168): A CANCEL entry ends every active graph with the matching tag. -/
  | cancel (ctx : Fin 256)
  /-- IMAGE_CHECK_DONE (R159): The whole graph image has been read and checked, and the graph is admitted or rejected. -/
  | imageCheckDone (ctx : Fin 256) (subseq : BitVec 16)
  /-- EMBER_ISSUE (R174): A task in ADMIT receives an Ember when quota and table allow. -/
  | emberIssue (ctx : Fin 256)
  /-- COHORT_PLACE (R175): A cohort of an Ember is placed on free cores of the chosen cluster. -/
  | cohortPlace (ctx : Fin 256)
  /-- COMPLETION_ENTRY_WRITE (R169): A finished graph's completion entry is written when the ring has room, TAIL advances and a Bell may follow. -/
  | completionEntryWrite (ctx : Fin 256)
  /-- CQ_PTR_WRITE (R170): A driver write moves the completion HEAD forward or is refused. -/
  | cqPtrWrite (ctx : Fin 256) (value : BitVec 32)
  /-- SQ_BASE_WRITE (R165): A write changing the submission ring address resets HEAD to 0. -/
  | sqBaseWrite (ctx : Fin 256) (value : Word64)
  /-- SQ_CFG_WRITE (R165): A write of size, enable or graph limit; a size change resets HEAD. -/
  | sqCfgWrite (ctx : Fin 256) (value : BitVec 32)
  /-- CQ_CONFIG_WRITE (R170): A write changing the completion ring address or size resets HEAD and TAIL. -/
  | cqConfigWrite (ctx : Fin 256) (reg : CqReg) (value : Word64)
  /-- SCH_PROBE (R186): A write naming a task makes SCH_PROBE_RES show the task's state. -/
  | schProbe (value : Word64)
  /-- SEM_WRITE (R184): A driver write of a semaphore replaces its count between operations or sets its fields. -/
  | semWrite (sem : Fin 4096) (value : Word64)
  /-- SEMAPHORE_GRANT (R182): A queued wait reaches the head with enough count and is granted. -/
  | semaphoreGrant (sem : Fin 4096)
  /-- TALLY_REPORT (R200): A write stream's counts and maximum are added to its slot's live values. -/
  | tallyReport (index : Nat)
  /-- TALLY_CTL_WRITE (R197): A write changing a slot's owner or validity clears its counts. -/
  | tallyCtlWrite (slot : Fin 4096) (value : BitVec 32)
  /-- UPDATE_REQUEST (R223): The coordinator acquires GOSEM and checks the whole update. -/
  | updateRequest (ctx : Fin 256)
  /-- SKIP_DECISION (R226): Once Q is held the coordinator decides applied or skipped and forms the per-step constants. -/
  | skipDecision (ctx : Fin 256)
  /-- CHUNK_START (R238): With a retain slot free the Smithy reads, retains and computes a chunk's update. -/
  | chunkStart (ctx : Fin 256) (die : Fin 4)
  /-- CHUNK_OPEN (R238): Once the retain copy is acknowledged the progress record marks the chunk open and the writes go out. -/
  | chunkOpen (ctx : Fin 256) (die : Fin 4) (slot : Fin 4)
  /-- CHUNK_DONE (R238): All writes acknowledged, the chunk is marked done, its slot returned and reports made. -/
  | chunkDone (ctx : Fin 256) (die : Fin 4) (slot : Fin 4)
  /-- CHUNK_REDO (R242): An open chunk is recomputed from its retained inputs and rewritten. -/
  | chunkRedo (ctx : Fin 256) (die : Fin 4) (slot : Fin 4)
  /-- STEP_COMMIT_RECORD (R243): With every chunk complete or the step skipped the coordinator writes the step commit record and advances the counters. -/
  | stepCommitRecord (ctx : Fin 256)
  /-- CLOSE_DRAIN_END (R204): With the step's streams drained the close closes slots, updates scales and writes the step record. -/
  | closeDrainEnd (ctx : Fin 256)
  /-- DONESEM_SIGNAL (R221): After the record, snapshot open and twin copy complete, DONESEM is signalled and the requesting task may finish. -/
  | donesemSignal (ctx : Fin 256)
  /-- SMY_EXPORT (R247): Setting GO starts export of a shard's working copy to context space. -/
  | smyExport (value : Word64)
  /-- EXPORT_DONE (R247): The export ends and DONE is set with a result code. -/
  | exportDone
  /-- QUEUE_SEND (R262): The collective unit takes a producer TSEM count and sends the next slot. -/
  | queueSend (qend : Fin 256)
  /-- QUEUE_TRANSFER_RECEIVE (R262): The last packet of a queue transfer arrives and the consumer slot fills. -/
  | queueTransferReceive (qend : Fin 256) (link : Fin 16) (seq : Nat) (data : List Byte)
  /-- QUEUE_FREE (R262): The unit takes a consumer TSEM count and sends a credit message. -/
  | queueFree (qend : Fin 256)
  /-- QUEUE_CREDIT_RECEIVE (R262): A credit message arrives and the producer's credit is restored. -/
  | queueCreditReceive (qend : Fin 256) (link : Fin 16) (count : Nat)
  /-- STQ_CFG_WRITE (R269): A write validating a queue end is checked and sets the credit counts. -/
  | stqCfgWrite (qend : Fin 256) (value : Word64)
  /-- COLLECTIVE_FETCH (R276): A GOSEM grant makes the unit read the next command entry and advance HEAD. -/
  | collectiveFetch (ctx : Fin 256)
  /-- RSCAT (R280): Reduces a tensor round the ring in fixed order and writes the owned piece to GRAD. -/
  | rscat (ctx : Fin 256) (ctag : BitVec 32)
  /-- AGATH (R286): Gathers a group's working copy round the ring with version tags. -/
  | agath (ctx : Fin 256) (ctag : BitVec 32)
  /-- NORM (R284): Exchanges exact square sums and forms the job-wide Q. -/
  | norm (ctx : Fin 256) (ctag : BitVec 32)
  /-- ARED (R285): Combines up to 16 W32 values across the job in rank order. -/
  | ared (ctx : Fin 256) (ctag : BitVec 32)
  /-- DXCH (R288): Forms and exchanges the owned shard's master digest among replicas. -/
  | dxch (ctx : Fin 256) (ctag : BitVec 32)
  /-- MSWAP (R274): Drains, checks and announces a new phase map by arrivals. -/
  | mswap (ctx : Fin 256) (ctag : BitVec 32)
  /-- MAP_ARRIVAL (R274): A map-swap arrival is received and kept. -/
  | mapArrival (ctx : Fin 256) (mapid gen : BitVec 32) (position : Fin 64)
  /-- COLLECTIVE_PACKET (R278): A collective packet arrives and is applied, refused busy or faults the context. -/
  | collectivePacket (ctx : Fin 256) (m : ColMsg)
  /-- COLLECTIVE_STALL (R278): A command without progress for STALL ms faults its context. -/
  | collectiveStall (ctx : Fin 256) (ctag : BitVec 32)
  /-- WRITE (R311): An RMT WRITE packet is checked and its payload written. -/
  | write (die : Fin 4) (p : Packet)
  /-- WRITE_NOTIFY (R311): An RMT WRITE_NOTIFY packet is written and the key's semaphore signalled. -/
  | writeNotify (die : Fin 4) (p : Packet)
  /-- READ_REQ (R311): An RMT read request is checked and answered with READ_RESP packets. -/
  | readReq (die : Fin 4) (p : Packet)
  /-- READ_RESP (R329): A read response packet's bytes are written at the requester. -/
  | readResp (die : Fin 4) (p : Packet)
  /-- RMT_FADD (R311): An atomic fetch-and-add packet is applied and its original value returned. -/
  | rmtFadd (die : Fin 4) (p : Packet)
  /-- CSWAP (R311): An atomic compare-and-swap packet is applied and its original value returned. -/
  | cswap (die : Fin 4) (p : Packet)
  /-- SWAP (R311): An atomic swap packet is applied and its original value returned. -/
  | swap (die : Fin 4) (p : Packet)
  /-- ATOMIC_RESP (R329): An atomic response writes the original value and completes the command. -/
  | atomicResp (die : Fin 4) (p : Packet)
  /-- REDUCE_WRITE (R311): A reduce-write packet adds its elements into the target in W32. -/
  | reduceWrite (die : Fin 4) (p : Packet)
  /-- ACK (R309): An acknowledgement retires packets, returns credits and completes commands. -/
  | ack (die : Fin 4) (p : Packet)
  /-- NAK_SEQ (R310): A sequence NAK makes the sender go back and resend at once. -/
  | nakSeq (die : Fin 4) (p : Packet)
  /-- NAK_BUSY (R310): A busy NAK makes the sender resend after BUSYWAIT. -/
  | nakBusy (die : Fin 4) (p : Packet)
  /-- NAK_ACCESS (R304): An access NAK halts the connection. -/
  | nakAccess (die : Fin 4) (p : Packet)
  /-- OPEN (R303): A received OPEN moves an OPENING slot to OPEN and is answered with OPEN_ACK. -/
  | openPkt (die : Fin 4) (p : Packet)
  /-- OPEN_ACK (R303): A received OPEN_ACK moves an OPENING slot to OPEN. -/
  | openAck (die : Fin 4) (p : Packet)
  /-- HALT (R304): A received HALT halts the matching slot. -/
  | haltPkt (die : Fin 4) (p : Packet)
  /-- CLOSE (R302): A received CLOSE moves an OPEN or CLOSING slot to FREE. -/
  | closePkt (die : Fin 4) (p : Packet)
  /-- RTO_TIMEOUT (R310): The retransmit timer expires and unacknowledged packets are resent, perhaps changing path or halting. -/
  | rtoTimeout (die : Fin 4) (slot : BitVec 16)
  /-- ACK_TIMER (R309): 2 µs after an unacknowledged packet the receiver sends an ACK. -/
  | ackTimer (die : Fin 4) (slot : BitVec 16)
  /-- NPL_EXPIRY (R304): No progress for NPL halts the connection. -/
  | nplExpiry (die : Fin 4) (slot : BitVec 16)
  /-- OPEN_RETRY (R302): An OPENING slot resends OPEN every RTO. -/
  | openRetry (die : Fin 4) (slot : BitVec 16)
  /-- BUSYWAIT_EXPIRY (R310): After BUSYWAIT the sender resends from the refused packet. -/
  | busywaitExpiry (die : Fin 4) (slot : BitVec 16)
  /-- RATE_PERIOD (R322): At each measurement period the sender adjusts its rate from echoed marks. -/
  | ratePeriod (die : Fin 4) (slot : BitVec 16)
  /-- CONN_FETCH_DONE (R320): An uncached slot's record arrives and its waiting packets proceed. -/
  | connFetchDone (die : Fin 4) (slot : BitVec 16)
  /-- KEY_FETCH_DONE (R321): A key record arrives in the cache and its check proceeds. -/
  | keyFetchDone (die : Fin 4) (index : BitVec 20)
  /-- CONN_OPEN (R303): RMT_CCMD OPEN checks the slot record and starts opening. -/
  | connOpen (die : Fin 4) (slot : BitVec 16)
  /-- CONN_CLOSE (R302): RMT_CCMD CLOSE moves a slot toward FREE. -/
  | connClose (die : Fin 4) (slot : BitVec 16)
  /-- CONN_QUERY (R330): RMT_CCMD QUERY reports a slot's state in RMT_CSTAT. -/
  | connQuery (die : Fin 4) (slot : BitVec 16)
  /-- KEY_VALIDATE (R315): RMT_KCMD VALIDATE checks a key record and makes it VALID. -/
  | keyValidate (index : BitVec 20)
  /-- KEY_REVOKE (R318): RMT_KCMD REVOKE makes a key CLOSING and starts its drain. -/
  | keyRevoke (index : BitVec 20)
  /-- REVOKE_DRAINED (R318): The key's last reference is released and the key becomes FREE with a new GEN. -/
  | revokeDrained (index : BitVec 20)
  /-- REVOKE_TIMEOUT (R318): After 1 ms remaining messages are aborted and the key freed. -/
  | revokeTimeout (index : BitVec 20)
  /-- RMT_COMMAND_FETCH (R328): A GOSEM grant makes P0's engine read the next RMT command entry. -/
  | rmtCommandFetch (ctx : Fin 256)
  /-- CMD_WRITE (R329): An RMT command sends a WRITE message on a connection. -/
  | cmdWrite (ctx : Fin 256) (index : Nat)
  /-- CMD_WRITE_NOTIFY (R329): An RMT command sends a WRITE_NOTIFY message. -/
  | cmdWriteNotify (ctx : Fin 256) (index : Nat)
  /-- CMD_READ (R329): An RMT command sends a read request. -/
  | cmdRead (ctx : Fin 256) (index : Nat)
  /-- CMD_FADD (R329): An RMT command sends an atomic fetch-and-add. -/
  | cmdFadd (ctx : Fin 256) (index : Nat)
  /-- CMD_CSWAP (R329): An RMT command sends an atomic compare-and-swap. -/
  | cmdCswap (ctx : Fin 256) (index : Nat)
  /-- CMD_SWAP (R329): An RMT command sends an atomic swap. -/
  | cmdSwap (ctx : Fin 256) (index : Nat)
  /-- CMD_REDUCE_WRITE (R329): An RMT command sends a reduce-write message. -/
  | cmdReduceWrite (ctx : Fin 256) (index : Nat)
  /-- FRAME_RECEIVE (R340): A received frame is checked, filtered, admitted and classified. -/
  | frameReceive (port : Fin 32) (f : Frame)
  /-- PAUSE_RECEIVE (R345): A received PAUSE frame stops or releases the transmitter for n quanta. -/
  | pauseReceive (port : Fin 32) (quanta : BitVec 16)
  /-- PFC_RECEIVE (R345): A received PFC frame pauses or releases the enabled priorities. -/
  | pfcReceive (port : Fin 32) (enable : BitVec 8) (quanta : List (BitVec 16))
  /-- FRAME_TRANSMIT (R345): A frame presented by the RMT engine is sent or discarded when down or paused by the watchdog. -/
  | frameTransmit (port : Fin 32) (prio : Fin 8)
  /-- FRAME_FREED (R341): A frame's last byte is taken and its buffer space is freed. -/
  | frameFreed (port : Fin 32)
  /-- PAUSE_EXPIRY (R345): A received pause timer runs out and the priority resumes. -/
  | pauseExpiry (port : Fin 32) (prio : Fin 8)
  /-- XOFF_REFRESH (R346): At each refresh interval above XON the port resends its pause. -/
  | xoffRefresh (port : Fin 32)
  /-- PAUSE_WATCHDOG_FIRE (R348): A pause held for WDMS fires the transmit watchdog. -/
  | pauseWatchdogFire (port : Fin 32) (prio : Fin 8)
  /-- WATCHDOG_CLEAR (R348): No pause for RESTMS clears the transmit watchdog. -/
  | watchdogClear (port : Fin 32) (prio : Fin 8)
  /-- GENSTOP (R348): XOFF held for WDMS stops pause generation for the priority. -/
  | genstop (port : Fin 32) (prio : Fin 8)
  /-- GENSTOP_CLEAR (R348): Occupancy below XON for RESTMS clears GENSTOP. -/
  | genstopClear (port : Fin 32) (prio : Fin 8)
  /-- LINK_UP (R349): An Ethernet link comes up with no pause in force and a Bell is sent. -/
  | linkUp (port : Fin 32) (partnerMode : BitVec 4)
  /-- LINK_DOWN (R349): An Ethernet link is lost or disabled; pauses clear and a Bell is sent. -/
  | linkDown (port : LinkLoss)
  /-- PORT_COMMIT (R342): A write applies the priority shadows at a receive quiescent point or is refused. -/
  | portCommit (port : Fin 32) (value : BitVec 32)
  /-- EXCEPTION_FRAME (R338): Management firmware answers ARP or Neighbor Solicitation frames or discards the rest. -/
  | exceptionFrame (port : Fin 32)
  /-- ADDRESS_ANNOUNCE (R338): Firmware sends a gratuitous ARP and Neighbor Advertisement three times at 100 ms. -/
  | addressAnnounce (port : Fin 32)
  /-- PL_ACTIVE (R353): A Puell link finishes training and enters ACTIVE. -/
  | plActive (link : Fin 2) (t : Training)
  /-- FLIT_RECEIVE (R356): A Puell flit is checked by CRC and sequence and its messages and credits delivered. -/
  | flitReceive (link : Fin 2) (bytes : List Byte)
  /-- NAK_FLIT (R356): A received NAK flit makes the sender replay from FACK + 1. -/
  | nakFlit (link : Fin 2) (fack : BitVec 12)
  /-- REPLAY_TIMER (R356): 2 µs without FACK advance makes the sender replay. -/
  | replayTimer (link : Fin 2)
  /-- RETRAIN (R358): Repeated replay or lost sync retrains the link keeping the replay buffer. -/
  | retrain (link : Fin 2) (widthFound : Bool)
  /-- PL_LINK_DOWN (R367): A link goes DOWN, routing moves and outstanding requests complete LINKDOWN. -/
  | plLinkDown (link : Fin 2)
  /-- KEY_SWITCH (R368): A LINKCTL flit switches to the next key epoch every 2^40 positions or on request. -/
  | keySwitch (link : Fin 2)
  /-- CONF_KEY_SWITCH (R450): Each active link switches to encrypted flits and CONFPEND clears. -/
  | confKeySwitch (link : Fin 2)
  /-- GNTS (R362): A grant in S installs the line and delivers its data. -/
  | gnts (link : Fin 2) (tag : BitVec 12) (status : RspStatus) (data : List Byte)
  /-- GNTE (R362): A grant in E lets the device merge and then write back. -/
  | gnte (link : Fin 2) (tag : BitVec 12) (status : RspStatus) (data : List Byte)
  /-- CUR (R361): RdCur data arrives and is delivered to the unit. -/
  | cur (link : Fin 2) (tag : BitVec 12) (status : RspStatus) (data : List Byte)
  /-- CMP (R362): A write, write-back or evict completes and becomes globally visible. -/
  | cmp (link : Fin 2) (tag : BitVec 12)
  /-- SNPINV (R363): A snoop moves the line to I and is answered. -/
  | snpinv (link : Fin 2) (tag : BitVec 12) (addr : BitVec 42)
  /-- SNPSHR (R363): A snoop moves the line to S or I and is answered. -/
  | snpshr (link : Fin 2) (tag : BitVec 12) (addr : BitVec 42)
  /-- CTLRD (R365): A companion control-window read is answered with WinData. -/
  | ctlrd (link : Fin 2) (tag : BitVec 12) (off : BitVec 28) (size : Nat)
  /-- CTLWR (R365): A companion control-window write is applied and answered with WinCmp. -/
  | ctlwr (link : Fin 2) (tag : BitVec 12) (off : BitVec 28) (size : Nat) (value : Word64)
  /-- APRD (R366): A companion HBM-aperture read is answered or refused. -/
  | aprd (link : Fin 2) (tag : BitVec 12) (off : BitVec 36) (size : Nat)
  /-- APWR (R366): A companion HBM-aperture write is applied or refused. -/
  | apwr (link : Fin 2) (tag : BitVec 12) (off : BitVec 36) (mask : WriteMask) (data : List Byte)
  /-- REWATCH_TIMER (R165): RWDELAY after a snoop the device re-reads the submission head line. -/
  | rewatchTimer (ctx : Fin 256)
  /-- HEAD_LINE_POLL (R165): For a ring in HBM the scheduler re-reads the head line every 0.5 µs. -/
  | headLinePoll (ctx : Fin 256)
  /-- BELL_SEND (R369): A queued Bell is sent in BSEQ order, or dropped when the queue is full. -/
  | bellSend
  /-- DISCOVERY_TOKEN (R375): A discovery token on the CCW port sets the stack's position and is forwarded. -/
  | discoveryToken (die : Fin 4) (position : Fin 4)
  /-- DISCOVERY_TIMEOUT (R375): A token not back within 45 ms halts the boot step. -/
  | discoveryTimeout
  /-- D2D_FLIT_RECEIVE (R377): A die-to-die flit is checked by CRC and delivered in order or refused. -/
  | d2dFlitReceive (die : Fin 4) (port : Fin 2) (group : Fin 24) (crcOk : Bool) (badLanes : List (Fin 33)) (flit : BitVec 512)
  /-- D2D_FLIT_REFUSED (R377): A refusal makes the sender replay the group from the refused flit. -/
  | d2dFlitRefused (die : Fin 4) (port : Fin 2) (group : Fin 24) (seq : Nat)
  /-- CROSSING_EVENT (R383): An event crossing handshake delivers at least one pulse to the other domain. -/
  | crossingEvent (die : Fin 4) (dom : Domain) (crossing : Fin 8)
  /-- CROSSING_VALUE (R384): A value crossing delivers one value per round trip. -/
  | crossingValue (die : Fin 4) (dom : Domain) (crossing : Fin 8) (value : Word64)
  /-- CROSSING_DEAD (R386): No ACK within XTO declares the crossing dead and completes requests DOMAINDOWN. -/
  | crossingDead (die : Fin 4) (dom : Domain) (crossing : Fin 8)
  /-- DOMAIN_RESET (R387): A clocked domain and its crossings are drained, cleared and released. -/
  | domainReset (die : Fin 4) (dom : Domain)
  /-- PLL_LOCK_LOSS (R381): A PLL loses lock, LOCK clears and the stack leaves service. -/
  | pllLockLoss (die : Fin 4)
  /-- P0_CLOCK_LOSS (R382): Loss of clock at P0 is device-fatal. -/
  | p0ClockLoss
  /-- WATCH_PERIOD (R388): A watch period advances WATCH_RAW and WATCH_NS by CAL. -/
  | watchPeriod (die : Fin 4)
  /-- WATCH_STOP (R389): No watch period within 1 µs sets WSTOP and falls back to the ring. -/
  | watchStop (die : Fin 4)
  /-- DIE_RESET (R392): A write to DIE_CTL.RESET sends a notice and takes the stack out of service. -/
  | dieReset (die : Fin 4) (value : BitVec 32)
  /-- RESET_NOTICE (R393): A neighbour's reset notice flushes, reclaims and tears down touching contexts. -/
  | resetNotice (die : Fin 4) (port : Fin 2)
  /-- NEIGHBOUR_SILENCE (R392): No flit for LTO makes a neighbour act as for a departed stack. -/
  | neighbourSilence (die : Fin 4) (port : Fin 2)
  /-- DIE_RETURN (R395): A reset stack's PLLs lock and it retrains and returns to service. -/
  | dieReturn (die : Fin 4)
  /-- RUN_EN_RISE (R398): RUN_EN rises with input in range and the regulators start the boot. -/
  | runEnRise (inputMv : Nat) (smbAddr : BitVec 3)
  /-- RUN_EN_FALL (R398): RUN_EN falls and the module goes to OFF. -/
  | runEnFall
  /-- RST_N_RISE (R522): RST_N rises and boot step 1 begins. -/
  | rstNRise
  /-- RST_N_FALL (R522): RST_N low during RUN discards all state and holds the package in reset. -/
  | rstNFall
  /-- FAST_LOOP (R405): Every 1 µs a Bellows updates its bubble fraction from its estimate and share. -/
  | fastLoop (cluster : Fin 32) (a : Activity)
  /-- SLOW_LOOP (R402): Every 1 ms firmware sets the compute budget, shares and corrections. -/
  | slowLoop (m : SlowMeasure)
  /-- MEASONLY_UPDATE (R407): Every 10 µs in estimator fault each cluster sets b from the measured rail. -/
  | measonlyUpdate (die : Fin 4) (pMeasMw : Nat)
  /-- RAIL_SAMPLE (R406): Every 10 µs the rails are sampled. -/
  | railSample (r : RailReading)
  /-- SENSOR_SAMPLE (R411): A die sensor sample sets the thermal factor and junction clamp. -/
  | sensorSample (die : Fin 4) (compute : List Nat) (base : List Nat)
  /-- HBM_TEMP_READ (R412): An HBM stack temperature read sets or releases its issue cap. -/
  | hbmTempRead (stack : Fin 16) (celsius : Nat)
  /-- HARDWARE_TRIP (R413): A sensor crossing its trip level asserts TRIP_N and turns every regulator off. -/
  | hardwareTrip (computeMax baseMax : Nat)
  /-- RAIL_UNDERVOLTAGE (R401): A die rail below 0.50 V for 1 µs takes the stack out of service. -/
  | railUndervoltage (die : Fin 4) (mv ns : Nat)
  /-- INPUT_UNDERVOLTAGE (R521): Input below 40 V over 2 ms or below 36 V makes a hardware trip. -/
  | inputUndervoltage (mv us : Nat)
  /-- EFAULT_CLEAR (R407): Writing 1 to EFAULT ends a stack's estimator fault and restarts k_d. -/
  | efaultClear (mask : BitVec 4)
  /-- CTX_VALID_WRITE (R417): Setting VALID reads and checks the grant; clearing it frees the context. -/
  | ctxValidWrite (ctx : Fin 256) (valid : Bool)
  /-- PREEMPT (R431): CMD PREEMPT pre-empts a resident context at once. -/
  | preempt (ctx : Fin 256)
  /-- SUSPEND (R431): CMD SUSPEND sets SUSP and pre-empts a resident context. -/
  | suspend (ctx : Fin 256)
  /-- RESUME (R431): CMD RESUME clears SUSP. -/
  | resume (ctx : Fin 256)
  /-- TEARDOWN (R431): CMD TEARDOWN tears the context down with a record. -/
  | teardown (ctx : Fin 256)
  /-- SLICE_EXPIRY (R420): A resident context's slice ends and it is pre-empted if a waiter needs its units. -/
  | sliceExpiry (ctx : Fin 256)
  /-- SAVE_COMPLETE (R422): A context's save ends, it becomes SAVED and a waiter may become resident. -/
  | saveComplete (ctx : Fin 256) (us : Nat)
  /-- RESTORE_COMPLETE (R422): A context's restore ends and it runs as RESIDENT. -/
  | restoreComplete (ctx : Fin 256) (us : Nat)
  /-- WINDOW_CLOSE (R426): A non-pre-emptible window closes and the delayed switch proceeds. -/
  | windowClose (ctx : Fin 256)
  /-- RT_SLOT_START (R421): A real-time slot begins and its named context takes precedence. -/
  | rtSlotStart (slot : Fin 64)
  /-- RT_COMMIT (R421): A write applies the real-time slots at the next cycle boundary or is refused. -/
  | rtCommit (value : BitVec 32)
  /-- DONATION (R429): A request queued 100 µs donates the waiter's time to the donee. -/
  | donation (ctx : Fin 256) (sem : Fin 4096)
  /-- REPORT (R444): The security engine produces a signed attestation report. -/
  | report
  /-- CERT (R443): Returns the certificate item named by the index. -/
  | cert (index : BitVec 8)
  /-- KEYAGREE (R448): Establishes the module's single session secret with a bound report. -/
  | keyagree
  /-- ENDSESSION (R450): Erases the session secret, refused in confidential mode. -/
  | endsession
  /-- SEAL (R439): Seals a valid house interleave set. -/
  | seal (set : BitVec 8)
  /-- BUNDLE_OPEN (R453): Opens a weight bundle into a sealed set and binds its groups to a slot. -/
  | bundleOpen
  /-- BUNDLE_CLOSE (R454): Closes a bundle slot unless its groups have an update open. -/
  | bundleClose (slot : BitVec 8)
  /-- PAGE_DRAIN (R465): An open snapshot copies, unprotects, encrypts and writes its next page. -/
  | pageDrain (ctx : Fin 256)
  /-- RESTORE (R475): RES_CMD RESTORE checks an image and writes the context's state back. -/
  | restore (value : Word64)
  /-- ERROR_RECORD_STORE (R486): A record reaches the log and takes an entry, with a Bell. -/
  | errorRecordStore (die : Fin 4)
  /-- ERR_ACK (R486): A write acknowledges and frees a log entry. -/
  | errAck (value : BitVec 32)
  /-- AUDIT_TIMER (R492): Every AUDITMS the audit unit checks the selected Wells. -/
  | auditTimer
  /-- AUDIT_GO (R492): Writing GO audits the selected Wells now. -/
  | auditGo (value : Word64)
  /-- AUDIT_QUIET_TIMEOUT (R492): No quiescent point within 10 ms marks the instance NOTQUIET. -/
  | auditQuietTimeout (well : Fin 7) (inst : BitVec 8)
  /-- BOOT_STEP_END (R498): A boot step try ends and the next try, alternate, failure action or step follows. -/
  | bootStepEnd (step : Fin 14) (inst : BitVec 8) (r : BootResult)
  /-- FW_ERASE (R506): Erases the inactive bank and clears STAGED. -/
  | fwErase
  /-- FW_WRITE (R506): Copies companion bytes into the inactive bank. -/
  | fwWrite
  /-- FW_VERIFY (R506): Validates the inactive bank and sets STAGED when valid. -/
  | fwVerify
  /-- FW_ACTIVATE (R507): Marks the staged bank for trial at the next boot. -/
  | fwActivate
  /-- FW_RAISESVN (R508): Fuses the SVN floor to the running SVN. -/
  | fwRaisesvn
  /-- FW_CLEARALT (R506): Makes every starting mode normal from the next boot. -/
  | fwClearalt
  /-- FW_SHUTDOWN (R506): Writes the SHUTDOWN Ledger record. -/
  | fwShutdown
  /-- FW_COMMAND_DONE (R506): A firmware command ends, DONE sets with a result and an FWEVENT record is written. -/
  | fwCommandDone (flashError : Bool)
  /-- BIST_COMMAND (R511): BIST_CMD runs one cluster target or is refused. -/
  | bistCommand (target : BitVec 8)
  /-- BIST_COMMAND_DONE (R511): A commanded test ends and READY sets on a pass or stays clear on a fail. -/
  | bistCommandDone (misr expect failAddr : Word64) (rowsOk : Bool)
  /-- SMBUS_STATUS (R525): SMBus STATUS returns the module state word. -/
  | smbusStatus (addr : BitVec 7)
  /-- SMBUS_BOOT (R525): SMBus BOOT returns the boot step, instance and code. -/
  | smbusBoot (addr : BitVec 7)
  /-- SMBUS_VIN (R525): SMBus VIN returns the input voltage. -/
  | smbusVin (addr : BitVec 7)
  /-- SMBUS_PIN (R525): SMBus PIN returns the input power. -/
  | smbusPin (addr : BitVec 7)
  /-- SMBUS_CAP (R525): SMBus CAP returns the power cap. -/
  | smbusCap (addr : BitVec 7)
  /-- SMBUS_TEMP (R525): SMBus TEMP returns per-stack temperatures. -/
  | smbusTemp (addr : BitVec 7)
  /-- SMBUS_SERIAL (R525): SMBus SERIAL returns the serial number. -/
  | smbusSerial (addr : BitVec 7)
  /-- SMBUS_PART (R525): SMBus PART returns the part number. -/
  | smbusPart (addr : BitVec 7)
  /-- SMBUS_WRITE_NAK (R525): An SMBus write has its command byte NAKed. -/
  | smbusWriteNak (addr : BitVec 7) (code : Byte)
  /-- EXTEST (R524): The TAP drives boundary pins, accepted only in reset. -/
  | extest (pins : Word64)
  /-- SAMPLE (R524): The TAP samples boundary pins, accepted only in reset. -/
  | sample (pins : Word64)
  /-- PRELOAD (R524): The TAP preloads the boundary register, accepted only in reset. -/
  | preload (pins : Word64)
  /-- BYPASS (R524): The TAP selects the bypass register. -/
  | bypass
  /-- IDCODE (R524): The TAP selects each stack's IDCODE. -/
  | idcode
  /-- RAILS_IN_REGULATION (R523): Some 15 to 25 ms after RUN_EN rises the rails reach regulation: PWR_OK goes high, SMBus answers and, with RST_N already high, boot step 1 begins. -/
  | railsInRegulation
  /-- POWER_DOWN_COMPLETE (R523): 50 ms after a fall of RUN_EN the module finishes its power-down and, when RUN_EN has risen again meanwhile, starts as if RUN_EN had risen at that moment. -/
  | powerDownComplete
  /-- SEC_COMMAND_DONE (R455): A running security command ends: OPEN verifies its tag and binds its slot (or zeroes the destination), KEYAGREE or REPORT finishes, and SEC_RESULT.DONE sets with CODE and LEN. -/
  | secCommandDone
  /-- RESTORE_COMMAND_DONE (R475): A RESTORE finishes writing the pages, the twin payload and the step record, sets RES_NEXT and completes RES_CMDST with its code and UNCHECKED count. -/
  | restoreCommandDone
  deriving DecidableEq, Repr

end Sys2Proof
end

