-- ==== Sys2Proof/Decode.lean ====
section
/-! DEFINITION. Words of the opcode table. The table of this block gives no row any bits, so no word
spells a command; commands arrive as operations of the block's own interfaces. -/
namespace Sys2Proof

/-- The command a word of `nbits` bits spells: none, since no row of spec/opcode_table.json has bits. -/
def decodeTableWord (_nbits _w : Nat) : Option Instr := none

end Sys2Proof
end

