-- ==== Sys2Proof/Config.lean ====
section
/-! DEFINITION. What a part fixes and what the spec leaves open: constants and functions with no
body. Nothing in Lean can compute a value of one of them. -/
namespace Sys2Proof

/-- A fresh value for a result the spec leaves open, indexed by a counter of State (log entry 2). -/
opaque Config.freeWord : Nat → BitVec 64

/-- Transcendental functions of 04 R97, R98: the machine takes a value from here as far as it keeps the error
bound (log entry 2). -/
opaque Config.exp : W32 → W32
opaque Config.exp2 : W32 → W32
opaque Config.log : W32 → W32
opaque Config.log2 : W32 → W32
opaque Config.rsqrt : W32 → W32
opaque Config.tanh : W32 → W32
opaque Config.sigm : W32 → W32
opaque Config.erf : W32 → W32
opaque Config.sin : W32 → W32
opaque Config.cos : W32 → W32

/-- SHA-384 of a byte string (a published standard; 48 bytes). -/
opaque Config.sha384 : List Byte → BitVec 384
/-- HKDF-SHA-384: input key, salt, info, length in bytes. -/
opaque Config.hkdf : List Byte → List Byte → List Byte → Nat → List Byte
/-- AES-256-GCM encryption: key, nonce, associated data, plaintext; ciphertext and 16-byte tag. -/
opaque Config.gcmSeal : List Byte → List Byte → List Byte → List Byte → List Byte × List Byte
/-- AES-256-GCM decryption: key, nonce, associated data, ciphertext, tag; none on a bad tag. -/
opaque Config.gcmOpen : List Byte → List Byte → List Byte → List Byte → List Byte → Option (List Byte)
/-- Ed25519 and ML-DSA-65 (RFC 8032, FIPS 204): public key and signature from a seed. -/
opaque Config.edPublic : List Byte → List Byte
opaque Config.edSign : List Byte → List Byte → List Byte
opaque Config.mldsaPublic : List Byte → List Byte
opaque Config.mldsaSign : List Byte → List Byte → List Byte
/-- X25519 (RFC 7748): public key, shared secret from a private and a public key, a well-formed key. -/
opaque Config.x25519Public : List Byte → List Byte
opaque Config.x25519 : List Byte → List Byte → List Byte
opaque Config.x25519Ok : List Byte → Bool
/-- ML-KEM-768 (FIPS 203): encapsulation key of a seed, ciphertext and secret from a key and coins, secret
from a seed and a ciphertext, a well-formed key. -/
opaque Config.kemPublic : List Byte → List Byte
opaque Config.kemEncaps : List Byte → List Byte → List Byte × List Byte
opaque Config.kemDecaps : List Byte → List Byte → List Byte
opaque Config.kemOk : List Byte → Bool
/-- A firmware image's manifest signatures verify under the fused roots (20 R495). -/
opaque Config.imageOk : List Byte → Bool
/-- Fused secrets: the unique device secret (17 R442) and the family secret (18 R469). -/
opaque Config.uds : List Byte
opaque Config.afs : List Byte

/-- Fused values of the part: the revision (20 R512), the serial number, the manufacturer's JEDEC identity (21 R524), the voltage table
(15 R399), the cluster drops (15 R415), the SVN floor at manufacture (20 R508). -/
opaque Config.partRev : BitVec 8
opaque Config.serial : BitVec 64
opaque Config.jedec : BitVec 11
opaque Config.partNumber : List Byte
opaque Config.vtabMv : Nat → Nat → BitVec 12
opaque Config.vtabFloor : Nat → Nat → BitVec 12
opaque Config.blwTrim : Nat → BitVec 64
opaque Config.fusedSvn : BitVec 32
/-- Fused energy weights of 15 R404 in pJ: by kind of handshake. -/
opaque Config.energyWeight : Nat → Nat
/-- Certificate items 0, 1, 3 and 4 of 17 R443, made at manufacture; items 2 and 5, from the report key, M_mf
and SVN: the spec fixes what an item certifies and not its DER bytes. -/
opaque Config.certItem : Nat → List Byte
opaque Config.reportCert : Nat → List Byte → List Byte → Nat → List Byte

end Sys2Proof
end

