-- ==== Sys2Proof/Machine/Store.lean ====
section
/-! DEFINITION. Sparse tables and byte memories: the one place where reading, writing and the
canonical form of every per-unit piece of state is decided. -/
namespace Sys2Proof.Machine

/-- What table `t`, whose default is `d`, holds at key `k`. -/
def tget {α : Type} (d : α) : Tbl α → Nat → α
  | [], _ => d
  | (k', v) :: r, k => if k = k' then v else tget d r k

/-- Table `t` with an entry for key `k`, placed before the first greater key. -/
def tins {α : Type} : Tbl α → Nat → α → Tbl α
  | [], k, v => [(k, v)]
  | (k', v') :: r, k, v =>
    if k < k' then (k, v) :: (k', v') :: r
    else if k = k' then (k, v) :: r
    else (k', v') :: tins r k v

/-- Table `t` with `v` at key `k`; an entry equal to the default is not listed. -/
def tput {α : Type} [DecidableEq α] (d : α) (t : Tbl α) (k : Nat) (v : α) : Tbl α :=
  if v = d then t.filter fun e => e.1 != k else tins t k v

/-- Table `t` with the entry at `k` changed by `f`. -/
def tmod {α : Type} [DecidableEq α] (d : α) (t : Tbl α) (k : Nat) (f : α → α) : Tbl α :=
  tput d t k (f (tget d t k))

/-- Table `t` with every key from `lo` to `lo + n - 1` back at the default. -/
def tclear {α : Type} (t : Tbl α) (lo n : Nat) : Tbl α :=
  t.filter fun e => !(decide (lo ≤ e.1) && decide (e.1 < lo + n))

/-- Every key of `t` lies above `b` and the keys strictly rise. -/
def tsorted {α : Type} : Nat → Tbl α → Bool
  | _, [] => true
  | b, (k, _) :: r => decide (b ≤ k) && tsorted (k + 1) r

/-- The canonical form of a table: keys strictly rising, no entry equal to the default. -/
def twf {α : Type} [DecidableEq α] (d : α) (t : Tbl α) : Bool :=
  tsorted 0 t && t.all fun e => decide (e.2 ≠ d)

/-- A byte memory: (address, byte) pairs in the canonical form of a table. -/
abbrev Bytes := Tbl Byte

/-- `n` consecutive bytes of a memory whose unlisted addresses read as `d`. -/
def readBytes (d : Byte) (m : Bytes) (a : Nat) : Nat → List Byte
  | 0 => []
  | n + 1 => tget d m a :: readBytes d m (a + 1) n

/-- Consecutive bytes written upwards from `a`. -/
def writeBytes (d : Byte) (m : Bytes) (a : Nat) : List Byte → Bytes
  | [] => m
  | b :: bs => writeBytes d (tput d m a b) (a + 1) bs

/-- The little-endian number that a list of bytes spells (00_scope R5). -/
def leNat : List Byte → Nat
  | [] => 0
  | b :: bs => b.toNat + 256 * leNat bs

/-- The little-endian bytes of a number (00_scope R5). -/
def leBytes : Nat → Nat → List Byte
  | 0, _ => []
  | k + 1, v => BitVec.ofNat 8 v :: leBytes k (v / 256)

/-- The big-endian number that a list of bytes spells (00_scope R5: RMT header fields). -/
def beNat (bs : List Byte) : Nat := leNat bs.reverse

/-- The big-endian bytes of a number. -/
def beBytes (k v : Nat) : List Byte := (leBytes k v).reverse

/-- Bits `lo` to `lo + w - 1` of a number. -/
def bits (v lo w : Nat) : Nat := v / 2 ^ lo % 2 ^ w

/-- Bit `i` of a number. -/
def bit (v i : Nat) : Bool := v / 2 ^ i % 2 == 1

/-- A field of width `w` at bit `lo`, ready to be added to others. -/
def place (v lo w : Nat) : Nat := (v % 2 ^ w) * 2 ^ lo

/-- `v` with bits `lo` to `lo + w - 1` replaced. -/
def insert (v lo w x : Nat) : Nat := v - place (bits v lo w) lo w + place x lo w

/-- The two's-complement value of the low `w` bits. -/
def sext (w v : Nat) : Int :=
  let x := v % 2 ^ w
  if 2 ^ w ≤ 2 * x then (x : Int) - 2 ^ w else x

/-- An integer modulo 2^64, as a register holds it. -/
def wrap64 (i : Int) : Nat := (i % 2 ^ 64).toNat

/-- 0 or 1. -/
def ofBool (b : Bool) : Nat := if b then 1 else 0

/-- The natural numbers from 0 to n - 1. -/
def upTo (n : Nat) : List Nat := List.range n

/-- Cut a list into pieces of `k` elements (`fuel` bounds the number of pieces). -/
def chunksOf {α : Type} (k : Nat) : Nat → List α → List (List α)
  | 0, _ => []
  | f + 1, l => if l.isEmpty then [] else l.take k :: chunksOf k f (l.drop k)

/-- Element `i` of a list changed, when it has one. -/
def lmod {α : Type} (l : List α) (i : Nat) (f : α → α) : List α := l.modify i f

/-- Element `i` of a list dropped. -/
def ldrop {α : Type} (l : List α) (i : Nat) : List α := l.eraseIdx i

end Sys2Proof.Machine
end

