-- ==== Sys2Proof/Machine/W32.lean ====
section
/-! DEFINITION. W32 arithmetic (02 R27, R28): IEEE 754-2019 binary32, every operation computed
exactly over the integers and rounded once, nearest with ties to even, subnormals kept. The
rounding works for every binary format of chapter 02: a format is its mantissa width, bias and
largest finite code. -/
namespace Sys2Proof.Machine

/-- A binary format with a sign above `man` mantissa bits and `ebits` exponent bits (02 R27). -/
structure BinFmt where
  man : Nat
  bias : Nat
  /-- The magnitude code of the largest finite value. -/
  top : Nat
  /-- Bits of the code, sign included. -/
  width : Nat
  deriving DecidableEq, Repr

def fmtKQ4 : BinFmt := ⟨1, 2, 7, 4⟩
def fmtKQ8 : BinFmt := ⟨3, 8, 127, 8⟩
def fmtKW16 : BinFmt := ⟨8, 63, 0x7EFF, 16⟩
def fmtW32 : BinFmt := ⟨23, 127, 0x7F7FFFFF, 32⟩

/-- The magnitude of code `k` counted in the format's smallest subnormal. -/
def BinFmt.units (f : BinFmt) (k : Nat) : Nat :=
  if k < 2 ^ f.man then k else (2 ^ f.man + k % 2 ^ f.man) * 2 ^ (k / 2 ^ f.man - 1)

/-- The largest code whose magnitude is at most `x` units. -/
def BinFmt.floorCode (f : BinFmt) (x : Nat) : Nat :=
  if x < 2 ^ f.man then x
  else
    let e := Nat.log2 x - f.man + 1
    e * 2 ^ f.man + (x / 2 ^ (e - 1) - 2 ^ f.man)

/-- 2^(bias + man - 1): units per 1.0. -/
def BinFmt.one (f : BinFmt) : Nat := 2 ^ (f.bias + f.man - 1)

/-- Twice the out-of-range threshold in units (02 R43): largest finite plus half its ulp. -/
def BinFmt.limit2 (f : BinFmt) : Nat := f.units f.top + f.units (f.top + 1)

/-- The magnitude n/d is at or beyond the out-of-range threshold (02 R43). -/
def BinFmt.outOfRange (f : BinFmt) (n d : Nat) : Bool :=
  decide (f.limit2 * d ≤ 2 * n * f.one)

/-- Nearest code of the magnitude n/d, ties to the code with an even low bit (02 R42). -/
def BinFmt.nearest (f : BinFmt) (n d : Nat) : Nat :=
  let k := f.floorCode (n * f.one / d)
  let m := (f.units k + f.units (k + 1)) * d
  let x := 2 * n * f.one
  if x < m then k else if m < x then k + 1 else if k % 2 = 0 then k else k + 1

/-- Smallest code whose magnitude is at least n/d. -/
def BinFmt.ceil (f : BinFmt) (n d : Nat) : Nat :=
  let k := f.floorCode (n * f.one / d)
  if f.units k * d < n * f.one then k + 1 else k

/-- The canonical NaN 0x7FC0_0000 (02 R28). -/
def w32NaN : W32 := 0x7FC00000#32

def w32IsNaN (x : W32) : Bool := decide (0x7F800000 < x.toNat % 2 ^ 31)
def w32IsInf (x : W32) : Bool := decide (x.toNat % 2 ^ 31 = 0x7F800000)
def w32IsFinite (x : W32) : Bool := decide (x.toNat % 2 ^ 31 < 0x7F800000)
def w32IsZero (x : W32) : Bool := decide (x.toNat % 2 ^ 31 = 0)
/-- The sign bit. -/
def w32Neg (x : W32) : Bool := decide (2 ^ 31 ≤ x.toNat)
/-- Magnitude of a finite code in units of 2^-149. -/
def w32Units (x : W32) : Nat := fmtW32.units (x.toNat % 2 ^ 31)
/-- Signed value of a finite code in units of 2^-149. -/
def w32Int (x : W32) : Int := if w32Neg x then -(w32Units x : Int) else w32Units x

/-- Sign and magnitude code put together. -/
def w32Mk (neg : Bool) (k : Nat) : W32 := BitVec.ofNat 32 (k + if neg then 2 ^ 31 else 0)
def w32Inf (neg : Bool) : W32 := w32Mk neg 0x7F800000

/-- The one rounding of the exact magnitude n/d with its sign (02 R28): overflow gives infinity. -/
def w32Round (neg : Bool) (n d : Nat) : W32 :=
  if fmtW32.outOfRange n d then w32Inf neg else w32Mk neg (fmtW32.nearest n d)

/-- An exact integer count of 2^-k rounded once; an exact zero takes the sign `zneg`. -/
def w32OfInt (v : Int) (k : Nat) (zneg : Bool) : W32 :=
  if v = 0 then w32Mk zneg 0 else w32Round (decide (v < 0)) v.natAbs (2 ^ k)

/-- Every NaN the device makes is the canonical NaN (02 R28). -/
def w32Add (a b : W32) : W32 :=
  if w32IsNaN a || w32IsNaN b then w32NaN
  else if w32IsInf a then (if w32IsInf b && (w32Neg a != w32Neg b) then w32NaN else a)
  else if w32IsInf b then b
  else w32OfInt (w32Int a + w32Int b) 149 (w32Neg a && w32Neg b)

/-- Sign flipped; a NaN becomes the canonical NaN where arithmetic produces it. -/
def w32Flip (a : W32) : W32 := a ^^^ 0x80000000#32

def w32Sub (a b : W32) : W32 := w32Add a (w32Flip b)

def w32Mul (a b : W32) : W32 :=
  let neg := w32Neg a != w32Neg b
  if w32IsNaN a || w32IsNaN b then w32NaN
  else if w32IsInf a then (if w32IsZero b then w32NaN else w32Inf neg)
  else if w32IsInf b then (if w32IsZero a then w32NaN else w32Inf neg)
  else w32OfInt (w32Int a * w32Int b) 298 neg

/-- a × b + c with one rounding. -/
def w32Fma (a b c : W32) : W32 :=
  let neg := w32Neg a != w32Neg b
  if w32IsNaN a || w32IsNaN b || w32IsNaN c then w32NaN
  else if w32IsInf a || w32IsInf b then
    if w32IsZero a || w32IsZero b then w32NaN
    else if w32IsInf c && (w32Neg c != neg) then w32NaN else w32Inf neg
  else if w32IsInf c then c
  else w32OfInt (w32Int a * w32Int b + w32Int c * 2 ^ 149) 298 (neg && w32Neg c)

/-- Correctly rounded a / b. -/
def w32Div (a b : W32) : W32 :=
  let neg := w32Neg a != w32Neg b
  if w32IsNaN a || w32IsNaN b then w32NaN
  else if w32IsInf a then (if w32IsInf b then w32NaN else w32Inf neg)
  else if w32IsInf b then w32Mk neg 0
  else if w32IsZero b then (if w32IsZero a then w32NaN else w32Inf neg)
  else if w32IsZero a then w32Mk neg 0
  else w32Round neg (w32Units a) (w32Units b)

/-- Integer square root, one result bit a round (`k` rounds). -/
def isqrt : Nat → Nat → Nat → Nat
  | 0, _, r => r
  | k + 1, n, r =>
    let t := r + 2 ^ k
    isqrt k n (if t * t ≤ n then t else r)

/-- Correctly rounded square root: √(U·2^-149) from an integer root of U·2^161 with a sticky bit. -/
def w32Sqrt (a : W32) : W32 :=
  if w32IsNaN a then w32NaN
  else if w32IsZero a then a
  else if w32Neg a then w32NaN
  else if w32IsInf a then a
  else
    let n := w32Units a * 2 ^ 161
    let r := isqrt 224 n 0
    w32Round false (2 * r + if r * r = n then 0 else 1) (2 ^ 156)

/-- a < b, false when unordered. -/
def w32Lt (a b : W32) : Bool :=
  if w32IsNaN a || w32IsNaN b then false
  else
    let key (x : W32) : Int :=
      if w32Neg x then -((x.toNat % 2 ^ 31 : Nat) : Int) else ((x.toNat % 2 ^ 31 : Nat) : Int)
    decide (key a < key b)

/-- a = b as values: the zeros are equal, NaN equals nothing. -/
def w32Eq (a b : W32) : Bool :=
  !(w32IsNaN a) && !(w32IsNaN b) && (a == b || (w32IsZero a && w32IsZero b))

def w32Le (a b : W32) : Bool := w32Lt a b || w32Eq a b

/-- W32 of a natural number, rounded once. -/
def w32OfNat (n : Nat) : W32 := if n = 0 then 0#32 else w32Round false n 1

def w32One : W32 := 0x3F800000#32

end Sys2Proof.Machine
end

