-- ==== Sys2Proof/Machine/Formats.lean ====
section
/-! DEFINITION. The formats of chapter 02 (R27–R53): decoding to exact values, the one rounding of
every conversion, the fine-scale choice, stochastic draws and what each element reports. -/
namespace Sys2Proof.Machine

/-- Element formats (02 R49 DFMT order). -/
inductive Fmt where
  | w32 | kw16 | kq8 | kq4
  deriving DecidableEq, Repr

def Fmt.bin : Fmt → BinFmt
  | .w32 => fmtW32
  | .kw16 => fmtKW16
  | .kq8 => fmtKQ8
  | .kq4 => fmtKQ4

/-- Bits of one element (02 R27). -/
def Fmt.bits (f : Fmt) : Nat := f.bin.width
/-- Whether a tensor of the format carries scales (02 R33). -/
def Fmt.scaled : Fmt → Bool
  | .kq8 | .kq4 => true
  | _ => false
/-- Bytes of `n` elements. -/
def Fmt.bytes (f : Fmt) (n : Nat) : Nat := (n * f.bits + 7) / 8

/-- DFMT of 02 R49. -/
def Fmt.ofCode : Nat → Option Fmt
  | 0 => some .w32
  | 1 => some .kw16
  | 2 => some .kq8
  | 3 => some .kq4
  | _ => none

/-- The exact value of a source element: a signed fraction, an infinity, or NaN and poison alike
(02 R41, R45). -/
inductive Src where
  | fin (neg : Bool) (n d : Nat)
  | inf (neg : Bool)
  | nan
  deriving DecidableEq, Repr

/-- The code every NaN or poison result is written as (02 R45). -/
def poisonCode : Fmt → Nat
  | .kq4 => 8
  | .kq8 => 0x80
  | .kw16 => 0x7F80
  | .w32 => 0x7FC00000

/-- A KS8 code in units of 2^-17; a zero block is 0 (02 R32). -/
def ks8Units (s : Nat) : Nat := if s / 8 = 0 then 0 else (8 + s % 8) * 2 ^ (s / 8 - 1)

/-- A coarse scale is valid: positive, finite, nonzero (02 R36). -/
def coarseOk (c : W32) : Bool := w32IsFinite c && !(w32Neg c) && !(w32IsZero c)

/-- Exact value of a W32 code. -/
def srcW32 (x : W32) : Src :=
  if w32IsNaN x then .nan else if w32IsInf x then .inf (w32Neg x)
  else .fin (w32Neg x) (w32Units x) (2 ^ 149)

/-- Exact value of an element code of a format without regard to scales. -/
def srcPlain (f : Fmt) (code : Nat) : Src :=
  let sgn := decide (2 ^ (f.bits - 1) ≤ code % 2 ^ f.bits)
  let k := code % 2 ^ (f.bits - 1)
  match f with
  | .w32 => srcW32 (BitVec.ofNat 32 code)
  | .kw16 => if k < 0x7F00 then .fin sgn (fmtKW16.units k) fmtKW16.one
             else if k = 0x7F00 then .inf sgn else .nan
  | .kq8 => if sgn && k == 0 then .nan else .fin sgn (fmtKQ8.units k) fmtKQ8.one
  | .kq4 => if sgn && k == 0 then .nan else .fin sgn (fmtKQ4.units k) fmtKQ4.one

/-- Exact value of a stored element: element × fine × coarse (02 R33). A block whose fine scale has e = 0 decodes
as +0 but for poison (02 R39); under any other fine scale an invalid coarse scale makes the value a NaN (02 R36). -/
def srcElem (f : Fmt) (code fine : Nat) (coarse : W32) : Src :=
  if f.scaled then
    match srcPlain f code with
    | .fin neg n d =>
      if ks8Units fine = 0 then .fin false 0 1
      else if coarseOk coarse then .fin neg (n * ks8Units fine * w32Units coarse) (d * 2 ^ 166)
      else .nan
    | r => r
  else srcPlain f code

/-- The exact value of W32 × coarse × coarse, each scale finite (02 R51, R58 step 6). -/
def srcScale (x : Src) (c : W32) : Src :=
  match x with
  | .fin neg n d => .fin neg (n * w32Units c) (d * 2 ^ 149)
  | r => r

/-- Element classes of 02 R52. -/
inductive CClass where
  | nonfin | sat | zero | ordinary
  deriving DecidableEq, Repr

/-- The counts and maximum magnitude a write stream reports (02 R52, R53). -/
structure Census where
  zero : Nat := 0
  sat : Nat := 0
  nonfin : Nat := 0
  max : Nat := 0
  deriving DecidableEq, Repr

def Census.add (a b : Census) : Census :=
  ⟨a.zero + b.zero, a.sat + b.sat, a.nonfin + b.nonfin, Nat.max a.max b.max⟩

/-- |v| rounded toward +∞ to W32 and capped (02 R53); 0 for a non-finite source. -/
def magReport : Src → Nat
  | .fin _ n d => Nat.min 0x7F7FFFFF (fmtW32.ceil n d)
  | _ => 0

/-- Count one element (02 R52). -/
def Census.count (c : Census) (k : CClass) (v : Src) : Census :=
  let c := { c with max := Nat.max c.max (magReport v) }
  match k with
  | .nonfin => { c with nonfin := c.nonfin + 1 }
  | .sat => { c with sat := c.sat + 1 }
  | .zero => { c with zero := c.zero + 1 }
  | .ordinary => c

/-- A decoded conversion-control byte (02 R49). -/
structure Cvc where
  fmt : Fmt
  sr : Bool
  sat : Bool
  given : Bool
  deriving DecidableEq, Repr

/-- Decode a conversion-control byte; `none` when it is illegal (02 R49, R50, default range R43). -/
def cvcDecode (c : Nat) : Option Cvc :=
  match Fmt.ofCode (bits c 0 3) with
  | none => none
  | some f =>
    let sr := bit c 3
    let rg := bits c 4 2
    let fsm := bit c 6
    if rg = 3 || bit c 7 || (sr && f == .w32) || (fsm && !f.scaled) then none
    else some ⟨f, sr, if rg = 0 then f.scaled else rg == 1, fsm⟩

/-- The stochastic draw u of 02 R47. -/
def draw (step : Word64) (tslot i : Nat) : Nat :=
  let z := step * 0x9E3779B97F4A7C15#64 + BitVec.ofNat 64 (tslot * 2 ^ 40) + BitVec.ofNat 64 i
  let z := (z ^^^ (z >>> 30)) * 0xBF58476D1CE4E5B9#64
  let z := (z ^^^ (z >>> 27)) * 0x94D049BB133111EB#64
  let z := z ^^^ (z >>> 31)
  z.toNat / 2 ^ 32

/-- The adjacent code a stochastic draw chooses below the threshold (02 R48). -/
def stochastic (f : BinFmt) (n d u : Nat) : Nat :=
  let k := f.floorCode (n * f.one / d)
  if f.top ≤ k then f.top
  else
    let lo := f.units k * d
    let hi := f.units (k + 1) * d
    if u * (hi - lo) < (n * f.one - lo) * 2 ^ 32 then k + 1 else k

/-- A magnitude code with its sign; KQ4 and KQ8 write zero without one (02 R46). -/
def signCode (f : Fmt) (neg : Bool) (k : Nat) : Nat :=
  if neg && !(f.scaled && k == 0) then k + 2 ^ (f.bits - 1) else k

/-- Saturated or strict code of an out-of-range or infinite value (02 R44, R45). -/
def beyond (f : Fmt) (sat neg : Bool) : Nat :=
  if sat then signCode f neg f.bin.top
  else if f.scaled then poisonCode f else signCode f neg (f.bin.top + 1)

/-- Convert one value: `n/d` is the magnitude to be coded, already divided by s·c for a scaled
destination; `zeroBlock` says a given scale is a zero block (02 R40–R48). -/
def convCode (c : Cvc) (zeroBlock : Bool) (u : Nat) (v : Src) : Nat × CClass :=
  match v with
  | .nan => (poisonCode c.fmt, .nonfin)
  | .inf neg => (beyond c.fmt c.sat neg, .nonfin)
  | .fin neg n d =>
    if (if zeroBlock then n != 0 else c.fmt.bin.outOfRange n d) then
      (beyond c.fmt c.sat neg, if c.sat then .sat else .nonfin)
    else
      let k := if zeroBlock then 0
               else if c.sr then stochastic c.fmt.bin n d u else c.fmt.bin.nearest n d
      (signCode c.fmt neg k, if k = 0 then .zero else .ordinary)

/-- q = v / (s · c) (02 R41). -/
def quot (s : Nat) (c : W32) : Src → Src
  | .fin neg n d => .fin neg (n * 2 ^ 166) (d * (ks8Units s * w32Units c))
  | r => r

/-- Emax of KQ4 and KQ8 (02 Choosing the fine scale). -/
def emax : Fmt → Nat
  | .kq4 => 3
  | _ => 240

/-- n1/d1 ≤ n2/d2. -/
def fracLe (a b : Nat × Nat) : Bool := decide (a.1 * b.2 ≤ b.1 * a.2)

/-- Largest exact magnitude of the finite values of a block (02 amax). -/
def amax : List Src → Nat × Nat
  | [] => (0, 1)
  | .fin _ n d :: r => let m := amax r; if fracLe m (n, d) then (n, d) else m
  | _ :: r => amax r

/-- Whether some value of the block is not finite. -/
def anyNonfin (vs : List Src) : Bool :=
  vs.any fun v => match v with
    | .fin _ _ _ => false
    | _ => true

/-- The derived fine scale of a block (02 R38, R39). -/
def deriveScale (f : Fmt) (c : W32) (vs : List Src) : Nat :=
  let m := amax vs
  if m.1 = 0 then (if anyNonfin vs then 0x08 else 0x00)
  else
    let n := m.1 * 2 ^ 166
    let d := m.2 * (w32Units c * emax f)
    let k := fmtKQ8.floorCode (n / d)
    let k := if fmtKQ8.units k * d < n then k + 1 else k
    Nat.min 255 (Nat.max 8 k)

/-- One block converted: codes of its valid elements in order, the scale byte to write (`none`
when it stays), and the census (02 R34, R36–R53). `us` are the draws of its elements. `coarse` is
the destination coarse scale; `srcBad` says that some source coarse scale was invalid: each element counts as a NaN
then, and the maximum magnitude is 0 (log entry 44). -/
def convBlock (c : Cvc) (coarse : W32) (srcBad : Bool) (given : Nat) (vs : List Src)
    (us : List Nat) : List Nat × Option Nat × Census :=
  if srcBad || (c.fmt.scaled && !(coarseOk coarse)) then
    (vs.map fun _ => poisonCode c.fmt,
     if c.fmt.scaled && !c.given then some 0x08 else none,
     vs.foldl (fun k v => k.count .nonfin (if srcBad then .nan else v)) {})
  else if c.fmt.scaled then
    let s := if c.given then given else deriveScale c.fmt coarse vs
    let zb := decide (ks8Units s = 0)
    let r := (vs.zip us).map fun p => (p.1, convCode c zb p.2 (if zb then p.1 else quot s coarse p.1))
    (r.map fun x => x.2.1, if c.given then none else some s,
     r.foldl (fun k x => k.count x.2.2 x.1) {})
  else
    let r := (vs.zip us).map fun p => (p.1, convCode c false p.2 p.1)
    (r.map fun x => x.2.1, none, r.foldl (fun k x => k.count x.2.2 x.1) {})

/-- A value of any format as a W32, one rounding (02 R51). -/
def toW32 (v : Src) : W32 :=
  BitVec.ofNat 32 (convCode ⟨.w32, false, false, false⟩ false 0 v).1

/-- Pack element codes into bytes, low bits first (02 R35). -/
def packCodes : Fmt → List Nat → List Byte
  | .kq4, a :: b :: r => BitVec.ofNat 8 (a % 16 + b % 16 * 16) :: packCodes .kq4 r
  | .kq4, [a] => [BitVec.ofNat 8 (a % 16)]
  | _, [] => []
  | f, a :: r => leBytes (f.bits / 8) a ++ packCodes f r

/-- The element codes a list of bytes holds (02 R35); `n` of them. -/
def unpackCodes (f : Fmt) : Nat → List Byte → List Nat
  | 0, _ => []
  | n + 1, bs =>
    match f with
    | .kq4 =>
      match bs with
      | [] => 0 :: unpackCodes f n []
      | b :: r =>
        b.toNat % 16 :: (match n with
          | 0 => []
          | m + 1 => b.toNat / 16 :: unpackCodes f m r)
    | _ => leNat (bs.take (f.bits / 8)) :: unpackCodes f n (bs.drop (f.bits / 8))

end Sys2Proof.Machine
end

