-- ==== Sys2Proof/Machine/RegMap.lean ====
section
/-! DEFINITION. The control space (05 R142): every register the spec gives, by block, with the
access type, change class, range and reset value of each of its fields (00 R7–R15, R530). -/
namespace Sys2Proof.Machine

/-- A field of a register: the register's control-space offset, its lowest bit, width and reset. -/
structure Fld where
  off : Nat
  lo : Nat
  w : Nat
  reset : Nat
  deriving DecidableEq, Repr

/-- The key under which a field's value is stored. -/
def Fld.key (f : Fld) : Nat := f.off * 64 + f.lo

/-- Access types (00 R9). -/
inductive Access where
  | rw | ro | wo | w1c | rc
  deriving DecidableEq, Repr

/-- Change classes (00 R12); `none` for a field without one. -/
inductive Class where
  | none | live | staged | locked | init
  deriving DecidableEq, Repr

/-- The set of values that a field's table gives as meaningful (00 R530). -/
inductive Range where
  | any
  | le (hi : Nat)
  | between (lo hi : Nat)
  | mult (k : Nat)
  /-- A cluster target of BIST: 32·die + t, t from 0 to 7 or from 16 to 23 (20 R509). -/
  | cluster
  deriving DecidableEq, Repr

def Range.ok : Range → Nat → Bool
  | .any, _ => true
  | .le hi, v => decide (v ≤ hi)
  | .between lo hi, v => decide (lo ≤ v) && decide (v ≤ hi)
  | .mult k, v => decide (v % k = 0)
  | .cluster, v => decide (v < 128) && decide (v % 16 < 8)

structure FDesc where
  f : Fld
  acc : Access
  cls : Class
  rng : Range
  deriving DecidableEq, Repr

/-- A register: its offset, its width in bits and its fields; every other bit is reserved. -/
structure Reg where
  off : Nat
  width : Nat
  fields : List FDesc
  deriving DecidableEq, Repr

/-- Offset of die stack Pn (05 R142). -/
def dieOff (d : Nat) : Nat := 0x1000000 + 0x1000000 * d

/-- Offset of the cluster with package-wide number k = 8·die + cluster (05 R142). -/
def clOff (k : Nat) : Nat := dieOff (k / 8) + 0x100000 + 0x10000 * (k % 8)

namespace F

def meStatusState (g e : Nat) : Fld := ⟨clOff (g / 8) + 0x1000 * (g % 8) + 0x100 + 0x80 * e, 0, 2, 0⟩
def meStatusEndk (g e : Nat) : Fld := ⟨clOff (g / 8) + 0x1000 * (g % 8) + 0x100 + 0x80 * e, 2, 1, 0⟩
def meStatusQdepth (g e : Nat) : Fld := ⟨clOff (g / 8) + 0x1000 * (g % 8) + 0x100 + 0x80 * e, 8, 4, 0⟩
def mePosSeg0 (g e : Nat) : Fld := ⟨clOff (g / 8) + 0x1000 * (g % 8) + 0x100 + 0x80 * e + 0x4, 0, 16, 0⟩
def mePosBlkinseg (g e : Nat) : Fld := ⟨clOff (g / 8) + 0x1000 * (g % 8) + 0x100 + 0x80 * e + 0x4, 16, 8, 0⟩
def meSpanSpancnt (g e : Nat) : Fld := ⟨clOff (g / 8) + 0x1000 * (g % 8) + 0x100 + 0x80 * e + 0x8, 0, 17, 0⟩
def meTagTag (g e : Nat) : Fld := ⟨clOff (g / 8) + 0x1000 * (g % 8) + 0x100 + 0x80 * e + 0xC, 0, 32, 0⟩
def meBusy (g e : Nat) : Fld := ⟨clOff (g / 8) + 0x1000 * (g % 8) + 0x100 + 0x80 * e + 0x10, 0, 64, 0⟩
def meStall (g e : Nat) : Fld := ⟨clOff (g / 8) + 0x1000 * (g % 8) + 0x100 + 0x80 * e + 0x18, 0, 64, 0⟩
def mePoison (g e : Nat) : Fld := ⟨clOff (g / 8) + 0x1000 * (g % 8) + 0x100 + 0x80 * e + 0x20, 0, 64, 0⟩
def meFaultsEncoding (g e : Nat) : Fld := ⟨clOff (g / 8) + 0x1000 * (g % 8) + 0x100 + 0x80 * e + 0x28, 0, 16, 0⟩
def meFaultsSequence (g e : Nat) : Fld := ⟨clOff (g / 8) + 0x1000 * (g % 8) + 0x100 + 0x80 * e + 0x28, 16, 16, 0⟩
def veStatusBusy (g : Nat) : Fld := ⟨clOff (g / 8) + 0x1000 * (g % 8) + 0x200, 0, 1, 0⟩
def veStatusQdepth (g : Nat) : Fld := ⟨clOff (g / 8) + 0x1000 * (g % 8) + 0x200, 8, 4, 0⟩
def veCfgVmode (g : Nat) : Fld := ⟨clOff (g / 8) + 0x1000 * (g % 8) + 0x200 + 0x4, 0, 1, 0⟩
def veCfgWbase (g : Nat) : Fld := ⟨clOff (g / 8) + 0x1000 * (g % 8) + 0x200 + 0x4, 16, 4, 0⟩
def veFusedPass (g : Nat) : Fld := ⟨clOff (g / 8) + 0x1000 * (g % 8) + 0x200 + 0x8, 0, 2, 0⟩
def veFusedChunk (g : Nat) : Fld := ⟨clOff (g / 8) + 0x1000 * (g % 8) + 0x200 + 0x8, 8, 9, 0⟩
def veBusy (g : Nat) : Fld := ⟨clOff (g / 8) + 0x1000 * (g % 8) + 0x200 + 0x10, 0, 64, 0⟩
def vePortwait (g : Nat) : Fld := ⟨clOff (g / 8) + 0x1000 * (g % 8) + 0x200 + 0x18, 0, 64, 0⟩
def veSuppress (g : Nat) : Fld := ⟨clOff (g / 8) + 0x1000 * (g % 8) + 0x200 + 0x20, 0, 64, 0⟩
def veFaultsEncoding (g : Nat) : Fld := ⟨clOff (g / 8) + 0x1000 * (g % 8) + 0x200 + 0x28, 0, 16, 0⟩
def veFaultsSequence (g : Nat) : Fld := ⟨clOff (g / 8) + 0x1000 * (g % 8) + 0x200 + 0x28, 16, 16, 0⟩
def veBounds (g : Nat) : Fld := ⟨clOff (g / 8) + 0x1000 * (g % 8) + 0x200 + 0x2C, 0, 32, 0⟩
def cmWayOwner (k w : Nat) : Fld := ⟨clOff k + 0x8000 + 4 * w, 0, 8, 0⟩
def cmWayValid (k w : Nat) : Fld := ⟨clOff k + 0x8000 + 4 * w, 8, 1, 0⟩
def cmWayMode (k w : Nat) : Fld := ⟨clOff k + 0x8000 + 4 * w, 9, 1, 0⟩
def cmWayZeroing (k w : Nat) : Fld := ⟨clOff k + 0x8000 + 4 * w, 10, 1, 0⟩
def hbmStatusTrained (h : Nat) : Fld := ⟨dieOff (h / 4) + 0xC0000 + 0x10000 * (h % 4), 0, 1, 0⟩
def hbmStatusDisabled (h : Nat) : Fld := ⟨dieOff (h / 4) + 0xC0000 + 0x10000 * (h % 4), 1, 1, 0⟩
def hbmStatusHot (h : Nat) : Fld := ⟨dieOff (h / 4) + 0xC0000 + 0x10000 * (h % 4), 2, 1, 0⟩
def hbmScrubHours (h : Nat) : Fld := ⟨dieOff (h / 4) + 0xC0000 + 0x10000 * (h % 4) + 0x4, 0, 8, 24⟩
def hbmCe (h : Nat) : Fld := ⟨dieOff (h / 4) + 0xC0000 + 0x10000 * (h % 4) + 0x8, 0, 64, 0⟩
def hbmUe (h : Nat) : Fld := ⟨dieOff (h / 4) + 0xC0000 + 0x10000 * (h % 4) + 0x10, 0, 64, 0⟩
def hbmUeaddrAddr (h : Nat) : Fld := ⟨dieOff (h / 4) + 0xC0000 + 0x10000 * (h % 4) + 0x18, 0, 40, 0⟩
def hbmRdbytes (h : Nat) : Fld := ⟨dieOff (h / 4) + 0xC0000 + 0x10000 * (h % 4) + 0x20, 0, 64, 0⟩
def hbmWrbytes (h : Nat) : Fld := ⟨dieOff (h / 4) + 0xC0000 + 0x10000 * (h % 4) + 0x28, 0, 64, 0⟩
def isDescValid (n : Nat) : Fld := ⟨0xD0100 + 8 * n, 0, 1, 0⟩
def isDescGran (n : Nat) : Fld := ⟨0xD0100 + 8 * n, 2, 2, 1⟩
def isDescLns (n : Nat) : Fld := ⟨0xD0100 + 8 * n, 8, 3, 0⟩
def isDescLw (n : Nat) : Fld := ⟨0xD0100 + 8 * n, 16, 3, 0⟩
def isDescBstack (n : Nat) : Fld := ⟨0xD0100 + 8 * n, 20, 4, 0⟩
def isDescBpc (n : Nat) : Fld := ⟨0xD0100 + 8 * n, 24, 5, 0⟩
def isDescOwner (n : Nat) : Fld := ⟨0xD0100 + 8 * n, 32, 8, 0⟩
def isDescHouse (n : Nat) : Fld := ⟨0xD0100 + 8 * n, 40, 1, 0⟩
def memCfgPtset : Fld := ⟨0xD0000, 0, 8, 0⟩
def memTinvCtx : Fld := ⟨0xD0000 + 0x8, 0, 8, 0⟩
def memTinvScope : Fld := ⟨0xD0000 + 0x8, 8, 2, 0⟩
def memTinvCva : Fld := ⟨0xD0000 + 0x8, 21, 27, 0⟩
def memTinvStDone : Fld := ⟨0xD0000 + 0x10, 0, 1, 1⟩
def schCapMajor : Fld := ⟨0x50000, 0, 4, 1⟩
def schCapMinor : Fld := ⟨0x50000, 4, 4, 0⟩
def schCapIsa : Fld := ⟨0x50000, 8, 8, 1⟩
def schCapLcohort : Fld := ⟨0x50000, 16, 3, 3⟩
def schCapFeat : Fld := ⟨0x50000, 32, 32, 0⟩
def schCfgPset : Fld := ⟨0x50000 + 0x8, 0, 8, 0⟩
def schEmberInuse : Fld := ⟨0x50000 + 0x10, 0, 15, 0⟩
def schEmbIssue : Fld := ⟨0x50000 + 0x18, 0, 64, 0⟩
def schEmbReturn : Fld := ⟨0x50000 + 0x20, 0, 64, 0⟩
def schProbeCtx : Fld := ⟨0x50000 + 0x28, 0, 8, 0⟩
def schProbeSubseq : Fld := ⟨0x50000 + 0x28, 8, 16, 0⟩
def schProbeTask : Fld := ⟨0x50000 + 0x28, 24, 20, 0⟩
def schProbeResState : Fld := ⟨0x50000 + 0x30, 0, 3, 0⟩
def schProbeResValid : Fld := ⟨0x50000 + 0x30, 3, 1, 0⟩
def schProbeResIdone : Fld := ⟨0x50000 + 0x30, 8, 21, 0⟩
def sqBaseAddr (x : Nat) : Fld := ⟨0x51000 + 0x40 * x, 6, 42, 0⟩
def sqCfgLog2size (x : Nat) : Fld := ⟨0x51000 + 0x40 * x + 0x8, 0, 4, 4⟩
def sqCfgEnable (x : Nat) : Fld := ⟨0x51000 + 0x40 * x + 0x8, 8, 1, 0⟩
def sqCfgGraphMax (x : Nat) : Fld := ⟨0x51000 + 0x40 * x + 0x8, 16, 7, 16⟩
def sqStatHead (x : Nat) : Fld := ⟨0x51000 + 0x40 * x + 0xC, 0, 16, 0⟩
def sqStatState (x : Nat) : Fld := ⟨0x51000 + 0x40 * x + 0xC, 16, 2, 0⟩
def sqStatErr (x : Nat) : Fld := ⟨0x51000 + 0x40 * x + 0xC, 24, 8, 0⟩
def cqBaseAddr (x : Nat) : Fld := ⟨0x51000 + 0x40 * x + 0x10, 6, 42, 0⟩
def cqCfgLog2size (x : Nat) : Fld := ⟨0x51000 + 0x40 * x + 0x18, 0, 4, 4⟩
def cqCfgBell (x : Nat) : Fld := ⟨0x51000 + 0x40 * x + 0x18, 8, 1, 0⟩
def cqPtrTail (x : Nat) : Fld := ⟨0x51000 + 0x40 * x + 0x1C, 0, 16, 0⟩
def cqPtrHead (x : Nat) : Fld := ⟨0x51000 + 0x40 * x + 0x1C, 16, 16, 0⟩
def ctxSchedEmberQuota (x : Nat) : Fld := ⟨0x51000 + 0x40 * x + 0x20, 0, 15, 0⟩
def ctxSchedActive (x : Nat) : Fld := ⟨0x51000 + 0x40 * x + 0x20, 16, 7, 0⟩
def ctxEmbersHeld (x : Nat) : Fld := ⟨0x51000 + 0x40 * x + 0x24, 0, 15, 0⟩
def semCount (n : Nat) : Fld := ⟨0x58000 + 8 * n, 0, 32, 0⟩
def semOwner (n : Nat) : Fld := ⟨0x58000 + 8 * n, 32, 8, 0⟩
def semValid (n : Nat) : Fld := ⟨0x58000 + 8 * n, 40, 1, 0⟩
def semPeer (n : Nat) : Fld := ⟨0x58000 + 8 * n, 48, 8, 0⟩
def semPeeren (n : Nat) : Fld := ⟨0x58000 + 8 * n, 56, 1, 0⟩
def tallyZero (n : Nat) : Fld := ⟨0xB0000 + 32 * n, 0, 48, 0⟩
def tallySat (n : Nat) : Fld := ⟨0xB0000 + 32 * n + 0x8, 0, 48, 0⟩
def tallyNonfin (n : Nat) : Fld := ⟨0xB0000 + 32 * n + 0x10, 0, 48, 0⟩
def tallyMaxMaxmag (n : Nat) : Fld := ⟨0xB0000 + 32 * n + 0x18, 0, 32, 0⟩
def tallyCtlOwner (n : Nat) : Fld := ⟨0xB0000 + 32 * n + 0x1C, 0, 8, 0⟩
def tallyCtlValid (n : Nat) : Fld := ⟨0xB0000 + 32 * n + 0x1C, 8, 1, 0⟩
def tallyCtlWatch (n : Nat) : Fld := ⟨0xB0000 + 32 * n + 0x1C, 9, 1, 0⟩
def tallyCtlLivenf (n : Nat) : Fld := ⟨0xB0000 + 32 * n + 0x1C, 16, 1, 0⟩
def tallyCtlOvf (n : Nat) : Fld := ⟨0xB0000 + 32 * n + 0x1C, 17, 1, 0⟩
def smyCfgGset : Fld := ⟨dieOff 0 + 0x20000, 0, 8, 0⟩
def smyCfgGvalid : Fld := ⟨dieOff 0 + 0x20000, 8, 1, 0⟩
def smyStatusState (d : Nat) : Fld := ⟨dieOff d + 0x20000 + 0x4, 0, 3, 0⟩
def smyStatusCtx (d : Nat) : Fld := ⟨dieOff d + 0x20000 + 0x4, 8, 8, 0⟩
def smyStatusOpen (d : Nat) : Fld := ⟨dieOff d + 0x20000 + 0x4, 16, 3, 0⟩
def smyChunks (d : Nat) : Fld := ⟨dieOff d + 0x20000 + 0x8, 0, 64, 0⟩
def smyRedos (d : Nat) : Fld := ⟨dieOff d + 0x20000 + 0x10, 0, 64, 0⟩
def smyBusy (d : Nat) : Fld := ⟨dieOff d + 0x20000 + 0x18, 0, 64, 0⟩
def smyRetIssue (d : Nat) : Fld := ⟨dieOff d + 0x20000 + 0x20, 0, 64, 0⟩
def smyRetReturn (d : Nat) : Fld := ⟨dieOff d + 0x20000 + 0x28, 0, 64, 0⟩
def smyExpCtlCtx : Fld := ⟨dieOff 0 + 0x20000 + 0x30, 0, 8, 0⟩
def smyExpCtlGo : Fld := ⟨dieOff 0 + 0x20000 + 0x30, 8, 1, 0⟩
def smyExpShardCva : Fld := ⟨dieOff 0 + 0x20000 + 0x38, 0, 64, 0⟩
def smyExpDstCva : Fld := ⟨dieOff 0 + 0x20000 + 0x40, 0, 64, 0⟩
def smyExpStDone : Fld := ⟨dieOff 0 + 0x20000 + 0x48, 0, 1, 1⟩
def smyExpStResult : Fld := ⟨dieOff 0 + 0x20000 + 0x48, 4, 4, 0⟩
def stqCfgValid (n : Nat) : Fld := ⟨0xA8000 + 0x40 * n, 0, 1, 0⟩
def stqCfgRole (n : Nat) : Fld := ⟨0xA8000 + 0x40 * n, 1, 1, 0⟩
def stqCfgLstage (n : Nat) : Fld := ⟨0xA8000 + 0x40 * n, 2, 2, 0⟩
def stqCfgOwner (n : Nat) : Fld := ⟨0xA8000 + 0x40 * n, 8, 8, 0⟩
def stqCfgWsem (n : Nat) : Fld := ⟨0xA8000 + 0x40 * n, 16, 12, 0⟩
def stqCfgTsem (n : Nat) : Fld := ⟨0xA8000 + 0x40 * n, 32, 12, 0⟩
def stqCfgNslot (n : Nat) : Fld := ⟨0xA8000 + 0x40 * n, 48, 8, 0⟩
def stqCfgStg (n : Nat) : Fld := ⟨0xA8000 + 0x40 * n, 56, 8, 0⟩
def stqPeerLink (n : Nat) : Fld := ⟨0xA8000 + 0x40 * n + 0x8, 0, 4, 0⟩
def stqPeerPeerq (n : Nat) : Fld := ⟨0xA8000 + 0x40 * n + 0x8, 8, 8, 0⟩
def stqPeerDie (n : Nat) : Fld := ⟨0xA8000 + 0x40 * n + 0x8, 16, 2, 0⟩
def stqPeerSlotb (n : Nat) : Fld := ⟨0xA8000 + 0x40 * n + 0x8, 32, 32, 0⟩
def stqBufAddr (n : Nat) : Fld := ⟨0xA8000 + 0x40 * n + 0x10, 6, 42, 0⟩
def stqIssue (n : Nat) : Fld := ⟨0xA8000 + 0x40 * n + 0x18, 0, 64, 0⟩
def stqReturn (n : Nat) : Fld := ⟨0xA8000 + 0x40 * n + 0x20, 0, 64, 0⟩
def stqReclaim (n : Nat) : Fld := ⟨0xA8000 + 0x40 * n + 0x28, 0, 64, 0⟩
def stgFullTicks (k : Nat) : Fld := ⟨0xAC000 + 0x10 * k, 0, 64, 0⟩
def stgEmptyTicks (k : Nat) : Fld := ⟨0xAC000 + 0x10 * k + 0x8, 0, 64, 0⟩
def colCfgMset : Fld := ⟨0xA0000, 0, 8, 0⟩
def colCfgMvalid : Fld := ⟨0xA0000, 8, 1, 0⟩
def colCfgStall : Fld := ⟨0xA0000, 16, 16, 100⟩
def colCmds : Fld := ⟨0xA0000 + 0x8, 0, 64, 0⟩
def colAborts : Fld := ⟨0xA0000 + 0x10, 0, 64, 0⟩
def colSwaps : Fld := ⟨0xA0000 + 0x18, 0, 64, 0⟩
def colLate : Fld := ⟨0xA0000 + 0x20, 0, 64, 0⟩
def colRingAddr (x : Nat) : Fld := ⟨0xA1000 + 0x20 * x, 6, 42, 0⟩
def colCtlLog2size (x : Nat) : Fld := ⟨0xA1000 + 0x20 * x + 0x8, 0, 4, 4⟩
def colCtlEnable (x : Nat) : Fld := ⟨0xA1000 + 0x20 * x + 0x8, 8, 1, 0⟩
def colCtlGosem (x : Nat) : Fld := ⟨0xA1000 + 0x20 * x + 0x8, 16, 12, 0⟩
def colCtlRslot (x : Nat) : Fld := ⟨0xA1000 + 0x20 * x + 0x8, 32, 3, 0⟩
def colCtlRvalid (x : Nat) : Fld := ⟨0xA1000 + 0x20 * x + 0x8, 35, 1, 0⟩
def colCtlPslot (x : Nat) : Fld := ⟨0xA1000 + 0x20 * x + 0x8, 36, 3, 0⟩
def colCtlPvalid (x : Nat) : Fld := ⟨0xA1000 + 0x20 * x + 0x8, 39, 1, 0⟩
def colCtlInflight (x : Nat) : Fld := ⟨0xA1000 + 0x20 * x + 0x8, 40, 3, 0⟩
def colHeadHead (x : Nat) : Fld := ⟨0xA1000 + 0x20 * x + 0x10, 0, 16, 0⟩
def colLastappStep (x : Nat) : Fld := ⟨0xA1000 + 0x20 * x + 0x18, 0, 64, 0xffffffffffffffff⟩
def rmtCfgUdpport (d : Nat) : Fld := ⟨dieOff d + 0x30000, 0, 16, 0x5a1c⟩
def rmtCfgCset (d : Nat) : Fld := ⟨dieOff d + 0x30000, 16, 8, 0⟩
def rmtCfgKset (d : Nat) : Fld := ⟨dieOff d + 0x30000, 24, 8, 0⟩
def rmtCfgTvalid (d : Nat) : Fld := ⟨dieOff d + 0x30000, 32, 1, 0⟩
def rmtTimersRto (d : Nat) : Fld := ⟨dieOff d + 0x30000 + 0x8, 0, 16, 200⟩
def rmtTimersHopn (d : Nat) : Fld := ⟨dieOff d + 0x30000 + 0x8, 16, 4, 3⟩
def rmtTimersRetrymax (d : Nat) : Fld := ⟨dieOff d + 0x30000 + 0x8, 20, 8, 12⟩
def rmtTimersNpl (d : Nat) : Fld := ⟨dieOff d + 0x30000 + 0x8, 32, 16, 100⟩
def rmtTimersBusywait (d : Nat) : Fld := ⟨dieOff d + 0x30000 + 0x8, 48, 16, 20⟩
def rmtRateTmeas (d : Nat) : Fld := ⟨dieOff d + 0x30000 + 0x10, 0, 8, 16⟩
def rmtRateBeta (d : Nat) : Fld := ⟨dieOff d + 0x30000 + 0x10, 8, 8, 128⟩
def rmtRateHoldn (d : Nat) : Fld := ⟨dieOff d + 0x30000 + 0x10, 16, 4, 2⟩
def rmtRateStep0 (d : Nat) : Fld := ⟨dieOff d + 0x30000 + 0x10, 24, 12, 20⟩
def rmtRateStepmax (d : Nat) : Fld := ⟨dieOff d + 0x30000 + 0x10, 36, 12, 800⟩
def rmtRateRmin (d : Nat) : Fld := ⟨dieOff d + 0x30000 + 0x10, 48, 12, 1⟩
def rmtBufMarkth (d : Nat) : Fld := ⟨dieOff d + 0x30000 + 0x18, 0, 16, 1536⟩
def rmtBufBusyth (d : Nat) : Fld := ⟨dieOff d + 0x30000 + 0x18, 16, 16, 5120⟩
def rmtCcmdSlot (d : Nat) : Fld := ⟨dieOff d + 0x30000 + 0x20, 0, 16, 0⟩
def rmtCcmdOp (d : Nat) : Fld := ⟨dieOff d + 0x30000 + 0x20, 16, 2, 0⟩
def rmtCstatDone (d : Nat) : Fld := ⟨dieOff d + 0x30000 + 0x28, 0, 1, 1⟩
def rmtCstatResult (d : Nat) : Fld := ⟨dieOff d + 0x30000 + 0x28, 1, 3, 0⟩
def rmtCstatState (d : Nat) : Fld := ⟨dieOff d + 0x30000 + 0x28, 8, 3, 0⟩
def rmtCstatCached (d : Nat) : Fld := ⟨dieOff d + 0x30000 + 0x28, 11, 1, 0⟩
def rmtCstatPath (d : Nat) : Fld := ⟨dieOff d + 0x30000 + 0x28, 12, 3, 0⟩
def rmtCstatEpoch (d : Nat) : Fld := ⟨dieOff d + 0x30000 + 0x28, 32, 32, 0⟩
def rmtKcmdIndex : Fld := ⟨dieOff 0 + 0x30000 + 0x30, 0, 20, 0⟩
def rmtKcmdOp : Fld := ⟨dieOff 0 + 0x30000 + 0x30, 20, 2, 0⟩
def rmtKstatDone : Fld := ⟨dieOff 0 + 0x30000 + 0x38, 0, 1, 1⟩
def rmtKstatResult : Fld := ⟨dieOff 0 + 0x30000 + 0x38, 1, 3, 0⟩
def rmtKstatGen : Fld := ⟨dieOff 0 + 0x30000 + 0x38, 4, 12, 0⟩
def rmtKstatAborted : Fld := ⟨dieOff 0 + 0x30000 + 0x38, 16, 16, 0⟩
def rmtTxcIssue (d : Nat) : Fld := ⟨dieOff d + 0x30000 + 0x40, 0, 64, 0⟩
def rmtTxcReturn (d : Nat) : Fld := ⟨dieOff d + 0x30000 + 0x48, 0, 64, 0⟩
def rmtTxcReclaim (d : Nat) : Fld := ⟨dieOff d + 0x30000 + 0x50, 0, 64, 0⟩
def rmtCacheConns (d : Nat) : Fld := ⟨dieOff d + 0x30000 + 0x58, 0, 13, 0⟩
def rmtCacheKeys (d : Nat) : Fld := ⟨dieOff d + 0x30000 + 0x58, 16, 14, 0⟩
def rmtRingAddr (x : Nat) : Fld := ⟨dieOff 0 + 0x31000 + 0x20 * x, 6, 42, 0⟩
def rmtCtlLog2size (x : Nat) : Fld := ⟨dieOff 0 + 0x31000 + 0x20 * x + 0x8, 0, 4, 4⟩
def rmtCtlEnable (x : Nat) : Fld := ⟨dieOff 0 + 0x31000 + 0x20 * x + 0x8, 8, 1, 0⟩
def rmtCtlGosem (x : Nat) : Fld := ⟨dieOff 0 + 0x31000 + 0x20 * x + 0x8, 16, 12, 0⟩
def rmtCtlInflight (x : Nat) : Fld := ⟨dieOff 0 + 0x31000 + 0x20 * x + 0x8, 32, 7, 0⟩
def rmtHeadHead (x : Nat) : Fld := ⟨dieOff 0 + 0x31000 + 0x20 * x + 0x10, 0, 16, 0⟩
def rmtDebtDebt (x : Nat) : Fld := ⟨dieOff 0 + 0x31000 + 0x20 * x + 0x14, 0, 32, 0⟩
def portCfgEnable (p : Nat) : Fld := ⟨dieOff (p / 8) + 0x40000 + 0x10000 * (p % 8), 0, 1, 0⟩
def portCfgMode (p : Nat) : Fld := ⟨dieOff (p / 8) + 0x40000 + 0x10000 * (p % 8), 1, 4, 0⟩
def portCfgPmd (p : Nat) : Fld := ⟨dieOff (p / 8) + 0x40000 + 0x10000 * (p % 8), 5, 2, 0⟩
def portCfgAn (p : Nat) : Fld := ⟨dieOff (p / 8) + 0x40000 + 0x10000 * (p % 8), 7, 1, 1⟩
def portCfgPause (p : Nat) : Fld := ⟨dieOff (p / 8) + 0x40000 + 0x10000 * (p % 8), 8, 2, 0⟩
def portCfgBcast (p : Nat) : Fld := ⟨dieOff (p / 8) + 0x40000 + 0x10000 * (p % 8), 10, 1, 1⟩
def portCfgDefprio (p : Nat) : Fld := ⟨dieOff (p / 8) + 0x40000 + 0x10000 * (p % 8), 12, 3, 0⟩
def portCfgMaxframe (p : Nat) : Fld := ⟨dieOff (p / 8) + 0x40000 + 0x10000 * (p % 8), 16, 14, 9216⟩
def portStatusLinkup (p : Nat) : Fld := ⟨dieOff (p / 8) + 0x40000 + 0x10000 * (p % 8) + 0x8, 0, 1, 0⟩
def portStatusFeclock (p : Nat) : Fld := ⟨dieOff (p / 8) + 0x40000 + 0x10000 * (p % 8) + 0x8, 1, 1, 0⟩
def portStatusLfault (p : Nat) : Fld := ⟨dieOff (p / 8) + 0x40000 + 0x10000 * (p % 8) + 0x8, 2, 1, 0⟩
def portStatusRfault (p : Nat) : Fld := ⟨dieOff (p / 8) + 0x40000 + 0x10000 * (p % 8) + 0x8, 3, 1, 0⟩
def portStatusAndone (p : Nat) : Fld := ⟨dieOff (p / 8) + 0x40000 + 0x10000 * (p % 8) + 0x8, 4, 1, 0⟩
def portStatusLanes (p : Nat) : Fld := ⟨dieOff (p / 8) + 0x40000 + 0x10000 * (p % 8) + 0x8, 8, 4, 0⟩
def portStatusXofftx (p : Nat) : Fld := ⟨dieOff (p / 8) + 0x40000 + 0x10000 * (p % 8) + 0x8, 16, 8, 0⟩
def portStatusXoffrx (p : Nat) : Fld := ⟨dieOff (p / 8) + 0x40000 + 0x10000 * (p % 8) + 0x8, 24, 8, 0⟩
def portCommitCommit (p : Nat) : Fld := ⟨dieOff (p / 8) + 0x40000 + 0x10000 * (p % 8) + 0xC, 0, 1, 0⟩
def portCommitRefused (p : Nat) : Fld := ⟨dieOff (p / 8) + 0x40000 + 0x10000 * (p % 8) + 0xC, 1, 1, 0⟩
def portVlanVid (p : Nat) : Fld := ⟨dieOff (p / 8) + 0x40000 + 0x10000 * (p % 8) + 0x10, 0, 12, 0⟩
def portVlanTagen (p : Nat) : Fld := ⟨dieOff (p / 8) + 0x40000 + 0x10000 * (p % 8) + 0x10, 12, 1, 0⟩
def portLaneTxinv (p : Nat) : Fld := ⟨dieOff (p / 8) + 0x40000 + 0x10000 * (p % 8) + 0x14, 0, 4, 0⟩
def portLaneRxinv (p : Nat) : Fld := ⟨dieOff (p / 8) + 0x40000 + 0x10000 * (p % 8) + 0x14, 4, 4, 0⟩
def portWdogWdms (p : Nat) : Fld := ⟨dieOff (p / 8) + 0x40000 + 0x10000 * (p % 8) + 0x18, 0, 16, 20⟩
def portWdogRestms (p : Nat) : Fld := ⟨dieOff (p / 8) + 0x40000 + 0x10000 * (p % 8) + 0x18, 16, 16, 100⟩
def portWdstatFired (p : Nat) : Fld := ⟨dieOff (p / 8) + 0x40000 + 0x10000 * (p % 8) + 0x1C, 0, 8, 0⟩
def portWdstatGenstop (p : Nat) : Fld := ⟨dieOff (p / 8) + 0x40000 + 0x10000 * (p % 8) + 0x1C, 8, 8, 0⟩
def portIpv4Addr (p : Nat) : Fld := ⟨dieOff (p / 8) + 0x40000 + 0x10000 * (p % 8) + 0x20, 0, 32, 0⟩
def portIpv6LoAddr (p : Nat) : Fld := ⟨dieOff (p / 8) + 0x40000 + 0x10000 * (p % 8) + 0x28, 0, 64, 0⟩
def portIpv6HiAddr (p : Nat) : Fld := ⟨dieOff (p / 8) + 0x40000 + 0x10000 * (p % 8) + 0x30, 0, 64, 0⟩
def portUcAddr (p i : Nat) : Fld := ⟨dieOff (p / 8) + 0x40000 + 0x10000 * (p % 8) + 0x40 + 8 * i, 0, 48, 0⟩
def portUcValid (p i : Nat) : Fld := ⟨dieOff (p / 8) + 0x40000 + 0x10000 * (p % 8) + 0x40 + 8 * i, 48, 1, 0⟩
def portMcAddr (p i : Nat) : Fld := ⟨dieOff (p / 8) + 0x40000 + 0x10000 * (p % 8) + 0x80 + 8 * i, 0, 48, 0⟩
def portMcValid (p i : Nat) : Fld := ⟨dieOff (p / 8) + 0x40000 + 0x10000 * (p % 8) + 0x80 + 8 * i, 48, 1, 0⟩
def portPrioShare (p q : Nat) : Fld := ⟨dieOff (p / 8) + 0x40000 + 0x10000 * (p % 8) + 0xC0 + 8 * q, 0, 16, if q = 0 then 6144 else 0⟩
def portPrioXoff (p q : Nat) : Fld := ⟨dieOff (p / 8) + 0x40000 + 0x10000 * (p % 8) + 0xC0 + 8 * q, 16, 16, 0⟩
def portPrioXon (p q : Nat) : Fld := ⟨dieOff (p / 8) + 0x40000 + 0x10000 * (p % 8) + 0xC0 + 8 * q, 32, 16, 0⟩
def portPrioPfcen (p q : Nat) : Fld := ⟨dieOff (p / 8) + 0x40000 + 0x10000 * (p % 8) + 0xC0 + 8 * q, 48, 1, 0⟩
def plCfgEnable (l : Nat) : Fld := ⟨0x60000 + 0x10000 * l, 0, 1, 0⟩
def plCfgMaxw (l : Nat) : Fld := ⟨0x60000 + 0x10000 * l, 1, 2, 0⟩
def plCfgRwdelay (l : Nat) : Fld := ⟨0x60000 + 0x10000 * l, 4, 4, 5⟩
def plCfgReplaymax (l : Nat) : Fld := ⟨0x60000 + 0x10000 * l, 8, 4, 8⟩
def plStatusState (l : Nat) : Fld := ⟨0x60000 + 0x10000 * l + 0x4, 0, 3, 0⟩
def plStatusTxw (l : Nat) : Fld := ⟨0x60000 + 0x10000 * l + 0x4, 3, 2, 3⟩
def plStatusRxw (l : Nat) : Fld := ⟨0x60000 + 0x10000 * l + 0x4, 5, 2, 3⟩
def plStatusConf (l : Nat) : Fld := ⟨0x60000 + 0x10000 * l + 0x4, 7, 1, 0⟩
def plStatusKeysel (l : Nat) : Fld := ⟨0x60000 + 0x10000 * l + 0x4, 8, 1, 0⟩
def plStatusReversed (l : Nat) : Fld := ⟨0x60000 + 0x10000 * l + 0x4, 9, 1, 0⟩
def plLanesTxok (l : Nat) : Fld := ⟨0x60000 + 0x10000 * l + 0x8, 0, 16, 0⟩
def plLanesRxok (l : Nat) : Fld := ⟨0x60000 + 0x10000 * l + 0x8, 16, 16, 0⟩
def plApbaseSet (l : Nat) : Fld := ⟨0x60000 + 0x10000 * l + 0x10, 0, 8, 0⟩
def plApbaseValid (l : Nat) : Fld := ⟨0x60000 + 0x10000 * l + 0x10, 8, 1, 0⟩
def plApbaseOffgb (l : Nat) : Fld := ⟨0x60000 + 0x10000 * l + 0x10, 32, 16, 0⟩
def dieIdPos (d : Nat) : Fld := ⟨dieOff d, 0, 2, 0⟩
def dieIdRot (d : Nat) : Fld := ⟨dieOff d, 2, 2, 0⟩
def dieIdMirror (d : Nat) : Fld := ⟨dieOff d, 4, 1, 0⟩
def dieIdDisc (d : Nat) : Fld := ⟨dieOff d, 5, 1, 0⟩
def dieCtlReset (d : Nat) : Fld := ⟨dieOff d + 0x4, 0, 1, 0⟩
def dieStatusInservice (d : Nat) : Fld := ⟨dieOff d + 0x8, 0, 1, 0⟩
def dieStatusLock (d : Nat) : Fld := ⟨dieOff d + 0x8, 1, 1, 0⟩
def dieStatusWstop (d : Nat) : Fld := ⟨dieOff d + 0x8, 2, 1, 0⟩
def dieStatusLastcause (d : Nat) : Fld := ⟨dieOff d + 0x8, 8, 2, 0⟩
def dieXtoXto (d : Nat) : Fld := ⟨dieOff d + 0xC, 0, 16, 50⟩
def watchRaw (d : Nat) : Fld := ⟨dieOff d + 0x10, 0, 64, 0⟩
def watchNs (d : Nat) : Fld := ⟨dieOff d + 0x18, 0, 64, 0⟩
def watchCalCal (d : Nat) : Fld := ⟨dieOff d + 0x20, 0, 32, 0x28000000⟩
def dieSeqSeq (d : Nat) : Fld := ⟨dieOff d + 0x24, 0, 32, 0⟩
def xtimeout (d : Nat) : Fld := ⟨dieOff d + 0x28, 0, 64, 0⟩
def xdrop (d : Nat) : Fld := ⟨dieOff d + 0x30, 0, 64, 0⟩
def d2dStatusTxgrp (d k : Nat) : Fld := ⟨dieOff d + 0x10000 + 0x1000 * k, 0, 24, 0⟩
def d2dStatusRxgrp (d k : Nat) : Fld := ⟨dieOff d + 0x10000 + 0x1000 * k, 24, 24, 0⟩
def d2dStatusUp (d k : Nat) : Fld := ⟨dieOff d + 0x10000 + 0x1000 * k, 48, 1, 0⟩
def d2dStatusPeer (d k : Nat) : Fld := ⟨dieOff d + 0x10000 + 0x1000 * k, 49, 2, 0⟩
def d2dSpareTxspared (d k : Nat) : Fld := ⟨dieOff d + 0x10000 + 0x1000 * k + 0x8, 0, 24, 0⟩
def d2dSpareRxspared (d k : Nat) : Fld := ⟨dieOff d + 0x10000 + 0x1000 * k + 0x8, 24, 24, 0⟩
def d2dCfgLaneth (d k : Nat) : Fld := ⟨dieOff d + 0x10000 + 0x1000 * k + 0x10, 0, 8, 16⟩
def d2dCfgLto (d k : Nat) : Fld := ⟨dieOff d + 0x10000 + 0x1000 * k + 0x10, 8, 8, 20⟩
def d2dCrIssue (d k : Nat) : Fld := ⟨dieOff d + 0x10000 + 0x1000 * k + 0x18, 0, 64, 0⟩
def d2dCrReturn (d k : Nat) : Fld := ⟨dieOff d + 0x10000 + 0x1000 * k + 0x20, 0, 64, 0⟩
def d2dCrReclaim (d k : Nat) : Fld := ⟨dieOff d + 0x10000 + 0x1000 * k + 0x28, 0, 64, 0⟩
def d2dCrcerr (d k : Nat) : Fld := ⟨dieOff d + 0x10000 + 0x1000 * k + 0x30, 0, 64, 0⟩
def d2dReplay (d k : Nat) : Fld := ⟨dieOff d + 0x10000 + 0x1000 * k + 0x38, 0, 64, 0⟩
def d2dRepairs (d k : Nat) : Fld := ⟨dieOff d + 0x10000 + 0x1000 * k + 0x40, 0, 64, 0⟩
def d2dRetires (d k : Nat) : Fld := ⟨dieOff d + 0x10000 + 0x1000 * k + 0x48, 0, 64, 0⟩
def d2dFlush (d k : Nat) : Fld := ⟨dieOff d + 0x10000 + 0x1000 * k + 0x50, 0, 64, 0⟩
def pwrCfgCap : Fld := ⟨0x30000, 0, 11, 1400⟩
def pwrStatusState : Fld := ⟨0x30000 + 0x4, 0, 2, 1⟩
def pwrStatusEfault : Fld := ⟨0x30000 + 0x4, 2, 4, 0⟩
def pwrStatusHbmthr : Fld := ⟨0x30000 + 0x4, 6, 3, 0⟩
def pwrStatusRmtthr : Fld := ⟨0x30000 + 0x4, 9, 3, 0⟩
def pwrStatusAlert : Fld := ⟨0x30000 + 0x4, 12, 1, 0⟩
def pwrInputMw : Fld := ⟨0x30000 + 0x8, 0, 32, 0⟩
def pwrEnergyUj : Fld := ⟨0x30000 + 0x10, 0, 64, 0⟩
def pwrOver : Fld := ⟨0x30000 + 0x18, 0, 64, 0⟩
def pwrDieVpoint (d : Nat) : Fld := ⟨0x30020 + 4 * d, 0, 3, 7⟩
def pwrDieKd (d : Nat) : Fld := ⟨0x30020 + 4 * d, 8, 10, 256⟩
def pwrRailCompmw (d : Nat) : Fld := ⟨0x30040 + 8 * d, 0, 32, 0⟩
def pwrRailBasemw (d : Nat) : Fld := ⟨0x30040 + 8 * d, 32, 32, 0⟩
def pwrDamperFrac (c : Nat) : Fld := ⟨0x30060 + 4 * c, 0, 17, 2048⟩
def pwrVtabVmv (d p : Nat) : Fld := ⟨0x30100 + 0x20 * d + 4 * p, 0, 12, 0⟩
def pwrVtabFloor (d p : Nat) : Fld := ⟨0x30100 + 0x20 * d + 4 * p, 12, 12, 0⟩
def pwrTempTcmax (d : Nat) : Fld := ⟨0x30200 + 8 * d, 0, 8, 0⟩
def pwrTempTbmax (d : Nat) : Fld := ⟨0x30200 + 8 * d, 8, 8, 0⟩
def pwrTempThbm (d : Nat) : Fld := ⟨0x30200 + 8 * d, 16, 32, 0⟩
def blwStatusBub (k : Nat) : Fld := ⟨clOff k + 0xC000, 0, 8, 0⟩
def blwStatusF (k : Nat) : Fld := ⟨clOff k + 0xC000, 8, 8, 0xff⟩
def blwStatusJclamp (k : Nat) : Fld := ⟨clOff k + 0xC000, 16, 1, 0⟩
def blwStatusMeasonly (k : Nat) : Fld := ⟨clOff k + 0xC000, 17, 1, 0⟩
def blwShareMw (k : Nat) : Fld := ⟨clOff k + 0xC000 + 0x4, 0, 32, 0⟩
def blwBubbles (k : Nat) : Fld := ⟨clOff k + 0xC000 + 0x8, 0, 64, 0⟩
def blwEstUj (k : Nat) : Fld := ⟨clOff k + 0xC000 + 0x10, 0, 64, 0⟩
def blwTrimDrop (k : Nat) : Fld := ⟨clOff k + 0xC000 + 0x18, 0, 64, 0⟩
def ctxCtlValid (x : Nat) : Fld := ⟨0x80000 + 0x40 * x, 0, 1, 0⟩
def ctxCtlCmd (x : Nat) : Fld := ⟨0x80000 + 0x40 * x, 8, 3, 0⟩
def ctxStateState (x : Nat) : Fld := ⟨0x80000 + 0x40 * x + 0x4, 0, 3, 0⟩
def ctxStateSusp (x : Nat) : Fld := ⟨0x80000 + 0x40 * x + 0x4, 3, 1, 0⟩
def ctxStateDonated (x : Nat) : Fld := ⟨0x80000 + 0x40 * x + 0x4, 4, 1, 0⟩
def ctxStateCmdbusy (x : Nat) : Fld := ⟨0x80000 + 0x40 * x + 0x4, 5, 1, 0⟩
def ctxStateOverrun (x : Nat) : Fld := ⟨0x80000 + 0x40 * x + 0x4, 16, 16, 0⟩
def accBeats (x : Nat) : Fld := ⟨0x80000 + 0x40 * x + 0x8, 0, 64, 0⟩
def accHbm (x : Nat) : Fld := ⟨0x80000 + 0x40 * x + 0x10, 0, 64, 0⟩
def accNet (x : Nat) : Fld := ⟨0x80000 + 0x40 * x + 0x18, 0, 64, 0⟩
def accPuell (x : Nat) : Fld := ⟨0x80000 + 0x40 * x + 0x20, 0, 64, 0⟩
def accEnergy (x : Nat) : Fld := ⟨0x80000 + 0x40 * x + 0x28, 0, 64, 0⟩
def accRestime (x : Nat) : Fld := ⟨0x80000 + 0x40 * x + 0x30, 0, 64, 0⟩
def accCfgGset : Fld := ⟨0x88000, 0, 8, 0⟩
def accCfgGvalid : Fld := ⟨0x88000, 8, 1, 0⟩
def accCfgRten : Fld := ⟨0x88000, 9, 1, 0⟩
def accTotalNj : Fld := ⟨0x88000 + 0x8, 0, 64, 0⟩
def accHouseNj : Fld := ⟨0x88000 + 0x10, 0, 64, 0⟩
def accRetiredNj : Fld := ⟨0x88000 + 0x18, 0, 64, 0⟩
def accSwlastUs : Fld := ⟨0x88000 + 0x20, 0, 32, 0⟩
def accSwmaxUs : Fld := ⟨0x88000 + 0x24, 0, 32, 0⟩
def accDonate : Fld := ⟨0x88000 + 0x28, 0, 64, 0⟩
def accDonblock : Fld := ⟨0x88000 + 0x30, 0, 64, 0⟩
def rtSlotCtx (i : Nat) : Fld := ⟨0x88100 + 4 * i, 0, 8, 0⟩
def rtSlotValid (i : Nat) : Fld := ⟨0x88100 + 4 * i, 8, 1, 0⟩
def rtSlotLen (i : Nat) : Fld := ⟨0x88100 + 4 * i, 12, 20, 0⟩
def rtCommitCommit : Fld := ⟨0x88200, 0, 1, 0⟩
def rtStatusSlot : Fld := ⟨0x88200 + 0x4, 0, 6, 0⟩
def rtStatusRefused : Fld := ⟨0x88200 + 0x4, 6, 1, 0⟩
def secStatusState : Fld := ⟨0x40000, 0, 2, 2⟩
def secStatusConf : Fld := ⟨0x40000, 2, 1, 0⟩
def secStatusSession : Fld := ⟨0x40000, 3, 1, 0⟩
def secStatusReason : Fld := ⟨0x40000, 8, 5, 1⟩
def secStatusDiemask : Fld := ⟨0x40000, 16, 4, 0⟩
def secCmdOp : Fld := ⟨0x40000 + 0x4, 0, 4, 0⟩
def secCmdArg : Fld := ⟨0x40000 + 0x4, 8, 8, 0⟩
def secResultDone : Fld := ⟨0x40000 + 0x8, 0, 1, 1⟩
def secResultCode : Fld := ⟨0x40000 + 0x8, 4, 4, 0⟩
def secResultLen : Fld := ⟨0x40000 + 0x8, 16, 16, 0⟩
def secSvnSvn : Fld := ⟨0x40000 + 0xC, 0, 32, 0⟩
def secTenantTenant (x : Nat) : Fld := ⟨0x40100 + 4 * x, 0, 8, 0⟩
def secSealSealed (k : Nat) : Fld := ⟨0x40500 + 4 * k, 0, 32, 0⟩
def bundleStatValid (b : Nat) : Fld := ⟨0x40600 + 0x40 * b, 0, 1, 0⟩
def bundleStatExport (b : Nat) : Fld := ⟨0x40600 + 0x40 * b, 1, 1, 0⟩
def bundleStatConfreq (b : Nat) : Fld := ⟨0x40600 + 0x40 * b, 2, 1, 0⟩
def bundleStatGroup0 (b : Nat) : Fld := ⟨0x40600 + 0x40 * b, 16, 16, 0⟩
def bundleNNgroup (b : Nat) : Fld := ⟨0x40600 + 0x40 * b + 0x4, 0, 16, 0⟩
def bundleSvnMinsvn (b : Nat) : Fld := ⟨0x40600 + 0x40 * b + 0x8, 0, 32, 0⟩
def bundleId0Bundleid (b : Nat) : Fld := ⟨0x40600 + 0x40 * b + 0x10, 0, 32, 0⟩
def bundleId1Bundleid (b : Nat) : Fld := ⟨0x40600 + 0x40 * b + 0x14, 0, 32, 0⟩
def bundleId2Bundleid (b : Nat) : Fld := ⟨0x40600 + 0x40 * b + 0x18, 0, 32, 0⟩
def bundleId3Bundleid (b : Nat) : Fld := ⟨0x40600 + 0x40 * b + 0x1C, 0, 32, 0⟩
def resCfgSset : Fld := ⟨0x90000, 0, 32, 0⟩
def resCfgSvalid : Fld := ⟨0x90000, 32, 4, 0⟩
def resPoolFree : Fld := ⟨0x90000 + 0x8, 0, 18, 0⟩
def resStgIssue : Fld := ⟨0x90000 + 0x10, 0, 64, 0⟩
def resStgReturn : Fld := ⟨0x90000 + 0x18, 0, 64, 0⟩
def resStgReclaim : Fld := ⟨0x90000 + 0x20, 0, 64, 0⟩
def resFtc : Fld := ⟨0x90000 + 0x28, 0, 64, 0⟩
def resDrained : Fld := ⟨0x90000 + 0x30, 0, 64, 0⟩
def resAbandon : Fld := ⟨0x90000 + 0x38, 0, 64, 0⟩
def resSkips : Fld := ⟨0x90000 + 0x40, 0, 64, 0⟩
def resCmdOp : Fld := ⟨0x90000 + 0x48, 0, 3, 0⟩
def resCmdCtx : Fld := ⟨0x90000 + 0x48, 8, 8, 0⟩
def resCmdAddr : Fld := ⟨0x90000 + 0x48, 16, 36, 0⟩
def resCmdstDone : Fld := ⟨0x90000 + 0x50, 0, 1, 1⟩
def resCmdstCode : Fld := ⟨0x90000 + 0x50, 4, 4, 0⟩
def resCmdstUnchecked : Fld := ⟨0x90000 + 0x50, 32, 12, 0⟩
def resListAddr (x : Nat) : Fld := ⟨0x91000 + 0x80 * x, 6, 42, 0⟩
def resListNreg (x : Nat) : Fld := ⟨0x91000 + 0x80 * x, 48, 7, 0⟩
def resCtlEnable (x : Nat) : Fld := ⟨0x91000 + 0x80 * x + 0x8, 0, 1, 0⟩
def resCtlK (x : Nat) : Fld := ⟨0x91000 + 0x80 * x + 0x8, 1, 10, 200⟩
def resCtlTdepth (x : Nat) : Fld := ⟨0x91000 + 0x80 * x + 0x8, 16, 11, 16⟩
def resCtlStgquota (x : Nat) : Fld := ⟨0x91000 + 0x80 * x + 0x8, 32, 18, 0⟩
def resNextApplied (x : Nat) : Fld := ⟨0x91000 + 0x80 * x + 0x10, 0, 64, 0⟩
def resImg0Addr (x : Nat) : Fld := ⟨0x91000 + 0x80 * x + 0x18, 0, 42, 0⟩
def resImg1Addr (x : Nat) : Fld := ⟨0x91000 + 0x80 * x + 0x20, 0, 42, 0⟩
def resImglenBytes (x : Nat) : Fld := ⟨0x91000 + 0x80 * x + 0x28, 0, 64, 0⟩
def resJobidLoJobid (x : Nat) : Fld := ⟨0x91000 + 0x80 * x + 0x30, 0, 64, 0⟩
def resJobidHiJobid (x : Nat) : Fld := ⟨0x91000 + 0x80 * x + 0x38, 0, 64, 0⟩
def resRankRank (x : Nat) : Fld := ⟨0x91000 + 0x80 * x + 0x40, 0, 16, 0⟩
def resSnapState (x : Nat) : Fld := ⟨0x91000 + 0x80 * x + 0x44, 0, 3, 0⟩
def resSnapArea (x : Nat) : Fld := ⟨0x91000 + 0x80 * x + 0x44, 3, 1, 0⟩
def resSnapLastarea (x : Nat) : Fld := ⟨0x91000 + 0x80 * x + 0x44, 4, 1, 0⟩
def resSnapReason (x : Nat) : Fld := ⟨0x91000 + 0x80 * x + 0x44, 5, 3, 0⟩
def resSnapstepStep (x : Nat) : Fld := ⟨0x91000 + 0x80 * x + 0x48, 0, 64, 0⟩
def resLastStep (x : Nat) : Fld := ⟨0x91000 + 0x80 * x + 0x50, 0, 64, 2 ^ 64 - 1⟩
def resTwinConn (x : Nat) : Fld := ⟨0x91000 + 0x80 * x + 0x58, 0, 32, 0xffffffff⟩
def resTwinKey (x : Nat) : Fld := ⟨0x91000 + 0x80 * x + 0x58, 32, 32, 0⟩
def resTwinbaseOffset (x : Nat) : Fld := ⟨0x91000 + 0x80 * x + 0x60, 0, 64, 0⟩
def resTwinstState (x : Nat) : Fld := ⟨0x91000 + 0x80 * x + 0x68, 0, 2, 0⟩
def resStgHeld (x : Nat) : Fld := ⟨0x91000 + 0x80 * x + 0x6C, 0, 18, 0⟩
def resTwinwaitUs (x : Nat) : Fld := ⟨0x91000 + 0x80 * x + 0x70, 0, 64, 0⟩
def resTwlocalCva (x : Nat) : Fld := ⟨0x91000 + 0x80 * x + 0x78, 0, 64, 0⟩
def errCfgBellcorr : Fld := ⟨0x20000, 0, 1, 0⟩
def errCfgAuditms : Fld := ⟨0x20000, 8, 8, 100⟩
def errStatusCount : Fld := ⟨0x20000 + 0x4, 0, 8, 0⟩
def errStatusFull : Fld := ⟨0x20000 + 0x4, 8, 1, 0⟩
def errStatusFatal : Fld := ⟨0x20000 + 0x4, 9, 1, 0⟩
def errStatusLogbad : Fld := ⟨0x20000 + 0x4, 10, 1, 0⟩
def errStatusOvfclass : Fld := ⟨0x20000 + 0x4, 11, 2, 0⟩
def errAckIndex : Fld := ⟨0x20000 + 0x8, 0, 7, 0⟩
def errSeqLogseq : Fld := ⟨0x20000 + 0xC, 0, 32, 0⟩
def errOvf : Fld := ⟨0x20000 + 0x10, 0, 64, 0⟩
def errAuditGo : Fld := ⟨0x20000 + 0x18, 0, 1, 0⟩
def errAuditWells : Fld := ⟨0x20000 + 0x18, 8, 7, 0x7f⟩
def errAuditDone : Fld := ⟨0x20000 + 0x18, 16, 1, 1⟩
def errAuditNotquiet : Fld := ⟨0x20000 + 0x18, 17, 7, 0⟩
def errAudits : Fld := ⟨0x20000 + 0x20, 0, 64, 0⟩
def errValidLoValid : Fld := ⟨0x20000 + 0x28, 0, 64, 0⟩
def errValidHiValid : Fld := ⟨0x20000 + 0x30, 0, 64, 0⟩
def idPartPart : Fld := ⟨0x0, 0, 16, 0x576⟩
def idPartFamily : Fld := ⟨0x0, 16, 8, 2⟩
def idPartRev : Fld := ⟨0x0, 24, 8, 0⟩
def idSerialSerial : Fld := ⟨0x0 + 0x8, 0, 64, 0⟩
def readyPkgReady : Fld := ⟨0x0 + 0x10, 0, 14, 0⟩
def presentPkgPresent : Fld := ⟨0x0 + 0x14, 0, 14, 0⟩
def readyDieInservice (d : Nat) : Fld := ⟨0x18 + 8 * d, 0, 1, 0⟩
def readyDieD2d (d : Nat) : Fld := ⟨0x18 + 8 * d, 1, 2, 0⟩
def readyDieBase (d : Nat) : Fld := ⟨0x18 + 8 * d, 3, 4, 0⟩
def readyDieHbm (d : Nat) : Fld := ⟨0x18 + 8 * d, 8, 4, 0⟩
def readyDiePort (d : Nat) : Fld := ⟨0x18 + 8 * d, 12, 8, 0⟩
def readyDieCluster (d : Nat) : Fld := ⟨0x18 + 8 * d, 20, 8, 0⟩
def presentDiePresent (d : Nat) : Fld := ⟨0x18 + 8 * d + 0x4, 0, 32, 0⟩
def bootStatusStep : Fld := ⟨0x0 + 0x38, 0, 4, 1⟩
def bootStatusInstance : Fld := ⟨0x0 + 0x38, 8, 8, 0xff⟩
def bootStatusHalted : Fld := ⟨0x0 + 0x38, 16, 1, 0⟩
def bootStatusRundone : Fld := ⟨0x0 + 0x38, 17, 1, 0⟩
def bootStatusBank : Fld := ⟨0x0 + 0x38, 18, 1, 0⟩
def bootStatusTrial : Fld := ⟨0x0 + 0x38, 19, 1, 0⟩
def bootStatusCode : Fld := ⟨0x0 + 0x38, 32, 16, 0⟩
def bootCountBoots : Fld := ⟨0x0 + 0x40, 0, 64, 0⟩
def fwCmdOp : Fld := ⟨0x10000, 0, 4, 0⟩
def fwStatusDone : Fld := ⟨0x10000 + 0x4, 0, 1, 1⟩
def fwStatusResult : Fld := ⟨0x10000 + 0x4, 4, 4, 0⟩
def fwStatusStaged : Fld := ⟨0x10000 + 0x4, 8, 1, 0⟩
def fwStatusWriting : Fld := ⟨0x10000 + 0x4, 9, 1, 0⟩
def fwSrcAddr : Fld := ⟨0x10000 + 0x8, 0, 42, 0⟩
def fwOffOffset : Fld := ⟨0x10000 + 0x10, 0, 32, 0⟩
def fwLenBytes : Fld := ⟨0x10000 + 0x14, 0, 32, 0⟩
def fwSvnFloor : Fld := ⟨0x10000 + 0x18, 0, 32, 0⟩
def ledgerHeadLseq : Fld := ⟨0x10000 + 0x1C, 0, 32, 0⟩
def bistCmdTarget : Fld := ⟨0x10000 + 0x20, 0, 8, 0⟩
def bistStatusDone : Fld := ⟨0x10000 + 0x24, 0, 1, 1⟩
def bistStatusResult : Fld := ⟨0x10000 + 0x24, 4, 2, 0⟩
def bistMisrMisr : Fld := ⟨0x10000 + 0x28, 0, 64, 0⟩
def bistExpectMisr : Fld := ⟨0x10000 + 0x30, 0, 64, 0⟩
def bistFailaddrAddr : Fld := ⟨0x10000 + 0x38, 0, 64, 0⟩
def bistFail0Fail : Fld := ⟨0x10000 + 0x40, 0, 32, 0⟩
def bistFail1Fail : Fld := ⟨0x10000 + 0x44, 0, 32, 0⟩
def bistFail2Fail : Fld := ⟨0x10000 + 0x48, 0, 32, 0⟩
def bistFail3Fail : Fld := ⟨0x10000 + 0x4C, 0, 32, 0⟩
def rmtCtr0 (d : Nat) : Fld := ⟨dieOff d + 0x30000 + 0x60, 0, 64, 0⟩
def rmtCtr1 (d : Nat) : Fld := ⟨dieOff d + 0x30000 + 0x68, 0, 64, 0⟩
def rmtCtr2 (d : Nat) : Fld := ⟨dieOff d + 0x30000 + 0x70, 0, 64, 0⟩
def rmtCtr3 (d : Nat) : Fld := ⟨dieOff d + 0x30000 + 0x78, 0, 64, 0⟩
def rmtCtr4 (d : Nat) : Fld := ⟨dieOff d + 0x30000 + 0x80, 0, 64, 0⟩
def rmtCtr5 (d : Nat) : Fld := ⟨dieOff d + 0x30000 + 0x88, 0, 64, 0⟩
def rmtCtr6 (d : Nat) : Fld := ⟨dieOff d + 0x30000 + 0x90, 0, 64, 0⟩
def rmtCtr7 (d : Nat) : Fld := ⟨dieOff d + 0x30000 + 0x98, 0, 64, 0⟩
def rmtCtr8 (d : Nat) : Fld := ⟨dieOff d + 0x30000 + 0xA0, 0, 64, 0⟩
def rmtCtr9 (d : Nat) : Fld := ⟨dieOff d + 0x30000 + 0xA8, 0, 64, 0⟩
def rmtCtr10 (d : Nat) : Fld := ⟨dieOff d + 0x30000 + 0xB0, 0, 64, 0⟩
def rmtCtr11 (d : Nat) : Fld := ⟨dieOff d + 0x30000 + 0xB8, 0, 64, 0⟩
def rmtCtr12 (d : Nat) : Fld := ⟨dieOff d + 0x30000 + 0xC0, 0, 64, 0⟩
def rmtCtr13 (d : Nat) : Fld := ⟨dieOff d + 0x30000 + 0xC8, 0, 64, 0⟩
def rmtCtr14 (d : Nat) : Fld := ⟨dieOff d + 0x30000 + 0xD0, 0, 64, 0⟩
def rmtCtr15 (d : Nat) : Fld := ⟨dieOff d + 0x30000 + 0xD8, 0, 64, 0⟩
def plCtr0 (l : Nat) : Fld := ⟨0x60000 + 0x10000 * l + 0x20, 0, 64, 0⟩
def plCtr1 (l : Nat) : Fld := ⟨0x60000 + 0x10000 * l + 0x28, 0, 64, 0⟩
def plCtr2 (l : Nat) : Fld := ⟨0x60000 + 0x10000 * l + 0x30, 0, 64, 0⟩
def plCtr3 (l : Nat) : Fld := ⟨0x60000 + 0x10000 * l + 0x38, 0, 64, 0⟩
def plCtr4 (l : Nat) : Fld := ⟨0x60000 + 0x10000 * l + 0x40, 0, 64, 0⟩
def plCtr5 (l : Nat) : Fld := ⟨0x60000 + 0x10000 * l + 0x48, 0, 64, 0⟩
def plCtr6 (l : Nat) : Fld := ⟨0x60000 + 0x10000 * l + 0x50, 0, 64, 0⟩
def plCtr7 (l : Nat) : Fld := ⟨0x60000 + 0x10000 * l + 0x58, 0, 64, 0⟩
def plCtr8 (l : Nat) : Fld := ⟨0x60000 + 0x10000 * l + 0x60, 0, 64, 0⟩
def plCtr9 (l : Nat) : Fld := ⟨0x60000 + 0x10000 * l + 0x68, 0, 64, 0⟩
def plCtr10 (l : Nat) : Fld := ⟨0x60000 + 0x10000 * l + 0x70, 0, 64, 0⟩
def plCtr11 (l : Nat) : Fld := ⟨0x60000 + 0x10000 * l + 0x78, 0, 64, 0⟩

end F

/-- The registers of the `me` block. -/
def meRegs (g e : Nat) : List Reg := [
  ⟨clOff (g / 8) + 0x1000 * (g % 8) + 0x100 + 0x80 * e, 32, [⟨F.meStatusState g e, .ro, .none, .any⟩, ⟨F.meStatusEndk g e, .ro, .none, .any⟩, ⟨F.meStatusQdepth g e, .ro, .none, .any⟩]⟩,
  ⟨clOff (g / 8) + 0x1000 * (g % 8) + 0x100 + 0x80 * e + 0x4, 32, [⟨F.mePosSeg0 g e, .ro, .none, .any⟩, ⟨F.mePosBlkinseg g e, .ro, .none, .any⟩]⟩,
  ⟨clOff (g / 8) + 0x1000 * (g % 8) + 0x100 + 0x80 * e + 0x8, 32, [⟨F.meSpanSpancnt g e, .ro, .none, .any⟩]⟩,
  ⟨clOff (g / 8) + 0x1000 * (g % 8) + 0x100 + 0x80 * e + 0xC, 32, [⟨F.meTagTag g e, .ro, .none, .any⟩]⟩,
  ⟨clOff (g / 8) + 0x1000 * (g % 8) + 0x100 + 0x80 * e + 0x10, 64, [⟨F.meBusy g e, .rc, .none, .any⟩]⟩,
  ⟨clOff (g / 8) + 0x1000 * (g % 8) + 0x100 + 0x80 * e + 0x18, 64, [⟨F.meStall g e, .rc, .none, .any⟩]⟩,
  ⟨clOff (g / 8) + 0x1000 * (g % 8) + 0x100 + 0x80 * e + 0x20, 64, [⟨F.mePoison g e, .rc, .none, .any⟩]⟩,
  ⟨clOff (g / 8) + 0x1000 * (g % 8) + 0x100 + 0x80 * e + 0x28, 32, [⟨F.meFaultsEncoding g e, .rc, .none, .any⟩, ⟨F.meFaultsSequence g e, .rc, .none, .any⟩]⟩]

/-- The registers of the `ve` block. -/
def veRegs (g : Nat) : List Reg := [
  ⟨clOff (g / 8) + 0x1000 * (g % 8) + 0x200, 32, [⟨F.veStatusBusy g, .ro, .none, .any⟩, ⟨F.veStatusQdepth g, .ro, .none, .any⟩]⟩,
  ⟨clOff (g / 8) + 0x1000 * (g % 8) + 0x200 + 0x4, 32, [⟨F.veCfgVmode g, .ro, .none, .any⟩, ⟨F.veCfgWbase g, .ro, .none, .any⟩]⟩,
  ⟨clOff (g / 8) + 0x1000 * (g % 8) + 0x200 + 0x8, 32, [⟨F.veFusedPass g, .ro, .none, .any⟩, ⟨F.veFusedChunk g, .ro, .none, .any⟩]⟩,
  ⟨clOff (g / 8) + 0x1000 * (g % 8) + 0x200 + 0x10, 64, [⟨F.veBusy g, .rc, .none, .any⟩]⟩,
  ⟨clOff (g / 8) + 0x1000 * (g % 8) + 0x200 + 0x18, 64, [⟨F.vePortwait g, .rc, .none, .any⟩]⟩,
  ⟨clOff (g / 8) + 0x1000 * (g % 8) + 0x200 + 0x20, 64, [⟨F.veSuppress g, .rc, .none, .any⟩]⟩,
  ⟨clOff (g / 8) + 0x1000 * (g % 8) + 0x200 + 0x28, 32, [⟨F.veFaultsEncoding g, .rc, .none, .any⟩, ⟨F.veFaultsSequence g, .rc, .none, .any⟩]⟩,
  ⟨clOff (g / 8) + 0x1000 * (g % 8) + 0x200 + 0x2C, 32, [⟨F.veBounds g, .rc, .none, .any⟩]⟩]

/-- The registers of the `way` block. -/
def wayRegs (k w : Nat) : List Reg := [
  ⟨clOff k + 0x8000 + 4 * w, 32, [⟨F.cmWayOwner k w, .rw, .locked, .any⟩, ⟨F.cmWayValid k w, .rw, .locked, .any⟩, ⟨F.cmWayMode k w, .rw, .locked, .any⟩, ⟨F.cmWayZeroing k w, .ro, .none, .any⟩]⟩]

/-- The registers of the `blw` block. -/
def blwRegs (k : Nat) : List Reg := [
  ⟨clOff k + 0xC000, 32, [⟨F.blwStatusBub k, .ro, .none, .any⟩, ⟨F.blwStatusF k, .ro, .none, .any⟩, ⟨F.blwStatusJclamp k, .ro, .none, .any⟩, ⟨F.blwStatusMeasonly k, .ro, .none, .any⟩]⟩,
  ⟨clOff k + 0xC000 + 0x4, 32, [⟨F.blwShareMw k, .ro, .none, .any⟩]⟩,
  ⟨clOff k + 0xC000 + 0x8, 64, [⟨F.blwBubbles k, .rc, .none, .any⟩]⟩,
  ⟨clOff k + 0xC000 + 0x10, 64, [⟨F.blwEstUj k, .rc, .none, .any⟩]⟩,
  ⟨clOff k + 0xC000 + 0x18, 64, [⟨F.blwTrimDrop k, .ro, .none, .any⟩]⟩]

/-- The registers of the `hbm` block. -/
def hbmRegs (h : Nat) : List Reg := [
  ⟨dieOff (h / 4) + 0xC0000 + 0x10000 * (h % 4), 32, [⟨F.hbmStatusTrained h, .ro, .none, .any⟩, ⟨F.hbmStatusDisabled h, .ro, .none, .any⟩, ⟨F.hbmStatusHot h, .ro, .none, .any⟩]⟩,
  ⟨dieOff (h / 4) + 0xC0000 + 0x10000 * (h % 4) + 0x4, 32, [⟨F.hbmScrubHours h, .rw, .live, .any⟩]⟩,
  ⟨dieOff (h / 4) + 0xC0000 + 0x10000 * (h % 4) + 0x8, 64, [⟨F.hbmCe h, .rc, .none, .any⟩]⟩,
  ⟨dieOff (h / 4) + 0xC0000 + 0x10000 * (h % 4) + 0x10, 64, [⟨F.hbmUe h, .rc, .none, .any⟩]⟩,
  ⟨dieOff (h / 4) + 0xC0000 + 0x10000 * (h % 4) + 0x18, 64, [⟨F.hbmUeaddrAddr h, .ro, .none, .any⟩]⟩,
  ⟨dieOff (h / 4) + 0xC0000 + 0x10000 * (h % 4) + 0x20, 64, [⟨F.hbmRdbytes h, .rc, .none, .any⟩]⟩,
  ⟨dieOff (h / 4) + 0xC0000 + 0x10000 * (h % 4) + 0x28, 64, [⟨F.hbmWrbytes h, .rc, .none, .any⟩]⟩]

/-- The registers of the `isd` block. -/
def isdRegs (n : Nat) : List Reg := [
  ⟨0xD0100 + 8 * n, 64, [⟨F.isDescValid n, .rw, .live, .any⟩, ⟨F.isDescGran n, .rw, .locked, .le 2⟩, ⟨F.isDescLns n, .rw, .locked, .le 4⟩, ⟨F.isDescLw n, .rw, .locked, .le 5⟩, ⟨F.isDescBstack n, .rw, .locked, .any⟩, ⟨F.isDescBpc n, .rw, .locked, .any⟩, ⟨F.isDescOwner n, .rw, .locked, .any⟩, ⟨F.isDescHouse n, .rw, .locked, .any⟩]⟩]

/-- The registers of the `pkgMem` block. -/
def pkgMemRegs : List Reg := [
  ⟨0xD0000, 32, [⟨F.memCfgPtset, .rw, .init, .any⟩]⟩,
  ⟨0xD0000 + 0x8, 64, [⟨F.memTinvCtx, .wo, .none, .any⟩, ⟨F.memTinvScope, .wo, .none, .le 2⟩, ⟨F.memTinvCva, .wo, .none, .any⟩]⟩,
  ⟨0xD0000 + 0x10, 32, [⟨F.memTinvStDone, .ro, .none, .any⟩]⟩]

/-- The registers of the `sch` block. -/
def schRegs : List Reg := [
  ⟨0x50000, 64, [⟨F.schCapMajor, .ro, .none, .any⟩, ⟨F.schCapMinor, .ro, .none, .any⟩, ⟨F.schCapIsa, .ro, .none, .any⟩, ⟨F.schCapLcohort, .ro, .none, .any⟩, ⟨F.schCapFeat, .ro, .none, .any⟩]⟩,
  ⟨0x50000 + 0x8, 32, [⟨F.schCfgPset, .rw, .locked, .any⟩]⟩,
  ⟨0x50000 + 0x10, 32, [⟨F.schEmberInuse, .ro, .none, .any⟩]⟩,
  ⟨0x50000 + 0x18, 64, [⟨F.schEmbIssue, .ro, .none, .any⟩]⟩,
  ⟨0x50000 + 0x20, 64, [⟨F.schEmbReturn, .ro, .none, .any⟩]⟩,
  ⟨0x50000 + 0x28, 64, [⟨F.schProbeCtx, .wo, .none, .any⟩, ⟨F.schProbeSubseq, .wo, .none, .any⟩, ⟨F.schProbeTask, .wo, .none, .any⟩]⟩,
  ⟨0x50000 + 0x30, 64, [⟨F.schProbeResState, .ro, .none, .any⟩, ⟨F.schProbeResValid, .ro, .none, .any⟩, ⟨F.schProbeResIdone, .ro, .none, .any⟩]⟩]

/-- The registers of the `sq` block. -/
def sqRegs (x : Nat) : List Reg := [
  ⟨0x51000 + 0x40 * x, 64, [⟨F.sqBaseAddr x, .rw, .locked, .any⟩]⟩,
  ⟨0x51000 + 0x40 * x + 0x8, 32, [⟨F.sqCfgLog2size x, .rw, .locked, .between 4 12⟩, ⟨F.sqCfgEnable x, .rw, .live, .any⟩, ⟨F.sqCfgGraphMax x, .rw, .locked, .between 1 64⟩]⟩,
  ⟨0x51000 + 0x40 * x + 0xC, 32, [⟨F.sqStatHead x, .ro, .none, .any⟩, ⟨F.sqStatState x, .ro, .none, .any⟩, ⟨F.sqStatErr x, .ro, .none, .any⟩]⟩,
  ⟨0x51000 + 0x40 * x + 0x10, 64, [⟨F.cqBaseAddr x, .rw, .locked, .any⟩]⟩,
  ⟨0x51000 + 0x40 * x + 0x18, 32, [⟨F.cqCfgLog2size x, .rw, .locked, .between 4 12⟩, ⟨F.cqCfgBell x, .rw, .live, .any⟩]⟩,
  ⟨0x51000 + 0x40 * x + 0x1C, 32, [⟨F.cqPtrTail x, .ro, .none, .any⟩, ⟨F.cqPtrHead x, .rw, .live, .any⟩]⟩,
  ⟨0x51000 + 0x40 * x + 0x20, 32, [⟨F.ctxSchedEmberQuota x, .rw, .locked, .le 16384⟩, ⟨F.ctxSchedActive x, .ro, .none, .any⟩]⟩,
  ⟨0x51000 + 0x40 * x + 0x24, 32, [⟨F.ctxEmbersHeld x, .ro, .none, .any⟩]⟩]

/-- The registers of the `sem` block. -/
def semRegs (n : Nat) : List Reg := [
  ⟨0x58000 + 8 * n, 64, [⟨F.semCount n, .rw, .live, .any⟩, ⟨F.semOwner n, .rw, .locked, .any⟩, ⟨F.semValid n, .rw, .locked, .any⟩, ⟨F.semPeer n, .rw, .locked, .any⟩, ⟨F.semPeeren n, .rw, .locked, .any⟩]⟩]

/-- The registers of the `tally` block. -/
def tallyRegs (n : Nat) : List Reg := [
  ⟨0xB0000 + 32 * n, 64, [⟨F.tallyZero n, .ro, .none, .any⟩]⟩,
  ⟨0xB0000 + 32 * n + 0x8, 64, [⟨F.tallySat n, .ro, .none, .any⟩]⟩,
  ⟨0xB0000 + 32 * n + 0x10, 64, [⟨F.tallyNonfin n, .ro, .none, .any⟩]⟩,
  ⟨0xB0000 + 32 * n + 0x18, 32, [⟨F.tallyMaxMaxmag n, .ro, .none, .any⟩]⟩,
  ⟨0xB0000 + 32 * n + 0x1C, 32, [⟨F.tallyCtlOwner n, .rw, .locked, .any⟩, ⟨F.tallyCtlValid n, .rw, .locked, .any⟩, ⟨F.tallyCtlWatch n, .rw, .locked, .any⟩, ⟨F.tallyCtlLivenf n, .ro, .none, .any⟩, ⟨F.tallyCtlOvf n, .ro, .none, .any⟩]⟩]

/-- The registers of the `smy` block. -/
def smyRegs (d : Nat) : List Reg := [
  ⟨dieOff d + 0x20000 + 0x4, 32, [⟨F.smyStatusState d, .ro, .none, .any⟩, ⟨F.smyStatusCtx d, .ro, .none, .any⟩, ⟨F.smyStatusOpen d, .ro, .none, .any⟩]⟩,
  ⟨dieOff d + 0x20000 + 0x8, 64, [⟨F.smyChunks d, .rc, .none, .any⟩]⟩,
  ⟨dieOff d + 0x20000 + 0x10, 64, [⟨F.smyRedos d, .rc, .none, .any⟩]⟩,
  ⟨dieOff d + 0x20000 + 0x18, 64, [⟨F.smyBusy d, .rc, .none, .any⟩]⟩,
  ⟨dieOff d + 0x20000 + 0x20, 64, [⟨F.smyRetIssue d, .ro, .none, .any⟩]⟩,
  ⟨dieOff d + 0x20000 + 0x28, 64, [⟨F.smyRetReturn d, .ro, .none, .any⟩]⟩]

/-- The registers of the `smyExp` block. -/
def smyExpRegs : List Reg := [
  ⟨dieOff 0 + 0x20000, 32, [⟨F.smyCfgGset, .rw, .init, .any⟩, ⟨F.smyCfgGvalid, .rw, .init, .any⟩]⟩,
  ⟨dieOff 0 + 0x20000 + 0x30, 64, [⟨F.smyExpCtlCtx, .rw, .locked, .any⟩, ⟨F.smyExpCtlGo, .wo, .none, .any⟩]⟩,
  ⟨dieOff 0 + 0x20000 + 0x38, 64, [⟨F.smyExpShardCva, .rw, .locked, .mult 64⟩]⟩,
  ⟨dieOff 0 + 0x20000 + 0x40, 64, [⟨F.smyExpDstCva, .rw, .locked, .mult 64⟩]⟩,
  ⟨dieOff 0 + 0x20000 + 0x48, 32, [⟨F.smyExpStDone, .ro, .none, .any⟩, ⟨F.smyExpStResult, .ro, .none, .any⟩]⟩]

/-- The registers of the `stq` block. -/
def stqRegs (n : Nat) : List Reg := [
  ⟨0xA8000 + 0x40 * n, 64, [⟨F.stqCfgValid n, .rw, .locked, .any⟩, ⟨F.stqCfgRole n, .rw, .locked, .any⟩, ⟨F.stqCfgLstage n, .rw, .locked, .any⟩, ⟨F.stqCfgOwner n, .rw, .locked, .any⟩, ⟨F.stqCfgWsem n, .rw, .locked, .any⟩, ⟨F.stqCfgTsem n, .rw, .locked, .any⟩, ⟨F.stqCfgNslot n, .rw, .locked, .any⟩, ⟨F.stqCfgStg n, .rw, .locked, .any⟩]⟩,
  ⟨0xA8000 + 0x40 * n + 0x8, 64, [⟨F.stqPeerLink n, .rw, .locked, .any⟩, ⟨F.stqPeerPeerq n, .rw, .locked, .any⟩, ⟨F.stqPeerDie n, .rw, .locked, .any⟩, ⟨F.stqPeerSlotb n, .rw, .locked, .between 1 0xFFFFFFFF⟩]⟩,
  ⟨0xA8000 + 0x40 * n + 0x10, 64, [⟨F.stqBufAddr n, .rw, .locked, .any⟩]⟩,
  ⟨0xA8000 + 0x40 * n + 0x18, 64, [⟨F.stqIssue n, .ro, .none, .any⟩]⟩,
  ⟨0xA8000 + 0x40 * n + 0x20, 64, [⟨F.stqReturn n, .ro, .none, .any⟩]⟩,
  ⟨0xA8000 + 0x40 * n + 0x28, 64, [⟨F.stqReclaim n, .ro, .none, .any⟩]⟩]

/-- The registers of the `stg` block. -/
def stgRegs (k : Nat) : List Reg := [
  ⟨0xAC000 + 0x10 * k, 64, [⟨F.stgFullTicks k, .rc, .none, .any⟩]⟩,
  ⟨0xAC000 + 0x10 * k + 0x8, 64, [⟨F.stgEmptyTicks k, .rc, .none, .any⟩]⟩]

/-- The registers of the `col` block. -/
def colRegs : List Reg := [
  ⟨0xA0000, 32, [⟨F.colCfgMset, .rw, .init, .any⟩, ⟨F.colCfgMvalid, .rw, .init, .any⟩, ⟨F.colCfgStall, .rw, .live, .between 1 65535⟩]⟩,
  ⟨0xA0000 + 0x8, 64, [⟨F.colCmds, .rc, .none, .any⟩]⟩,
  ⟨0xA0000 + 0x10, 64, [⟨F.colAborts, .rc, .none, .any⟩]⟩,
  ⟨0xA0000 + 0x18, 64, [⟨F.colSwaps, .rc, .none, .any⟩]⟩,
  ⟨0xA0000 + 0x20, 64, [⟨F.colLate, .rc, .none, .any⟩]⟩]

/-- The registers of the `colx` block. -/
def colxRegs (x : Nat) : List Reg := [
  ⟨0xA1000 + 0x20 * x, 64, [⟨F.colRingAddr x, .rw, .locked, .any⟩]⟩,
  ⟨0xA1000 + 0x20 * x + 0x8, 64, [⟨F.colCtlLog2size x, .rw, .locked, .between 4 12⟩, ⟨F.colCtlEnable x, .rw, .live, .any⟩, ⟨F.colCtlGosem x, .rw, .locked, .any⟩, ⟨F.colCtlRslot x, .ro, .none, .any⟩, ⟨F.colCtlRvalid x, .ro, .none, .any⟩, ⟨F.colCtlPslot x, .ro, .none, .any⟩, ⟨F.colCtlPvalid x, .ro, .none, .any⟩, ⟨F.colCtlInflight x, .ro, .none, .any⟩]⟩,
  ⟨0xA1000 + 0x20 * x + 0x10, 32, [⟨F.colHeadHead x, .ro, .none, .any⟩]⟩,
  ⟨0xA1000 + 0x20 * x + 0x18, 64, [⟨F.colLastappStep x, .rw, .locked, .any⟩]⟩]

/-- The registers of the `rmt` block. -/
def rmtRegs (d : Nat) : List Reg := [
  ⟨dieOff d + 0x30000, 64, [⟨F.rmtCfgUdpport d, .rw, .init, .any⟩, ⟨F.rmtCfgCset d, .rw, .init, .any⟩] ++ (if d = 0 then [⟨F.rmtCfgKset d, .rw, .init, .any⟩] else []) ++ [⟨F.rmtCfgTvalid d, .rw, .init, .any⟩]⟩,
  ⟨dieOff d + 0x30000 + 0x8, 64, [⟨F.rmtTimersRto d, .rw, .live, .between 1 65535⟩, ⟨F.rmtTimersHopn d, .rw, .live, .between 1 15⟩, ⟨F.rmtTimersRetrymax d, .rw, .live, .between 1 255⟩, ⟨F.rmtTimersNpl d, .rw, .live, .between 1 65535⟩, ⟨F.rmtTimersBusywait d, .rw, .live, .any⟩]⟩,
  ⟨dieOff d + 0x30000 + 0x10, 64, [⟨F.rmtRateTmeas d, .rw, .live, .between 1 255⟩, ⟨F.rmtRateBeta d, .rw, .live, .any⟩, ⟨F.rmtRateHoldn d, .rw, .live, .any⟩, ⟨F.rmtRateStep0 d, .rw, .live, .any⟩, ⟨F.rmtRateStepmax d, .rw, .live, .any⟩, ⟨F.rmtRateRmin d, .rw, .live, .any⟩]⟩,
  ⟨dieOff d + 0x30000 + 0x18, 32, [⟨F.rmtBufMarkth d, .rw, .live, .any⟩, ⟨F.rmtBufBusyth d, .rw, .live, .any⟩]⟩,
  ⟨dieOff d + 0x30000 + 0x20, 64, [⟨F.rmtCcmdSlot d, .wo, .none, .any⟩, ⟨F.rmtCcmdOp d, .wo, .none, .any⟩]⟩,
  ⟨dieOff d + 0x30000 + 0x28, 64, [⟨F.rmtCstatDone d, .ro, .none, .any⟩, ⟨F.rmtCstatResult d, .ro, .none, .any⟩, ⟨F.rmtCstatState d, .ro, .none, .any⟩, ⟨F.rmtCstatCached d, .ro, .none, .any⟩, ⟨F.rmtCstatPath d, .ro, .none, .any⟩, ⟨F.rmtCstatEpoch d, .ro, .none, .any⟩]⟩,
  ⟨dieOff d + 0x30000 + 0x40, 64, [⟨F.rmtTxcIssue d, .ro, .none, .any⟩]⟩,
  ⟨dieOff d + 0x30000 + 0x48, 64, [⟨F.rmtTxcReturn d, .ro, .none, .any⟩]⟩,
  ⟨dieOff d + 0x30000 + 0x50, 64, [⟨F.rmtTxcReclaim d, .ro, .none, .any⟩]⟩,
  ⟨dieOff d + 0x30000 + 0x58, 32, [⟨F.rmtCacheConns d, .ro, .none, .any⟩, ⟨F.rmtCacheKeys d, .ro, .none, .any⟩]⟩,
  ⟨dieOff d + 0x30000 + 0x60, 64, [⟨F.rmtCtr0 d, .rc, .none, .any⟩]⟩,
  ⟨dieOff d + 0x30000 + 0x68, 64, [⟨F.rmtCtr1 d, .rc, .none, .any⟩]⟩,
  ⟨dieOff d + 0x30000 + 0x70, 64, [⟨F.rmtCtr2 d, .rc, .none, .any⟩]⟩,
  ⟨dieOff d + 0x30000 + 0x78, 64, [⟨F.rmtCtr3 d, .rc, .none, .any⟩]⟩,
  ⟨dieOff d + 0x30000 + 0x80, 64, [⟨F.rmtCtr4 d, .rc, .none, .any⟩]⟩,
  ⟨dieOff d + 0x30000 + 0x88, 64, [⟨F.rmtCtr5 d, .rc, .none, .any⟩]⟩,
  ⟨dieOff d + 0x30000 + 0x90, 64, [⟨F.rmtCtr6 d, .rc, .none, .any⟩]⟩,
  ⟨dieOff d + 0x30000 + 0x98, 64, [⟨F.rmtCtr7 d, .rc, .none, .any⟩]⟩,
  ⟨dieOff d + 0x30000 + 0xA0, 64, [⟨F.rmtCtr8 d, .rc, .none, .any⟩]⟩,
  ⟨dieOff d + 0x30000 + 0xA8, 64, [⟨F.rmtCtr9 d, .rc, .none, .any⟩]⟩,
  ⟨dieOff d + 0x30000 + 0xB0, 64, [⟨F.rmtCtr10 d, .rc, .none, .any⟩]⟩,
  ⟨dieOff d + 0x30000 + 0xB8, 64, [⟨F.rmtCtr11 d, .rc, .none, .any⟩]⟩,
  ⟨dieOff d + 0x30000 + 0xC0, 64, [⟨F.rmtCtr12 d, .rc, .none, .any⟩]⟩,
  ⟨dieOff d + 0x30000 + 0xC8, 64, [⟨F.rmtCtr13 d, .rc, .none, .any⟩]⟩,
  ⟨dieOff d + 0x30000 + 0xD0, 64, [⟨F.rmtCtr14 d, .rc, .none, .any⟩]⟩,
  ⟨dieOff d + 0x30000 + 0xD8, 64, [⟨F.rmtCtr15 d, .rc, .none, .any⟩]⟩]

/-- The registers of the `rmtKey` block. -/
def rmtKeyRegs : List Reg := [
  ⟨dieOff 0 + 0x30000 + 0x30, 64, [⟨F.rmtKcmdIndex, .wo, .none, .any⟩, ⟨F.rmtKcmdOp, .wo, .none, .between 1 2⟩]⟩,
  ⟨dieOff 0 + 0x30000 + 0x38, 64, [⟨F.rmtKstatDone, .ro, .none, .any⟩, ⟨F.rmtKstatResult, .ro, .none, .any⟩, ⟨F.rmtKstatGen, .ro, .none, .any⟩, ⟨F.rmtKstatAborted, .ro, .none, .any⟩]⟩]

/-- The registers of the `rmtx` block. -/
def rmtxRegs (x : Nat) : List Reg := [
  ⟨dieOff 0 + 0x31000 + 0x20 * x, 64, [⟨F.rmtRingAddr x, .rw, .locked, .any⟩]⟩,
  ⟨dieOff 0 + 0x31000 + 0x20 * x + 0x8, 64, [⟨F.rmtCtlLog2size x, .rw, .locked, .between 4 12⟩, ⟨F.rmtCtlEnable x, .rw, .live, .any⟩, ⟨F.rmtCtlGosem x, .rw, .locked, .any⟩, ⟨F.rmtCtlInflight x, .ro, .none, .any⟩]⟩,
  ⟨dieOff 0 + 0x31000 + 0x20 * x + 0x10, 32, [⟨F.rmtHeadHead x, .ro, .none, .any⟩]⟩,
  ⟨dieOff 0 + 0x31000 + 0x20 * x + 0x14, 32, [⟨F.rmtDebtDebt x, .ro, .none, .any⟩]⟩]

/-- The registers of the `port` block. -/
def portRegs (p : Nat) : List Reg := [
  ⟨dieOff (p / 8) + 0x40000 + 0x10000 * (p % 8), 64, [⟨F.portCfgEnable p, .rw, .live, .any⟩, ⟨F.portCfgMode p, .rw, .locked, .le 6⟩, ⟨F.portCfgPmd p, .rw, .locked, .le 2⟩, ⟨F.portCfgAn p, .rw, .locked, .any⟩, ⟨F.portCfgPause p, .rw, .locked, .le 2⟩, ⟨F.portCfgBcast p, .rw, .live, .any⟩, ⟨F.portCfgDefprio p, .rw, .live, .any⟩, ⟨F.portCfgMaxframe p, .rw, .locked, .between 1518 9216⟩]⟩,
  ⟨dieOff (p / 8) + 0x40000 + 0x10000 * (p % 8) + 0x8, 32, [⟨F.portStatusLinkup p, .ro, .none, .any⟩, ⟨F.portStatusFeclock p, .ro, .none, .any⟩, ⟨F.portStatusLfault p, .ro, .none, .any⟩, ⟨F.portStatusRfault p, .ro, .none, .any⟩, ⟨F.portStatusAndone p, .ro, .none, .any⟩, ⟨F.portStatusLanes p, .ro, .none, .any⟩, ⟨F.portStatusXofftx p, .ro, .none, .any⟩, ⟨F.portStatusXoffrx p, .ro, .none, .any⟩]⟩,
  ⟨dieOff (p / 8) + 0x40000 + 0x10000 * (p % 8) + 0xC, 32, [⟨F.portCommitCommit p, .rw, .none, .any⟩, ⟨F.portCommitRefused p, .ro, .none, .any⟩]⟩,
  ⟨dieOff (p / 8) + 0x40000 + 0x10000 * (p % 8) + 0x10, 32, [⟨F.portVlanVid p, .rw, .live, .any⟩, ⟨F.portVlanTagen p, .rw, .live, .any⟩]⟩,
  ⟨dieOff (p / 8) + 0x40000 + 0x10000 * (p % 8) + 0x14, 32, [⟨F.portLaneTxinv p, .rw, .locked, .any⟩, ⟨F.portLaneRxinv p, .rw, .locked, .any⟩]⟩,
  ⟨dieOff (p / 8) + 0x40000 + 0x10000 * (p % 8) + 0x18, 32, [⟨F.portWdogWdms p, .rw, .live, .any⟩, ⟨F.portWdogRestms p, .rw, .live, .any⟩]⟩,
  ⟨dieOff (p / 8) + 0x40000 + 0x10000 * (p % 8) + 0x1C, 32, [⟨F.portWdstatFired p, .ro, .none, .any⟩, ⟨F.portWdstatGenstop p, .ro, .none, .any⟩]⟩,
  ⟨dieOff (p / 8) + 0x40000 + 0x10000 * (p % 8) + 0x20, 32, [⟨F.portIpv4Addr p, .rw, .live, .any⟩]⟩,
  ⟨dieOff (p / 8) + 0x40000 + 0x10000 * (p % 8) + 0x28, 64, [⟨F.portIpv6LoAddr p, .rw, .live, .any⟩]⟩,
  ⟨dieOff (p / 8) + 0x40000 + 0x10000 * (p % 8) + 0x30, 64, [⟨F.portIpv6HiAddr p, .rw, .live, .any⟩]⟩]

/-- The registers of the `portUc` block. -/
def portUcRegs (p i : Nat) : List Reg := [
  ⟨dieOff (p / 8) + 0x40000 + 0x10000 * (p % 8) + 0x40 + 8 * i, 64, [⟨F.portUcAddr p i, .rw, .live, .any⟩, ⟨F.portUcValid p i, .rw, .live, .any⟩]⟩]

/-- The registers of the `portMc` block. -/
def portMcRegs (p i : Nat) : List Reg := [
  ⟨dieOff (p / 8) + 0x40000 + 0x10000 * (p % 8) + 0x80 + 8 * i, 64, [⟨F.portMcAddr p i, .rw, .live, .any⟩, ⟨F.portMcValid p i, .rw, .live, .any⟩]⟩]

/-- The registers of the `portPrio` block. -/
def portPrioRegs (p q : Nat) : List Reg := [
  ⟨dieOff (p / 8) + 0x40000 + 0x10000 * (p % 8) + 0xC0 + 8 * q, 64, [⟨F.portPrioShare p q, .rw, .staged, .any⟩, ⟨F.portPrioXoff p q, .rw, .staged, .any⟩, ⟨F.portPrioXon p q, .rw, .staged, .any⟩, ⟨F.portPrioPfcen p q, .rw, .staged, .any⟩]⟩]

/-- The registers of the `pl` block. -/
def plRegs (l : Nat) : List Reg := [
  ⟨0x60000 + 0x10000 * l, 32, [⟨F.plCfgEnable l, .rw, .live, .any⟩, ⟨F.plCfgMaxw l, .rw, .locked, .le 2⟩, ⟨F.plCfgRwdelay l, .rw, .live, .between 1 15⟩, ⟨F.plCfgReplaymax l, .rw, .live, .between 1 15⟩]⟩,
  ⟨0x60000 + 0x10000 * l + 0x4, 32, [⟨F.plStatusState l, .ro, .none, .any⟩, ⟨F.plStatusTxw l, .ro, .none, .any⟩, ⟨F.plStatusRxw l, .ro, .none, .any⟩, ⟨F.plStatusConf l, .ro, .none, .any⟩, ⟨F.plStatusKeysel l, .ro, .none, .any⟩, ⟨F.plStatusReversed l, .ro, .none, .any⟩]⟩,
  ⟨0x60000 + 0x10000 * l + 0x8, 32, [⟨F.plLanesTxok l, .ro, .none, .any⟩, ⟨F.plLanesRxok l, .ro, .none, .any⟩]⟩,
  ⟨0x60000 + 0x10000 * l + 0x10, 64, [⟨F.plApbaseSet l, .rw, .live, .any⟩, ⟨F.plApbaseValid l, .rw, .live, .any⟩, ⟨F.plApbaseOffgb l, .rw, .live, .any⟩]⟩,
  ⟨0x60000 + 0x10000 * l + 0x20, 64, [⟨F.plCtr0 l, .rc, .none, .any⟩]⟩,
  ⟨0x60000 + 0x10000 * l + 0x28, 64, [⟨F.plCtr1 l, .rc, .none, .any⟩]⟩,
  ⟨0x60000 + 0x10000 * l + 0x30, 64, [⟨F.plCtr2 l, .rc, .none, .any⟩]⟩,
  ⟨0x60000 + 0x10000 * l + 0x38, 64, [⟨F.plCtr3 l, .rc, .none, .any⟩]⟩,
  ⟨0x60000 + 0x10000 * l + 0x40, 64, [⟨F.plCtr4 l, .rc, .none, .any⟩]⟩,
  ⟨0x60000 + 0x10000 * l + 0x48, 64, [⟨F.plCtr5 l, .rc, .none, .any⟩]⟩,
  ⟨0x60000 + 0x10000 * l + 0x50, 64, [⟨F.plCtr6 l, .rc, .none, .any⟩]⟩,
  ⟨0x60000 + 0x10000 * l + 0x58, 64, [⟨F.plCtr7 l, .rc, .none, .any⟩]⟩,
  ⟨0x60000 + 0x10000 * l + 0x60, 64, [⟨F.plCtr8 l, .rc, .none, .any⟩]⟩,
  ⟨0x60000 + 0x10000 * l + 0x68, 64, [⟨F.plCtr9 l, .rc, .none, .any⟩]⟩,
  ⟨0x60000 + 0x10000 * l + 0x70, 64, [⟨F.plCtr10 l, .rc, .none, .any⟩]⟩,
  ⟨0x60000 + 0x10000 * l + 0x78, 64, [⟨F.plCtr11 l, .rc, .none, .any⟩]⟩]

/-- The registers of the `die` block. -/
def dieRegs (d : Nat) : List Reg := [
  ⟨dieOff d, 32, [⟨F.dieIdPos d, .ro, .none, .any⟩, ⟨F.dieIdRot d, .ro, .none, .any⟩, ⟨F.dieIdMirror d, .ro, .none, .any⟩, ⟨F.dieIdDisc d, .ro, .none, .any⟩]⟩,
  ⟨dieOff d + 0x4, 32, [⟨F.dieCtlReset d, .wo, .none, .any⟩]⟩,
  ⟨dieOff d + 0x8, 32, [⟨F.dieStatusInservice d, .ro, .none, .any⟩, ⟨F.dieStatusLock d, .ro, .none, .any⟩, ⟨F.dieStatusWstop d, .ro, .none, .any⟩, ⟨F.dieStatusLastcause d, .ro, .none, .any⟩]⟩,
  ⟨dieOff d + 0xC, 32, [⟨F.dieXtoXto d, .rw, .live, .between 1 65535⟩]⟩,
  ⟨dieOff d + 0x10, 64, [⟨F.watchRaw d, .ro, .none, .any⟩]⟩,
  ⟨dieOff d + 0x18, 64, [⟨F.watchNs d, .ro, .none, .any⟩]⟩,
  ⟨dieOff d + 0x20, 32, [⟨F.watchCalCal d, .rw, .live, .any⟩]⟩,
  ⟨dieOff d + 0x24, 32, [⟨F.dieSeqSeq d, .ro, .none, .any⟩]⟩,
  ⟨dieOff d + 0x28, 64, [⟨F.xtimeout d, .rc, .none, .any⟩]⟩,
  ⟨dieOff d + 0x30, 64, [⟨F.xdrop d, .rc, .none, .any⟩]⟩]

/-- The registers of the `d2d` block. -/
def d2dRegs (d k : Nat) : List Reg := [
  ⟨dieOff d + 0x10000 + 0x1000 * k, 64, [⟨F.d2dStatusTxgrp d k, .ro, .none, .any⟩, ⟨F.d2dStatusRxgrp d k, .ro, .none, .any⟩, ⟨F.d2dStatusUp d k, .ro, .none, .any⟩, ⟨F.d2dStatusPeer d k, .ro, .none, .any⟩]⟩,
  ⟨dieOff d + 0x10000 + 0x1000 * k + 0x8, 64, [⟨F.d2dSpareTxspared d k, .ro, .none, .any⟩, ⟨F.d2dSpareRxspared d k, .ro, .none, .any⟩]⟩,
  ⟨dieOff d + 0x10000 + 0x1000 * k + 0x10, 32, [⟨F.d2dCfgLaneth d k, .rw, .live, .between 1 255⟩, ⟨F.d2dCfgLto d k, .rw, .live, .between 1 255⟩]⟩,
  ⟨dieOff d + 0x10000 + 0x1000 * k + 0x18, 64, [⟨F.d2dCrIssue d k, .ro, .none, .any⟩]⟩,
  ⟨dieOff d + 0x10000 + 0x1000 * k + 0x20, 64, [⟨F.d2dCrReturn d k, .ro, .none, .any⟩]⟩,
  ⟨dieOff d + 0x10000 + 0x1000 * k + 0x28, 64, [⟨F.d2dCrReclaim d k, .ro, .none, .any⟩]⟩,
  ⟨dieOff d + 0x10000 + 0x1000 * k + 0x30, 64, [⟨F.d2dCrcerr d k, .rc, .none, .any⟩]⟩,
  ⟨dieOff d + 0x10000 + 0x1000 * k + 0x38, 64, [⟨F.d2dReplay d k, .rc, .none, .any⟩]⟩,
  ⟨dieOff d + 0x10000 + 0x1000 * k + 0x40, 64, [⟨F.d2dRepairs d k, .rc, .none, .any⟩]⟩,
  ⟨dieOff d + 0x10000 + 0x1000 * k + 0x48, 64, [⟨F.d2dRetires d k, .rc, .none, .any⟩]⟩,
  ⟨dieOff d + 0x10000 + 0x1000 * k + 0x50, 64, [⟨F.d2dFlush d k, .rc, .none, .any⟩]⟩]

/-- The registers of the `pwr` block. -/
def pwrRegs : List Reg := [
  ⟨0x30000, 32, [⟨F.pwrCfgCap, .rw, .live, .between 600 1400⟩]⟩,
  ⟨0x30000 + 0x4, 32, [⟨F.pwrStatusState, .ro, .none, .any⟩, ⟨F.pwrStatusEfault, .w1c, .none, .any⟩, ⟨F.pwrStatusHbmthr, .ro, .none, .any⟩, ⟨F.pwrStatusRmtthr, .ro, .none, .any⟩, ⟨F.pwrStatusAlert, .ro, .none, .any⟩]⟩,
  ⟨0x30000 + 0x8, 32, [⟨F.pwrInputMw, .ro, .none, .any⟩]⟩,
  ⟨0x30000 + 0x10, 64, [⟨F.pwrEnergyUj, .ro, .none, .any⟩]⟩,
  ⟨0x30000 + 0x18, 64, [⟨F.pwrOver, .rc, .none, .any⟩]⟩]

/-- The registers of the `pwrDie` block. -/
def pwrDieRegs (d : Nat) : List Reg := [
  ⟨0x30020 + 4 * d, 32, [⟨F.pwrDieVpoint d, .rw, .locked, .any⟩, ⟨F.pwrDieKd d, .ro, .none, .any⟩]⟩]

/-- The registers of the `pwrRail` block. -/
def pwrRailRegs (d : Nat) : List Reg := [
  ⟨0x30040 + 8 * d, 64, [⟨F.pwrRailCompmw d, .ro, .none, .any⟩, ⟨F.pwrRailBasemw d, .ro, .none, .any⟩]⟩]

/-- The registers of the `pwrDamper` block. -/
def pwrDamperRegs (c : Nat) : List Reg := [
  ⟨0x30060 + 4 * c, 32, [⟨F.pwrDamperFrac c, .rw, .locked, .any⟩]⟩]

/-- The registers of the `pwrVtab` block. -/
def pwrVtabRegs (d p : Nat) : List Reg := [
  ⟨0x30100 + 0x20 * d + 4 * p, 32, [⟨F.pwrVtabVmv d p, .ro, .none, .any⟩, ⟨F.pwrVtabFloor d p, .ro, .none, .any⟩]⟩]

/-- The registers of the `pwrTemp` block. -/
def pwrTempRegs (d : Nat) : List Reg := [
  ⟨0x30200 + 8 * d, 64, [⟨F.pwrTempTcmax d, .ro, .none, .any⟩, ⟨F.pwrTempTbmax d, .ro, .none, .any⟩, ⟨F.pwrTempThbm d, .ro, .none, .any⟩]⟩]

/-- The registers of the `ctx` block. -/
def ctxRegs (x : Nat) : List Reg := [
  ⟨0x80000 + 0x40 * x, 32, [⟨F.ctxCtlValid x, .rw, .locked, .any⟩, ⟨F.ctxCtlCmd x, .wo, .none, .any⟩]⟩,
  ⟨0x80000 + 0x40 * x + 0x4, 32, [⟨F.ctxStateState x, .ro, .none, .any⟩, ⟨F.ctxStateSusp x, .ro, .none, .any⟩, ⟨F.ctxStateDonated x, .ro, .none, .any⟩, ⟨F.ctxStateCmdbusy x, .ro, .none, .any⟩, ⟨F.ctxStateOverrun x, .ro, .none, .any⟩]⟩,
  ⟨0x80000 + 0x40 * x + 0x8, 64, [⟨F.accBeats x, .ro, .none, .any⟩]⟩,
  ⟨0x80000 + 0x40 * x + 0x10, 64, [⟨F.accHbm x, .ro, .none, .any⟩]⟩,
  ⟨0x80000 + 0x40 * x + 0x18, 64, [⟨F.accNet x, .ro, .none, .any⟩]⟩,
  ⟨0x80000 + 0x40 * x + 0x20, 64, [⟨F.accPuell x, .ro, .none, .any⟩]⟩,
  ⟨0x80000 + 0x40 * x + 0x28, 64, [⟨F.accEnergy x, .ro, .none, .any⟩]⟩,
  ⟨0x80000 + 0x40 * x + 0x30, 64, [⟨F.accRestime x, .ro, .none, .any⟩]⟩]

/-- The registers of the `acc` block. -/
def accRegs : List Reg := [
  ⟨0x88000, 32, [⟨F.accCfgGset, .rw, .init, .any⟩, ⟨F.accCfgGvalid, .rw, .init, .any⟩, ⟨F.accCfgRten, .rw, .live, .any⟩]⟩,
  ⟨0x88000 + 0x8, 64, [⟨F.accTotalNj, .ro, .none, .any⟩]⟩,
  ⟨0x88000 + 0x10, 64, [⟨F.accHouseNj, .ro, .none, .any⟩]⟩,
  ⟨0x88000 + 0x18, 64, [⟨F.accRetiredNj, .ro, .none, .any⟩]⟩,
  ⟨0x88000 + 0x20, 32, [⟨F.accSwlastUs, .ro, .none, .any⟩]⟩,
  ⟨0x88000 + 0x24, 32, [⟨F.accSwmaxUs, .w1c, .none, .any⟩]⟩,
  ⟨0x88000 + 0x28, 64, [⟨F.accDonate, .rc, .none, .any⟩]⟩,
  ⟨0x88000 + 0x30, 64, [⟨F.accDonblock, .rc, .none, .any⟩]⟩]

/-- The registers of the `rtSlot` block. -/
def rtSlotRegs (i : Nat) : List Reg := [
  ⟨0x88100 + 4 * i, 32, [⟨F.rtSlotCtx i, .rw, .staged, .any⟩, ⟨F.rtSlotValid i, .rw, .staged, .any⟩, ⟨F.rtSlotLen i, .rw, .staged, .any⟩]⟩]

/-- The registers of the `rt` block. -/
def rtRegs : List Reg := [
  ⟨0x88200, 32, [⟨F.rtCommitCommit, .rw, .none, .any⟩]⟩,
  ⟨0x88200 + 0x4, 32, [⟨F.rtStatusSlot, .ro, .none, .any⟩, ⟨F.rtStatusRefused, .ro, .none, .any⟩]⟩]

/-- The registers of the `sec` block. -/
def secRegs : List Reg := [
  ⟨0x40000, 32, [⟨F.secStatusState, .ro, .none, .any⟩, ⟨F.secStatusConf, .ro, .none, .any⟩, ⟨F.secStatusSession, .ro, .none, .any⟩, ⟨F.secStatusReason, .ro, .none, .any⟩, ⟨F.secStatusDiemask, .ro, .none, .any⟩]⟩,
  ⟨0x40000 + 0x4, 32, [⟨F.secCmdOp, .wo, .none, .between 1 7⟩, ⟨F.secCmdArg, .wo, .none, .any⟩]⟩,
  ⟨0x40000 + 0x8, 32, [⟨F.secResultDone, .ro, .none, .any⟩, ⟨F.secResultCode, .ro, .none, .any⟩, ⟨F.secResultLen, .ro, .none, .any⟩]⟩,
  ⟨0x40000 + 0xC, 32, [⟨F.secSvnSvn, .ro, .none, .any⟩]⟩]

/-- The registers of the `secTenant` block. -/
def secTenantRegs (x : Nat) : List Reg := [
  ⟨0x40100 + 4 * x, 32, [⟨F.secTenantTenant x, .rw, .locked, .any⟩]⟩]

/-- The registers of the `secSeal` block. -/
def secSealRegs (k : Nat) : List Reg := [
  ⟨0x40500 + 4 * k, 32, [⟨F.secSealSealed k, .ro, .none, .any⟩]⟩]

/-- The registers of the `bundle` block. -/
def bundleRegs (b : Nat) : List Reg := [
  ⟨0x40600 + 0x40 * b, 32, [⟨F.bundleStatValid b, .ro, .none, .any⟩, ⟨F.bundleStatExport b, .ro, .none, .any⟩, ⟨F.bundleStatConfreq b, .ro, .none, .any⟩, ⟨F.bundleStatGroup0 b, .ro, .none, .any⟩]⟩,
  ⟨0x40600 + 0x40 * b + 0x4, 32, [⟨F.bundleNNgroup b, .ro, .none, .any⟩]⟩,
  ⟨0x40600 + 0x40 * b + 0x8, 32, [⟨F.bundleSvnMinsvn b, .ro, .none, .any⟩]⟩,
  ⟨0x40600 + 0x40 * b + 0x10, 32, [⟨F.bundleId0Bundleid b, .ro, .none, .any⟩]⟩,
  ⟨0x40600 + 0x40 * b + 0x14, 32, [⟨F.bundleId1Bundleid b, .ro, .none, .any⟩]⟩,
  ⟨0x40600 + 0x40 * b + 0x18, 32, [⟨F.bundleId2Bundleid b, .ro, .none, .any⟩]⟩,
  ⟨0x40600 + 0x40 * b + 0x1C, 32, [⟨F.bundleId3Bundleid b, .ro, .none, .any⟩]⟩]

/-- The registers of the `res` block. -/
def resRegs : List Reg := [
  ⟨0x90000, 64, [⟨F.resCfgSset, .rw, .init, .any⟩, ⟨F.resCfgSvalid, .rw, .init, .any⟩]⟩,
  ⟨0x90000 + 0x8, 32, [⟨F.resPoolFree, .ro, .none, .any⟩]⟩,
  ⟨0x90000 + 0x10, 64, [⟨F.resStgIssue, .ro, .none, .any⟩]⟩,
  ⟨0x90000 + 0x18, 64, [⟨F.resStgReturn, .ro, .none, .any⟩]⟩,
  ⟨0x90000 + 0x20, 64, [⟨F.resStgReclaim, .ro, .none, .any⟩]⟩,
  ⟨0x90000 + 0x28, 64, [⟨F.resFtc, .rc, .none, .any⟩]⟩,
  ⟨0x90000 + 0x30, 64, [⟨F.resDrained, .rc, .none, .any⟩]⟩,
  ⟨0x90000 + 0x38, 64, [⟨F.resAbandon, .rc, .none, .any⟩]⟩,
  ⟨0x90000 + 0x40, 64, [⟨F.resSkips, .rc, .none, .any⟩]⟩,
  ⟨0x90000 + 0x48, 64, [⟨F.resCmdOp, .wo, .none, .any⟩, ⟨F.resCmdCtx, .wo, .none, .any⟩, ⟨F.resCmdAddr, .wo, .none, .any⟩]⟩,
  ⟨0x90000 + 0x50, 64, [⟨F.resCmdstDone, .ro, .none, .any⟩, ⟨F.resCmdstCode, .ro, .none, .any⟩, ⟨F.resCmdstUnchecked, .ro, .none, .any⟩]⟩]

/-- The registers of the `resx` block. -/
def resxRegs (x : Nat) : List Reg := [
  ⟨0x91000 + 0x80 * x, 64, [⟨F.resListAddr x, .rw, .locked, .any⟩, ⟨F.resListNreg x, .rw, .locked, .le 64⟩]⟩,
  ⟨0x91000 + 0x80 * x + 0x8, 64, [⟨F.resCtlEnable x, .rw, .live, .any⟩, ⟨F.resCtlK x, .rw, .live, .between 1 512⟩, ⟨F.resCtlTdepth x, .rw, .locked, .between 1 1024⟩, ⟨F.resCtlStgquota x, .rw, .locked, .any⟩]⟩,
  ⟨0x91000 + 0x80 * x + 0x10, 64, [⟨F.resNextApplied x, .rw, .locked, .any⟩]⟩,
  ⟨0x91000 + 0x80 * x + 0x18, 64, [⟨F.resImg0Addr x, .rw, .locked, .mult 4096⟩]⟩,
  ⟨0x91000 + 0x80 * x + 0x20, 64, [⟨F.resImg1Addr x, .rw, .locked, .mult 4096⟩]⟩,
  ⟨0x91000 + 0x80 * x + 0x28, 64, [⟨F.resImglenBytes x, .rw, .locked, .any⟩]⟩,
  ⟨0x91000 + 0x80 * x + 0x30, 64, [⟨F.resJobidLoJobid x, .rw, .locked, .any⟩]⟩,
  ⟨0x91000 + 0x80 * x + 0x38, 64, [⟨F.resJobidHiJobid x, .rw, .locked, .any⟩]⟩,
  ⟨0x91000 + 0x80 * x + 0x40, 32, [⟨F.resRankRank x, .rw, .locked, .any⟩]⟩,
  ⟨0x91000 + 0x80 * x + 0x44, 32, [⟨F.resSnapState x, .ro, .none, .any⟩, ⟨F.resSnapArea x, .ro, .none, .any⟩, ⟨F.resSnapLastarea x, .ro, .none, .any⟩, ⟨F.resSnapReason x, .ro, .none, .any⟩]⟩,
  ⟨0x91000 + 0x80 * x + 0x48, 64, [⟨F.resSnapstepStep x, .ro, .none, .any⟩]⟩,
  ⟨0x91000 + 0x80 * x + 0x50, 64, [⟨F.resLastStep x, .ro, .none, .any⟩]⟩,
  ⟨0x91000 + 0x80 * x + 0x58, 64, [⟨F.resTwinConn x, .rw, .live, .any⟩, ⟨F.resTwinKey x, .rw, .live, .any⟩]⟩,
  ⟨0x91000 + 0x80 * x + 0x60, 64, [⟨F.resTwinbaseOffset x, .rw, .live, .any⟩]⟩,
  ⟨0x91000 + 0x80 * x + 0x68, 32, [⟨F.resTwinstState x, .ro, .none, .any⟩]⟩,
  ⟨0x91000 + 0x80 * x + 0x6C, 32, [⟨F.resStgHeld x, .ro, .none, .any⟩]⟩,
  ⟨0x91000 + 0x80 * x + 0x70, 64, [⟨F.resTwinwaitUs x, .rc, .none, .any⟩]⟩,
  ⟨0x91000 + 0x80 * x + 0x78, 64, [⟨F.resTwlocalCva x, .rw, .locked, .mult 64⟩]⟩]

/-- The registers of the `err` block. -/
def errRegs : List Reg := [
  ⟨0x20000, 32, [⟨F.errCfgBellcorr, .rw, .live, .any⟩, ⟨F.errCfgAuditms, .rw, .live, .between 1 255⟩]⟩,
  ⟨0x20000 + 0x4, 32, [⟨F.errStatusCount, .ro, .none, .any⟩, ⟨F.errStatusFull, .ro, .none, .any⟩, ⟨F.errStatusFatal, .ro, .none, .any⟩, ⟨F.errStatusLogbad, .ro, .none, .any⟩, ⟨F.errStatusOvfclass, .ro, .none, .any⟩]⟩,
  ⟨0x20000 + 0x8, 32, [⟨F.errAckIndex, .wo, .none, .any⟩]⟩,
  ⟨0x20000 + 0xC, 32, [⟨F.errSeqLogseq, .ro, .none, .any⟩]⟩,
  ⟨0x20000 + 0x10, 64, [⟨F.errOvf, .rc, .none, .any⟩]⟩,
  ⟨0x20000 + 0x18, 64, [⟨F.errAuditGo, .wo, .none, .any⟩, ⟨F.errAuditWells, .rw, .live, .any⟩, ⟨F.errAuditDone, .ro, .none, .any⟩, ⟨F.errAuditNotquiet, .ro, .none, .any⟩]⟩,
  ⟨0x20000 + 0x20, 64, [⟨F.errAudits, .rc, .none, .any⟩]⟩,
  ⟨0x20000 + 0x28, 64, [⟨F.errValidLoValid, .ro, .none, .any⟩]⟩,
  ⟨0x20000 + 0x30, 64, [⟨F.errValidHiValid, .ro, .none, .any⟩]⟩]

/-- The registers of the `ident` block. -/
def identRegs : List Reg := [
  ⟨0x0, 32, [⟨F.idPartPart, .ro, .none, .any⟩, ⟨F.idPartFamily, .ro, .none, .any⟩, ⟨F.idPartRev, .ro, .none, .any⟩]⟩,
  ⟨0x0 + 0x8, 64, [⟨F.idSerialSerial, .ro, .none, .any⟩]⟩,
  ⟨0x0 + 0x10, 32, [⟨F.readyPkgReady, .ro, .none, .any⟩]⟩,
  ⟨0x0 + 0x14, 32, [⟨F.presentPkgPresent, .ro, .none, .any⟩]⟩,
  ⟨0x0 + 0x38, 64, [⟨F.bootStatusStep, .ro, .none, .any⟩, ⟨F.bootStatusInstance, .ro, .none, .any⟩, ⟨F.bootStatusHalted, .ro, .none, .any⟩, ⟨F.bootStatusRundone, .ro, .none, .any⟩, ⟨F.bootStatusBank, .ro, .none, .any⟩, ⟨F.bootStatusTrial, .ro, .none, .any⟩, ⟨F.bootStatusCode, .ro, .none, .any⟩]⟩,
  ⟨0x0 + 0x40, 64, [⟨F.bootCountBoots, .ro, .none, .any⟩]⟩]

/-- The registers of the `identDie` block. -/
def identDieRegs (d : Nat) : List Reg := [
  ⟨0x18 + 8 * d, 32, [⟨F.readyDieInservice d, .ro, .none, .any⟩, ⟨F.readyDieD2d d, .ro, .none, .any⟩, ⟨F.readyDieBase d, .ro, .none, .any⟩, ⟨F.readyDieHbm d, .ro, .none, .any⟩, ⟨F.readyDiePort d, .ro, .none, .any⟩, ⟨F.readyDieCluster d, .ro, .none, .any⟩]⟩,
  ⟨0x18 + 8 * d + 0x4, 32, [⟨F.presentDiePresent d, .ro, .none, .any⟩]⟩]

/-- The registers of the `fw` block. -/
def fwRegs : List Reg := [
  ⟨0x10000, 32, [⟨F.fwCmdOp, .wo, .none, .between 1 7⟩]⟩,
  ⟨0x10000 + 0x4, 32, [⟨F.fwStatusDone, .ro, .none, .any⟩, ⟨F.fwStatusResult, .ro, .none, .any⟩, ⟨F.fwStatusStaged, .ro, .none, .any⟩, ⟨F.fwStatusWriting, .ro, .none, .any⟩]⟩,
  ⟨0x10000 + 0x8, 64, [⟨F.fwSrcAddr, .rw, .live, .mult 256⟩]⟩,
  ⟨0x10000 + 0x10, 32, [⟨F.fwOffOffset, .rw, .live, .mult 256⟩]⟩,
  ⟨0x10000 + 0x14, 32, [⟨F.fwLenBytes, .rw, .live, .between 1 0x4000000⟩]⟩,
  ⟨0x10000 + 0x18, 32, [⟨F.fwSvnFloor, .ro, .none, .any⟩]⟩,
  ⟨0x10000 + 0x1C, 32, [⟨F.ledgerHeadLseq, .ro, .none, .any⟩]⟩,
  ⟨0x10000 + 0x20, 32, [⟨F.bistCmdTarget, .wo, .none, .cluster⟩]⟩,
  ⟨0x10000 + 0x24, 32, [⟨F.bistStatusDone, .ro, .none, .any⟩, ⟨F.bistStatusResult, .ro, .none, .any⟩]⟩,
  ⟨0x10000 + 0x28, 64, [⟨F.bistMisrMisr, .ro, .none, .any⟩]⟩,
  ⟨0x10000 + 0x30, 64, [⟨F.bistExpectMisr, .ro, .none, .any⟩]⟩,
  ⟨0x10000 + 0x38, 64, [⟨F.bistFailaddrAddr, .ro, .none, .any⟩]⟩,
  ⟨0x10000 + 0x40, 32, [⟨F.bistFail0Fail, .ro, .none, .any⟩]⟩,
  ⟨0x10000 + 0x44, 32, [⟨F.bistFail1Fail, .ro, .none, .any⟩]⟩,
  ⟨0x10000 + 0x48, 32, [⟨F.bistFail2Fail, .ro, .none, .any⟩]⟩,
  ⟨0x10000 + 0x4C, 32, [⟨F.bistFail3Fail, .ro, .none, .any⟩]⟩]

/-- The register with offset `off` in a block's list. -/
def pick (off : Nat) (l : List Reg) : Option Reg := l.find? fun r => r.off == off

/-- Port counters 0–63 (12 R351). -/
def portCtr (p i : Nat) : Fld :=
  ⟨dieOff (p / 8) + 0x40000 + 0x10000 * (p % 8) + 0x100 + 8 * i, 0, 64, 0⟩

/-- A register of cluster `k` at cluster offset `o` (05 R142). -/
def clusterReg (k o off : Nat) : Option Reg :=
  if o < 0x8000 then
    let g := 8 * k + o / 0x1000
    let r := o % 0x1000
    if 0x100 ≤ r ∧ r < 0x200 then pick off (meRegs g ((r - 0x100) / 0x80))
    else if 0x200 ≤ r ∧ r < 0x280 then pick off (veRegs g) else none
  else if 0x8000 ≤ o ∧ o < 0x8040 then pick off (wayRegs k ((o - 0x8000) / 4))
  else if 0xC000 ≤ o ∧ o < 0xD000 then pick off (blwRegs k)
  else none

/-- A register of die stack `d` at die-stack offset `o` (05 R142). -/
def dieReg (d o off : Nat) : Option Reg :=
  if o < 0x10000 then pick off (dieRegs d)
  else if o < 0x12000 then pick off (d2dRegs d ((o - 0x10000) / 0x1000))
  else if o < 0x20000 then none
  else if o < 0x30000 then
    pick off (smyRegs d ++ if d = 0 then smyExpRegs else [])
  else if o < 0x31000 then
    pick off (rmtRegs d ++ if d = 0 then rmtKeyRegs else [])
  else if o < 0x33000 then (if d = 0 then pick off (rmtxRegs ((o - 0x31000) / 0x20)) else none)
  else if o < 0x40000 then none
  else if o < 0xC0000 then
    let p := 8 * d + (o - 0x40000) / 0x10000
    let r := o % 0x10000
    if r < 0x40 then pick off (portRegs p)
    else if r < 0x80 then pick off (portUcRegs p ((r - 0x40) / 8))
    else if r < 0xC0 then pick off (portMcRegs p ((r - 0x80) / 8))
    else if r < 0x100 then pick off (portPrioRegs p ((r - 0xC0) / 8))
    else if r < 0x300 ∧ r % 8 = 0 then
      some ⟨off, 64, [⟨portCtr p ((r - 0x100) / 8), .rc, .none, .any⟩]⟩
    else none
  else if o < 0x100000 then pick off (hbmRegs (4 * d + (o - 0xC0000) / 0x10000))
  else if o < 0x180000 then clusterReg (8 * d + (o - 0x100000) / 0x10000) (o % 0x10000) off
  else none

/-- The register at a control-space offset; `none` for a reserved offset (05 R142, R144). -/
def regAt (off : Nat) : Option Reg :=
  if off < 0x18 then pick off identRegs
  else if off < 0x38 then pick off (identDieRegs ((off - 0x18) / 8))
  else if off < 0x10000 then pick off identRegs
  else if off < 0x20000 then pick off fwRegs
  else if off < 0x30000 then pick off errRegs
  else if off < 0x30020 then pick off pwrRegs
  else if off < 0x30030 then pick off (pwrDieRegs ((off - 0x30020) / 4))
  else if off < 0x30040 then none
  else if off < 0x30060 then pick off (pwrRailRegs ((off - 0x30040) / 8))
  else if off < 0x300E0 then pick off (pwrDamperRegs ((off - 0x30060) / 4))
  else if off < 0x30100 then none
  else if off < 0x30180 then pick off (pwrVtabRegs ((off - 0x30100) / 0x20) ((off - 0x30100) % 0x20 / 4))
  else if off < 0x30200 then none
  else if off < 0x30220 then pick off (pwrTempRegs ((off - 0x30200) / 8))
  else if off < 0x40000 then none
  else if off < 0x40100 then pick off secRegs
  else if off < 0x40500 then pick off (secTenantRegs ((off - 0x40100) / 4))
  else if off < 0x40520 then pick off (secSealRegs ((off - 0x40500) / 4))
  else if off < 0x40600 then none
  else if off < 0x41600 then pick off (bundleRegs ((off - 0x40600) / 0x40))
  else if off < 0x50000 then none
  else if off < 0x51000 then pick off schRegs
  else if off < 0x55000 then pick off (sqRegs ((off - 0x51000) / 0x40))
  else if off < 0x58000 then none
  else if off < 0x60000 then pick off (semRegs ((off - 0x58000) / 8))
  else if off < 0x80000 then pick off (plRegs ((off - 0x60000) / 0x10000))
  else if off < 0x84000 then pick off (ctxRegs ((off - 0x80000) / 0x40))
  else if off < 0x88100 then pick off accRegs
  else if off < 0x88200 then pick off (rtSlotRegs ((off - 0x88100) / 4))
  else if off < 0x90000 then pick off rtRegs
  else if off < 0x91000 then pick off resRegs
  else if off < 0x99000 then pick off (resxRegs ((off - 0x91000) / 0x80))
  else if off < 0xA0000 then none
  else if off < 0xA1000 then pick off colRegs
  else if off < 0xA3000 then pick off (colxRegs ((off - 0xA1000) / 0x20))
  else if off < 0xA8000 then none
  else if off < 0xAC000 then pick off (stqRegs ((off - 0xA8000) / 0x40))
  else if off < 0xAD000 then pick off (stgRegs ((off - 0xAC000) / 0x10))
  else if off < 0xB0000 then none
  else if off < 0xD0000 then pick off (tallyRegs ((off - 0xB0000) / 32))
  else if off < 0xD0100 then pick off pkgMemRegs
  else if off < 0xD0900 then pick off (isdRegs ((off - 0xD0100) / 8))
  else if off < 0x1000000 then none
  else if off < 0x5000000 then dieReg ((off - 0x1000000) / 0x1000000) (off % 0x1000000) off
  else none

end Sys2Proof.Machine
end

