-- ==== Sys2Proof/Machine/State.lean ====
section
/-! DEFINITION. The state of the Igisen block as plain data: every memory, register, queue, counter and pin
the spec gives it, and the machine after reset. -/
namespace Sys2Proof.Machine

/-! ### Memory (chapter 05) -/

/-- A line of a context's cluster-memory cache (05 R117). -/
structure CLine where
  cluster : Nat
  ctx : Nat
  /-- The way that holds it. -/
  way : Nat
  /-- Interleave set number and line number `o div 128` within it. -/
  set : Nat
  line : Nat
  data : List Byte
  dirty : BitVec 128
  stamp : Nat
  deriving DecidableEq, Repr

/-- A cached translation (05 R131): `unit` 0–31 a cluster's movers, 32–35 a die stack. -/
structure TlbE where
  unit : Nat
  ctx : Nat
  /-- CVA div 2 MiB of the access that walked. -/
  page : Nat
  leaf : Word64
  big : Bool
  deriving DecidableEq, Repr

/-- A write waiting for a first-touch copy (05 R133). -/
structure WpWait where
  ctx : Nat
  unit : Nat
  cva : Nat
  data : List Byte
  deriving DecidableEq, Repr

/-- The memories, their caches and what waits on them. Keys: `oc` g·2^20 + address; `cm`
(cluster·16 + way)·1,572,864 + offset; `hbm` (stack·32 + pc)·1,207,959,552 + offset; `comp` the
companion physical address. Unlisted bytes read 0; of `flash` 0xFF. -/
structure Mem where
  oc : Bytes
  cm : Bytes
  hbm : Bytes
  comp : Bytes
  flash : Bytes
  /-- HBM bursts (key div 32) whose check bits are bad (05 R123), and those with one erroneous symbol (05
  R122). -/
  badBursts : Tbl Bool
  softBursts : Tbl Bool
  /-- 64-bit words of the SRAMs with an uncorrectable, and with a correctable error (05 R113): operand caches
  key div 8 of `oc`; cluster memory 2^25 + key div 8 of `cm`; 2^28 + port the port buffer's word read next; and
  how many were corrected and met uncorrectable (R113 gives the counts no register). -/
  sramBad : Tbl Bool
  sramSoft : Tbl Bool
  sramCe : Nat
  sramUe : Nat
  lines : List CLine
  stamp : Nat
  tlb : List TlbE
  /-- The running invalidation and the MEM_TINV writes that wait behind it (05 R143). -/
  tinvNow : Word64
  tinvNext : List Word64
  /-- Sets being cleared (05 R127). -/
  setClr : Tbl Bool
  wpWaits : List WpWait
  deriving DecidableEq, Repr

/-! ### Control space -/

/-- Register fields and the copies beside them (00 R11, R13, 05 R144). `fields` holds the value of a
field under its key; a field not listed holds its reset value. -/
structure Regs where
  fields : Tbl Nat
  /-- Shadow copies of staged fields, by field key; the value is stored plus one. -/
  shadow : Tbl Nat
  /-- Holding copies of low halves, by link·2^28 + offset; stored plus one. -/
  hold : Tbl Nat
  /-- Latched high words of RC counters, likewise; stored plus one. -/
  rcHold : Tbl Nat
  /-- Register-like byte buffers SEC_IN and SEC_OUT, by address 0–0x3FFF and 0x4000–0x7FFF. -/
  secBuf : Bytes
  deriving DecidableEq, Repr

/-! ### Engines and control cores (chapters 03, 04, 06) -/

/-- Whether an accumulation is open (03 R77). -/
inductive MatState where
  | idle | opened | folded
  deriving DecidableEq, Repr

/-- A tile of W32 values, cell (i, j) at 64·i + j (03 R54). -/
abbrev Tile := Tbl W32

/-- A queued engine word, with its place in the issue order of the core's two engines (03 R64, R74). -/
structure MWord where
  w : BitVec 128
  seq : Nat
  /-- Blocks that an MMA in execution has streamed: it resumes at the next (03 R76). -/
  done : Nat := 0
  deriving DecidableEq, Repr

/-- A matrix engine (03 R54, R60, R67, R77). -/
structure MatEng where
  st : MatState := .idle
  endK : Bool := false
  fa : Nat := 0
  fb : Nat := 0
  /-- Tile rows and columns, 1–64. -/
  mrows : Nat := 0
  ncols : Nat := 0
  /-- Total segments of K, 1–65,536. -/
  nseg : Nat := 0
  seg0 : Nat := 0
  tag : Nat := 0
  /-- Segments pushed, and blocks of the unfinished segment. -/
  pushed : Nat := 0
  blk : Nat := 0
  acc : Tile := []
  /-- Segment stack, top first: size and values. -/
  stack : List (Nat × Tile) := []
  /-- No block streamed since MACC (03 R73). -/
  fresh : Bool := false
  queue : List MWord := []
  deriving DecidableEq, Repr

/-- A queued vector word with the scalars captured at issue (04 R86): s_A, s_(A+1), s_B, s_C and
s_(C+1), where the fields name scalars. -/
structure VWord where
  w : BitVec 64
  sA : Word64
  sA1 : Word64
  sB : Word64
  sC : Word64
  sC1 : Word64
  deriving DecidableEq, Repr

/-- A fused row operation in execution (04 R103, R108): its word, pass 1–3, chunk, m, S, r, LSE, and what pass 3
ends by writing to D. -/
structure FusedRun where
  q : VWord
  pass : Nat := 1
  chunk : Nat := 0
  m : W32 := 0xFF800000#32
  sum : W32 := 0
  r : W32 := 0
  lse : W32 := 0
  res : W32 := 0
  deriving DecidableEq, Repr

/-- A vector engine (04 R81, R92, R99, R108). -/
structure VecEng where
  /-- Register v, lane l at 128·v + l. -/
  v : Tbl W32 := []
  /-- Masks k1–k7. -/
  k : Tbl (BitVec 128) := []
  pairs : Tbl (W32 × W32) := []
  wbase : Nat := 0
  queue : List VWord := []
  /-- The fused row operation in execution. -/
  run : Option FusedRun := Option.none
  deriving DecidableEq, Repr

/-- The instance a control core runs (06 R175, R188). -/
structure Inst where
  ctx : Nat
  subseq : Nat
  task : Nat
  index : Nat
  count : Nat
  rank : Nat
  size : Nat
  args : Nat
  shared : Nat
  sharedLen : Nat
  step : Nat
  gtag : Nat
  code : Nat
  codeLen : Nat
  deriving DecidableEq, Repr

/-- What a control core waits for (06 R181, R192, R193). -/
inductive Wait where
  | none
  | fence (mask : Nat)
  | exit
  | sem (n v : Nat)
  deriving DecidableEq, Repr

/-- An outstanding mover command: its 64 bytes, and once it has begun the coarse scales and the STEP of its
stream, the chunks it has made and what they reported (05 R136, R138). -/
structure MvWork where
  cmd : List Byte
  stream : Option (List W32 × Nat) := Option.none
  made : Nat := 0
  census : Census := {}
  deriving DecidableEq, Repr

/-- A control core (06 R187). -/
structure CoreSt where
  inst : Option Inst := Option.none
  pc : Nat := 0
  s : Vector Word64 32 := Vector.replicate 32 0#64
  /-- Outstanding mover commands, oldest first. -/
  cmds : List MvWork := []
  wait : Wait := .none
  deriving DecidableEq, Repr

structure Eng where
  /-- Matrix engine 2·g + e. -/
  mat : Tbl MatEng
  vec : Tbl VecEng
  core : Tbl CoreSt
  deriving DecidableEq, Repr

/-! ### Scheduler (chapter 06) -/

/-- Task states, in the order of SCH_PROBE_RES.STATE (06 R172, R195). -/
inductive TaskSt where
  | pending | semwait | admitted | ready | running | done | cancelled | faulted
  deriving DecidableEq, Repr

/-- A task of an active graph: what the check found, what was read at ADMIT, and its progress. -/
structure TaskS where
  st : TaskSt := .pending
  /-- TASK dependences and the SEM dependence found at the check (06 R158, R160). -/
  deps : List Nat := []
  sem : Option (Nat × Nat) := none
  acquired : Bool := false
  kernel : Nat := 0
  instances : Nat := 0
  lcohort : Nat := 0
  prio : Nat := 0
  fill : Bool := false
  notify : Bool := false
  bindOff : Nat := 0
  nbind : Nat := 0
  affinity : Nat := 0xFFFF
  sigsem : Nat := 0xFFFF
  sigval : Nat := 0
  args : Nat := 0
  /-- Instances placed and instances that completed EXIT. -/
  placed : Nat := 0
  idone : Nat := 0
  /-- Age of the Ember held (06 R177). -/
  ember : Option Nat := none
  /-- Place of its pending count in the house set of SCH_CFG.PSET, in counts of 4 bytes, and the count last
  written there (06 R171). -/
  place : Nat := 0
  count : Option Nat := none
  deriving DecidableEq, Repr

/-- How a graph completed (06 R169): STATUS and DETAIL. -/
structure Completion where
  status : Nat
  detail : Nat
  tdone : Nat
  deriving DecidableEq, Repr

/-- An active graph, or a CANCEL entry that waits for its completion entry (06 R164–R170). -/
structure Graph where
  ctx : Nat
  subseq : Nat
  gtag : Nat
  image : Nat
  /-- The image header as checked (06 R151). -/
  hdr : List Byte
  ordered : Bool
  /-- The image check has not ended. -/
  checking : Bool
  /-- A CANCEL named it while it was being checked. -/
  cancelled : Bool
  tasks : List TaskS
  fin : Option Completion
  deriving DecidableEq, Repr

/-- Who waits on a semaphore (06 R173, R181): a task, a core at SEMW, and the units that wait as a request of
the context: the update coordinator (08 R221), the collective unit (10 R276), the RMT engine (11 R328) and
the unit that serves a stage-queue end (09 R262). -/
inductive Waiter where
  | task (ctx subseq task : Nat)
  | core (ctx g : Nat)
  | update (ctx : Nat)
  | coll (ctx : Nat)
  | rmt (ctx : Nat)
  | queue (ctx qend : Nat)
  deriving DecidableEq, Repr

structure SemReq where
  who : Waiter
  v : Nat
  deriving DecidableEq, Repr

structure Sched where
  /-- Active graphs of all contexts, in the order they were consumed. -/
  graphs : List Graph
  /-- Finished graphs in the order they finished: (context, SUBSEQ) (06 R170). -/
  finished : List (Nat × Nat)
  semQ : Tbl (List SemReq)
  /-- Units whose request has been granted, with the count taken, and that have yet to act on it. -/
  granted : List Waiter
  /-- Age given to the next Ember. -/
  nextEmber : Nat
  /-- Contexts whose head line has been snooped and is to be re-read (06 R165). -/
  rewatch : Tbl Bool
  /-- Contexts whose step record must be read at the next consumed entry (07 R202). -/
  recDue : Tbl Bool
  deriving DecidableEq, Repr

/-! ### Training numerics (chapter 07) -/

/-- The doom state of a step (07 R213). -/
structure Doom where
  doomed : Bool := false
  bypeer : Bool := false
  latewatch : Bool := false
  slot : Nat := 0xFFFF
  /-- The step's contribution to the global norm has been formed. -/
  normed : Bool := false
  deriving DecidableEq, Repr

/-- Live counts of a slot for one step (07 R200, R204). -/
structure Live where
  slot : Nat
  step : Nat
  zero : Nat
  sat : Nat
  nonfin : Nat
  max : Nat
  deriving DecidableEq, Repr

/-- A report on its way to a slot (07 R199, R200). -/
structure Report where
  ctx : Nat
  slot : Nat
  step : Nat
  zero : Nat
  sat : Nat
  nonfin : Nat
  max : Nat
  deriving DecidableEq, Repr

/-- The working copy of a step record (07 R201). -/
structure StepRec where
  step : Nat := 0
  applied : Nat := 0
  skipped : Nat := 0
  cursor : Nat := 0
  lossScale : W32 := 0
  lsMin : W32 := 0
  lsMax : W32 := 0
  clean : Nat := 0
  growInt : Nat := 0
  flags : Nat := 0
  outcome : Nat := 0
  late : Nat := 0
  scaleList : Nat := 0
  nscale : Nat := 0
  closed : Nat := 0
  /-- Doom state of the open step and of the next. -/
  doom : Doom := {}
  doomNext : Doom := {}

  /-- R212's check is due at the next close. -/
  checkDue : Bool := true
  /-- One more than the highest step a stream has carried: STEP is open when it is below this (07 R202). -/
  carried : Nat := 0
  deriving DecidableEq, Repr

structure Train where
  steps : Tbl (Option StepRec)
  live : List Live
  reports : List Report
  deriving DecidableEq, Repr

/-! ### Errors (chapter 19) -/

/-- A record made (19 R484). `rid` is the model's own serial number of the record. -/
structure Rec where
  rid : Nat
  cls : Nat
  die : Nat
  unit : Nat
  kind : Nat
  sub : Nat
  ctx : Option Nat
  parent : Option Nat
  seq : Nat
  watch : Nat
  detail : Nat
  /-- An action of 19 R490 made it: it is never raised in turn. -/
  esc : Bool := false
  deriving DecidableEq, Repr

/-- A log entry: the 32 bytes as stored. -/
structure LogE where
  bytes : List Byte
  rid : Nat
  deriving DecidableEq, Repr

/-- The source codes of a Bell and what it carries (13 R369, R370). -/
structure Bell where
  src : Nat
  a : Nat
  b : Nat
  arg : Nat
  deriving DecidableEq, Repr

structure Err where
  /-- Records made and not yet stored, oldest first. -/
  recQ : List Rec
  log : Tbl (Option LogE)
  /-- Log index of each stored record, by rid; stored plus one. -/
  index : Tbl Nat
  nextRid : Nat
  /-- Instances of an audit that wait for their quiescent point: Well and instance (19 R492). -/
  audit : List (Nat × Nat)
  deriving DecidableEq, Repr

/-! ### The Puell links (chapter 13) -/

/-- A Puell message (13 R360, R370), headers and payload together. -/
structure PlMsg where
  cls : Nat
  opc : Nat
  tag : Nat := 0
  status : Nat := 0
  addr : Nat := 0
  win : Nat := 0
  size : Nat := 0
  mask : Nat := 0
  data : List Byte := []
  /-- A received header whose Data message has not come. -/
  dataDue : Bool := false
  deriving DecidableEq, Repr

/-- The unit on whose behalf a coherent request is outstanding. -/
inductive PlOwner where
  | mover (g : Nat)
  | head (ctx : Nat)
  | unit (ctx : Nat)
  | house
  deriving DecidableEq, Repr

/-- An outstanding request of the device (13 R360, R362): `opc` as R361; `merge` the bytes of a
partial write, by offset within the line, that wait for GntE. -/
structure PlReq where
  tag : Nat
  opc : Nat
  addr : Nat
  owner : PlOwner
  merge : List (Nat × Byte)
  deriving DecidableEq, Repr

/-- States of a line the device caches (13 R362); a line not listed is in I. -/
inductive LineSt where
  | i | s | e | m
  deriving DecidableEq, Repr

structure PlLine where
  st : LineSt := .i
  link : Nat := 0
  data : List Byte := []
  deriving DecidableEq, Repr

/-- A request that waits for a free tag (13 R357). -/
structure PlAsk where
  opc : Nat
  addr : Nat
  owner : PlOwner
  merge : List (Nat × Byte)
  data : List Byte
  deriving DecidableEq, Repr

/-- Credits of one class of received messages: those the companion holds and those to be returned to it (13
R357). -/
structure PlCred where
  held : Nat := 0
  owed : Nat := 0
  deriving DecidableEq, Repr

/-- One Puell link (13 R353–R368). -/
structure PlLink where
  /-- FSEQ of the next DATA flit sent and of the next expected. -/
  txSeq : Nat := 0
  rxSeq : Nat := 0
  /-- A NAK was sent and the expected FSEQ has not arrived again. -/
  gap : Bool := false
  /-- DATA flits sent and not yet acknowledged: FSEQ and message. -/
  replay : List (Nat × PlMsg) := []
  /-- Messages that wait for a credit or for room in the replay buffer. -/
  txWait : List PlMsg := []
  /-- Replays in a row that began at the same flit, and that flit. -/
  sameCount : Nat := 0
  sameSeq : Nat := 0
  retrainFails : Nat := 0
  /-- Credits held for Request, Request data and Bell messages. -/
  credReq : Nat := 0
  credData : Nat := 0
  credBell : Nat := 0
  /-- Credits advertised for the companion's Requests, their Data and its Snoops. -/
  advReq : PlCred := {}
  advData : PlCred := {}
  advSnp : PlCred := {}
  reqs : List PlReq := []
  /-- Requests that wait for a tag, oldest first. -/
  tagWait : List PlAsk := []
  /-- Snoops held behind an outstanding request: tag, line address, SnpInv or not. -/
  snoops : List (Nat × Nat × Bool) := []
  /-- Messages received whose Data has not come, and the slots of an unfinished one. -/
  inbox : List PlMsg := []
  rest : List Byte := []
  /-- Key epoch of each direction, the selector of the flits received, and flit positions in each direction. -/
  txEpoch : Nat := 0
  rxEpoch : Nat := 0
  rxSel : Bool := false
  fposTx : Nat := 0
  fposRx : Nat := 0
  /-- The flits received are encrypted: the companion's direction has switched to a key. -/
  rxConf : Bool := false
  /-- The session whose key failed a tag and holds the link (13 R368). -/
  heldBy : Option (List Byte) := none
  deriving DecidableEq, Repr

structure Puell where
  link : Tbl PlLink
  lines : Tbl PlLine
  /-- Companion lines whose RdCur data a core's movers hold: (core, line address). -/
  inHand : List (Nat × Nat)
  bellQ : List (Nat × Bell)
  bseq : Nat
  bellLost : Bool
  deriving DecidableEq, Repr

/-! ### The Smithy (chapter 08) -/

/-- A shard descriptor as read (08 R222). -/
structure Shard where
  group : Nat
  house : Bool
  hset : Nat
  count : Nat
  master : Nat
  mom1 : Nat
  mom2 : Nat
  grad : Nat
  digest : Nat
  progress : Nat
  deriving DecidableEq, Repr

/-- A group record as read (08 R224). -/
structure Grp where
  flags : Nat
  owner : Nat
  rule : Nat
  vsk : Nat
  wcfmt : Nat
  wslot : Nat
  mslot : Nat
  lr : W32
  beta1 : W32
  beta2 : W32
  eps : W32
  eps1 : W32
  wd : W32
  wccoarse : W32
  trmax : W32
  deriving DecidableEq, Repr

/-- Per-group constants of an applied step (08 R228). -/
structure GrpC where
  a1 : W32 := 0
  a2 : W32 := 0
  r1 : W32 := 0
  r2 : W32 := 0
  d : W32 := 0
  deriving DecidableEq, Repr

/-- How far an open update has come (08 R217, 07 R204). -/
inductive UpdPhase where
  /-- Waits for Q. -/
  | waitQ
  | applied
  | skipped
  /-- Step commit record written; rows 4 to 7 to come. -/
  | drain
  /-- Row 7 done; DONESEM not yet signalled. -/
  | recorded
  deriving DecidableEq, Repr

/-- A chunk in a retain slot (08 R238): its outputs as formed, and whether it is marked open. -/
structure ChunkS where
  shard : Nat
  chunk : Nat
  opened : Bool
  /-- Row 5's writes: 0 all made, 1 waiting for a first-touch copy, 2 met a lost companion link and
  must be redone (08 R238, R242). -/
  todo : Nat
  master : List Byte
  mom1 : List Byte
  mom2 : List Byte
  digest : List Byte
  /-- Reports of row 7: to MSLOT and to WSLOT. -/
  mrep : Census
  wrep : Census
  deriving DecidableEq, Repr

/-- An open update (08 R217–R243). -/
structure Upd where
  step : Nat
  phase : UpdPhase
  gosem : Nat
  donesem : Nat
  bell : Bool
  ringLog2 : Nat
  ring : Nat
  absurd : W32
  clip : W32
  redo : List Nat
  shards : List Shard
  groups : Tbl (Option Grp)
  consts : Tbl GrpC
  q : W32
  n : W32
  c : W32
  k : W32
  outcome : Nat
  taus : Tbl W32
  /-- Own vector of trust-ratio sums once it has been sent, and the vectors received by position
  (08 R230, 10 R284). -/
  trustOwn : Option (List Byte)
  trustIn : List (Nat × List Byte)
  /-- LOSS_SCALE of the step. -/
  lscale : W32
  /-- Chunks in slots: die·4 + slot. -/
  slots : Tbl (Option ChunkS)
  /-- What row 8 still waits for: bit 0 the snapshot open, bit 1 the twin copy (18 R461, R471); WATCH_NS
  when the wait for a twin buffer began, plus one. -/
  after : Nat
  twinFrom : Nat
  redone : Bool
  deriving DecidableEq, Repr

/-- A running export (08 R247). -/
structure Export where
  ctx : Nat
  shard : Nat
  dst : Nat
  deriving DecidableEq, Repr

structure Smithy where
  upd : Tbl (Option Upd)
  exp : Option Export
  /-- The group records in force for working copies: those of the last update committed, or of the first gather
  or export before any (08 R225, R236). -/
  groups : Tbl (Option Grp)
  /-- Context whose chunk each die stack's Smithy took up last, plus one: contexts take turns (08 R245). -/
  turn : Tbl Nat
  deriving DecidableEq, Repr

/-! ### Collectives (chapter 10) -/

/-- An exact square sum (10 R283). -/
structure Ess where
  e : Nat := 0
  nan : Bool := false
  inf : Bool := false
  deriving DecidableEq, Repr

/-- A collective command in flight (10 R276–R289): the entry's fields and its progress. -/
structure ColCmd where
  /-- Position of the entry in the ring (HEAD when it was consumed), which tells commands of one context apart;
  and its CVA. -/
  num : Nat
  addr : Nat
  op : Nat
  /-- Bytes 2 and 3 of the entry, reserved. -/
  rsv : Nat
  cflags : Nat
  sigsem : Nat
  tslot : Nat
  sigval : Nat
  ctag : Nat
  src : Nat
  dst : Nat
  count : Nat
  tagrec : Nat
  shardAt : Nat
  dring : Nat
  /-- Started, and the STEP read at the start (10 R281). -/
  started : Bool
  step : Nat
  /-- The own contribution has been sent. -/
  sent : Bool
  aborting : Bool
  /-- Messages received and not yet used, and the positions whose abort marker has come. -/
  inbox : List ColMsg
  marks : List Nat
  /-- RSCAT: elements of the own piece written, of the replicas' pieces received, and of other pieces
  forwarded. AGATH: `fill` and `fwd` count bytes. -/
  own : Nat
  fill : Nat
  fwd : Nat
  /-- RSCAT: the write stream's census so far (10 R281). -/
  rep : Census
  /-- NORM's contribution; RSCAT's square sum so far. -/
  ess : Ess
  /-- Tags seen by AGATH: shard, VSTEP, digest. -/
  tags : List (Nat × Nat × Nat)
  /-- AGATH: the replicas of each shard whose tag has come, and the bytes held until all have: shard, unit, CVA,
  bytes. -/
  seen : List (Nat × Nat)
  held : List (Nat × Nat × Nat × List Byte)
  /-- ARED, DXCH: the own contribution as it was sent. -/
  kept : List Byte
  deriving DecidableEq, Repr

/-- A map-swap arrival kept (10 R274). -/
structure Arrival where
  mapid : Nat
  gen : Nat
  position : Nat
  deriving DecidableEq, Repr

structure ColCtx where
  cmds : List ColCmd := []
  arrivals : List Arrival := []
  ess : Ess := {}
  /-- The step of the last NORM that has started. -/
  normed : Option Nat := none
  /-- The Q last formed, with its step (01 R24). -/
  q : Option (Nat × W32) := none
  deriving DecidableEq, Repr

structure Col where
  ctx : Tbl ColCtx
  deriving DecidableEq, Repr

/-! ### Remote memory transport (chapter 11) -/

/-- A connection record as configured (11 R295). -/
structure ConnRec where
  pcn : Nat := 0
  epoch : Nat := 0
  owner : Nat := 0
  port : Nat := 0
  ipv6 : Bool := false
  dscp : Nat := 0
  prio : Nat := 0
  /-- Payload bytes per packet. -/
  pmtu : Nat := 1024
  window : Nat := 0
  peerIp : Nat := 0
  nextHop : Nat := 0
  deriving DecidableEq, Repr

/-- States of a connection slot, in the order of RMT_CSTAT.STATE (11 R302, R330). -/
inductive SlotSt where
  | free | opening | opened | closing | halted
  deriving DecidableEq, Repr

/-- Whose message a packet belongs to (11 R328, 09 R262, 10 R278, 18 R471). -/
inductive MsgOwner where
  | cmd (ctx index : Nat)
  | queue (qend seq : Nat)
  | credit (qend : Nat)
  | coll (ctx ctag : Nat)
  | twin (ctx step : Nat)
  | restore (ctx : Nat)
  deriving DecidableEq, Repr

/-- A request packet of this module (11 R307, R310): `src` the CVA whose bytes a resend reads
again, `data` a payload that has no CVA, `dst` where a response's bytes go, `got` the bytes of a
READ received, `npsn` the PSNs it takes. -/
structure TxPkt where
  psn : Nat
  npsn : Nat
  owner : MsgOwner
  opc : Nat
  sub : Nat
  first : Bool
  last : Bool
  axh : Option Axh
  cxh : Option Cxh
  opnd0 : Word64
  opnd1 : Word64
  src : Option Nat
  len : Nat
  data : List Byte
  dst : Nat
  got : Nat
  /-- It holds a credit of the Well; else it is part of its context's debt (11 R326). -/
  paid : Bool := true
  deriving DecidableEq, Repr

/-- The message a connection has open on its receiving side (11 R305, R317). -/
structure RxMsg where
  opc : Nat
  sub : Nat
  key : Option Nat
  /-- CVA of the next byte and bytes of the message still to come. -/
  next : Nat
  left : Nat
  imm : Nat
  cxh : Option Cxh
  /-- Payload of a collective message, as received so far. -/
  buf : List Byte
  /-- Its FIRST packet has passed the key check and waits for a page's copy (11 R316, 05 R133). -/
  waiting : Bool := false
  deriving DecidableEq, Repr

/-- A connection slot (11 R295, R302–R323). `cur`, `step` and the marks of R322 in 0.1 Gb/s and
bytes. -/
structure RmtSlot where
  st : SlotSt := .free
  conn : ConnRec := {}
  lastEpoch : Nat := 0
  path : Nat := 0
  timeouts : Nat := 0
  /-- E of the receiving direction, and the next PSN of the sending one. -/
  expect : Nat := 0
  next : Nat := 0
  unacked : List TxPkt := []
  /-- Reads and atomics that an ACK covered and whose response is not complete (11 R309, R329). -/
  reads : List TxPkt := []
  /-- Packets of started messages that wait for the window or for a credit. -/
  queued : List TxPkt := []
  /-- PSN and original value of the 16 newest atomics. -/
  alog : List (Nat × Word64) := []
  rx : Option RxMsg := none
  /-- A NAK SEQ or a NAK BUSY for E is outstanding. -/
  gap : Bool := false
  busy : Bool := false
  /-- Packets processed and not acknowledged, and whether one of them was marked. -/
  owed : Nat := 0
  owedEce : Bool := false
  cur : Nat := 0
  step : Nat := 0
  hold : Nat := 0
  a : Nat := 0
  m : Nat := 0
  /-- A closing slot's CLOSE waits; a BUSYWAIT runs. -/
  busyWait : Bool := false
  deriving DecidableEq, Repr

/-- A cached key record (11 R314, R317, R321). -/
structure KeyC where
  index : Nat
  bytes : List Byte
  refs : Nat
  deriving DecidableEq, Repr

/-- An RMT command in flight (11 R328): entry number, its CVA and its fields. -/
structure RmtCmd where
  index : Nat
  addr : Nat
  op : Nat
  fence : Bool
  kw16 : Bool
  conn : Nat
  key : Nat
  length : Nat
  laddr : Nat
  roff : Nat
  opnd0 : Word64
  opnd1 : Word64
  imm : Nat
  sigsem : Nat
  sigval : Nat
  started : Bool
  deriving DecidableEq, Repr

/-- A running REVOKE: its index and the messages aborted so far (11 R318). -/
structure Revoke where
  index : Nat
  aborted : Nat
  deriving DecidableEq, Repr

structure Rmt where
  /-- Key die·65,536 + slot. -/
  slot : Tbl RmtSlot
  /-- Cached slots of each die stack, most recently used first (11 R320). -/
  cached : Tbl (List Nat)
  /-- Packets waiting for a slot's record, oldest first, per die stack. -/
  waiting : Tbl (List Packet)
  keys : Tbl (List KeyC)
  /-- FIRST packets, and what arrived behind them, waiting for a key record. -/
  keyWait : Tbl (List Packet)
  revoke : Option Revoke
  /-- Evictions and fetches counted (RMT_SPILL and RMT_FETCH of 11 R320, which have no offset). -/
  spill : Tbl Nat
  fetch : Tbl Nat
  cmds : Tbl (List RmtCmd)
  deriving DecidableEq, Repr

/-! ### Ethernet ports (chapter 12) -/

/-- A frame in a port's receive buffer (12 R338, R341). -/
structure BufFrame where
  prio : Nat
  len : Nat
  exc : Bool
  kind : FrameKind
  deriving DecidableEq, Repr

/-- A frame presented to a port (12 R345): its destination, EtherType and what follows, and the context whose
connection it belongs to; none for a frame of management firmware. Source address, tag and FCS come at sending. -/
structure TxFrame where
  prio : Nat
  dstMac : Nat
  etype : Nat
  body : List Byte
  owner : Option Nat
  deriving DecidableEq, Repr

structure PortSt where
  frames : List BufFrame := []
  txq : List TxFrame := []
  /-- Deficit round robin: the priority last served and what each priority may still send, in bytes (12 R345). -/
  turn : Nat := 0
  deficit : Tbl Nat := []
  /-- Quanta of the received pause in force, per priority (entry 0 in PAUSE mode). -/
  pause : Tbl Nat := []
  /-- Announcements of R338 still to be sent. -/
  announce : Nat := 0
  /-- A PORT_IPV6_LO write that waits for its high half (12 R350). -/
  ipv6Lo : Option Nat := none
  deriving DecidableEq, Repr

/-! ### Dies and crossings (chapter 14) -/

/-- A crossing of a clocked domain (14 R383–R387). -/
structure Xing where
  dead : Bool := false
  inReset : Bool := false
  /-- The sender's pending bit and REQ, and the receiver's ACK: a handshake is outstanding while these differ. -/
  pending : Bool := false
  req : Bool := false
  ack : Bool := false
  /-- Pulses delivered, and the last value delivered. -/
  pulses : Nat := 0
  value : Word64 := 0
  deriving DecidableEq, Repr

/-- A die-to-die port (14 R376–R379). -/
structure D2dPort where
  /-- The group whose flit is delivered next. -/
  next : Nat := 0
  /-- Flits received and not yet in turn, by group. -/
  held : Tbl (List (BitVec 512)) := []
  /-- Groups whose refused flit has not been replayed. -/
  gap : Tbl Bool := []
  /-- WATCH_NS of the errors charged to each lane, key group·64 + lane. -/
  charges : Tbl (List Nat) := []
  /-- Lane the spare replaces, by group; stored plus one. -/
  spared : Tbl Nat := []
  deriving DecidableEq, Repr

structure Dies where
  /-- Latched straps ORIENT[2:0] of the four stacks (14 R372). -/
  orient : Tbl Nat
  /-- Position taken in discovery, stored plus one (14 R375). -/
  discPos : Tbl Nat
  /-- A discovery token is on its way round. -/
  token : Bool
  /-- Crossing key (die·32 + domain)·8 + crossing. -/
  xing : Tbl Xing
  /-- Port key die·2 + k. -/
  port : Tbl D2dPort
  /-- Fraction of WATCH_NS below 1 ns, in 2^-24 ns. -/
  frac : Tbl Nat
  /-- Departed stacks whose neighbours have yet to act: key die·2 + k of the acting port. -/
  notice : Tbl Bool
  /-- Stacks disabled for this boot (20 R498). -/
  disabled : Tbl Bool
  deriving DecidableEq, Repr

/-! ### Power and module pins (chapters 15, 21) -/

/-- Module power states (15 R398). -/
inductive PwrSt where
  | off | boot | run | tripped
  deriving DecidableEq, Repr

structure Power where
  st : PwrSt
  runEn : Bool
  rstN : Bool
  pwrOk : Bool
  railsUp : Bool
  /-- A power-down is under way, and RUN_EN has risen again meanwhile (21 R523). -/
  downPending : Bool
  riseAgain : Bool
  smbAddr : Nat
  /-- TAP instruction and boundary register (21 R524). -/
  tapIr : Nat
  tapBsr : Word64
  deriving DecidableEq, Repr

/-- What the power loops hold beside their registers (15 R402–R412). -/
structure Loops where
  inputMv : Nat
  /-- Thermal factor in hundredths, stored as 100 minus it; by cluster (15 R411). -/
  fcCut : Tbl Nat
  /-- Step of an HBM stack's cap: 0 none, 1 50 %, 2 12.5 % (15 R412). -/
  hbmCap : Tbl Nat
  /-- Consecutive slow intervals with |r − 1| above 0.20, by die stack (15 R407). -/
  disagree : Tbl Nat
  /-- Latest r × 256 of each die stack. -/
  ratio : Tbl Nat
  /-- Uncorrected estimate of each die stack over the slow interval, in pJ. -/
  estPj : Tbl Nat
  /-- Part of BLW_EST below 1 µJ, in 1/256 pJ, by cluster. -/
  estFrac : Tbl Nat
  /-- Part of the next withheld token, in 1/256, by cluster. -/
  tokens : Tbl Nat
  deriving DecidableEq, Repr


/-! ### Contexts (chapter 16) -/

/-- A grant record as read (16 R416). -/
structure Grant where
  cores : Nat
  /-- Way masks by cluster: scratch in [15:0], cache in [31:16]. -/
  ways : List Nat
  ptroot : Nat
  compbase : Nat
  complen : Nat
  steprec : Nat
  udesc : Nat
  vmode : Bool
  interleave : Bool
  realtime : Bool
  slice : Nat
  /-- Save set and set offset on each die stack. -/
  save : List (Nat × Nat)
  deriving DecidableEq, Repr

/-- The saved state of one core (16 R422, R423). -/
structure SavedCore where
  g : Nat
  core : CoreSt
  m0 : MatEng
  m1 : MatEng
  vec : VecEng
  oc : Bytes
  deriving DecidableEq, Repr

/-- A save image: cores, and scratch ways by cluster·16 + way. -/
structure Saved where
  cores : List SavedCore
  ways : List (Nat × Bytes)
  deriving DecidableEq, Repr

structure CtxSt where
  grant : Option Grant := none
  saved : Option Saved := none
  /-- The context has been resident since VALID was written 1. -/
  started : Bool := false
  /-- Its units are held by windows that a due switch waits for (16 R426). -/
  switchDue : Bool := false
  /-- Donor whose time this context runs on, stored plus one (16 R429). -/
  donor : Nat := 0
  /-- The semaphore whose waiter donates. -/
  donSem : Nat := 0
  /-- Calibrated µs of the slice already deducted for overrun. -/
  deducted : Nat := 0
  /-- WATCH_NS of P0 when a switch that waits for a window became due. -/
  dueAt : Nat := 0
  /-- Scratch ways that stay with the saved context until the chunk retained there is done: die stack and
  cluster·16 + way; and WATCH_NS of P0 when the save of the rest ended (16 R427). -/
  kept : List (Nat × Nat) := []
  keptAt : Nat := 0
  deriving DecidableEq, Repr

structure Ctxs where
  ctx : Tbl CtxSt
  /-- Runnable contexts that wait, in the order they became runnable (16 R420). -/
  waiting : List Nat
  /-- The real-time slot that runs and its context, stored plus one (16 R421). -/
  rtNow : Nat
  /-- ACC_CFG.RTEN as the last cycle boundary found it. -/
  rtOn : Bool
  deriving DecidableEq, Repr

/-! ### Security (chapter 17) -/

/-- A running security command (17 R455). -/
structure SecRun where
  op : Nat
  arg : Nat
  /-- SEC_IN as the command found it: a later write acts from the next command on (00 R12). -/
  input : Bytes
  /-- STATE has been TRANSITIONAL at some time since the command began. -/
  unsteady : Bool
  deriving DecidableEq, Repr

/-- A measurement entry (17 R444, R445). -/
structure Meas where
  bank : Nat := 0
  version : Nat := 0
  digest : List Byte := []
  deriving DecidableEq, Repr

structure Sec where
  run : Option SecRun
  secret : Option (List Byte)
  confPend : Bool
  /-- Content keys of the open bundle slots. -/
  ck : Tbl (List Byte)
  meas : Tbl Meas
  /-- READY bits that have been set since RUN_EN rose: package bits, then 32 bits per stack. -/
  everReady : Tbl Bool
  deriving DecidableEq, Repr

/-! ### Resilience (chapter 18) -/

/-- A region of a region list (18 R458). -/
structure Region where
  base : Nat
  length : Nat
  twin : Bool
  house : Bool
  hset : Nat
  bslot : Nat
  touched : Nat
  deriving DecidableEq, Repr

/-- A staging copy that waits to be encrypted and written (18 R465, R466). -/
structure StgPage where
  region : Nat
  page : Nat
  die : Nat
  data : Bytes
  deriving DecidableEq, Repr

/-- A snapshot attempt (18 R461–R468). -/
structure Snap where
  regions : List Region := []
  /-- Keys of the regions (K_u or K_r), and K_u. -/
  keys : List (List Byte) := []
  ku : List Byte := []
  /-- Pages whose protection is cleared, key region·2^32 + page. -/
  cleared : Tbl Bool := []
  /-- Pages whose first-touch copy is in progress, likewise. -/
  copying : Tbl Bool := []
  /-- Copies waiting to drain. -/
  staged : List StgPage := []
  /-- Tags of the records written, in image order. -/
  tags : List (List Byte) := []
  deriving DecidableEq, Repr

/-- A twin entry that is being sent (18 R471). -/
structure TwinBuf where
  step : Nat
  pages : Nat
  deriving DecidableEq, Repr

structure ResCtx where
  snap : Snap := {}
  /-- Twin buffers by parity. -/
  twin : Tbl (Option TwinBuf) := []
  deriving DecidableEq, Repr

/-- A running RESTORE (18 R474, R475): its context and record, whether its first check failed, and what a
remote twin ring has answered. -/
structure RestoreRun where
  ctx : Nat
  addr : Nat
  busy : Bool
  asked : Bool
  ring : List Byte
  deriving DecidableEq, Repr

structure Res where
  ctx : Tbl ResCtx
  /-- Protected pages of house space: key set·2^32 + page, value context plus one (18 R464). -/
  houseWp : Tbl Nat
  restore : Option RestoreRun
  deriving DecidableEq, Repr

/-! ### Boot, Ledger, firmware (chapter 20) -/

/-- A boot step instance that is being tried (20 R497, R498). -/
structure Try where
  step : Nat
  inst : Nat
  /-- Try number within this boot: 0, 1, 2. -/
  n : Nat
  /-- The mode of this try. -/
  alt : Bool
  deriving DecidableEq, Repr

structure Boot where
  tries : List Try
  /-- Ledger records, oldest first (20 R501, R502). -/
  ledger : List (List Byte)
  /-- Bank the current boot reads, the boot configuration in force, and the bank marked for
  trial, stored plus one. -/
  bank : Nat
  config : List Byte
  trialNext : Nat
  /-- The bank later boots select when no trial is marked. -/
  home : Nat
  /-- A firmware command running, stored plus one operation code, and the FW_SRC, FW_OFF and FW_LEN it began
  with (00 R12). -/
  fw : Nat
  fwSrc : Nat
  fwOff : Nat
  fwLen : Nat
  /-- The commanded BIST target running, stored plus one. -/
  bist : Nat
  fusedFloor : Nat
  deriving DecidableEq, Repr

/-! ### Outputs -/

/-- What the module puts out, oldest first. -/
inductive Out where
  /-- A flit of a link as its 256 bytes leave (13 R354). -/
  | flit (link : Nat) (bytes : List Byte)
  /-- A frame sent by a port, from the destination address through the FCS. -/
  | frame (port : Nat) (bytes : List Byte)
  /-- Flits of a die-to-die port: delivered upwards, refused, replayed, discovery tokens, reset
  notices. -/
  | d2dFlit (die port : Nat) (flit : BitVec 512)
  | d2dRefuse (die port group : Nat)
  | d2dReplay (die port group seq : Nat)
  | d2dToken (die position : Nat)
  | d2dNotice (die port : Nat)
  /-- Value read by a control-space read outside a Puell message. -/
  | read (link value : Nat)
  | smbus (data : List Byte)
  | smbusNak
  /-- Boundary pins driven or captured, and the register TDO shifts. -/
  | pins (value : Word64)
  | tdo (value : Nat)
  deriving DecidableEq, Repr

/-! ### The whole state -/

/-- Reasons a step can stop with a fault. No meaning of this model raises one: every error the spec
describes is a record and an action of the device, which is a next state. -/
inductive Fault where
  /-- Raised by nothing; safe. -/
  | unreachable
  deriving DecidableEq, Repr

/-- Reasons a step refuses a command. -/
inductive Refusal where
  /-- Raised by the dispatch for a command without a meaning; safe. -/
  | notModelled (mnemonic : String)
  deriving DecidableEq, Repr

/-- The state of the block: every register, memory, queue, counter, mode and pin the spec gives it. -/
structure State where
  /-- Commands that wait, first in first out. -/
  pending : List Instr
  /-- The model's own counter of free values taken (log entry 2). -/
  freeCtr : Nat
  out : List Out
  regs : Regs
  mem : Mem
  eng : Eng
  sched : Sched
  train : Train
  smithy : Smithy
  col : Col
  rmt : Rmt
  ports : Tbl PortSt
  puell : Puell
  dies : Dies
  power : Power
  loops : Loops
  ctxs : Ctxs
  sec : Sec
  res : Res
  err : Err
  boot : Boot
  deriving DecidableEq, Repr

/-- The machine before power is applied, which is what every reset leaves of it: fields at their reset values,
memories with nothing listed, nothing in flight (20 R497, 21 R523). -/
def State.reset : State where
  pending := []
  freeCtr := 0
  out := []
  regs := { fields := [], shadow := [], hold := [], rcHold := [], secBuf := [] }
  mem := { oc := [], cm := [], hbm := [], comp := [], flash := [], badBursts := [], softBursts := [],
           sramBad := [], sramSoft := [], sramCe := 0, sramUe := 0, lines := [],
           stamp := 0, tlb := [], tinvNow := 0#64, tinvNext := [], setClr := [], wpWaits := [] }
  eng := { mat := [], vec := [], core := [] }
  sched := { graphs := [], finished := [], semQ := [], granted := [], nextEmber := 0, rewatch := [], recDue := [] }
  train := { steps := [], live := [], reports := [] }
  smithy := { upd := [], exp := none, groups := [], turn := [] }
  col := { ctx := [] }
  rmt := { slot := [], cached := [], waiting := [], keys := [], keyWait := [], revoke := none, spill := [], fetch := [],
           cmds := [] }
  ports := []
  puell := { link := [], lines := [], inHand := [], bellQ := [], bseq := 0, bellLost := false }
  dies := { orient := [(1, 1), (2, 3), (3, 2)], discPos := [], token := false, xing := [], port := [],
            frac := [], notice := [], disabled := [] }
  power := { st := .off, runEn := false, rstN := false, pwrOk := false, railsUp := false,
             downPending := false, riseAgain := false, smbAddr := 0, tapIr := 0, tapBsr := 0#64 }
  loops := { inputMv := 0, fcCut := [], hbmCap := [], disagree := [], ratio := [], estPj := [], estFrac := [],
             tokens := [] }
  ctxs := { ctx := [], waiting := [], rtNow := 0, rtOn := false }
  sec := { run := none, secret := none, confPend := false, ck := [], meas := [], everReady := [] }
  res := { ctx := [], houseWp := [], restore := none }
  err := { recQ := [], log := [], index := [], nextRid := 0, audit := [] }
  boot := { tries := [], ledger := [], bank := 0, config := [], trialNext := 0, home := 0, fw := 0,
            fwSrc := 0, fwOff := 0, fwLen := 0, bist := 0, fusedFloor := 0 }

end Sys2Proof.Machine
end

