-- ==== Sys2Proof/Machine/Ops.lean ====
section
/-! DEFINITION. The shared operations of every family: register fields, free values, error records,
when a command acts at all, and the accesses to every memory. -/
namespace Sys2Proof.Machine

/-! ### Register fields -/

/-- The value of a field in effect (00 R9). -/
def State.getF (s : State) (f : Fld) : Nat := tget f.reset s.regs.fields f.key

/-- A field set, modulo its width. -/
def State.setF (s : State) (f : Fld) (v : Nat) : State :=
  { s with regs.fields := tput f.reset s.regs.fields f.key (v % 2 ^ f.w) }

def State.flag (s : State) (f : Fld) : Bool := s.getF f != 0
def State.setB (s : State) (f : Fld) (b : Bool) : State := s.setF f (ofBool b)
/-- A counter advanced (00 R11); counters are as wide as the spec gives them. -/
def State.incF (s : State) (f : Fld) (n : Nat) : State := s.setF f (s.getF f + n)
/-- A field back at its reset value. -/
def State.clrF (s : State) (f : Fld) : State := s.setF f f.reset
/-- Bit `i` of a mask field. -/
def State.bitF (s : State) (f : Fld) (i : Nat) : Bool := bit (s.getF f) i
def State.setBitF (s : State) (f : Fld) (i : Nat) (b : Bool) : State :=
  s.setF f (insert (s.getF f) i 1 (ofBool b))

/-! ### Free values and outputs -/

/-- A fresh value the spec leaves open, and the state with the counter advanced (log entry 2). -/
def State.fresh (s : State) : Word64 × State :=
  (Config.freeWord s.freeCtr, { s with freeCtr := s.freeCtr + 1 })

/-- `n` fresh bytes (log entry 2). -/
def State.freshBytes (s : State) (n : Nat) : List Byte × State :=
  ((upTo n).map fun i => (Config.freeWord (s.freeCtr + i)).setWidth 8, { s with freeCtr := s.freeCtr + n })

def State.emit (s : State) (o : Out) : State := { s with out := s.out ++ [o] }

/-! ### When a command acts -/

/-- Power is up, the package is out of reset, and the module is in BOOT or RUN (15 R398, 21 R522). -/
def State.live (s : State) : Bool :=
  (s.power.st == .boot || s.power.st == .run) && s.power.railsUp && s.power.rstN

/-- The device-fatal state (19 R483). -/
def State.fatal (s : State) : Bool := s.flag F.errStatusFatal

/-- The block works: it is live and not in the device-fatal state. -/
def State.works (s : State) : Bool := s.live && !s.fatal

/-- The effect of a command of any family but power: nothing of it touches the queue or the power
state, and none of it comes about while the package is off, tripped or in reset (15 R398). -/
def act (s : State) (f : State → State) : Host.Outcome State Fault Refusal :=
  .next (if s.live then { f s with pending := s.pending, power := s.power } else s)

/-- As `act`, for work that the device-fatal state also stops (19 R483). -/
def work (s : State) (f : State → State) : Host.Outcome State Fault Refusal :=
  act s fun s => if s.fatal then s else f s

/-! ### Error records (19 R482–R490) -/

def clsCorrected : Nat := 0
def clsContext : Nat := 1
def clsDie : Nat := 2
def clsFatal : Nat := 3

/-- Units and kinds of 19 R485. -/
def uCore : Nat := 0x01
def uMatrix : Nat := 0x02
def uVector : Nat := 0x03
def uMover : Nat := 0x04
def uSched : Nat := 0x05
def uTally : Nat := 0x06
def uSmithy : Nat := 0x07
def uColl : Nat := 0x08
def uRmt : Nat := 0x09
def uPort : Nat := 0x0A
def uPuell : Nat := 0x0B
def uHbm : Nat := 0x0C
def uSram : Nat := 0x0D
def uD2d : Nat := 0x0E
def uDie : Nat := 0x0F
def uPower : Nat := 0x10
def uSec : Nat := 0x11
def uRes : Nat := 0x12
def uStq : Nat := 0x13
def uAudit : Nat := 0x14
def uMgmt : Nat := 0x15
def kEncoding : Nat := 0x01
def kSequence : Nat := 0x02
def kBounds : Nat := 0x03
def kTranslation : Nat := 0x04
def kUncorrectable : Nat := 0x05
def kTimeout : Nat := 0x06
def kRejected : Nat := 0x07
def kReclaim : Nat := 0x08
def kTeardown : Nat := 0x09
def kAudit : Nat := 0x0A
def kRepair : Nat := 0x0B
def kThermal : Nat := 0x0C
def kIntegrity : Nat := 0x0D
def kOverflow : Nat := 0x0E
def kTrap : Nat := 0x0F
def kHalt : Nat := 0x10
def kClock : Nat := 0x11
def kInvalid : Nat := 0x12

/-- Make a record on die stack `die` (19 R484, 14 R390); it waits to be stored. -/
def State.record (s : State) (cls die unit kind sub : Nat) (ctx parent : Option Nat)
    (detail : Nat) : State :=
  let r : Rec := { rid := s.err.nextRid, cls := cls, die := die, unit := unit, kind := kind, sub := sub,
                   ctx := ctx, parent := parent, seq := s.getF (F.dieSeqSeq die),
                   watch := s.getF (F.watchNs die), detail := detail % 2 ^ 64 }
  { s.incF (F.dieSeqSeq die) 1 with err.recQ := s.err.recQ ++ [r], err.nextRid := s.err.nextRid + 1 }

/-- The serial number of the newest record made. -/
def State.lastRid (s : State) : Nat := s.err.nextRid - 1

/-- The unit that owns a control-space offset, as the UNIT of a rejected write's record names it
(19 R485; log entry 16). -/
def unitOf (off : Nat) : Nat :=
  if off < 0x30000 then uMgmt else if off < 0x40000 then uPower else if off < 0x50000 then uSec
  else if off < 0x60000 then uSched else if off < 0x80000 then uPuell
  else if off < 0x90000 then uMgmt else if off < 0xA0000 then uRes
  else if off < 0xA8000 then uColl else if off < 0xB0000 then uStq
  else if off < 0xD0000 then uTally else if off < 0x1000000 then uHbm
  else
    let o := off % 0x1000000
    if o < 0x10000 then uDie else if o < 0x20000 then uD2d else if o < 0x30000 then uSmithy
    else if o < 0x40000 then uRmt else if o < 0xC0000 then uPort else if o < 0x100000 then uHbm
    else
      let c := o % 0x10000
      if c < 0x8000 then (if c % 0x1000 < 0x200 then uMatrix else uVector)
      else if c < 0xC000 then uSram else uPower

/-- The die stack that holds a control-space offset. -/
def dieOf (off : Nat) : Nat :=
  if off < 0x1000000 then (if 0x70000 ≤ off ∧ off < 0x80000 then 2 else 0)
  else (off - 0x1000000) / 0x1000000

/-- A rejected write (00 R14, R530): a context-class record for the house that names the field. -/
def State.rejectedAt (s : State) (off lo : Nat) : State :=
  s.record clsContext (dieOf off) (unitOf off) kRejected 0 none none (off % 2 ^ 28 + place lo 32 6)
def State.rejected (s : State) (f : Fld) : State := s.rejectedAt f.off f.lo

/-! ### Contexts -/

def cFree : Nat := 0
def cIdle : Nat := 1
def cWaiting : Nat := 2
def cResident : Nat := 3
def cSaving : Nat := 4
def cSaved : Nat := 5
def cRestoring : Nat := 6
def cFaulted : Nat := 7

def State.ctxSt (s : State) (x : Nat) : Nat := s.getF (F.ctxStateState x)
def State.cx (s : State) (x : Nat) : CtxSt := tget {} s.ctxs.ctx x
def State.setCx (s : State) (x : Nat) (c : CtxSt) : State :=
  { s with ctxs.ctx := tput {} s.ctxs.ctx x c }
def State.grant (s : State) (x : Nat) : Option Grant := (s.cx x).grant
def State.resident (s : State) (x : Nat) : Bool := s.ctxSt x == cResident
/-- The context has a grant in force and has not been torn down. -/
def State.alive (s : State) (x : Nat) : Bool :=
  (s.grant x).isSome && s.ctxSt x != cFree && s.ctxSt x != cFaulted

def ctxIds : List Nat := upTo 256

/-- Cores of a grant in increasing number (16 R416). -/
def Grant.coreList (g : Grant) : List Nat := (upTo 256).filter (bit g.cores)

def State.mat (s : State) (i : Nat) : MatEng := tget {} s.eng.mat i
def State.setMat (s : State) (i : Nat) (m : MatEng) : State :=
  { s with eng.mat := tput {} s.eng.mat i m }
def State.vec (s : State) (g : Nat) : VecEng := tget {} s.eng.vec g
def State.setVec (s : State) (g : Nat) (v : VecEng) : State :=
  { s with eng.vec := tput {} s.eng.vec g v }
def State.core (s : State) (g : Nat) : CoreSt := tget {} s.eng.core g
def State.setCore (s : State) (g : Nat) (c : CoreSt) : State :=
  { s with eng.core := tput {} s.eng.core g c }

/-! ### Accesses that can stop -/

/-- Why an access does not complete: a fault with the fields of its record (`unit` where the rule
names it), a wait of the command, a wait on a first-touch copy of a page (region·2^32 + page of a
context), or LINKDOWN. -/
inductive Stop where
  | fault (cls kind sub detail : Nat) (unit : Option Nat)
  | wait
  | touch (ctx key : Nat)
  | linkDown
  deriving DecidableEq, Repr

/-- An access: it keeps what it did to the state even when it stops. -/
abbrev M (α : Type) := ExceptT Stop (StateM State) α

/-- Run an access from a state. -/
def M.go {α : Type} (m : M α) (s : State) : Except Stop α × State := m.run.run s

def stop {α : Type} (e : Stop) : M α := throw e
def ctxStop {α : Type} (kind detail : Nat) : M α := throw (.fault clsContext kind 0 detail none)
def check (b : Bool) (kind detail : Nat) : M Unit :=
  if b then pure () else ctxStop kind detail
def getS : M State := get
def setS (f : State → State) : M Unit := modify f
def fresh : M Word64 := do
  let s ← get
  set s.fresh.2
  pure s.fresh.1

/-! ### Fields of byte records -/

/-- A numeric field of a little-endian record. -/
def fieldAt (bs : List Byte) (o n : Nat) : Nat := leNat ((bs.drop o).take n)
/-- A byte range of a record. -/
def slice (bs : List Byte) (o n : Nat) : List Byte := (bs.drop o).take n
def w32At (bs : List Byte) (o : Nat) : W32 := BitVec.ofNat 32 (fieldAt bs o 4)
def w32Bytes (x : W32) : List Byte := leBytes 4 x.toNat
/-- Every byte of a range of a record is 0. -/
def zeroAt (bs : List Byte) (o n : Nat) : Bool := fieldAt bs o n == 0
/-- A text as bytes. -/
def strBytes (t : String) : List Byte := t.toList.map fun c => BitVec.ofNat 8 c.toNat
def padTo (n : Nat) (bs : List Byte) : List Byte := bs ++ List.replicate (n - bs.length) 0#8

/-! ### Operand caches (05 R112, R113) -/

def ocSize : Nat := 0x100000
def ocKey (g a : Nat) : Nat := g * ocSize + a

/-- Entries of a table of 64-bit words that the bytes `k` to `k + n − 1` touch. -/
def wordsOf (t : Tbl Bool) (k n : Nat) : Tbl Bool :=
  t.filter fun e => n != 0 && decide (k / 8 ≤ e.1) && decide (8 * e.1 < k + n)

/-- Bytes `k` to `k + n − 1` are written: the words they cover whole have good check bits again (05 R113). -/
def State.sramFill (s : State) (k n : Nat) : State :=
  { s with mem.sramBad := tclear s.mem.sramBad ((k + 7) / 8) ((k + n) / 8 - (k + 7) / 8),
           mem.sramSoft := tclear s.mem.sramSoft ((k + 7) / 8) ((k + n) / 8 - (k + 7) / 8) }

/-- Byte key of cluster memory, of the port buffers and of the error log among the words that carry SEC-DED. -/
def cmWord : Nat := 2 ^ 28
def portWord (p : Nat) : Nat := 8 * (2 ^ 28 + p)
def logKey : Nat := 8 * (2 ^ 28 + 64)

/-- Bytes are read: correctable words are rewritten and counted; the first uncorrectable one is counted and
returned (05 R113). -/
def State.sramRead (s : State) (k n : Nat) : Option Nat × State :=
  match wordsOf s.mem.sramBad k n with
  | e :: _ => (some (8 * e.1), { s with mem.sramUe := s.mem.sramUe + 1 })
  | [] =>
    let soft := wordsOf s.mem.sramSoft k n
    (none, { s with mem.sramSoft := s.mem.sramSoft.filter fun e => !(soft.contains e),
                    mem.sramCe := s.mem.sramCe + soft.length })

/-- An access reads bytes of an SRAM; an uncorrectable error is charged to the context whose access it is (05
R113, R123). `base` is the byte key of the array's address 0. -/
def sramCheck (base k n : Nat) : M Unit := do
  let r := (← getS).sramRead k n
  set r.2
  match r.1 with
  | some a => throw (.fault clsContext kUncorrectable 0 (a - base) (some uSram))
  | none => pure ()

def State.ocRead (s : State) (g a n : Nat) : List Byte := readBytes 0 s.mem.oc (ocKey g a) n
def State.ocWrite (s : State) (g a : Nat) (bs : List Byte) : State :=
  { s.sramFill (ocKey g a) bs.length with mem.oc := writeBytes 0 s.mem.oc (ocKey g a) bs }

/-- The operand-cache ranges that a word or command is about to read. -/
def ocReads (g : Nat) (l : List (Nat × Nat)) : M Unit :=
  l.forM fun r => sramCheck (ocKey g 0) (ocKey g r.1) r.2

/-- A range of the operand cache lies within it (05 R112). -/
def ocOk (a n : Nat) : Bool := decide (a + n ≤ ocSize)

def ocRead (g a n : Nat) : M (List Byte) := do
  check (ocOk a n) kBounds a
  ocReads g [(a, n)]
  return (← getS).ocRead g a n
def ocWrite (g a : Nat) (bs : List Byte) : M Unit := do
  check (ocOk a bs.length) kBounds a
  setS fun s => s.ocWrite g a bs

/-! ### Traffic through the crossings of a clocked domain (01 R20, 14 R386, R387) -/

/-- Domain numbers of a die stack in a record's DETAIL (log entry 26): HBM 0–3, MAC 4–11, D2D 12–13, Puell
14, watch 15, SPI 16, SMBus 17, TAP 18. -/
def domNum : Domain → Nat
  | .hbm j => j.val
  | .mac p => 4 + p.val
  | .d2d k => 12 + k.val
  | .puell => 14
  | .watch => 15
  | .spi => 16
  | .smbus => 17
  | .tap => 18

/-- Number of a crossing among those of all domains. -/
def xingKey (d : Nat) (dom : Domain) (c : Nat) : Nat := (32 * d + domNum dom) * 8 + c
def State.xing (s : State) (k : Nat) : Xing := tget {} s.dies.xing k

/-- Some crossing of domain `n` of die stack `d` is dead, and some one carries no traffic: a request then
completes DOMAINDOWN (14 R386, R387). -/
def State.xingDead (s : State) (d n : Nat) : Bool := (upTo 8).any fun c => (s.xing ((32 * d + n) * 8 + c)).dead
def State.xingDown (s : State) (d n : Nat) : Bool :=
  (upTo 8).any fun c => (s.xing ((32 * d + n) * 8 + c)).dead || (s.xing ((32 * d + n) * 8 + c)).inReset

/-- The crossings of domain `n` of die stack `d` are reset; with `hold` they stay so until its clocks are locked (14
R387). -/
def State.xingReset (s : State) (d n : Nat) (hold : Bool) : State :=
  (upTo 8).foldl (fun s c => { s with dies.xing := tput {} s.dies.xing ((32 * d + n) * 8 + c) { inReset := hold } }) s

/-- The crossings of a stack that wait for its clocks are released (14 R387). -/
def State.xingRelease (s : State) (d : Nat) : State :=
  { s with dies.xing := s.dies.xing.filter fun e => !(e.1 / 256 = d ∧ e.2.inReset) }

/-- What is sent into a dead crossing is dropped and counted (14 R386). -/
def State.xingDrop (s : State) (d n : Nat) : State := if s.xingDead d n then s.incF (F.xdrop d) 1 else s

/-- A request to a domain that carries no traffic completes DOMAINDOWN (14 R386, R387; log entry 26). -/
def domainCheck (who : Option Nat) (d n : Nat) : M Unit := do
  if (← getS).xingDown d n then
    setS fun s => s.xingDrop d n
    throw (.fault (if who.isSome then clsContext else clsDie) kTimeout 0 n none)

/-- The stop is DOMAINDOWN. -/
def Stop.isDomain : Stop → Bool
  | .fault _ k _ _ none => k == kTimeout
  | _ => false

/-! ### HBM (05 R119–R127) -/

def pcSize : Nat := 1207959552

/-- Granule in bytes of a GRAN code (05 R126). -/
def granule (c : Nat) : Nat := if c = 0 then 256 else if c = 1 then 2048 else 4096

/-- Number of members of a set, 0 for none (05 R125). -/
def State.setMembers (s : State) (n : Nat) : Nat :=
  2 ^ (s.getF (F.isDescLw n)) * 2 ^ (s.getF (F.isDescLns n))
def State.setSize (s : State) (n : Nat) : Nat := s.setMembers n * pcSize
def State.setValid (s : State) (n : Nat) : Bool := s.flag (F.isDescValid n)
/-- A valid set of the house, out of its clear. -/
def State.houseSet (s : State) (n : Nat) : Bool :=
  s.setValid n && s.flag (F.isDescHouse n) && !(tget false s.mem.setClr n)

/-- The byte of HBM that a set offset names (05 R125). -/
def State.hbmKey (s : State) (n o : Nat) : Nat :=
  let g := granule (s.getF (F.isDescGran n))
  let ns := 2 ^ s.getF (F.isDescLns n)
  let m := s.setMembers n
  let q := o / g
  let j := q % m
  let stack := s.getF (F.isDescBstack n) + j % ns
  let pc := s.getF (F.isDescBpc n) + j / ns
  (stack * 32 + pc) * pcSize + (q / m * g + o % g)

/-- The set offset of an HBM byte, where the byte belongs to the set (05 R125). -/
def State.setOffset (s : State) (n k : Nat) : Option Nat :=
  let g := granule (s.getF (F.isDescGran n))
  let ns := 2 ^ s.getF (F.isDescLns n)
  let pc := k / pcSize
  let st := pc / 32 - s.getF (F.isDescBstack n)
  let ch := pc % 32 - s.getF (F.isDescBpc n)
  let off := k % pcSize
  let o := (off / g * s.setMembers n + (ch * ns + st)) * g + off % g
  if s.hbmKey n o = k then some o else none

/-- Stack and stack-local byte address of a byte of HBM. -/
def hbmStack (k : Nat) : Nat := k / (32 * pcSize)
def hbmLocal (k : Nat) : Nat := k % (32 * pcSize)

/-- Members of a set as pseudo-channels 32·stack + pc. -/
def State.members (s : State) (n : Nat) : List Nat :=
  (upTo (2 ^ s.getF (F.isDescLns n))).flatMap fun i =>
    (upTo (2 ^ s.getF (F.isDescLw n))).map fun j =>
      (s.getF (F.isDescBstack n) + i) * 32 + s.getF (F.isDescBpc n) + j

/-- Charge HBM bytes to the context on whose behalf they move (16 R432). -/
def State.chargeHbm (s : State) (who : Option Nat) (n : Nat) : State :=
  match who with
  | some x => s.incF (F.accHbm x) n
  | none => s

/-- A die stack is in service; an access to HBM of another waits for its neighbours to act (14 R393). -/
def State.inService (s : State) (d : Nat) : Bool := s.flag (F.dieStatusInservice d)

/-- The next and the previous stack of the ring (01 R111, 14 R372). -/
def cwOf (d : Nat) : Nat := if d = 0 then 1 else if d = 1 then 3 else if d = 3 then 2 else 0
def ccwOf (d : Nat) : Nat := if d = 0 then 2 else if d = 1 then 0 else if d = 3 then 1 else 3
/-- The stack that port `k` of stack `d` reaches: 0 is the CW port, 1 the CCW port. It faces that
stack's other port. -/
def neighbour (d k : Nat) : Nat := if k = 0 then cwOf d else ccwOf d

/-- A die stack has left service and is not back. -/
def State.departed (s : State) (d : Nat) : Bool := !(s.inService d) && s.getF (F.dieStatusLastcause d) != 0

/-- The neighbours of a departed stack have acted: what is bound to it completes DIEDOWN (14 R393). -/
def State.dieDown (s : State) (d : Nat) : Bool :=
  s.departed d && (upTo 2).all fun k => !(tget false s.dies.notice (2 * neighbour d k + (1 - k)))

/-- An uncorrectable error met by a read at byte `k` (05 R123). -/
def hbmUe {α : Type} (who : Option Nat) (k : Nat) : M α := do
  setS fun s => (s.incF (F.hbmUe (hbmStack k)) 1).setF (F.hbmUeaddrAddr (hbmStack k)) (hbmLocal k)
  throw (.fault (if who.isSome then clsContext else clsDie) kUncorrectable 0 (hbmLocal k) (some uHbm))

/-- Pieces of a byte range that stay within a 32-byte burst: offset and length. -/
def bursts : Nat → Nat → Nat → List (Nat × Nat)
  | 0, _, _ => []
  | f + 1, o, n =>
    if n = 0 then [] else
    let k := Nat.min n (32 - o % 32)
    (o, k) :: bursts f (o + k) (n - k)

def burstList (o n : Nat) : List (Nat × Nat) := bursts (n / 32 + 2) o n

/-- An erroneous symbol met by a read is corrected, written back and counted (05 R122). -/
def State.hbmCorrect (s : State) (k : Nat) : State :=
  if tget false s.mem.softBursts (k / 32) then
    { s.incF (F.hbmCe (hbmStack k)) 1 with mem.softBursts := tput false s.mem.softBursts (k / 32) false }
  else s

/-- The HBM stack of byte `k` can be reached: its die stack is in service and its crossing carries traffic (01
R20, 14 R386). DIEDOWN is met as DOMAINDOWN is (14 R393; log entry 26). -/
def hbmReach (who : Option Nat) (k : Nat) : M Unit := do
  let d := hbmStack k / 4
  if (← getS).dieDown d then
    throw (.fault (if who.isSome then clsContext else clsDie) kTimeout 0 (hbmStack k % 4) none)
  if !((← getS).inService d) then stop .wait
  domainCheck who (hbmStack k / 4) (hbmStack k % 4)

/-- Read bytes of a set on behalf of `who` (05 R121–R125). -/
def hbmRead (who : Option Nat) (n o len : Nat) : M (List Byte) := do
  let parts ← (burstList o len).mapM fun p => do
    let k := (← getS).hbmKey n p.1
    hbmReach who k
    if tget false (← getS).mem.badBursts (k / 32) then hbmUe who k
    setS fun s => ((s.hbmCorrect k).incF (F.hbmRdbytes (hbmStack k)) p.2).chargeHbm who p.2
    return readBytes 0 (← getS).mem.hbm k p.2
  return parts.flatten

/-- Write bytes of a set: a whole burst replaces bad check bits, a smaller write reads the burst
first and so meets them (05 R121, R123). -/
def hbmWrite (who : Option Nat) (n o : Nat) (bs : List Byte) : M Unit := do
  (burstList o bs.length).forM fun p => do
    let k := (← getS).hbmKey n p.1
    hbmReach who k
    if tget false (← getS).mem.badBursts (k / 32) && p.2 != 32 then hbmUe who k
    setS fun s =>
      let s := if p.2 = 32 then s else s.hbmCorrect k
      let s := (s.incF (F.hbmWrbytes (hbmStack k)) p.2).chargeHbm who p.2
      { s with mem.hbm := writeBytes 0 s.mem.hbm k ((bs.drop (p.1 - o)).take p.2),
               mem.badBursts := tput false s.mem.badBursts (k / 32) false,
               mem.softBursts := tput false s.mem.softBursts (k / 32) false }

/-- A house structure lies whole within a valid house set (05 R130, 20 R504). -/
def State.houseRange (s : State) (n o len : Nat) : Bool :=
  s.houseSet n && decide (o + len ≤ s.setSize n)

/-- Read a house structure that no context asked for; one at or beyond the size of its set is out of bounds
(05 R125). -/
def houseRead (n o len : Nat) : M (List Byte) := do
  let s ← getS
  if s.houseRange n o len then hbmRead none n o len
  else throw (.fault clsDie (if s.houseSet n then kBounds else kInvalid) 0 o none)

/-! ### Companion memory (05 R140) -/

/-- A link counts as down when it is not ACTIVE or RETRAIN, or its die stack is out of service
(05 R140, 13 R353). -/
def State.linkUp (s : State) (l : Nat) : Bool :=
  let st := s.getF (F.plStatusState l)
  (st == 2 || st == 3) && s.flag (F.dieStatusInservice (2 * l))

/-- Die stacks a transfer from `a` to `b` passes through (05 R111). -/
def passes (a b : Nat) : List Nat :=
  if a = 0 ∧ b = 3 then [1] else if a = 1 ∧ b = 2 then [3] else if a = 3 ∧ b = 0 then [2]
  else if a = 2 ∧ b = 1 then [0] else []

/-- Link `l` counts as up for accesses from die stack `d` (05 R140). -/
def State.linkUpFrom (s : State) (d l : Nat) : Bool :=
  s.linkUp l && (passes d (2 * l)).all s.inService

/-- The link a companion access from die stack `d` takes; none when both count as down. -/
def State.routeLink (s : State) (d a : Nat) : Option Nat :=
  let l := a / 4096 % 2
  if s.linkUpFrom d l then some l else if s.linkUpFrom d (1 - l) then some (1 - l) else none

/-- Puell bytes charged to a context: a 16-byte slot a header, 80 bytes a Data message (13 R360,
16 R432). -/
def State.chargePuell (s : State) (who : Option Nat) (n : Nat) : State :=
  match who with
  | some x => s.incF (F.accPuell x) n
  | none => s

/-! ### Flits sent on a Puell link (13 R354–R357, R360, R368, R370) -/

def clsReq : Nat := 0
def clsRsp : Nat := 1
def clsSnp : Nat := 2
def clsData : Nat := 3
def clsBell : Nat := 4
def rqCur : Nat := 1
def rqShared : Nat := 2
def rqOwn : Nat := 3
def rqWrLine : Nat := 4
def rqWb : Nat := 5
def rqEvict : Nat := 6

def State.pl (s : State) (l : Nat) : PlLink := tget {} s.puell.link l
def State.setPl (s : State) (l : Nat) (k : PlLink) : State :=
  { s with puell.link := tput {} s.puell.link l k }

/-! ### CRC-64 (13 R355) -/

def crcPoly : BitVec 64 := 0x42F0E1EBA9EA3693#64

/-- Eight shifts of the register, most significant bit first. -/
def crc64Shift : Nat → BitVec 64 → BitVec 64
  | 0, c => c
  | n + 1, c => crc64Shift n (if c.msb then (c <<< 1) ^^^ crcPoly else c <<< 1)

/-- A byte taken into the register. -/
def crc64Byte (c : BitVec 64) (b : Byte) : BitVec 64 := crc64Shift 8 (c ^^^ BitVec.ofNat 64 (b.toNat * 2 ^ 56))

/-- The CRC of a byte string. -/
def crc64 (bs : List Byte) : BitVec 64 :=
  (bs.foldl crc64Byte (BitVec.allOnes 64)) ^^^ BitVec.allOnes 64

/-! ### The header (13 R354) -/

structure FlitHdr where
  ftype : Nat
  fseq : Nat
  fack : Nat
  enc : Bool
  keysel : Bool
  rclass : Nat
  rcount : Nat
  zero : Nat
  deriving DecidableEq, Repr

def ftData : Nat := 1
def ftIdle : Nat := 2
def ftNak : Nat := 3
def ftLinkctl : Nat := 4

/-- FHDR as a number. -/
def FlitHdr.word (h : FlitHdr) : Nat :=
  place h.ftype 0 4 + place h.fseq 4 12 + place h.fack 16 12 + place (ofBool h.enc) 28 1 + place (ofBool h.keysel) 29 1
    + place h.rclass 30 4 + place h.rcount 34 12 + place h.zero 46 18

/-- A Bell as its slot (13 R370): OPC is the source, TAG the BSEQ, STATUS bit 0 LOST, WIN and SIZE the bytes A and
B, ADDR the argument. -/
def PlMsg.bellSlot (m : PlMsg) : List Byte :=
  leBytes 1 (clsBell + 8 * m.opc) ++ leBytes 1 (m.status % 2) ++ leBytes 2 m.tag ++ leBytes 1 m.win ++ leBytes 1 m.size
    ++ leBytes 2 0 ++ leBytes 8 m.addr

/-- A message as its slots: the header, and the Data message behind it (13 R360). -/
def PlMsg.slots (m : PlMsg) : List Byte :=
  if m.cls = clsBell then m.bellSlot
  else
    leBytes 1 (m.cls + 8 * m.opc) ++ leBytes 1 (ofBool (!m.data.isEmpty) + 2 * m.status) ++ leBytes 2 m.tag
      ++ leBytes 6 m.addr ++ leBytes 1 m.win ++ leBytes 1 m.size ++ leBytes 4 0
      ++ (if m.data.isEmpty then [] else
        leBytes 1 clsData ++ leBytes 1 (ofBool (m.cls == clsRsp)) ++ leBytes 2 m.tag ++ leBytes 8 m.mask ++ leBytes 4 0
          ++ padTo 64 m.data)

/-- Key and nonce of a direction in a key epoch (13 R368; the byte forms: log entry 39). -/
def State.plKey (s : State) (l dir epoch : Nat) : List Byte :=
  Config.hkdf (s.sec.secret.getD []) (leBytes 48 0)
    (strBytes "PUELL" ++ leBytes 1 l ++ leBytes 1 dir ++ leBytes 8 epoch) 32
def plNonce (l dir fpos : Nat) : List Byte := leBytes 1 l ++ leBytes 1 dir ++ leBytes 2 0 ++ leBytes 8 fpos

/-- The class whose credits the next flit returns and how many, 0xF for none (13 R354, R357). -/
def PlLink.returns (k : PlLink) : Nat × Nat :=
  if k.advReq.owed != 0 then (clsReq, k.advReq.owed) else if k.advData.owed != 0 then (clsData, k.advData.owed)
  else if k.advSnp.owed != 0 then (clsSnp, k.advSnp.owed) else (15, 0)

def PlCred.back (c : PlCred) : PlCred := { held := c.held + c.owed }
def PlLink.returned (k : PlLink) : PlLink :=
  if k.advReq.owed != 0 then { k with advReq := k.advReq.back }
  else if k.advData.owed != 0 then { k with advData := k.advData.back } else { k with advSnp := k.advSnp.back }

/-- A received message takes one of the companion's credits, which its buffer now owes back. -/
def PlCred.take (c : PlCred) : PlCred := { held := c.held - 1, owed := c.owed + 1 }
def State.plTake (s : State) (l cls : Nat) (data : Bool) : State :=
  let k := s.pl l
  if cls = clsSnp then s.setPl l { k with advSnp := k.advSnp.take }
  else if data then s.setPl l { k with advReq := k.advReq.take, advData := k.advData.take }
  else s.setPl l { k with advReq := k.advReq.take }

/-- The bytes of a flit: slots encrypted in confidential mode, the tag in slot 14, and the CRC. -/
def State.flitBytes (s : State) (l : Nat) (h : FlitHdr) (fpos : Nat) (slots : List Byte) : List Byte :=
  let hdr := leBytes 8 h.word
  let body := if h.enc then
      let r := Config.gcmSeal (s.plKey l 0 (s.pl l).txEpoch) (plNonce l 0 fpos) hdr (padTo 224 slots)
      (padTo 224 r.1).take 224 ++ (padTo 16 r.2).take 16
    else padTo 240 slots
  hdr ++ body ++ leBytes 8 (crc64 (hdr ++ body)).toNat

/-- A flit goes out. IDLE flits have filled the stream since the last one sent; how many is a free value within the
positions of the key (log entry 39). Every flit carries FACK and returns credits (13 R356, R357). -/
def State.flitPut (s : State) (l ftype fseq : Nat) (slots : List Byte) : State :=
  let k := s.pl l
  let fpos := k.fposTx + s.fresh.1.toNat % (2 ^ 40 - k.fposTx % 2 ^ 40)
  let h : FlitHdr := { ftype := ftype, fseq := fseq, fack := (k.rxSeq + 4095) % 4096,
                       enc := s.flag (F.plStatusConf l) && ftype == ftData, keysel := s.flag (F.plStatusKeysel l),
                       rclass := k.returns.1, rcount := k.returns.2, zero := 0 }
  (s.fresh.2.setPl l { k.returned with fposTx := fpos + 1 }).emit (.flit l (s.flitBytes l h fpos slots))

/-- A LINKCTL flit switches the sending direction to the next key epoch, whose selector it carries (13 R368; log
entry 39). -/
def State.keyNext (s : State) (l : Nat) : State :=
  let s := (s.setB (F.plStatusKeysel l) (!(s.flag (F.plStatusKeysel l)))).flitPut l ftLinkctl 0 []
  s.setPl l { s.pl l with txEpoch := (s.pl l).txEpoch + 1, fposTx := 0 }

/-- A flit goes out; after 2^40 positions under one key the next one is taken (13 R368). -/
def State.flitOut (s : State) (l ftype fseq : Nat) (slots : List Byte) : State :=
  let s := s.flitPut l ftype fseq slots
  if s.flag (F.plStatusConf l) && (s.pl l).fposTx % 2 ^ 40 == 0 then s.keyNext l else s

/-- A DATA flit of a message (13 R354; a message begins a flit of its own: log entry 39). -/
def State.dataOut (s : State) (l : Nat) (f : Nat × PlMsg) : State := s.flitOut l ftData f.1 f.2.slots

/-- Bytes of a message with its Data. -/
def PlMsg.bytes (m : PlMsg) : Nat := if m.data.isEmpty then 16 else 96

/-- The credits a message needs are held (13 R357). -/
def PlLink.credited (k : PlLink) (m : PlMsg) : Bool :=
  if m.cls = clsReq then decide (0 < k.credReq) && (m.data.isEmpty || decide (0 < k.credData))
  else if m.cls = clsBell then decide (0 < k.credBell) else true

def PlLink.spend (k : PlLink) (m : PlMsg) : PlLink :=
  if m.cls = clsReq then
    { k with credReq := k.credReq - 1, credData := k.credData - (if m.data.isEmpty then 0 else 1) }
  else if m.cls = clsBell then { k with credBell := k.credBell - 1 } else k

/-- Messages of a link that wait are sent as far as credits and the replay buffer allow, each class in
order; a message that stays holds back the later ones of its class (13 R356, R357, R359; log entry
23). `held` lists the classes that wait. -/
def plPumpGo : List PlMsg → List Nat → PlLink → List (Nat × PlMsg) → PlLink × List (Nat × PlMsg)
  | [], _, k, sent => (k, sent)
  | m :: r, held, k, sent =>
    if decide (512 ≤ k.replay.length) || held.contains m.cls || !(k.credited m) then
      plPumpGo r (m.cls :: held) { k with txWait := k.txWait ++ [m] } sent
    else
      let k' := k.spend m
      plPumpGo r held { k' with replay := k'.replay ++ [(k.txSeq, m)], txSeq := (k.txSeq + 1) % 4096 }
        (sent ++ [(k.txSeq, m)])

def State.plPump (s : State) (l : Nat) : State :=
  if s.getF (F.plStatusState l) != 2 then s else
  let k := s.pl l
  let r := plPumpGo k.txWait [] { k with txWait := [] } []
  r.2.foldl (fun s f => s.dataOut l f) ((s.setPl l r.1).incF (F.plCtr0 l) r.2.length)

/-- A message joins those of its link and is sent when it may be. -/
def State.plSend (s : State) (l : Nat) (m : PlMsg) : State :=
  let k := s.pl l
  (s.setPl l { k with txWait := k.txWait ++ [m] }).plPump l

/-- The smallest number from `n` on that a list does not hold. -/
def firstFree (used : List Nat) : Nat → Nat → Nat
  | 0, n => n
  | f + 1, n => if used.contains n then firstFree used f (n + 1) else n

/-- The context that pays for an outstanding request. -/
def State.ownerCtx (s : State) : PlOwner → Option Nat
  | .mover g => (s.core g).inst.map (·.ctx)
  | .head x => some x
  | .unit x => some x
  | .house => none

/-- Requests a link may have outstanding (13 R360). -/
def plTags : Nat := 4096

/-- A coherent request goes out under a free tag (13 R360, R361). -/
def State.plIssue (s : State) (l : Nat) (q : PlAsk) : State :=
  let k := s.pl l
  let tag := firstFree (k.reqs.map (·.tag)) (k.reqs.length + 1) 0
  let m : PlMsg := { cls := clsReq, opc := q.opc, tag := tag, addr := q.addr, mask := 2 ^ 64 - 1, data := q.data }
  let s := s.setPl l { k with reqs := k.reqs ++ [⟨tag, q.opc, q.addr, q.owner, q.merge⟩] }
  (s.chargePuell (s.ownerCtx q.owner) m.bytes).plSend l m

/-- A coherent request: it waits in turn while no tag is free (13 R357). -/
def State.plRequest (s : State) (l opc a : Nat) (owner : PlOwner) (merge : List (Nat × Byte))
    (data : List Byte) : State :=
  let k := s.pl l
  if k.reqs.length < plTags && k.tagWait.isEmpty then s.plIssue l ⟨opc, a, owner, merge, data⟩
  else s.setPl l { k with tagWait := k.tagWait ++ [⟨opc, a, owner, merge, data⟩] }

/-- A freed tag goes to the oldest request that waits for one. -/
def State.plNext (s : State) (l : Nat) : State :=
  let k := s.pl l
  match k.tagWait with
  | q :: r => if k.reqs.length < plTags then (s.setPl l { k with tagWait := r }).plIssue l q else s
  | [] => s

/-- A write that a unit has made to some of these lines of companion memory awaits its Cmp (13 R362). -/
def PlLink.writesTo (k : PlLink) (o : PlOwner) (on : Nat → Bool) : Bool :=
  (k.reqs.any fun r => r.owner = o ∧ r.opc != rqCur ∧ on r.addr)
    || k.tagWait.any fun r => r.owner = o ∧ r.opc != rqCur ∧ on r.addr

/-- Pieces of a byte range that stay within a 64-byte line. -/
def line64 : Nat → Nat → Nat → List (Nat × Nat)
  | 0, _, _ => []
  | f + 1, a, n =>
    if n = 0 then [] else
    let k := Nat.min n (64 - a % 64)
    (a, k) :: line64 f (a + k) (n - k)

def lines64 (a n : Nat) : List (Nat × Nat) := line64 (n / 64 + 2) a n

/-- One piece of a write within a line: a whole line goes out as WrLine, a part is merged under RdOwn
with what the same unit already writes to the line (13 R362). -/
def State.plWrite (s : State) (l : Nat) (owner : PlOwner) (a : Nat) (bs : List Byte) : State :=
  let line := a / 64 * 64
  if bs.length = 64 then s.plRequest l rqWrLine line owner [] bs
  else
    let mg := (upTo bs.length).zip bs |>.map fun p => (a % 64 + p.1, p.2)
    let k := s.pl l
    if k.reqs.any fun r => r.opc = rqOwn ∧ r.addr = line ∧ r.owner = owner then
      s.setPl l { k with reqs := k.reqs.map fun r =>
        if r.opc = rqOwn ∧ r.addr = line ∧ r.owner = owner then { r with merge := r.merge ++ mg } else r }
    else s.plRequest l rqOwn line owner mg []

/-- The link that carries a companion access of die stack `d` to line `a`; an access waits while it retrains,
and completes DOMAINDOWN when its crossing carries nothing (05 R140, 13 R358, 14 R386). -/
def compLink (d : Nat) (who : Option Nat) (a : Nat) : M Nat := do
  let s ← getS
  match s.routeLink d a with
  | none => throw .linkDown
  | some l =>
    if s.getF (F.plStatusState l) = 3 then stop .wait
    domainCheck who (2 * l) 14
    return l

/-- Owner of the requests of a base-die unit. -/
def unitOwner : Option Nat → PlOwner
  | some x => .unit x
  | none => .house

/-- A base-die unit on die stack `d` asks for companion bytes: a RdCur a line, each on the link of its granule (05
R140, 13 R362). -/
def compAsk (d : Nat) (who : Option Nat) (a n : Nat) : M Unit :=
  (lines64 a n).forM fun p => do
    let l ← compLink d who p.1
    setS fun s => s.plRequest l rqCur (p.1 / 64 * 64) (unitOwner who) [] []

/-- Read companion bytes by a base-die unit: the home's content is taken in the step, and a response that is bad
is charged when it comes (13 R364; log entry 3). -/
def compRead (d : Nat) (who : Option Nat) (a n : Nat) : M (List Byte) := do
  compAsk d who a n
  return readBytes 0 (← getS).mem.comp a n

/-- Write companion bytes: each line's messages go out on the link of its granule, and the home's content
changes (13 R362; log entry 3). -/
def compPut (d : Nat) (owner : PlOwner) (a : Nat) (bs : List Byte) : M Unit := do
  (lines64 a bs.length).forM fun p => do
    let l ← compLink d ((← getS).ownerCtx owner) p.1
    let part := (bs.drop (p.1 - a)).take p.2
    setS fun s =>
      let s := s.plWrite l owner p.1 part
      { s with mem.comp := writeBytes 0 s.mem.comp p.1 part }

def compWrite (d : Nat) (who : Option Nat) (a : Nat) (bs : List Byte) : M Unit := compPut d (unitOwner who) a bs

/-! ### Translation (05 R128–R134) -/

/-- Where a virtual address leads. -/
inductive Tgt where
  | hbm (set off : Nat)
  | comp (addr : Nat)
  deriving DecidableEq, Repr

def pageSize : Nat := 0x200000

def tFault {α : Type} (cva : Nat) : M α := ctxStop kTranslation cva

/-- One entry of a page table at set offset `t` of the page-table set (05 R130, R131). -/
def ptEntry (cva t i : Nat) : M Nat := do
  let s ← getS
  let n := s.getF F.memCfgPtset
  if !(s.houseRange n (t + 8 * i) 8) then tFault cva
  return leNat (← hbmRead none n (t + 8 * i) 8)

/-- Walk the three levels: the leaf and whether it maps 1 GiB (05 R128, R129). -/
def walk (root cva : Nat) : M (Nat × Bool) := do
  let e1 ← ptEntry cva root (bits cva 39 9)
  if !bit e1 0 || bit e1 1 || bits e1 2 10 != 0 || bits e1 42 22 != 0 then tFault cva
  let e2 ← ptEntry cva (bits e1 12 30 * 4096) (bits cva 30 9)
  if !bit e2 0 then tFault cva
  if bit e2 1 then return (e2, true)
  if bits e2 2 10 != 0 || bits e2 42 22 != 0 then tFault cva
  let e3 ← ptEntry cva (bits e2 12 30 * 4096) (bits cva 21 9)
  if !bit e3 0 || !bit e3 1 then tFault cva
  return (e3, false)

def tlbCap (unit : Nat) : Nat := if unit < 32 then 512 else 2048

/-- The leaf an access uses: a cached copy or the one in memory, chosen freely where they differ;
a miss caches what it read, pushing out the oldest entry of a full unit (05 R131, R132). -/
def leafOf (unit x cva root : Nat) : M (Nat × Bool) := do
  let s ← getS
  let page := cva / pageSize
  match s.mem.tlb.find? fun e => e.unit = unit ∧ e.ctx = x ∧ e.page = page with
  | some e =>
    match (walk root cva).go s with
    | (.ok l, _) =>
      if l = (e.leaf.toNat, e.big) then return l
      if (← fresh).toNat % 2 = 0 then return l else return (e.leaf.toNat, e.big)
    | (.error err, s') =>
      if (← fresh).toNat % 2 = 0 then set s'; throw err else return (e.leaf.toNat, e.big)
  | none =>
    let l ← walk root cva
    setS fun s =>
      let mine := s.mem.tlb.filter fun e => e.unit = unit
      let rest := if mine.length < tlbCap unit then s.mem.tlb
        else match mine.head? with
          | some e => s.mem.tlb.erase e
          | none => s.mem.tlb
      { s with mem.tlb := rest ++ [⟨unit, x, page, BitVec.ofNat 64 l.1, l.2⟩] }
    return l

/-- A snapshot of the context is open, or still clearing what it protected (18 R467, 05 R134). -/
def State.snapOpen (s : State) (x : Nat) : Bool :=
  let st := s.getF (F.resSnapState x)
  st == 1 || st == 2

/-- Region number and page of a snapshot that a virtual address lies in, as region·2^32 + page. -/
def State.snapPage (s : State) (x cva : Nat) : Option Nat :=
  let rs := (tget {} s.res.ctx x).snap.regions
  (rs.zip (upTo rs.length)).findSome? fun p =>
    if !p.1.house && !p.1.twin && decide (p.1.base ≤ cva) && decide (cva < p.1.base + p.1.length)
    then some (p.2 * 2 ^ 32 + (cva - p.1.base) / pageSize) else none

/-- Translate one access of context `x`, whose bytes stay within one 2 MiB page (05 R128–R134). -/
def translate (unit x cva : Nat) (write : Bool) : M Tgt := do
  let s ← getS
  match s.grant x with
  | none => tFault cva
  | some g =>
    if 2 ^ 48 ≤ cva then tFault cva
    let (e, big) ← leafOf unit x cva g.ptroot
    let tgt := bits e 2 2
    let set := bits e 8 8
    let base := bits e 21 21 * pageSize
    let size := if big then 2 ^ 30 else pageSize
    let off := base + cva % size
    if 1 < tgt || bits e 16 5 != 0 || bits e 42 22 != 0 || (big && bits e 21 9 != 0) then tFault cva
    if tgt = 1 && set != 0 then tFault cva
    if big && bit e 7 then tFault cva
    if !(if write then bit e 5 else bit e 4) then tFault cva
    if tgt = 0 then
      if !(s.setValid set) || s.flag (F.isDescHouse set) || s.getF (F.isDescOwner set) != x
        || decide (s.setSize set < base + size) then tFault cva
      if tget false s.mem.setClr set then stop .wait
    else if decide (base < g.compbase) || decide (g.compbase + g.complen < base + size) then
      tFault cva
    if write && bit e 6 then
      if !bit e 7 || !(s.snapOpen x) then ctxStop kTranslation cva
      match s.snapPage x cva with
      | some k => stop (.touch x k)
      | none => ctxStop kTranslation cva
    return if tgt = 0 then .hbm set off else .comp off

/-- Pieces of a virtual range that stay within a 2 MiB page. -/
def pagePieces : Nat → Nat → Nat → List (Nat × Nat)
  | 0, _, _ => []
  | f + 1, a, n =>
    if n = 0 then [] else
    let k := Nat.min n (pageSize - a % pageSize)
    (a, k) :: pagePieces f (a + k) (n - k)

def pageList (a n : Nat) : List (Nat × Nat) := pagePieces (n / pageSize + 2) a n

/-- Unit number of the base-die units of die stack `d` in the translation caches. -/
def dieUnit (d : Nat) : Nat := 32 + d

/-- Die stack of a translation unit. -/
def unitDie (u : Nat) : Nat := if u < 32 then u / 8 else u - 32

/-- Read a virtual range on behalf of context `x` by a unit with direct access. -/
def cvaRead (unit x a n : Nat) : M (List Byte) := do
  let parts ← (pageList a n).mapM fun p => do
    match ← translate unit x p.1 false with
    | .hbm set off => hbmRead (some x) set off p.2
    | .comp addr => compRead (unitDie unit) (some x) addr p.2
  return parts.flatten

/-- Write a virtual range on behalf of context `x` by a unit with direct access. -/
def cvaWrite (unit x a : Nat) (bs : List Byte) : M Unit := do
  (pageList a bs.length).forM fun p => do
    let part := (bs.drop (p.1 - a)).take p.2
    match ← translate unit x p.1 true with
    | .hbm set off => hbmWrite (some x) set off part
    | .comp addr => compWrite (unitDie unit) (some x) addr part

/-- Write house space on behalf of a context, which waits for pages that a snapshot protects
(18 R464). -/
def houseWrite (who : Option Nat) (n o : Nat) (bs : List Byte) : M Unit := do
  let s ← getS
  match (pageList o bs.length).findSome? fun p =>
      let k := n * 2 ^ 32 + p.1 / pageSize
      let w := tget 0 s.res.houseWp k
      if w = 0 then none else some (w - 1, p.1) with
  | some (x, a) =>
    let rs := (tget {} s.res.ctx x).snap.regions
    match (rs.zip (upTo rs.length)).findSome? fun p =>
        if p.1.house && p.1.hset == n && decide (p.1.base ≤ a) && decide (a < p.1.base + p.1.length)
        then some (p.2 * 2 ^ 32 + (a - p.1.base) / pageSize) else none with
    | some k => stop (.touch x k)
    | none => pure ()
  | none => pure ()
  if decide (s.setSize n < o + bs.length) || !(s.setValid n) then
    throw (.fault (if who.isSome then clsContext else clsDie) kBounds 0 o none)
  hbmWrite who n o bs

/-- A die stack's units handle a house or virtual access: the die that holds the first byte. -/
def keyDie (k : Nat) : Nat := hbmStack k / 4

end Sys2Proof.Machine
end

