-- ==== Sys2Proof/Machine/Residency.lean ====
section
/-! DEFINITION. Which contexts hold their cores and ways: runnable contexts, switches, pre-emption
and what a unit holds when it changes hands (16 R416–R431). -/
namespace Sys2Proof.Machine

/-! ### Ways and cores -/

/-- A way given an assignment; a change starts its clear (05 R115). -/
def State.wayAssign (s : State) (k w owner : Nat) (valid cache : Bool) : State :=
  if s.getF (F.cmWayOwner k w) = owner ∧ s.flag (F.cmWayValid k w) = valid
    ∧ s.flag (F.cmWayMode k w) = cache then s
  else
    ((((s.setF (F.cmWayOwner k w) owner).setB (F.cmWayValid k w) valid).setB (F.cmWayMode k w)
      cache).setB (F.cmWayZeroing k w) true)

/-- Ways of a grant: cluster, way, and whether it is a cache way (16 R416). -/
def Grant.wayList (g : Grant) : List (Nat × Nat × Bool) :=
  (g.ways.zip (upTo 32)).flatMap fun p =>
    (upTo 16).filterMap fun w =>
      if bit p.1 w then some (p.2, w, false)
      else if bit p.1 (16 + w) then some (p.2, w, true) else none

/-- Base byte of a way. -/
def wayBase (k w : Nat) : Nat := (k * 16 + w) * 1572864

/-- Everything a context could leave in a core, overwritten with zeros (16 R424). -/
def State.clearCore (s : State) (g : Nat) : State :=
  { s with eng.core := tput {} s.eng.core g {}, eng.vec := tput {} s.eng.vec g {},
           eng.mat := tput {} (tput {} s.eng.mat (2 * g) {}) (2 * g + 1) {},
           mem.oc := tclear s.mem.oc (ocKey g 0) ocSize,
           mem.sramBad := tclear s.mem.sramBad (ocKey g 0 / 8) (ocSize / 8),
           mem.sramSoft := tclear s.mem.sramSoft (ocKey g 0 / 8) (ocSize / 8) }

/-! ### Who may run -/

/-- The context holds its cores and ways (16 R419). -/
def State.holds (s : State) (x : Nat) : Bool :=
  let st := s.ctxSt x
  st == cResident || st == cSaving || st == cRestoring

/-- Two grants name a core or a way in common. -/
def Grant.overlap (a b : Grant) : Bool :=
  (a.cores &&& b.cores) != 0 || (a.ways.zip b.ways).any fun p =>
    ((p.1 ||| p.1 / 65536) &&& (p.2 ||| p.2 / 65536)) % 65536 != 0

/-- Contexts with a grant, in increasing number. -/
def State.grantees (s : State) : List Nat :=
  (s.ctxs.ctx.filter fun e => e.2.grant.isSome).map (·.1)

/-- A grant names the way cluster·16 + way. -/
def Grant.names (g : Grant) (w : Nat) : Bool :=
  let m := g.ways.getD (w / 16) 0
  bit m (w % 16) || bit m (16 + w % 16)

/-- Contexts other than `x` that hold units of the grant of `x`, a way of an open chunk among them (16 R427). -/
def State.blockers (s : State) (x : Nat) : List Nat :=
  match s.grant x with
  | none => []
  | some g => s.grantees.filter fun y => y != x && ((s.cx y).kept.any (fun w => g.names w.2)
    || s.holds y && match s.grant y with
      | some h => g.overlap h
      | none => false)

/-- Active graphs of a context (06 R167). -/
def State.graphsOf (s : State) (x : Nat) : List Graph := s.sched.graphs.filter fun g => g.ctx = x

/-- The context whose request a waiter is. -/
def Waiter.ctx : Waiter → Nat
  | .task x _ _ => x
  | .core x _ => x
  | .update x => x
  | .coll x => x
  | .rmt x => x
  | .queue x _ => x

/-- A unit rather than a task or a core of a context. -/
def Waiter.isUnit : Waiter → Bool
  | .task _ _ _ => false
  | .core _ _ => false
  | _ => true

/-- A request of one of a context's units is queued on a semaphore, or granted and not yet acted on. -/
def State.unitAsks (s : State) (x : Nat) : Bool :=
  (s.sched.semQ.any fun e => e.2.any fun r => r.who.isUnit && r.who.ctx == x) || s.sched.granted.any fun w => w.ctx == x

/-- The context has work of R419: a graph whose tasks have not all ended, an update, a command, a request of one of
its units on a semaphore. -/
def State.hasWork (s : State) (x : Nat) : Bool :=
  (s.graphsOf x).any (fun g => g.fin.isNone) || (tget none s.smithy.upd x).isSome
    || !(tget {} s.col.ctx x).cmds.isEmpty || !(tget [] s.rmt.cmds x).isEmpty || s.unitAsks x

/-- Runnable (16 R419; log entry 20). -/
def State.runnable (s : State) (x : Nat) : Bool :=
  s.alive x && !s.flag (F.ctxStateSusp x) && s.hasWork x

/-- The context is to run on donated time, whether it is runnable or not (16 R429). -/
def State.gifted (s : State) (x : Nat) : Bool :=
  (s.cx x).donor != 0 && s.alive x && !s.flag (F.ctxStateSusp x)

/-- The context may take its units, or keep them from a waiter. -/
def State.mayRun (s : State) (x : Nat) : Bool := s.runnable x || s.gifted x

def State.setSt (s : State) (x st : Nat) : State := s.setF (F.ctxStateState x) st

/-! ### Becoming resident -/

/-- The context takes its cores and ways (16 R418, R420, R424): zeros at its first residency, a
restore where it has an image. Its overrun is deducted from the slice that starts (16 R426). -/
def State.enter (s : State) (x : Nat) : State :=
  match s.grant x with
  | none => s
  | some g =>
    let c := s.cx x
    let s := g.wayList.foldl (fun s w => s.wayAssign w.1 w.2.1 x true w.2.2) s
    let s := g.coreList.foldl (fun s i => s.clearCore i) s
    let s := s.setCx x { c with started := true, switchDue := false, kept := [],
                                deducted := s.getF (F.ctxStateOverrun x) }
    let s := s.setF (F.ctxStateOverrun x) 0
    let s := { s with ctxs.waiting := s.ctxs.waiting.erase x }
    s.setSt x (if c.saved.isSome then cRestoring else cResident)

/-! ### Pre-emption -/

/-- A chunk commit of the context is open (08 R238, 16 R426). -/
def State.chunkOpen (s : State) (x : Nat) : Bool :=
  match tget none s.smithy.upd x with
  | none => false
  | some u => u.slots.any fun e => match e.2 with
    | some c => c.opened
    | none => false

/-- Die stack of a slot key. -/
def slotDie (k : Nat) : Nat := k / 65536

/-- Slots that a context owns and that are in use. -/
def State.slotsOf (s : State) (x : Nat) : List (Nat × RmtSlot) :=
  s.rmt.slot.filter fun e => e.2.st != .free && e.2.conn.owner = x

/-- How many packets hold a credit. -/
def paidOf (l : List TxPkt) : Nat := (l.filter fun t => t.paid).length

/-- The unacknowledged packets of a context hold credits from now on, or are its debt. -/
def State.markPaid (s : State) (x : Nat) (b : Bool) : State :=
  { s with rmt.slot := s.rmt.slot.map fun e =>
      if e.2.conn.owner = x then (e.1, { e.2 with unacked := e.2.unacked.map fun t => { t with paid := b } }) else e }

/-- The credits of the context's unacknowledged packets go back to the Well as a debt (11 R326). -/
def State.toDebt (s : State) (x : Nat) : State :=
  let s := (s.slotsOf x).foldl (fun s e =>
    let n := paidOf e.2.unacked
    (s.incF (F.rmtTxcReturn (slotDie e.1)) n).incF (F.rmtDebtDebt x) n) s
  s.markPaid x false

/-- Pre-emption begins, or waits for an open window to close (16 R422, R426). -/
def State.preemptNow (s : State) (x : Nat) : State :=
  if s.ctxSt x != cResident then s
  else if s.chunkOpen x then
    if (s.cx x).switchDue then s else s.setCx x { s.cx x with switchDue := true, dueAt := s.getF (F.watchNs 0) }
  else ((s.setCx x { s.cx x with switchDue := false }).toDebt x).setSt x cSaving

/-- The context whose real-time slot runs is `x` (16 R421). -/
def State.rtHolder (s : State) (x : Nat) : Bool := s.ctxs.rtNow == x + 1

/-- One waiting context tries to become resident; a holder of its units that is not runnable is
pre-empted at once, and so is every holder when the waiter's real-time slot runs (16 R420, R421). -/
def State.tryEnter (s : State) (x : Nat) : State :=
  if !s.mayRun x then s
  else
    match s.blockers x with
    | [] => s.enter x
    | bs => bs.foldl (fun s y =>
        if s.resident y && !s.rtHolder y && (!s.mayRun y || s.rtHolder x) then s.preemptNow y
        else s) s

/-- The residency decision of R420, made after every event that can change it: contexts that became
runnable join the queue, contexts that ceased to be leave it, and each waiter tries in turn. -/
def State.settle (s : State) : State :=
  let s := s.grantees.foldl (fun s x =>
    let st := s.ctxSt x
    let due := s.mayRun x && (st == cIdle || st == cWaiting || st == cSaved)
    let inq := s.ctxs.waiting.contains x
    if due && !inq then
      let s := { s with ctxs.waiting := s.ctxs.waiting ++ [x] }
      if st == cIdle then s.setSt x cWaiting else s
    else if !due && inq then
      let s := { s with ctxs.waiting := s.ctxs.waiting.erase x }
      if st == cWaiting then s.setSt x cIdle else s
    else s) s
  let order := s.ctxs.waiting.filter s.rtHolder ++ s.ctxs.waiting.filter (fun x => !s.rtHolder x)
  order.foldl (fun s x => s.tryEnter x) s

/-! ### Save and restore (16 R422–R424) -/

/-- Entries of a table whose keys lie in a range, with keys relative to its start. -/
def cut {α : Type} (t : Tbl α) (lo n : Nat) : Tbl α :=
  (t.filter fun e => decide (lo ≤ e.1) && decide (e.1 < lo + n)).map fun e => (e.1 - lo, e.2)

/-- A cut written back at a place. -/
def uncut (d : Byte) (t c : Bytes) (lo n : Nat) : Bytes :=
  c.foldl (fun t e => tput d t (lo + e.1) e.2) (tclear t lo n)

/-- The context has a placed instance or a busy unit (16 R422). -/
def State.coresBusy (s : State) (x : Nat) : Bool :=
  match s.grant x with
  | none => false
  | some g => g.coreList.any fun i => (s.core i).inst.isSome

/-- A scratch way of a grant is still being cleared: what was in it is not the context's to save, and what is to
be restored goes in behind the clear (05 R115). -/
def State.wayClearing (s : State) (g : Grant) : Bool :=
  g.wayList.any fun w => !w.2.2 && s.flag (F.cmWayZeroing w.1 w.2.1)

/-- Scratch ways of a grant that a save takes: those named in `kept` stay with the context (16 R427). -/
def Grant.savedWays (g : Grant) (kept : List (Nat × Nat)) : List (Nat × Nat × Bool) :=
  g.wayList.filter fun w => !w.2.2 && !(kept.any fun p => p.2 = w.1 * 16 + w.2.1)

/-- The save image of a context: its cores when an instance is placed, its scratch ways always; a way still
being cleared holds zeros (05 R115). -/
def State.image (s : State) (x : Nat) (g : Grant) (kept : List (Nat × Nat)) : Saved :=
  { cores := if s.coresBusy x then g.coreList.map fun i =>
      { g := i, core := s.core i, m0 := s.mat (2 * i), m1 := s.mat (2 * i + 1), vec := s.vec i,
        oc := cut s.mem.oc (ocKey i 0) ocSize } else [],
    ways := (g.savedWays kept).map fun w =>
      (w.1 * 16 + w.2.1, if s.flag (F.cmWayZeroing w.1 w.2.1) then []
        else cut s.mem.cm (wayBase w.1 w.2.1) 1572864) }

/-- A save image written back. -/
def State.putImage (s : State) (v : Saved) : State :=
  let s := v.cores.foldl (fun s c =>
    let s := (((s.setCore c.g c.core).setMat (2 * c.g) c.m0).setMat (2 * c.g + 1) c.m1).setVec c.g c.vec
    { s.sramFill (ocKey c.g 0) ocSize with mem.oc := uncut 0 s.mem.oc c.oc (ocKey c.g 0) ocSize }) s
  v.ways.foldl (fun s w =>
    { s.sramFill (cmWord + w.1 * 1572864) 1572864 with mem.cm := uncut 0 s.mem.cm w.2 (w.1 * 1572864) 1572864 }) s

/-! ### The records of an image in the save regions (16 R423) -/

/-- Offset of byte `k` of HBM in a range of a set, where it lies there. -/
def State.inRange (s : State) (set o len k : Nat) : Option Nat :=
  match s.setOffset set k with
  | some a => if o ≤ a ∧ a < o + len then some (a - o) else none
  | none => none

/-- A range of a set takes the bytes `c`, zero where `c` lists none; check bits are written with them. -/
def State.fillSet (s : State) (set o len : Nat) (c : Bytes) : State :=
  let off (t : Tbl Bool) : Tbl Bool := t.filter fun e => (s.inRange set o len (32 * e.1)).isNone
  { s with mem.hbm := c.foldl (fun t e => tput 0 t (s.hbmKey set (o + e.1)) e.2)
             (s.mem.hbm.filter fun e => (s.inRange set o len e.1).isNone),
           mem.badBursts := off s.mem.badBursts, mem.softBursts := off s.mem.softBursts }

/-- The bytes of a range of a set. -/
def State.takeSet (s : State) (set o len : Nat) : Bytes :=
  s.mem.hbm.foldl (fun t e => match s.inRange set o len e.1 with
    | some a => tput 0 t a e.2
    | none => t) []

/-- A range of a set takes records whose layout the spec leaves open: its bytes are free values (log entry 17). -/
def State.blankSet (s : State) (set o len : Nat) : State :=
  let r := s.freshBytes len
  r.2.fillSet set o len (writeBytes 0 [] 0 r.1)

/-- Set and set offset of a context's save region on die stack `n`. -/
def Grant.region (g : Grant) (n : Nat) : Nat × Nat := g.save.getD n (0, 0)
/-- Granted cores of die stack `n`, and its granted scratch ways as cluster·16 + way, each in increasing order. -/
def Grant.coresOn (g : Grant) (n : Nat) : List Nat := g.coreList.filter fun i => i / 64 = n
def Grant.scratchOn (g : Grant) (n : Nat) : List Nat :=
  (g.wayList.filter fun w => !w.2.2 && w.1 / 8 == n).map fun w => w.1 * 16 + w.2.1

/-- Set offset of the record of a granted core, and of a granted scratch way. -/
def Grant.coreRec (g : Grant) (i : Nat) : Nat :=
  (g.region (i / 64)).2 + 65536 + 1376256 * (g.coresOn (i / 64)).idxOf i
def Grant.wayRec (g : Grant) (w : Nat) : Nat :=
  (g.region (w / 128)).2 + 65536 + 1376256 * (g.coresOn (w / 128)).length + 1572864 * (g.scratchOn (w / 128)).idxOf w

/-- The record of a way. -/
def State.storeWay (s : State) (g : Grant) (w : Nat × Bytes) : State :=
  s.fillSet (g.region (w.1 / 128)).1 (g.wayRec w.1) 1572864 w.2
/-- The record of a core: its operand cache, then both engines and the vector and control state. -/
def State.storeCore (s : State) (g : Grant) (c : SavedCore) : State :=
  let set := (g.region (c.g / 64)).1
  (s.fillSet set (g.coreRec c.g) ocSize c.oc).blankSet set (g.coreRec c.g + ocSize) (1376256 - ocSize)
/-- An image goes to the save regions: the header of each die stack, the cores, the ways. -/
def State.storeImage (s : State) (g : Grant) (v : Saved) : State :=
  let s := (upTo 4).foldl (fun s n => s.blankSet (g.region n).1 (g.region n).2 65536) s
  v.ways.foldl (fun s w => s.storeWay g w) (v.cores.foldl (fun s c => s.storeCore g c) s)

/-- What the model keeps of an image as data: the units, whose records have no layout, and which ways there are. -/
def Saved.units (v : Saved) : Saved :=
  { cores := v.cores.map fun c => { c with oc := [] }, ways := v.ways.map fun w => (w.1, []) }
/-- The image with the bytes that the save regions hold. -/
def State.loadImage (s : State) (g : Grant) (v : Saved) : Saved :=
  { cores := v.cores.map fun c => { c with oc := s.takeSet (g.region (c.g / 64)).1 (g.coreRec c.g) ocSize },
    ways := v.ways.map fun w => (w.1, s.takeSet (g.region (w.1 / 128)).1 (g.wayRec w.1) 1572864) }

/-- A set can be reached for context `x`: each of its members. -/
def setReach (x set : Nat) : M Unit := do
  ((← getS).members set).forM fun p => hbmReach (some x) (p * pcSize)

/-- The save regions can be reached. -/
def saveReach (x : Nat) (g : Grant) : M Unit := (upTo 4).forM fun n => setReach x (g.region n).1

/-- A range of a set is read: an uncorrectable burst faults, and the others are corrected (05 R121, R122). -/
def rangeCheck (x set o len : Nat) : M Unit := do
  let s ← getS
  let hit (e : Nat × Bool) : Bool := (s.inRange set o len (32 * e.1)).isSome
  match s.mem.badBursts.find? hit with
  | some e => hbmUe (some x) (32 * e.1)
  | none => setS fun s => (s.mem.softBursts.filter hit).foldl (fun s e => s.hbmCorrect (32 * e.1)) s

/-- What a restore reads of the save regions. -/
def imageReads (x : Nat) (g : Grant) (v : Saved) : M Unit := do
  saveReach x g
  (upTo 4).forM fun n => rangeCheck x (g.region n).1 (g.region n).2 65536
  v.cores.forM fun c => rangeCheck x (g.region (c.g / 64)).1 (g.coreRec c.g) 1376256
  v.ways.forM fun w => rangeCheck x (g.region (w.1 / 128)).1 (g.wayRec w.1) 1572864

/-- `n` bytes move to or from a set: its stacks share them evenly, and the context pays (05 R124, 16 R432). -/
def State.moveSet (s : State) (x set n : Nat) (write : Bool) : State :=
  let ns := 2 ^ s.getF (F.isDescLns set)
  ((upTo ns).foldl (fun s i =>
    let h := s.getF (F.isDescBstack set) + i
    s.incF (if write then F.hbmWrbytes h else F.hbmRdbytes h) (n / ns)) s).chargeHbm (some x) n

/-- A save or a restore moves the records of an image to or from the save regions (16 R423). -/
def State.moveImage (s : State) (x : Nat) (g : Grant) (write : Bool) (bytes : Nat → Nat) : State :=
  (upTo 4).foldl (fun s n => s.moveSet x (g.region n).1 (bytes n) write) s

/-- Bytes of an image on die stack `n`: header, cores and scratch ways (16 R423). -/
def Saved.bytesOn (v : Saved) (n : Nat) : Nat :=
  65536 + 1376256 * (v.cores.filter fun c => c.g / 64 = n).length + 1572864 * (v.ways.filter fun w => w.1 / 128 = n).length

/-- A way kept for an open chunk is saved and freed once the chunk is done; the delay is the context's overrun and
part of the switch (16 R427). -/
def State.releaseKept (s : State) (x d : Nat) : State :=
  let c := s.cx x
  match s.grant x, c.kept.find? fun p => p.1 = d with
  | some g, some (_, w) =>
    let us := (s.getF (F.watchNs 0) - c.keptAt) / 1000
    let v := c.saved.getD ⟨[], []⟩
    let s := s.moveImage x g true fun n => if n = d then 1572864 else 0
    let s := s.storeWay g (w, cut s.mem.cm (w * 1572864) 1572864)
    let s := s.setCx x { c with kept := c.kept.filter (fun p => p.1 != d),
                                saved := some { v with ways := v.ways ++ [(w, [])] } }
    let s := s.wayAssign (w / 16) (w % 16) 0 false false
    let s := s.setF (F.ctxStateOverrun x) (Nat.min 65535 (s.getF (F.ctxStateOverrun x) + us))
    let t := s.getF F.accSwlastUs + us
    ((s.setF F.accSwlastUs t).setF F.accSwmaxUs (Nat.max t (s.getF F.accSwmaxUs))).settle
  | _, _ => s

/-- Ways kept for a context are freed with it. -/
def State.freeKept (s : State) (x : Nat) : State :=
  let c := s.cx x
  (c.kept.foldl (fun s p => s.wayAssign (p.2 / 16) (p.2 % 16) 0 false false) s).setCx x { c with kept := [] }

/-- Translations of a context dropped from the caches of its clusters (16 R424). -/
def State.dropTlb (s : State) (x : Nat) : State :=
  { s with mem.tlb := s.mem.tlb.filter fun e => !(e.ctx = x ∧ e.unit < 32) }

/-- The cache ways of a context hold no line any more. -/
def State.dropLines (s : State) (x : Nat) : State :=
  { s with mem.lines := s.mem.lines.filter fun l => l.ctx != x }

end Sys2Proof.Machine
end

