-- ==== Sys2Proof/Machine/Cache.lean ====
section
/-! DEFINITION. Cluster memory: scratch ways addressed directly and cache ways that hold lines of
HBM with a dirty bit per byte (05 R114–R118). -/
namespace Sys2Proof.Machine

/-- Ways of cluster `k` that context `x` owns in a mode, in increasing number (05 R114, R116). -/
def State.ownWays (s : State) (k x : Nat) (cache : Bool) : List Nat :=
  (upTo 16).filter fun w => s.flag (F.cmWayValid k w) && s.getF (F.cmWayOwner k w) == x
    && s.flag (F.cmWayMode k w) == cache

/-- Pieces of a scratch range that stay within one way, as byte keys of `cm` and lengths. -/
def scratchPieces (s : State) (k : Nat) (ws : List Nat) : Nat → Nat → Nat → List (Nat × Nat × Nat)
  | 0, _, _ => []
  | f + 1, a, n =>
    if n = 0 then [] else
    let m := Nat.min n (1572864 - a % 1572864)
    let w := ws.getD (a / 1572864) 0
    (wayBase k w + a % 1572864, a, m) :: scratchPieces s k ws f (a + m) (n - m)

/-- Check a CM range: within the scratch ways; an access to a way waits while it is being cleared (05 R115,
R116). -/
def cmRange (x die a n : Nat) : M (Nat × List Nat × Nat) := do
  let s ← getS
  let k := 8 * die + bits a 25 3
  let o := a % 2 ^ 25
  let ws := s.ownWays k x false
  check (decide (a < 2 ^ 28) && decide (o + n ≤ ws.length * 1572864)) kBounds a
  if ((ws.take ((o + n - 1) / 1572864 + 1)).drop (o / 1572864)).any fun w => s.flag (F.cmWayZeroing k w) then
    stop .wait
  return (k, ws, o)

def cmRead (x die a n : Nat) : M (List Byte) := do
  let (k, ws, o) ← cmRange x die a n
  let s ← getS
  (scratchPieces s k ws (n / 1572864 + 2) o n).forM fun p => sramCheck cmWord (cmWord + p.1) p.2.2
  return (scratchPieces s k ws (n / 1572864 + 2) o n).flatMap fun p => readBytes 0 s.mem.cm p.1 p.2.2

def cmWrite (x die a : Nat) (bs : List Byte) : M Unit := do
  let (k, ws, o) ← cmRange x die a bs.length
  setS fun s => (scratchPieces s k ws (bs.length / 1572864 + 2) o bs.length).foldl (fun s p =>
    { s.sramFill (cmWord + p.1) p.2.2 with
      mem.cm := writeBytes 0 s.mem.cm p.1 ((bs.drop (p.2.1 - o)).take p.2.2) }) s

/-- Runs of set bits of a mask of 128 bits: first bit and length. -/
def maskRuns : Nat → Nat → Nat → List (Nat × Nat)
  | 0, _, _ => []
  | f + 1, m, i =>
    if !bit m i then maskRuns f m (i + 1)
    else
      let n := ((upTo (128 - i)).takeWhile fun j => bit m (i + j)).length
      (i, n) :: maskRuns f m (i + n)

/-- Set index of a line (05 R117). -/
def cacheSet (line : Nat) : Nat := line % 12288

/-- Byte of the SRAM at which a line is held. -/
def CLine.key (l : CLine) : Nat := cmWord + wayBase l.cluster l.way + 128 * cacheSet l.line

/-- Write back the dirty bytes of a line, and only those (05 R117). -/
def writeback (l : CLine) : M Unit :=
  (maskRuns 128 l.dirty.toNat 0).forM fun r =>
    if r.2 = 0 then pure () else do
      sramCheck cmWord (l.key + r.1) r.2
      hbmWrite (some l.ctx) l.set (l.line * 128 + r.1) (slice l.data r.1 r.2)

def CLine.at (l : CLine) (k x n line : Nat) : Bool :=
  l.cluster == k && l.ctx == x && l.set == n && l.line == line

/-- The way a line goes to among the cache ways of a context: the lowest that is free in its set, else that of
the least recently used line, which leaves (05 R117; the free way: log entry 55). -/
def cacheRoom (k x line : Nat) (ways : List Nat) : M Nat := do
  let s ← getS
  let mine := s.mem.lines.filter fun l => l.cluster == k && l.ctx == x && cacheSet l.line == cacheSet line
  match ways.find? fun w => mine.all fun l => l.way != w with
  | some w => return w
  | none =>
    match mine.foldl (fun (b : Option CLine) l => match b with
        | some c => if l.stamp < c.stamp then some l else some c
        | none => some l) none with
    | none => return 0
    | some v =>
      writeback v
      setS fun s => { s with mem.lines := s.mem.lines.erase v }
      return v.way

/-- The line of a cached access, fetched on a miss (05 R117). -/
def cacheLine (k x n line : Nat) (ways : List Nat) : M CLine := do
  match (← getS).mem.lines.find? (·.at k x n line) with
  | some l => return l
  | none =>
    let w ← cacheRoom k x line ways
    let data ← hbmRead (some x) n (line * 128) 128
    let l : CLine := { cluster := k, ctx := x, way := w, set := n, line := line, data := data, dirty := 0, stamp := 0 }
    setS fun s => s.sramFill l.key 128
    return l

/-- Put a line back as the most recently used one. -/
def cachePut (l : CLine) : M Unit :=
  setS fun s =>
    let rest := s.mem.lines.filter fun c => !c.at l.cluster l.ctx l.set l.line
    { s with mem.lines := { l with stamp := s.mem.stamp } :: rest, mem.stamp := s.mem.stamp + 1 }

/-- Pieces of a byte range that stay within a line of 128 bytes. -/
def linePieces : Nat → Nat → Nat → List (Nat × Nat)
  | 0, _, _ => []
  | f + 1, o, n =>
    if n = 0 then [] else
    let m := Nat.min n (128 - o % 128)
    (o, m) :: linePieces f (o + m) (n - m)

/-- The context's cache ways; an access waits while one of them is being cleared (05 R115). -/
def cacheWays (k x : Nat) : M (List Nat) := do
  let s ← getS
  if (s.ownWays k x true).any fun w => s.flag (F.cmWayZeroing k w) then stop .wait
  return s.ownWays k x true

def cacheRead (k x n o len : Nat) : M (List Byte) := do
  let ways ← cacheWays k x
  let parts ← (linePieces (len / 128 + 2) o len).mapM fun p => do
    let l ← cacheLine k x n (p.1 / 128) ways
    sramCheck cmWord (l.key + p.1 % 128) p.2
    cachePut l
    return slice l.data (p.1 % 128) p.2
  return parts.flatten

def cacheWrite (k x n o : Nat) (bs : List Byte) : M Unit := do
  let ways ← cacheWays k x
  (linePieces (bs.length / 128 + 2) o bs.length).forM fun p => do
    let l ← cacheLine k x n (p.1 / 128) ways
    let i := p.1 % 128
    let part := (bs.drop (p.1 - o)).take p.2
    let data := l.data.take i ++ part ++ l.data.drop (i + p.2)
    let dirty := l.dirty ||| BitVec.ofNat 128 ((2 ^ p.2 - 1) * 2 ^ i)
    setS fun s => s.sramFill (l.key + i) p.2
    cachePut { l with data := data, dirty := dirty }

/-- Every line of a context is written back and dropped (05 R118, 16 R422). -/
def flushAll (x : Nat) : M Unit := do
  ((← getS).mem.lines.filter fun l => l.ctx == x).forM writeback
  setS fun s => s.dropLines x

end Sys2Proof.Machine
end

