-- ==== Sys2Proof/Machine/Sem.lean ====
section
/-! DEFINITION. Semaphores (06 R180–R184), donated time (16 R429) and Bells (13 R369, R370). -/
namespace Sys2Proof.Machine

/-! ### Bells -/

def bellCompletion : Nat := 1
def bellTask : Nat := 2
def bellStep : Nat := 3
def bellPort : Nat := 4
def bellError : Nat := 5
def bellLink : Nat := 6

/-- A Bell is generated: it takes the next BSEQ and joins the queue, or is dropped (13 R369). -/
def State.bell (s : State) (src a b arg : Nat) : State :=
  if s.fatal && src != bellError then s else
  let n := s.puell.bseq
  let s := { s with puell.bseq := (n + 1) % 65536 }
  if 1024 ≤ s.puell.bellQ.length then
    { s.incF (F.plCtr9 0) 1 with puell.bellLost := true }
  else { s with puell.bellQ := s.puell.bellQ ++ [(n, ⟨src, a, b, arg⟩)] }

/-! ### Semaphores -/

/-- A context may use a semaphore (06 R180). -/
def State.semUsable (s : State) (n x : Nat) : Bool :=
  decide (n < 4096) && s.flag (F.semValid n) &&
    (s.getF (F.semOwner n) == x || (s.flag (F.semPeeren n) && s.getF (F.semPeer n) == x))

def State.semReqs (s : State) (n : Nat) : List SemReq := tget [] s.sched.semQ n
def State.setSemReqs (s : State) (n : Nat) (l : List SemReq) : State :=
  { s with sched.semQ := tput [] s.sched.semQ n l }

/-- Donated time of context `d` ends: it is pre-empted, and its donor goes ahead of the others that
wait (16 R429). -/
def State.endDonation (s : State) (d : Nat) : State :=
  let c := s.cx d
  if c.donor = 0 then s else
  let x := c.donor - 1
  let s := (s.setCx d { c with donor := 0, donSem := 0 }).setB (F.ctxStateDonated d) false
  let s := { s with ctxs.waiting := x :: s.ctxs.waiting.filter (· != x) }
  (s.preemptNow d).settle

/-- A signal of semaphore `n` ends the donations that wait for it (16 R429). -/
def State.donationSignal (s : State) (n : Nat) : State :=
  (s.ctxs.ctx.filter fun e => e.2.donor != 0 && e.2.donSem == n).foldl
    (fun s e => s.endDonation e.1) s

/-- Add `v` to a semaphore; `none` when that would overflow (06 R181, R183). -/
def State.semSignal (s : State) (n v : Nat) : Option State :=
  let c := s.getF (F.semCount n) + v
  if 2 ^ 32 ≤ c then none else some ((s.setF (F.semCount n) c).donationSignal n)

/-- Take `v` from a semaphore whose queue is empty (06 R181). -/
def State.semTake (s : State) (n v : Nat) : Option State :=
  let c := s.getF (F.semCount n)
  if (s.semReqs n).isEmpty && decide (v ≤ c) then some (s.setF (F.semCount n) (c - v)) else none

/-- The requests that `p` names leave their queues. -/
def State.dropReqs (s : State) (p : Waiter → Bool) : State :=
  { s with sched.semQ := s.sched.semQ.filterMap fun e =>
      let l := e.2.filter fun r => !(p r.who)
      if l.isEmpty then none else some (e.1, l) }

/-- A request of a unit is queued. -/
def State.unitQueued (s : State) (w : Waiter) : Bool := s.sched.semQ.any fun e => e.2.any fun r => r.who == w
/-- A unit's request is queued, or granted and not yet acted on. -/
def State.unitWaits (s : State) (w : Waiter) : Bool := s.sched.granted.contains w || s.unitQueued w

/-- A unit waits on semaphore `n` with a count of 1: its request joins the queue, once (06 R181, R182; log
entry 21). -/
def State.unitJoin (s : State) (n : Nat) (w : Waiter) : State :=
  if !(s.semUsable n w.ctx) || s.unitWaits w then s else s.setSemReqs n (s.semReqs n ++ [⟨w, 1⟩])

/-- A unit no longer waits; a count already taken for it stays taken. -/
def State.unitLeave (s : State) (w : Waiter) : State := s.dropReqs (· == w)

/-- A unit's turn: its request has been granted, or stands at the head of its queue and the count allows
(06 R182). -/
def State.unitTake (s : State) (w : Waiter) : Option State :=
  if s.sched.granted.contains w then some { s with sched.granted := s.sched.granted.erase w }
  else match s.sched.semQ.find? fun e => (e.2.head?.map (·.who)) == some w with
    | some (n, r :: rest) =>
      if r.v ≤ s.getF (F.semCount n) then
        some ((s.setF (F.semCount n) (s.getF (F.semCount n) - r.v)).setSemReqs n rest)
      else none
    | _ => none

end Sys2Proof.Machine
end

