-- ==== Sys2Proof/Machine/RmtBase.lean ====
section
/-! DEFINITION. Packets, slots and keys of the remote memory transport, and the halt of a
connection (11 R293–R317). -/
namespace Sys2Proof.Machine

/-! ### CRC-32 -/

/-- Eight shifts of the register under a reflected polynomial, least significant bit first. -/
def crc32Shift (poly : BitVec 32) : Nat → BitVec 32 → BitVec 32
  | 0, c => c
  | n + 1, c => crc32Shift poly n (if c.toNat % 2 = 1 then (c >>> 1) ^^^ poly else c >>> 1)

/-- A CRC-32 of a byte string. -/
def crc32 (poly : BitVec 32) (bs : List Byte) : BitVec 32 :=
  (bs.foldl (fun c b => crc32Shift poly 8 (c ^^^ b.setWidth 32)) 0xFFFFFFFF#32) ^^^ 0xFFFFFFFF#32

/-- CRC-32C of a byte string (Castagnoli; 11 R300, 06 R151, 20 R501). -/
def crc32c (bs : List Byte) : BitVec 32 := crc32 0x82F63B78#32 bs
/-- The FCS of a frame, in the order of its bytes (IEEE 802.3; log entry 33). -/
def fcsBytes (bs : List Byte) : List Byte := leBytes 4 (crc32 0xEDB88320#32 bs).toNat

/-! ### Packets -/

def opWrite : Nat := 0x01
def opWriteNotify : Nat := 0x02
def opReadReq : Nat := 0x03
def opReadResp : Nat := 0x04
def opAtomic : Nat := 0x05
def opAtomicResp : Nat := 0x06
def opReduceWrite : Nat := 0x07
def opAck : Nat := 0x10
def opNak : Nat := 0x11
def opOpen : Nat := 0x20
def opOpenAck : Nat := 0x21
def opHalt : Nat := 0x22
def opClose : Nat := 0x23

def axhBytes (a : Axh) : List Byte :=
  beBytes 4 a.key.toNat ++ beBytes 4 a.length.toNat ++ beBytes 8 a.offset.toNat
    ++ beBytes 4 a.imm.toNat ++ beBytes 4 a.reserved.toNat

def cxhBytes (c : Cxh) : List Byte :=
  beBytes 4 c.mapid.toNat ++ beBytes 4 c.gen.toNat ++ beBytes 4 c.ctag.toNat ++ beBytes 1 c.cop.toNat
    ++ beBytes 1 c.cxflags.toNat ++ beBytes 2 c.reserved.toNat ++ beBytes 8 c.count.toNat
    ++ beBytes 8 c.coff.toNat

/-- The bytes that the end-to-end check covers (11 R297, R299, R300). -/
def pktBytes (p : Packet) : List Byte :=
  [p.opc, BitVec.ofNat 8 (place (ofBool p.first) 7 1 + place (ofBool p.last) 6 1
      + place (ofBool p.hasCxh) 5 1 + place (ofBool p.ece) 4 1 + place (ofBool p.areq) 3 1
      + p.flagsRest.toNat), p.ver, p.sub]
    ++ beBytes 4 p.dcn.toNat ++ beBytes 4 p.epoch.toNat ++ beBytes 4 p.psn.toNat
    ++ beBytes 4 p.apsn.toNat
    ++ (match p.axh with | some a => axhBytes a | none => [])
    ++ (match p.cxh with | some c => cxhBytes c | none => [])
    ++ (if p.opc.toNat = opAtomic then beBytes 8 p.opnd0.toNat ++ beBytes 8 p.opnd1.toNat else [])
    ++ p.payload


/-- An empty packet of an opcode, to be filled in. -/
def packet0 (opc sub : Nat) : Packet :=
  { srcIp := 0, v6 := false, options := false, fragment := false, headerSumOk := true, udpSum := .right, ce := false,
    opc := BitVec.ofNat 8 opc, first := false, last := false, hasCxh := false, ece := false, areq := false,
    flagsRest := 0, ver := 0x10, sub := BitVec.ofNat 8 sub, dcn := 0, epoch := 0, psn := 0, apsn := 0, axh := none,
    cxh := none, opnd0 := 0, opnd1 := 0, payload := [], crc := 0 }

/-- The IP and UDP headers of a received packet pass (11 R296). -/
def pktIpOk (p : Packet) : Bool :=
  !p.options && !p.fragment && p.headerSumOk && p.udpSum != .wrong && !(p.v6 && p.udpSum == .zero)

/-! ### Internet headers (11 R296) -/

/-- Sum of a byte string's big-endian 16-bit words. -/
def sum16 : List Byte → Nat
  | a :: b :: r => a.toNat * 256 + b.toNat + sum16 r
  | [a] => a.toNat * 256
  | [] => 0

/-- The Internet checksum: the one's complement of the one's complement sum. -/
def inetSum (bs : List Byte) : Nat :=
  let t := sum16 bs
  0xFFFF - (if t = 0 then 0 else (t - 1) % 65535 + 1)

/-- IPv4 header without options: DF, TTL 64, UDP. -/
def ip4Header (tos src dst len : Nat) : List Byte :=
  let h := fun sum => [0x45#8, BitVec.ofNat 8 tos] ++ beBytes 2 (20 + len) ++ beBytes 2 0 ++ beBytes 2 0x4000
    ++ [64#8, 17#8] ++ beBytes 2 sum ++ beBytes 4 src ++ beBytes 4 dst
  h (inetSum (h 0))

def ip6Header (tc flow len next hops src dst : Nat) : List Byte :=
  beBytes 4 (place 6 28 4 + place tc 20 8 + place flow 0 20) ++ beBytes 2 len
    ++ [BitVec.ofNat 8 next, BitVec.ofNat 8 hops] ++ beBytes 16 src ++ beBytes 16 dst

/-- The checksum over a payload of IPv6 and its pseudo-header. -/
def ip6Sum (src dst next : Nat) (bs : List Byte) : Nat :=
  inetSum (beBytes 16 src ++ beBytes 16 dst ++ beBytes 4 bs.length ++ beBytes 4 next ++ bs)

/-- What an RMT packet's frame holds behind the EtherType, up to its FCS. -/
def udpBody (v6 : Bool) (src dst dscp sp dp : Nat) (data : List Byte) : List Byte :=
  let n := 8 + data.length
  let tos := 4 * dscp + 2
  let u := fun sum => beBytes 2 sp ++ beBytes 2 dp ++ beBytes 2 n ++ beBytes 2 sum ++ data
  if v6 then
    let c := ip6Sum src dst 17 (u 0)
    ip6Header tos (sp % 2 ^ 14) n 17 64 src dst ++ u (if c = 0 then 0xFFFF else c)
  else ip4Header tos src dst n ++ u 0

/-! ### Slots -/

def slotKey (d sl : Nat) : Nat := d * 65536 + sl
/-- Connection number of a slot key (11 R293). -/
def slotCn (k : Nat) : Nat := k
def State.slot (s : State) (k : Nat) : RmtSlot := tget {} s.rmt.slot k
def State.setSlot (s : State) (k : Nat) (v : RmtSlot) : State :=
  { s with rmt.slot := tput {} s.rmt.slot k v }

/-- Port of a slot's connection, E(8n + p). -/
def slotPort (k : Nat) (c : ConnRec) : Nat := 8 * slotDie k + c.port

/-- Source port of a path (11 R306). -/
def sport (k path : Nat) : Nat := 0xC000 + (k % 65536 * 40503 + path * 1031) % 16384

def State.portIp (s : State) (p : Nat) (v6 : Bool) : Nat :=
  if v6 then s.getF (F.portIpv6LoAddr p) + s.getF (F.portIpv6HiAddr p) * 2 ^ 64
  else s.getF (F.portIpv4Addr p)

/-- Bytes of the frame that carries a packet (11 R301). -/
def frameLen (p : Packet) (v6 tag : Bool) : Nat :=
  14 + (if tag then 4 else 0) + (if v6 then 40 else 20) + 8 + (pktBytes p).length + 4 + 4

/-- A packet of a connection counts its frame's bytes to the owner, as with the tag that the port sends (16 R432;
log entry 42). -/
def State.rxBytes (s : State) (k : Nat) (p : Packet) : State :=
  let c := (s.slot k).conn
  s.incF (F.accNet c.owner) (frameLen p c.ipv6 (s.flag (F.portVlanTagen (slotPort k c))))

def State.portSt (s : State) (p : Nat) : PortSt := tget {} s.ports p
def State.setPort (s : State) (p : Nat) (v : PortSt) : State := { s with ports := tput {} s.ports p v }

/-- A port that is down, has no address of its own, or whose watchdog has fired for a priority discards what
is presented to it (12 R337, R348): the counter of the discard. -/
def State.portDiscards (s : State) (p q : Nat) : Option Nat :=
  if !(s.flag (F.portStatusLinkup p)) || !(s.flag (F.portUcValid p 0)) then some 57
  else if s.bitF (F.portWdstatFired p) (if s.getF (F.portCfgPause p) = 1 then 0 else q) then some (40 + q)
  else none

/-- A frame is presented to a port: it waits, or is discarded and counted; a dead crossing drops it (12 R337,
R345, R348; 14 R386). -/
def State.present (s : State) (port : Nat) (f : TxFrame) : State :=
  match s.portDiscards port f.prio with
  | some i => s.incF (portCtr port i) 1
  | none =>
    if s.xingDown (port / 8) (4 + port % 8) then s.xingDrop (port / 8) (4 + port % 8) else
    let ps := s.portSt port
    s.setPort port { ps with txq := ps.txq ++ [f] }

/-- EtherType of an IP version. -/
def ipType (v6 : Bool) : Nat := if v6 then 0x86DD else 0x0800

/-- A packet of slot `k` as the frame its port sends, addressed and checked (11 R296, R300, R306). -/
def State.pktFrame (s : State) (k : Nat) (p : Packet) : TxFrame :=
  let v := s.slot k
  let c := v.conn
  let ip := s.portIp (slotPort k c) c.ipv6
  let bs := pktBytes { p with dcn := BitVec.ofNat 32 c.pcn, epoch := BitVec.ofNat 32 c.epoch }
  { prio := c.prio, dstMac := c.nextHop, etype := ipType c.ipv6, owner := some c.owner,
    body := udpBody c.ipv6 ip c.peerIp c.dscp (sport k v.path) (s.getF (F.rmtCfgUdpport (slotDie k)))
      (bs ++ beBytes 4 (crc32c bs).toNat) }

/-- Hand a packet of slot `k` to its port. -/
def State.sendPkt (s : State) (k : Nat) (p : Packet) : State :=
  (s.incF (F.rmtCtr0 (slotDie k)) 1).present (slotPort k (s.slot k).conn) (s.pktFrame k p)

/-- A control packet that carries this end's connection number (11 R298). -/
def State.sendCn (s : State) (k opc : Nat) : State :=
  s.sendPkt k { packet0 opc 0 with payload := beBytes 4 (slotCn k) }

/-- Slot states as RMT_CSTAT.STATE shows them (11 R330). -/
def SlotSt.code : SlotSt → Nat
  | .free => 0 | .opening => 1 | .opened => 2 | .closing => 3 | .halted => 4

/-- A slot becomes FREE: LASTEPOCH holds its epoch, everything else of it is cleared (11 R302). -/
def State.freeSlot (s : State) (k : Nat) : State :=
  s.setSlot k { lastEpoch := (s.slot k).conn.epoch }

/-! ### Keys -/

/-- A message releases its reference on a cached key (11 R317). -/
def State.keyRelease (s : State) (d index : Nat) : State :=
  let l := (tget [] s.rmt.keys d).map fun c =>
    if c.index = index then { c with refs := c.refs - 1 } else c
  { s with rmt.keys := tput [] s.rmt.keys d l }

/-- The open message of a slot, if any, gives its reference back. -/
def State.dropRx (s : State) (k : Nat) : State :=
  let v := s.slot k
  let s := match v.rx with
    | some m => match m.key with
      | some i => s.keyRelease (slotDie k) i
      | none => s
    | none => s
  s.setSlot k { v with rx := none }

/-! ### The connection cache (11 R320) -/

def State.connCache (s : State) (d : Nat) : List Nat := tget [] s.rmt.cached d

/-- Set offset of a slot's record. -/
def connAt (k : Nat) : Nat := 256 * (k % 65536)

/-- A record leaves the cache: its device part is written back, in a layout the spec leaves open (11 R295; log entry
62). -/
def State.connSpill (s : State) (k : Nat) : State :=
  let d := slotDie k
  let r := s.freshBytes 192
  let s := ((hbmWrite none (s.getF (F.rmtCfgCset d)) (connAt k + 64) r.1).go r.2).2
  { s with rmt.spill := tmod 0 s.rmt.spill d (· + 1) }

/-- A slot becomes the most recent entry of its die stack's cache; one that is not there is fetched from the table,
and the least recently used one of a full cache is written back. The stop is what kept the record from coming. -/
def State.connUse (s : State) (k : Nat) : Option Stop × State :=
  let d := slotDie k
  let l := s.connCache d
  let hit := l.contains k
  match (if hit then pure [] else houseRead (s.getF (F.rmtCfgCset d)) (connAt k) 256 : M (List Byte)).go s with
  | (.error e, s) => (some e, s)
  | (.ok _, s) =>
    let l' := k :: l.erase k
    let s := match l'[4096]? with
      | some old => s.connSpill old
      | none => s
    let s := { s with rmt.cached := tput [] s.rmt.cached d (l'.take 4096),
                      rmt.fetch := tmod 0 s.rmt.fetch d (· + if hit then 0 else 1) }
    (none, s.setF (F.rmtCacheConns d) (Nat.min 4096 l'.length))

/-! ### Credits (11 R325, R326) -/

/-- Credits that the unacknowledged packets of slots of a die stack hold. -/
def State.creditsOut (s : State) (d : Nat) : Nat :=
  s.getF (F.rmtTxcIssue d) - s.getF (F.rmtTxcReturn d) - s.getF (F.rmtTxcReclaim d)

/-- Packets of a slot are acknowledged: their credits return to the Well, or pay the debt that they are part
of. -/
def State.creditBack (s : State) (k : Nat) (ts : List TxPkt) : State :=
  let x := (s.slot k).conn.owner
  let s := s.incF (F.rmtTxcReturn (slotDie k)) (paidOf ts)
  s.setF (F.rmtDebtDebt x) (s.getF (F.rmtDebtDebt x) - (ts.length - paidOf ts))

/-! ### Commands -/

/-- A write that waits for the first-touch copy of its page (05 R133): it proceeds when the copy is
done; everything else of the step has happened. -/
def State.touch (s : State) (x key : Nat) : State :=
  let r := tget {} s.res.ctx x
  if tget false r.snap.cleared key then s else
  { s with res.ctx := tput {} s.res.ctx x { r with snap.copying := tput false r.snap.copying key true } }

def State.postWait (s : State) (x key unit cva : Nat) (bs : List Byte) : State :=
  let s := s.touch x key
  { s with mem.wpWaits := s.mem.wpWaits ++ [⟨x, unit, cva, bs⟩] }

/-- Write bytes for a context; a write that must wait for a first-touch copy is left waiting. The
stop is what else prevented it. -/
def State.post (s : State) (unit x cva : Nat) (bs : List Byte) : Option Stop × State :=
  match (cvaWrite unit x cva bs).go s with
  | (.ok _, s') => (none, s')
  | (.error (.touch y k), _) => (none, s.postWait y k unit cva bs)
  | (.error e, s') => (some e, s')

/-- The engine waits on GOSEM while ENABLE = 1 and fewer than 64 commands are in flight (11 R328; log entry 59). -/
def State.rmtJoin (s : State) (x : Nat) : State :=
  if s.flag (F.rmtCtlEnable x) && s.alive x && decide ((tget [] s.rmt.cmds x).length < 64) then
    s.unitJoin (s.getF (F.rmtCtlGosem x)) (.rmt x)
  else s

/-- An RMT command completes: STATUS is written, INFLIGHT drops, SIGSEM is signalled. The second
component is the semaphore when the signal overflows (11 R329, 06 R183). -/
def State.cmdComplete (s : State) (x i status : Nat) : State × Option Nat :=
  let l := tget [] s.rmt.cmds x
  match l.find? fun c => c.index = i with
  | none => (s, none)
  | some c =>
    let l := l.filter fun c => c.index != i
    let s := { s with rmt.cmds := tput [] s.rmt.cmds x l }
    let s := (s.setF (F.rmtCtlInflight x) l.length).rmtJoin x
    let s := (s.post (dieUnit 0) x (c.addr + 2) [BitVec.ofNat 8 status]).2
    if c.sigsem = 0xFFFF then (s, none)
    else match s.semSignal c.sigsem c.sigval with
      | some s => (s, none)
      | none => (s, some c.sigsem)

/-- Packets of a slot's messages that are not complete. -/
def RmtSlot.pkts (v : RmtSlot) : List TxPkt := v.unacked ++ v.reads ++ v.queued

/-- Distinct commands of a list of packets. -/
def ownersOf (l : List TxPkt) : List (Nat × Nat) :=
  (l.filterMap fun p => match p.owner with
    | .cmd x i => some (x, i)
    | _ => none).eraseDups

/-! ### Halting (11 R304) -/

def haltRetry : Nat := 1
def haltNpl : Nat := 2
def haltNakSent : Nat := 3
def haltNakRecv : Nat := 4
def haltRecv : Nat := 5
def haltRevoke : Nat := 6
def haltTeardown : Nat := 7

/-- STATUS of the commands a halt ends (11 R304, R328). -/
def haltStatus (cause : Nat) : Nat :=
  if cause = haltNakRecv ∨ cause = haltNakSent then 2 else if cause = haltRevoke then 4 else 3

/-- Twin sends of a context stop when their connection halts (18 R472). -/
def State.twinHalt (s : State) (k : Nat) (parent : Option Nat) : State :=
  let x := (s.slot k).conn.owner
  if s.getF (F.resTwinConn x) = slotCn k ∧ s.getF (F.resTwinstState x) = 1 then
    let s := s.setF (F.resTwinstState x) 2
    let r := tget {} s.res.ctx x
    let s := { s with res.ctx := tput {} s.res.ctx x { r with twin := [] } }
    s.record clsContext (slotDie k) uRes kHalt 0 (some x) parent (slotCn k)
  else s

/-- The commands whose packets a slot held complete with a STATUS. The list holds the context and semaphore of each
command whose completion signal overflowed. -/
def State.cmdsEnd (s : State) (v : RmtSlot) (status : Nat) : State × List (Nat × Nat) :=
  (ownersOf v.pkts).foldl (fun r o =>
    let c := r.1.cmdComplete o.1 o.2 status
    (c.1, match c.2 with | some n => r.2 ++ [(o.1, n)] | none => r.2)) (s, [])

/-- A slot in OPEN or CLOSING halts (11 R304), with the overflows of `cmdsEnd`. -/
def State.haltSlot (s : State) (k cause : Nat) (parent : Option Nat) :
    State × List (Nat × Nat) :=
  let v := s.slot k
  if v.st != .opened && v.st != .closing then (s, []) else
  let s := s.record clsContext (slotDie k) uRmt kHalt cause (some v.conn.owner) parent (slotCn k)
  let s := (s.sendCn k opHalt).dropRx k
  let s := if cause = haltTeardown then s else s.creditBack k v.unacked
  let s := s.twinHalt k parent
  let s := s.setSlot k { s.slot k with st := .halted, unacked := [], reads := [], queued := [], gap := false,
                                       busy := false, busyWait := false, owed := 0 }
  s.cmdsEnd v (haltStatus cause)

end Sys2Proof.Machine
end

