-- ==== Sys2Proof/Machine/Flags.lean ====
section
/-! DEFINITION. What a converting write stream reports, how reports reach a Tally slot, and the doom
of a step (07 R196–R200, R213, R214); the step record in bytes (07 R201). -/
namespace Sys2Proof.Machine

/-! ### The step record -/

/-- Working copy of a context's step record; the default before the first read (07 R202). -/
def State.stepRec (s : State) (x : Nat) : StepRec := (tget none s.train.steps x).getD {}
def State.setStepRec (s : State) (x : Nat) (r : StepRec) : State :=
  { s with train.steps := tput none s.train.steps x (some r) }

/-- STEP of a context (07 R199). -/
def State.stepNo (s : State) (x : Nat) : Nat := (s.stepRec x).step

/-- The step whose slots are still open: the step being closed between rows 3 and 5, else STEP
(07 R204). -/
def State.openStep (s : State) (x : Nat) : Nat :=
  match tget none s.smithy.upd x with
  | some u => if u.phase = .drain then u.step else s.stepNo x
  | none => s.stepNo x

def doomByte (d : Doom) : Nat :=
  place (ofBool d.doomed) 0 1 + place (ofBool d.bypeer) 1 1 + place (ofBool d.latewatch) 2 1

/-- The 128 bytes of the record, J fields as last read (07 R201). -/
def stepRecBytes (r : StepRec) (d : Doom) : List Byte :=
  leBytes 8 r.step ++ leBytes 8 r.applied ++ leBytes 8 r.skipped ++ leBytes 8 r.cursor
    ++ w32Bytes r.lossScale ++ w32Bytes r.lsMin ++ w32Bytes r.lsMax ++ leBytes 4 r.clean
    ++ leBytes 4 r.growInt ++ leBytes 1 r.flags ++ leBytes 1 r.outcome ++ leBytes 1 (doomByte d)
    ++ leBytes 1 0 ++ leBytes 8 r.late ++ leBytes 8 r.scaleList ++ leBytes 2 r.nscale
    ++ leBytes 2 d.slot ++ leBytes 4 0 ++ leBytes 8 r.closed ++ leBytes 40 0

/-- The J fields of a record read into a working copy (07 R202). -/
def StepRec.readJ (r : StepRec) (bs : List Byte) : StepRec :=
  { r with lsMin := w32At bs 36, lsMax := w32At bs 40, growInt := fieldAt bs 48 4,
           flags := fieldAt bs 52 1, scaleList := fieldAt bs 64 8, nscale := fieldAt bs 72 2 }

/-- The whole record read (07 R202). -/
def stepRecOf (bs : List Byte) : StepRec :=
  let dm := fieldAt bs 54 1
  StepRec.readJ
    { step := fieldAt bs 0 8, applied := fieldAt bs 8 8, skipped := fieldAt bs 16 8,
      cursor := fieldAt bs 24 8, lossScale := w32At bs 32, clean := fieldAt bs 44 4,
      outcome := fieldAt bs 53 1, late := fieldAt bs 56 8, closed := fieldAt bs 80 8,
      doom := { doomed := bit dm 0, bypeer := bit dm 1, latewatch := bit dm 2,
                slot := fieldAt bs 74 2 } } bs

/-! ### Doom -/

/-- Doom state of a step: the step whose slots are open, or the one after it. -/
def State.doomOf (s : State) (x step : Nat) : Doom :=
  if step = s.openStep x then (s.stepRec x).doom else (s.stepRec x).doomNext

def State.setDoom (s : State) (x step : Nat) (f : Doom → Doom) : State :=
  let r := s.stepRec x
  s.setStepRec x (if step = s.openStep x then { r with doom := f r.doom }
    else { r with doomNext := f r.doomNext })

/-- A watched non-finite report dooms its step, unless the step's norm contribution has been formed; the first
such slot is DOOMSLOT, whether a peer has doomed the step before or not (07 R213). -/
def State.watchedNonfinite (s : State) (x step slot : Nat) : State :=
  s.setDoom x step fun d =>
    if d.normed then { d with latewatch := true }
    else { d with doomed := true, slot := if d.slot = 0xFFFF then slot else d.slot }

/-- The module's contribution to the norm of the context's step is formed (07 R213). -/
def State.normFormed (s : State) (x : Nat) : State :=
  s.setDoom x (s.stepNo x) fun d => { d with normed := true }

/-- A peer's abort exchange dooms the open step (07 R214). -/
def State.doomByPeer (s : State) (x : Nat) : State :=
  s.setDoom x (s.stepNo x) fun d => { d with doomed := true, bypeer := true }

/-- The open step is doomed and its arithmetic is suppressed (07 R214). -/
def State.suppressed (s : State) (x : Nat) : Bool :=
  bit (s.stepRec x).flags 0 && (s.doomOf x (s.stepNo x)).doomed

/-! ### Reports -/

/-- A stream of context `x` may report to a slot (07 R198). -/
def State.slotOk (s : State) (n x : Nat) : Bool :=
  decide (n < 4096) && s.flag (F.tallyCtlValid n) && s.getF (F.tallyCtlOwner n) == x

/-- A stream of a context carries the number of a step, which it opens (07 R202). -/
def State.carry (s : State) (x step : Nat) : State :=
  let r := s.stepRec x
  s.setStepRec x { r with carried := Nat.max r.carried (step + 1) }

/-- A stream's counts and maximum set out for its slot (07 R200). -/
def State.report (s : State) (x slot step : Nat) (c : Census) : State :=
  { s.carry x step with train.reports := s.train.reports ++ [⟨x, slot, step, c.zero, c.sat, c.nonfin, c.max⟩] }

/-- Live counts of a slot for one step. -/
def State.liveOf (s : State) (slot step : Nat) : Live :=
  ((s.train.live.find? fun l => l.slot = slot ∧ l.step = step)).getD ⟨slot, step, 0, 0, 0, 0⟩

/-- Counts of a slot for a step put back. -/
def State.setLive (s : State) (l : Live) : State :=
  { s with train.live := (s.train.live.filter fun k => !(k.slot = l.slot ∧ k.step = l.step)) ++ [l] }

/-- A report reaches its slot (07 R200, R204, R213). -/
def State.tallyArrive (s : State) (r : Report) : State :=
  if r.step < s.openStep r.ctx then
    let k := s.stepRec r.ctx
    s.setStepRec r.ctx { k with late := k.late + 1 }
  else
    let l := s.liveOf r.slot r.step
    let s := s.setLive { l with zero := l.zero + r.zero, sat := l.sat + r.sat,
                                nonfin := l.nonfin + r.nonfin, max := Nat.max l.max r.max }
    if r.nonfin = 0 then s else
    let s := if r.step = s.openStep r.ctx then s.setB (F.tallyCtlLivenf r.slot) true else s
    if s.flag (F.tallyCtlWatch r.slot) then s.watchedNonfinite r.ctx r.step r.slot else s

/-- Everything live of a slot is dropped, reports on their way to it among it (07 R197). -/
def State.clearLive (s : State) (slot : Nat) : State :=
  { s.setB (F.tallyCtlLivenf slot) false with
    train.live := s.train.live.filter fun l => l.slot != slot,
    train.reports := s.train.reports.filter fun r => r.slot != slot }

/-- Slots a context owns. -/
def State.slotsOwned (s : State) (x : Nat) : List Nat := (upTo 4096).filter fun n => s.slotOk n x

/-- The live counts of every slot of a context are cleared, and its reports with them (07 R200,
R215). -/
def State.clearTally (s : State) (x : Nat) : State :=
  let slots := ((s.train.live.map (·.slot)).eraseDups.filter fun n => s.slotOk n x)
  let s := slots.foldl (fun s n => s.clearLive n) s
  { s with train.reports := s.train.reports.filter fun r => r.ctx != x }

/-- A count of the last closed step stops at 2^48 − 1 (07 R200). -/
def cap48 (n : Nat) : Nat := Nat.min n (2 ^ 48 - 1)

/-- Row 5 of the close for one slot (07 R204). -/
def State.closeSlot (s : State) (x step slot : Nat) : State :=
  let l := s.liveOf slot step
  let s := ((((s.setF (F.tallyZero slot) (cap48 l.zero)).setF (F.tallySat slot) (cap48 l.sat)).setF
    (F.tallyNonfin slot) (cap48 l.nonfin)).setF (F.tallyMaxMaxmag slot) l.max).setB (F.tallyCtlOvf slot)
    (decide (2 ^ 48 - 1 ≤ Nat.max l.zero (Nat.max l.sat l.nonfin)))
  let s := { s with train.live := s.train.live.filter fun k => !(k.slot = slot ∧ k.step = step) }
  s.setB (F.tallyCtlLivenf slot) ((s.liveOf slot (s.stepNo x)).nonfin != 0)

end Sys2Proof.Machine
end

