-- ==== Sys2Proof/Machine/Chunk.lean ====
section
/-! DEFINITION. The state of a shard and the rows of a chunk transaction: where a chunk lies, its
progress record, what is computed for it and how it is written and marked (08 R216–R242). -/
namespace Sys2Proof.Machine

/-! ### Sums (03 R59) -/

/-- T over a list of values. `f` bounds the depth. -/
def treeSum : Nat → List W32 → W32
  | 0, _ => 0#32
  | f + 1, l =>
    match l with
    | [] => 0#32
    | [x] => x
    | _ =>
      let p := 2 ^ Nat.log2 (l.length - 1)
      w32Add (treeSum f (l.take p)) (treeSum f (l.drop p))

def sumT (l : List W32) : W32 := treeSum 64 l

/-! ### Where state lies -/

def chunkLen : Nat := 32768

/-- Number of chunks of a shard (08 R216). -/
def Shard.nChunks (h : Shard) : Nat := (h.count + chunkLen - 1) / chunkLen
/-- Parameters of chunk `c`. -/
def Shard.chunkCount (h : Shard) (c : Nat) : Nat := Nat.min chunkLen (h.count - c * chunkLen)

/-- Read bytes of a shard's array by die stack `d` on behalf of context `x` (08 R222). -/
def shRead (d x : Nat) (h : Shard) (a n : Nat) : M (List Byte) := do
  if h.house then
    if !((← getS).houseRange h.hset a n) then ctxStop kBounds a
    hbmRead (some x) h.hset a n
  else cvaRead (dieUnit d) x a n

def shWrite (d x : Nat) (h : Shard) (a : Nat) (bs : List Byte) : M Unit :=
  if h.house then houseWrite (some x) h.hset a bs else cvaWrite (dieUnit d) x a bs

/-- The die stack whose Smithy updates chunk `c` (08 R216). -/
def chunkDie (x : Nat) (h : Shard) (c : Nat) : M Nat := do
  let a := h.master + 131072 * c
  if h.house then return keyDie ((← getS).hbmKey h.hset a)
  match ← translate (dieUnit 0) x a false with
  | .hbm set off => return keyDie ((← getS).hbmKey set off)
  | .comp _ => return c % 4

/-- List n of a shard: the chunks die stack `d` updates, in increasing number (08 R241). -/
def chunkList (x d : Nat) (h : Shard) : M (List Nat) := do
  let ds ← (upTo h.nChunks).mapM fun c => do return (c, ← chunkDie x h c)
  return (ds.filter fun p => p.2 = d).map (·.1)

/-! ### Progress records (08 R241) -/

def progDone (d x : Nat) (h : Shard) : M Nat := do
  return leNat (← shRead d x h (h.progress + 8 + 8 * d) 8)
def progWin (d x : Nat) (h : Shard) : M Nat := do
  return leNat (← shRead d x h (h.progress + 40 + d) 1)

/-- A chunk at place `i` of the window of its list is marked open. -/
def markOpen (d x : Nat) (h : Shard) (i : Nat) : M Unit := do
  let w ← progWin d x h
  shWrite d x h (h.progress + 40 + d) (leBytes 1 (insert w i 1 1))

/-- DONE and the window after chunks at its start are counted in. -/
def slide : Nat → Nat → Nat → Nat × Nat
  | 0, dn, w => (dn, w)
  | f + 1, dn, w =>
    if bit w 4 then slide f (dn + 1) (place (bits w 1 3) 0 4 + place (bits w 5 3) 4 4) else (dn, w)

/-- A chunk is marked done: its open bit moves to done ahead, and the list advances over every chunk
that is done. -/
def markDone (d x : Nat) (h : Shard) (i : Nat) : M Unit := do
  let dn ← progDone d x h
  let w ← progWin d x h
  let r := slide 4 dn (insert (insert w i 1 0) (4 + i) 1 1)
  shWrite d x h (h.progress + 8 + 8 * d) (leBytes 8 r.1)
  shWrite d x h (h.progress + 40 + d) (leBytes 1 r.2)

/-- Place of chunk `c` in the window of list `d`. -/
def winPlace (d x : Nat) (h : Shard) (c : Nat) : M Nat := do
  let l ← chunkList x d h
  return l.idxOf c - (← progDone d x h)

/-! ### The computation (08 R229–R237) -/

/-- 2^e as a W32 code, e from −126 to 127. -/
def w32Pow2 (e : Int) : W32 := BitVec.ofNat 32 ((e + 127).toNat * 2 ^ 23)

/-- ⌈log2 x⌉ of a positive magnitude in units of 2^-149. -/
def ceilLog2 (u : Nat) : Int := ((if 2 ^ Nat.log2 u = u then Nat.log2 u else Nat.log2 u + 1 : Nat) : Int) - 149

def clampExp (e : Int) : Int := if e < -126 then -126 else if 127 < e then 127 else e

/-- The coarse scale of a chunk's record (08 R234). -/
def chunkCoarse (vs : List W32) : W32 :=
  let m := vs.foldl (fun m v => Nat.max m (w32Units v)) 0
  if m = 0 then w32One else w32Pow2 (clampExp (ceilLog2 m - 16))

/-- Cut a list into blocks of `k`. -/
def blocksOf {α : Type} (k : Nat) (l : List α) : List (List α) := chunksOf k (l.length + 1) l

/-- Values converted in blocks of `k`: element codes, scale bytes, and the census. -/
def convAll (c : Cvc) (coarse : W32) (k : Nat) (vs : List W32) : List Nat × List Nat × Census :=
  (blocksOf k vs).foldl (fun r b =>
    let o := convBlock c coarse false 0 (b.map srcW32) (b.map fun _ => 0)
    (r.1 ++ o.1, r.2.1 ++ o.2.1.toList, r.2.2.add o.2.2)) ([], [], {})

def cvcKQ8 : Cvc := ⟨.kq8, false, true, false⟩
def cvcKW16 : Cvc := ⟨.kw16, false, false, false⟩

/-- A KQ8 record of a chunk: coarse scale, elements, scale bytes, padded (08 R218, R219). -/
def kq8Record (k : Nat) (vs : List W32) : List Byte × Census :=
  let coarse := chunkCoarse vs
  let r := convAll cvcKQ8 coarse k vs
  (w32Bytes coarse ++ List.replicate 60 0#8 ++ padTo chunkLen (packCodes .kq8 r.1)
    ++ padTo (chunkLen / k) (r.2.1.map (BitVec.ofNat 8)), r.2.2)

/-- Values of a KQ8 record (08 R229, R233). -/
def kq8Values (k n : Nat) (bs : List Byte) : List W32 :=
  let coarse := w32At bs 0
  (upTo n).map fun i =>
    toW32 (srcElem .kq8 (fieldAt bs (64 + i) 1) (fieldAt bs (32832 + i / k) 1) coarse)

/-- sgn of 08 R229. -/
def w32Sgn (x : W32) : W32 :=
  if w32IsNaN x then w32NaN else if w32IsZero x then 0#32 else if w32Neg x then w32Flip w32One else w32One

/-- Everything that the Smithy reads of a chunk. -/
structure ChunkIn where
  w : List W32
  g : List W32
  m : List W32
  /-- Row and column accumulators, or the values v of a quantised sketch. -/
  rho : List W32
  kappa : List W32
  v : List W32

/-- Bytes of a chunk's second-moment record. -/
def sketchBytes (vsk : Nat) : Nat := if vsk = 1 then 1536 else if vsk = 2 then 33088 else 0

/-- Inputs as read, decoded (08 R229, R232, R233). -/
def chunkIn (gr : Grp) (n : Nat) (master mom1 sk grad : List Byte) : ChunkIn where
  w := (upTo n).map fun i => w32At master (4 * i)
  g := (upTo n).map fun i => toW32 (srcPlain .kw16 (fieldAt grad (2 * i) 2))
  m := kq8Values 16 n mom1
  rho := if gr.vsk = 1 then (upTo 128).map fun i => w32At sk (4 * i) else []
  kappa := if gr.vsk = 1 then (upTo 256).map fun i => w32At sk (512 + 4 * i) else []
  v := if gr.vsk = 2 then (kq8Values 128 n sk).map fun s => w32Mul s s else []

def nth (l : List W32) (i : Nat) : W32 := l.getD i 0#32

/-- New row and column accumulators and every v′ (08 R232). -/
def factored (gr : Grp) (c : GrpC) (inp : ChunkIn) (gh : List W32) : List W32 × List W32 × List W32 :=
  let q := gh.map fun g => w32Add (w32Mul g g) gr.eps1
  let p8 := w32Pow2 (-8)
  let p7 := w32Pow2 (-7)
  let rows := blocksOf 256 q
  let rho := (inp.rho.zip rows).map fun p =>
    w32Fma gr.beta2 p.1 (w32Mul c.a2 (w32Mul (sumT p.2) p8))
  let kappa := (inp.kappa.zip (upTo 256)).map fun p =>
    w32Fma gr.beta2 p.1 (w32Mul c.a2 (w32Mul (sumT (rows.map fun r => nth r p.2)) p7))
  let mean := w32Mul (sumT rho) p7
  let v := rho.flatMap fun r => kappa.map fun k =>
    if w32IsZero mean then 0#32 else w32Div (w32Mul r k) mean
  (rho, kappa, v)

/-- What a chunk's pass forms: m′, u, new sketch values (accumulators or √v′), v′ included. -/
structure ChunkOut where
  m : List W32
  u : List W32
  rho : List W32
  kappa : List W32
  root : List W32

/-- First moments and directions of the four rules (08 R229). -/
def chunkRule (gr : Grp) (c : GrpC) (k : W32) (inp : ChunkIn) : ChunkOut :=
  let gh := inp.g.map fun g => w32Mul g k
  if gr.rule = 2 then
    let f := factored gr c inp gh
    let v := if gr.vsk = 1 then f.2.2
      else (inp.v.zip gh).map fun p => w32Fma gr.beta2 p.1 (w32Mul c.a2 (w32Mul p.2 p.2))
    let m := (inp.m.zip gh).map fun p => w32Fma gr.beta1 p.1 (w32Mul c.a1 p.2)
    { m := m,
      u := (m.zip v).map fun p =>
        w32Div (w32Mul p.1 c.r1) (w32Add (w32Sqrt (w32Mul p.2 c.r2)) gr.eps),
      rho := f.1, kappa := f.2.1, root := if gr.vsk = 2 then v.map w32Sqrt else [] }
  else if gr.rule = 3 then
    { m := (inp.m.zip gh).map fun p => w32Fma gr.beta2 p.1 (w32Mul c.a2 p.2),
      u := (inp.m.zip gh).map fun p => w32Sgn (w32Fma gr.beta1 p.1 (w32Mul c.a1 p.2)),
      rho := [], kappa := [], root := [] }
  else
    let m := (inp.m.zip gh).map fun p => w32Fma gr.beta1 p.1 p.2
    { m := m, rho := [], kappa := [], root := [],
      u := if gr.rule = 1 then (m.zip gh).map fun p => w32Fma gr.beta1 p.1 p.2 else m }

/-- r of a trust group (08 R230). -/
def trustR (gr : Grp) (w u : List W32) : List W32 := (w.zip u).map fun p => w32Fma gr.wd p.1 p.2

/-- New masters (08 R230). -/
def newMaster (gr : Grp) (c : GrpC) (tau : W32) (w u : List W32) : List W32 :=
  if bit gr.flags 2 then
    let a := w32Flip (w32Mul gr.lr tau)
    (w.zip (trustR gr w u)).map fun p => w32Fma a p.2 p.1
  else (w.zip u).map fun p => w32Fma (w32Flip gr.lr) p.2 (w32Mul p.1 c.d)

/-- The working copy of a run of masters: element bytes, scale bytes, census (08 R235). -/
def workingCopy (gr : Grp) (w : List W32) : List Byte × List Byte × Census :=
  if gr.wcfmt = 2 then
    let r := convAll cvcKW16 w32One 16 w
    (packCodes .kw16 r.1, [], r.2.2)
  else
    let r := convAll cvcKQ8 gr.wccoarse 16 w
    (packCodes .kq8 r.1, r.2.1.map (BitVec.ofNat 8), r.2.2)

def shaBytes (bs : List Byte) : List Byte := beBytes 48 (Config.sha384 bs).toNat

/-- The two digests of a chunk (08 R237). -/
def chunkDigests (gr : Grp) (wc : List Byte × List Byte) (master : List Byte) : List Byte :=
  (shaBytes (if gr.wcfmt = 2 then wc.1 else wc.1 ++ wc.2 ++ w32Bytes gr.wccoarse)).take 16
    ++ (shaBytes master).take 16

/-- Row 3: outputs of a chunk from its inputs, and whether R231 passes. -/
def computeChunk (gr : Grp) (c : GrpC) (k tau : W32) (shard chunk n : Nat)
    (master mom1 sk grad : List Byte) : ChunkS × Bool :=
  let inp := chunkIn gr n master mom1 sk grad
  let o := chunkRule gr c k inp
  let w := newMaster gr c tau inp.w o.u
  let m := kq8Record 16 o.m
  let s : List Byte × Census :=
    if gr.vsk = 1 then (o.rho.flatMap w32Bytes ++ o.kappa.flatMap w32Bytes, {})
    else if gr.vsk = 2 then kq8Record 128 o.root else ([], {})
  let wc := workingCopy gr w
  let bytes := w.flatMap w32Bytes
  ({ shard := shard, chunk := chunk, opened := false, todo := 0, master := bytes, mom1 := m.1,
     mom2 := s.1, digest := chunkDigests gr (wc.1, wc.2.1) bytes, mrep := m.2.add s.2, wrep := wc.2.2 },
   (o.m ++ o.rho ++ o.kappa ++ o.root ++ w).all w32IsFinite && wc.2.2.nonfin == 0)

/-! ### Rows 5 to 7 (08 R238) -/

/-- Row 5: master, moments, sketch and digests written in place. -/
def writeChunk (d x : Nat) (h : Shard) (gr : Grp) (c : ChunkS) : M Unit := do
  shWrite d x h (h.master + 131072 * c.chunk) c.master
  shWrite d x h (h.mom1 + 34880 * c.chunk) c.mom1
  if gr.vsk != 0 then shWrite d x h (h.mom2 + sketchBytes gr.vsk * c.chunk) c.mom2
  shWrite d x h (h.digest + 32 * c.chunk) c.digest

def State.upd (s : State) (x : Nat) : Option Upd := tget none s.smithy.upd x
def State.setUpd (s : State) (x : Nat) (u : Option Upd) : State :=
  { s with smithy.upd := tput none s.smithy.upd x u }

def shard0 : Shard := ⟨0, false, 0, 0, 0, 0, 0, 0, 0, 0⟩
def grp0 : Grp := ⟨0, 0, 0, 0, 0, 0, 0, 0, 0, 0, 0, 0, 0, 0, 0⟩
def Upd.shard (u : Upd) (i : Nat) : Shard := u.shards.getD i shard0
def Upd.grp (u : Upd) (i : Nat) : Grp := (tget none u.groups (u.shard i).group).getD grp0
def Upd.setSlot (u : Upd) (k : Nat) (c : Option ChunkS) : Upd :=
  { u with slots := tput none u.slots k c }

/-- Key of a retain slot. -/
def retKey (d sl : Nat) : Nat := d * 4 + sl

/-- Companion addresses, with lengths, of a range of a shard (05 R140). -/
def State.shTargets (s : State) (d x : Nat) (h : Shard) (a n : Nat) : List (Nat × Nat) :=
  if h.house then []
  else (pageList a n).filterMap fun p => match (translate (dieUnit d) x p.1 false).go s with
    | (.ok (.comp b), _) => some (b, p.2)
    | _ => none

/-- What row 5 of a chunk writes of companion memory (08 R238). -/
def State.chunkPlaces (s : State) (d x : Nat) (u : Upd) (c : ChunkS) : List (Nat × Nat) :=
  let h := u.shard c.shard
  let vsk := (u.grp c.shard).vsk
  s.shTargets d x h (h.master + 131072 * c.chunk) c.master.length ++ s.shTargets d x h (h.mom1 + 34880 * c.chunk) c.mom1.length
    ++ (if vsk = 0 then [] else s.shTargets d x h (h.mom2 + sketchBytes vsk * c.chunk) c.mom2.length)
    ++ s.shTargets d x h (h.digest + 32 * c.chunk) c.digest.length

/-- A write that a context's units made to some of these companion places has not been acknowledged (08 R238, 13
R362). -/
def State.unacked (s : State) (x : Nat) (l : List (Nat × Nat)) : Bool :=
  (upTo 2).any fun k => (s.pl k).writesTo (.unit x) fun a => l.any fun p => decide (p.1 < a + 64) && decide (a < p.1 + p.2)

/-- Reports of a chunk that is done (08 R234, R236). -/
def State.chunkReports (s : State) (x step : Nat) (gr : Grp) (c : ChunkS) : State :=
  let s := if gr.mslot = 0xFFFF then s else s.report x gr.mslot step c.mrep
  if gr.wslot = 0xFFFF then s else s.report x gr.wslot step c.wrep

/-- A retain slot goes back (08 R239). -/
def State.returnSlot (s : State) (x d sl : Nat) : State :=
  match s.upd x with
  | none => s
  | some u => (s.setUpd x (some (u.setSlot (retKey d sl) none))).incF (F.smyRetReturn d) 1

/-- Row 7: the chunk is marked done, its slot returned and its reports made. -/
def State.chunkRow7 (s : State) (x d sl : Nat) (u : Upd) (c : ChunkS) : Option Stop × State :=
  let h := u.shard c.shard
  let m : M Unit := do markDone d x h (← winPlace d x h c.chunk)
  match m.go s with
  | (.error e, s) => (some e, s)
  | (.ok _, s) =>
    let s := (s.returnSlot x d sl).incF (F.smyChunks d) 1
    (none, s.chunkReports x u.step (u.grp c.shard) c)

/-- Rows 5 to 7 of a chunk that is open. What is left of row 5 stays in `todo` when a link is down
or a page must be copied first. -/
def State.finishChunk (s : State) (x d sl : Nat) : Option Stop × State :=
  match s.upd x with
  | none => (none, s)
  | some u =>
    match tget none u.slots (retKey d sl) with
    | none => (none, s)
    | some c =>
      if !c.opened then (none, s)
      else if c.todo = 0 then s.chunkRow7 x d sl u c
      else
        match (writeChunk d x (u.shard c.shard) (u.grp c.shard) c).go s with
        | (.ok _, s) => s.chunkRow7 x d sl u c
        | (.error .linkDown, s) =>
          (some .linkDown, s.setUpd x (some (u.setSlot (retKey d sl) (some { c with todo := 2 }))))
        | (.error (.touch y k), s) =>
          (some (.touch y k), (s.touch y k).setUpd x (some (u.setSlot (retKey d sl) (some { c with todo := 1 }))))
        | (.error e, s) => (some e, s)

/-- No record of a context's groups is in force any more: its state is written anew, or another job's follows. -/
def State.dropGroups (s : State) (x : Nat) : State :=
  { s with smithy.groups := s.smithy.groups.filter fun e => match e.2 with
      | some g => g.owner != x
      | none => true }

/-- Slots of an update that hold a chunk: die stack and slot. -/
def Upd.held (u : Upd) : List (Nat × Nat) := u.slots.map fun e => (e.1 / 4, e.1 % 4)

/-- What the Smithies do when a context is torn down: open chunks go through rows 5 to 7, and every
slot is returned (08 R239, R242). -/
def State.smithyTeardown (s : State) (x : Nat) : State :=
  match s.upd x with
  | none => s
  | some u =>
    let s := u.held.foldl (fun s p =>
      if s.inService p.1 then (s.finishChunk x p.1 p.2).2 else s) s
    let left := match s.upd x with
      | some u => u.held
      | none => []
    let s := left.foldl (fun s p => s.returnSlot x p.1 p.2) s
    s.setUpd x none

end Sys2Proof.Machine
end

