-- ==== Sys2Proof/Machine/Protect.lean ====
section
/-! DEFINITION. Pages of an open snapshot: protecting and unprotecting them, staging pages, the
writes that wait for a copy, and how a snapshot is given up (05 R133, R134; 18 R460–R467, R473). -/
namespace Sys2Proof.Machine

def State.resc (s : State) (x : Nat) : ResCtx := tget {} s.res.ctx x
def State.setResc (s : State) (x : Nat) (r : ResCtx) : State :=
  { s with res.ctx := tput {} s.res.ctx x r }
def State.setSnap (s : State) (x : Nat) (p : Snap) : State := s.setResc x { s.resc x with snap := p }

/-- STATE and REASON codes of RES_SNAP. -/
def snNone : Nat := 0
def snOpening : Nat := 1
def snOpen : Nat := 2
def snDrained : Nat := 3
def snFailed : Nat := 4
def whyStageFull : Nat := 1
def whyTeardown : Nat := 2
def whyImgSpace : Nat := 3
def whyMap : Nat := 4

/-! ### Leaf entries -/

/-- Set offset of the 2 MiB leaf entry of a virtual address of context `x`, if there is one. -/
def leafAt (x cva : Nat) : M Nat := do
  match (← getS).grant x with
  | none => tFault cva
  | some g =>
    let e1 ← ptEntry cva g.ptroot (bits cva 39 9)
    if !bit e1 0 || bit e1 1 then tFault cva
    let t2 := bits e1 12 30 * 4096
    let e2 ← ptEntry cva t2 (bits cva 30 9)
    if !bit e2 0 || bit e2 1 then tFault cva
    return bits e2 12 30 * 4096 + 8 * bits cva 21 9

/-- The leaf of a page with WP and WPA set or WP cleared; its cached copies are dropped (05 R132,
R133). -/
def setLeaf (x cva : Nat) (protect : Bool) : M Unit := do
  let n := (← getS).getF F.memCfgPtset
  let a ← leafAt x cva
  let e := leNat (← hbmRead none n a 8)
  let e := if protect then insert (insert e 6 1 1) 7 1 1 else insert e 6 1 0
  hbmWrite none n a (leBytes 8 e)
  setS fun s => { s with mem.tlb := s.mem.tlb.filter fun t => !(t.ctx = x ∧ t.page = cva / pageSize) }

/-! ### Pages of regions -/

def Region.pages (r : Region) : Nat := r.length / pageSize
/-- Snapshot pages of a region list as (region, page), in drain order (18 R465). -/
def snapPages (rs : List Region) : List (Nat × Nat) :=
  (rs.zip (upTo rs.length)).flatMap fun p => if p.1.twin then [] else (upTo p.1.pages).map fun i => (p.2, i)

def pageKey (i p : Nat) : Nat := i * 2 ^ 32 + p
def region0 : Region := ⟨0, 0, false, false, 0, 0xFF, 0⟩
def Snap.region (p : Snap) (i : Nat) : Region := p.regions.getD i region0
/-- First byte of page `p` of a region. -/
def Region.at (r : Region) (p : Nat) : Nat := r.base + p * pageSize
/-- Key in `houseWp` of a page of a house region. -/
def Region.wpKey (r : Region) (p : Nat) : Nat := r.hset * 2 ^ 32 + r.at p / pageSize

/-- Set or clear the protection of a page (18 R462, R464). -/
def protectPage (x : Nat) (r : Region) (p : Nat) (on : Bool) : M Unit := do
  if r.house then
    setS fun s => { s with res.houseWp := tput 0 s.res.houseWp (r.wpKey p) (if on then x + 1 else 0) }
  else setLeaf x (r.at p) on

/-! ### Staging pages (18 R460) -/

def State.stgTake (s : State) (x n : Nat) : State := (s.incF F.resStgIssue n).incF (F.resStgHeld x) n
def State.stgGive (s : State) (x n : Nat) : State :=
  (s.incF F.resStgReturn n).setF (F.resStgHeld x) (s.getF (F.resStgHeld x) - n)
def State.stgSet (s : State) (d : Nat) : Nat := bits (s.getF F.resCfgSset) (8 * d) 8
/-- A staging page is free for the context: within its quota and in its copy engine's set. -/
def State.stgFree (s : State) (x : Nat) : Bool :=
  decide (s.getF (F.resStgHeld x) < s.getF (F.resCtlStgquota x))

/-- Where a page lies, by its leaf alone (18 R462): the unit reads a page whether or not R is set. -/
def pageTgt (x : Nat) (r : Region) (p : Nat) : M Tgt := do
  if r.house then return .hbm r.hset (r.at p)
  let n := (← getS).getF F.memCfgPtset
  let e := leNat (← hbmRead none n (← leafAt x (r.at p)) 8)
  let base := bits e 21 21 * pageSize
  return if bits e 2 2 = 0 then .hbm (bits e 8 8) base else .comp base

/-- The copy engine that handles a page (18 R457): the die stack of its first byte; P0 where the
page lies in companion memory. -/
def pageDie (x : Nat) (r : Region) (p : Nat) : M Nat := do
  match ← pageTgt x r p with
  | .hbm set off => return keyDie ((← getS).hbmKey set off)
  | .comp _ => return 0

/-- A page is read for its context, which pays (05 R121, 18 R465). -/
def pageBytes (x : Nat) (r : Region) (p : Nat) : M Bytes := do
  match ← pageTgt x r p with
  | .hbm set off =>
    setReach x set
    rangeCheck x set off pageSize
    setS fun s => s.moveSet x set pageSize false
    return (← getS).takeSet set off pageSize
  | .comp a =>
    compAsk 0 (some x) a pageSize
    return cut (← getS).mem.comp a pageSize

/-- Copy a page into a staging page and clear its protection (18 R465, R466). -/
def copyPage (x i p : Nat) (first : Bool) : M Unit := do
  let r := ((← getS).resc x).snap.region i
  let d ← pageDie x r p
  let data ← pageBytes x r p
  protectPage x r p false
  setS fun s =>
    let sn := (s.resc x).snap
    let rs := if first then lmod sn.regions i fun r => { r with touched := r.touched + 1 } else sn.regions
    let s := s.setSnap x { sn with regions := rs, cleared := tput false sn.cleared (pageKey i p) true,
                                   copying := tput false sn.copying (pageKey i p) false,
                                   staged := sn.staged ++ [⟨i, p, d, data⟩] }
    ((s.moveSet x (s.stgSet d) pageSize true).stgTake x 1).incF F.resFtc (ofBool first)

/-! ### Giving up a snapshot -/

/-- Every protection of the context's snapshot is cleared, what it staged is returned, and it fails
for a reason (18 R467, R473). Page-table entries that cannot be reached are left. -/
def State.abandonSnap (s : State) (x why : Nat) : State :=
  let sn := (s.resc x).snap
  let s := (snapPages sn.regions).foldl (fun s p =>
    if tget false sn.cleared (pageKey p.1 p.2) then s
    else ((protectPage x (sn.region p.1) p.2 false).go s).2) s
  let s := s.stgGive x sn.staged.length
  let s := (s.setF (F.resSnapState x) snFailed).setF (F.resSnapReason x) why
  (s.setSnap x {}).incF F.resAbandon 1

/-- Writes of a context that wait and whose page no longer keeps them: they are made in issue order
(05 R134). What one of them meets is returned. -/
def State.releaseWrites (s : State) (x : Nat) : List (WpWait × Stop) × State :=
  let mine := s.mem.wpWaits.filter fun w => w.ctx = x
  mine.foldl (fun (r : List (WpWait × Stop) × State) w =>
    match (cvaWrite w.unit x w.cva w.data).go r.2 with
    | (.ok _, s) => (r.1, { s with mem.wpWaits := s.mem.wpWaits.erase w })
    | (.error (.touch _ _), _) => r
    | (.error .wait, _) => r
    | (.error e, s) => (r.1 ++ [(w, e)], { s with mem.wpWaits := s.mem.wpWaits.erase w })) ([], s)

end Sys2Proof.Machine
end

