-- ==== Sys2Proof/Machine/Teardown.lean ====
section
/-! DEFINITION. Taking a fault: the record, and the teardown of a context with every reclaim it makes
(06 R168, R178, R179; 09 R266; 11 R318, R319, R327; 16 R430; 18 R473; 19 R489). -/
namespace Sys2Proof.Machine

/-! ### Graphs -/

/-- A task has ended. -/
def TaskSt.ended (t : TaskSt) : Bool := t == .done || t == .cancelled || t == .faulted

/-- An Ember goes back to the table (06 R178). -/
def State.emberReturn (s : State) (x : Nat) : State :=
  let s := (s.incF F.schEmbReturn 1).setF F.schEmberInuse (s.getF F.schEmberInuse - 1)
  s.setF (F.ctxEmbersHeld x) (s.getF (F.ctxEmbersHeld x) - 1)

/-- A count that a task which never ran had acquired is returned (06 R168). -/
def State.semGiveBack (s : State) (t : TaskS) : State :=
  if t.acquired && t.placed == 0 then
    match t.sem with
    | some (n, v) => (s.semSignal n v).getD s
    | none => s
  else s

/-- Requests of a task leave their queues. -/
def State.dropTaskReqs (s : State) (x sub : Nat) (i : Nat) : State := s.dropReqs (· == .task x sub i)

/-- A task that has not ended is ended with state `st`. -/
def State.endTask (s : State) (x sub i : Nat) (t : TaskS) (st : TaskSt) : State × TaskS :=
  if t.st.ended then (s, t) else
    let s := if t.ember.isSome then s.emberReturn x else s
    let s := (s.semGiveBack t).dropTaskReqs x sub i
    (s, { t with st := st, ember := none, acquired := false })

def Graph.tdone (g : Graph) : Nat := (g.tasks.filter fun t => t.st = .done).length

/-- A graph of a torn-down context completes: FAULTED with the task that faulted, else CANCELLED. -/
def State.tearGraph (s : State) (g : Graph) (bad : Option (Nat × Nat)) : State :=
  if g.fin.isSome then s else
    let mine : Option Nat := match bad with
      | some (sub, i) => if sub = g.subseq then some i else none
      | none => none
    let r := (g.tasks.zip (upTo g.tasks.length)).foldl (fun (r : State × List TaskS) p =>
      let e := r.1.endTask g.ctx g.subseq p.2 p.1 (if mine = some p.2 then .faulted else .cancelled)
      (e.1, r.2 ++ [e.2])) (s, [])
    let c : Completion := { status := if mine.isSome then 3 else 4, detail := mine.getD 0, tdone := g.tdone }
    let g' := { g with tasks := r.2, fin := some c, checking := false }
    { r.1 with
      sched.graphs := r.1.sched.graphs.map fun h => if h.ctx = g.ctx ∧ h.subseq = g.subseq then g' else h,
      sched.finished := r.1.sched.finished ++ [(g.ctx, g.subseq)] }

/-! ### Stage queues -/

def State.stqEnds (s : State) (x : Nat) : List Nat :=
  (upTo 256).filter fun n => s.flag (F.stqCfgValid n) && s.getF (F.stqCfgOwner n) == x

/-- Credits in flight of a producer end, in the registers' 64 bits. -/
def State.stqFlight (s : State) (n : Nat) : Nat :=
  (s.getF (F.stqIssue n) + 2 ^ 65 - s.getF (F.stqReturn n) - s.getF (F.stqReclaim n)) % 2 ^ 64
/-- Slots of a queue end. -/
def State.stqSlots (s : State) (n : Nat) : Nat := s.getF (F.stqCfgNslot n) + 1

/-- The reclaim of every producer end of an owner; every end of it leaves service (09 R266). -/
def State.stqTeardown (s : State) (x : Nat) (parent : Option Nat) : State :=
  (s.stqEnds x).foldl (fun s n =>
    if s.getF (F.stqCfgRole n) = 0 then
      let f := s.stqFlight n
      let h := s.stqSlots n - s.getF (F.semCount (s.getF (F.stqCfgWsem n))) - f
      let s := (s.incF (F.stqReclaim n) f).setB (F.stqCfgValid n) false
      s.record clsContext (s.getF (F.stqPeerDie n)) uStq kReclaim 0 (some x) parent
        (place f 0 32 + place h 32 32)
    else s.setB (F.stqCfgValid n) false) s

/-! ### Keys -/

/-- What RMT_KSTAT shows when a key command ends (11 R330). -/
def State.keyStat (s : State) (result gen aborted : Nat) : State :=
  (((s.setB F.rmtKstatDone true).setF F.rmtKstatResult result).setF F.rmtKstatGen gen).setF F.rmtKstatAborted aborted

/-- Set that holds the key records. -/
def State.kset (s : State) : Nat := s.getF (F.rmtCfgKset 0)

def keyAt (i : Nat) : Nat := 64 * i
/-- A key record in the table; zeros where none can be read. -/
def State.keyRec (s : State) (i : Nat) : List Byte :=
  match (houseRead s.kset (keyAt i) 64).go s with
  | (.ok b, _) => b
  | (.error _, _) => leBytes 64 0

/-- KSTATE, GEN and the other fields of a record (11 R314). -/
def kState (b : List Byte) : Nat := fieldAt b 16 1
def kGen (b : List Byte) : Nat := fieldAt b 22 2 % 4096
def kOwner (b : List Byte) : Nat := fieldAt b 18 1

/-- A record with a new KSTATE and GEN. -/
def keyBytes (b : List Byte) (st gen : Nat) : List Byte :=
  b.take 16 ++ leBytes 1 st ++ slice b 17 5 ++ leBytes 2 gen ++ b.drop 24

/-- KSTATE and GEN of a key set in the record and in every cached copy (11 R318, R321). -/
def State.keySet (s : State) (i st gen : Nat) : State :=
  let b := keyBytes (s.keyRec i) st gen
  let s := ((hbmWrite none s.kset (keyAt i) b).go s).2
  { s with rmt.keys := s.rmt.keys.map fun e =>
      (e.1, e.2.map fun c => if c.index = i then { c with bytes := keyBytes c.bytes st gen } else c) }

/-- Indices of key records that hold anything. -/
def State.keyUsed (s : State) : List Nat :=
  (s.mem.hbm.filterMap fun e =>
    match s.setOffset s.kset e.1 with
    | some o => if o < 64 * 1048576 then some (o / 64) else none
    | none => none).eraseDups

/-- Slots with a message that holds a reference on a key (11 R317). -/
def State.keyHolders (s : State) (i : Nat) : List Nat :=
  (s.rmt.slot.filter fun e => match e.2.rx with
    | some m => m.key == some i
    | none => false).map (·.1)

/-- Row 5 of a revocation: the key is free under a new generation, and a REVOKE of it is done (11 R318). -/
def State.keyFree (s : State) (i aborted : Nat) : State :=
  let g := (kGen (s.keyRec i) + 1) % 4096
  let s := s.keySet i 0 g
  match s.rmt.revoke with
  | some r =>
    if r.index = i then ({ s with rmt.revoke := none }).keyStat (if aborted = 0 then 0 else 3) g aborted else s
  | none => s

/-- Every key of an owner becomes FREE with a new generation (11 R318, R319). `held` counts the messages that held
a reference on the key of a running REVOKE when the teardown aborted them. -/
def State.revokeOwner (s : State) (x held : Nat) : State :=
  if !s.flag (F.rmtCfgTvalid 0) then s else
  s.keyUsed.foldl (fun s i =>
    let b := s.keyRec i
    if kOwner b = x ∧ kState b != 0 then s.keyFree i (((s.rmt.revoke.map (·.aborted)).getD 0) + held) else s) s

/-! ### Connections -/

/-- Every slot a context owns halts and the credits of its unacknowledged packets, with its debt, are
reclaimed (11 R327; log entry 22). The debt of a context that is not resident is first taken from
the Wells, as its resume would. The record names the die stack of the first slot, P0 where there is none. -/
def State.rmtTeardown (s : State) (x : Nat) (parent : Option Nat) : State :=
  let slots := s.slotsOf x
  let die := match slots with
    | e :: _ => slotDie e.1
    | [] => 0
  let held := match s.rmt.revoke with
    | some r => (s.keyHolders r.index).length
    | none => 0
  let n := slots.foldl (fun n e => n + e.2.unacked.length) 0
  let s := slots.foldl (fun s e =>
    let d := slotDie e.1
    let k := (s.slot e.1).unacked.length
    let s := s.incF (F.rmtTxcIssue d) (k - paidOf (s.slot e.1).unacked)
    ((s.haltSlot e.1 haltTeardown parent).1).incF (F.rmtTxcReclaim d) k) s
  let s := { s with rmt.cmds := tput [] s.rmt.cmds x [] }
  let s := (s.setF (F.rmtDebtDebt x) 0).setF (F.rmtCtlInflight x) 0
  (s.record clsContext die uRmt kReclaim 0 (some x) parent n).revokeOwner x held

/-! ### Collectives -/

/-- RVALID, PVALID, INFLIGHT and the step ESS are cleared (10 R292). -/
def State.colTeardown (s : State) (x : Nat) : State :=
  let s := ((s.setB (F.colCtlRvalid x) false).setB (F.colCtlPvalid x) false).setF (F.colCtlInflight x) 0
  { s with col.ctx := tput {} s.col.ctx x {} }

/-! ### Resilience -/

/-- An open snapshot is abandoned; twin buffers go back (18 R473). -/
def State.resTeardown (s : State) (x : Nat) (parent : Option Nat) : State :=
  let s := if s.snapOpen x then
      (s.abandonSnap x whyTeardown).record clsContext 0 uRes kTeardown whyTeardown (some x) parent
        (s.getF (F.resSnapstepStep x))
    else s
  let bufs := (s.resc x).twin.foldl (fun n e => n + match e.2 with | some b => b.pages | none => 0) 0
  (s.stgGive x bufs).setResc x { s.resc x with twin := [] }

/-! ### Units of the grant -/

/-- Donations that a context gives or lives on end with it (16 R429). -/
def State.donationTeardown (s : State) (x : Nat) : State :=
  let s := (s.setCx x { s.cx x with donor := 0, donSem := 0 }).setB (F.ctxStateDonated x) false
  (s.ctxs.ctx.filter fun e => e.2.donor = x + 1).foldl (fun s e =>
    let s := (s.setCx e.1 { s.cx e.1 with donor := 0, donSem := 0 }).setB (F.ctxStateDonated e.1) false
    s.preemptNow e.1) s

/-- Requests of a context leave their queues, and what was granted to its units is gone. -/
def State.dropCtxReqs (s : State) (x : Nat) : State :=
  { s.dropReqs (·.ctx == x) with sched.granted := s.sched.granted.filter (·.ctx != x) }

/-- Cores and ways that a context holds are cleared and freed; requests of it leave their queues (16
R424, R430). -/
def State.freeUnits (s : State) (x : Nat) : State :=
  let s := s.dropCtxReqs x
  let s : State := match s.grant x with
    | some g =>
      if s.holds x then
        let s := g.coreList.foldl (fun s i => s.clearCore i) s
        g.wayList.foldl (fun s w => s.wayAssign w.1 w.2.1 0 false false) s
      else s
    | none => s
  let s := s.freeKept x
  ((s.dropLines x).dropTlb x).setCx x { s.cx x with saved := none, switchDue := false }

/-- Teardown of a context (16 R430): every unit stops, open chunks are completed, the image is
discarded, every reclaim is recorded and linked to the record that caused it. -/
def State.teardown (s : State) (x : Nat) (parent : Option Nat) (bad : Option (Nat × Nat)) : State :=
  if !s.alive x then s else
    let s := s.resTeardown x parent
    let s := s.smithyTeardown x
    let s := (s.graphsOf x).foldl (fun s g => s.tearGraph g bad) s
    let s := s.setF (F.sqStatState x) 2
    let s := (s.stqTeardown x parent).rmtTeardown x parent
    let s := (s.colTeardown x).clearTally x
    let s := (s.donationTeardown x).freeUnits x
    let s := { s with mem.wpWaits := s.mem.wpWaits.filter fun w => w.ctx != x,
                      ctxs.waiting := s.ctxs.waiting.erase x }
    ((s.setSt x cFaulted).setB (F.ctxStateCmdbusy x) false).settle

/-! ### Faults -/

/-- A fault of a context: its record, and its teardown unless that has begun (19 R489). -/
def State.ctxFault (s : State) (x die unit kind sub detail : Nat) (parent : Option Nat := none)
    (bad : Option (Nat × Nat) := none) : State :=
  let s := s.record clsContext die unit kind sub (some x) parent detail
  s.teardown x (some s.lastRid) bad

/-- The device-fatal state: every context stops at once without save, and nothing is written
(19 R483). -/
def State.deviceFatal (s : State) : State := s.setB F.errStatusFatal true

/-- What an access that stopped does to the context it ran for: a record of the unit and its
teardown. LINKDOWN and waits do nothing here. -/
def State.stopFault (s : State) (x die unit : Nat) (bad : Option (Nat × Nat)) (e : Stop) : State :=
  match e with
  | .fault cls kind sub detail u =>
    if cls = clsContext then s.ctxFault x die (u.getD unit) kind sub detail none bad
    else s.record cls die (u.getD unit) kind sub none none detail
  | .touch y k => s.touch y k
  | .wait => s
  | .linkDown => s

/-- Run an access for context `x`; a stop is handled and the state as it was before is kept when the
access must wait. -/
def State.runFor (s : State) (x die unit : Nat) (bad : Option (Nat × Nat)) (m : M Unit) : State :=
  match m.go s with
  | (.ok _, s') => s'
  | (.error (.fault c k su d u), s') => s'.stopFault x die unit bad (.fault c k su d u)
  | (.error (.touch y k), _) => s.touch y k
  | (.error .wait, _) => s
  | (.error .linkDown, _) => s

end Sys2Proof.Machine
end

