-- ==== Sys2Proof/Machine/Operands.lean ====
section
/-! DEFINITION. Operand forms that words and commands share: records of a graph image, bindings and
descriptors, coarse scales, and the words at the front of an engine's queue (06 R150–R160). -/
namespace Sys2Proof.Machine

/-! ### Image records -/

/-- Fields of an image header (06 R151). -/
def hMinor (h : List Byte) : Nat := fieldAt h 6 2
def hImgLen (h : List Byte) : Nat := fieldAt h 12 4

/-- The five tables: offset, count and record size. -/
structure ImgTable where
  off : Nat
  count : Nat
  size : Nat

def tabKern (h : List Byte) : ImgTable := ⟨fieldAt h 24 4, fieldAt h 28 4, fieldAt h 64 2⟩
def tabBuf (h : List Byte) : ImgTable := ⟨fieldAt h 32 4, fieldAt h 36 4, fieldAt h 66 2⟩
def tabTask (h : List Byte) : ImgTable := ⟨fieldAt h 40 4, fieldAt h 44 4, fieldAt h 68 2⟩
def tabDep (h : List Byte) : ImgTable := ⟨fieldAt h 48 4, fieldAt h 52 4, fieldAt h 70 2⟩
def tabBind (h : List Byte) : ImgTable := ⟨fieldAt h 56 4, fieldAt h 60 4, fieldAt h 72 2⟩

/-- Reserved bytes count only in an image of a minor version the device knows (06 R161). -/
def strict (h : List Byte) : Bool := hMinor h == 0

/-- Bytes beyond the defined size of a record are zero, where that is required. -/
def tailOk (h bs : List Byte) (n : Nat) : Bool := !(strict h) || (bs.drop n).all (· == 0#8)
/-- A reserved range is zero, where that is required. -/
def rsv (h bs : List Byte) (o n : Nat) : Bool := !(strict h) || zeroAt bs o n

/-- A kernel record's fields are in range (06 R152, R159 code 0x06). -/
def kernOk (h bs : List Byte) : Bool :=
  let nv := fieldAt bs 0 2
  let vm := fieldAt bs 2 1
  decide (1 ≤ nv ∧ nv ≤ 3) && (vm == 0 || vm == 1 || vm == 0xFF) && rsv h bs 3 1 && rsv h bs 12 4
    && (upTo nv).all (fun i => rsv h bs (16 + 16 * i + 2) 2 && fieldAt bs (20 + 16 * i) 4 % 4 == 0
      && fieldAt bs (24 + 16 * i) 8 % 64 == 0)
    && tailOk h bs 64

/-- A buffer record's fields are in range (06 R153, R154). -/
def bufOk (h bs : List Byte) : Bool :=
  let rank := fieldAt bs 18 1
  decide (fieldAt bs 16 1 ≤ 4) && decide (fieldAt bs 17 1 ≤ 1) && decide (1 ≤ rank ∧ rank ≤ 4)
    && rsv h bs 19 1 && rsv h bs 60 4 && (fieldAt bs 17 1 == 0 || fieldAt bs 24 8 % 4 == 0)
    && tailOk h bs 64

/-- A binding record is in range (06 R155). -/
def bindOk (h bs : List Byte) : Bool :=
  decide (fieldAt bs 0 4 < (tabBuf h).count) && rsv h bs 4 4 && tailOk h bs 8

/-- A task record's own fields are in range (06 R157). -/
def taskOk (h bs : List Byte) : Bool :=
  let inst := fieldAt bs 4 4
  let lc := fieldAt bs 8 1
  let nb := fieldAt bs 16 2
  let aff := fieldAt bs 18 2
  let sig := fieldAt bs 26 2
  decide (fieldAt bs 0 4 < (tabKern h).count) && decide (1 ≤ inst ∧ inst ≤ 1048576)
    && decide (lc ≤ 20) && inst % 2 ^ lc == 0 && decide (fieldAt bs 9 1 ≤ 7)
    && rsv h bs 11 1 && (!(strict h) || decide (fieldAt bs 10 1 ≤ 3))
    && decide (nb ≤ 256) && decide (fieldAt bs 12 4 + nb ≤ (tabBind h).count)
    && (aff == 0xFFFF || decide (aff < nb))
    && decide (fieldAt bs 20 4 + fieldAt bs 24 2 ≤ (tabDep h).count)
    && (sig == 0xFFFF || (decide (sig < 4096) && fieldAt bs 28 4 != 0))
    && rsv h bs 40 24 && tailOk h bs 64

/-- Read record `i` of a table of an image. -/
def imgRec (unit x image : Nat) (t : ImgTable) (i : Nat) : M (List Byte) :=
  cvaRead unit x (image + t.off + t.size * i) t.size

/-- Read a record again while its graph runs; one that no longer passes faults the context (06 R160). -/
def imgAgain (unit x image : Nat) (t : ImgTable) (i : Nat) (ok : List Byte → Bool) : M (List Byte) := do
  let bs ← imgRec unit x image t i
  check (ok bs) kInvalid (image + t.off + t.size * i)
  return bs

/-! ### Descriptors -/

/-- The graph of an instance. -/
def State.instGraph (s : State) (t : Inst) : Option Graph :=
  s.sched.graphs.find? fun g => g.ctx = t.ctx ∧ g.subseq = t.subseq

def State.instTask (s : State) (t : Inst) : TaskS :=
  match s.instGraph t with
  | some g => g.tasks.getD t.task {}
  | none => {}

/-- A binding index lies below the NBIND of the instance's task (06 R156). -/
def State.bindIn (s : State) (t : Inst) (d : Nat) : Bool := decide (d < (s.instTask t).nbind)

/-- The buffer record bound at index `d` and its CVA (06 R155, R160). -/
def bufferOf (unit : Nat) (t : Inst) (d : Nat) : M (List Byte × Nat) := do
  let s ← getS
  match s.instGraph t with
  | none => ctxStop kInvalid 0
  | some g =>
    let b ← imgAgain unit t.ctx g.image (tabBind g.hdr) ((s.instTask t).bindOff + d) (bindOk g.hdr)
    let i := fieldAt b 0 4
    let r ← imgAgain unit t.ctx g.image (tabBuf g.hdr) i (bufOk g.hdr)
    return (r, g.image + (tabBuf g.hdr).off + (tabBuf g.hdr).size * i)

/-- A descriptor's coarse scale and what a record about it names (02 R36, 06 R154). -/
def coarseOf (unit : Nat) (t : Inst) (d : Nat) : M (W32 × Nat) := do
  let (r, at') ← bufferOf unit t d
  if fieldAt r 17 1 = 0 then return (w32At r 20, at')
  let a := fieldAt r 24 8
  return (w32At (← cvaRead unit t.ctx a 4) 0, a)

/-- The record of a stream that met an invalid coarse scale (02 R36). -/
def State.badCoarse (s : State) (die unit x d detail : Nat) : State :=
  s.record clsContext die unit kInvalid d (some x) none detail

/-- The coarse scales of the descriptors a stream uses, in order, 1 for one it does not use; one record
is made for the first invalid one (02 R36). -/
def coarseUse (core unit : Nat) (t : Inst) (uses : List (Bool × Nat)) : M (List W32) := do
  let cs ← uses.mapM fun u => do
    if !u.1 then return (w32One, u.2, 0)
    let (c, a) ← coarseOf (dieUnit (core / 64)) t u.2
    return (c, u.2, a)
  match cs.find? fun c => !(coarseOk c.1) with
  | some (_, d, a) => setS fun s => s.badCoarse (core / 64) unit t.ctx d a
  | none => pure ()
  return cs.map (·.1)

/-! ### Core faults -/

/-- Die stack of a core (00 R2, 01 R16). -/
def coreDie (g : Nat) : Nat := g / 64
/-- Cluster of a core. -/
def coreCluster (g : Nat) : Nat := g / 8

/-- A fault of a unit of core `g`: its context is torn down (03 R70, 04 R106, 05 R139, 06 R194). -/
def State.coreFault (s : State) (g unit kind sub detail : Nat) : State :=
  match (s.core g).inst with
  | some t => s.ctxFault t.ctx (coreDie g) unit kind sub detail none (some (t.subseq, t.task))
  | none => s

/-- A stop of an access made for core `g`. -/
def State.coreStop (s : State) (g unit : Nat) (t : Inst) (e : Stop) : State :=
  s.stopFault t.ctx (coreDie g) unit (some (t.subseq, t.task)) e

/-- The core's instance, while its context is resident. -/
def State.running (s : State) (g : Nat) : Option Inst :=
  match (s.core g).inst with
  | some t => if s.resident t.ctx then some t else none
  | none => none

/-- Beats of a core's engine for its context (16 R432). -/
def State.chargeBeats (s : State) (x n : Nat) : State := s.incF (F.accBeats x) n

end Sys2Proof.Machine
end

