-- ==== Sys2Proof/Machine/RegWrite.lean ====
section
/-! DEFINITION. Control-space writes by access type, change class and range (00 R7–R15, R530), and the
gate of functions not yet brought up (20 R503). -/
namespace Sys2Proof.Machine

/-! ### Which function owns an offset -/

/-- READY and PRESENT bits of the package functions (20 R512). -/
def rMgmt : Nat := 0
def rErr : Nat := 1
def rPower : Nat := 2
def rSec : Nat := 3
def rSched : Nat := 4
def rPl0 : Nat := 5
def rPl1 : Nat := 6
def rAcc : Nat := 7
def rRes : Nat := 8
def rCol : Nat := 9
def rTally : Nat := 10
def rMem : Nat := 11
def rSmy : Nat := 12
def rIdent : Nat := 13
/-- Bits of READY_DIE (20 R512). -/
def rdD2d : Nat := 1
def rdSmithy : Nat := 3
def rdRmt : Nat := 4
def rdCol : Nat := 5
def rdCopy : Nat := 6
def rdHbm : Nat := 8
def rdPort : Nat := 12
def rdCluster : Nat := 20

/-- Bit `i` of READY_DIEn, whose fields the register splits (20 R512). -/
def State.readyDie (s : State) (d i : Nat) : Bool :=
  if i = 0 then s.flag (F.readyDieInservice d) else if i < 3 then s.bitF (F.readyDieD2d d) (i - 1)
  else if i < 7 then s.bitF (F.readyDieBase d) (i - 3)
  else if i < 12 then s.bitF (F.readyDieHbm d) (i - 8)
  else if i < 20 then s.bitF (F.readyDiePort d) (i - 12) else s.bitF (F.readyDieCluster d) (i - 20)

def State.setReadyDie (s : State) (d i : Nat) (b : Bool) : State :=
  if i = 0 then s.setB (F.readyDieInservice d) b else if i < 3 then s.setBitF (F.readyDieD2d d) (i - 1) b
  else if i < 7 then s.setBitF (F.readyDieBase d) (i - 3) b
  else if i < 12 then s.setBitF (F.readyDieHbm d) (i - 8) b
  else if i < 20 then s.setBitF (F.readyDiePort d) (i - 12) b else s.setBitF (F.readyDieCluster d) (i - 20) b

/-- A READY bit of a stack sets, which security remembers (17 R445), or clears. -/
def State.markDie (s : State) (d i : Nat) (b : Bool) : State :=
  let s := s.setReadyDie d i b
  if b then { s with sec.everReady := tput false s.sec.everReady (32 + 32 * d + i) true } else s

/-- A READY bit of the package, likewise. -/
def State.markPkg (s : State) (i : Nat) (b : Bool) : State :=
  let s := s.setBitF F.readyPkgReady i b
  if b then { s with sec.everReady := tput false s.sec.everReady i true } else s

/-- The function whose bring-up lets an offset be written: a package bit, or a die-stack bit. -/
inductive Owner where
  | pkg (i : Nat)
  | die (d i : Nat)
  | free
  deriving DecidableEq, Repr

def ownerOf (off : Nat) : Owner :=
  if off < 0x10000 then .free
  else if off < 0x20000 then .pkg rMgmt else if off < 0x30000 then .pkg rErr
  else if off < 0x40000 then .pkg rPower else if off < 0x50000 then .pkg rSec
  else if off < 0x60000 then .pkg rSched else if off < 0x70000 then .pkg rPl0
  else if off < 0x80000 then .pkg rPl1 else if off < 0x90000 then .pkg rAcc
  else if off < 0xA0000 then .pkg rRes else if off < 0xB0000 then .pkg rCol
  else if off < 0xD0000 then .pkg rTally else if off < 0x1000000 then .pkg rMem
  else
    let d := dieOf off
    let o := off % 0x1000000
    if o < 0x10000 then .die d 0
    else if o < 0x20000 then .die d (rdD2d + bits o 12 1)
    else if o < 0x30000 then .die d rdSmithy
    else if o < 0x40000 then .die d rdRmt
    else if o < 0xC0000 then .die d (rdPort + (o - 0x40000) / 0x10000)
    else if o < 0x100000 then .die d (rdHbm + (o - 0xC0000) / 0x10000)
    else .die d (rdCluster + (o - 0x100000) / 0x10000 % 8)

/-- The step that brings the function of an offset up has passed in this boot (20 R503). -/
def State.blockUp (s : State) (off : Nat) : Bool :=
  match ownerOf off with
  | .free => true
  | .pkg i => s.bitF F.presentPkgPresent i
  | .die d i => s.bitF (F.presentDiePresent d) i

/-! ### Running blocks (00 R12) -/

/-- A pending task or a queued request names the semaphore (06 R184). -/
def State.semRunning (s : State) (n : Nat) : Bool :=
  !(s.semReqs n).isEmpty || s.sched.graphs.any fun g => g.fin.isNone && g.tasks.any fun t =>
    !t.st.ended && (t.sigsem == n || (match t.sem with | some (m, _) => m == n && !t.acquired | none => false))

/-- Cores of a die stack or cluster that a resident context holds (15 R403). -/
def State.coresHeld (s : State) (lo n : Nat) : Bool :=
  s.grantees.any fun x => s.resident x && match s.grant x with
    | some g => bits g.cores lo n != 0
    | none => false

/-- A restore of context `x` is running (18 R481). -/
def State.restoring (s : State) (x : Nat) : Bool :=
  match s.res.restore with
  | some r => r.ctx == x
  | none => false

/-- A twin send of context `x` is in flight: its buffer is taken (18 R471, R481). -/
def State.twinSending (s : State) (x : Nat) : Bool :=
  (upTo 2).any fun i => (tget none (tget {} s.res.ctx x).twin i).isSome

/-- A unit of context `x` has work in flight, or its request on its semaphore is queued or granted (10 R292,
11 R330). -/
def State.unitRunning (s : State) (inflight : Fld) (w : Waiter) : Bool := s.getF inflight != 0 || s.unitWaits w

/-- A way's owner is resident on the way's cluster: it holds a core or a way there (05 R114). -/
def State.residentOn (s : State) (x k : Nat) : Bool :=
  s.holds x && match s.grant x with
    | some g => bits g.cores (8 * k) 8 != 0 || g.ways.getD k 0 != 0
    | none => false

/-- A queue end is not idle: its counts differ, or a request other than its own unit's standing one is queued
on a semaphore of it (09 R268, R269; log entry 59). -/
def State.stqRunning (s : State) (n : Nat) : Bool :=
  let own (r : SemReq) : Bool := match r.who with
    | .queue _ q => q == n
    | _ => false
  s.flag (F.stqCfgValid n) && (s.getF (F.stqIssue n) != s.getF (F.stqReturn n) + s.getF (F.stqReclaim n)
    || !((s.semReqs (s.getF (F.stqCfgWsem n))).all own) || !((s.semReqs (s.getF (F.stqCfgTsem n))).all own)
    || s.sched.granted.contains (.queue (s.getF (F.stqCfgOwner n)) n))

/-- The block that a K-class field configures is running (00 R12, each chapter's register rule). -/
def State.regRunning (s : State) (f : Fld) : Bool :=
  let off := f.off
  if off < 0x40000 then
    if off < 0x30030 then s.coresHeld (64 * ((off - 0x30020) / 4)) 64
    else s.coresHeld (8 * ((off - 0x30060) / 4)) 8
  else if off < 0x50000 then s.flag (F.ctxCtlValid ((off - 0x40100) / 4))
  else if off < 0x51000 then !s.sched.graphs.isEmpty
  else if off < 0x58000 then !(s.graphsOf ((off - 0x51000) / 0x40)).isEmpty
  else if off < 0x60000 then s.semRunning ((off - 0x58000) / 8)
  else if off < 0x80000 then
    let st := s.getF (F.plStatusState ((off - 0x60000) / 0x10000))
    st == 2 || st == 3
  else if off < 0x90000 then s.holds ((off - 0x80000) / 0x40)
  else if off < 0xA0000 then
    let x := (off - 0x91000) / 0x80
    s.snapOpen x || s.twinSending x || s.restoring x
  else if off < 0xA8000 then
    let x := (off - 0xA1000) / 0x20
    s.unitRunning (F.colCtlInflight x) (.coll x)
  else if off < 0xB0000 then s.stqRunning ((off - 0xA8000) / 0x40)
  else if off < 0xD0000 then
    let n := (off - 0xB0000) / 32
    s.flag (F.tallyCtlValid n) && !(s.graphsOf (s.getF (F.tallyCtlOwner n))).isEmpty
  else if off < 0x1000000 then s.flag (F.isDescValid ((off - 0xD0100) / 8))
  else
    let d := dieOf off
    let o := off % 0x1000000
    if o < 0x30000 then s.smithy.exp.isSome
    else if o < 0x40000 then
      let x := (o - 0x31000) / 0x20
      s.unitRunning (F.rmtCtlInflight x) (.rmt x)
    else if o < 0xC0000 then s.flag (F.portCfgEnable (8 * d + (o - 0x40000) / 0x10000))
    else
      let k := 8 * d + (o - 0x100000) / 0x10000 % 8
      let w := (o % 0x10000 - 0x8000) / 4
      s.flag (F.cmWayValid k w) && s.residentOn (s.getF (F.cmWayOwner k w)) k

/-- The READY bit that locks an I-class field is set (20 R504). -/
def State.initLocked (s : State) (f : Fld) : Bool :=
  let off := f.off
  if off < 0x90000 then s.bitF F.readyPkgReady rAcc
  else if off < 0xA0000 then s.bitF F.readyPkgReady rRes
  else if off < 0xB0000 then s.bitF F.readyPkgReady rCol
  else if off < 0x1000000 then s.bitF F.readyPkgReady rMem
  else if off % 0x1000000 < 0x30000 then s.bitF F.readyPkgReady rSmy
  else s.readyDie (dieOf off) rdRmt

/-! ### Writes -/

def Fld.of (f : Fld) (v : Nat) : Nat := bits v f.lo f.w
def Access.writable (a : Access) : Bool := a == .rw || a == .wo || a == .w1c

/-- Shadow copy of a staged field, where one is held (00 R13). -/
def State.shadow (s : State) (f : Fld) : Option Nat :=
  let v := tget 0 s.regs.shadow f.key
  if v = 0 then none else some (v - 1)
def State.setShadow (s : State) (f : Fld) (v : Nat) : State :=
  { s with regs.shadow := tput 0 s.regs.shadow f.key (v % 2 ^ f.w + 1) }
def State.dropShadow (s : State) (f : Fld) : State :=
  { s with regs.shadow := tput 0 s.regs.shadow f.key 0 }
/-- The shadow copy applied. -/
def State.applyShadow (s : State) (f : Fld) : State :=
  match s.shadow f with
  | some v => (s.setF f v).dropShadow f
  | none => s

/-- A locked or init-only field written: the value in effect is no change (00 R14). -/
def State.guardWrite (s : State) (f : Fld) (v : Nat) (locked : Bool) : State :=
  if v = s.getF f then s else if locked then s.rejected f else s.setF f v

/-- A write leaves a field as it is: the block runs, or the function is ready (00 R12). -/
def State.locks (s : State) (d : FDesc) : Bool :=
  match d.cls with
  | .locked => s.regRunning d.f
  | .init => s.initLocked d.f
  | _ => false

/-- One field's part of a write (00 R9, R12, R15). -/
def State.fieldWrite (s : State) (d : FDesc) (v : Nat) (locked : Bool) : State :=
  match d.acc with
  | .rw => match d.cls with
    | .staged => s.setShadow d.f v
    | .locked => s.guardWrite d.f v locked
    | .init => s.guardWrite d.f v locked
    | _ => s.setF d.f v
  | .w1c => s.setF d.f (s.getF d.f &&& (2 ^ d.f.w - 1 - v))
  | _ => s

/-- Fields of one write, each judged by the block as the write found it (00 R12, R15). -/
def State.fieldsWrite (s : State) (l : List FDesc) (v : Nat) : State :=
  l.foldl (fun t d => t.fieldWrite d (d.f.of v) (s.locks d)) s

/-- The first field that a write would place outside its range (00 R530). -/
def Reg.badField (r : Reg) (v : Nat) : Option FDesc :=
  r.fields.find? fun d => d.acc.writable && !d.rng.ok (d.f.of v)

/-- The lowest field of a register. -/
def Reg.first (r : Reg) : Nat := (r.fields.head?.map (·.f.lo)).getD 0

/-- The write of a register that is rejected whole, by the gate of its function or by a range: the record
names the field. -/
def State.regRefused (s : State) (r : Reg) (v : Nat) : Option State :=
  if !s.blockUp r.off then some (s.rejectedAt r.off r.first)
  else match r.badField v with
    | some d => some (s.rejected d.f)
    | none => none

/-- A whole-register write (00 R12–R15, R530). -/
def State.regWrite (s : State) (r : Reg) (v : Nat) : State :=
  match s.regRefused r v with
  | some s => s
  | none => s.fieldsWrite r.fields v

/-- Holding copies are kept per link. -/
def holdKey (link off : Nat) : Nat := link * 2 ^ 28 + off

/-- A register is applied: the low halves that both links hold for it are spent (05 R144). -/
def State.spend (s : State) (off : Nat) : State :=
  { s with regs.hold := tput 0 (tput 0 s.regs.hold (holdKey 0 off) 0) (holdKey 1 off) 0 }

/-- The write of a whole 64-bit register, as the work of a command that names it. -/
def regWork (s : State) (off : Nat) (f : State → State) : Host.Outcome State Fault Refusal :=
  work s fun s => f (s.spend off)

/-- A register of the map; empty for a reserved offset. -/
def regOr (off : Nat) : Reg := (regAt off).getD ⟨off, 32, []⟩

end Sys2Proof.Machine
end

