-- ==== Sys2Proof/Machine/Ethernet.lean ====
section
/-! DEFINITION. The Ethernet ports: reception, buffers, pause in both directions, the pause watchdog,
transmission and the link (12 R331–R351). -/
namespace Sys2Proof.Machine

/-! ### State of a port -/

def State.portCnt (s : State) (p i n : Nat) : State := s.incF (portCtr p i) n
/-- PAUSE of PORT_CFG: 1 PAUSE, 2 PFC (12 R343). -/
def State.pauseMode (s : State) (p : Nat) : Nat := s.getF (F.portCfgPause p)
/-- A port in service whose link stands. -/
def State.portUp (s : State) (p : Nat) : Bool :=
  s.flag (F.portCfgEnable p) && s.flag (F.portStatusLinkup p)
/-- The port may send frames (12 R337). -/
def State.portSends (s : State) (p : Nat) : Bool := s.portUp p && s.flag (F.portUcValid p 0)
/-- The priority a pause acts on: the port counts as priority 0 in PAUSE mode (12 R343, R348). -/
def State.pausePrio (s : State) (p q : Nat) : Nat := if s.pauseMode p = 1 then 0 else q
/-- Bits that a held priority sets in XOFFTX and XOFFRX: every one in PAUSE mode. -/
def State.pauseBits (s : State) (p q : Nat) : Nat := if s.pauseMode p = 1 then 0xFF else 2 ^ q

/-- Bytes in the buffer: of a priority, or of all in PAUSE mode (12 R341, R343). -/
def State.occupied (s : State) (p q : Nat) : Nat :=
  ((s.portSt p).frames.filter fun f => f.prio = q).foldl (fun n f => n + f.len) 0
def State.occupiedAll (s : State) (p : Nat) : Nat := (s.portSt p).frames.foldl (fun n f => n + f.len) 0
def State.pauseOcc (s : State) (p q : Nat) : Nat :=
  if s.pauseMode p = 1 then s.occupiedAll p else s.occupied p q

/-! ### Frames sent (12 R337, R339) -/

/-- Bytes of a frame as the port sends it: with the tag under TAGEN, and at least 64 (log entry 33). -/
def State.frameSize (s : State) (p : Nat) (body : List Byte) : Nat :=
  Nat.max 64 (18 + (if s.flag (F.portVlanTagen p) then 4 else 0) + body.length)

/-- The frame: the port's own address, the tag, padding and the FCS. -/
def State.frameBytes (s : State) (p dst prio etype : Nat) (body : List Byte) : List Byte :=
  let tag := if s.flag (F.portVlanTagen p) then beBytes 2 0x8100 ++ beBytes 2 (place prio 13 3 + s.getF (F.portVlanVid p))
    else []
  let bs := padTo 60 (beBytes 6 dst ++ beBytes 6 (s.getF (F.portUcAddr p 0)) ++ tag ++ beBytes 2 etype ++ body)
  bs ++ fcsBytes bs

/-- A frame is sent and counted. -/
def State.frameOut (s : State) (p dst prio etype : Nat) (body : List Byte) : State :=
  ((s.portCnt p 0 1).portCnt p 1 (s.frameSize p body)).emit (.frame p (s.frameBytes p dst prio etype body))

/-! ### Pause frames sent (12 R346) -/

def pauseMac : Nat := 0x0180C2000001

/-- What a PAUSE or PFC frame holds behind its EtherType: the quanta of each priority of a set (12 R343). -/
def pauseBody (pfc : Bool) (enable : Nat) (quanta : Nat → Nat) : List Byte :=
  if pfc then beBytes 2 0x0101 ++ beBytes 2 enable
    ++ (upTo 8).flatMap fun q => beBytes 2 (if bit enable q then quanta q else 0)
  else beBytes 2 0x0001 ++ beBytes 2 (quanta 0)

/-- A PAUSE or PFC frame for a set of priorities; it goes ahead of the frames that wait. -/
def State.sendPause (s : State) (p enable : Nat) (quanta : Nat → Nat) : State :=
  if enable = 0 || !(s.portSends p) || s.xingDown (p / 8) (4 + p % 8) then s else
  let pfc := s.pauseMode p == 2
  let s := if pfc then ((upTo 8).filter (bit enable)).foldl (fun s q => s.portCnt p (16 + q) 1) s else s.portCnt p 14 1
  s.frameOut p pauseMac (s.getF (F.portCfgDefprio p)) 0x8808 (pauseBody pfc enable quanta)

/-- The priority generates pause frames. -/
def State.generates (s : State) (p q : Nat) : Bool :=
  s.pauseMode p == 1 || (s.pauseMode p == 2 && s.flag (F.portPrioPfcen p q))

/-- The occupancy of a priority stands at its XOFF threshold and it is not yet held off. -/
def State.xoffDue (s : State) (p q : Nat) : Bool :=
  s.generates p q && !(s.bitF (F.portStatusXofftx p) q) && !(s.bitF (F.portWdstatGenstop p) q)
    && decide (s.getF (F.portPrioXoff p q) * 1024 ≤ s.pauseOcc p q)

/-- The occupancy of a priority that is held off stands below XON. -/
def State.xonDue (s : State) (p q : Nat) : Bool :=
  s.bitF (F.portStatusXofftx p) q && decide (s.pauseOcc p q < s.getF (F.portPrioXon p q) * 1024)

/-- Priorities of two lists are held off, or released; one frame carries every one that changes. -/
def State.pauseMove (s : State) (p : Nat) (offs ons : List Nat) : State :=
  let mask := fun (l : List Nat) => l.foldl (fun m q => m ||| s.pauseBits p q) 0
  let off := mask (offs.map (s.pausePrio p) |>.filter (s.xoffDue p))
  let on := mask (ons.map (s.pausePrio p) |>.filter (s.xonDue p))
  (s.setF (F.portStatusXofftx p) ((s.getF (F.portStatusXofftx p) ||| off) &&& (0xFF - on))).sendPause p (off ||| on)
    fun q => if bit off q then 0xFFFF else 0

/-- A priority is released: 0 quanta. -/
def State.xoffEnd (s : State) (p q : Nat) : State :=
  let m := s.pauseBits p q
  (s.setF (F.portStatusXofftx p) (s.getF (F.portStatusXofftx p) &&& (0xFF - m))).sendPause p m fun _ => 0

/-! ### Pause frames received (12 R343, R345) -/

/-- A received pause of n quanta for a priority. -/
def State.pauseSet (s : State) (p q n : Nat) : State :=
  let v := s.portSt p
  let m := s.pauseBits p q
  let b := s.getF (F.portStatusXoffrx p)
  (s.setPort p { v with pause := tput 0 v.pause q n }).setF (F.portStatusXoffrx p)
    (if n = 0 then b &&& (0xFF - m) else b ||| m)

def State.rxPause (s : State) (p n : Nat) : State :=
  if s.pauseMode p = 1 then (s.portCnt p 15 1).pauseSet p 0 n else s.portCnt p 13 1

def State.rxPfc (s : State) (p enable : Nat) (quanta : List (BitVec 16)) : State :=
  let qs := (upTo 8).filter fun q => bit enable q && s.flag (F.portPrioPfcen p q)
  if s.pauseMode p != 2 || qs.isEmpty then s.portCnt p 13 1
  else qs.foldl (fun s q => (s.portCnt p (24 + q) 1).pauseSet p q (quanta.getD q 0).toNat) s

/-! ### Frames received (12 R336–R341) -/

def broadcastMac : Nat := 2 ^ 48 - 1

/-- Which accepted-frame counter a destination belongs to; none when the filter drops it. -/
def State.addrPass (s : State) (p dst : Nat) : Option Nat :=
  if dst = broadcastMac then (if s.flag (F.portCfgBcast p) then some 6 else none)
  else if bit dst 40 then
    (if (upTo 8).any fun i => s.flag (F.portMcValid p i) && s.getF (F.portMcAddr p i) == dst then some 5 else none)
  else if (upTo 8).any fun i => s.flag (F.portUcValid p i) && s.getF (F.portUcAddr p i) == dst then some 4 else none

def State.vidPass (s : State) (p : Nat) (tag : Option (BitVec 12 × Fin 8)) : Bool :=
  match tag with
  | some t => t.1.toNat == s.getF (F.portVlanVid p)
  | none => true

/-- A frame for the RMT engine (12 R338). -/
def State.isRmt (s : State) (p : Nat) (k : FrameKind) : Bool :=
  match k with
  | .udp v6 ip port =>
    s.portIp p v6 != 0 && ip.toNat == s.portIp p v6 && port.toNat == s.getF (F.rmtCfgUdpport (p / 8))
  | _ => false

/-- Row 7 of 12 R340: the frame takes space, is counted and classified. -/
def State.accept (s : State) (p q ctr : Nat) (f : Frame) : State :=
  let s := ((s.portCnt p 2 1).portCnt p 3 f.len).portCnt p ctr 1
  let v := s.portSt p
  let put := fun (s : State) (exc : Bool) =>
    (s.setPort p { v with frames := v.frames ++ [⟨q, f.len, exc, f.kind⟩] }).pauseMove p [q] []
  if s.isRmt p f.kind then put (s.portCnt p 55 1) false
  else
    let s := s.portCnt p 56 1
    if 64 ≤ (v.frames.filter fun g => g.exc).length then s.portCnt p 12 1 else put s true

/-- Rows 5 to 7 of 12 R340. -/
def State.filterFrame (s : State) (p : Nat) (f : Frame) : State :=
  match s.addrPass p f.dst.toNat with
  | none => s.portCnt p 10 1
  | some ctr =>
    if !(s.vidPass p f.tag) then s.portCnt p 10 1 else
    let q := match f.tag with
      | some t => t.2.val
      | none => s.getF (F.portCfgDefprio p)
    let mx := s.getF (F.portCfgMaxframe p)
    if s.getF (F.portPrioShare p q) * 1024 < s.occupied p q + mx || 6144 * 1024 < s.occupiedAll p + mx then
      (s.portCnt p 11 1).portCnt p (32 + q) 1
    else s.accept p q ctr f

/-- The checks of a received frame in order (12 R340). MAC control frames never reach the filter, and one that is
not honoured is dropped (12 R336, R343). -/
def State.rxFrame (s : State) (p : Nat) (f : Frame) : State :=
  let s := ((s.portCnt p 48 f.fecCorrected).portCnt p 50 f.fecSymbols).portCnt p 49 f.fecBad
  if f.fecBad ≠ 0 ∨ f.fcsOk = false then s.portCnt p 7 1
  else if f.len < 64 then s.portCnt p 8 1
  else if s.getF (F.portCfgMaxframe p) + (if f.tag.isSome then 4 else 0) < f.len then s.portCnt p 9 1
  else match f.kind with
    | .macControl opc enable quanta =>
      if f.len != 64 || f.dst.toNat != pauseMac then s.portCnt p 13 1
      else if opc.toNat = 1 then s.rxPause p (quanta.getD 0 0).toNat
      else if opc.toNat = 0x101 then s.rxPfc p enable.toNat quanta
      else s.portCnt p 13 1
    | _ => s.filterFrame p f

/-- A frame arrives; what reaches a dead crossing is dropped (14 R386). -/
def execFrameReceive (port : Fin 32) (f : Frame) (s : State) : Host.Outcome State Fault Refusal :=
  work s fun s =>
    let p := port.val
    if !(s.portUp p) then s
    else if s.xingDown (p / 8) (4 + p % 8) then s.xingDrop (p / 8) (4 + p % 8)
    else s.rxFrame p f

/-- A received PAUSE frame is honoured or dropped. -/
def execPauseReceive (port : Fin 32) (quanta : BitVec 16) (s : State) : Host.Outcome State Fault Refusal :=
  work s fun s => if s.portUp port.val then s.rxPause port.val quanta.toNat else s

/-- A received PFC frame is honoured for its enabled priorities or dropped. -/
def execPfcReceive (port : Fin 32) (enable : BitVec 8) (quanta : List (BitVec 16)) (s : State) :
    Host.Outcome State Fault Refusal :=
  work s fun s => if s.portUp port.val then s.rxPfc port.val enable.toNat quanta else s

/-! ### Transmission (12 R345, R348) -/

/-- First frame of a priority, and the queue without it. -/
def takePrio (q : Nat) : List TxFrame → Option (TxFrame × List TxFrame)
  | [] => none
  | f :: r =>
    if f.prio = q then some (f, r)
    else match takePrio q r with
      | some (g, r) => some (g, f :: r)
      | none => none

def State.paused (s : State) (p q : Nat) : Bool := tget 0 (s.portSt p).pause (s.pausePrio p q) != 0

/-- Bytes a priority may send more each time its turn comes (log entry 64). -/
def quantum : Nat := 9216

/-- Size of the frame a priority would send next; none when it has none or is paused. -/
def State.txReady (s : State) (p q : Nat) : Option Nat :=
  if s.paused p q then none else (takePrio q (s.portSt p).txq).map fun e => s.frameSize p e.1.body

/-- The priority that deficit round robin serves next, and its deficit before it sends: the one served last goes
on while its deficit lasts, then the next one with a frame (12 R345; log entry 64). -/
def State.txTurn (s : State) (p : Nat) : Option (Nat × Nat) :=
  let v := s.portSt p
  let left := fun q => tget 0 v.deficit q
  match s.txReady p v.turn with
  | some n => if n ≤ left v.turn then some (v.turn, left v.turn) else turnAfter left v.turn
  | none => turnAfter left v.turn
where
  turnAfter (left : Nat → Nat) (t : Nat) : Option (Nat × Nat) :=
    (upTo 8).findSome? fun i =>
      let q := (t + 1 + i) % 8
      if (s.txReady p q).isSome then some (q, left q + quantum) else none

/-- A frame leaves: its deficit is spent, and a priority with nothing more to send keeps none. -/
def State.sendNext (s : State) (p q left : Nat) (f : TxFrame) (r : List TxFrame) : State :=
  let v := s.portSt p
  let rest := if (takePrio q r).isSome then left - s.frameSize p f.body else 0
  let s := s.setPort p { v with txq := r, turn := q, deficit := tput 0 v.deficit q rest }
  let s := match f.owner with
    | some x => (s.portCnt p 54 1).incF (F.accNet x) (s.frameSize p f.body)
    | none => s
  s.frameOut p f.dstMac q f.etype f.body

/-- The transmitter sends the next frame of a priority whose turn it is, or discards it under the watchdog or a
link that is down; a paused priority waits. -/
def execFrameTransmit (port : Fin 32) (prio : Fin 8) (s : State) : Host.Outcome State Fault Refusal :=
  work s fun s =>
    let p := port.val
    let q := prio.val
    let v := s.portSt p
    match takePrio q v.txq with
    | none => s
    | some (f, r) =>
      match s.portDiscards p q with
      | some i => (s.setPort p { v with txq := r }).portCnt p i 1
      | none =>
        if !(s.portUp p) || s.xingDown (p / 8) (4 + p % 8) then s else
        match s.txTurn p with
        | some (t, left) => if t = q then s.sendNext p q left f r else s
        | none => s

/-- A frame's last byte is taken from the buffer: its space is freed. A word that cannot be read makes a die-class
record (05 R113, R123; log entry 53). -/
def State.takeFrame (s : State) (p : Nat) (f : BufFrame) : State :=
  let v := s.portSt p
  let r := s.sramRead (portWord p) 8
  let s := (r.2.sramFill (portWord p) 8).setPort p { v with frames := v.frames.erase f }
  let s := match r.1 with
    | some _ => s.record clsDie (p / 8) uSram kUncorrectable 0 none none p
    | none => s
  s.pauseMove p [] [f.prio]

/-- The RMT engine has taken the last byte of its oldest frame: the space is freed. -/
def execFrameFreed (port : Fin 32) (s : State) : Host.Outcome State Fault Refusal :=
  work s fun s =>
    let p := port.val
    match (s.portSt p).frames.find? fun f => !f.exc with
    | none => s
    | some f => s.takeFrame p f

/-- A received pause runs out. -/
def execPauseExpiry (port : Fin 32) (prio : Fin 8) (s : State) : Host.Outcome State Fault Refusal :=
  work s fun s =>
    let p := port.val
    if s.paused p prio.val then s.pauseSet p (s.pausePrio p prio.val) 0 else s

/-- XOFF is sent again for every priority whose occupancy stays above XON. -/
def execXoffRefresh (port : Fin 32) (s : State) : Host.Outcome State Fault Refusal :=
  work s fun s =>
    let p := port.val
    let held := (upTo 8).filter fun q => s.bitF (F.portStatusXofftx p) q
      && decide (s.getF (F.portPrioXon p (s.pausePrio p q)) * 1024 < s.pauseOcc p (s.pausePrio p q))
    s.sendPause p (held.foldl (fun m q => m + 2 ^ q) 0) fun _ => 0xFFFF

/-! ### The pause watchdog (12 R348) -/

def State.wdOn (s : State) (p : Nat) : Bool := s.getF (F.portWdogWdms p) != 0

/-- Received pause has held a priority for WDMS: the transmit watchdog fires. -/
def execPauseWatchdogFire (port : Fin 32) (prio : Fin 8) (s : State) : Host.Outcome State Fault Refusal :=
  work s fun s =>
    let p := port.val
    let q := s.pausePrio p prio.val
    if !(s.wdOn p) || !(s.portUp p) || !(s.paused p q) || s.bitF (F.portWdstatFired p) q then s
    else (s.setBitF (F.portWdstatFired p) q true).portCnt p 52 1

/-- No pause has been in force for RESTMS: the transmit watchdog clears. -/
def execWatchdogClear (port : Fin 32) (prio : Fin 8) (s : State) : Host.Outcome State Fault Refusal :=
  work s fun s =>
    let p := port.val
    let q := s.pausePrio p prio.val
    if s.paused p q then s else s.setBitF (F.portWdstatFired p) q false

/-- The port has held XOFF for WDMS: 0 quanta once, and no further pause. -/
def execGenstop (port : Fin 32) (prio : Fin 8) (s : State) : Host.Outcome State Fault Refusal :=
  work s fun s =>
    let p := port.val
    let q := s.pausePrio p prio.val
    if !(s.wdOn p) || !(s.portUp p) || !(s.bitF (F.portStatusXofftx p) q) || s.bitF (F.portWdstatGenstop p) q then s
    else ((s.xoffEnd p q).setBitF (F.portWdstatGenstop p) q true).portCnt p 53 1

/-- The occupancy has stayed below XON for RESTMS: pause generation resumes. -/
def execGenstopClear (port : Fin 32) (prio : Fin 8) (s : State) : Host.Outcome State Fault Refusal :=
  work s fun s =>
    let p := port.val
    let q := s.pausePrio p prio.val
    if s.getF (F.portPrioXon p q) * 1024 ≤ s.pauseOcc p q then s else s.setBitF (F.portWdstatGenstop p) q false

/-! ### Link state (12 R332, R334, R349) -/

/-- Port lanes a mode uses. -/
def modeLanes (m : Nat) : Nat :=
  match m with
  | 1 => 0xF | 2 => 0x3 | 3 => 0xF | 4 => 0x1 | 5 => 0x3 | 6 => 0x1 | _ => 0

/-- Auto-negotiation runs on the port. -/
def State.negotiates (s : State) (p : Nat) : Bool := s.flag (F.portCfgAn p) && s.getF (F.portCfgPmd p) != 2

/-- Every received pause is dropped, and the watchdogs and XOFF states with it. -/
def State.pauseReset (s : State) (p : Nat) : State :=
  let s := s.setPort p { s.portSt p with pause := [] }
  (((s.setF (F.portStatusXoffrx p) 0).setF (F.portStatusXofftx p) 0).setF (F.portWdstatFired p) 0).setF
    (F.portWdstatGenstop p) 0

/-- The link comes up: no pause is in force in either direction, and the addresses are announced. -/
def execLinkUp (port : Fin 32) (partnerMode : BitVec 4) (s : State) : Host.Outcome State Fault Refusal :=
  work s fun s =>
    let p := port.val
    let m := s.getF (F.portCfgMode p)
    let an := s.negotiates p
    if !(s.flag (F.portCfgEnable p)) || m = 0 || s.flag (F.portStatusLinkup p) || !(s.inService (p / 8))
      || (an && partnerMode.toNat != m) then s
    else
      let s := (s.setB (F.portStatusLinkup p) true).setB (F.portStatusFeclock p) true
      let s := (s.setB (F.portStatusAndone p) an).setF (F.portStatusLanes p) (modeLanes m)
      let s := ((s.setB (F.portStatusLfault p) false).setB (F.portStatusRfault p) false).pauseReset p
      (s.setPort p { s.portSt p with announce := 3 }).bell bellPort p 1 0

/-- The link goes down; while it still stands the port first releases what it holds in XOFF. -/
def State.portDown (s : State) (p : Nat) (stands : Bool) : State :=
  if !(s.flag (F.portStatusLinkup p)) then s else
  let s := if stands then s.sendPause p (s.getF (F.portStatusXofftx p)) fun _ => 0 else s
  let s := (s.setB (F.portStatusLinkup p) false).setB (F.portStatusFeclock p) false
  let s := (s.setB (F.portStatusAndone p) false).setF (F.portStatusLanes p) 0
  ((s.pauseReset p).portCnt p 51 1).bell bellPort p 0 0

/-- The link is lost: a frame cut by it is counted, and the faults of the link show (12 R349–R351). -/
def execLinkDown (port : LinkLoss) (s : State) : Host.Outcome State Fault Refusal :=
  work s fun s =>
    let p := port.port.val
    if !(s.flag (F.portStatusLinkup p)) then s else
    let s := (s.portCnt p 7 (ofBool port.cut)).portDown p false
    (s.setB (F.portStatusLfault p) port.lfault).setB (F.portStatusRfault p) port.rfault

/-! ### Committing thresholds (12 R342) -/

/-- The value a staged field will have once its shadow is applied. -/
def State.staged (s : State) (f : Fld) : Nat := (s.shadow f).getD (s.getF f)

def State.prioLegal (s : State) (p : Nat) : Bool :=
  decide ((upTo 8).foldl (fun n q => n + s.staged (F.portPrioShare p q)) 0 ≤ 6144)
    && (upTo 8).all fun q => s.staged (F.portPrioPfcen p q) == 0
      || (decide (s.staged (F.portPrioXon p q) ≤ s.staged (F.portPrioXoff p q))
        && decide (s.staged (F.portPrioXoff p q) ≤ s.staged (F.portPrioShare p q)))

/-- A write of PORT_COMMIT applies all eight priorities, or is refused with every value as it was. -/
def State.portCommitWrite (s : State) (p v : Nat) : State :=
  match s.regRefused (regOr (F.portCommitCommit p).off) v with
  | some s => s
  | none =>
    if !bit v 0 then s
    else if !(s.prioLegal p) then (s.setB (F.portCommitRefused p) true).rejected (F.portCommitCommit p)
    else
      let s := ((upTo 8).foldl (fun s q =>
        (((s.applyShadow (F.portPrioShare p q)).applyShadow (F.portPrioXoff p q)).applyShadow
          (F.portPrioXon p q)).applyShadow (F.portPrioPfcen p q)) s).setB (F.portCommitRefused p) false
      s.pauseMove p ((upTo 8).filter fun q => decide (s.getF (F.portPrioShare p q) * 1024 < s.occupied p q)) (upTo 8)

def execPortCommit (port : Fin 32) (value : BitVec 32) (s : State) : Host.Outcome State Fault Refusal :=
  work s fun s => s.portCommitWrite port.val value.toNat

/-! ### Management firmware (12 R338) -/

/-- A frame of management firmware is presented at DEFPRIO (12 R339). -/
def State.sendFw (s : State) (p dst etype : Nat) (body : List Byte) : State :=
  s.present p { prio := s.getF (F.portCfgDefprio p), dstMac := dst, etype := etype, body := body, owner := none }

/-- ARP: an answer to an asker, or a gratuitous request (log entry 33). -/
def State.sendArp (s : State) (p : Nat) (asker : Option (Nat × Nat)) : State :=
  let ip := s.portIp p false
  let to' := asker.getD (0, ip)
  s.sendFw p (if asker.isSome then to'.1 else broadcastMac) 0x0806
    (beBytes 2 1 ++ beBytes 2 0x0800 ++ beBytes 1 6 ++ beBytes 1 4 ++ beBytes 2 (if asker.isSome then 2 else 1)
      ++ beBytes 6 (s.getF (F.portUcAddr p 0)) ++ beBytes 4 ip ++ beBytes 6 to'.1 ++ beBytes 4 to'.2)

/-- A Neighbor Advertisement with the port's link-layer address: an answer to an asker with an address of its own,
or one to all nodes (log entry 33). -/
def State.sendAdvert (s : State) (p : Nat) (asker : Option (Nat × Nat)) : State :=
  let ip := s.portIp p true
  let to' := asker.getD (0x333300000001, 0xFF02 * 2 ^ 112 + 1)
  let body := fun sum => beBytes 2 0x8800 ++ beBytes 2 sum ++ beBytes 4 (if asker.isSome then 0x60000000 else 0x20000000)
    ++ beBytes 16 ip ++ beBytes 2 0x0201 ++ beBytes 6 (s.getF (F.portUcAddr p 0))
  s.sendFw p to'.1 (ipType true) (ip6Header 0 0 32 58 255 ip to'.2 ++ body (ip6Sum ip to'.2 58 (body 0)))

/-- Management firmware takes the oldest frame of the exception queue: it answers ARP and Neighbor
Solicitations for its own addresses and discards the rest. -/
def execExceptionFrame (port : Fin 32) (s : State) : Host.Outcome State Fault Refusal :=
  work s fun s =>
    let p := port.val
    let v := s.portSt p
    match v.frames.find? fun f => f.exc with
    | none => s
    | some f =>
      let s := s.takeFrame p f
      match f.kind with
      | .arp mac ip t =>
        if t.toNat != 0 && t.toNat == s.portIp p false then s.sendArp p (some (mac.toNat, ip.toNat))
        else s.portCnt p 12 1
      | .neighborSolicit mac ip t =>
        if t.toNat != 0 && t.toNat == s.portIp p true then
          s.sendAdvert p (if ip.toNat = 0 then none else some (mac.toNat, ip.toNat))
        else s.portCnt p 12 1
      | _ => s.portCnt p 12 1

/-- One of the three announcements of the port's addresses. -/
def execAddressAnnounce (port : Fin 32) (s : State) : Host.Outcome State Fault Refusal :=
  work s fun s =>
    let p := port.val
    let v := s.portSt p
    if v.announce = 0 || !(s.portSends p) then s else
    let s := s.setPort p { v with announce := v.announce - 1 }
    let s := if s.portIp p false = 0 then s else s.sendArp p none
    if s.portIp p true = 0 then s else s.sendAdvert p none

/-- An address of a port was written: it is announced again while the link is up. -/
def State.announceAgain (s : State) (p : Nat) : State :=
  if s.flag (F.portStatusLinkup p) then s.setPort p { s.portSt p with announce := 3 } else s

end Sys2Proof.Machine
end

