-- ==== Sys2Proof/Machine/SchedBase.lean ====
section
/-! DEFINITION. Graphs and their tasks: the head of a submission ring, the image check, the release of
tasks, and how instances, tasks and graphs end (06 R150–R179, R202). -/
namespace Sys2Proof.Machine

/-! ### The submission ring -/

def State.sqSize (s : State) (x : Nat) : Nat := 2 ^ s.getF (F.sqCfgLog2size x)
/-- CVA of the head slot (06 R164). -/
def State.headCva (s : State) (x : Nat) : Nat :=
  64 * s.getF (F.sqBaseAddr x) + 64 * (s.getF (F.sqStatHead x) % s.sqSize x)

/-- Entries of the context are consumed (06 R167). -/
def State.consuming (s : State) (x : Nat) : Bool :=
  s.flag (F.sqCfgEnable x) && s.flag (F.ctxCtlValid x) && s.alive x && s.getF (F.sqStatState x) == 1

/-- The limit of active graphs leaves room (06 R167). -/
def State.graphRoom (s : State) (x : Nat) : Bool :=
  decide ((s.graphsOf x).length < s.getF (F.sqCfgGraphMax x))

def State.plLine (s : State) (a : Nat) : PlLine := tget {} s.puell.lines a
def State.setLine (s : State) (a : Nat) (l : PlLine) : State :=
  { s with puell.lines := tput {} s.puell.lines a l }

/-- The head slot as the scheduler sees it: memory for a ring in HBM, the copy held in S for one in
companion memory, none while no copy is held (06 R165, 13 R362). -/
def headEntry (x : Nat) : M (Option (List Byte)) := do
  let s ← getS
  match ← translate (dieUnit 0) x (s.headCva x) false with
  | .hbm set off => return some (← hbmRead (some x) set off 64)
  | .comp a =>
    let l := (← getS).plLine a
    return if l.st = .s then some l.data else none

/-- A request for the head line of the context is outstanding. -/
def State.headAsked (s : State) (x a : Nat) : Bool :=
  (upTo 2).any fun l => ((s.pl l).reqs.any fun r => r.owner = .head x ∧ r.addr = a ∧ r.opc = rqShared)
    || (s.pl l).tagWait.any fun r => r.owner = .head x ∧ r.addr = a ∧ r.opc = rqShared

/-- Ask for the head line of a ring in companion memory, unless it is held or asked for (06 R165). -/
def State.watchHead (s : State) (x : Nat) : State :=
  if !(s.consuming x) || !(s.graphRoom x) then s else
  match (translate (dieUnit 0) x (s.headCva x) false).go s with
  | (.ok (.comp a), s') =>
    if (s'.plLine a).st = .s || s'.headAsked x a then s' else
    match s'.routeLink 0 a with
    | some l => s'.plRequest l rqShared a (.head x) [] []
    | none => s'
  | _ => s

/-- A head line that the ring has left is dropped (13 R362; log entry 24). -/
def State.dropHead (s : State) (x cva : Nat) : State :=
  match (translate (dieUnit 0) x cva false).go s with
  | (.ok (.comp a), s') =>
    let l := s'.plLine a
    if l.st = .s then (s'.setLine a {}).plRequest l.link rqEvict a (.head x) [] [] else s'
  | _ => s

/-- The submission queue stops with an error code and a record (06 R166, R195). -/
def State.stopQueue (s : State) (x err kind detail : Nat) : State :=
  ((s.setF (F.sqStatState x) 2).setF (F.sqStatErr x) err).record clsContext 0 uSched kind err (some x)
    none detail

/-- What the head slot holds: an entry with operation `op`, an empty slot, or a reason to stop. -/
inductive HeadView where
  | entry (op : Nat) (bytes : List Byte)
  | empty
  | bad (err : Nat)

def State.headView (s : State) (x : Nat) (bs : List Byte) : HeadView :=
  let head := s.getF (F.sqStatHead x)
  let seq := fieldAt bs 16 2
  let op := fieldAt bs 18 1
  if seq = head then (if op = 1 ∨ op = 2 then .entry op bs else .bad 2)
  else if (seq + s.sqSize x) % 65536 = head then .empty else .bad 1

/-- Look at the head slot: an overrun, a reserved operation or an unreadable ring stops the queue; an
entry of operation `op` is handled by `f` (06 R164–R167). -/
def State.lookHead (s : State) (x op : Nat) (f : State → List Byte → State) : State :=
  if !(s.consuming x) || !(s.graphRoom x) then s else
  match (headEntry x).go s with
  | (.ok none, s') => s'
  | (.ok (some bs), s') =>
    match s'.headView x bs with
    | .entry o e => if o = op then f s' e else s'
    | .empty => s'
    | .bad err => s'.stopQueue x err kOverflow x
  | (.error (.fault _ k _ d _), s') => s'.stopQueue x 3 k d
  | (.error _, _) => s

/-! ### Graphs -/

def State.setActive (s : State) (x : Nat) : State := s.setF (F.ctxSchedActive x) (s.graphsOf x).length

def State.findGraph (s : State) (x sub : Nat) : Option Graph :=
  s.sched.graphs.find? fun g => g.ctx = x ∧ g.subseq = sub

def State.modGraph (s : State) (x sub : Nat) (f : Graph → Graph) : State :=
  { s with sched.graphs := s.sched.graphs.map fun g => if g.ctx = x ∧ g.subseq = sub then f g else g }

def State.modTask (s : State) (x sub i : Nat) (f : TaskS → TaskS) : State :=
  s.modGraph x sub fun g => { g with tasks := lmod g.tasks i f }

def State.getTask (s : State) (x sub i : Nat) : TaskS :=
  match s.findGraph x sub with
  | some g => g.tasks.getD i {}
  | none => {}

/-- A graph finishes: its completion takes its place in the order (06 R169, R170). -/
def State.finishGraph (s : State) (x sub status detail : Nat) : State :=
  let s := s.modGraph x sub fun g => { g with checking := false, fin := some ⟨status, detail, g.tdone⟩ }
  { s with sched.finished := s.sched.finished ++ [(x, sub)] }

/-- A graph whose tasks have all ended completes DONE or CANCELLED (06 R168, R169). -/
def State.graphEnds (s : State) (x sub : Nat) : State :=
  match s.findGraph x sub with
  | none => s
  | some g =>
    if g.checking || g.fin.isSome || !(g.tasks.all fun t => t.st.ended) then s
    else s.finishGraph x sub (if g.cancelled then 4 else 1) 0

/-! ### The image check (06 R159) -/

/-- What the context holds: window mode, cores of its largest cluster, scratch bytes of the cluster of
its cores with most (06 R175). -/
def Grant.clusterCores (g : Grant) (k : Nat) : List Nat := (upTo 8).filter fun i => bit g.cores (8 * k + i)
def Grant.scratch (g : Grant) (k : Nat) : Nat :=
  ((upTo 16).filter (bit (g.ways.getD k 0))).length * 1572864
def Grant.held (g : Grant) : List Nat := (upTo 32).filter fun k => !(g.clusterCores k).isEmpty
def Grant.bigCluster (g : Grant) : Nat := g.held.foldl (fun n k => Nat.max n (g.clusterCores k).length) 0
def Grant.bigScratch (g : Grant) : Nat := g.held.foldl (fun n k => Nat.max n (g.scratch k)) 0

def grant0 : Grant := ⟨0, [], 0, 0, 0, 0, 0, false, false, false, 0, []⟩
def State.grantOr (s : State) (x : Nat) : Grant := (s.grant x).getD grant0

/-- Bytes rounded up to 64 KiB. -/
def region64 (n : Nat) : Nat := (n + 65535) / 65536 * 65536

/-- The variant that runs: the first listed with the highest supported level (06 R163). -/
def variantOf (bs : List Byte) : Option (Nat × Nat) :=
  (upTo (fieldAt bs 0 2)).findSome? fun i =>
    if fieldAt bs (16 + 16 * i) 2 = 1 then some (fieldAt bs (24 + 16 * i) 8, fieldAt bs (20 + 16 * i) 4) else none

/-- Smallest code a kernel record fails, 0 for none (06 R159). -/
def kernCode (g : Grant) (h bs : List Byte) : Nat :=
  let vm := fieldAt bs 2 1
  if !(kernOk h bs) then 6
  else if (variantOf bs).isNone then 8
  else if (vm != 0xFF && vm != ofBool g.vmode)
      || decide ((if g.vmode then 983040 else 1048576) < fieldAt bs 4 4)
      || decide (g.bigScratch < region64 (fieldAt bs 8 4)) then 9 else 0

/-- A dependence record's own fields (06 R158). -/
def depOk (h bs : List Byte) : Bool :=
  let src := fieldAt bs 0 4
  let v := fieldAt bs 4 2
  let k := fieldAt bs 6 1
  decide (k ≤ 1) && rsv h bs 7 1 && tailOk h bs 8
    && (if k = 0 then v == 0 else decide (src < 4096) && v != 0)

/-- Smallest code a task record fails beyond its own fields (06 R159, R160): cohort and semaphores. -/
def State.taskFit (s : State) (x : Nat) (h bs : List Byte) (sems : List Nat) : Nat :=
  let sig := fieldAt bs 26 2
  let sems := if sig = 0xFFFF then sems else sig :: sems
  if !(taskOk h bs) then 6
  else if (s.grantOr x).bigCluster < 2 ^ fieldAt bs 8 1 then 9
  else if sems.any fun n => !(s.semUsable n x) then 13 else 0

/-- Record `i` of a table in an image read whole. -/
def recAt (img : List Byte) (t : ImgTable) (i : Nat) : List Byte := slice img (t.off + t.size * i) t.size

/-- Dependences of a task record: (KIND, SRC, VALUE). -/
def depsOf (h img bs : List Byte) : List (Nat × Nat × Nat) :=
  (upTo (fieldAt bs 24 2)).map fun j =>
    let d := recAt img (tabDep h) (fieldAt bs 20 4 + j)
    (fieldAt d 6 1, fieldAt d 0 4, fieldAt d 4 2)

def State.taskCode (s : State) (x : Nat) (h img bs : List Byte) (i : Nat) : Nat :=
  if !(taskOk h bs) then 6 else
  let ds := depsOf h img bs
  let sems := ds.filter fun d => d.1 == 1
  if (ds.any fun d => d.1 == 0 && decide (i ≤ d.2.1)) || decide (1 < sems.length) then 7
  else s.taskFit x h bs ((sems.map (·.2.1)).filter fun n => decide (n < 4096))

/-- The tables of an image with their defined record sizes and count ranges (06 R151). -/
def imgTables (h : List Byte) : List (ImgTable × Nat × Nat × Nat) :=
  [(tabKern h, 64, 1, 4096), (tabBuf h, 64, 0, 1048576), (tabTask h, 64, 1, 1048576),
   (tabDep h, 8, 0, 16777216), (tabBind h, 8, 0, 16777216)]

/-- Bytes [a, b) of two spans do not meet. -/
def apart (p q : Nat × Nat) : Bool := decide (p.2 ≤ q.1) || decide (q.2 ≤ p.1)
def allApart : List (Nat × Nat) → Bool
  | [] => true
  | p :: r => r.all (apart p) && allApart r

/-- Header lengths, record sizes and table placement (06 R150, R151). -/
def layoutOk (h : List Byte) : Bool :=
  let hl := fieldAt h 8 2
  let il := hImgLen h
  decide (96 ≤ hl) && hl % 8 == 0 && decide (96 ≤ il) && decide (il ≤ 2 ^ 30) && decide (hl ≤ il)
    && ((imgTables h).all fun t => decide (t.2.1 ≤ t.1.size) && t.1.size % 8 == 0 && t.1.off % 8 == 0
      && decide (t.1.off + t.1.count * t.1.size ≤ il))
    && allApart ((0, hl) :: ((imgTables h).filter fun t => t.1.count != 0).map fun t =>
      (t.1.off, t.1.off + t.1.count * t.1.size))

/-- Reserved header fields and table counts (06 R151, R161). -/
def headerOk (h img : List Byte) : Bool :=
  (!(strict h) || (fieldAt h 10 2 / 2 == 0 && zeroAt h 74 2 && zeroAt h 80 16
      && (slice img 96 (fieldAt h 8 2 - 96)).all (· == 0#8)))
    && (imgTables h).all fun t => decide (t.2.2.1 ≤ t.1.count) && decide (t.1.count ≤ t.2.2.2)

/-- Code of the first failing record of a table. -/
def tableCode (img : List Byte) (t : ImgTable) (f : List Byte → Nat → Nat) : Nat :=
  ((upTo t.count).findSome? fun i =>
    let c := f (recAt img t i) i
    if c = 0 then none else some c).getD 0

/-- The first code that is not 0. -/
def firstCode (l : List Nat) : Nat := (l.find? (· != 0)).getD 0

/-- Codes of an image whose bytes have been read, from the CRC on (06 R159, steps 6 to 8). -/
def State.imageCode (s : State) (x : Nat) (h img : List Byte) : Nat :=
  firstCode [
    if bit (fieldAt h 10 2) 0 && (crc32c (img.take 76 ++ List.replicate 4 0#8 ++ img.drop 80)).toNat
      != fieldAt h 76 4 then 4 else 0,
    if fieldAt h 16 8 != 0 then 3 else 0,
    if headerOk h img then 0 else 6,
    tableCode img (tabKern h) fun b _ => kernCode (s.grantOr x) h b,
    tableCode img (tabBuf h) fun b _ => if bufOk h b then 0 else 6,
    tableCode img (tabBind h) fun b _ => if bindOk h b then 0 else 6,
    tableCode img (tabTask h) fun b i => s.taskCode x h img b i,
    tableCode img (tabDep h) fun b _ => if depOk h b then 0 else 6]

/-- The task a record describes, with the dependences found by the check (06 R157, R158). -/
def taskFrom (t : TaskS) (bs : List Byte) : TaskS :=
  { t with kernel := fieldAt bs 0 4, instances := fieldAt bs 4 4, lcohort := fieldAt bs 8 1,
           prio := fieldAt bs 9 1, fill := bit (fieldAt bs 10 1) 0, notify := bit (fieldAt bs 10 1) 1,
           bindOff := fieldAt bs 12 4, nbind := fieldAt bs 16 2, affinity := fieldAt bs 18 2,
           sigsem := fieldAt bs 26 2, sigval := fieldAt bs 28 4, args := fieldAt bs 32 8 }

def tasksFrom (h img : List Byte) : List TaskS :=
  (upTo (tabTask h).count).map fun i =>
    let bs := recAt img (tabTask h) i
    let ds := depsOf h img bs
    taskFrom { deps := (ds.filter fun d => d.1 == 0).map (·.2.1),
               sem := (ds.find? fun d => d.1 == 1).map (·.2) } bs

/-- Tasks of a context's active graphs, and how many its share of the pending-count set holds (06 R171). -/
def State.tasksOf (s : State) (x : Nat) : Nat := (s.graphsOf x).foldl (fun n g => n + g.tasks.length) 0
def State.taskShare (s : State) (x : Nat) : Nat :=
  let n := s.getF F.schCfgPset
  if s.houseSet n then s.setSize n * s.getF (F.ctxSchedEmberQuota x) / 16384 / 4 else 0

/-- The outcome of the check: a rejection code, or header and tasks. A stop that is no fault is passed on. -/
def checkImage (x image : Nat) : M (Nat × List Byte × List TaskS) := do
  if image % 64 != 0 then return (5, [], [])
  let h ← cvaRead (dieUnit 0) x image 96
  if fieldAt h 0 4 != 0x47435443 then return (1, [], [])
  if fieldAt h 4 2 != 1 then return (2, [], [])
  if !(layoutOk h) then return (5, [], [])
  let img ← cvaRead (dieUnit 0) x image (hImgLen h)
  let s ← getS
  let c := s.imageCode x h img
  if c != 0 then return (c, [], [])
  let ts := tasksFrom h img
  if s.taskShare x < s.tasksOf x + ts.length then return (11, [], [])
  return (0, h, ts)

/-! ### Release of tasks (06 R167, R172, R173) -/

/-- Read the task record again and enter ADMIT (06 R160). -/
def State.admitTask (s : State) (x sub i : Nat) : State :=
  match s.findGraph x sub with
  | none => s
  | some g =>
    match (do
        let bs ← imgRec (dieUnit 0) x g.image (tabTask g.hdr) i
        let s ← getS
        check (s.taskFit x g.hdr bs [] == 0) kInvalid (g.image + (tabTask g.hdr).off + (tabTask g.hdr).size * i)
        return bs : M (List Byte)).go s with
    | (.ok bs, s') => s'.modTask x sub i fun t => { taskFrom t bs with st := .admitted }
    | (.error (.fault c k su d u), s') => s'.stopFault x 0 uSched (some (sub, i)) (.fault c k su d u)
    | (.error _, _) => s

/-- Release one task whose dependences allow it. -/
def State.releaseTask (s : State) (x sub i : Nat) : State :=
  let t := s.getTask x sub i
  if t.st = .semwait ∧ t.acquired then s.admitTask x sub i
  else if t.st = .pending ∧ t.deps.all (fun d => (s.getTask x sub d).st = .done) then
    match t.sem with
    | none => s.admitTask x sub i
    | some (n, v) =>
      (s.modTask x sub i fun t => { t with st := .semwait }).setSemReqs n
        (s.semReqs n ++ [⟨.task x sub i, v⟩])
  else s

/-- An ORDERED graph waits while an earlier graph of the queue is active (06 R167). -/
def gated : List Graph → List Graph
  | [] => []
  | g :: r => g :: (r.filter fun h => !h.ordered)

/-! ### Pending counts (06 R171) -/

/-- Dependences of a task that are not satisfied. -/
def Graph.pendingOf (g : Graph) (t : TaskS) : Nat :=
  (t.deps.filter fun d => (g.tasks.getD d {}).st != .done).length + ofBool (t.sem.isSome && !t.acquired)

/-- Places in use for pending counts, of every context's active graphs. -/
def State.placesUsed (s : State) : List Nat := s.sched.graphs.flatMap fun g => g.tasks.map (·.place)

/-- Each task of a new graph takes a lowest free place (log entry 58). -/
def State.withPlaces (s : State) (ts : List TaskS) : List TaskS :=
  let used := s.placesUsed
  let free := (upTo (used.length + ts.length)).filter fun n => !used.contains n
  (ts.zip free).map fun p => { p.1 with place := p.2 }

/-- The counts of a context's tasks that have changed are written to the set. -/
def State.writeCounts (s : State) (x : Nat) : State :=
  (s.graphsOf x).foldl (fun s g =>
    if g.checking then s else
    (g.tasks.zip (upTo g.tasks.length)).foldl (fun s p =>
      let n := g.pendingOf p.1
      let set := s.getF F.schCfgPset
      if p.1.count == some n || !(s.houseRange set (4 * p.1.place) 4) then s
      else (((hbmWrite none set (4 * p.1.place) (leBytes 4 n)).go s).2).modTask x g.subseq p.2
        fun t => { t with count := some n }) s) s

/-- Every task of a context that its dependences allow is released, and the pending counts follow. -/
def State.advance (s : State) (x : Nat) : State :=
  let gs := (gated (s.graphsOf x)).filter fun g => !g.checking && g.fin.isNone && !g.cancelled
  (gs.foldl (fun s g => (upTo g.tasks.length).foldl (fun s i => s.releaseTask x g.subseq i) s) s).writeCounts x

/-! ### Ends of instances and tasks (06 R178, R181, R183, R185) -/

/-- A task whose last instance has exited is DONE: its Ember returns, NOTIFY and SIGSEM follow. -/
def State.taskDone (s : State) (x sub i : Nat) : State :=
  let t := s.getTask x sub i
  let s := if t.ember.isSome then s.emberReturn x else s
  let s := s.modTask x sub i fun t => { t with st := .done, ember := none }
  let s := if t.notify then s.bell bellTask x 0 (sub + i * 65536) else s
  if t.sigsem = 0xFFFF then s else
  match s.semSignal t.sigsem t.sigval with
  | some s => s
  | none => s.ctxFault x 0 uSched kOverflow 0 t.sigsem none (some (sub, i))

/-- An instance has completed EXIT: its core and shared region are free (06 R145, R175). -/
def State.endInst (s : State) (g : Nat) (e : Inst) : State :=
  let s := s.setCore g {}
  let s := s.modTask e.ctx e.subseq e.task fun t => { t with idone := t.idone + 1 }
  let t := s.getTask e.ctx e.subseq e.task
  let cancelled := (s.findGraph e.ctx e.subseq).any (·.cancelled)
  let s := if t.idone = t.instances then s.taskDone e.ctx e.subseq e.task
    else if cancelled && t.idone == t.placed then
      let r := s.endTask e.ctx e.subseq e.task t .cancelled
      r.1.modTask e.ctx e.subseq e.task fun _ => r.2
    else s
  ((s.graphEnds e.ctx e.subseq).advance e.ctx).settle

/-! ### The step record (07 R202) -/

/-- Read the step record: whole, or its J fields only. A fault tears the context down; `none` where the read
must wait. -/
def State.readStepRec (s : State) (x : Nat) (whole : Bool) : Option State :=
  match s.grant x with
  | none => some s
  | some g =>
    match (cvaRead (dieUnit 0) x g.steprec 128).go s with
    | (.ok bs, s') =>
      some (s'.setStepRec x (if whole then stepRecOf bs else (s'.stepRec x).readJ bs))
    | (.error (.fault c k su d u), s') => some (s'.stopFault x 0 uTally none (.fault c k su d u))
    | (.error _, _) => none

end Sys2Proof.Machine
end

