-- ==== Sys2Proof/Machine/Scheduler.lean ====
section
/-! DEFINITION. The scheduler's steps: submission, checks, Embers, placement, completion, semaphores and
its registers (06 R164–R186, R195). -/
namespace Sys2Proof.Machine

/-! ### Submission (06 R164–R168) -/

/-- A consumed entry: HEAD advances, the step record is read at the first one, the next head line is
watched (06 R165, 07 R202); `none` where the record cannot be read yet. -/
def State.consumed (s : State) (x cva : Nat) : Option State :=
  let s := s.incF (F.sqStatHead x) 1
  let r := if tget false s.sched.recDue x then
      ({ s with sched.recDue := tput false s.sched.recDue x false }).readStepRec x true
    else some s
  r.map fun s => (((s.setActive x).dropHead x cva).settle).watchHead x

/-- A SUBMIT entry is consumed and its image check begins (06 R164, R167). -/
def execSubmit (ctx : Fin 256) (s : State) : Host.Outcome State Fault Refusal :=
  work s fun s => s.lookHead ctx.val 1 fun s e =>
    let cva := s.headCva ctx.val
    let g : Graph := { ctx := ctx.val, subseq := s.getF (F.sqStatHead ctx.val), gtag := fieldAt e 8 8,
                       image := fieldAt e 0 8, hdr := [], ordered := bit (fieldAt e 19 1) 0, checking := true,
                       cancelled := false, tasks := [], fin := none }
    (({ s with sched.graphs := s.sched.graphs ++ [g] }).consumed ctx.val cva).getD s

/-- Tasks of a cancelled graph with no placed instance end (06 R168). -/
def State.cancelGraph (s : State) (x sub : Nat) : State :=
  let s := s.modGraph x sub fun g => { g with cancelled := true }
  match s.findGraph x sub with
  | none => s
  | some g =>
    let s := (g.tasks.zip (upTo g.tasks.length)).foldl (fun s p =>
      if p.1.st.ended || (p.1.st == .running && decide (p.1.idone < p.1.placed)) then s
      else
        let r := s.endTask x sub p.2 p.1 .cancelled
        r.1.modTask x sub p.2 fun _ => r.2) s
    s.graphEnds x sub

/-- A CANCEL entry ends every active graph with its tag, or completes under code 0x0C (06 R168). -/
def execCancel (ctx : Fin 256) (s : State) : Host.Outcome State Fault Refusal :=
  work s fun s => s.lookHead ctx.val 2 fun s e =>
    let x := ctx.val
    let cva := s.headCva x
    let tag := fieldAt e 8 8
    let sub := s.getF (F.sqStatHead x)
    let hits := (s.graphsOf x).filter fun g => g.gtag = tag ∧ g.fin != some ⟨2, 12, 0⟩
    let t : State := if hits.isEmpty then
        let g : Graph := { ctx := x, subseq := sub, gtag := tag, image := 0, hdr := [], ordered := false,
                           checking := false, cancelled := true, tasks := [],
                           fin := some ⟨2, 12, 0⟩ }
        { s with sched.graphs := s.sched.graphs ++ [g], sched.finished := s.sched.finished ++ [(x, sub)] }
      else (hits.filter fun g => g.fin.isNone).foldl (fun s g =>
        if g.checking then s.modGraph x g.subseq fun g => { g with cancelled := true }
        else s.cancelGraph x g.subseq) s
    (t.consumed x cva).getD s

/-- The image check ends: the graph is rejected, or its tasks enter PENDING (06 R159, R168, R171, R172). -/
def execImageCheckDone (ctx : Fin 256) (subseq : BitVec 16) (s : State) : Host.Outcome State Fault Refusal :=
  work s fun s =>
    let x := ctx.val
    let sub := subseq.toNat
    match s.findGraph x sub with
    | none => s
    | some g =>
      if !g.checking then s else
      match (checkImage x g.image).go s with
      | (.ok (0, h, ts), s) =>
        let ts := s.withPlaces ts
        let s := s.modGraph x sub fun g => { g with hdr := h, tasks := ts, checking := false }
        if g.cancelled then (s.cancelGraph x sub).settle else (s.advance x).settle
      | (.ok (c, _, _), s) => (s.finishGraph x sub 2 c).settle
      | (.error (.fault _ _ _ _ _), s) => (s.finishGraph x sub 2 10).settle
      | (.error _, _) => s

/-! ### Embers and placement (06 R174–R177) -/

/-- Order of tasks: higher PRIO, then non-FILL, then `age`, then index. -/
def taskKey (t : TaskS) (age i : Nat) : Nat :=
  (((7 - t.prio) * 2 + ofBool t.fill) * 2 ^ 64 + age) * 2 ^ 32 + i

/-- The element of least key. -/
def leastBy {α : Type} (key : α → Nat) : List α → Option α
  | [] => none
  | a :: r => match leastBy key r with
    | some b => if key b < key a then some b else some a
    | none => some a

/-- Insertion sort by key, stable. -/
def sortBy {α : Type} (key : α → Nat) : List α → List α
  | [] => []
  | a :: r => ins a (sortBy key r)
where
  ins (a : α) : List α → List α
    | [] => [a]
    | b :: r => if key b < key a then b :: ins a r else a :: b :: r

/-- Tasks of a context with their graph, its place in the queue and their index. -/
def State.taskList (s : State) (x : Nat) : List (Graph × Nat × Nat × TaskS) :=
  let gs := s.graphsOf x
  (gs.zip (upTo gs.length)).flatMap fun p =>
    (p.1.tasks.zip (upTo p.1.tasks.length)).map fun t => (p.1, p.2, t.2, t.1)

/-- A task in ADMIT receives an Ember, where quota and table allow (06 R174, R178). -/
def execEmberIssue (ctx : Fin 256) (s : State) : Host.Outcome State Fault Refusal :=
  work s fun s =>
    let x := ctx.val
    let s := s.advance x
    if s.getF (F.ctxSchedEmberQuota x) ≤ s.getF (F.ctxEmbersHeld x) ∨ 16384 ≤ s.getF F.schEmberInuse then s else
    let cand := (s.taskList x).filter fun p => p.2.2.2.st == .admitted && !p.1.cancelled && p.1.fin.isNone
    match leastBy (fun p => taskKey p.2.2.2 p.2.1 p.2.2.1) cand with
    | none => s
    | some (g, _, i, _) =>
      let s := (s.incF (F.ctxEmbersHeld x) 1).incF F.schEmberInuse 1
      let s := s.incF F.schEmbIssue 1
      let age := s.sched.nextEmber
      ({ s with sched.nextEmber := age + 1 }).modTask x g.subseq i fun t =>
        { t with st := .ready, ember := some age }

/-- Regions of CM taken in a cluster by a context's instances: (start, length). -/
def State.regionsOf (s : State) (x k : Nat) : List (Nat × Nat) :=
  (upTo 8).filterMap fun i => match (s.core (8 * k + i)).inst with
    | some t => if t.ctx = x ∧ t.sharedLen != 0 then some (t.shared % 2 ^ 25, t.sharedLen) else none
    | none => none

/-- First place of `n` bytes that meets none of the regions (06 R175). -/
def firstFit (rs : List (Nat × Nat)) (n size : Nat) : Option Nat :=
  (0 :: sortBy id (rs.map fun r => r.1 + r.2)).find? fun a =>
    decide (a + n ≤ size) && rs.all fun r => decide (a + n ≤ r.1) || decide (r.1 + r.2 ≤ a)

/-- Free cores of a context in a cluster, in increasing number. -/
def State.freeCores (s : State) (gr : Grant) (k : Nat) : List Nat :=
  ((gr.clusterCores k).map fun i => 8 * k + i).filter fun g => (s.core g).inst.isNone

/-- Die-to-die hops (05 R111). -/
def hops (a b : Nat) : Nat := if a = b then 0 else if a + b = 3 then 2 else 1

/-- Die stack near which a task's AFFINITY buffer lies, if its page can be read (06 R176). -/
def affinityDie (x : Nat) (g : Graph) (t : TaskS) : M (Option Nat) := do
  if t.affinity = 0xFFFF then return none
  let b ← imgRec (dieUnit 0) x g.image (tabBind g.hdr) (t.bindOff + t.affinity)
  let r ← imgRec (dieUnit 0) x g.image (tabBuf g.hdr) (fieldAt b 0 4)
  match ← translate (dieUnit 0) x (fieldAt r 0 8) false with
  | .hbm set _ => return some ((← getS).getF (F.isDescBstack set) / 4)
  | .comp _ => return none

/-- Clusters that can take a cohort, best first (06 R175, R176). -/
def State.placesFor (s : State) (x : Nat) (gr : Grant) (c shared : Nat) (near : Option Nat) : List (Nat × Nat) :=
  let ok := (upTo 32).filterMap fun k =>
    if (s.freeCores gr k).length < c then none
    else if shared = 0 then some (k, 0)
    else (firstFit (s.regionsOf x k) shared (gr.scratch k)).map fun a => (k, a)
  sortBy (fun p => match near with
    | some d => hops d (p.1 / 8) * 32 + p.1
    | none => p.1) ok

/-- Put a cohort of task `i` on a cluster's lowest free cores (06 R175, R188). -/
def State.placeAt (s : State) (x : Nat) (gr : Grant) (g : Graph) (i : Nat) (t : TaskS)
    (code : Nat × Nat) (shared k a : Nat) : State :=
  let c := 2 ^ t.lcohort
  let region := if shared = 0 then 0 else (k % 8) * 2 ^ 25 + a
  let s := (((s.freeCores gr k).take c).zip (upTo c)).foldl (fun s p =>
    let e : Inst := { ctx := x, subseq := g.subseq, task := i, index := t.placed + p.2, count := t.instances,
                      rank := p.2, size := c, args := t.args, shared := region, sharedLen := shared,
                      step := s.stepNo x, gtag := g.gtag, code := code.1, codeLen := code.2 }
    let regs : Vector Word64 32 := ((([e.index, e.count, e.rank, e.size, e.args, e.shared].zip (upTo 6)).foldl
      (fun v q => v.set! q.2 (BitVec.ofNat 64 q.1)) (Vector.replicate 32 0#64)))
    s.setCore p.1 { inst := some e, pc := 0, s := regs, cmds := [], wait := .none }) s
  s.modTask x g.subseq i fun t => { t with st := .running, placed := t.placed + c }

/-- Try to place a cohort of one task; `none` where no cluster can take it now. -/
def State.placeTask (s : State) (x : Nat) (gr : Grant) (g : Graph) (i : Nat) (t : TaskS) : Option State :=
  match (do
      let bs ← imgRec (dieUnit 0) x g.image (tabKern g.hdr) t.kernel
      check (kernCode gr g.hdr bs == 0) kInvalid (g.image + (tabKern g.hdr).off + (tabKern g.hdr).size * t.kernel)
      return bs : M (List Byte)).go s with
  | (.error (.fault c k su d u), s') => some (s'.stopFault x 0 uSched (some (g.subseq, i)) (.fault c k su d u))
  | (.error _, _) => none
  | (.ok bs, s') =>
    let near : Option Nat := match (affinityDie x g t).go s' with
      | (.ok d, _) => d
      | (.error _, _) => none
    let shared := region64 (fieldAt bs 8 4)
    match s'.placesFor x gr (2 ^ t.lcohort) shared near with
    | [] => none
    | (k, a) :: _ => some (s'.placeAt x gr g i t ((variantOf bs).getD (0, 0)) shared k a)

/-- A cohort of the first Ember in order that has one still to place is placed, where a cluster can take it
(06 R175–R177). -/
def execCohortPlace (ctx : Fin 256) (s : State) : Host.Outcome State Fault Refusal :=
  work s fun s =>
    let x := ctx.val
    if !(s.resident x) then s else
    match s.grant x with
    | none => s
    | some gr =>
      let due := (s.taskList x).filter fun p => p.2.2.2.ember.isSome && !p.1.cancelled && p.1.fin.isNone
        && decide (p.2.2.2.placed < p.2.2.2.instances)
      let due := if due.any fun p => !p.2.2.2.fill then due.filter fun p => !p.2.2.2.fill else due
      let order := sortBy (fun p => taskKey p.2.2.2 (p.2.2.2.ember.getD 0) 0) due
      match order.head? with
      | some p => (s.placeTask x gr p.1 p.2.2.1 p.2.2.2).getD s
      | none => s

/-! ### Completion (06 R169, R170) -/

def State.cqSize (s : State) (x : Nat) : Nat := 2 ^ s.getF (F.cqCfgLog2size x)

/-- The bytes of a completion entry. -/
def State.cqEntry (s : State) (x : Nat) (g : Graph) (c : Completion) : List Byte :=
  let pass := s.getF (F.cqPtrTail x) / s.cqSize x
  leBytes 8 g.gtag ++ leBytes 2 g.subseq ++ leBytes 1 c.status ++ leBytes 1 ((pass + 1) % 2)
    ++ leBytes 4 c.detail ++ leBytes 4 c.tdone ++ leBytes 4 0 ++ leBytes 8 (s.getF (F.watchNs 0))

/-- A graph whose completion has been handled leaves; ordered graphs behind it may start, entries behind
the limit may be consumed. -/
def State.dropGraph (s : State) (x sub : Nat) : State :=
  let s : State := { s with
    sched.graphs := s.sched.graphs.filter fun g => !(g.ctx = x ∧ g.subseq = sub),
    sched.finished := s.sched.finished.filter fun p => p != (x, sub) }
  ((s.setActive x).advance x).settle.watchHead x

/-- The first finished graph's completion entry is written, where the ring has room (06 R169, R170). One whose
write faults is kept, and a context already FAULTED makes no second record of it (log entry 45). -/
def execCompletionEntryWrite (ctx : Fin 256) (s : State) : Host.Outcome State Fault Refusal :=
  work s fun s =>
    let x := ctx.val
    match s.sched.finished.find? fun p => p.1 = x with
    | none => s
    | some (_, sub) =>
      match s.findGraph x sub with
      | none => s
      | some g =>
        match g.fin with
        | none => s
        | some c =>
          let tail := s.getF (F.cqPtrTail x)
          let size := s.cqSize x
          if (tail + 65536 - s.getF (F.cqPtrHead x)) % 65536 = size then s else
          let a := 64 * s.getF (F.cqBaseAddr x) + 32 * (tail % size)
          match (cvaWrite (dieUnit 0) x a (s.cqEntry x g c)).go s with
          | (.ok _, s) =>
            let s := s.incF (F.cqPtrTail x) 1
            let s := if s.flag (F.cqCfgBell x) then s.bell bellCompletion x 0 (s.getF (F.cqPtrTail x)) else s
            s.dropGraph x sub
          | (.error (.fault cl k su d u), t) =>
            if s.ctxSt x = cFaulted then s else t.stopFault x 0 uSched none (.fault cl k su d u)
          | (.error (.touch y k), _) => s.touch y k
          | (.error _, _) => s

/-- A driver write moves HEAD forward, or is refused (06 R170). -/
def execCqPtrWrite (ctx : Fin 256) (value : BitVec 32) (s : State) : Host.Outcome State Fault Refusal :=
  work s fun s =>
    let x := ctx.val
    let r := regOr (F.cqPtrHead x).off
    match s.regRefused r value.toNat with
    | some s => s
    | none =>
      let h := (F.cqPtrHead x).of value.toNat
      let tail := s.getF (F.cqPtrTail x)
      let head := s.getF (F.cqPtrHead x)
      if (tail + 65536 - h) % 65536 ≤ (tail + 65536 - head) % 65536 then s.setF (F.cqPtrHead x) h
      else s.rejected (F.cqPtrHead x)

/-- A change of the completion ring's address or size sets HEAD and TAIL to 0 (06 R170). -/
def execCqConfigWrite (ctx : Fin 256) (reg : CqReg) (value : Word64) (s : State) :
    Host.Outcome State Fault Refusal :=
  regWork s (match reg with | .base => F.cqBaseAddr ctx.val | .cfg => F.cqCfgLog2size ctx.val).off fun s =>
    let x := ctx.val
    let f := match reg with | .base => F.cqBaseAddr x | .cfg => F.cqCfgLog2size x
    let v := match reg with | .base => value.toNat | .cfg => value.toNat % 2 ^ 32
    let s' := s.regWrite (regOr f.off) v
    if s'.getF f = s.getF f then s' else (s'.setF (F.cqPtrTail x) 0).setF (F.cqPtrHead x) 0

/-! ### Submission registers (06 R165, R166) -/

/-- A change of the submission ring's address sets HEAD to 0. -/
def execSqBaseWrite (ctx : Fin 256) (value : Word64) (s : State) : Host.Outcome State Fault Refusal :=
  regWork s (F.sqBaseAddr ctx.val).off fun s =>
    let f := F.sqBaseAddr ctx.val
    let s' := s.regWrite (regOr f.off) value.toNat
    if s'.getF f = s.getF f then s' else (s'.setF (F.sqStatHead ctx.val) 0).watchHead ctx.val

/-- Size, enable and limit: a size change sets HEAD to 0; ENABLE set anew starts consumption, ENABLE
cleared disables it (06 R165, R166, R195). -/
def execSqCfgWrite (ctx : Fin 256) (value : BitVec 32) (s : State) : Host.Outcome State Fault Refusal :=
  work s fun s =>
    let x := ctx.val
    let s' := s.regWrite (regOr (F.sqCfgEnable x).off) value.toNat
    let s' := if s'.getF (F.sqCfgLog2size x) = s.getF (F.sqCfgLog2size x) then s'
      else s'.setF (F.sqStatHead x) 0
    let was := s.flag (F.sqCfgEnable x)
    let now := s'.flag (F.sqCfgEnable x)
    let s' := if !now then s'.setF (F.sqStatState x) 0
      else if !was then (s'.setF (F.sqStatState x) 1).setF (F.sqStatErr x) 0 else s'
    s'.watchHead x

/-- The scheduler looks at the head line of a ring: it re-reads one in HBM, and looks at the copy held of one in
companion memory (06 R165, R166). -/
def execHeadLinePoll (ctx : Fin 256) (s : State) : Host.Outcome State Fault Refusal :=
  work s fun s => s.lookHead ctx.val 0 fun s _ => s

/-- RWDELAY after a snoop the head line of a ring in companion memory is read again (06 R165, 13 R362). -/
def execRewatchTimer (ctx : Fin 256) (s : State) : Host.Outcome State Fault Refusal :=
  work s fun s =>
    if !(tget false s.sched.rewatch ctx.val) then s
    else ({ s with sched.rewatch := tput false s.sched.rewatch ctx.val false }).watchHead ctx.val

/-! ### Probe and semaphores (06 R182, R184, R186) -/

/-- SCH_PROBE_RES shows a task as it stands (06 R186). -/
def execSchProbe (value : Word64) (s : State) : Host.Outcome State Fault Refusal :=
  regWork s F.schProbeCtx.off fun s =>
    let v := value.toNat
    match s.regRefused (regOr F.schProbeCtx.off) v with
    | some s => s
    | none =>
      let i := F.schProbeTask.of v
      match s.findGraph (F.schProbeCtx.of v) (F.schProbeSubseq.of v) with
      | some g =>
        match g.tasks[i]? with
        | some t =>
          let st := match t.st with
            | .pending => 0 | .semwait => 1 | .admitted => 2 | .ready => 3 | .running => 4 | .done => 5
            | .cancelled => 6 | .faulted => 7
          ((s.setF F.schProbeResState st).setB F.schProbeResValid true).setF F.schProbeResIdone t.idone
        | none => ((s.setF F.schProbeResState 0).setB F.schProbeResValid false).setF F.schProbeResIdone 0
      | none => ((s.setF F.schProbeResState 0).setB F.schProbeResValid false).setF F.schProbeResIdone 0

/-- A semaphore whose peer is of another tenant than its owner (17 R437). -/
def State.peerAlien (s : State) (n : Nat) : Bool :=
  s.flag (F.semValid n) && s.flag (F.semPeeren n)
    && s.getF (F.secTenantTenant (s.getF (F.semPeer n))) != s.getF (F.secTenantTenant (s.getF (F.semOwner n)))

/-- A driver write of a semaphore; one that would leave a peer of another tenant is rejected whole, and the
record names the lowest field it would change (06 R184, 17 R437). -/
def State.semWrite (s : State) (n v : Nat) : State :=
  let r := regOr (F.semCount n).off
  let t := s.regWrite r v
  if !(t.peerAlien n) then t
  else match r.fields.find? fun d => t.getF d.f != s.getF d.f with
    | some d => s.rejected d.f
    | none => s.rejected (F.semPeeren n)

def execSemWrite (sem : Fin 4096) (value : Word64) (s : State) : Host.Outcome State Fault Refusal :=
  regWork s (F.semCount sem.val).off fun s => s.semWrite sem.val value.toNat

/-- Resume an instance past its SEMW, in its core or in its context's image (06 R182). -/
def State.resumeSem (s : State) (x g : Nat) : State :=
  let c := s.core g
  if (match c.inst with | some t => t.ctx == x | none => false) then s.setCore g { c with wait := .none }
  else
    let k := s.cx x
    match k.saved with
    | none => s
    | some v =>
      let cores := v.cores.map fun e => if e.g = g then { e with core.wait := .none } else e
      s.setCx x { k with saved := some { v with cores := cores } }

/-- The request at the head of a semaphore's queue is granted when the count allows (06 R173, R182). -/
def execSemaphoreGrant (sem : Fin 4096) (s : State) : Host.Outcome State Fault Refusal :=
  work s fun s =>
    let n := sem.val
    match s.semReqs n with
    | [] => s
    | r :: rest =>
      let c := s.getF (F.semCount n)
      if c < r.v then s else
      let s := (s.setF (F.semCount n) (c - r.v)).setSemReqs n rest
      match r.who with
      | .core x g => s.resumeSem x g
      | .task x sub i => (s.modTask x sub i fun t => { t with acquired := true }).admitTask x sub i
      | w => { s with sched.granted := s.sched.granted ++ [w] }

end Sys2Proof.Machine
end

