-- ==== Sys2Proof/Machine/Memory.lean ====
section
/-! DEFINITION. Package memory: ways, interleave sets, translation invalidation, protected pages, scrub and
refresh (05 R114–R134, R143). -/
namespace Sys2Proof.Machine

/-! ### Ways (05 R114, R115) -/

/-- A write of a way; a change of OWNER, VALID or MODE starts its clear. A way of a cluster that is not
ready cannot be assigned (20 R503). -/
def execCmWayWrite (cluster : Fin 32) (way : Fin 16) (value : BitVec 32) (s : State) :
    Host.Outcome State Fault Refusal :=
  work s fun s =>
    let k := cluster.val
    let w := way.val
    let s' := s.regWrite (regOr (F.cmWayValid k w).off) value.toNat
    if s'.getF (F.cmWayOwner k w) = s.getF (F.cmWayOwner k w)
      ∧ s'.flag (F.cmWayValid k w) = s.flag (F.cmWayValid k w)
      ∧ s'.flag (F.cmWayMode k w) = s.flag (F.cmWayMode k w) then s'
    else s'.setB (F.cmWayZeroing k w) true

/-- The clear of a way ends: every byte is 0 and every tag discarded (05 R115). -/
def execWayClearDone (cluster : Fin 32) (way : Fin 16) (s : State) : Host.Outcome State Fault Refusal :=
  work s fun s =>
    let k := cluster.val
    let w := way.val
    if !(s.flag (F.cmWayZeroing k w)) then s
    else
      { (s.setB (F.cmWayZeroing k w) false).sramFill (cmWord + wayBase k w) 1572864 with
        mem.cm := tclear s.mem.cm (wayBase k w) 1572864,
        mem.lines := s.mem.lines.filter fun l => !(l.cluster == k && l.way == w) }

/-! ### Interleave sets (05 R125–R127) -/

/-- A member lies on a stack that is not ready (05 R127, 20 R503). -/
def State.memberOut (s : State) (m : Nat) : Bool :=
  decide (512 ≤ m) || s.flag (F.hbmStatusDisabled (m / 32)) || !(s.bitF (F.readyDieHbm (m / 128)) (m / 32 % 4))

/-- A set as it stands may be validated (05 R127). -/
def State.setFit (s : State) (n : Nat) : Bool :=
  s.getF (F.isDescBstack n) % 2 ^ s.getF (F.isDescLns n) == 0
    && s.getF (F.isDescBpc n) % 2 ^ s.getF (F.isDescLw n) == 0
    && (s.members n).all (fun m => !(s.memberOut m))
    && (upTo 256).all fun k => k == n || !(s.setValid k)
      || (s.members k).all fun m => !((s.members n).contains m)

/-- A set leaves service: its seal goes with VALID (17 R439). -/
def State.clearSet (s : State) (n : Nat) : State :=
  let s := s.setB (F.isDescValid n) false
  { s.setBitF (F.secSealSealed (n / 32)) (n % 32) false with mem.setClr := tput false s.mem.setClr n false }

/-- A write of a descriptor: the fields by their class; VALID is set only on a set that fits, and then the
members are cleared before the set enters service (05 R126, R127). -/
def execIsDescWrite (set : Fin 256) (value : Word64) (s : State) : Host.Outcome State Fault Refusal :=
  regWork s (F.isDescValid set.val).off fun s =>
    let n := set.val
    let r := regOr (F.isDescValid n).off
    let v := value.toNat
    match s.regRefused r v with
    | some s => s
    | none =>
      let s' := s.fieldsWrite (r.fields.filter fun d => d.f != F.isDescValid n) v
      let was := s.setValid n
      let now := bit v 0
      if was = now then s'
      else if !now then s'.clearSet n
      else if s'.setFit n then
        { s'.setB (F.isDescValid n) true with mem.setClr := tput false s'.mem.setClr n true }
      else s'.rejected (F.isDescValid n)

/-- The members of a newly validated set are clear, each by a write of its bytes: the set enters service (05
R124, R127). -/
def execSetClearDone (set : Fin 256) (s : State) : Host.Outcome State Fault Refusal :=
  work s fun s =>
    let n := set.val
    if !(tget false s.mem.setClr n) then s
    else
      let hbm := (s.members n).foldl (fun m p => tclear m (p * pcSize) pcSize) s.mem.hbm
      let bad := (s.members n).foldl (fun m p => tclear m (p * pcSize / 32) (pcSize / 32)) s.mem.badBursts
      let soft := (s.members n).foldl (fun m p => tclear m (p * pcSize / 32) (pcSize / 32)) s.mem.softBursts
      let s := (s.members n).foldl (fun s p => s.incF (F.hbmWrbytes (p / 32)) pcSize) s
      { s with mem.hbm := hbm, mem.badBursts := bad, mem.softBursts := soft,
               mem.setClr := tput false s.mem.setClr n false }

/-! ### Page-table set and invalidation (05 R132, R143) -/

/-- The arming write of package memory (05 R143, 20 R504). -/
def execMemCfgWrite (value : BitVec 32) (s : State) : Host.Outcome State Fault Refusal :=
  work s fun s =>
    let r := regOr F.memCfgPtset.off
    let v := value.toNat
    match s.regRefused r v with
    | some s => s
    | none =>
      let n := F.memCfgPtset.of v
      if s.bitF F.readyPkgReady rMem then s.guardWrite F.memCfgPtset n true
      else if !(s.setValid n) || !(s.flag (F.isDescHouse n)) then s.rejected F.memCfgPtset
      else (s.setF F.memCfgPtset n).markPkg rMem true

/-- An invalidation covers a cached translation. -/
def tinvHits (v : Nat) (e : TlbE) : Bool :=
  let cva := bits v 21 27
  e.ctx == v % 256 && (match bits v 8 2 with
    | 0 => e.page == cva
    | 1 => e.page / 512 == cva / 512
    | _ => true)

/-- An invalidation is asked for; while one runs it waits (05 R132, R143). -/
def execMemTinv (value : Word64) (s : State) : Host.Outcome State Fault Refusal :=
  regWork s F.memTinvCtx.off fun s =>
    match s.regRefused (regOr F.memTinvCtx.off) value.toNat with
    | some s => s
    | none =>
      if s.flag F.memTinvStDone then { s.setB F.memTinvStDone false with mem.tinvNow := value }
      else { s with mem.tinvNext := s.mem.tinvNext ++ [value] }

/-- Every cached copy the invalidation covers is discarded; a waiting one starts (05 R132, R143). -/
def execTinvDone (s : State) : Host.Outcome State Fault Refusal :=
  work s fun s =>
    if s.flag F.memTinvStDone then s
    else
      let s : State := { s with mem.tlb := s.mem.tlb.filter fun e => !tinvHits s.mem.tinvNow.toNat e }
      match s.mem.tinvNext with
      | [] => s.setB F.memTinvStDone true
      | v :: r => { s with mem.tinvNow := v, mem.tinvNext := r }

/-! ### Protected pages (05 R133, R134; 18 R466, R467) -/

/-- Unit of a base-die or mover write in a record (log entry 27). -/
def writerUnit (unit : Nat) : Nat := if unit < 32 then uMover else uRmt

/-- A write that waited is made; what it meets faults its context. -/
def State.release (s : State) (x : Nat) : State :=
  let r := s.releaseWrites x
  r.1.foldl (fun s p => s.stopFault x (unitDie p.1.unit) (writerUnit p.1.unit) none p.2) r.2

/-! ### Scrub and refresh (05 R119, R120, R122, R123) -/

/-- A scrub of a stack: what it meets is corrected and counted, or counted and recorded as die-class. -/
def execHbmScrub (stack : Fin 16) (found : List ScrubHit) (s : State) : Host.Outcome State Fault Refusal :=
  work s fun s =>
    let h := stack.val
    if s.getF (F.hbmScrubHours h) = 0 || !(s.flag (F.hbmStatusTrained h)) then s
    else
      let base := h * 32 * pcSize / 32
      let n := 32 * pcSize / 32
      let hits := found.filter fun f => decide (f.addr.toNat / 32 < n)
      let soft := s.mem.softBursts.filter fun e => decide (base ≤ e.1) && decide (e.1 < base + n)
      let s : State := { s with mem.softBursts := s.mem.softBursts.filter fun e => !(soft.contains e) }
      let s := (s.incF (F.hbmRdbytes h) (32 * pcSize)).incF (F.hbmCe h)
        (soft.length + (hits.filter fun f => !f.uncorrectable).length)
      let s := (hits.filter fun f => f.uncorrectable).foldl (fun s f =>
        { s with mem.badBursts := tput false s.mem.badBursts (base + f.addr.toNat / 32) true }) s
      (s.mem.badBursts.filter fun e => decide (base ≤ e.1) && decide (e.1 < base + n)).foldl (fun s e =>
        let a := 32 * (e.1 - base)
        ((s.incF (F.hbmUe h) 1).setF (F.hbmUeaddrAddr h) a).record clsDie (h / 4) uHbm kUncorrectable 0 none none a) s

/-- A per-bank refresh is scheduled around traffic and changes nothing that can be observed. -/
def execHbmRefresh (_stack : Fin 16) (_channel : Fin 32) (s : State) : Host.Outcome State Fault Refusal :=
  work s fun s => s

end Sys2Proof.Machine
end

