-- ==== Sys2Proof/Machine/RmtSend.lean ====
section
/-! DEFINITION. The sending side of a connection: messages cut into packets, the window and the credits
they wait for, resending, and what an acknowledgement completes (11 R301, R307, R310, R325–R329). -/
namespace Sys2Proof.Machine

/-- A message as its user hands it over. `axh` is the first packet's header; `cxh` that of the first
packet, whose COFF later packets advance. -/
structure Msg where
  owner : MsgOwner
  opc : Nat
  sub : Nat := 0
  axh : Option Axh := none
  cxh : Option Cxh := none
  opnd0 : Word64 := 0
  opnd1 : Word64 := 0
  src : Option Nat := none
  len : Nat := 0
  data : List Byte := []
  dst : Nat := 0

/-- The packets of a message, numbered from the next PSN (11 R301, R307). A collective message without
data is one packet without payload (log entry 28). -/
def msgPkts (v : RmtSlot) (m : Msg) : List TxPkt :=
  let p := v.conn.pmtu
  let base : TxPkt := { psn := v.next, npsn := 1, owner := m.owner, opc := m.opc, sub := m.sub, first := true,
                        last := true, axh := m.axh, cxh := m.cxh, opnd0 := m.opnd0, opnd1 := m.opnd1,
                        src := m.src, len := m.len, data := m.data, dst := m.dst, got := 0 }
  if m.opc = opReadReq then [{ base with npsn := (m.len + p - 1) / p }]
  else if m.opc = opAtomic then [base]
  else
    let n := Nat.max 1 ((m.len + p - 1) / p)
    (upTo n).map fun i =>
      { base with psn := (v.next + i) % 2 ^ 32, first := i == 0, last := i + 1 == n,
                  axh := if i = 0 then m.axh else none,
                  cxh := m.cxh.map fun c => { c with coff := c.coff + BitVec.ofNat 64 (i * p) },
                  src := m.src.map (· + i * p), len := Nat.min p (m.len - i * p), data := slice m.data (i * p) p }

/-- A read of a source that lies in the caller's data or at a CVA. -/
def txPayload (d x : Nat) (t : TxPkt) : M (List Byte) :=
  if t.opc = opReadReq ∨ t.opc = opAtomic then return []
  else match t.src with
    | some a => cvaRead (dieUnit d) x a t.len
    | none => return t.data

/-- The packet as it goes out; a resent READ_REQ covers what has not been received (11 R310). -/
def txPacket (k : Nat) (t : TxPkt) : M Packet := do
  let v := (← getS).slot k
  let pay ← txPayload (slotDie k) v.conn.owner t
  let axh := t.axh.map fun a =>
    { a with length := a.length - BitVec.ofNat 32 t.got, offset := a.offset + BitVec.ofNat 64 t.got }
  return { packet0 t.opc t.sub with
    first := t.first, last := t.last, hasCxh := t.cxh.isSome,
    psn := BitVec.ofNat 32 (t.psn + t.got / v.conn.pmtu), axh := axh, cxh := t.cxh, opnd0 := t.opnd0,
    opnd1 := t.opnd1, payload := pay }

/-- The context has been pre-empted and does not run yet (16 R419). -/
def State.preempted (s : State) (x : Nat) : Bool :=
  let st := s.ctxSt x
  st == cSaving || st == cSaved || st == cRestoring

/-- On resume the debt of a context is taken from the Wells that its unacknowledged packets left, before
anything new is sent (11 R326; log entry 22). -/
def State.payDebt (s : State) (x : Nat) : State :=
  if s.getF (F.rmtDebtDebt x) = 0 || s.preempted x then s else
  let need := fun d => (s.slotsOf x).foldl (fun n e => if slotDie e.1 = d then n + (e.2.unacked.length - paidOf e.2.unacked) else n) 0
  if (upTo 4).all fun d => decide (s.creditsOut d + need d ≤ 32768) then
    (upTo 4).foldl (fun s d => s.incF (F.rmtTxcIssue d) (need d)) ((s.setF (F.rmtDebtDebt x) 0).markPaid x true)
  else s

/-- What goes on while the context is pre-empted: the resilience unit's packets, and queue transfers and credits in
flight (09 R266, 16 R427, 18 R473). -/
def MsgOwner.goesOn : MsgOwner → Bool
  | .twin _ _ => true
  | .restore _ => true
  | .queue _ _ => true
  | .credit _ => true
  | _ => false

/-- A pre-empted context's packet that is sent all the same: those that go on, and the LAST packet of a message in
progress (11 R326, 16 R427; log entry 22). -/
def TxPkt.goesOn (t : TxPkt) : Bool := t.owner.goesOn || (t.last && !t.first)

/-- The next packet of a slot may go: state, window, a credit, 16 atomics, the owner's residency and debt (11
R308, R310, R325, R326). -/
def State.maySend (s : State) (k : Nat) (t : TxPkt) : Bool :=
  let v := s.slot k
  let x := v.conn.owner
  (v.st == .opened || v.st == .closing) && !v.busyWait && decide (v.unacked.length < v.conn.window)
    && decide (s.creditsOut (slotDie k) < 32768)
    && (t.opc != opAtomic || decide ((v.unacked.filter fun u => u.opc = opAtomic).length < 16))
    && (t.goesOn || (!(s.preempted x) && s.getF (F.rmtDebtDebt x) == 0))

/-- A packet is sent for the first time: it takes a credit, which a pre-empted context returns at once as debt (11
R325, R326). -/
def State.creditTake (s : State) (k : Nat) (t : TxPkt) : State × TxPkt :=
  let x := (s.slot k).conn.owner
  let s := s.incF (F.rmtTxcIssue (slotDie k)) 1
  if s.preempted x then
    ((s.incF (F.rmtTxcReturn (slotDie k)) 1).incF (F.rmtDebtDebt x) 1, { t with paid := false })
  else (s, { t with paid := true })

/-! ### Halts that fail the users of packets in flight (11 R304, 09 R264, 10 R290) -/

/-- A context whose completion signal would overflow faults (06 R183). -/
def State.overflowed (s : State) (k : Nat) (l : List (Nat × Nat)) : State :=
  l.foldl (fun s o => s.ctxFault o.1 (slotDie k) uRmt kOverflow 0 o.2) s

/-- DETAIL of a record that names a command's CTAG and a position (10 R278, R290; log entry 30). -/
def colDetail (tag p : Nat) : Nat := tag + p * 2 ^ 32

/-- Owner and die stack of a queue end. -/
def State.qOwner (s : State) (n : Nat) : Nat := s.getF (F.stqCfgOwner n)
def State.qDie (s : State) (n : Nat) : Nat := s.getF (F.stqPeerDie n)

/-- A queue end's owner faults; the record names the end (09 R264; log entry 29). -/
def State.queueFault (s : State) (n : Nat) : State := s.ctxFault (s.qOwner n) (s.qDie n) uStq kOverflow 0 n

/-- The queue ends and collectives whose packets a slot lost fault their contexts. -/
def State.usersFail (s : State) (v : RmtSlot) : State :=
  (v.pkts.map (·.owner)).eraseDups.foldl (fun s o => match o with
    | .queue n _ => s.queueFault n
    | .credit n => s.queueFault n
    | .coll x tag => s.ctxFault x 0 uColl kHalt 0 (colDetail tag 0)
    | _ => s) s

/-- A slot halts, and the users of its packets fail. -/
def State.haltUsers (s : State) (k cause : Nat) : State :=
  let v := s.slot k
  if v.st != .opened && v.st != .closing then s else
  let r := s.haltSlot k cause none
  ((r.1.overflowed k r.2).usersFail v).settle

/-- The cause a record gives for a halt by DOMAINDOWN (14 R386; log entry 26). -/
def haltDomain : Nat := 8

/-- An access of a connection's sender stopped: a domain that is down halts the connection, another fault is the
context's (14 R386). -/
def State.txStop (s : State) (k : Nat) (e : Stop) : State :=
  if e.isDomain then s.haltUsers k haltDomain
  else s.stopFault (s.slot k).conn.owner (slotDie k) uRmt none e
/-- Waiting packets of a slot go out in order while they may; `n` bounds how many. -/
def State.pumpGo (k : Nat) : Nat → State → State
  | 0, s => s
  | n + 1, s =>
    let v := s.slot k
    match v.queued with
    | [] => s
    | t :: r =>
      if !(s.maySend k t) then s else
      match (txPacket k t).go s with
      | (.ok p, s) =>
        let c := s.creditTake k t
        pumpGo k n ((c.1.setSlot k { v with queued := r, unacked := v.unacked ++ [c.2] }).sendPkt k p)
      | (.error (.fault c kd su d u), s) => s.txStop k (.fault c kd su d u)
      | (.error _, _) => s

def State.pump (s : State) (k : Nat) : State :=
  let s := s.payDebt (s.slot k).conn.owner
  State.pumpGo k ((s.slot k).queued.length) s

/-- Credits have returned: every slot of a die stack with packets that wait for one goes on (11 R324). -/
def State.pumpDie (s : State) (d : Nat) : State :=
  (s.rmt.slot.filter fun e => slotDie e.1 = d ∧ e.2.queued ≠ []).foldl (fun s e => s.pump e.1) s

/-- A message takes its PSNs and waits to be sent. -/
def State.rmtMessage (s : State) (k : Nat) (m : Msg) : State :=
  let v := s.slot k
  let ps := msgPkts v m
  let n := ps.foldl (fun n t => n + t.npsn) 0
  (s.setSlot k { v with queued := v.queued ++ ps, next := (v.next + n) % 2 ^ 32 }).pump k

/-- The packets of a slot that may be sent again: a pre-empted context's connection has stopped, but for what
goes on (11 R326). -/
def State.resends (s : State) (k : Nat) : List TxPkt :=
  let v := s.slot k
  if s.preempted v.conn.owner then v.unacked.filter (·.goesOn) else v.unacked

/-- Every unacknowledged packet is sent again from the oldest (11 R310). -/
def State.resendAll (s : State) (k : Nat) : State :=
  (s.resends k).foldl (fun s t =>
    if (s.slot k).st != .opened && (s.slot k).st != .closing then s else
    match (txPacket k t).go s with
    | (.ok p, s) => (s.incF (F.rmtCtr2 (slotDie k)) 1).sendPkt k p
    | (.error (.fault c kd su d u), s) => s.txStop k (.fault c kd su d u)
    | (.error _, _) => s) s

/-- The frames of packets that an acknowledgement newly covers, in bytes (11 R322). -/
def coveredBytes (v : RmtSlot) (tag : Bool) (ts : List TxPkt) : Nat :=
  ts.foldl (fun n t =>
    let p := { packet0 t.opc t.sub with
      axh := t.axh, cxh := t.cxh,
      payload := List.replicate (if t.opc = opReadReq ∨ t.opc = opAtomic then 0 else t.len) 0#8 }
    n + frameLen p v.conn.ipv6 tag) 0

/-- A message of this owner has packets on a slot. -/
def RmtSlot.has (v : RmtSlot) (o : MsgOwner) : Bool := v.pkts.any fun t => t.owner = o

/-- A read or an atomic whose response is not complete. -/
def TxPkt.asks (t : TxPkt) : Bool := (t.opc == opReadReq || t.opc == opAtomic) && decide (t.got < t.len)

/-- Every packet of a message is acknowledged: a command completes, a twin buffer is freed (11 R329, 18
R471). -/
def State.ownerDone (s : State) (k : Nat) : MsgOwner → State
  | .cmd x i =>
    let r := s.cmdComplete x i 1
    match r.2 with
    | some n => r.1.overflowed k [(x, n)]
    | none => r.1.settle
  | .twin x step =>
    let r := s.resc x
    match tget none r.twin (step % 2) with
    | some b =>
      if b.step = step then (s.stgGive x b.pages).setResc x { r with twin := tput none r.twin (step % 2) none }
      else s
    | none => s
  | _ => s

/-- Messages of these owners that have nothing left on a slot complete. -/
def State.ownersEnd (s : State) (k : Nat) (os : List MsgOwner) : State :=
  (os.eraseDups.filter fun o => !((s.slot k).has o)).foldl (fun s o => s.ownerDone k o) s

/-- Packets of a slot are acknowledged: their credits go back, the timeout count ends, reads and atomics go on
waiting for their responses, finished messages complete, and waiting packets go out (11 R309, R310, R325). -/
def State.retire (s : State) (k : Nat) (ts : List TxPkt) (ece : Bool) : State :=
  if ts.isEmpty then s else
  let v := s.slot k
  let b := coveredBytes v (s.flag (F.portVlanTagen (slotPort k v.conn))) ts
  let v := { v with unacked := v.unacked.filter (fun t => !(ts.any fun u => u.psn = t.psn)),
                    reads := v.reads ++ ts.filter (·.asks), timeouts := 0,
                    a := v.a + b, m := v.m + (if ece then b else 0) }
  let s := (s.setSlot k v).creditBack k ts
  ((s.ownersEnd k (ts.map (·.owner))).pump k).pumpDie (slotDie k)

end Sys2Proof.Machine
end

