-- ==== Sys2Proof/Machine/StageQueues.lean ====
section
/-! DEFINITION. Phase-map records and the stage queues that run over pipeline links (09 R258–R269, 10
R271–R273). -/
namespace Sys2Proof.Machine

/-! ### Map records (10 R271) -/

/-- The bytes of a map record that hold anything. -/
def mapRead (x sl : Nat) : M (List Byte) := do
  if !((← getS).flag F.colCfgMvalid) then ctxStop kInvalid sl
  let n := (← getS).getF F.colCfgMset
  let o := 0x8000 * x + 0x1000 * sl
  if !((← getS).houseRange n o 2112) then ctxStop kInvalid sl
  hbmRead (some x) n o 2112

def mapKind (m : List Byte) : Nat := fieldAt m 0 1
def mapG (m : List Byte) : Nat := fieldAt m 1 1
def mapSelf (m : List Byte) : Nat := fieldAt m 2 1
def mapNsh (m : List Byte) : Nat := fieldAt m 3 1
def mapNrep (m : List Byte) : Nat := fieldAt m 4 1
def mapId (m : List Byte) : Nat := fieldAt m 8 4
def mapGen (m : List Byte) : Nat := fieldAt m 12 4
def mapPorts (m : List Byte) : Nat := fieldAt m 16 4
/-- CONNq of an entry, its SHARD and its REPLICA. -/
def mapConn (m : List Byte) (p q : Nat) : Nat := fieldAt m (64 + 32 * p + 4 * q) 4
def mapShard (m : List Byte) (p : Nat) : Nat := fieldAt m (64 + 32 * p + 16) 2
def mapReplica (m : List Byte) (p : Nat) : Nat := fieldAt m (64 + 32 * p + 18) 1
/-- Entries other than the module's own. -/
def mapPeers (m : List Byte) : List Nat :=
  (upTo (mapG m)).filter fun p => mapKind m = 3 || p != mapSelf m

/-- The active pipeline map of a context. -/
def pipeMap (x : Nat) : M (List Byte) := do
  let s ← getS
  if !(s.flag (F.colCtlPvalid x)) then ctxStop kInvalid (s.getF (F.colCtlPslot x))
  mapRead x (s.getF (F.colCtlPslot x))

/-- Slot key of a connection that a context may use; none when it is not open (11 R293, R294). -/
def State.connOf (s : State) (x cn : Nat) : Option Nat :=
  let v := s.slot cn
  if cn < 2 ^ 18 ∧ v.st = .opened ∧ v.conn.owner = x then some cn else none

/-- The swap of a pipeline map is under way: no transfer starts (09 R265). -/
def State.pipeSwap (s : State) (x : Nat) : Bool :=
  (tget {} s.col.ctx x).cmds.any fun c => c.op == 6 && c.started &&
    match (mapRead x (c.src % 8)).go s with
    | (.ok m, _) => mapKind m == 3
    | (.error _, _) => false

/-! ### Queue ends -/

def State.qLink (s : State) (n : Nat) : Nat := s.getF (F.stqPeerLink n)
def State.qBytes (s : State) (n : Nat) : Nat := 64 * s.getF (F.stqPeerSlotb n)
def State.qValid (s : State) (n role : Nat) : Bool :=
  s.flag (F.stqCfgValid n) && s.getF (F.stqCfgRole n) == role
/-- CVA of the slot that a sequence number names. -/
def State.qSlot (s : State) (n seq : Nat) : Nat := 64 * s.getF (F.stqBufAddr n) + seq % s.stqSlots n * s.qBytes n

/-- The end's waiting semaphore is signalled by 1 (09 R262, 06 R183). -/
def State.queueSignal (s : State) (n : Nat) : State :=
  let w := s.getF (F.stqCfgWsem n)
  match s.semSignal w 1 with
  | some s => s
  | none => s.ctxFault (s.qOwner n) (s.qDie n) uColl kOverflow 0 w

/-- What a step of a queue does: it is over, or it must wait for a page's copy or for a link, and what it
waits for has been asked for. -/
inductive QDone where
  | over (s : State)
  | wait (s : State)

def QDone.state : QDone → State
  | .over s => s
  | .wait s => s

/-- Row 3: a slot's bytes arrive at consumer end `n`; its counts rise when they are in. -/
def State.queueFill (s : State) (n seq : Nat) (data : List Byte) : QDone :=
  if seq != s.getF (F.stqIssue n) || data.length != s.qBytes n then .over (s.queueFault n)
  else
    match (cvaWrite (dieUnit (s.qDie n)) (s.qOwner n) (s.qSlot n seq) data).go s with
    | (.ok _, s) => .over ((s.incF (F.stqIssue n) 1).queueSignal n)
    | (.error (.fault c k su d u), s) => .over (s.stopFault (s.qOwner n) (s.qDie n) uStq none (.fault c k su d u))
    | (.error (.touch y k), _) => .wait (s.touch y k)
    | (.error _, _) => .wait s

/-- Row 5: a credit message arrives at producer end `n`. -/
def State.queueCredit (s : State) (n count : Nat) : State :=
  if count != s.getF (F.stqReturn n) + 1 then s.queueFault n
  else (s.incF (F.stqReturn n) 1).queueSignal n

/-- The header of a queue message (11 R299). -/
def queueCxh (m : List Byte) (peerq cop count : Nat) : Cxh :=
  { mapid := BitVec.ofNat 32 (mapId m), gen := BitVec.ofNat 32 (mapGen m), ctag := BitVec.ofNat 32 peerq,
    cop := BitVec.ofNat 8 cop, cxflags := 0, reserved := 0, count := BitVec.ofNat 64 count, coff := 0 }

/-- The connection and map over which end `n` sends; none when its link does not carry it. -/
def State.queuePath (s : State) (n : Nat) : Option (List Byte × Nat) :=
  match (pipeMap (s.qOwner n)).go s with
  | (.ok m, _) =>
    if mapKind m = 3 ∧ s.qLink n < mapG m then
      (s.connOf (s.qOwner n) (mapConn m (s.qLink n) (s.qDie n))).map fun k => (m, k)
    else none
  | (.error _, _) => none

/-- An end may start a transfer or credit message: its owner runs and no swap of its map is under way (09
R265, R266). -/
def State.queueReady (s : State) (n role : Nat) : Bool :=
  s.qValid n role && s.alive (s.qOwner n) && !s.preempted (s.qOwner n)
    && (s.qLink n == 15 || !s.pipeSwap (s.qOwner n))

/-! ### Commands -/

/-- The unit that serves a valid end waits on its TSEM (09 R262; log entry 59). -/
def State.queueJoin (s : State) (n : Nat) : State :=
  if s.flag (F.stqCfgValid n) && s.alive (s.qOwner n) then
    (s.unitJoin (s.getF (F.stqCfgTsem n)) (.queue (s.qOwner n) n)).settle
  else s

/-- Rows 1 and 2: the unit takes a count of TSEM and sends the next slot; it then waits again. A send that
cannot read or write a page yet takes no count. -/
def execQueueSend (qend : Fin 256) (s : State) : Host.Outcome State Fault Refusal :=
  work s fun s =>
    let n := qend.val
    let s := s.queueJoin n
    let x := s.qOwner n
    if !(s.queueReady n 0) then s else
    match s.unitTake (.queue x n) with
    | none => s
    | some t =>
      let t := t.queueJoin n
      let seq := t.getF (F.stqIssue n)
      let a := t.qSlot n seq
      if t.qLink n = 15 then
        let q := t.getF (F.stqPeerPeerq n)
        if !(t.qValid q 1) then t.queueFault n else
        match (cvaRead (dieUnit (t.qDie n)) x a (t.qBytes n)).go t with
        | (.ok bs, t) =>
          match (t.incF (F.stqIssue n) 1).queueFill q seq bs with
          | .over t => t
          | .wait t => { s with res := t.res }
        | (.error (.fault c k su d u), t) => t.stopFault x (t.qDie n) uStq none (.fault c k su d u)
        | (.error _, _) => s
      else match t.queuePath n with
        | none => t.queueFault n
        | some (m, k) =>
          (t.incF (F.stqIssue n) 1).rmtMessage k
            { owner := .queue n seq, opc := opWrite, cxh := some (queueCxh m (t.getF (F.stqPeerPeerq n)) 0x10 seq),
              src := some a, len := t.qBytes n }

/-- Row 3: the last packet of a transfer is received. A transfer to an end that cannot take it is refused
and changes nothing here. -/
def execQueueTransferReceive (qend : Fin 256) (link : Fin 16) (seq : Nat) (data : List Byte) (s : State) :
    Host.Outcome State Fault Refusal :=
  work s fun s =>
    let n := qend.val
    if !(s.qValid n 1) || s.qLink n != link.val || s.preempted (s.qOwner n) then s
    else (s.queueFill n seq data).state

/-- Row 4: the unit takes a count of the consumer's TSEM and sends a credit message. -/
def execQueueFree (qend : Fin 256) (s : State) : Host.Outcome State Fault Refusal :=
  work s fun s =>
    let n := qend.val
    let s := s.queueJoin n
    if !(s.queueReady n 1) then s else
    match s.unitTake (.queue (s.qOwner n) n) with
    | none => s
    | some s =>
      let s := s.queueJoin n
      let count := s.getF (F.stqReturn n) + 1
      if s.qLink n = 15 then
        let q := s.getF (F.stqPeerPeerq n)
        if !(s.qValid q 0) then s.queueFault n else (s.incF (F.stqReturn n) 1).queueCredit q count
      else match s.queuePath n with
        | none => s.queueFault n
        | some (m, k) =>
          (s.incF (F.stqReturn n) 1).rmtMessage k
            { owner := .credit n, opc := opWrite, cxh := some (queueCxh m (s.getF (F.stqPeerPeerq n)) 0x11 count) }

/-- Row 5: a credit message is received. -/
def execQueueCreditReceive (qend : Fin 256) (link : Fin 16) (count : Nat) (s : State) :
    Host.Outcome State Fault Refusal :=
  work s fun s =>
    let n := qend.val
    if !(s.qValid n 0) || s.qLink n != link.val || s.preempted (s.qOwner n) then s else s.queueCredit n count

/-! ### Validation (09 R261, R269) -/

/-- A semaphore is bound to another valid end. -/
def State.semBound (s : State) (n sem : Nat) : Bool :=
  (upTo 256).any fun q => q != n && s.flag (F.stqCfgValid q)
    && (s.getF (F.stqCfgWsem q) == sem || s.getF (F.stqCfgTsem q) == sem)

/-- An end as it stands may be validated. -/
def State.queueFit (s : State) (n : Nat) : Bool :=
  let x := s.qOwner n
  let w := s.getF (F.stqCfgWsem n)
  let t := s.getF (F.stqCfgTsem n)
  let mine := fun sem => s.flag (F.semValid sem) && s.getF (F.semOwner sem) == x
  mine w && mine t && w != t && !(s.semBound n w) && !(s.semBound n t) && s.getF (F.semCount t) == 0
    && (s.getF (F.stqCfgLstage n) == 0 || (s.grantOr x).interleave)
    && (upTo 256).all (fun q => q == n || !(s.flag (F.stqCfgValid q))
      || s.getF (F.stqCfgStg q) != s.getF (F.stqCfgStg n) || s.qOwner q == x)
    && s.getF (F.stqPeerSlotb n) != 0

/-- Fields of STQ_CFG whose change, in an end that stays valid, issues its credits anew (09 R261; log entry
59). -/
def State.qIdentity (s : State) (n : Nat) : List Nat :=
  [F.stqCfgRole n, F.stqCfgOwner n, F.stqCfgWsem n, F.stqCfgTsem n, F.stqCfgNslot n].map s.getF

/-- An end set valid: its credits are issued and its unit waits (09 R261, R262). -/
def State.queueStart (s : State) (n : Nat) : State :=
  let s := s.setB (F.stqCfgValid n) true
  (s.setF (F.semCount (s.getF (F.stqCfgWsem n))) (if s.getF (F.stqCfgRole n) = 0 then s.stqSlots n else 0)).queueJoin n

/-- A write of STQ_CFG: the fields by their class, VALID after the checks. A write of VALID = 1 whose end may not
be valid is rejected: as a whole where the end is valid already. -/
def execStqCfgWrite (qend : Fin 256) (value : Word64) (s : State) : Host.Outcome State Fault Refusal :=
  regWork s (F.stqCfgValid qend.val).off fun s =>
    let n := qend.val
    let r := regOr (F.stqCfgValid n).off
    let v := value.toNat
    match s.regRefused r v with
    | some s => s
    | none =>
      let was := s.flag (F.stqCfgValid n)
      let s' := s.fieldsWrite (r.fields.filter fun d => d.f != F.stqCfgValid n || was) v
      if !(bit v 0) then (if s'.flag (F.stqCfgValid n) then s' else s'.unitLeave (.queue (s.qOwner n) n))
      else if was && s.stqRunning n then s'
      else if was && r.fields.all (fun d => s'.getF d.f == s.getF d.f) then s'
      else if !(s'.queueFit n) then (if was then s else s').rejected (F.stqCfgValid n)
      else if was && s'.qIdentity n == s.qIdentity n then s'
      else (s'.unitLeave (.queue (s.qOwner n) n)).queueStart n

end Sys2Proof.Machine
end

