-- ==== Sys2Proof/Machine/Collectives.lean ====
section
/-! DEFINITION. The collective unit: its commands, the messages they exchange round a phase map, and map
swaps (10 R270–R292, 09 R252–R254). -/
namespace Sys2Proof.Machine

/-! ### Shard descriptors and group records (08 R222, R224, R225) -/

def shardOf (b : List Byte) : Shard :=
  { group := fieldAt b 0 2, house := bit (fieldAt b 2 1) 0, hset := fieldAt b 3 1, count := fieldAt b 8 8,
    master := fieldAt b 16 8, mom1 := fieldAt b 24 8, mom2 := fieldAt b 32 8, grad := fieldAt b 40 8,
    digest := fieldAt b 48 8, progress := fieldAt b 56 8 }

def shardOk (b : List Byte) : Bool :=
  let h := shardOf b
  decide (h.group < 4096) && decide (fieldAt b 2 1 < 2) && (h.house || h.hset == 0) && zeroAt b 4 4
    && decide (1 ≤ h.count) && decide (h.count ≤ 2 ^ 40)
    && [h.master, h.mom1, h.mom2, h.grad, h.digest, h.progress].all (· % 64 == 0)

def grpOf (b : List Byte) : Grp :=
  { flags := fieldAt b 0 1, owner := fieldAt b 1 1, rule := fieldAt b 2 1, vsk := fieldAt b 3 1,
    wcfmt := fieldAt b 4 1, wslot := fieldAt b 6 2, mslot := fieldAt b 8 2, lr := w32At b 12,
    beta1 := w32At b 16, beta2 := w32At b 20, eps := w32At b 24, eps1 := w32At b 28, wd := w32At b 32,
    wccoarse := w32At b 36, trmax := w32At b 40 }

/-- Finite and not negative; −0 counts as 0. -/
def w32Nonneg (v : W32) : Bool := w32IsFinite v && (!(w32Neg v) || w32IsZero v)
def w32Unit (v : W32) : Bool := w32Nonneg v && w32Lt v w32One
/-- A positive normal power of two. -/
def w32IsPow2 (v : W32) : Bool := w32IsFinite v && !(w32Neg v) && v.toNat % 2 ^ 23 == 0 && v != 0#32

def State.grpOk (s : State) (x : Nat) (b : List Byte) : Bool :=
  let g := grpOf b
  let slot := fun n => n == 0xFFFF || s.slotOk n x
  bit g.flags 0 && decide (g.flags < 8) && g.owner == x && decide (g.rule < 4)
    && (if g.rule = 2 then g.vsk == 1 || g.vsk == 2 else g.vsk == 0) && (g.wcfmt == 1 || g.wcfmt == 2)
    && zeroAt b 5 1 && zeroAt b 10 2 && zeroAt b 44 84 && slot g.wslot && slot g.mslot
    && w32Nonneg g.lr && w32Unit g.beta1 && w32Unit g.beta2 && w32Nonneg g.eps && w32Nonneg g.eps1
    && w32Nonneg g.wd && (g.wcfmt == 2 || w32IsPow2 g.wccoarse) && w32Nonneg g.trmax

/-- The bytes of a group record (08 R224). -/
def grpBytes (n : Nat) : M (List Byte) := do
  let s ← getS
  let set := s.getF F.smyCfgGset
  if !(s.flag F.smyCfgGvalid) || !(s.houseRange set (128 * n) 128) then ctxStop kInvalid (128 * n)
  hbmRead none set (128 * n) 128

/-! ### Exact square sums (10 R283) -/

def Ess.addVal (a : Ess) (v : W32) : Ess :=
  if w32IsNaN v then { a with nan := true } else if w32IsInf v then { a with inf := true }
  else { a with e := (a.e + w32Units v * w32Units v * 2 ^ 22) % 2 ^ 640 }
def Ess.add (a b : Ess) : Ess := ⟨(a.e + b.e) % 2 ^ 640, a.nan || b.nan, a.inf || b.inf⟩
def Ess.bytes (a : Ess) : List Byte :=
  leBytes 80 a.e ++ leBytes 1 (place (ofBool a.nan) 0 1 + place (ofBool a.inf) 1 1) ++ leBytes 15 0
def essOf (b : List Byte) : Ess := ⟨fieldAt b 0 80, bit (fieldAt b 80 1) 0, bit (fieldAt b 80 1) 1⟩
def Ess.toW32 (a : Ess) : W32 :=
  if a.nan then w32NaN else if a.inf then w32Inf false else w32Round false a.e (2 ^ 320)
def essSum (l : List Ess) : Ess := l.foldl Ess.add {}

/-! ### The command table of a context -/

def State.col1 (s : State) (x : Nat) : ColCtx := tget {} s.col.ctx x
def State.setCol (s : State) (x : Nat) (c : ColCtx) : State := { s with col.ctx := tput {} s.col.ctx x c }
/-- The command consumed at ring position `num`. -/
def State.colCmd (s : State) (x num : Nat) : Option ColCmd := (s.col1 x).cmds.find? fun c => c.num = num

def State.modCmd (s : State) (x num : Nat) (f : ColCmd → ColCmd) : State :=
  let c := s.col1 x
  s.setCol x { c with cmds := c.cmds.map fun d => if d.num = num then f d else d }

def modCmd (x num : Nat) (f : ColCmd → ColCmd) : M Unit := setS fun s => s.modCmd x num f
def getCmd (x : Nat) (c : ColCmd) : M ColCmd := do return ((← getS).colCmd x c.num).getD c


/-- A fault of a command at its start; the record names the entry's CVA (10 R273, R277, R279; log entry 30). -/
def colBad {α : Type} (c : ColCmd) : M α := ctxStop kInvalid c.addr

/-- The active ring map, of one of the kinds a command requires (10 R273). -/
def ringMap (x : Nat) (c : ColCmd) : M (List Byte) := do
  let s ← getS
  if !(s.flag (F.colCtlRvalid x)) then colBad c
  let m ← mapRead x (s.getF (F.colCtlRslot x))
  let k := mapKind m
  if (if c.op = 3 ∨ c.op = 4 then k == 2 else decide (k < 2)) then return m else colBad c

/-! ### Sending -/

/-- Pieces of at most `k` of the elements from `e` on. -/
def runsOf (k e n : Nat) : List (Nat × Nat) :=
  (upTo ((n + k - 1) / k)).map fun i => (e + i * k, Nat.min k (n - i * k))

/-- Transfers of a range of elements: each quarter in pieces of at most 16,384 (10 R270). -/
def transfers (e n : Nat) : List (Nat × Nat × Nat) :=
  (upTo 4).flatMap fun q => (runsOf 16384 (e + q * (n / 4)) (n / 4)).map fun r => (q, r.1, r.2)

/-- Send a message of a command to entry `p` on CONNq (10 R278; 10 R290 where it is not open). -/
def colSend (x : Nat) (c : ColCmd) (m : List Byte) (p q off : Nat) (data : List Byte) (abort : Bool) : M Unit := do
  match (← getS).connOf x (mapConn m p q) with
  | none => throw (.fault clsContext kHalt 0 (colDetail c.ctag p) none)
  | some k =>
    let h : Cxh := { mapid := BitVec.ofNat 32 (mapId m), gen := BitVec.ofNat 32 (mapGen m),
                     ctag := BitVec.ofNat 32 c.ctag, cop := BitVec.ofNat 8 c.op,
                     cxflags := if abort then 1 else 0, reserved := 0, count := BitVec.ofNat 64 c.count,
                     coff := BitVec.ofNat 64 off }
    setS fun s => s.rmtMessage k
      { owner := .coll x c.ctag, opc := opWrite, cxh := some h, data := data, len := data.length }

def succOf (m : List Byte) (p : Nat) : Nat := (p + 1) % mapG m
def predOf (m : List Byte) (p : Nat) : Nat := (p + mapG m - 1) % mapG m
/-- Index of the piece that position p reduces or serves (10 R279). -/
def pieceOf (m : List Byte) (p : Nat) : Nat := mapShard m p * mapNrep m + mapReplica m p
def posOf (m : List Byte) (i : Nat) : Option Nat := (upTo (mapG m)).find? fun p => pieceOf m p = i

/-- Take the messages of a command that have arrived. -/
def takeInbox (x : Nat) (c : ColCmd) : M (List ColMsg) := do
  let c ← getCmd x c
  modCmd x c.num fun c => { c with inbox := [] }
  return c.inbox

def ownShard (x : Nat) (c : ColCmd) : M Shard := do
  let b ← cvaRead (dieUnit 0) x c.shardAt 64
  if shardOk b then return shardOf b else ctxStop kInvalid c.shardAt

/-! ### RSCAT (10 R279–R282) -/

def ColCmd.wire16 (c : ColCmd) : Bool := bit c.cflags 1

/-- Values of the local gradient. -/
def rscatSrc (x q : Nat) (c : ColCmd) (e n : Nat) : M (List W32) := do
  if bit c.cflags 3 then
    let b ← cvaRead (dieUnit q) x (c.src + 4 * e) (4 * n)
    return (upTo n).map fun i => w32At b (4 * i)
  else
    let b ← cvaRead (dieUnit q) x (c.src + 2 * e) (2 * n)
    return (upTo n).map fun i => toW32 (srcPlain .kw16 (fieldAt b (2 * i) 2))

def kw16Codes (vs : List W32) : List Nat × Census :=
  let r := convAll cvcKW16 w32One 16 vs
  (r.1, r.2.2)

/-- Partials as they travel, and back (10 R281). -/
def wireOut (c : ColCmd) (vs : List W32) : List Byte :=
  if c.wire16 then packCodes .kw16 (kw16Codes vs).1 else vs.flatMap w32Bytes
def wireIn (c : ColCmd) (b : List Byte) : List W32 :=
  if c.wire16 then (upTo (b.length / 2)).map fun i => toW32 (srcPlain .kw16 (fieldAt b (2 * i) 2))
  else (upTo (b.length / 4)).map fun i => w32At b (4 * i)

def ColCmd.piece (c : ColCmd) (m : List Byte) : Nat := c.count / mapG m
/-- Address in GRAD of element `e` of the tensor, which lies in piece `i` of the own shard. -/
def gradAt (c : ColCmd) (m : List Byte) (h : Shard) (i e : Nat) : Nat :=
  h.grad + 2 * (i % mapNrep m * c.piece m + (e - i * c.piece m))

/-- The own piece is reduced: its report and square sum are made, and the replicas receive it (10 R281–R284). -/
def rscatOwn (x : Nat) (c : ColCmd) (m : List Byte) (h : Shard) : M Unit := do
  let self := mapSelf m
  let i := pieceOf m self
  setS fun s =>
    let s := s.report x c.tslot c.step c.rep
    let k := s.col1 x
    if decide (c.step < s.stepNo x) || k.normed == some c.step then s.incF F.colLate 1
    else s.setCol x { k with ess := k.ess.add c.ess }
  ((mapPeers m).filter fun p => mapShard m p = mapShard m self).forM fun p =>
    (transfers (i * c.piece m) (c.piece m)).forM fun t => do
      let data ← shRead t.1 x h (gradAt c m h i t.2.1) (2 * t.2.2)
      colSend x c m p t.1 (4 * t.2.1) data false

/-- Elements of the own piece are final: converted and written to GRAD. -/
def rscatFinal (x q : Nat) (c : ColCmd) (m : List Byte) (h : Shard) (e : Nat) (vs : List W32) : M Unit := do
  let r := kw16Codes vs
  shWrite q x h (gradAt c m h (pieceOf m (mapSelf m)) e) (packCodes .kw16 r.1)
  let sq := r.1.foldl (fun a k => Ess.addVal a (toW32 (srcPlain .kw16 k))) ({} : Ess)
  modCmd x c.num fun c => { c with own := c.own + vs.length, rep := c.rep.add r.2, ess := c.ess.add sq }
  let c ← getCmd x c
  if c.own = c.piece m then rscatOwn x c m h

/-- The module starts the sum of the piece that its predecessor reduces. -/
def rscatFirst (x : Nat) (c : ColCmd) (m : List Byte) (h : Shard) : M Unit := do
  let self := mapSelf m
  let p := predOf m self
  (transfers (pieceOf m p * c.piece m) (c.piece m)).forM fun t => do
    let vs ← rscatSrc x t.1 c t.2.1 t.2.2
    if p = self then rscatFinal x t.1 c m h t.2.1 vs
    else colSend x c m (succOf m self) t.1 (4 * t.2.1) (wireOut c vs) false
  modCmd x c.num fun c => { c with sent := true }

/-- One message: a finished piece of a replica, or a partial to add to (10 R280, R282). -/
def rscatTake (x : Nat) (c : ColCmd) (m : List Byte) (h : Shard) (g : ColMsg) : M Unit := do
  let self := mapSelf m
  let e := g.index / 4
  let i := e / c.piece m
  let q := e % c.piece m * 4 / c.piece m
  match posOf m i with
  | none => ctxStop kInvalid (colDetail c.ctag g.position.val)
  | some p =>
    if p = g.position.val then
      if mapShard m p != mapShard m self then ctxStop kInvalid (colDetail c.ctag p)
      shWrite q x h (gradAt c m h i e) g.data
      modCmd x c.num fun c => { c with fill := c.fill + g.data.length / 2 }
    else
      let r := wireIn c g.data
      let own ← rscatSrc x q c e r.length
      let vs := (r.zip own).map fun p => w32Add p.1 p.2
      if p = self then rscatFinal x q c m h e vs
      else
        colSend x c m (succOf m self) q (4 * e) (wireOut c vs) false
        modCmd x c.num fun c => { c with fwd := c.fwd + r.length }

def rscatRun (x : Nat) (c : ColCmd) : M Bool := do
  let m ← ringMap x c
  let h ← ownShard x c
  if !c.sent then rscatFirst x c m h
  (← takeInbox x c).forM fun g => rscatTake x c m h g
  let c ← getCmd x c
  let n := c.piece m
  return c.sent && c.own == n && c.fill == (mapNrep m - 1) * n && c.fwd == (mapG m - 2) * n

/-! ### AGATH (10 R286, R287; 09 R252–R254) -/

/-- Working-copy bytes of `n` elements: elements, scales. -/
def wcElems (g : Grp) (n : Nat) : Nat := if g.wcfmt = 2 then 2 * n else n
def wcScales (g : Grp) (n : Nat) : Nat := if g.wcfmt = 2 then 0 else n / 16
def wcBytes (g : Grp) (n : Nat) : Nat := wcElems g n + wcScales g n

/-- The update of the shard is not in progress (10 R286, 08 R240). -/
def shardIdle (x : Nat) (h : Shard) : M Unit := do
  if leNat (← shRead 0 x h (h.progress + 44) 1) = 1 then stop .wait

/-- Digest over the chunks' digests of one kind: offset 0 working copy, 16 master (10 R286, R288). -/
def shardDigest (x : Nat) (h : Shard) (o : Nat) : M (List Byte) := do
  let ds ← (upTo h.nChunks).mapM fun c => shRead 0 x h (h.digest + 32 * c + o) 16
  return (shaBytes (ds.flatten ++ leBytes 8 h.count)).take 16

/-- Masters of a run of elements, derived. -/
def deriveRun (x q : Nat) (h : Shard) (g : Grp) (e n : Nat) : M (List Byte × List Byte) := do
  let b ← shRead q x h (h.master + 4 * e) (4 * n)
  let r := workingCopy g ((upTo n).map fun i => w32At b (4 * i))
  return (r.1, r.2.1)

/-- Bytes of a digest-ring entry, and the CVA of the entry for a version (10 R287). -/
def ringEntry (c : ColCmd) (nsh v : Nat) : Nat := c.dring + v % 1024 * ((64 + 32 * nsh + 63) / 64 * 64)

/-- The record of a tag that fails: the shard index in SUB; the tag record's CVA, with the low bytes of the VSTEP
looked for and of the one met above it (09 R254; log entry 60). -/
def tagBad (c : ColCmd) (i want got : Nat) : M Unit :=
  throw (.fault clsContext kIntegrity i (c.tagrec + place want 48 8 + place got 56 8) none)

/-- A tag of shard `i` is taken or compared before any byte of the shard is written: with the shard's other
pieces, with the tag record of a VERIFY gather, and of a RECORD gather with the other shards and with the digest
ring (09 R252–R254, 10 R286, R287). -/
def takeTag (x : Nat) (c : ColCmd) (nsh i v d : Nat) : M Unit := do
  let c ← getCmd x c
  match c.tags.find? fun t => t.1 = i with
  | some t => if t.2.1 != v || t.2.2 != d then tagBad c i t.2.1 v
  | none =>
    if bit c.cflags 0 then
      let b ← cvaRead (dieUnit 0) x (c.tagrec + 32 * i) 32
      if fieldAt b 0 8 != c.step || fieldAt b 8 8 != v || fieldAt b 16 16 != d then tagBad c i (fieldAt b 8 8) v
    else
      match c.tags.find? fun t => t.2.1 != v with
      | some t => tagBad c i t.2.1 v
      | none => pure ()
      let a := ringEntry c nsh v
      if leNat (← cvaRead (dieUnit 0) x a 8) = v then
        if leNat (← cvaRead (dieUnit 0) x (a + 64 + 32 * i) 16) != d then tagBad c i v v
    modCmd x c.num fun c => { c with tags := c.tags ++ [(i, v, d)] }

/-- Bytes of shard `i` bound for DST, from a piece of replica `j`: they are held until a tag of every replica of
the shard has come and agreed, and then written (09 R254). -/
def gatherPut (x : Nat) (c : ColCmd) (nrep i j : Nat) (ws : List (Nat × Nat × List Byte)) : M Unit := do
  modCmd x c.num fun c => { c with seen := if c.seen.contains (i, j) then c.seen else c.seen ++ [(i, j)],
                                   held := c.held ++ ws.map fun w => (i, w) }
  let c ← getCmd x c
  if (upTo nrep).all fun r => c.seen.contains (i, r) then
    (c.held.filter fun w => w.1 = i).forM fun w => cvaWrite (dieUnit w.2.1) x w.2.2.1 w.2.2.2
    modCmd x c.num fun c => { c with held := c.held.filter fun w => w.1 != i }

/-- The own shard is derived locally and the own piece served to the successor. -/
def agathFirst (x : Nat) (c : ColCmd) (m : List Byte) (h : Shard) (g : Grp) : M Unit := do
  shardIdle x h
  let self := mapSelf m
  let i := mapShard m self
  let v := (← getS).getF (F.colLastappStep x)
  let d ← shardDigest x h 0
  takeTag x c (mapNsh m) i v (leNat d)
  let base := i * wcBytes g h.count
  let n := h.count / mapNrep m
  let mine := mapReplica m self * n
  ((upTo (mapNrep m)).flatMap fun j => transfers (j * n) n).forM fun t => do
    let r ← deriveRun x t.1 h g t.2.1 t.2.2
    gatherPut x c (mapNrep m) i (mapReplica m self)
      [(t.1, c.dst + base + wcElems g t.2.1, r.1),
       (t.1, c.dst + base + wcElems g h.count + wcScales g t.2.1, r.2)]
  if mapG m != 1 then
    (transfers mine n).forM fun t => do
      let r ← deriveRun x t.1 h g t.2.1 t.2.2
      let tag := leBytes 8 v ++ d
      colSend x c m (succOf m self) t.1 (base + wcElems g t.2.1) (tag ++ r.1) false
      if !r.2.isEmpty then
        colSend x c m (succOf m self) t.1 (base + wcElems g h.count + wcScales g t.2.1) (tag ++ r.2) false
  modCmd x c.num fun c => { c with sent := true }

/-- One message: its tag is checked, its bytes written and forwarded. -/
def agathTake (x : Nat) (c : ColCmd) (m : List Byte) (h : Shard) (g : Grp) (msg : ColMsg) : M Unit := do
  let self := mapSelf m
  let sb := wcBytes g h.count
  let i := msg.index / sb
  let rel := msg.index % sb
  let e := if rel < wcElems g h.count then (if g.wcfmt = 2 then rel / 2 else rel) else (rel - wcElems g h.count) * 16
  let n := h.count / mapNrep m
  let data := msg.data.drop 24
  match posOf m (i * mapNrep m + e / n) with
  | none => ctxStop kInvalid (colDetail c.ctag msg.position.val)
  | some p =>
    takeTag x c (mapNsh m) i (fieldAt msg.data 0 8) (fieldAt msg.data 8 16)
    let q := e % n * 4 / n
    gatherPut x c (mapNrep m) i (mapReplica m p) (if i = mapShard m self then [] else [(q, c.dst + msg.index, data)])
    if p != succOf m self then
      colSend x c m (succOf m self) q msg.index msg.data false
      modCmd x c.num fun c => { c with fwd := c.fwd + data.length }
    modCmd x c.num fun c => { c with fill := c.fill + data.length }

/-- A RECORD gather writes its tag record, and the digest ring's entry of another version (09 R252, 10 R287). -/
def agathRecord (x : Nat) (c : ColCmd) (m : List Byte) : M Unit := do
  c.tags.forM fun t =>
    cvaWrite (dieUnit 0) x (c.tagrec + 32 * t.1) (leBytes 8 c.step ++ leBytes 8 t.2.1 ++ leBytes 16 t.2.2)
  match c.tags.head? with
  | none => pure ()
  | some t =>
    let a := ringEntry c (mapNsh m) t.2.1
    let v ← cvaRead (dieUnit 0) x a 8
    if leNat v != t.2.1 then
      cvaWrite (dieUnit 0) x a (leBytes 8 t.2.1)
      c.tags.forM fun t => cvaWrite (dieUnit 0) x (a + 64 + 32 * t.1) (leBytes 16 t.2.2 ++ leBytes 16 0)

/-- The group record in force for a gather or an export of context `x`: that of its last committed update; where
there has been none, the record as it stands, which then stays in force (08 R225, R236; log entry 61). -/
def groupFor (x n : Nat) : M Grp := do
  match tget none (← getS).smithy.groups n with
  | some g => if g.owner = x then return g else readGrp
  | none => readGrp
where
  readGrp : M Grp := do
    let b ← grpBytes n
    if !((← getS).grpOk x b) then ctxStop kInvalid (128 * n)
    setS fun s => { s with smithy.groups := tput none s.smithy.groups n (some (grpOf b)) }
    return grpOf b


def agathRun (x : Nat) (c : ColCmd) : M Bool := do
  let m ← ringMap x c
  let h ← ownShard x c
  let g ← groupFor x h.group
  if !c.sent then agathFirst x c m h g
  (← takeInbox x c).forM fun msg => agathTake x c m h g msg
  let c ← getCmd x c
  let n := wcBytes g (h.count / mapNrep m)
  let done := c.sent && c.fill == (mapG m - 1) * n && c.fwd == (mapG m - 2) * n
  if done && !(bit c.cflags 0) then agathRecord x c m
  return done

/-! ### Exchanges with every other position (10 R284, R285, R288) -/

/-- Every peer's message has arrived: the data by position, in increasing order, with the own. -/
def gathered (m : List Byte) (c : ColCmd) (own : List Byte) (from' : List Nat) : Option (List (List Byte)) :=
  ((upTo (mapG m)).filter fun p => p = mapSelf m ∨ p ∈ from').mapM fun p =>
    if p = mapSelf m then some own
    else (c.inbox.find? fun g => g.position.val = p).map (·.data)

/-- The module's contribution goes to entries of the map once. -/
def exchange (x : Nat) (c : ColCmd) (m : List Byte) (dest : List Nat) (data : List Byte) : M Unit := do
  if !c.sent then
    dest.forM fun p => colSend x c m p 0 0 data false
    modCmd x c.num fun c => { c with sent := true }

/-- The contribution is formed when the command starts; a doomed step contributes a NaN (10 R284, 07 R213). -/
def normStart (x : Nat) (c : ColCmd) : M Unit := do
  let s ← getS
  let k := s.col1 x
  let d := (s.doomOf x (s.stepNo x)).doomed
  let e := { k.ess with nan := k.ess.nan || d }
  setS fun s => s.normFormed x
  setS fun s => s.setCol x { s.col1 x with ess := {}, normed := some c.step }
  modCmd x c.num fun c => { c with ess := e }

def normRun (x : Nat) (c : ColCmd) : M Bool := do
  let m ← ringMap x c
  if !c.sent then normStart x c
  let c ← getCmd x c
  exchange x c m (mapPeers m) c.ess.bytes
  match gathered m c c.ess.bytes (mapPeers m) with
  | none => return false
  | some l =>
    setS fun s => s.setCol x { s.col1 x with q := some (c.step, (essSum (l.map essOf)).toW32) }
    return true

def aredRun (x : Nat) (c : ColCmd) : M Bool := do
  let m ← ringMap x c
  if !c.sent then
    let own ← cvaRead (dieUnit 0) x c.src (4 * c.count)
    modCmd x c.num fun c => { c with kept := own }
  let c ← getCmd x c
  exchange x c m (mapPeers m) c.kept
  match gathered m c c.kept (mapPeers m) with
  | none => return false
  | some l =>
    let r := (upTo c.count).map fun i => match l.map fun b => w32At b (4 * i) with
      | [] => 0#32
      | v :: vs => vs.foldl w32Add v
    cvaWrite (dieUnit 0) x c.dst (r.flatMap w32Bytes)
    return true

/-- The step that was open when a DXCH started has not come to the end of its update: the step is open, or its
update has not closed (10 R288; log entry 31). -/
def State.dxchWaits (s : State) (x : Nat) (c : ColCmd) : Bool :=
  (s.upd x).any (fun u => u.step == c.step) || (s.stepNo x == c.step && decide (c.step < (s.stepRec x).carried))

/-- The own master digest goes into the ring and to the replicas, which compare it (10 R288). -/
def dxchRun (x : Nat) (c : ColCmd) : M Bool := do
  if (← getS).dxchWaits x c then return false
  let m ← ringMap x c
  let h ← ownShard x c
  let self := mapSelf m
  let i := mapShard m self
  let v := (← getS).getF (F.colLastappStep x)
  let peers := (mapPeers m).filter fun p => mapShard m p = i
  if !c.sent then
    shardIdle x h
    let d ← shardDigest x h 16
    modCmd x c.num fun c => { c with kept := d }
    let a := ringEntry c (mapNsh m) v
    if leNat (← cvaRead (dieUnit 0) x a 8) != v then
      cvaWrite (dieUnit 0) x a (leBytes 8 v)
      (upTo (mapNsh m)).forM fun j => cvaWrite (dieUnit 0) x (a + 64 + 32 * j) (leBytes 16 0)
    cvaWrite (dieUnit 0) x (a + 80 + 32 * i) d
  let c ← getCmd x c
  exchange x c m peers c.kept
  let c ← getCmd x c
  c.inbox.forM fun g =>
    if g.data != c.kept then throw (.fault clsContext kIntegrity 0 (colDetail self g.position.val) none) else pure ()
  return peers.all fun p => c.inbox.any fun g => g.position.val = p

/-! ### MSWAP (10 R272, R274) -/

/-- The check of a map. -/
def State.mapOk (s : State) (x : Nat) (m : List Byte) : Bool :=
  let g := mapG m
  let kind := mapKind m
  let ring := decide (kind < 3)
  let dp := decide (kind < 2)
  let es := upTo g
  let conn := fun p q =>
    let cn := mapConn m p q
    if ring && p == mapSelf m then cn == 0xFFFFFFFF
    else (s.connOf x cn).isSome && slotDie cn == q && bit (mapPorts m) (slotPort cn (s.slot cn).conn)
  decide (kind ≤ 3) && decide (1 ≤ g) && decide (g ≤ if ring then 64 else 15)
    && (if ring then decide (mapSelf m < g) else mapSelf m == 0)
    && (if dp then mapNsh m * mapNrep m == g else mapNsh m == 0 && mapNrep m == 0)
    && zeroAt m 5 3 && zeroAt m 20 44
    && es.all (fun p => zeroAt m (64 + 32 * p + 19) 13 && (upTo 4).all (conn p)
      && (!dp || (decide (mapShard m p < mapNsh m) && decide (mapReplica m p < mapNrep m)
        && es.all fun r => r == p || pieceOf m r != pieceOf m p)))

/-- Traffic of the replaced pipeline map is in flight (09 R265). -/
def State.pipeBusy (s : State) (x : Nat) : Bool :=
  (s.slotsOf x).any fun e => (e.2.unacked ++ e.2.queued).any fun t => match t.owner with
    | .queue _ _ => true
    | .credit _ => true
    | _ => false

def mswapRun (x : Nat) (c : ColCmd) : M Bool := do
  let m ← mapRead x (c.src % 8)
  let ring := mapKind m != 3
  if !ring && (← getS).pipeBusy x then return false
  if !c.sent then
    if !((← getS).mapOk x m) then ctxStop kInvalid (c.src % 8)
    (mapPeers m).forM fun p => colSend x c m p 0 0 [] false
    modCmd x c.num fun c => { c with sent := true }
  let k := (← getS).col1 x
  let here := fun (a : Arrival) => a.mapid == mapId m && a.gen == mapGen m
  if (mapPeers m).all fun p => k.arrivals.any fun a => here a && a.position == p then
    setS fun s =>
      let s := s.setCol x { k with arrivals := k.arrivals.filter fun a => !(here a) }
      let s := if ring then (s.setF (F.colCtlRslot x) (c.src % 8)).setB (F.colCtlRvalid x) true
        else (s.setF (F.colCtlPslot x) (c.src % 8)).setB (F.colCtlPvalid x) true
      s.incF F.colSwaps 1
    return true
  else return false

/-! ### Abort exchange (10 R289) -/

/-- The command belongs to a doomed step of a context that aborts early. -/
def State.aborts (s : State) (x : Nat) (c : ColCmd) : Bool :=
  (c.op == 1 || c.op == 2 || c.op == 4) && c.step == s.stepNo x && s.suppressed x

/-- What an abort exchange leaves undefined: GRAD in its shard's space, DST, the tag record and the digest ring's
entry (10 R289; log entry 2). -/
def abortSpans (x : Nat) (c : ColCmd) (m : List Byte) : M (List (Option Shard × Nat × Nat)) := do
  if c.op = 4 then return [(none, c.dst, 4 * c.count)]
  let h ← ownShard x c
  if c.op = 1 then return [(some h, h.grad, 2 * h.count)]
  let g ← groupFor x h.group
  let v := (← getS).getF (F.colLastappStep x)
  return [(none, c.dst, mapNsh m * wcBytes g h.count)] ++ (if bit c.cflags 0 then [] else
    [(none, c.tagrec, 32 * mapNsh m), (none, ringEntry c (mapNsh m) v, 64 + 32 * mapNsh m)])

/-- Those bytes take free values, as far as they can be written. -/
def State.abortBytes (s : State) (x : Nat) (c : ColCmd) (m : List Byte) : State :=
  match (abortSpans x c m).go s with
  | (.error _, _) => s
  | (.ok l, s) => l.foldl (fun s p =>
      let r := s.freshBytes p.2.2
      match (match p.1 with
        | some h => shWrite 0 x h p.2.1 r.1
        | none => cvaWrite (dieUnit 0) x p.2.1 r.1).go r.2 with
      | (.ok _, s) => s
      | (.error _, _) => s) s

/-- One round of markers: one is sent to each entry that would be sent data and one awaited from each that
sends data. -/
def abortRun (x : Nat) (c : ColCmd) : M Bool := do
  let m ← ringMap x c
  let self := mapSelf m
  let ring := c.op != 4
  let dest := if mapG m = 1 then [] else if ring then [succOf m self] else mapPeers m
  let from' := if mapG m = 1 then [] else if ring then [predOf m self] else mapPeers m
  if !c.aborting then
    dest.forM fun p => colSend x c m p 0 0 [] true
    modCmd x c.num fun c => { c with aborting := true, inbox := [] }
  if from'.all fun p => c.marks.contains p then
    setS fun s => s.abortBytes x c m
    return true
  else return false

/-! ### Starting and completing (10 R276, R277) -/

/-- Fields of an entry lie in range for its operation (10 R277). -/
def State.colFieldsOk (s : State) (x : Nat) (c : ColCmd) : Bool :=
  let z := fun (ops : List Nat) (v : Nat) => ops.contains c.op || v == 0
  decide (1 ≤ c.op) && decide (c.op ≤ 6) && c.rsv == 0 && decide (c.cflags < 16) && (!(bit c.cflags 0) || c.op == 2) && (!(bit c.cflags 1) || c.op == 1)
    && (!(bit c.cflags 3) || c.op == 1)
    && (c.sigsem == 0xFFFF || (s.semUsable c.sigsem x && c.sigval != 0))
    && z [1] c.tslot && z [1, 4, 6] c.src && z [2, 4] c.dst && z [1, 2, 4] c.count && z [2] c.tagrec
    && z [1, 2, 5] c.shardAt && z [2, 5] c.dring
    && [c.dst, c.tagrec, c.shardAt, c.dring].all (· % 64 == 0)
    && (if c.op = 6 then decide (c.src < 8) else c.src % 64 == 0)
    && (c.op != 4 || (decide (1 ≤ c.count) && decide (c.count ≤ 16)))

/-- The checks of a command at its start; it sends nothing when one fails. -/
def colStart (x : Nat) (c : ColCmd) : M Unit := do
  let s ← getS
  if !(s.colFieldsOk x c) then colBad c
  if c.op != 6 then
    let m ← ringMap x c
    if c.op = 1 then
      let h ← ownShard x c
      if c.count = 0 || c.count % mapG m != 0 || c.piece m % 64 != 0 || h.count != mapNrep m * c.piece m then colBad c
      if !(s.slotOk c.tslot x) then ctxStop kEncoding c.ctag
    if c.op = 2 then
      let h ← ownShard x c
      let _ ← groupFor x h.group
      if c.count != mapNsh m * h.count || h.count % mapNrep m != 0 || h.count / mapNrep m % 64 != 0 then colBad c
    if c.op = 5 then
      let _ ← ownShard x c
      pure ()
  modCmd x c.num fun c => { c with started := true, step := s.stepNo x }
  if c.op = 1 then setS fun s => s.carry x (s.stepNo x)

/-- A command may start: earlier ones have started and no swap of them runs; a barrier, NORM or MSWAP waits
for all of them. -/
def State.colMayStart (s : State) (x : Nat) (c : ColCmd) : Bool :=
  let before := (s.col1 x).cmds.takeWhile fun d => d.num != c.num
  before.all (fun d => d.started && d.op != 6)
    && (before.isEmpty || !(bit c.cflags 2 || c.op == 3 || c.op == 6))

/-- What a command can do now; true when it is complete. -/
def colStep (x : Nat) (c : ColCmd) : M Bool := do
  if !c.started then colStart x c
  let c ← getCmd x c
  if c.aborting || (← getS).aborts x c then abortRun x c
  else match c.op with
    | 1 => rscatRun x c
    | 2 => agathRun x c
    | 3 => normRun x c
    | 4 => aredRun x c
    | 5 => dxchRun x c
    | _ => mswapRun x c

/-- The unit waits on GOSEM while ENABLE = 1 and fewer than four commands are in flight (10 R276; log entry 59). -/
def State.colJoin (s : State) (x : Nat) : State :=
  if s.flag (F.colCtlEnable x) && s.alive x && decide ((s.col1 x).cmds.length < 4) then
    s.unitJoin (s.getF (F.colCtlGosem x)) (.coll x)
  else s

/-- A command of a reserved operation whose turn has come faults the context as it starts (10 R277). -/
def State.colNext (s : State) (x : Nat) : State :=
  match (s.col1 x).cmds.find? fun c => !c.started with
  | some c =>
    if (c.op = 0 ∨ 6 < c.op) ∧ s.colMayStart x c ∧ !(s.preempted x) then s.ctxFault x 0 uColl kInvalid 0 c.addr else s
  | none => s

/-- A command completes: it leaves the table and SIGSEM is signalled; the unit waits for the next. -/
def State.colDone (s : State) (x : Nat) (c : ColCmd) : State :=
  let aborted := (s.colCmd x c.num).any (·.aborting)
  let l := (s.col1 x).cmds.filter fun d => d.num != c.num
  let s := s.incF F.colCmds 1
  let s := if aborted then s.incF F.colAborts 1 else s
  let s := (s.setCol x { s.col1 x with cmds := l }).setF (F.colCtlInflight x) l.length
  let s := if c.sigsem = 0xFFFF then s
    else match s.semSignal c.sigsem c.sigval with
      | some s => s
      | none => s.ctxFault x 0 uColl kOverflow 0 c.sigsem
  ((s.colJoin x).colNext x).settle

/-- Progress of the command of a ring position; what must wait leaves the state as it was. -/
def State.colRun (s : State) (x num : Nat) : State :=
  match s.colCmd x num with
  | none => s
  | some c =>
    if !(s.alive x) || s.preempted x || !(c.started || s.colMayStart x c) then s else
    match (colStep x c).go s with
    | (.ok true, s) => s.colDone x c
    | (.ok false, s) => s
    | (.error (.fault cl k su d u), s) => s.stopFault x 0 uColl none (.fault cl k su d u)
    | (.error (.touch y k), _) => s.touch y k
    | (.error _, _) => s

/-- Progress of the first command of an operation with a tag. -/
def State.colRunOp (s : State) (x tag op : Nat) : State :=
  let s := s.colNext x
  match (s.col1 x).cmds.find? fun c => c.ctag = tag ∧ c.op = op with
  | some c => s.colRun x c.num
  | none => s

/-! ### Commands -/

/-- The fields of an entry consumed at ring position `num` (10 R277). -/
def colCmdOf (num a : Nat) (b : List Byte) : ColCmd :=
  let f := fieldAt b
  { num := num, addr := a, op := f 0 1, rsv := f 2 2, cflags := f 1 1, sigsem := f 4 2, tslot := f 6 2,
    sigval := f 8 4, ctag := f 12 4, src := f 16 8, dst := f 24 8, count := f 32 8, tagrec := f 40 8,
    shardAt := f 48 8, dring := f 56 8, started := false, step := 0, sent := false, aborting := false,
    inbox := [], marks := [], own := 0, fill := 0, fwd := 0, rep := {}, ess := {}, tags := [], seen := [],
    held := [], kept := [] }

/-- CVA of the ring entry at HEAD (10 R276). -/
def State.colEntryAt (s : State) (x : Nat) : Nat :=
  64 * s.getF (F.colRingAddr x) + 64 * (s.getF (F.colHeadHead x) % 2 ^ s.getF (F.colCtlLog2size x))

/-- A grant of GOSEM makes the unit read the entry at HEAD (10 R276). -/
def execCollectiveFetch (ctx : Fin 256) (s : State) : Host.Outcome State Fault Refusal :=
  work s fun s =>
    let x := ctx.val
    let s := (s.colJoin x).settle
    if !(s.alive x) || s.preempted x then s else
    match s.unitTake (.coll x) with
    | none => s
    | some t =>
      let a := t.colEntryAt x
      match (cvaRead (dieUnit 0) x a 64).go (t.incF (F.colHeadHead x) 1) with
      | (.error (.fault c k su d u), t) => t.stopFault x 0 uColl none (.fault c k su d u)
      | (.error _, _) => s
      | (.ok b, s) =>
        let k := s.col1 x
        let l := k.cmds ++ [colCmdOf (t.getF (F.colHeadHead x)) a b]
        ((((s.setCol x { k with cmds := l }).setF (F.colCtlInflight x) l.length).colJoin x).colNext x).settle

def execRscat (ctx : Fin 256) (ctag : BitVec 32) (s : State) : Host.Outcome State Fault Refusal :=
  work s fun s => s.colRunOp ctx.val ctag.toNat 1
def execAgath (ctx : Fin 256) (ctag : BitVec 32) (s : State) : Host.Outcome State Fault Refusal :=
  work s fun s => s.colRunOp ctx.val ctag.toNat 2
def execNorm (ctx : Fin 256) (ctag : BitVec 32) (s : State) : Host.Outcome State Fault Refusal :=
  work s fun s => s.colRunOp ctx.val ctag.toNat 3
def execAred (ctx : Fin 256) (ctag : BitVec 32) (s : State) : Host.Outcome State Fault Refusal :=
  work s fun s => s.colRunOp ctx.val ctag.toNat 4
def execDxch (ctx : Fin 256) (ctag : BitVec 32) (s : State) : Host.Outcome State Fault Refusal :=
  work s fun s => s.colRunOp ctx.val ctag.toNat 5
def execMswap (ctx : Fin 256) (ctag : BitVec 32) (s : State) : Host.Outcome State Fault Refusal :=
  work s fun s => s.colRunOp ctx.val ctag.toNat 6

/-- Slots of a context whose record carries a map identifier. -/
def State.mapNamed (s : State) (x mapid : Nat) : Bool :=
  (upTo 8).any fun k => match (mapRead x k).go s with
    | (.ok m, _) => mapId m == mapid
    | (.error _, _) => false

/-- An arrival is kept, and a swap that waited for it goes on (10 R274). One that names no map is refused. -/
def State.arrival (s : State) (x mapid gen p : Nat) : State :=
  let k := s.col1 x
  let s := s.setCol x { k with arrivals := k.arrivals ++ [⟨mapid, gen, p⟩] }
  match k.cmds.find? fun c => c.op = 6 ∧ c.started with
  | some c => s.colRun x c.num
  | none => s

def execMapArrival (ctx : Fin 256) (mapid gen : BitVec 32) (position : Fin 64) (s : State) :
    Host.Outcome State Fault Refusal :=
  work s fun s =>
    let x := ctx.val
    if !(s.alive x) || s.preempted x || !(s.mapNamed x mapid.toNat) then s
    else s.arrival x mapid.toNat gen.toNat position.val

/-- What the receiving unit does with a message (10 R278, R291). -/
inductive Admit where
  | busy | access | fault | take
  deriving DecidableEq, Repr

/-- Trust vectors travel under COP 0x03 with a COUNT (10 R284; log entry 31). -/
def isTrust (m : ColMsg) : Bool := m.op == 3 && m.count != 0

/-- An update of the context waits for trust vectors of this step, or may yet. -/
def State.trustOpen (s : State) (x tag : Nat) : Bool :=
  match s.upd x with
  | some u => u.phase = .applied && u.step % 2 ^ 32 == tag && u.trustOwn.isSome
  | none => false

/-- A started command has this CTAG. -/
def State.colStarted (s : State) (x tag : Nat) : Bool := (s.col1 x).cmds.any fun c => c.started && c.ctag == tag

/-- The started command that a message is for: equal CTAG, OP and COUNT, and the active map's MAPID and GEN. -/
def State.colFor (s : State) (x : Nat) (m : ColMsg) : Option ColCmd :=
  (s.col1 x).cmds.find? fun c => c.started && c.ctag == m.ctag.toNat && c.op == m.op.toNat && c.count == m.count
    && match (ringMap x c).go s with
      | (.ok r, _) => mapId r == m.mapid.toNat && mapGen r == m.gen.toNat
      | (.error _, _) => false

def State.colAdmit (s : State) (x : Nat) (m : ColMsg) : Admit :=
  if !(s.alive x) then .access
  else if s.preempted x then .busy
  else if isTrust m then (if s.trustOpen x m.ctag.toNat then .take else .busy)
  else if !(s.colStarted x m.ctag.toNat) then .busy
  else if (s.colFor x m).isSome then .take else .fault

/-- A message is taken: a trust vector, an abort marker, or data for the command (10 R278, R284, R289). -/
def State.colTake (s : State) (x : Nat) (m : ColMsg) : State :=
  if isTrust m then
    match s.upd x with
    | some u => s.setUpd x (some { u with trustIn := u.trustIn.filter (fun e => e.1 != m.position.val)
                                            ++ [(m.position.val, m.data)] })
    | none => s
  else
    match s.colFor x m with
    | none => s
    | some c =>
      let n := c.num
      if !m.abort then (s.modCmd x n fun c => if c.aborting then c else { c with inbox := c.inbox ++ [m] }).colRun x n
      else
        let s := s.doomByPeer x
        if c.op != 1 && c.op != 2 && c.op != 4 then s else
        let s := s.modCmd x n fun c => { c with marks := c.marks ++ [m.position.val] }
        match (abortRun x { c with marks := c.marks ++ [m.position.val] }).go s with
        | (.ok true, s) => s.colDone x c
        | (.ok false, s) => s
        | (.error (.fault cl k su d u), s) => s.stopFault x 0 uColl none (.fault cl k su d u)
        | (.error _, _) => s

/-- A mismatch faults the context, naming CTAG and position (10 R278; log entry 30). -/
def State.colMismatch (s : State) (x : Nat) (m : ColMsg) : State :=
  s.ctxFault x 0 uColl kInvalid 0 (colDetail m.ctag.toNat m.position.val)

def execCollectivePacket (ctx : Fin 256) (m : ColMsg) (s : State) : Host.Outcome State Fault Refusal :=
  work s fun s =>
    let x := ctx.val
    match s.colAdmit x m with
    | .take => s.colTake x m
    | .fault => s.colMismatch x m
    | _ => s

/-- The position from which a command awaits something, the module's own where it awaits none. -/
def State.colAwaits (s : State) (x : Nat) (c : ColCmd) : Nat :=
  match (if c.op = 6 then mapRead x (c.src % 8) else ringMap x c).go s with
  | (.error _, _) => 0
  | (.ok m, _) =>
    let self := mapSelf m
    let pred := predOf m self
    let quiet := fun p => !(c.inbox.any fun g => g.position.val == p)
    let due : List Nat :=
      if c.aborting then ((if c.op = 4 then mapPeers m else [pred]).filter fun p => !(c.marks.contains p))
      else if c.op = 1 then
        (if c.own = c.piece m ∧ c.fwd = (mapG m - 2) * c.piece m then
          (mapPeers m).filter fun p => mapShard m p = mapShard m self else [pred])
      else if c.op = 2 then [pred]
      else if c.op = 5 then (mapPeers m).filter fun p => mapShard m p = mapShard m self ∧ quiet p
      else if c.op = 6 then (mapPeers m).filter fun p =>
        !((s.col1 x).arrivals.any fun a => a.mapid == mapId m && a.gen == mapGen m && a.position == p)
      else (mapPeers m).filter quiet
    due.headD self

/-- No progress for STALL ms while resident: the command faults its context, naming CTAG and position (10 R278,
R291; log entry 30). -/
def execCollectiveStall (ctx : Fin 256) (ctag : BitVec 32) (s : State) : Host.Outcome State Fault Refusal :=
  work s fun s =>
    let x := ctx.val
    match (s.col1 x).cmds.find? fun c => c.ctag = ctag.toNat ∧ c.started with
    | some c =>
      if s.resident x then s.ctxFault x 0 uColl kTimeout 0 (colDetail c.ctag (s.colAwaits x c)) else s
    | none => s

end Sys2Proof.Machine
end

