-- ==== Sys2Proof/Machine/Rmt.lean ====
section
/-! DEFINITION. Received RMT packets, in the order of their checks: connections, sequence, keys, the
operations, acknowledgements and responses; and the timers of a connection (11 R296–R326). -/
namespace Sys2Proof.Machine

/-! ### Halts that fail their users (11 R304, 09 R264, 10 R290) -/

/-- A started command needs the connection of slot `k`: the entry it reaches. -/
def State.colNeeds (s : State) (x k : Nat) (c : ColCmd) : Option Nat :=
  if !c.started then none else
  match (if c.op = 6 then mapRead x (c.src % 8) else ringMap x c).go s with
  | (.error _, _) => none
  | (.ok m, _) =>
    let self := mapSelf m
    (mapPeers m).find? fun p =>
      let q := slotDie k
      mapConn m p q == k && (match c.op with
        | 1 => p == succOf m self || p == predOf m self || mapShard m p == mapShard m self
        | 2 => p == succOf m self || p == predOf m self
        | 5 => q == 0 && mapShard m p == mapShard m self
        | _ => q == 0)

/-- Started commands that need a connection fault their context, as do the users of its packets (10 R290). -/
def State.usersEnd (s : State) (k : Nat) (v : RmtSlot) (cs : List (Nat × Nat)) (sems : List (Nat × Nat)) : State :=
  match cs with
  | [] => ((s.overflowed k sems).usersFail v).settle
  | (tag, p) :: _ => ((s.overflowed k sems).ctxFault v.conn.owner 0 uColl kHalt 0 (colDetail tag p)).usersFail v

/-- CTAG and entry of the started commands that need the connection of slot `k`. -/
def State.colUsers (s : State) (x k : Nat) : List (Nat × Nat) :=
  (s.col1 x).cmds.filterMap fun c => (s.colNeeds x k c).map fun p => (c.ctag, p)

/-- A slot halts; a stage queue or a collective that cannot complete its work faults its context. -/
def State.haltFull (s : State) (k cause : Nat) : State :=
  let v := s.slot k
  if v.st != .opened && v.st != .closing then s else
  let cs := s.colUsers v.conn.owner k
  let r := s.haltSlot k cause none
  r.1.usersEnd k v cs r.2

/-- An OPEN or CLOSING slot becomes FREE with packets unacknowledged: their credits go back, and what they belong
to ends as in a halt (11 R302). -/
def State.closeFull (s : State) (k : Nat) : State :=
  let v := s.slot k
  let cs := s.colUsers v.conn.owner k
  let r := (((s.dropRx k).creditBack k v.unacked).freeSlot k).cmdsEnd v 3
  (r.1.usersEnd k v cs r.2).pumpDie (slotDie k)

/-! ### The key caches (11 R321) -/

def State.keyCache (s : State) (d : Nat) : List KeyC := tget [] s.rmt.keys d
def State.setKeys (s : State) (d : Nat) (l : List KeyC) : State :=
  ({ s with rmt.keys := tput [] s.rmt.keys d l }).setF (F.rmtCacheKeys d) l.length
def State.keyWaits (s : State) (d : Nat) : List Packet := tget [] s.rmt.keyWait d
def State.setKeyWaits (s : State) (d : Nat) (l : List Packet) : State :=
  { s with rmt.keyWait := tput [] s.rmt.keyWait d l }

/-- Room for one more key record: the least recently used entry without references leaves a full cache;
none when every entry is pinned. -/
def keyRoom (l : List KeyC) : Option (List KeyC) :=
  if l.length < 8192 then some l
  else match (l.reverse.find? fun c => c.refs = 0) with
    | some c => some (l.erase c)
    | none => none

/-! ### The form of a packet (11 R297–R301) -/

/-- Opcode and subcode are defined. -/
def opKnown (o sub : Nat) : Bool :=
  if o = opAtomic then decide (1 ≤ sub) && decide (sub ≤ 3)
  else if o = opReduceWrite then decide (1 ≤ sub) && decide (sub ≤ 2)
  else if o = opNak then decide (1 ≤ sub) && decide (sub ≤ 3)
  else sub == 0 && [opWrite, opWriteNotify, opReadReq, opReadResp, opAtomicResp, opAck, opOpen, opOpenAck, opHalt,
    opClose].contains o

/-- Requests take PSNs; the others answer them or manage the connection. -/
def isRequest (o : Nat) : Bool := [opWrite, opWriteNotify, opReadReq, opAtomic, opReduceWrite].contains o
def isWrite (o : Nat) : Bool := o == opWrite || o == opWriteNotify || o == opReduceWrite
/-- The packet begins a message. -/
def pktFirst (p : Packet) : Bool := p.first || p.opc.toNat == opReadReq || p.opc.toNat == opAtomic
def pktLast (p : Packet) : Bool := p.last || p.opc.toNat == opReadReq || p.opc.toNat == opAtomic

def axhOk (o sub : Nat) (p : Packet) (a : Axh) : Bool :=
  a.reserved == 0 && a.length != 0 && (if o = opWriteNotify then a.imm != 0 else a.imm == 0)
    && (o != opAtomic || (a.length.toNat == 8 && (sub == 2 || p.opnd1 == 0)))

/-- No reserved code or field, every header the opcode takes, and a payload of its kind. The upper bound of
the payload is the connection's. -/
def pktForm (p : Packet) : Bool :=
  let o := p.opc.toNat
  let sub := p.sub.toNat
  let n := p.payload.length
  opKnown o sub && p.ver == 0x10 && p.flagsRest == 0
    && (isRequest o || o == opReadResp || o == opAtomicResp || p.psn == 0)
    && (o == opAck || o == opNak || p.apsn == 0)
    && (if p.hasCxh then o == opWrite && p.axh.isNone
          && (match p.cxh with | some c => c.reserved == 0 && decide (c.cxflags.toNat < 2) | none => false)
        else p.cxh.isNone && (if isRequest o && pktFirst p then
            (match p.axh with | some a => axhOk o sub p a | none => false) else p.axh.isNone))
    && (if isWrite o then decide (1 ≤ n) || p.hasCxh
        else if o = opReadResp then decide (1 ≤ n)
        else if o = opAtomicResp then n == 8
        else if o = opOpen ∨ o = opOpenAck ∨ o = opHalt ∨ o = opClose then n == 4 else n == 0)

/-- The payload fits the connection: whole packets but the last (11 R301). -/
def payloadOk (v : RmtSlot) (p : Packet) : Bool :=
  if isWrite p.opc.toNat ∨ p.opc.toNat = opReadResp then
    if p.last then decide (p.payload.length ≤ v.conn.pmtu) else p.payload.length == v.conn.pmtu
  else true

/-! ### Answers -/

/-- RMT frames in the receive buffer of a slot's port hold at least a threshold of KiB (11 R323, R324; 12 R341). -/
def State.filled (s : State) (k kib : Nat) : Bool :=
  decide (kib * 1024 ≤ ((s.portSt (slotPort k (s.slot k).conn)).frames.filter (!·.exc)).foldl (fun n f => n + f.len) 0)

/-- A packet as it arrives: it counts as marked with CE, or when its port holds RMT frames to the marking
threshold (11 R323; log entry 63). -/
def State.mark (s : State) (d : Nat) (p : Packet) : Packet :=
  { p with ce := p.ce || (slotDie p.dcn.toNat == d && s.filled p.dcn.toNat (s.getF (F.rmtBufMarkth d))) }

/-- An ACK for everything before E (11 R309). -/
def State.sendAck (s : State) (k : Nat) (ece : Bool) : State :=
  let v := s.slot k
  if v.st != .opened && v.st != .closing then s else
  let s := s.sendPkt k { packet0 opAck 0 with
    apsn := BitVec.ofNat 32 (v.expect + 2 ^ 32 - 1), ece := ece || v.owedEce }
  s.setSlot k { s.slot k with owed := 0, owedEce := false }

def State.sendNak (s : State) (k sub : Nat) (ece : Bool) : State :=
  s.sendPkt k { packet0 opNak sub with apsn := BitVec.ofNat 32 (s.slot k).expect, ece := ece }

def State.nakBusy (s : State) (k : Nat) (ece : Bool) : State :=
  let s := (s.incF (F.rmtCtr7 (slotDie k)) 1).sendNak k 2 ece
  s.setSlot k { s.slot k with busy := true }

/-- NAK ACCESS, and the connection halts (11 R304, R316). -/
def State.nakAccess (s : State) (k : Nat) (ece : Bool) : State :=
  ((s.incF (F.rmtCtr9 (slotDie k)) 1).sendNak k 3 ece).haltFull k haltNakSent

/-! ### Keys (11 R316, R317) -/

inductive KeyView where
  | fetch | busy | access
  | ok (c : KeyC)

/-- Bytes of the target of a request (11 R311). -/
def targetLen (o sub len : Nat) : Nat := if o = opReduceWrite ∧ sub = 2 then 2 * len else len

def rightsOk (r o : Nat) : Bool :=
  if o = opWrite then bit r 1 else if o = opWriteNotify then bit r 1 && bit r 4
  else if o = opReadReq then bit r 0 else if o = opAtomic then bit r 2 else bit r 3

def alignOk (o sub : Nat) (a : Axh) : Bool :=
  if o = opAtomic then a.offset.toNat % 8 == 0
  else if o = opReduceWrite then a.offset.toNat % 4 == 0 && a.length.toNat % (if sub = 2 then 2 else 4) == 0
  else true

def State.keyView (s : State) (k o sub : Nat) (a : Axh) : KeyView :=
  let d := slotDie k
  let index := a.key.toNat % 2 ^ 20
  match (s.keyCache d).find? fun c => c.index = index with
  | none => if (keyRoom (s.keyCache d)).isSome then .fetch else .busy
  | some c =>
    let b := c.bytes
    let scope := fieldAt b 24 4
    if kState b = 1 ∧ kGen b = a.key.toNat / 2 ^ 20 ∧ kOwner b = (s.slot k).conn.owner
      ∧ (scope = 0xFFFFFFFF ∨ scope = slotCn k) ∧ rightsOk (fieldAt b 17 1) o
      ∧ a.offset.toNat + targetLen o sub a.length.toNat ≤ fieldAt b 8 8 ∧ alignOk o sub a then .ok c
    else .access

/-- A key's entry becomes the most recent one, with one more reference or the same. -/
def State.keyUse (s : State) (d : Nat) (c : KeyC) (n : Nat) : State :=
  s.setKeys d ({ c with refs := c.refs + n } :: (s.keyCache d).filter fun e => e.index != c.index)

/-! ### Operations (11 R311–R313) -/

/-- Elements added into the target in W32. -/
def reduceInto (unit x a sub : Nat) (data : List Byte) : M Unit := do
  let xs := if sub = 2 then (upTo (data.length / 2)).map fun i => toW32 (srcPlain .kw16 (fieldAt data (2 * i) 2))
    else (upTo (data.length / 4)).map fun i => w32At data (4 * i)
  let old ← cvaRead unit x a (4 * xs.length)
  cvaWrite unit x a (((upTo xs.length).zip xs).flatMap fun p => w32Bytes (w32Add (w32At old (4 * p.1)) p.2))

/-- One atomic on 8 bytes of HBM: the original value. -/
def atomicOn (unit x a sub : Nat) (o0 o1 : Word64) : M Word64 := do
  match ← translate unit x a true with
  | .comp _ => tFault a
  | .hbm set off =>
    let old := BitVec.ofNat 64 (leNat (← hbmRead (some x) set off 8))
    let new := if sub = 1 then old + o0 else if sub = 2 then (if old = o0 then o1 else old) else o0
    hbmWrite (some x) set off (leBytes 8 new.toNat)
    return old

/-- The notification of a message: a signal that would overflow makes a record (11 R313). -/
def State.notify (s : State) (k : Nat) (c : KeyC) (imm : Nat) : State :=
  let n := fieldAt c.bytes 20 2
  let x := kOwner c.bytes
  match (if s.semUsable n x then s.semSignal n imm else none) with
  | some s => s
  | none => s.record clsContext (slotDie k) uRmt kOverflow 0 (some x) none n

/-- READ_RESP packets of a read (11 R307). -/
def State.sendReads (s : State) (k psn : Nat) (bs : List Byte) : State :=
  let p := (s.slot k).conn.pmtu
  let n := (bs.length + p - 1) / p
  (upTo n).foldl (fun s i => s.sendPkt k { packet0 opReadResp 0 with
    first := i == 0, last := i + 1 == n, psn := BitVec.ofNat 32 (psn + i), payload := slice bs (i * p) p }) s

def State.sendAtomic (s : State) (k psn : Nat) (v : Word64) : State :=
  s.sendPkt k { packet0 opAtomicResp 0 with
    first := true, last := true, psn := BitVec.ofNat 32 psn, payload := leBytes 8 v.toNat }

/-- How a request ended: handled, it must wait and nothing of it has happened, or its packet is dropped without
effect. -/
inductive Req where
  | done (s : State)
  | wait (s : State)
  | drop (s : State)

/-- A request's packet has been processed: E and the owed acknowledgements (11 R307, R309). -/
def State.reqDone (s : State) (k : Nat) (p : Packet) (npsn : Nat) : State :=
  let v := s.slot k
  let s := s.setSlot k { v with expect := (v.expect + npsn) % 2 ^ 32, gap := false, busy := false,
                                owed := v.owed + 1, owedEce := v.owedEce || p.ce }
  if pktLast p || p.areq || decide (16 ≤ v.owed + 1) then s.sendAck k false else s

/-- What an access of a request that stopped leads to. -/
def State.reqStop (s0 s : State) (k : Nat) (p : Packet) (e : Stop) : Req :=
  match e with
  | .fault c kd su d u =>
    if kd = kTranslation ∨ kd = kBounds then .done (s.nakAccess k p.ce)
    else if e.isDomain then .done (s.haltFull k haltDomain)
    else .drop (s.stopFault (s.slot k).conn.owner (slotDie k) uRmt none (.fault c kd su d u))
  | .touch y key => .wait (s0.touch y key)
  | .wait => .wait s0
  | .linkDown => .drop s0

/-- A packet of the open message of its slot: its effect, and the end of the message. -/
def State.applyWrite (s : State) (k : Nat) (p : Packet) (m : RxMsg) : Req :=
  let d := slotDie k
  let x := (s.slot k).conn.owner
  let n := p.payload.length
  if p.opc.toNat != m.opc || decide (m.left < n) || p.last != (m.left == n) then .done (s.incF (F.rmtCtr12 d) 1)
  else
    let eff := if m.opc = opReduceWrite then reduceInto (dieUnit d) x m.next m.sub p.payload
      else cvaWrite (dieUnit d) x m.next p.payload
    match eff.go s with
    | (.error e, s') => s.reqStop s' k p e
    | (.ok _, s) =>
      let s := s.setSlot k { s.slot k with
        rx := some { m with next := m.next + targetLen m.opc m.sub n, left := m.left - n } }
      let key := (s.keyCache d).find? fun c => some c.index = m.key
      let s := if !p.last then s else
        let s := match key with
          | some c => if m.opc = opWriteNotify then s.notify k c m.imm else s
          | none => s
        s.dropRx k
      .done (s.reqDone k p 1)

/-- A read of a message that holds its reference: the responses go out and the message ends. -/
def State.readNow (s : State) (k : Nat) (p : Packet) (m : RxMsg) : Req :=
  let v := s.slot k
  match (cvaRead (dieUnit (slotDie k)) v.conn.owner m.next m.left).go s with
  | (.error e, s') => s.reqStop s' k p e
  | (.ok bs, s) =>
    .done (((s.sendReads k p.psn.toNat bs).dropRx k).reqDone k p ((m.left + v.conn.pmtu - 1) / v.conn.pmtu))

/-- An atomic of a message that holds its reference: it is logged and answered, and the message ends (11 R308). -/
def State.atomicNow (s : State) (k : Nat) (p : Packet) (m : RxMsg) : Req :=
  match (atomicOn (dieUnit (slotDie k)) (s.slot k).conn.owner m.next m.sub p.opnd0 p.opnd1).go s with
  | (.error e, s') => s.reqStop s' k p e
  | (.ok old, s) =>
    let s := s.setSlot k { s.slot k with alog := ((p.psn.toNat, old) :: (s.slot k).alog).take 16 }
    .done (((s.sendAtomic k p.psn.toNat old).dropRx k).reqDone k p 1)

/-- The effect of the next packet of a message. A FIRST packet that must wait keeps the message's reference (05
R133, 11 R316); one that is dropped begins no message. -/
def State.reqEffect (s : State) (k : Nat) (p : Packet) (m : RxMsg) : Req :=
  let r := if m.opc = opReadReq then s.readNow k p m else if m.opc = opAtomic then s.atomicNow k p m
    else s.applyWrite k p m
  match r with
  | .done t => .done t
  | .wait t => .wait (t.setSlot k { t.slot k with rx := some { m with waiting := pktFirst p } })
  | .drop t => .done (if pktFirst p then t.dropRx k else t)

/-- The message that a FIRST packet begins under a key. -/
def rxOf (p : Packet) (c : KeyC) (a : Axh) : RxMsg :=
  { opc := p.opc.toNat, sub := p.sub.toNat, key := some c.index, next := fieldAt c.bytes 0 8 + a.offset.toNat,
    left := a.length.toNat, imm := a.imm.toNat, cxh := none, buf := [] }

/-- A request whose PSN is expected and that is no collective packet (11 R305, R316, R317). -/
def State.reqKeyed (s : State) (k : Nat) (p : Packet) : Req :=
  let d := slotDie k
  let v := s.slot k
  match p.axh, pktFirst p, v.rx with
  | some a, true, none =>
    match s.keyView k p.opc.toNat p.sub.toNat a with
    | .fetch => .wait s
    | .busy => .done (s.nakBusy k p.ce)
    | .access => .done (s.nakAccess k p.ce)
    | .ok c => ((s.keyUse d c 1).setSlot k { v with rx := some (rxOf p c a) }).reqEffect k p (rxOf p c a)
  | some _, true, some m =>
    if m.waiting then s.reqEffect k p { m with waiting := false } else .done (s.incF (F.rmtCtr12 d) 1)
  | _, _, some m => if m.waiting then .done (s.incF (F.rmtCtr12 d) 1) else s.reqEffect k p m
  | _, _, none => .done (s.incF (F.rmtCtr12 d) 1)

/-! ### Collective packets (11 R305 row 5) -/

/-- The entry of a map that is reached over slot `k`. -/
def entryOf (m : List Byte) (k : Nat) : Option Nat := (upTo (mapG m)).find? fun p => mapConn m p (slotDie k) == k

/-- The map with an identifier in which the connection stands, for an arrival. -/
def State.arrivalEntry (s : State) (x k mapid : Nat) : Option Nat :=
  (upTo 8).findSome? fun i => match (mapRead x i).go s with
    | (.ok m, _) => if mapId m = mapid then entryOf m k else none
    | (.error _, _) => none

/-- The queue end that a queue message names, when the end can take it. -/
def State.queueEnd (s : State) (x k role : Nat) (c : Cxh) : Option Nat :=
  let n := c.ctag.toNat
  match (pipeMap x).go s with
  | (.error _, _) => none
  | (.ok m, _) =>
    if n < 256 ∧ s.qValid n role ∧ s.qOwner n = x ∧ s.qDie n = slotDie k ∧ entryOf m k = some (s.qLink n)
      ∧ mapId m = c.mapid.toNat ∧ mapGen m = c.gen.toNat then some n else none

/-- The entry of the active ring map that a connection stands for. -/
def State.ringEntryOf (s : State) (x k : Nat) : Option Nat :=
  match (mapRead x (s.getF (F.colCtlRslot x))).go s with
  | (.error _, _) => none
  | (.ok m, _) => entryOf m k

/-- The collective message that a connection delivers, from entry 0 where the active map does not have it. -/
def State.colMsg (s : State) (x k : Nat) (c : Cxh) (data : List Byte) : ColMsg :=
  { position := Fin.ofNat 64 ((s.ringEntryOf x k).getD 0), mapid := c.mapid, gen := c.gen, ctag := c.ctag, op := c.cop,
    count := c.count.toNat, abort := c.cxflags.toNat % 2 == 1, index := c.coff.toNat, data := data }

/-- What the receiving unit makes of a packet (11 R305 row 5; 09 R264, R266; 10 R274, R278, R291). `inFlight`: the
packet continues a message; a queue transfer in flight goes on while its owner is pre-empted. -/
def State.cxhAdmit (s : State) (x k : Nat) (c : Cxh) (inFlight : Bool) : Admit :=
  let o := c.cop.toNat
  if !(s.alive x) then .access
  else if s.preempted x && !(inFlight && o == 0x10) then .busy
  else if o = 6 then (if (s.arrivalEntry x k c.mapid.toNat).isSome then .take else .access)
  else if o = 0x10 then (if (s.queueEnd x k 1 c).isSome then .take else .access)
  else if o = 0x11 then (if (s.queueEnd x k 0 c).isSome then .take else .access)
  else if 1 ≤ o ∧ o ≤ 5 then
    match s.colAdmit x (s.colMsg x k c []) with
    | .take => if (s.ringEntryOf x k).isSome then .take else .fault
    | r => r
  else .access

/-- A whole message reaches its unit; a queue transfer may have to wait. -/
def State.cxhDeliver (s : State) (x k : Nat) (c : Cxh) (data : List Byte) : QDone :=
  let o := c.cop.toNat
  if o = 6 then
    match s.arrivalEntry x k c.mapid.toNat with
    | some p => .over (s.arrival x c.mapid.toNat c.gen.toNat p)
    | none => .over s
  else if o = 0x10 then
    match s.queueEnd x k 1 c with
    | some n => s.queueFill n c.count.toNat data
    | none => .over s
  else if o = 0x11 then
    match s.queueEnd x k 0 c with
    | some n => .over (s.queueCredit n c.count.toNat)
    | none => .over s
  else .over (s.colTake x (s.colMsg x k c data))

/-- The message that a collective packet belongs to: a new one, or the open one when the packet continues it. -/
def cxhMsg (v : RmtSlot) (p : Packet) (c : Cxh) : Option RxMsg :=
  match p.first, v.rx with
  | true, none => some { opc := opWrite, sub := 0, key := none, next := 0, left := 0, imm := 0, cxh := some c, buf := [] }
  | false, some m =>
    match m.cxh with
    | some h => if c = { h with coff := h.coff + BitVec.ofNat 64 m.buf.length } then some m else none
    | none => none
  | _, _ => none

/-- A collective packet (11 R305 row 5). -/
def State.reqCollective (s : State) (k : Nat) (p : Packet) (c : Cxh) : Req :=
  let v := s.slot k
  let x := v.conn.owner
  match s.cxhAdmit x k c v.rx.isSome with
  | .busy => .done (s.nakBusy k p.ce)
  | .access => .done (s.nakAccess k p.ce)
  | .fault => .done (s.colMismatch x (s.colMsg x k c []))
  | .take =>
    match cxhMsg v p c with
    | none => .done (s.incF (F.rmtCtr12 (slotDie k)) 1)
    | some m =>
      let m := { m with buf := m.buf ++ p.payload }
      if p.last then
        match (s.setSlot k { v with rx := none }).cxhDeliver x k (m.cxh.getD c) m.buf with
        | .over t => .done (t.reqDone k p 1)
        | .wait t => .wait { s with res := t.res }
      else .done ((s.setSlot k { v with rx := some m }).reqDone k p 1)

/-! ### Sequence (11 R307, R308) -/

/-- A duplicate is answered by its opcode's rule and changes no memory. -/
def State.reqDup (s : State) (k : Nat) (p : Packet) : Req :=
  let d := slotDie k
  let s1 := s.incF (F.rmtCtr5 d) 1
  let ece := p.ce
  let o := p.opc.toNat
  if o = opReadReq then
    match p.axh with
    | none => .done s1
    | some a =>
      match s.keyView k o 0 a with
      | .fetch => .wait s
      | .busy => .done (s1.nakBusy k ece)
      | .access => .done (s1.nakAccess k ece)
      | .ok c =>
        match (cvaRead (dieUnit d) (s.slot k).conn.owner (fieldAt c.bytes 0 8 + a.offset.toNat) a.length.toNat).go s1 with
        | (.error e, s') => s.reqStop s' k p e
        | (.ok bs, s') => .done (s'.sendReads k p.psn.toNat bs)
  else if o = opAtomic then
    match (s.slot k).alog.find? fun e => e.1 = p.psn.toNat with
    | some e => .done (s1.sendAtomic k p.psn.toNat e.2)
    | none => .done (s1.sendAck k ece)
  else .done (s1.sendAck k ece)

/-- Row 2 of 11 R305: the slot carries traffic, of this epoch and from its peer. -/
def RmtSlot.traffic (v : RmtSlot) (p : Packet) : Bool :=
  (v.st == .opened || v.st == .closing) && p.epoch.toNat == v.conn.epoch && p.srcIp.toNat == v.conn.peerIp

/-- A request of an open connection. -/
def State.reqGo (s : State) (k : Nat) (p : Packet) : Req :=
  let v := s.slot k
  let d := slotDie k
  if !(v.traffic p) then .done (s.incF (F.rmtCtr11 d) 1) else
  let dist := (p.psn.toNat + 2 ^ 32 - v.expect) % 2 ^ 32
  if 2 ^ 31 ≤ dist then s.reqDup k p
  else if dist != 0 then
    if v.busy || v.gap then .done s
    else
      let s := (s.incF (F.rmtCtr6 d) 1).sendNak k 1 p.ce
      .done (s.setSlot k { s.slot k with gap := true })
  else
    let s := s.setSlot k { v with gap := false, busy := false }
    if pktFirst p && s.filled k (s.getF (F.rmtBufBusyth d)) then .done (s.nakBusy k true)
    else match p.cxh with
      | some c => s.reqCollective k p c
      | none => s.reqKeyed k p

/-- One request; what must wait joins the packets that wait on the die stack. -/
def State.reqOne (s : State) (d : Nat) (p : Packet) : State :=
  match s.reqGo p.dcn.toNat p with
  | .done s => s
  | .drop s => s
  | .wait s => s.setKeyWaits d (s.keyWaits d ++ [p])

/-- Packets that wait on a die stack try again, each connection's in order. -/
def State.redrive (s : State) (d : Nat) : State :=
  let q := s.keyWaits d
  q.foldl (fun s p =>
    if (s.keyWaits d).any fun w => w.dcn = p.dcn then s.setKeyWaits d (s.keyWaits d ++ [p])
    else s.reqOne d p) (s.setKeyWaits d [])

def State.request (s : State) (d : Nat) (p : Packet) : State :=
  if (s.keyWaits d).any fun w => w.dcn = p.dcn then
    (s.setKeyWaits d (s.keyWaits d ++ [p])).redrive d
  else s.reqOne d p

/-! ### Acknowledgements and responses -/

/-- A closing slot whose packets are all acknowledged sends one CLOSE and is FREE; what still waits for a response
ends as halted (11 R302; log entry 32). -/
def State.closeEnd (s : State) (k : Nat) : State :=
  let v := s.slot k
  if v.st = .closing ∧ v.unacked = [] ∧ v.queued = [] then
    let r := (((s.sendCn k opClose).dropRx k).freeSlot k).cmdsEnd v 3
    (r.1.overflowed k r.2).settle
  else s

/-- Request packets that an APSN covers (11 R309; log entry 32). -/
def ackCovers (apsn : Nat) (t : TxPkt) : Bool :=
  decide ((apsn + 2 ^ 32 - (t.psn + t.npsn - 1) % 2 ^ 32) % 2 ^ 32 < 2 ^ 31)

def State.ackIn (s : State) (k : Nat) (p : Packet) : State :=
  (s.retire k ((s.slot k).unacked.filter (ackCovers p.apsn.toNat)) p.ece).closeEnd k

/-- A NAK counts as one packet of PMTU payload in the rate law (11 R322). -/
def State.nakRate (s : State) (k : Nat) (p : Packet) : State :=
  let v := s.slot k
  let n := frameLen { packet0 opWrite 0 with payload := List.replicate v.conn.pmtu 0#8 } v.conn.ipv6
    (s.flag (F.portVlanTagen (slotPort k v.conn)))
  s.setSlot k { v with a := v.a + n, m := v.m + if p.ece then n else 0 }

def State.nakIn (s : State) (k : Nat) (p : Packet) : State :=
  let s := s.nakRate k p
  if p.sub.toNat = 1 then s.resendAll k
  else if p.sub.toNat = 2 then
    let s := s.incF (F.rmtCtr8 (slotDie k)) 1
    s.setSlot k { s.slot k with busyWait := true }
  else s.haltFull k haltNakRecv

/-- Bytes of a remote twin ring that a RESTORE asked for (18 R475). -/
def State.ringResp (s : State) (bs : List Byte) : State :=
  { s with res.restore := s.res.restore.map fun r => { r with ring := r.ring ++ bs } }

/-- Bytes of a response written for a command: a page that must be copied first makes the requester ask
again; a fault is the command's context's. -/
def State.landResp (s : State) (k : Nat) (t : TxPkt) (bs : List Byte) (f : State → State) : State :=
  let d := slotDie k
  let x := (s.slot k).conn.owner
  if t.owner = .restore x then f (s.ringResp bs) else
  match (cvaWrite (dieUnit d) x (t.dst + t.got) bs).go s with
  | (.ok _, s) => f s
  | (.error (.fault c kd su dt u), s) =>
    if (Stop.fault c kd su dt u).isDomain then s.haltFull k haltDomain
    else s.stopFault x d uRmt none (.fault c kd su dt u)
  | (.error (.touch y key), _) => s.touch y key
  | (.error _, _) => s

/-- Bytes of a response have landed for request `t`: an answered request is acknowledged, and one that an ACK had
covered leaves the waiting ones; its message completes (11 R309, R329). -/
def State.respIn (s : State) (k : Nat) (t : TxPkt) (n : Nat) (ece : Bool) : State :=
  let t' := { t with got := t.got + n }
  let put := fun (l : List TxPkt) => l.map fun u => if u.psn = t.psn then t' else u
  let v := s.slot k
  let s := s.setSlot k { v with unacked := put v.unacked, reads := (put v.reads).filter (·.asks), timeouts := 0 }
  if t'.asks then s
  else if v.unacked.any (fun u => u.psn = t.psn) then (s.retire k [t'] ece).closeEnd k
  else (s.ownersEnd k [t.owner]).closeEnd k

/-- READ_RESP: the next bytes of the read that holds its PSN (11 R307, R329). -/
def State.readIn (s : State) (k : Nat) (p : Packet) : State :=
  let v := s.slot k
  match (v.unacked ++ v.reads).find? fun t =>
      t.opc = opReadReq ∧ (t.psn + t.got / v.conn.pmtu) % 2 ^ 32 = p.psn.toNat with
  | none => s
  | some t =>
    if p.payload.length != Nat.min v.conn.pmtu (t.len - t.got) then s.incF (F.rmtCtr12 (slotDie k)) 1
    else s.landResp k t p.payload fun s => s.respIn k t p.payload.length p.ece

/-- ATOMIC_RESP: the original value is written and the command completes. -/
def State.atomicIn (s : State) (k : Nat) (p : Packet) : State :=
  let v := s.slot k
  match (v.unacked ++ v.reads).find? fun t => t.opc = opAtomic ∧ t.psn = p.psn.toNat with
  | none => s
  | some t => s.landResp k t p.payload fun s => s.respIn k t t.len p.ece

/-! ### Connection management (11 R302–R304) -/

/-- Line rate of a port mode in 0.1 Gb/s (12 R332). -/
def lineRate (mode : Nat) : Nat :=
  match mode with
  | 1 => 8000 | 2 => 4000 | 3 => 4000 | 4 => 2000 | 5 => 2000 | 6 => 1000 | _ => 0

/-- A slot opens: both directions start at PSN 0, the path at 0 and the rate at the line (11 R303, R306, R322). -/
def State.openSlot (s : State) (k : Nat) : State :=
  let v := s.slot k
  s.setSlot k { v with st := .opened, path := 0, timeouts := 0, expect := 0, next := 0, hold := 0, a := 0, m := 0,
                       cur := lineRate (s.getF (F.portCfgMode (slotPort k v.conn))),
                       step := s.getF (F.rmtRateStep0 (slotDie k)) }

/-- An OPEN, OPEN_ACK, HALT or CLOSE. -/
def State.manage (s : State) (k : Nat) (p : Packet) : State :=
  let v := s.slot k
  let o := p.opc.toNat
  let stale := s.incF (F.rmtCtr11 (slotDie k)) 1
  let same := p.epoch.toNat == v.conn.epoch && beNat p.payload == v.conn.pcn && p.srcIp.toNat == v.conn.peerIp
  let opens := o == opOpen || o == opOpenAck
  if !same || (if opens then v.st != .opening && v.st != .opened else v.st != .opened && v.st != .closing) then stale else
  let s := s.rxBytes k p
  if o = opOpen then (if v.st = .opening then s.openSlot k else s).sendCn k opOpenAck
  else if o = opOpenAck then (if v.st = .opening then s.openSlot k else s)
  else if o = opHalt then s.haltFull k haltRecv
  else s.closeFull k

/-! ### The order of checks (11 R305) -/

/-- A packet whose slot's record is at hand. -/
def State.slotGo (s : State) (d : Nat) (p : Packet) : State :=
  let k := p.dcn.toNat
  let v := s.slot k
  let o := p.opc.toNat
  if o = opOpen ∨ o = opOpenAck ∨ o = opHalt ∨ o = opClose then s.manage k p
  else if v.st != .free && !(payloadOk v p) then s.incF (F.rmtCtr12 d) 1
  else if !(v.traffic p) then s.incF (F.rmtCtr11 d) 1
  else
    let s := s.rxBytes k p
    if isRequest o then s.request d p
    else if o = opAck then s.ackIn k p
    else if o = opNak then s.nakIn k p
    else if o = opReadResp then s.readIn k p
    else s.atomicIn k p

/-- A packet whose slot is in the cache. -/
def State.slotIn (s : State) (d : Nat) (p : Packet) : State := ((s.connUse p.dcn.toNat).2).slotGo d p

/-- A packet of one kind arrives at a die stack; a packet of another kind is not this command's. -/
def State.rmtIn (s : State) (d : Nat) (p : Packet) (kind : Bool) : State :=
  if !(s.readyDie d rdRmt) then s else
  let s' := s.incF (F.rmtCtr1 d) 1
  if !(pktIpOk p) then s'.incF (F.rmtCtr12 d) 1
  else if p.crc != crc32c (pktBytes p) then s'.incF (F.rmtCtr10 d) 1
  else if !(pktForm p) then s'.incF (F.rmtCtr12 d) 1
  else if !kind then s
  else
    let k := p.dcn.toNat
    let p := s.mark d p
    let s' := s'.incF (F.rmtCtr14 d) (ofBool p.ce)
    if 2 ^ 18 ≤ k ∨ slotDie k ≠ d then s'.incF (F.rmtCtr11 d) 1
    else if (s.connCache d).contains k then s'.slotIn d p
    else
      let w := tget [] s.rmt.waiting d
      if 256 ≤ w.length then s'.incF (F.rmtCtr13 d) 1
      else { s' with rmt.waiting := tput [] s.rmt.waiting d (w ++ [p]) }

def isOp (p : Packet) (o : Nat) (sub : Option Nat := none) : Bool :=
  p.opc.toNat == o && (match sub with | some n => p.sub.toNat == n | none => true)

def execWrite (die : Fin 4) (p : Packet) (s : State) : Host.Outcome State Fault Refusal :=
  work s fun s => s.rmtIn die.val p (isOp p opWrite)
def execWriteNotify (die : Fin 4) (p : Packet) (s : State) : Host.Outcome State Fault Refusal :=
  work s fun s => s.rmtIn die.val p (isOp p opWriteNotify)
def execReadReq (die : Fin 4) (p : Packet) (s : State) : Host.Outcome State Fault Refusal :=
  work s fun s => s.rmtIn die.val p (isOp p opReadReq)
def execReadResp (die : Fin 4) (p : Packet) (s : State) : Host.Outcome State Fault Refusal :=
  work s fun s => s.rmtIn die.val p (isOp p opReadResp)
def execRmtFadd (die : Fin 4) (p : Packet) (s : State) : Host.Outcome State Fault Refusal :=
  work s fun s => s.rmtIn die.val p (isOp p opAtomic (some 1))
def execCswap (die : Fin 4) (p : Packet) (s : State) : Host.Outcome State Fault Refusal :=
  work s fun s => s.rmtIn die.val p (isOp p opAtomic (some 2))
def execSwap (die : Fin 4) (p : Packet) (s : State) : Host.Outcome State Fault Refusal :=
  work s fun s => s.rmtIn die.val p (isOp p opAtomic (some 3))
def execAtomicResp (die : Fin 4) (p : Packet) (s : State) : Host.Outcome State Fault Refusal :=
  work s fun s => s.rmtIn die.val p (isOp p opAtomicResp)
def execReduceWrite (die : Fin 4) (p : Packet) (s : State) : Host.Outcome State Fault Refusal :=
  work s fun s => s.rmtIn die.val p (isOp p opReduceWrite)
def execAck (die : Fin 4) (p : Packet) (s : State) : Host.Outcome State Fault Refusal :=
  work s fun s => s.rmtIn die.val p (isOp p opAck)
def execNakSeq (die : Fin 4) (p : Packet) (s : State) : Host.Outcome State Fault Refusal :=
  work s fun s => s.rmtIn die.val p (isOp p opNak (some 1))
def execNakBusy (die : Fin 4) (p : Packet) (s : State) : Host.Outcome State Fault Refusal :=
  work s fun s => s.rmtIn die.val p (isOp p opNak (some 2))
def execNakAccess (die : Fin 4) (p : Packet) (s : State) : Host.Outcome State Fault Refusal :=
  work s fun s => s.rmtIn die.val p (isOp p opNak (some 3))
def execOpenPkt (die : Fin 4) (p : Packet) (s : State) : Host.Outcome State Fault Refusal :=
  work s fun s => s.rmtIn die.val p (isOp p opOpen)
def execOpenAck (die : Fin 4) (p : Packet) (s : State) : Host.Outcome State Fault Refusal :=
  work s fun s => s.rmtIn die.val p (isOp p opOpenAck)
def execHaltPkt (die : Fin 4) (p : Packet) (s : State) : Host.Outcome State Fault Refusal :=
  work s fun s => s.rmtIn die.val p (isOp p opHalt)
def execClosePkt (die : Fin 4) (p : Packet) (s : State) : Host.Outcome State Fault Refusal :=
  work s fun s => s.rmtIn die.val p (isOp p opClose)

/-! ### Fetches (11 R320, R321) -/

/-- A slot's record arrives: the packets that waited for it proceed in order. One that cannot be read makes a
record, and the packets are lost (05 R123); a read that must wait leaves them waiting. -/
def execConnFetchDone (die : Fin 4) (slot : BitVec 16) (s : State) : Host.Outcome State Fault Refusal :=
  work s fun s =>
    let d := die.val
    let k := slotKey d slot.toNat
    let w := tget [] s.rmt.waiting d
    let mine := w.filter fun p => p.dcn.toNat = k
    if mine.isEmpty then s
    else
      let t := { s with rmt.waiting := tput [] s.rmt.waiting d (w.filter fun p => p.dcn.toNat != k) }
      match t.connUse k with
      | (none, t) => mine.foldl (fun s p => s.slotGo d p) t
      | (some (.fault c kd su dt u), t) => t.stopFault 0 d uRmt none (.fault c kd su dt u)
      | (some _, _) => s

/-- A key record arrives: the checks that waited for it proceed. -/
def execKeyFetchDone (die : Fin 4) (index : BitVec 20) (s : State) : Host.Outcome State Fault Refusal :=
  work s fun s =>
    let d := die.val
    let i := index.toNat
    let asked := (s.keyWaits d).any fun p => match p.axh with
      | some a => a.key.toNat % 2 ^ 20 == i
      | none => false
    if !asked || (s.keyCache d).any fun c => c.index = i then s
    else match keyRoom (s.keyCache d) with
      | none => s
      | some l => match (houseRead s.kset (keyAt i) 64).go s with
        | (.ok b, s) => (s.setKeys d (⟨i, b, 0⟩ :: l)).redrive d
        | (.error (.fault c kd su dt u), s) => s.stopFault 0 d uRmt none (.fault c kd su dt u)
        | (.error _, _) => s

/-! ### Timers -/

/-- The retransmit timer of the oldest unacknowledged packet reaches RTO (11 R310, R304). -/
def execRtoTimeout (die : Fin 4) (slot : BitVec 16) (s : State) : Host.Outcome State Fault Refusal :=
  work s fun s =>
    let d := die.val
    let k := slotKey d slot.toNat
    let v := s.slot k
    if (v.st != .opened && v.st != .closing) || (s.resends k).isEmpty || v.busyWait then s
    else
      let n := v.timeouts + 1
      let s := (s.incF (F.rmtCtr3 d) 1).setSlot k { v with timeouts := n }
      let s := if n % s.getF (F.rmtTimersHopn d) = 0 then
          (s.incF (F.rmtCtr4 d) 1).setSlot k { s.slot k with path := (v.path + 1) % 8 }
        else s
      if s.getF (F.rmtTimersRetrymax d) ≤ n then s.haltFull k haltRetry else s.resendAll k

/-- 2 µs after a packet was processed and not acknowledged (11 R309). -/
def execAckTimer (die : Fin 4) (slot : BitVec 16) (s : State) : Host.Outcome State Fault Refusal :=
  work s fun s =>
    let k := slotKey die.val slot.toNat
    if (s.slot k).owed = 0 then s else s.sendAck k false

/-- NPL elapses without progress: an open slot halts, a closing one becomes FREE (11 R302, R304). -/
def execNplExpiry (die : Fin 4) (slot : BitVec 16) (s : State) : Host.Outcome State Fault Refusal :=
  work s fun s =>
    let k := slotKey die.val slot.toNat
    let v := s.slot k
    if v.st = .opened ∧ v.unacked ≠ [] then s.haltFull k haltNpl
    else if v.st = .closing then (s.sendCn k opClose).closeFull k
    else s

def execOpenRetry (die : Fin 4) (slot : BitVec 16) (s : State) : Host.Outcome State Fault Refusal :=
  work s fun s =>
    let k := slotKey die.val slot.toNat
    if (s.slot k).st = .opening then s.sendCn k opOpen else s

def execBusywaitExpiry (die : Fin 4) (slot : BitVec 16) (s : State) : Host.Outcome State Fault Refusal :=
  work s fun s =>
    let k := slotKey die.val slot.toNat
    let v := s.slot k
    if v.busyWait then ((s.setSlot k { v with busyWait := false }).resendAll k).pump k else s

/-- The rate law at the end of a period (11 R322); CUR is rounded to the nearest 0.1 Gb/s. -/
def execRatePeriod (die : Fin 4) (slot : BitVec 16) (s : State) : Host.Outcome State Fault Refusal :=
  work s fun s =>
    let d := die.val
    let k := slotKey d slot.toNat
    let v := s.slot k
    let line := lineRate (s.getF (F.portCfgMode (slotPort k v.conn)))
    if (v.st != .opened && v.st != .closing) || v.a = 0 then s
    else if v.m != 0 then
      let den := 256 * v.a
      let num := v.cur * (den - s.getF (F.rmtRateBeta d) * v.m)
      (s.incF (F.rmtCtr15 d) 1).setSlot k
        { v with cur := Nat.max ((2 * num + den) / (2 * den)) (s.getF (F.rmtRateRmin d)),
                 step := s.getF (F.rmtRateStep0 d), hold := s.getF (F.rmtRateHoldn d), a := 0, m := 0 }
    else if v.hold != 0 then s.setSlot k { v with hold := v.hold - 1, a := 0, m := 0 }
    else s.setSlot k { v with cur := Nat.min (v.cur + v.step) line,
                              step := Nat.min (2 * v.step) (s.getF (F.rmtRateStepmax d)), a := 0, m := 0 }

end Sys2Proof.Machine
end

