-- ==== Sys2Proof/Machine/RmtCmd.lean ====
section
/-! DEFINITION. The driver's commands on connections and keys, and the commands of job software (11 R302,
R303, R314–R319, R328–R330). -/
namespace Sys2Proof.Machine

/-! ### Connections -/

/-- PMTU in bytes. -/
def pmtuBytes (c : Nat) : Nat := 1024 * 2 ^ c

/-- A connection record as the driver wrote it (11 R295); none where it breaks the rule. -/
def connRec (b : List Byte) : Option ConnRec :=
  let f := fieldAt b
  let sel := f 9 1
  let v6 := bit sel 7
  let c : ConnRec := { pcn := f 0 4, epoch := f 4 4, owner := f 8 1, port := sel % 8, ipv6 := v6, dscp := f 10 1,
                       prio := f 11 1, pmtu := pmtuBytes (f 12 1), window := f 14 2,
                       peerIp := beNat (slice b 16 16), nextHop := beNat (slice b 32 6) }
  if c.epoch ≠ 0 ∧ bits sel 3 4 = 0 ∧ c.dscp < 64 ∧ c.prio < 8 ∧ f 12 1 < 4 ∧ f 13 1 = 0 ∧ 16 ≤ c.window
    ∧ c.window ≤ 1024 ∧ (v6 ∨ zeroAt b 16 12) ∧ zeroAt b 38 26 ∧ c.pcn < 2 ^ 18 then some c else none

/-- The command registers of a die stack accept a write: its function is up (20 R503). -/
def State.rmtGate (s : State) (f : Fld) (g : State → State) : State :=
  if s.blockUp f.off then g s else s.rejectedAt f.off f.lo

/-- The result of a connection command, with the slot as it now stands (11 R330). -/
def State.connStat (s : State) (d k result : Nat) : State :=
  let v := s.slot k
  let s := ((s.setB (F.rmtCstatDone d) true).setF (F.rmtCstatResult d) result).setF (F.rmtCstatState d) v.st.code
  let s := (s.setB (F.rmtCstatCached d) ((s.connCache d).contains k)).setF (F.rmtCstatPath d) v.path
  s.setF (F.rmtCstatEpoch d) (if v.st = .free then v.lastEpoch else v.conn.epoch)

/-- OPEN: the record is checked and the slot starts opening (11 R303). -/
def execConnOpen (die : Fin 4) (slot : BitVec 16) (s : State) : Host.Outcome State Fault Refusal :=
  regWork s (F.rmtCcmdSlot die.val).off fun s => s.rmtGate (F.rmtCcmdSlot die.val) fun s =>
    let d := die.val
    let k := slotKey d slot.toNat
    if (s.slot k).st != .free then s.connStat d k 3
    else
      let n := s.getF (F.rmtCfgCset d)
      let o := 256 * slot.toNat
      if !(s.flag (F.rmtCfgTvalid d)) || !(s.houseRange n o 64) then s.connStat d k 1
      else match (hbmRead none n o 64).go s with
        | (.error _, s) => s.connStat d k 1
        | (.ok b, s) =>
          match connRec b with
          | none => s.connStat d k 1
          | some c =>
            if !(s.grant c.owner).isSome then s.connStat d k 1
            else if c.epoch ≤ (s.slot k).lastEpoch then s.connStat d k 2
            else
              let s := s.setSlot k { lastEpoch := (s.slot k).lastEpoch, conn := c, st := .opening }
              ((s.connUse k).2.sendCn k opOpen).connStat d k 0

/-- CLOSE: an open slot drains first; any other leaves at once (11 R302). -/
def execConnClose (die : Fin 4) (slot : BitVec 16) (s : State) : Host.Outcome State Fault Refusal :=
  regWork s (F.rmtCcmdSlot die.val).off fun s => s.rmtGate (F.rmtCcmdSlot die.val) fun s =>
    let d := die.val
    let k := slotKey d slot.toNat
    let v := s.slot k
    match v.st with
    | .opening => (s.freeSlot k).connStat d k 0
    | .halted => (s.freeSlot k).connStat d k 0
    | .opened => ((s.setSlot k { v with st := .closing }).closeEnd k).connStat d k 0
    | _ => s.connStat d k 3

def execConnQuery (die : Fin 4) (slot : BitVec 16) (s : State) : Host.Outcome State Fault Refusal :=
  regWork s (F.rmtCcmdSlot die.val).off fun s => s.rmtGate (F.rmtCcmdSlot die.val) fun s =>
    s.connStat die.val (slotKey die.val slot.toNat) 0

/-! ### Keys -/


/-- The driver's fields of a key record (11 R314, R315). -/
def State.keyRecOk (s : State) (b : List Byte) : Bool :=
  let base := fieldAt b 0 8
  let len := fieldAt b 8 8
  let rights := fieldAt b 17 1
  let x := kOwner b
  decide (1 ≤ len) && decide (base + len ≤ 2 ^ 48) && decide (rights < 32) && zeroAt b 19 1
    && decide (fieldAt b 22 2 < 4096) && zeroAt b 28 36 && (s.grant x).isSome
    && (!(bit rights 4) || s.semUsable (fieldAt b 20 2) x)

/-- A key command is accepted: the function is up, the last one is done. -/
def State.keyGate (s : State) (g : State → State) : State :=
  s.rmtGate F.rmtKcmdIndex fun s =>
    if s.flag F.rmtKstatDone then g s else s.rejected F.rmtKcmdOp

/-- A validated record stands in the table and in every cached copy as the driver wrote it (11 R315). -/
def State.keyPut (s : State) (i : Nat) (b : List Byte) : State :=
  let s := ((hbmWrite none s.kset (keyAt i) b).go s).2
  { s with rmt.keys := s.rmt.keys.map fun e =>
      (e.1, e.2.map fun c => if c.index = i then { c with bytes := b } else c) }

def execKeyValidate (index : BitVec 20) (s : State) : Host.Outcome State Fault Refusal :=
  regWork s F.rmtKcmdIndex.off fun s => s.keyGate fun s =>
    let i := index.toNat
    if !(s.flag (F.rmtCfgTvalid 0)) || !(s.houseRange s.kset (keyAt i) 64) then s.keyStat 1 0 0
    else
      let b := s.keyRec i
      if kState b != 0 then s.keyStat 2 (kGen b) 0
      else if !(s.keyRecOk b) then s.keyStat 1 (kGen b) 0
      else (s.keyPut i (keyBytes b 1 (kGen b))).keyStat 0 (kGen b) 0

/-- REVOKE row 1: the key is CLOSING in the record and in every cached copy. -/
def execKeyRevoke (index : BitVec 20) (s : State) : Host.Outcome State Fault Refusal :=
  regWork s F.rmtKcmdIndex.off fun s => s.keyGate fun s =>
    let i := index.toNat
    let b := s.keyRec i
    if !(s.flag (F.rmtCfgTvalid 0)) || !(s.houseRange s.kset (keyAt i) 64) then s.keyStat 1 0 0
    else if kState b != 1 then s.keyStat 2 (kGen b) 0
    else
      let s := (s.keySet i 2 (kGen b)).setB F.rmtKstatDone false
      { s with rmt.revoke := some ⟨i, 0⟩ }

/-- References on a key in every die stack's cache. -/
def State.keyRefs (s : State) (i : Nat) : Nat :=
  (upTo 4).foldl (fun n d => (s.keyCache d).foldl (fun n c => if c.index = i then n + c.refs else n) n) 0


def execRevokeDrained (index : BitVec 20) (s : State) : Host.Outcome State Fault Refusal :=
  work s fun s =>
    match s.rmt.revoke with
    | some r => if r.index = index.toNat ∧ s.keyRefs r.index = 0 then s.keyFree r.index r.aborted else s
    | none => s

/-- Row 4′: every message that still holds a reference is aborted and its connection halts. -/
def execRevokeTimeout (index : BitVec 20) (s : State) : Host.Outcome State Fault Refusal :=
  work s fun s =>
    match s.rmt.revoke with
    | some r =>
      if r.index != index.toNat then s
      else
        let ks := s.keyHolders r.index
        let s := ks.foldl (fun s k => s.haltFull k haltRevoke) s
        s.keyFree r.index (r.aborted + ks.length)
    | none => s

/-! ### Commands of job software (11 R328, R329) -/

/-- The fields of an entry. -/
def rmtCmdOf (i a : Nat) (b : List Byte) : RmtCmd :=
  let f := fieldAt b
  { index := i, addr := a, op := f 0 1, fence := bit (f 1 1) 0, kw16 := bit (f 1 1) 1, conn := f 4 4, key := f 8 4,
    length := f 12 4, laddr := f 16 8, roff := f 24 8, opnd0 := BitVec.ofNat 64 (f 32 8),
    opnd1 := BitVec.ofNat 64 (f 40 8), imm := f 48 4, sigsem := f 52 2, sigval := f 56 4, started := false }

def State.rmtFieldsOk (s : State) (x : Nat) (b : List Byte) : Bool :=
  let c := rmtCmdOf 0 0 b
  let fl := fieldAt b 1 1
  decide (1 ≤ c.op) && decide (c.op ≤ 7) && decide (fl < 4) && (!c.kw16 || c.op == 7) && zeroAt b 3 1
    && (if 4 ≤ c.op ∧ c.op ≤ 6 then c.length == 8 else decide (1 ≤ c.length))
    && (c.op != 7 || c.length % (if c.kw16 then 2 else 4) == 0) && (c.op != 2 || c.imm != 0)
    && (c.sigsem == 0xFFFF || (s.semUsable c.sigsem x && c.sigval != 0)) && zeroAt b 54 2 && zeroAt b 60 4

/-- CVA of the ring entry at HEAD. -/
def State.rmtEntryAt (s : State) (x : Nat) : Nat :=
  64 * s.getF (F.rmtRingAddr x) + 64 * (s.getF (F.rmtHeadHead x) % 2 ^ s.getF (F.rmtCtlLog2size x))

/-- A grant of GOSEM makes the engine read the entry at HEAD. -/
def execRmtCommandFetch (ctx : Fin 256) (s : State) : Host.Outcome State Fault Refusal :=
  work s fun s =>
    let x := ctx.val
    let s := (s.rmtJoin x).settle
    let l := tget [] s.rmt.cmds x
    if !(s.alive x) || s.preempted x then s else
    match s.unitTake (.rmt x) with
    | none => s
    | some t =>
      let head := t.getF (F.rmtHeadHead x)
      let a := t.rmtEntryAt x
      match (cvaRead (dieUnit 0) x a 64).go (t.incF (F.rmtHeadHead x) 1) with
      | (.error (.fault c k su d u), s) => s.stopFault x 0 uRmt none (.fault c k su d u)
      | (.error _, _) => s
      | (.ok b, s) =>
        if !(s.rmtFieldsOk x b) then s.ctxFault x 0 uRmt kInvalid 0 a
        else
          let l := l ++ [rmtCmdOf head a b]
          ((({ s with rmt.cmds := tput [] s.rmt.cmds x l }).setF (F.rmtCtlInflight x) l.length).rmtJoin x).settle

/-- The message of a command. -/
def cmdMsg (x : Nat) (c : RmtCmd) : Msg :=
  let o := if c.op = 1 then opWrite else if c.op = 2 then opWriteNotify else if c.op = 3 then opReadReq
    else if c.op = 7 then opReduceWrite else opAtomic
  let a : Axh := { key := BitVec.ofNat 32 c.key, length := BitVec.ofNat 32 c.length,
                   offset := BitVec.ofNat 64 c.roff, imm := if c.op = 2 then BitVec.ofNat 32 c.imm else 0,
                   reserved := 0 }
  let atomic := decide (4 ≤ c.op) && decide (c.op ≤ 6)
  { owner := .cmd x c.index, opc := o,
    sub := if atomic then c.op - 3 else if c.op = 7 then (if c.kw16 then 2 else 1) else 0,
    axh := some a, opnd0 := if atomic then c.opnd0 else 0, opnd1 := if c.op = 5 then c.opnd1 else 0,
    src := if o = opWrite ∨ o = opWriteNotify ∨ o = opReduceWrite then some c.laddr else none,
    len := c.length, dst := c.laddr }

/-- A command starts: after every earlier one on its connection, and after every earlier one at all with
FENCE. -/
def State.rmtStart (s : State) (x i op : Nat) : State :=
  let l := tget [] s.rmt.cmds x
  match l.find? fun c => c.index = i with
  | none => s
  | some c =>
    let before := l.takeWhile fun d => d.index != i
    if c.op != op || c.started || s.preempted x || !(s.alive x) || (c.fence && !before.isEmpty)
      || before.any (fun d => !d.started && d.conn == c.conn) then s
    else
      let v := s.slot c.conn
      if 2 ^ 18 ≤ c.conn ∨ v.st ≠ .opened then
        let r := s.cmdComplete x i 3
        match r.2 with
        | some n => r.1.overflowed 0 [(x, n)]
        | none => r.1.settle
      else if v.conn.owner != x then s.ctxFault x 0 uRmt kInvalid 0 c.addr
      else
        let l := l.map fun d => if d.index = i then { d with started := true } else d
        match s.connUse c.conn with
        | (none, s) => ({ s with rmt.cmds := tput [] s.rmt.cmds x l } : State).rmtMessage c.conn (cmdMsg x c)
        | (some (.fault cl kd su dt u), s) => s.stopFault 0 (slotDie c.conn) uRmt none (.fault cl kd su dt u)
        | (some _, _) => s

def execCmdWrite (ctx : Fin 256) (index : Nat) (s : State) : Host.Outcome State Fault Refusal :=
  work s fun s => s.rmtStart ctx.val index 1
def execCmdWriteNotify (ctx : Fin 256) (index : Nat) (s : State) : Host.Outcome State Fault Refusal :=
  work s fun s => s.rmtStart ctx.val index 2
def execCmdRead (ctx : Fin 256) (index : Nat) (s : State) : Host.Outcome State Fault Refusal :=
  work s fun s => s.rmtStart ctx.val index 3
def execCmdFadd (ctx : Fin 256) (index : Nat) (s : State) : Host.Outcome State Fault Refusal :=
  work s fun s => s.rmtStart ctx.val index 4
def execCmdCswap (ctx : Fin 256) (index : Nat) (s : State) : Host.Outcome State Fault Refusal :=
  work s fun s => s.rmtStart ctx.val index 5
def execCmdSwap (ctx : Fin 256) (index : Nat) (s : State) : Host.Outcome State Fault Refusal :=
  work s fun s => s.rmtStart ctx.val index 6
def execCmdReduceWrite (ctx : Fin 256) (index : Nat) (s : State) : Host.Outcome State Fault Refusal :=
  work s fun s => s.rmtStart ctx.val index 7

end Sys2Proof.Machine
end

