-- ==== Sys2Proof/Machine/Snapshot.lean ====
section
/-! DEFINITION. The resilience unit: region lists, opening and draining a snapshot, first-touch copies, and the
twin mirror (18 R457–R472; 05 R133, R134). -/
namespace Sys2Proof.Machine

/-! ### Waiting writes go on -/

/-- Writes of a context that waited for pages proceed, those behind packets among them (05 R134). -/
def State.unblocked (s : State) (x : Nat) : State :=
  (upTo 4).foldl (fun s d => s.redrive d) (s.release x)

/-- The snapshot is abandoned because staging is at its quota (18 R467). -/
def State.stageFull (s : State) (x : Nat) : State :=
  let step := s.getF (F.resSnapstepStep x)
  ((s.abandonSnap x whyStageFull).record clsContext 0 uRes kOverflow whyStageFull (some x) none step).unblocked x

/-- A write reaches a write-protected page: it waits for a first-touch copy, abandons the snapshot when the
context holds its quota of staging pages, or faults. -/
def execProtectedPageWrite (ctx : Fin 256) (unit : Fin 36) (cva : BitVec 48) (data : List Byte) (s : State) :
    Host.Outcome State Fault Refusal :=
  work s fun s =>
    let x := ctx.val
    match (translate unit.val x cva.toNat true).go s with
    | (.error (.touch y k), _) =>
      let pending := tget false (s.resc y).snap.copying k
      let s := s.postWait y k unit.val cva.toNat data
      if pending || s.stgFree y then s else s.stageFull y
    | (.error (.fault c k su d u), s') =>
      s'.stopFault x (unitDie unit.val) (writerUnit unit.val) none (.fault c k su d u)
    | _ => s

/-! ### Staging sets (18 R460) -/


/-- Staging pages of die stack `d` that hold a copy. -/
def State.stgUsed (s : State) (d : Nat) : Nat :=
  s.res.ctx.foldl (fun n e => n + (e.2.snap.staged.filter fun p => p.die = d).length) 0
/-- A copy engine has a page free in its set. -/
def State.stgRoom (s : State) (d : Nat) : Bool :=
  bit (s.getF F.resCfgSvalid) d && decide ((s.stgUsed d + 1) * pageSize ≤ s.setSize (s.stgSet d))

/-- The copy engine of a snapshot page has room for it. -/
def State.pageRoom (s : State) (x i p : Nat) : Bool :=
  match (pageDie x ((s.resc x).snap.region i) p).go s with
  | (.ok d, _) => s.stgRoom d
  | (.error _, _) => false

/-- The copy of a page ends: protection clears and the waiting writes proceed in issue order (18 R466). -/
def execFirstTouchCopyDone (ctx : Fin 256) (region : Fin 64) (page : Nat) (s : State) :
    Host.Outcome State Fault Refusal :=
  work s fun s =>
    let x := ctx.val
    let k := pageKey region.val page
    if !(s.snapOpen x) || !(tget false (s.resc x).snap.copying k) then s
    else if !(s.stgFree x) then s.stageFull x
    else if !(s.pageRoom x region.val page) then s
    else match (copyPage x region.val page true).go s with
      | (.ok _, s') => s'.unblocked x
      | (.error (.fault c k su d u), s') => s'.stopFault x 0 uRes none (.fault c k su d u)
      | (.error _, _) => s

/-! ### Region lists (18 R458) -/

def regionOf (b : List Byte) : Region :=
  { base := fieldAt b 0 8, length := fieldAt b 8 8, twin := bit (fieldAt b 16 1) 0,
    house := bit (fieldAt b 16 1) 1, hset := fieldAt b 17 1, bslot := fieldAt b 18 1, touched := 0 }

def State.listAt (s : State) (x : Nat) : Nat := s.getF (F.resListAddr x) * 64

def regionBytes (x : Nat) : M (List (List Byte)) := do
  let s ← getS
  (upTo (s.getF (F.resListNreg x))).mapM fun i => cvaRead (dieUnit 0) x (s.listAt x + 32 * i) 32

def State.sealed (s : State) (n : Nat) : Bool := bit (s.getF (F.secSealSealed (n / 32))) (n % 32)

/-- A 2 MiB page of a region is mapped by a valid 2 MiB leaf with W = 1 (18 R462). -/
def leafWritable (x cva : Nat) : M Bool := do
  let n := (← getS).getF F.memCfgPtset
  let e := leNat (← hbmRead none n (← leafAt x cva) 8)
  return bit e 0 && bit e 1 && bit e 5

def boolOf (m : M Bool) (s : State) : Bool :=
  match (m.go s).1 with
  | .ok b => b
  | .error _ => false

/-- Every page that a virtual range touches is so mapped. -/
def rangeWritable (s : State) (x a n : Nat) : Bool :=
  decide (a + n ≤ 2 ^ 48) && (pageList a n).all fun p => boolOf (leafWritable x p.1) s

/-- A region keeps R458 and is mapped as R462 asks. -/
def State.regionOk (s : State) (x : Nat) (b : List Byte) : Bool :=
  let r := regionOf b
  decide (fieldAt b 16 1 < 4) && zeroAt b 19 1 && zeroAt b 24 8 && (r.house || r.hset == 0)
    && (if r.twin then !r.house && r.bslot == 0xFF && r.base % 64 == 0 && r.length % 64 == 0
        else r.base % pageSize == 0 && r.length % pageSize == 0)
    && (r.bslot == 0xFF || (decide (r.bslot < 64) && r.house && s.sealed r.hset))
    && (if r.house then s.houseRange r.hset r.base r.length else rangeWritable s x r.base r.length)

def Region.overlaps (a b : Region) : Bool :=
  a.house == b.house && a.hset == b.hset && decide (a.base < b.base + b.length) && decide (b.base < a.base + a.length)

/-- No region of a list overlaps a later one. -/
def noOverlap : List Region → Bool
  | [] => true
  | r :: l => !(l.any fun q => r.overlaps q) && noOverlap l

def twinBytes (rs : List Region) : Nat := rs.foldl (fun n r => if r.twin then n + r.length else n) 0

def State.regionsOk (s : State) (x : Nat) (bs : List (List Byte)) : Bool :=
  let rs := bs.map regionOf
  bs.all (s.regionOk x) && noOverlap rs && decide (twinBytes rs ≤ 16 * 2 ^ 20)

/-! ### Keys and image parts (18 R469, R470) -/

def State.jobId (s : State) (x : Nat) : List Byte :=
  leBytes 8 (s.getF (F.resJobidLoJobid x)) ++ leBytes 8 (s.getF (F.resJobidHiJobid x))

def State.bundleId (s : State) (b : Nat) : List Byte :=
  leBytes 4 (s.getF (F.bundleId0Bundleid b)) ++ leBytes 4 (s.getF (F.bundleId1Bundleid b))
    ++ leBytes 4 (s.getF (F.bundleId2Bundleid b)) ++ leBytes 4 (s.getF (F.bundleId3Bundleid b))

/-- K_u, and the key of a region. -/
def keyU (job : List Byte) (step : Nat) : List Byte := Config.hkdf Config.afs (job ++ leBytes 8 step) (strBytes "KQ-SNAP") 32
def State.keyR (s : State) (job : List Byte) (step : Nat) (r : Region) : List Byte :=
  if r.bslot = 0xFF then keyU job step
  else Config.hkdf (Config.afs ++ tget [] s.sec.ck r.bslot) (job ++ leBytes 8 step)
    (strBytes "KQ-SNAP" ++ s.bundleId r.bslot) 32

def nonceOf (region page : Nat) : List Byte := leBytes 4 region ++ leBytes 8 page

def imageLen (pages : Nat) : Nat := 4096 + 2097216 * pages + 128

/-- An entry of the region list as the header keeps it: its BSLOT replaced by the bundle's identifier. -/
def State.headRegion (s : State) (b : List Byte) : List Byte :=
  let r := regionOf b
  b.take 18 ++ (if r.bslot = 0xFF then leBytes 16 0 else s.bundleId r.bslot) ++ b.drop 19

/-- The clear part of a header. -/
def State.headClear (s : State) (x step nreg pages : Nat) : List Byte :=
  leBytes 4 0x4E53514B ++ leBytes 2 1 ++ leBytes 1 nreg ++ leBytes 1 0 ++ s.jobId x ++ leBytes 8 step
    ++ leBytes 2 (s.getF (F.resRankRank x)) ++ leBytes 2 0 ++ leBytes 4 (s.getF F.secSvnSvn)
    ++ leBytes 8 (imageLen pages) ++ leBytes 16 0

def State.imageAt (s : State) (x area : Nat) : Nat :=
  if area = 0 then s.getF (F.resImg0Addr x) else s.getF (F.resImg1Addr x)

/-! ### Opening (18 R461, R462) -/

def State.failSnap (s : State) (x why : Nat) : State :=
  ((s.setF (F.resSnapState x) snFailed).setF (F.resSnapReason x) why).setSnap x {}

/-- Rows 1 to 5 of the open. -/
def openRows (x step applied : Nat) (bs : List (List Byte)) : M Unit := do
  let s ← getS
  let area := if s.getF (F.resLastStep x) = 2 ^ 64 - 1 then 0 else 1 - s.getF (F.resSnapLastarea x)
  let rs := bs.map regionOf
  let job := s.jobId x
  let ku := keyU job step
  setS fun s => (s.setF (F.resSnapArea x) area).setSnap x
    { regions := rs, keys := rs.map (s.keyR job step), ku := ku }
  (snapPages rs).forM fun p => protectPage x (rs.getD p.1 region0) p.2 true
  setS fun s => s.dropTlb x
  let record ← match s.grant x with
    | some g => cvaRead (dieUnit 0) x g.steprec 128
    | none => pure []
  let clear := s.headClear x step bs.length (snapPages rs).length
  let block := record ++ leBytes 8 (s.getF (F.colLastappStep x)) ++ leBytes 8 applied
    ++ bs.flatMap s.headRegion
  let sealedBlock := Config.gcmSeal ku (nonceOf 0xFFFFFFFF 0) clear (padTo 4016 block)
  compWrite 0 (some x) (s.imageAt x area) (clear ++ sealedBlock.1 ++ sealedBlock.2)
  setS fun s => ((s.setF (F.resSnapState x) snOpen).setF (F.resSnapReason x) 0).setF (F.resNextApplied x)
    (applied + s.getF (F.resCtlK x))

/-- An open that has begun and waits for a link shows OPENING. -/
def State.opening (s : State) (x step : Nat) : State :=
  (s.setF (F.resSnapState x) snOpening).setF (F.resSnapstepStep x) step

/-- An applied close that reached RES_NEXT opens a snapshot: whether that is over, and the state. One that is
OPENING is this close's own: a context has one close at a time. -/
def State.openSnapshot (s : State) (x step applied : Nat) : Bool × State :=
  if s.getF (F.resListNreg x) = 0 then (true, s)
  else if s.getF (F.resSnapState x) = snOpen then (true, s.incF F.resSkips 1)
  else
    match (regionBytes x).go s with
    | (.error (.fault _ _ _ _ _), s) => (true, (s.setF (F.resSnapstepStep x) step).failSnap x whyMap)
    | (.error _, _) => (false, s.opening x step)
    | (.ok bs, s) =>
      let s := s.setF (F.resSnapstepStep x) step
      if s.getF (F.resImglenBytes x) < imageLen (snapPages (bs.map regionOf)).length then
        (true, s.failSnap x whyImgSpace)
      else if !(s.regionsOk x bs) then (true, s.failSnap x whyMap)
      else match (openRows x step applied bs).go s with
        | (.ok _, s) => (true, s)
        | (.error (.fault c k su d u), s') => (true, s'.stopFault x 0 uRes none (.fault c k su d u))
        | (.error _, _) => (false, s.opening x step)

/-! ### Draining (18 R465, R468) -/

/-- The arrays that row 5 of a chunk writes: address and length (08 R238). -/
def ChunkS.writes (c : ChunkS) (h : Shard) (vsk : Nat) : List (Nat × Nat) :=
  [(h.master + 131072 * c.chunk, c.master.length), (h.mom1 + 34880 * c.chunk, c.mom1.length),
    (h.mom2 + sketchBytes vsk * c.chunk, c.mom2.length), (h.digest + 32 * c.chunk, c.digest.length)]

/-- An open chunk has state in a page of a region (08 R240). -/
def State.pageOpen (s : State) (x : Nat) (r : Region) (p : Nat) : Bool :=
  match s.upd x with
  | none => false
  | some u => u.slots.any fun e => match e.2 with
    | some c =>
      let h := u.shard c.shard
      c.opened && h.house == r.house && (!h.house || h.hset == r.hset)
        && (c.writes h (u.grp c.shard).vsk).any fun w => decide (0 < w.2) && decide (w.1 < r.at p + pageSize)
          && decide (r.at p < w.1 + w.2)
    | none => false

/-- Put a page of the drain order into staging, unless a first touch has done so; the copy waits until no chunk
with state there is open. -/
def stagePage (x i p : Nat) : M Unit := do
  let s ← getS
  let sn := (s.resc x).snap
  if sn.staged.any fun g => g.region = i ∧ g.page = p then return
  if s.pageOpen x (sn.region i) p then stop .wait
  if tget false sn.copying (pageKey i p) || !(s.stgFree x) || !(s.pageRoom x i p) then stop .wait
  copyPage x i p false

/-- Encrypt a staged page and write its record. -/
def drainPage (x : Nat) (g : StgPage) : M Unit := do
  let s ← getS
  let sn := (s.resc x).snap
  let o := Config.gcmSeal (sn.keys.getD g.region []) (nonceOf g.region g.page) [] (readBytes 0 g.data 0 pageSize)
  let at0 := s.imageAt x (s.getF (F.resSnapArea x)) + 4096 + 2097216 * sn.tags.length
  compWrite g.die (some x) at0
    (leBytes 4 g.region ++ leBytes 8 g.page ++ leBytes 36 0 ++ o.2 ++ o.1)
  setS fun s => (((s.moveSet x (s.stgSet g.die) pageSize false).setSnap x { sn with staged := sn.staged.erase g, tags := sn.tags ++ [o.2] }).stgGive x 1).incF
    F.resDrained 1

/-- The trailer, TOUCHED of every region, and DRAINED. -/
def finishDrain (x : Nat) : M Unit := do
  let s ← getS
  let sn := (s.resc x).snap
  let area := s.getF (F.resSnapArea x)
  let n := sn.tags.length
  let body := leBytes 8 n ++ shaBytes sn.tags.flatten ++ leBytes 56 0
  let o := Config.gcmSeal sn.ku (nonceOf 0xFFFFFFFF 1) body []
  compWrite 0 (some x) (s.imageAt x area + 4096 + 2097216 * n) (body ++ o.2)
  (sn.regions.zip (upTo sn.regions.length)).forM fun p =>
    cvaWrite (dieUnit 0) x (s.listAt x + 32 * p.2 + 20) (leBytes 4 p.1.touched)
  setS fun s => (((s.setF (F.resSnapState x) snDrained).setF (F.resSnapLastarea x) area).setF (F.resLastStep x)
    (s.getF (F.resSnapstepStep x))).setSnap x {}

/-- Rest of a drain step, after its page has been staged. -/
def drainRest (x : Nat) (next : Option (Nat × Nat)) (pages : Nat) : M Unit := do
  match next with
  | none => pure ()
  | some (i, p) =>
    match ((← getS).resc x).snap.staged.find? fun g => g.region = i ∧ g.page = p with
    | some g => drainPage x g
    | none => pure ()
  if ((← getS).resc x).snap.tags.length = pages then finishDrain x

/-- An open snapshot copies, unprotects, encrypts and writes its next page; after the last the snapshot is
DRAINED. With both links down the copy stays in staging (18 R473). -/
def execPageDrain (ctx : Fin 256) (s : State) : Host.Outcome State Fault Refusal :=
  work s fun s =>
    let x := ctx.val
    if s.getF (F.resSnapState x) != snOpen then s else
    let sn := (s.resc x).snap
    let pages := snapPages sn.regions
    let next := pages[sn.tags.length]?
    match (match next with | some p => stagePage x p.1 p.2 | none => pure ()).go s with
    | (.error (.fault c k su d u), s') => s'.stopFault x 0 uRes none (.fault c k su d u)
    | (.error _, _) => s
    | (.ok _, s') => (s'.runFor x 0 uRes none (drainRest x next pages.length)).unblocked x

/-! ### Twin mirror (18 R471, R472) -/

/-- Twin bytes of a context in list order. -/
def twinPayload (x : Nat) : M (List Byte) := do
  let rs := (← regionBytes x).map regionOf
  let parts ← (rs.filter fun r => r.twin).mapM fun r => cvaRead (dieUnit 0) x r.base r.length
  return parts.flatten

def twinEntry (step applied : Nat) (p : List Byte) : List Byte :=
  leBytes 8 step ++ leBytes 8 applied ++ leBytes 8 p.length ++ (shaBytes p).take 16 ++ leBytes 24 0
    ++ padTo ((p.length + 63) / 64 * 64) p

/-- The buffer of the step's parity is taken from the quota; a send in flight from it, or a quota that is
used up, holds the copy back. -/
def twinBuffer (x step pages : Nat) : M Unit := do
  let s ← getS
  let r := s.resc x
  if (tget none r.twin (step % 2)).isSome then stop .wait
  if s.getF (F.resCtlStgquota x) < s.getF (F.resStgHeld x) + pages then stop .wait
  setS fun s => (s.setResc x { r with twin := tput none r.twin (step % 2) (some ⟨step, pages⟩) }).stgTake x pages

/-- The entry leaves for the twin, or its buffer goes back when no send runs. -/
def State.twinSend (s : State) (x step : Nat) (e : List Byte) (slot pages : Nat) : State :=
  let give := (s.setResc x { s.resc x with twin := tput none (s.resc x).twin (step % 2) none }).stgGive x pages
  if s.getF (F.resTwinstState x) = 2 then give else
  match s.connOf x (s.getF (F.resTwinConn x)) with
  | none => give
  | some k =>
    (s.setF (F.resTwinstState x) 1).rmtMessage k
      { owner := .twin x step, opc := opWriteNotify, data := e, len := e.length,
        axh := some { key := BitVec.ofNat 32 (s.getF (F.resTwinKey x)), length := BitVec.ofNat 32 e.length,
                      offset := BitVec.ofNat 64 (s.getF (F.resTwinbaseOffset x) + slot * e.length), imm := 1,
                      reserved := 0 } }

/-- A close mirrors the twin regions: copy, local ring, send. -/
def mirror (x step applied : Nat) : M Unit := do
  let p ← twinPayload x
  if p.isEmpty then return
  let pages := (p.length + pageSize - 1) / pageSize
  twinBuffer x step pages
  let s ← getS
  let e := twinEntry step applied p
  let slot := step % Nat.max 1 (s.getF (F.resCtlTdepth x))
  cvaWrite (dieUnit 0) x (s.getF (F.resTwlocalCva x) + slot * e.length) e
  setS fun s => s.twinSend x step e slot pages

end Sys2Proof.Machine
end

