-- ==== Sys2Proof/Machine/Training.lean ====
section
/-! DEFINITION. Tally slots and the close of a step: reports, slot control, the counters and the loss scale, the
scale list and the step record (07 R196–R215). -/
namespace Sys2Proof.Machine

/-- A report reaches its slot. -/
def execTallyReport (index : Nat) (s : State) : Host.Outcome State Fault Refusal :=
  work s fun s =>
    match s.train.reports[index]? with
    | none => s
    | some r => ({ s with train.reports := ldrop s.train.reports index }).tallyArrive r

/-- A write of TALLY_CTL; a new owner or validity clears every count of the slot (07 R197). -/
def State.tallyCtl (s : State) (n v : Nat) : State :=
  let t := s.regWrite (regOr (F.tallyCtlOwner n).off) v
  if t.getF (F.tallyCtlOwner n) = s.getF (F.tallyCtlOwner n) ∧ t.getF (F.tallyCtlValid n) = s.getF (F.tallyCtlValid n) then t
  else
    (((((t.clearLive n).setF (F.tallyZero n) 0).setF (F.tallySat n) 0).setF (F.tallyNonfin n) 0).setF
      (F.tallyMaxMaxmag n) 0).setB (F.tallyCtlOvf n) false

def execTallyCtlWrite (slot : Fin 4096) (value : BitVec 32) (s : State) : Host.Outcome State Fault Refusal :=
  work s fun s => s.tallyCtl slot.val value.toNat

/-! ### Row 3 (07 R211, R212) -/

def lsOk (v : W32) : Bool := w32IsPow2 v && decide (2 ^ 23 ≤ v.toNat)
/-- The loss-scale fields of a record pass R212. -/
def StepRec.scalesOk (r : StepRec) : Bool :=
  lsOk r.lossScale && lsOk r.lsMin && lsOk r.lsMax && w32Le r.lsMin r.lossScale && w32Le r.lossScale r.lsMax

def lsDown (a b : W32) : W32 := if w32Lt b a then b else a
def lsUp (a b : W32) : W32 := if w32Lt a b then b else a

/-- LOSS_SCALE and CLEAN move by outcome (07 R211). -/
def StepRec.moveScale (r : StepRec) (applied : Bool) : StepRec :=
  if !bit r.flags 2 || (r.checkDue && !r.scalesOk) then r
  else if !applied then { r with lossScale := lsUp (w32Mul r.lossScale 0x3F000000#32) r.lsMin, clean := 0 }
  else if r.clean + 1 < (if r.growInt = 0 then 2000 else r.growInt) then { r with clean := r.clean + 1 }
  else { r with lossScale := lsDown (w32Mul r.lossScale 0x40000000#32) r.lsMax, clean := 0 }

/-- Row 3 of the close (07 R204, R211). -/
def StepRec.advance (r : StepRec) (applied : Bool) : StepRec :=
  let r := r.moveScale applied
  { r with step := r.step + 1, applied := r.applied + ofBool applied, skipped := r.skipped + ofBool (!applied),
           cursor := if !applied && bit r.flags 1 then r.cursor else r.cursor + 1 }

/-! ### Row 6: the scale list (07 R206) -/

/-- ⌈log2 (n / d)⌉ of positive numbers. -/
def ceilLog2Ratio (n d : Nat) : Int :=
  let f : Int := (Nat.log2 n : Int) - Nat.log2 d
  let le := fun k : Int => if 0 ≤ k then decide (n ≤ d * 2 ^ k.toNat) else decide (n * 2 ^ (-k).toNat ≤ d)
  if le (f - 1) then f - 1 else if le f then f else f + 1

/-- H of a list of histories; −0 counts as +0. -/
def histMax (l : List W32) : Nat := l.foldl (fun m h => Nat.max m (w32Units h)) 0

/-- An entry with no reserved field, of a slot the context owns. -/
def State.scaleOk (s : State) (x : Nat) (b : List Byte) : Bool :=
  let hlen := fieldAt b 3 1
  s.slotOk (fieldAt b 0 2) x && decide (fieldAt b 2 1 < 2) && decide (1 ≤ hlen) && decide (hlen ≤ 8)
    && decide (fieldAt b 4 1 < 16) && decide (fieldAt b 5 1 < hlen) && zeroAt b 6 2 && zeroAt b 48 16
    && fieldAt b 8 8 % 4 == 0 && (upTo hlen).all fun i => w32Nonneg (w32At b (16 + 4 * i))

/-- One entry of the scale list. -/
def scaleEntry (x i a : Nat) : M Unit := do
  let b ← cvaRead (dieUnit 0) x a 64
  let s ← getS
  if !(s.scaleOk x b) then
    setS fun s => s.record clsContext 0 uTally kInvalid i (some x) none a
  else
    let hlen := fieldAt b 3 1
    let pos := fieldAt b 5 1
    let v := BitVec.ofNat 32 (s.getF (F.tallyMaxMaxmag (fieldAt b 0 2)))
    let h := histMax ((upTo hlen).map fun j => if j = pos then v else w32At b (16 + 4 * j))
    cvaWrite (dieUnit 0) x (a + 16 + 4 * pos) (w32Bytes v)
    cvaWrite (dieUnit 0) x (a + 5) (leBytes 1 ((pos + 1) % hlen))
    if h != 0 then
      let emax := if fieldAt b 2 1 = 0 then 3 else 240
      let k := ceilLog2Ratio h (emax * 2 ^ (165 - fieldAt b 4 1))
      cvaWrite (dieUnit 0) x (fieldAt b 8 8) (w32Bytes (w32Pow2 (clampExp k)))

def scaleList (x : Nat) (r : StepRec) : M Unit :=
  (upTo r.nscale).forM fun i => scaleEntry x i (r.scaleList + 64 * i)

/-! ### Rows 5 to 7 (07 R204) -/

/-- Row 7: J fields are read again and the record is written. -/
def writeRecord (x step outcome steprec : Nat) : M Unit := do
  let bs ← cvaRead (dieUnit 0) x steprec 128
  setS fun s =>
    let r := (s.stepRec x).readJ bs
    s.setStepRec x { r with closed := step, outcome := outcome, doom := r.doomNext, doomNext := {},
                            checkDue := false }
  let r := (← getS).stepRec x
  cvaWrite (dieUnit 0) x steprec (stepRecBytes r r.doom)

/-- Row 5, for every slot the context owns. -/
def State.closeSlots (s : State) (x step : Nat) : State :=
  (s.slotsOwned x).foldl (fun s n => s.closeSlot x step n) s

/-- A converting command of the core has begun its stream in the step, or before. -/
def CoreSt.streams (c : CoreSt) (step : Nat) : Bool :=
  c.cmds.any fun w => match w.stream with
    | some q => decide (q.2 ≤ step) && bit (fieldAt w.cmd 1 1) 2
    | none => false

/-- Streams of the step still in flight, or reports on their way (row 4). -/
def State.draining (s : State) (x step : Nat) : Bool :=
  (s.train.reports.any fun r => r.ctx == x && decide (r.step ≤ step))
    || (s.eng.core.any fun e => (match e.2.inst with | some t => t.ctx == x | none => false) && e.2.streams step)
    || (match (s.cx x).saved with | some v => v.cores.any fun e => e.core.streams step | none => false)
    || (s.col1 x).cmds.any fun c => c.op == 1 && c.started && c.step == step

end Sys2Proof.Machine
end

