-- ==== Sys2Proof/Machine/Smithy.lean ====
section
/-! DEFINITION. The Smithy update unit: the request and its checks, the skip decision, chunk transactions, the
step commit record, the close, and export (08 R216–R248; 07 R204). -/
namespace Sys2Proof.Machine

/-! ### The request (08 R220–R225) -/

/-- Check failures of 08 R223: DETAIL the address, SUB the shard's index. -/
def updBad {α : Type} (a i : Nat) : M α := throw (.fault clsContext kInvalid i a none)
def updCheck (b : Bool) (a i : Nat) : M Unit := if b then pure () else updBad a i

/-- An access that a check makes: a translation or range that fails is a failure of the check. -/
def orBad {α : Type} (m : M α) (a i : Nat) : M α :=
  tryCatch m fun e => match e with
    | .fault c k su d u =>
      if k = kTranslation ∨ k = kBounds ∨ k = kInvalid then updBad a i else throw (.fault c k su d u)
    | e => throw e

/-- A page may be written, now or after a first-touch copy. -/
def pageWritable (x a : Nat) : M Unit :=
  tryCatch (do let _ ← translate (dieUnit 0) x a true) fun e => match e with
    | .touch _ _ => pure ()
    | e => throw e

/-- An array of a shard can be reached for what the update does with it. -/
def arrayOk (x : Nat) (h : Shard) (a n : Nat) (write : Bool) : M Unit := do
  if h.house then
    if !((← getS).houseRange h.hset a n) then ctxStop kBounds a
  else
    (pageList a n).forM fun p => do
      let _ ← translate (dieUnit 0) x p.1 false
      if write then pageWritable x p.1

def State.bundleOf (s : State) (g : Nat) : Option Nat :=
  (upTo 64).find? fun b => s.flag (F.bundleStatValid b) && decide (s.getF (F.bundleStatGroup0 b) ≤ g)
    && decide (g < s.getF (F.bundleStatGroup0 b) + s.getF (F.bundleNNgroup b))

/-- COUNT meets the sketch of the group. -/
def countOk (g : Grp) (n : Nat) : Bool :=
  if g.vsk = 1 then n % 32768 == 0 else if g.vsk = 2 then n % 128 == 0 else n % 16 == 0

/-- REDOn names a scratch way of the context on Pn, or none. -/
def redoOk (x d a : Nat) : M Bool := do
  if a = 0xFFFFFFFF then return true
  if a % 2 ^ 25 % 1572864 != 0 then return false
  match (cmRange x d a 1572864).go (← getS) with
  | (.ok _, _) => return true
  | (.error .wait, _) => stop .wait
  | _ => return false

/-- One shard of a request: its descriptor, its group's record, its arrays and its progress record. -/
def checkShard (x step i a : Nat) (redo : List Nat) (udesc : Nat) (seen : Tbl (Option Grp)) :
    M (Shard × Tbl (Option Grp)) := do
  let b ← orBad (cvaRead (dieUnit 0) x a 64) a i
  updCheck (shardOk b) a i
  let h := shardOf b
  let ga := 128 * h.group
  let g ← match tget none seen h.group with
    | some g => pure g
    | none => do
      let gb ← orBad (grpBytes h.group) ga i
      updCheck ((← getS).grpOk x gb) ga i
      pure (grpOf gb)
  let s ← getS
  updCheck (countOk g h.count && (g.vsk != 0 || h.mom2 == 0)) a i
  if bit g.flags 1 then
    updCheck (h.house && s.sealed h.hset && (s.bundleOf h.group).isSome) a i
  orBad (arrayOk x h h.master (4 * h.count) true) a i
  orBad (arrayOk x h h.mom1 (34880 * h.nChunks) true) a i
  if g.vsk != 0 then orBad (arrayOk x h h.mom2 (sketchBytes g.vsk * h.nChunks) true) a i
  orBad (arrayOk x h h.grad (2 * h.count) false) a i
  orBad (arrayOk x h h.digest (32 * h.nChunks) true) a i
  orBad (arrayOk x h h.progress 64 true) a i
  let p ← shRead 0 x h h.progress 64
  updCheck (decide (fieldAt p 0 8 ≤ step)) a i
  (upTo 4).forM fun d => do
    if redo.getD d 0 = 0xFFFFFFFF then
      if !(← chunkList x d h).isEmpty then updBad udesc i
  return (h, tput none seen h.group (some g))

/-- Every shard descriptor of an array, in order. -/
def checkShards (x step : Nat) (redo : List Nat) (udesc base : Nat) :
    List Nat → List Shard → Tbl (Option Grp) → M (List Shard × Tbl (Option Grp))
  | [], hs, gs => return (hs, gs)
  | i :: r, hs, gs => do
    let p ← checkShard x step i (base + 64 * i) redo udesc gs
    checkShards x step redo udesc base r (hs ++ [p.1]) p.2

/-- Fields of an update descriptor. -/
def descOk (s : State) (x : Nat) (b : List Byte) : Bool :=
  decide (fieldAt b 4 1 < 2) && decide (4 ≤ fieldAt b 5 1) && decide (fieldAt b 5 1 ≤ 12) && zeroAt b 6 2
    && decide (1 ≤ fieldAt b 8 4) && decide (fieldAt b 8 4 ≤ 65536) && w32Nonneg (w32At b 12)
    && w32Nonneg (w32At b 16) && zeroAt b 20 4 && fieldAt b 24 8 % 64 == 0 && fieldAt b 32 8 % 64 == 0
    && zeroAt b 56 72 && s.semUsable (fieldAt b 2 2) x

/-- The whole check of a request (08 R223). -/
def checkUpdate (x udesc : Nat) (b : List Byte) : M Upd := do
  let s ← getS
  updCheck (descOk s x b) udesc 0
  let redo := (upTo 4).map fun d => fieldAt b (40 + 4 * d) 4
  (upTo 4).forM fun d => do
    if !(← redoOk x d (redo.getD d 0)) then updBad udesc 0
  let step := s.stepNo x
  let r ← checkShards x step redo udesc (fieldAt b 24 8) (upTo (fieldAt b 8 4)) [] []
  return { step := step, phase := .waitQ, gosem := fieldAt b 0 2, donesem := fieldAt b 2 2,
           bell := bit (fieldAt b 4 1) 0, ringLog2 := fieldAt b 5 1, ring := fieldAt b 32 8,
           absurd := w32At b 12, clip := w32At b 16, redo := redo, shards := r.1, groups := r.2, consts := [],
           q := 0, n := 0, c := 0, k := 0, outcome := 0, taus := [], trustOwn := none, trustIn := [],
           lscale := 0, slots := [], after := 0, twinFrom := 0, redone := false }

/-- The coordinator waits on GOSEM as a request of the context, while no update of it is open; granted, it reads
the descriptor and checks the whole update (08 R221, R223; log entry 59). -/
def execUpdateRequest (ctx : Fin 256) (s : State) : Host.Outcome State Fault Refusal :=
  work s fun s =>
    let x := ctx.val
    match s.grant x with
    | none => s
    | some g =>
      if !(s.alive x) || (s.upd x).isSome then s else
      match (cvaRead (dieUnit 0) x g.udesc 128).go s with
      | (.error _, _) => s
      | (.ok b, r) =>
        let r := (r.unitJoin (fieldAt b 0 2) (.update x)).settle
        if !(r.resident x) then r else
        match r.unitTake (.update x) with
        | none => r
        | some t =>
          match (checkUpdate x g.udesc b).go t with
          | (.ok u, t) => t.setUpd x (some u)
          | (.error (.fault c k su d u), t) => t.stopFault x 0 uSmithy none (.fault c k su d u)
          | (.error _, _) => r

/-! ### The decision (08 R226–R228) -/

/-- pow of 08 R228; `f` bounds the bits of `t`. -/
def powGo : Nat → Nat → W32 → W32 → W32
  | 0, _, p, _ => p
  | f + 1, t, p, b => if t = 0 then p else powGo f (t / 2) (if t % 2 = 1 then w32Mul p b else p) (w32Mul b b)

def w32Pow (b : W32) (t : Nat) : W32 := powGo 64 t w32One b

def grpConsts (g : Grp) (t : Nat) : GrpC where
  a1 := w32Sub w32One g.beta1
  a2 := w32Sub w32One g.beta2
  r1 := if g.rule = 2 then w32Div w32One (w32Sub w32One (w32Pow g.beta1 t)) else 0
  r2 := if g.rule = 2 then w32Div w32One (w32Sub w32One (w32Pow g.beta2 t)) else 0
  d := w32Sub w32One (w32Mul g.lr g.wd)

/-- The decision on Q, and its constants. -/
def Upd.decide (u : Upd) (q l : W32) (applied : Nat) : Upd :=
  let li := w32Div w32One l
  let u := { u with q := q, lscale := l }
  if !(w32IsFinite q) then { u with phase := .skipped, outcome := 2, n := w32NaN, c := 0 }
  else
    let n := w32Mul (w32Sqrt q) li
    if !(w32IsZero u.absurd) && w32Lt u.absurd n then { u with phase := .skipped, outcome := 3, n := n, c := 0 }
    else
      let c := if w32IsZero u.clip || !(w32Lt u.clip n) then w32One else w32Div u.clip n
      { u with phase := .applied, outcome := 1, n := n, c := c, k := w32Mul c li,
               consts := u.groups.map fun e => (e.1, grpConsts (e.2.getD grp0) (applied + 1)) }

/-- A shard's progress record at the start of an applied update, unless the update resumes (08 R241). -/
def startShard (x step : Nat) (h : Shard) : M Unit := do
  let p ← shRead 0 x h h.progress 64
  if fieldAt p 0 8 != step || fieldAt p 44 1 != 1 then
    shWrite 0 x h h.progress (leBytes 8 step)
    (upTo 4).forM fun d => do
      shWrite d x h (h.progress + 8 + 8 * d) (leBytes 8 0)
      shWrite d x h (h.progress + 40 + d) (leBytes 1 0)
    shWrite 0 x h (h.progress + 44) (leBytes 1 1)

/-! ### Trust ratios (08 R230, 10 R284) -/

/-- Trust groups of an update, in increasing number. -/
def Upd.trust (u : Upd) : List Nat :=
  (u.groups.filter fun e => bit (e.2.getD grp0).flags 2).map (·.1)

/-- Bytes that a pass over a chunk reads: master, first moment, sketch, gradient. -/
def readChunk (d x : Nat) (h : Shard) (g : Grp) (c : Nat) :
    M (List Byte × List Byte × List Byte × List Byte) := do
  let n := h.chunkCount c
  let w ← shRead d x h (h.master + 131072 * c) (4 * n)
  let m ← shRead d x h (h.mom1 + 34880 * c) 34880
  let k ← if g.vsk = 0 then pure [] else shRead d x h (h.mom2 + sketchBytes g.vsk * c) (sketchBytes g.vsk)
  let r ← shRead d x h (h.grad + 65536 * c) (2 * n)
  return (w, m, k, r)

/-- The square sums of w and r over a chunk. -/
def trustChunk (x : Nat) (u : Upd) (h : Shard) (g : Grp) (c : Nat) : M (Ess × Ess) := do
  let d ← chunkDie x h c
  let b ← readChunk d x h g c
  let inp := chunkIn g (h.chunkCount c) b.1 b.2.1 b.2.2.1 b.2.2.2
  let o := chunkRule g (tget {} u.consts h.group) u.k inp
  return (inp.w.foldl Ess.addVal {}, (trustR g inp.w o.u).foldl Ess.addVal {})

/-- The sums of a group over the module's shards. -/
def trustGroup (x : Nat) (u : Upd) (n : Nat) : M (Ess × Ess) := do
  let g := (tget none u.groups n).getD grp0
  let parts ← (u.shards.filter fun h => h.group = n).mapM fun h => do
    (upTo h.nChunks).mapM fun c => trustChunk x u h g c
  return parts.flatten.foldl (fun a p => (a.1.add p.1, a.2.add p.2)) ({}, {})

/-- This module contributes: its REPLICA in the data-parallel map is 0. -/
def trustContributes (x : Nat) : M Bool := do
  let s ← getS
  let ms := (upTo 8).filterMap fun k =>
    match (mapRead x k).go s with
    | (.ok m, _) => if mapKind m < 2 ∧ mapG m != 0 then some m else none
    | (.error _, _) => none
  return match ms.head? with
    | some m => mapReplica m (mapSelf m) == 0
    | none => true

/-- The update-exchange map, which must be the active ring map. -/
def trustMap (x step : Nat) : M (List Byte) := do
  let s ← getS
  if !(s.flag (F.colCtlRvalid x)) then ctxStop kInvalid (step % 2 ^ 32)
  let m ← mapRead x (s.getF (F.colCtlRslot x))
  if mapKind m = 2 then return m else ctxStop kInvalid (step % 2 ^ 32)

/-- The pre-pass: own vector formed and sent to every other position (log entry 31). -/
def trustPass (x : Nat) (u : Upd) : M Unit := do
  if u.trust.isEmpty then return
  let m ← trustMap x u.step
  let mine ← trustContributes x
  let sums ← u.trust.mapM fun n => if mine then trustGroup x u n else return (({} : Ess), ({} : Ess))
  let v := sums.flatMap fun p => p.1.bytes ++ p.2.bytes
  (mapPeers m).forM fun p => do
    match (← getS).connOf x (mapConn m p 0) with
    | none => throw (.fault clsContext kHalt 0 (step32 + p * 2 ^ 32) none)
    | some k =>
      let h : Cxh := { mapid := BitVec.ofNat 32 (mapId m), gen := BitVec.ofNat 32 (mapGen m),
                       ctag := BitVec.ofNat 32 u.step, cop := 3, cxflags := 0, reserved := 0,
                       count := BitVec.ofNat 64 u.trust.length, coff := 0 }
      setS fun s => s.rmtMessage k
        { owner := .coll x step32, opc := opWrite, cxh := some h, data := v, len := v.length }
  setS fun s => match s.upd x with
    | some u => s.setUpd x (some { u with trustOwn := some v })
    | none => s
where
  step32 : Nat := u.step % 2 ^ 32

/-- Every position's vector is here: the trust ratios. -/
def State.trustRatios (s : State) (x : Nat) (u : Upd) : Option (Tbl W32) :=
  if u.trust.isEmpty then some [] else
  match u.trustOwn, (trustMap x u.step).go s with
  | some own, (.ok m, _) =>
    let vs := (upTo (mapG m)).map fun p =>
      if p = mapSelf m then some own else (u.trustIn.find? fun e => e.1 = p).map (·.2)
    if vs.any (·.isNone) then none else
    let vs := vs.filterMap id
    some ((u.trust.zip (upTo u.trust.length)).map fun p =>
      let g := (tget none u.groups p.1).getD grp0
      let wn := w32Sqrt (essSum (vs.map fun v => essOf (slice v (192 * p.2) 96))).toW32
      let rn := w32Sqrt (essSum (vs.map fun v => essOf (slice v (192 * p.2 + 96) 96))).toW32
      let t := if w32IsZero wn || w32IsZero rn then w32One else w32Div wn rn
      (p.1, if w32IsZero g.trmax then t else lsDown t g.trmax))
  | _, _ => none

/-- Accesses of the Smithy on a die stack that stopped in `t`: a fault tears the context down, everything else
stays for later. DOMAINDOWN is met as LINKDOWN is (14 R386; log entry 26). -/
def State.accessEnd (old t : State) (x die : Nat) (e : Stop) : State :=
  if e.isDomain then old else
  match e with
  | .fault c k su d u => t.stopFault x die uSmithy none (.fault c k su d u)
  | .touch y k => old.touch y k
  | _ => old

/-- Run accesses of the Smithy on a die stack; one that must wait leaves `old`. -/
def State.runFrom (s old : State) (x die : Nat) (m : M Unit) : State :=
  match m.go s with
  | (.ok _, s') => s'
  | (.error e, s') => old.accessEnd s' x die e

/-- Once the Q of the update's step is held (01 R24) the coordinator decides, forms the constants, and starts the trust pre-pass. -/
def execSkipDecision (ctx : Fin 256) (s : State) : Host.Outcome State Fault Refusal :=
  work s fun s =>
    let x := ctx.val
    match s.upd x, (s.col1 x).q with
    | some u, some (step, q) =>
      if u.phase != .waitQ || !(s.resident x) || step != u.step then s else
      let r := s.stepRec x
      let u := u.decide q r.lossScale r.applied
      (s.setUpd x (some u)).runFrom s x 0 (do
        if u.phase = .applied then
          trustPass x u
          u.shards.forM fun h => startShard x u.step h)
    | _, _ => s

/-! ### Chunks (08 R238–R242) -/

/-- A chunk that a Smithy may take up: shard, chunk, place in the window, and whether the progress record
has it open. -/
structure NextChunk where
  shard : Nat
  chunk : Nat
  place : Nat
  opened : Bool

/-- What a shard still has for a Smithy: `none` when nothing is left to take up, `some none` when the next
chunk must wait for the window. -/
def shardNext (d x : Nat) (u : Upd) (i : Nat) : M (Option (Option NextChunk)) := do
  let h := u.shard i
  let l ← chunkList x d h
  let dn ← progDone d x h
  let w ← progWin d x h
  let held := fun c => u.slots.any fun e => e.1 / 4 == d && match e.2 with
    | some k => k.shard == i && k.chunk == c
    | none => false
  let free := (upTo (l.length - dn)).find? fun j => !(decide (j < 4) && bit w (4 + j)) && !(held (l.getD (dn + j) 0))
  return match free with
    | none => none
    | some j => if j < 4 then some (some ⟨i, l.getD (dn + j) 0, j, bit w j⟩) else some none

/-- The next chunk of die stack `d` in shard order. -/
def nextChunk (d x : Nat) (u : Upd) : List Nat → M (Option NextChunk)
  | [] => return none
  | i :: r => do
    match ← shardNext d x u i with
    | some c => return c
    | none => nextChunk d x u r

/-- The scratch way that holds the redo region of a die stack, as cluster·16 + way (08 R220). -/
def State.redoWay (s : State) (x d a : Nat) : Option Nat :=
  let k := 8 * d + bits a 25 3
  (s.ownWays k x false)[a % 2 ^ 25 / 1572864]?.map fun w => k * 16 + w

/-- Bytes of slot `sl` of a redo region, also of one that a saved context keeps (16 R427). -/
def redoRead (x d redo o n : Nat) : M (List Byte) := do
  match ((← getS).cx x).kept.find? fun p => p.1 = d with
  | some (_, w) => do
    sramCheck cmWord (cmWord + w * 1572864 + o) n
    return readBytes 0 (← getS).mem.cm (w * 1572864 + o) n
  | none => cmRead x d (redo + o) n

/-- The inputs that a slot retains, in the order they were put there (08 R238). -/
def retained (x d redo o n k : Nat) : M (List Byte × List Byte × List Byte × List Byte) := do
  let m ← redoRead x d redo o (4 * n)
  let m1 ← redoRead x d redo (o + 4 * n) 34880
  let sk ← redoRead x d redo (o + 4 * n + 34880) k
  let gr ← redoRead x d redo (o + 4 * n + 34880 + k) (2 * n)
  return (m, m1, sk, gr)

/-- Rows 1 to 3 of a chunk on die stack `d` in slot `sl` (08 R231, R238, R242). A chunk that the record
has open and no slot holds takes its inputs from the slot's bytes. -/
def startChunk (d x sl : Nat) (u : Upd) (c : NextChunk) : M Unit := do
  let h := u.shard c.shard
  let g := u.grp c.shard
  let n := h.chunkCount c.chunk
  let redo := u.redo.getD d 0
  let b ← if c.opened then retained x d redo (sl * 393216) n (sketchBytes g.vsk) else readChunk d x h g c.chunk
  if !c.opened then cmWrite x d (redo + sl * 393216) (b.1 ++ b.2.1 ++ b.2.2.1 ++ b.2.2.2)
  let tau := tget w32One u.taus h.group
  let o := computeChunk g (tget {} u.consts h.group) u.k tau c.shard c.chunk n b.1 b.2.1 b.2.2.1 b.2.2.2
  let ch := if c.opened then { o.1 with opened := true, todo := 2 } else o.1
  setS fun s =>
    let f := s.fresh
    (((f.2.setUpd x (some (u.setSlot (retKey d sl) (some ch)))).incF (F.smyRetIssue d) 1).incF (F.smyBusy d)
      f.1.toNat)
  if !o.2 then throw (.fault clsContext kInvalid c.shard (h.master + 131072 * c.chunk) none)

/-- What the Smithy of die stack `d` may take up for a context: a free slot, the update with its trust ratios
formed, and the next chunk; a stop where that cannot be read. -/
def State.chunkFor (s : State) (d x : Nat) : Option (Except Stop (Nat × Upd × NextChunk) × State) :=
  match s.upd x with
  | none => none
  | some u =>
    if u.phase != .applied || !(s.resident x) || !(s.inService d) then none else
    match (upTo 4).find? fun sl => (tget none u.slots (retKey d sl)).isNone, s.trustRatios x u with
    | some sl, some taus =>
      let u := { u with taus := taus }
      match (nextChunk d x u (upTo u.shards.length)).go s with
      | (.ok (some c), t) => some (.ok (sl, u, c), t)
      | (.ok none, _) => none
      | (.error e, t) => some (.error e, t)
    | _, _ => none

/-- A context has a chunk that the Smithy can take up now. -/
def State.chunkReady (s : State) (d x : Nat) : Bool :=
  match s.chunkFor d x with
  | some (.ok _, _) => true
  | _ => false

/-- Contexts take turns, chunk by chunk, from the one after the last served (08 R245). -/
def State.smyTurn (s : State) (d : Nat) : Option Nat :=
  let t := tget 0 s.smithy.turn d
  ((upTo 256).map fun i => (t + i) % 256).find? fun y => s.chunkReady d y

/-- With a retain slot free the Smithy reads, retains and computes the next chunk of its list, once every
trust ratio is formed. -/
def execChunkStart (ctx : Fin 256) (die : Fin 4) (s : State) : Host.Outcome State Fault Refusal :=
  work s fun s =>
    let x := ctx.val
    let d := die.val
    match s.chunkFor d x with
    | none => s
    | some (.error e, t) => s.accessEnd t x d e
    | some (.ok (sl, u, c), t) =>
      if s.smyTurn d != some x then s else
      let t := { t with smithy.turn := tput 0 t.smithy.turn d (x + 1) }
      (t.setUpd x (some u)).runFrom s x d (startChunk d x sl u c)

/-- The chunk in a retain slot of die stack `d`, with its update. -/
def State.slotChunk (s : State) (x d sl : Nat) : Option (Upd × ChunkS) :=
  match s.upd x with
  | none => none
  | some u => (tget none u.slots (retKey d sl)).map fun c => (u, c)

/-- Row 5 of an open chunk: what is left of it stays in `todo`. -/
def State.chunkRow5 (s : State) (x d sl : Nat) : State :=
  match s.slotChunk x d sl with
  | none => s
  | some (u, c) =>
    let mark := fun (s : State) n => match s.upd x with
      | some u => s.setUpd x (some (u.setSlot (retKey d sl) (some { c with todo := n })))
      | none => s
    match (writeChunk d x (u.shard c.shard) (u.grp c.shard) c).go s with
    | (.ok _, t) => mark t 0
    | (.error (.touch y k), t) => mark (t.touch y k) 1
    | (.error .linkDown, t) => mark t 2
    | (.error .wait, t) => mark t 1
    | (.error (.fault cl k su dt un), t) =>
      if Stop.isDomain (.fault cl k su dt un) then mark t 2
      else t.stopFault x d uSmithy none (.fault cl k su dt un)

/-- Die stacks whose Smithy has a chunk of the context open (08 R238). -/
def State.openDies (s : State) (x : Nat) : List Nat :=
  match s.upd x with
  | none => []
  | some u => ((u.slots.filter fun e => e.2.elim false (·.opened)).map fun e => e.1 / 4).eraseDups

/-- Ways that a save leaves with the context: the redo ways of open chunks (16 R427). -/
def State.keptWays (s : State) (x : Nat) : List (Nat × Nat) :=
  match s.upd x with
  | none => []
  | some u => (s.openDies x).filterMap fun d => (s.redoWay x d (u.redo.getD d 0)).map fun w => (d, w)

/-- A chunk that the Smithy of die stack `d` took up earlier has not been opened (08 R241). -/
def Upd.before (u : Upd) (d : Nat) (c : ChunkS) : Bool :=
  u.slots.any fun e => e.1 / 4 == d && match e.2 with
    | some b => !b.opened && (b.shard.blt c.shard || (b.shard == c.shard && b.chunk.blt c.chunk))
    | none => false

/-- The mark that opens a chunk has not been acknowledged (08 R238). -/
def State.markOut (s : State) (x d : Nat) (u : Upd) (c : ChunkS) : Bool :=
  let h := u.shard c.shard
  s.unacked x (s.shTargets d x h h.progress 64)

/-- Once the retain copy is acknowledged the progress record marks the chunk open, in the order of the list;
once the mark is acknowledged the writes go out. -/
def execChunkOpen (ctx : Fin 256) (die slot : Fin 4) (s : State) : Host.Outcome State Fault Refusal :=
  work s fun s =>
    let x := ctx.val
    let d := die.val
    let sl := slot.val
    match s.slotChunk x d sl with
    | none => s
    | some (u, c) =>
      if c.opened || u.before d c || !(s.resident x) then s else
      let h := u.shard c.shard
      match (do markOpen d x h (← winPlace d x h c.chunk) : M Unit).go s with
      | (.ok _, t) =>
        let t := t.setUpd x (some (u.setSlot (retKey d sl) (some { c with opened := true, todo := 1 })))
        if t.markOut x d u c then t else t.chunkRow5 x d sl
      | (.error e, t) => s.accessEnd t x d e

/-- Rows 6 and 7: once every write is acknowledged the chunk is marked done, its slot returned and reports made; a
switch that waited for the window goes on (16 R426). -/
def execChunkDone (ctx : Fin 256) (die slot : Fin 4) (s : State) : Host.Outcome State Fault Refusal :=
  work s fun s =>
    let x := ctx.val
    let d := die.val
    match s.slotChunk x d slot.val with
    | none => s
    | some (u, c) =>
      if !c.opened || c.todo = 2 || (c.todo = 1 && s.markOut x d u c) then s else
      let t := if c.todo = 0 then s else s.chunkRow5 x d slot.val
      match t.slotChunk x d slot.val with
      | none => t
      | some (u, c) =>
        if c.todo != 0 || t.unacked x (t.chunkPlaces d x u c) then t else
        match t.chunkRow7 x d slot.val u c with
        | (none, r) =>
          if (r.openDies x).contains d then r else r.releaseKept x d
        | (some e, r) => t.accessEnd r x d e

/-- The chunk in a slot computed again from the inputs retained there (08 R242). -/
def recompute (x d sl : Nat) (u : Upd) (c : ChunkS) : M Unit := do
  let g := u.grp c.shard
  let n := (u.shard c.shard).chunkCount c.chunk
  let b ← retained x d (u.redo.getD d 0) (sl * 393216) n (sketchBytes g.vsk)
  let tau := tget w32One u.taus (u.shard c.shard).group
  let o := computeChunk g (tget {} u.consts (u.shard c.shard).group) u.k tau c.shard c.chunk n b.1 b.2.1 b.2.2.1 b.2.2.2
  setS fun s => s.setUpd x (some (u.setSlot (retKey d sl) (some { o.1 with opened := true, todo := 2 })))

/-- A redo whose writes have gone out is counted, in the progress record and in SMY_REDOS (08 R242). -/
def countRedo (x d : Nat) (h : Shard) : M Unit := do
  let n := leNat (← shRead d x h (h.progress + 48 + 4 * d) 4)
  shWrite d x h (h.progress + 48 + 4 * d) (leBytes 4 (n + 1))
  setS fun s => (match s.upd x with
    | some u => s.setUpd x (some { u with redone := true })
    | none => s).incF (F.smyRedos d) 1

/-- An open chunk whose writes a link lost is recomputed from its retained inputs, rewritten and counted. -/
def execChunkRedo (ctx : Fin 256) (die slot : Fin 4) (s : State) : Host.Outcome State Fault Refusal :=
  work s fun s =>
    let x := ctx.val
    let d := die.val
    match s.slotChunk x d slot.val with
    | none => s
    | some (u, c) =>
      if !c.opened || c.todo != 2 then s else
      match (recompute x d slot.val u c).go s with
      | (.error e, t) => s.accessEnd t x d e
      | (.ok _, t) =>
        let t := t.chunkRow5 x d slot.val
        match t.slotChunk x d slot.val with
        | none => t
        | some (_, c) =>
          if c.todo = 2 then t else
          match (countRedo x d (u.shard c.shard)).go t with
          | (.ok _, r) => r
          | (.error e, r) => s.accessEnd r x d e

/-! ### The step commit record and the close (08 R243, 07 R204) -/

/-- Every chunk of a shard is done on every list. -/
def shardDone (x : Nat) (h : Shard) : M Bool := do
  let r ← (upTo 4).mapM fun d => do return (← chunkList x d h).length == (← progDone d x h)
  return r.all id

def recordBytes (s : State) (u : Upd) (applied : Nat) : List Byte :=
  let ok := u.outcome == 1
  let chunks := if ok then u.shards.foldl (fun n h => n + h.nChunks) 0 else 0
  leBytes 8 u.step ++ leBytes 1 u.outcome
    ++ leBytes 1 (place (ofBool (ok && w32Lt u.c w32One)) 0 1 + place (ofBool u.redone) 1 1) ++ leBytes 2 0
    ++ w32Bytes u.q ++ w32Bytes u.n ++ w32Bytes u.c ++ w32Bytes u.lscale ++ leBytes 4 0 ++ leBytes 8 applied
    ++ leBytes 8 chunks ++ leBytes 8 (s.getF (F.watchNs 0)) ++ leBytes 8 0

/-- With every chunk complete or the step skipped the coordinator writes the step commit record, sends its
Bell and advances the counters (row 3). -/
def execStepCommitRecord (ctx : Fin 256) (s : State) : Host.Outcome State Fault Refusal :=
  work s fun s =>
    let x := ctx.val
    match s.upd x with
    | none => s
    | some u =>
      if !(s.resident x) || !(u.slots.isEmpty) || (u.phase != .applied && u.phase != .skipped)
        || u.shards.any fun h => s.unacked x (s.shTargets 0 x h h.progress 64) then s else
      let ok := u.outcome == 1
      let r := (s.stepRec x).advance ok
      s.runFrom s x 0 (do
        if ok then
          u.shards.forM fun h => do if !(← shardDone x h) then stop .wait
        cvaWrite (dieUnit 0) x (u.ring + 64 * (u.step % 2 ^ u.ringLog2)) (recordBytes (← getS) u r.applied)
        if ok then u.shards.forM fun h => shWrite 0 x h (h.progress + 44) (leBytes 1 2)
        setS fun s =>
          let s := if u.bell then s.bell bellStep x u.outcome u.step else s
          let s := (s.setUpd x (some { u with phase := .drain })).setStepRec x r
          let s := s.setCol x { s.col1 x with q := none }
          if ok then { s with smithy.groups := u.groups.foldl (fun t e => tput none t e.1 e.2) s.smithy.groups } else s)

/-- The snapshot open and the twin copy, as far as they can go now (18 R461, R471). -/
def State.closeAfter (s : State) (x : Nat) (u : Upd) : State :=
  let applied := (s.stepRec x).applied
  let r := if bit u.after 0 then s.openSnapshot x u.step applied else (true, s)
  let u := if r.1 then { u with after := insert u.after 0 1 0 } else u
  let s := r.2
  if !(s.alive x) then s else
  if !bit u.after 1 then s.setUpd x (some u) else
  match (mirror x u.step applied).go s with
  | (.ok _, s) =>
    let now := s.getF (F.watchNs 0)
    let s := if u.twinFrom = 0 then s else s.incF (F.resTwinwaitUs x) ((now + 1 - u.twinFrom) / 1000)
    s.setUpd x (some { u with after := insert u.after 1 1 0, twinFrom := 0 })
  | (.error (.fault c k su d w), s) => s.stopFault x 0 uRes none (.fault c k su d w)
  | (.error _, _) =>
    s.setUpd x (some (if u.twinFrom = 0 then { u with twinFrom := s.getF (F.watchNs 0) + 1 } else u))

/-- Rows 4 to 7: with the step's streams drained the close closes slots, updates scales and writes the step
record; then the snapshot open and the twin mirror begin. -/
def execCloseDrainEnd (ctx : Fin 256) (s : State) : Host.Outcome State Fault Refusal :=
  work s fun s =>
    let x := ctx.val
    match s.upd x, s.grant x with
    | some u, some g =>
      if u.phase != .drain || s.draining x u.step then s else
      let r := s.stepRec x
      let bad := r.checkDue && !r.scalesOk
      let many := decide (4096 < r.nscale)
      let ok := u.outcome == 1
      match (do
          setS fun s => s.closeSlots x u.step
          if ok && !bad && !many then
            tryCatch (scaleList x r) fun e => match e with
              | .fault c k su d _ => throw (.fault c k su d (some uTally))
              | e => throw e
          writeRecord x u.step u.outcome g.steprec
          setS fun s => if ok then s.setF (F.colLastappStep x) u.step else s : M Unit).go s with
      | (.error (.fault c k su d w), t) => t.stopFault x 0 uSmithy none (.fault c k su d w)
      | (.error (.touch y k), _) => s.touch y k
      | (.error _, _) => s
      | (.ok _, t) =>
        if bad || (ok && many) then t.ctxFault x 0 uTally kInvalid 0 g.steprec
        else
          let due := t.flag (F.resCtlEnable x)
          let snap := due && ok && decide (t.getF (F.resNextApplied x) ≤ (t.stepRec x).applied)
          let u := { u with phase := .recorded, after := place (ofBool snap) 0 1 + place (ofBool due) 1 1 }
          (t.setUpd x (some u)).closeAfter x u
    | _, _ => s

/-- Row 8: DONESEM is signalled once the record, the snapshot open and the twin copy are complete. -/
def execDonesemSignal (ctx : Fin 256) (s : State) : Host.Outcome State Fault Refusal :=
  work s fun s =>
    let x := ctx.val
    match s.upd x with
    | none => s
    | some u =>
      if u.phase != .recorded then s else
      let s := if u.after = 0 then s else s.closeAfter x u
      match s.upd x with
      | none => s
      | some u =>
        if u.after != 0 then s else
        let t := s.setUpd x none
        match (if t.semUsable u.donesem x then t.semSignal u.donesem 1 else none) with
        | some t => t.settle
        | none => t.ctxFault x 0 uSmithy kOverflow 0 u.donesem

/-! ### Export (08 R247) -/

/-- A write of SMY_EXP_CTL: with GO it starts an export, unless one runs. -/
def State.exportWrite (s : State) (v : Nat) : State :=
  let r := regOr F.smyExpCtlCtx.off
  match s.regRefused r v with
  | some s => s
  | none =>
    if !bit v 8 then s.regWrite r v
    else if !(s.flag F.smyExpStDone) then (s.rejected F.smyExpCtlGo).regWrite r v
    else
      let s := s.regWrite r v
      let s := s.setB F.smyExpStDone false
      { s with smithy.exp := some ⟨s.getF F.smyExpCtlCtx, s.getF F.smyExpShardCva, s.getF F.smyExpDstCva⟩ }

def execSmyExport (value : Word64) (s : State) : Host.Outcome State Fault Refusal :=
  regWork s F.smyExpCtlCtx.off fun s => s.exportWrite value.toNat

def exWritten : Nat := 0
def exPolicy : Nat := 1
def exInvalid : Nat := 2
def exTranslation : Nat := 3

/-- The group of an exported shard may be exported (08 R247, 17 R454). -/
def State.exportAllowed (s : State) (g : Nat) (gr : Grp) : Bool :=
  !bit gr.flags 1 || match s.bundleOf g with
    | some b => s.flag (F.bundleStatExport b)
    | none => false

/-- Derive and write a shard's working copy; the result code. -/
def exportRun (e : Export) : M Nat := do
  let x := e.ctx
  let b ← cvaRead (dieUnit 0) x e.shard 64
  if !shardOk b then return exInvalid
  let h := shardOf b
  let g? : Option Grp ← tryCatch (some <$> groupFor x h.group) fun e => match e with
    | .fault _ k _ _ _ => if k = kInvalid then pure none else throw e
    | e => throw e
  let g := g?.getD grp0
  if g?.isNone || !(countOk g h.count) then return exInvalid
  if !((← getS).exportAllowed h.group g) then return exPolicy
  shardIdle x h
  (upTo h.nChunks).forM fun c => do
    let d ← chunkDie x h c
    let n := h.chunkCount c
    let r ← deriveRun x d h g (c * chunkLen) n
    cvaWrite (dieUnit d) x (e.dst + wcElems g (c * chunkLen)) r.1
    cvaWrite (dieUnit d) x (e.dst + wcElems g h.count + wcScales g (c * chunkLen)) r.2
  return exWritten

def State.exportEnd (s : State) (code : Nat) : State :=
  { (s.setB F.smyExpStDone true).setF F.smyExpStResult code with smithy.exp := none }

/-- The export ends and DONE is set with a result code; it waits while the shard's update is in progress. -/
def execExportDone (s : State) : Host.Outcome State Fault Refusal :=
  work s fun s =>
    match s.smithy.exp with
    | none => s
    | some e =>
      match (exportRun e).go s with
      | (.ok c, t) => t.exportEnd c
      | (.error (.fault c k su d u), t) =>
        if k = kTranslation ∨ k = kBounds then t.exportEnd exTranslation
        else (t.exportEnd exTranslation).stopFault e.ctx 0 uSmithy none (.fault c k su d u)
      | (.error (.touch y k), _) => s.touch y k
      | (.error _, _) => s

end Sys2Proof.Machine
end

