-- ==== Sys2Proof/Machine/Puell.lean ====
section
/-! DEFINITION. The Puell companion links: training, replay, coherence, the HBM aperture, link down, key
switches and the sending of Bells (13 R352–R370). Control-window accesses and flits are in later files. -/
namespace Sys2Proof.Machine

/-! ### States of a link -/

def plDown : Nat := 0
def plTraining : Nat := 1
def plActive : Nat := 2
def plRetrain : Nat := 3
def plHeld : Nat := 4

def State.plSt (s : State) (l : Nat) : Nat := s.getF (F.plStatusState l)
/-- A new state of a link sends a Bell (13 R370). -/
def State.setPlSt (s : State) (l st : Nat) : State :=
  if s.plSt l = st then s else (s.setF (F.plStatusState l) st).bell bellLink l st 0

/-- Training and retraining reset the link's clocked domain with its crossings (14 R387). -/
def State.plTrain (s : State) (l st : Nat) : State := (s.xingReset (2 * l) 14 false).setPlSt l st

/-- Messages that break the link's rules are discarded, counted and recorded (13 R358). -/
def State.plProtoErr (s : State) (l : Nat) : State :=
  (s.incF (F.plCtr11 l) 1).record clsDie (2 * l) uPuell kInvalid 0 none none l

/-- Head lines of every context are watched again. -/
def State.watchHeads (s : State) : State := s.grantees.foldl (fun s x => s.watchHead x) s

/-! ### Training and replay (13 R353, R356, R358) -/

/-- Lanes of a width code that are all good in some aligned position. -/
def widthGood (w ok : Nat) : Bool :=
  match w with
  | 0 => bits ok 0 16 == 0xFFFF
  | 1 => bits ok 0 8 == 0xFF || bits ok 8 8 == 0xFF
  | 2 => (upTo 4).any fun i => bits ok (4 * i) 4 == 0xF
  | _ => false

/-- The widest width within MAXW whose lanes are all good (13 R353). -/
def widest (maxw ok : Nat) : Option Nat := (upTo 3).find? fun w => decide (maxw ≤ w) && widthGood w ok

/-- The widths a training found are the widest that its good lanes and MAXW allow. -/
def State.trained (s : State) (l : Nat) (t : Training) : Bool :=
  let m := s.getF (F.plCfgMaxw l)
  widest m t.txok.toNat == some t.txw.toNat && widest m t.rxok.toNat == some t.rxw.toNat

/-- Unacknowledged flits go out again from the oldest, each encrypted anew; the same flit too often in a row
retrains the link. -/
def State.replayFrom (s : State) (l : Nat) : State :=
  let k := s.pl l
  match k.replay.head? with
  | none => s
  | some f =>
    let n := if k.sameCount != 0 && k.sameSeq == f.1 then k.sameCount + 1 else 1
    let s := s.setPl l { k with sameCount := n, sameSeq := f.1 }
    k.replay.foldl (fun s f => s.dataOut l f) ((s.incF (F.plCtr3 l) 1).incF (F.plCtr0 l) k.replay.length)

/-- The link retrains from EQ: a new key epoch, positions from 0, the replay buffer kept. -/
def State.beginRetrain (s : State) (l : Nat) : State :=
  let k := s.pl l
  let s := s.setPl l { k with txEpoch := k.txEpoch + 1, rxEpoch := k.rxEpoch + 1, fposTx := 0, fposRx := 0,
                              sameCount := 0, gap := false }
  (s.incF (F.plCtr4 l) 1).plTrain l plRetrain

/-- A replay, and the retrain that REPLAYMAX replays of one flit bring. -/
def State.replay (s : State) (l : Nat) : State :=
  let s := s.replayFrom l
  if s.getF (F.plCfgReplaymax l) ≤ (s.pl l).sameCount then s.beginRetrain l else s

/-- FACK covers flits of the replay buffer up to its own FSEQ. -/
def dropAcked (fack : Nat) (r : List (Nat × PlMsg)) : List (Nat × PlMsg) :=
  if r.any fun f => f.1 = fack then (r.dropWhile fun f => f.1 != fack).drop 1 else r

def State.plAck (s : State) (l fack : Nat) : State :=
  let k := s.pl l
  let r := dropAcked fack k.replay
  if r.length = k.replay.length then s else (s.setPl l { k with replay := r, sameCount := 0 }).plPump l

/-- Requests left waiting while no link was up go out on the link that is. -/
def State.takeOver (s : State) (l : Nat) : State :=
  let qs := (upTo 2).flatMap fun k => if s.linkUp k && k != l then [] else (s.pl k).tagWait
  let s := (upTo 2).foldl (fun s k => if s.linkUp k && k != l then s else s.setPl k { s.pl k with tagWait := [] }) s
  qs.foldl (fun s q => s.plRequest l q.opc q.addr q.owner q.merge q.data) s

/-- A link finishes training and enters ACTIVE, or ends a retrain and replays what is unacknowledged. -/
def execPlActive (link : Fin 2) (t : Training) (s : State) : Host.Outcome State Fault Refusal :=
  act s fun s =>
    let l := link.val
    let st := s.plSt l
    if (st != plTraining && st != plRetrain) || !(s.trained l t) then s
    else
      let s := (s.setF (F.plStatusTxw l) t.txw.toNat).setF (F.plStatusRxw l) t.rxw.toNat
      let s := (s.setB (F.plStatusReversed l) t.reversed).setF (F.plLanesTxok l) t.txok.toNat
      let s := (s.setF (F.plLanesRxok l) t.rxok.toNat).setPlSt l plActive
      let k := { s.pl l with retrainFails := 0 }
      if st = plRetrain then ((s.setPl l k).replayFrom l).plPump l
      else
        let conf := s.flag F.secStatusConf
        let s := s.setPl l { k with credReq := 256, credData := 256, credBell := 32, advReq := ⟨64, 0⟩,
                                    advData := ⟨64, 0⟩, advSnp := ⟨256, 0⟩, rxConf := conf }
        (((s.setB (F.plStatusConf l) conf).plPump l).takeOver l).watchHeads

/-- A NAK: the sender replays from FACK + 1. -/
def execNakFlit (link : Fin 2) (fack : BitVec 12) (s : State) : Host.Outcome State Fault Refusal :=
  act s fun s =>
    let l := link.val
    if s.plSt l != plActive then s else (s.plAck l fack.toNat).replay l

/-- 2 µs without an advance of FACK: the sender replays. -/
def execReplayTimer (link : Fin 2) (s : State) : Host.Outcome State Fault Refusal :=
  act s fun s => if s.plSt link.val != plActive then s else s.replay link.val

/-! ### Link down (13 R367) -/

/-- Chunks whose writes a link lost stay open and are redone (08 R242): those of a context that had a write
outstanding there and that write to companion memory. -/
def State.lostChunks (s : State) (x : Nat) : State :=
  match s.upd x with
  | none => s
  | some u =>
    s.setUpd x (some { u with slots := u.slots.map fun e =>
      (e.1, e.2.map fun c => if c.opened && c.todo == 0 && !(s.chunkPlaces (e.1 / 4) x u c).isEmpty then { c with todo := 2 } else c) })

/-- What a lost request asks for when it goes out again: a write-back carries the home's content, which has it
already (log entry 3). Nothing is left of a head line's request. -/
def State.askAgain (s : State) (r : PlReq) : Option PlAsk :=
  if r.opc = rqWrLine ∨ r.opc = rqWb then some ⟨rqWrLine, r.addr, r.owner, [], readBytes 0 s.mem.comp r.addr 64⟩
  else if r.opc = rqOwn ∨ r.opc = rqCur then some ⟨r.opc, r.addr, r.owner, r.merge, []⟩
  else none

/-- A request that a link lost goes out again on the other link. While that is down too, a mover's context
faults, and the other units' requests wait for a link (13 R367, 05 R138; log entry 39). -/
def State.reissue (s : State) (l : Nat) (q : PlAsk) : State :=
  if s.linkUp (1 - l) then s.plRequest (1 - l) q.opc q.addr q.owner q.merge q.data
  else match q.owner with
    | .mover g => match (s.core g).inst with
      | some t => s.ctxFault t.ctx (g / 64) uMover kTimeout 0 14 none (some (t.subseq, t.task))
      | none => s
    | .head _ => s
    | _ => s.setPl l { s.pl l with tagWait := (s.pl l).tagWait ++ [q] }

/-- Contexts for which a base-die unit had a write outstanding on a link. -/
def PlLink.unitCtxs (k : PlLink) : List Nat :=
  ((k.reqs.filter fun r => r.opc != rqCur).filterMap fun r => match r.owner with
    | .unit x => some x
    | _ => none).eraseDups

/-- A link leaves service: lines held over it become I, its requests complete LINKDOWN, their units act
as 13 R367 lists. Its key epochs are not used again (log entry 39). -/
def State.linkLost (s : State) (l st : Nat) : State :=
  let k := s.pl l
  let s := (s.incF (F.plCtr5 l) 1).setPlSt l st
  let s := (s.setF (F.plStatusTxw l) 3).setF (F.plStatusRxw l) 3
  let s : State := { s with puell.lines := s.puell.lines.filter fun e => e.2.link != l }
  let s := s.setPl l { txEpoch := k.txEpoch + 1, rxEpoch := k.rxEpoch + 1, heldBy := k.heldBy }
  let s := k.unitCtxs.foldl (fun s x => s.lostChunks x) s
  let s := (k.reqs.filterMap s.askAgain ++ k.tagWait.filter fun q => q.opc != rqShared && q.opc != rqEvict).foldl
    (fun s q => s.reissue l q) s
  s.watchHeads

/-- A link goes DOWN. -/
def execPlLinkDown (link : Fin 2) (s : State) : Host.Outcome State Fault Refusal :=
  act s fun s =>
    let l := link.val
    let st := s.plSt l
    if st = plDown ∨ st = plHeld then s else s.linkLost l plDown

/-- A retrain begins, or one that runs fails: three failures in a row, or no width, bring the link down. -/
def execRetrain (link : Fin 2) (widthFound : Bool) (s : State) : Host.Outcome State Fault Refusal :=
  act s fun s =>
    let l := link.val
    let st := s.plSt l
    if st = plActive then
      let s := s.beginRetrain l
      if widthFound then s else s.linkLost l plDown
    else if st = plRetrain then
      let k := s.pl l
      if !widthFound || 3 ≤ k.retrainFails + 1 then s.linkLost l plDown
      else s.setPl l { k with retrainFails := k.retrainFails + 1 }
    else if st = plTraining && !widthFound then s.linkLost l plDown
    else s

/-! ### Keys (13 R368, 17 R450) -/

/-- A LINKCTL flit switches to the next key epoch. -/
def execKeySwitch (link : Fin 2) (s : State) : Host.Outcome State Fault Refusal :=
  act s fun s =>
    let l := link.val
    if s.plSt l != plActive || !(s.flag (F.plStatusConf l)) then s else s.keyNext l

/-- A LINKCTL flit of the companion switches the receiving direction to the next key epoch (13 R368, 17 R450). -/
def State.rxNext (s : State) (l : Nat) (sel : Bool) : State :=
  let k := s.pl l
  if (s.flag (F.plStatusConf l) || s.sec.confPend) && sel != k.rxSel then
    s.setPl l { k with rxEpoch := k.rxEpoch + 1, rxSel := sel, fposRx := 0, rxConf := true }
  else s

/-- An ACTIVE link switches to encrypted flits; with every one switched CONFPEND clears. -/
def execConfKeySwitch (link : Fin 2) (s : State) : Host.Outcome State Fault Refusal :=
  work s fun s =>
    let l := link.val
    if !s.sec.confPend || s.plSt l != plActive || s.flag (F.plStatusConf l) then s
    else
      let s := (s.keyNext l).setB (F.plStatusConf l) true
      if (upTo 2).all fun k => s.plSt k != plActive || s.flag (F.plStatusConf k) then
        { s with sec.confPend := false }
      else s

/-! ### Answers to snoops (13 R362, R363) -/

def rspI : Nat := 0x05
def rspS : Nat := 0x06

/-- Contexts whose watched head line lies at a companion address. -/
def State.headsAt (s : State) (a : Nat) : List Nat :=
  s.grantees.filter fun x => s.consuming x &&
    match (translate (dieUnit 0) x (s.headCva x) false).go s with
    | (.ok (.comp b), _) => b == a
    | _ => false

/-- A snoop is applied to the line and answered; a head line that goes is watched again after RWDELAY. -/
def State.snoopNow (s : State) (l tag a : Nat) (inv : Bool) : State :=
  let line := s.plLine a
  let gone := inv || line.st == .i
  let s := s.setLine a (if gone then {} else { line with st := .s })
  let s := if line.st == .s && inv then
      (s.headsAt a).foldl (fun s x => { s with sched.rewatch := tput false s.sched.rewatch x true }) s
    else s
  (s.incF (F.plCtr8 l) 1).plSend l
    { cls := clsRsp, opc := if gone then rspI else rspS, tag := tag, addr := a, mask := 2 ^ 64 - 1,
      data := if line.st == .m then line.data else [] }

/-- A request for the line is outstanding whose response comes first. -/
def State.snoopHeld (s : State) (l a : Nat) : Bool :=
  (s.pl l).reqs.any fun r => r.addr = a ∧ r.opc != rqWb ∧ r.opc != rqEvict

def State.snoop (s : State) (l tag a : Nat) (inv : Bool) : State :=
  if s.plSt l != plActive then s else
  let a := a / 64 * 64
  let s := s.plTake l clsSnp false
  if s.snoopHeld l a then
    let k := s.pl l
    s.setPl l { k with snoops := k.snoops ++ [(tag, a, inv)] }
  else s.snoopNow l tag a inv

/-- Snoops that were held behind a line's request are applied in order. -/
def State.snoopsOf (s : State) (l a : Nat) : State :=
  if s.snoopHeld l a then s else
  let k := s.pl l
  let mine := k.snoops.filter fun p => p.2.1 = a
  mine.foldl (fun s p => s.snoopNow l p.1 p.2.1 p.2.2)
    (s.setPl l { k with snoops := k.snoops.filter fun p => p.2.1 != a })

def execSnpinv (link : Fin 2) (tag : BitVec 12) (addr : BitVec 42) (s : State) : Host.Outcome State Fault Refusal :=
  act s fun s => s.snoop link.val tag.toNat addr.toNat true

def execSnpshr (link : Fin 2) (tag : BitVec 12) (addr : BitVec 42) (s : State) : Host.Outcome State Fault Refusal :=
  act s fun s => s.snoop link.val tag.toNat addr.toNat false

/-! ### Responses to the device (13 R361–R364) -/

/-- The outstanding request of a tag and opcode. -/
def State.plReq (s : State) (l tag : Nat) (opcs : List Nat) : Option PlReq :=
  (s.pl l).reqs.find? fun r => r.tag = tag ∧ opcs.contains r.opc

/-- A request is answered with a message of `n` bytes: its tag is free for one that waits (13 R357, 16 R432). -/
def State.plReqDone (s : State) (l : Nat) (r : PlReq) (n : Nat) : State :=
  let k := s.pl l
  ((s.setPl l { k with reqs := k.reqs.filter fun q => q.tag != r.tag }).chargePuell (s.ownerCtx r.owner) n).plNext l

/-- The home holds no good data for a line: an uncorrectable error of the requesting unit (13 R364). -/
def State.plPoison (s : State) (l : Nat) (r : PlReq) : State :=
  match r.owner with
  | .mover g => match (s.core g).inst with
    | some t => s.ctxFault t.ctx (g / 64) uMover kUncorrectable 0 r.addr none (some (t.subseq, t.task))
    | none => s
  | .head x => s.stopQueue x 3 kUncorrectable r.addr
  | .unit x => s.ctxFault x (2 * l) uPuell kUncorrectable 0 r.addr
  | .house => s.record clsDie (2 * l) uPuell kUncorrectable 0 none none r.addr

/-- The home's content of a line, as a response carries it. -/
def State.homeLine (s : State) (a : Nat) (data : List Byte) : State :=
  { s with mem.comp := writeBytes 0 s.mem.comp a data }

/-- A response with data for a request of one of some kinds is used once, and held snoops follow. -/
def State.response (s : State) (l tag : Nat) (opc : Nat) (status : RspStatus) (data : List Byte)
    (f : State → PlReq → State) : State :=
  if s.plSt l != plActive then s else
  match s.plReq l tag [opc] with
  | none => s.plProtoErr l
  | some r =>
    match status with
    | .refused => s.plProtoErr l
    | .poison => ((s.plReqDone l r 96).plPoison l r).snoopsOf l r.addr
    | .ok => if data.length != 64 then s.plProtoErr l else (f (s.plReqDone l r 96) r).snoopsOf l r.addr

/-- GntS: the line is installed in S and its data delivered; the scheduler looks at a head line (06 R165, R166). -/
def execGnts (link : Fin 2) (tag : BitVec 12) (status : RspStatus) (data : List Byte) (s : State) :
    Host.Outcome State Fault Refusal :=
  act s fun s => s.response link.val tag.toNat rqShared status data fun s r =>
    let s := (s.homeLine r.addr data).setLine r.addr ⟨.s, link.val, data⟩
    match r.owner with
    | .head x => if s.fatal then s else s.lookHead x 0 fun s _ => s
    | _ => s

/-- Bytes merged over a line. -/
def mergeLine (data : List Byte) (mg : List (Nat × Byte)) : List Byte := mg.foldl (fun d p => d.set p.1 p.2) data

/-- An M line is written back and becomes I (13 R362). -/
def State.writeBack (s : State) (l a : Nat) (owner : PlOwner) : State :=
  let line := s.plLine a
  if line.st == .m then (s.setLine a {}).plRequest l rqWb a owner [] line.data else s

/-- GntE: the write is merged and the line marked M; held snoops come first, else it is written back. -/
def execGnte (link : Fin 2) (tag : BitVec 12) (status : RspStatus) (data : List Byte) (s : State) :
    Host.Outcome State Fault Refusal :=
  act s fun s =>
    let l := link.val
    let req := s.plReq l tag.toNat [rqOwn]
    let s := s.response l tag.toNat rqOwn status data fun s r =>
      let d := mergeLine data r.merge
      (s.homeLine r.addr d).setLine r.addr ⟨.m, l, d⟩
    match req with
    | some r => s.writeBack l r.addr r.owner
    | none => s

/-- Cur: the data reach the unit. -/
def execCur (link : Fin 2) (tag : BitVec 12) (status : RspStatus) (data : List Byte) (s : State) :
    Host.Outcome State Fault Refusal :=
  act s fun s => s.response link.val tag.toNat rqCur status data fun s r =>
    let s := s.homeLine r.addr data
    match r.owner with
    | .mover g => { s with puell.inHand := s.puell.inHand ++ [(g, r.addr)] }
    | _ => s

/-- Cmp: a write, write-back or eviction is complete and globally visible. -/
def execCmp (link : Fin 2) (tag : BitVec 12) (s : State) : Host.Outcome State Fault Refusal :=
  act s fun s =>
    let l := link.val
    if s.plSt l != plActive then s else
    match s.plReq l tag.toNat [rqWrLine, rqWb, rqEvict] with
    | none => s.plProtoErr l
    | some r => (s.plReqDone l r 16).snoopsOf l r.addr

/-! ### The HBM aperture (13 R365, R366; 17 R440) -/

def rspWinData : Nat := 0x10
def rspWinCmp : Nat := 0x11
def stRefused : Nat := 1
def stPoison : Nat := 2

def State.winData (s : State) (l tag status : Nat) (data : List Byte) : State :=
  s.plSend l { cls := clsRsp, opc := rspWinData, tag := tag, status := status, mask := 2 ^ 64 - 1, data := padTo 64 data }
def State.winCmp (s : State) (l tag status : Nat) : State :=
  s.plSend l { cls := clsRsp, opc := rspWinCmp, tag := tag, status := status }

/-- Set offset of an aperture access of `n` bytes; none when it is refused. -/
def State.aperture (s : State) (l off n : Nat) : Option (Nat × Nat) :=
  let set := s.getF (F.plApbaseSet l)
  let o := s.getF (F.plApbaseOffgb l) * 2 ^ 30 + off
  if !(s.flag (F.plApbaseValid l)) || !(s.setValid set) || tget false s.mem.setClr set
    || decide (s.setSize set < o + n) || s.sealed set
    || (s.flag F.secStatusConf && !(s.flag (F.isDescHouse set))) then none
  else some (set, o)

/-- An access within one line of 64 bytes (13 R361). -/
def inLine (off n : Nat) : Bool := decide (1 ≤ n) && decide (off % 64 + n ≤ 64)

/-- ApRd. -/
def State.apRead (s : State) (l tag off n : Nat) : State :=
  if s.plSt l != plActive then s else
  let s := s.plTake l clsReq false
  if !inLine off n then s.plProtoErr l else
  match s.aperture l off n with
  | none => (s.incF (F.plCtr7 l) 1).winData l tag stRefused (leBytes n 0)
  | some (set, o) =>
    match (hbmRead none set o n).go s with
    | (.ok b, s) => s.winData l tag 0 b
    | (.error (.fault c k su d u), s) =>
      (s.record c (2 * l) (u.getD uHbm) k su none none d).winData l tag stPoison (leBytes n 0)
    | (.error _, _) => s

def execAprd (link : Fin 2) (tag : BitVec 12) (off : BitVec 36) (size : Nat) (s : State) :
    Host.Outcome State Fault Refusal :=
  act s fun s => s.apRead link.val tag.toNat off.toNat size

/-- Bytes of a payload that its mask names, with their places. -/
def maskBytes (mask : Nat) (data : List Byte) : List (Nat × Byte) :=
  ((upTo data.length).zip data).filter fun p => bit mask p.1

/-- ApWr of `n` bytes: payload byte i < n goes to offset off + i where its mask bit is set (13 R360, R361). -/
def State.apWrite (s : State) (l tag off n mask : Nat) (data : List Byte) : State :=
  if s.plSt l != plActive then s else
  let s := s.plTake l clsReq true
  let bs := maskBytes mask (data.take n)
  if !inLine off n then s.plProtoErr l else
  match s.aperture l off n with
  | none => (s.incF (F.plCtr7 l) 1).winCmp l tag stRefused
  | some (set, o) =>
    let whole : M Unit := if bs.length = n then hbmWrite none set o (bs.map (·.2))
      else bs.forM fun p => hbmWrite none set (o + p.1) [p.2]
    match whole.go s with
    | (.ok _, s) => s.winCmp l tag 0
    | (.error (.fault c k su d u), s) => (s.record c (2 * l) (u.getD uHbm) k su none none d).winCmp l tag stPoison
    | (.error _, _) => s

def execApwr (link : Fin 2) (tag : BitVec 12) (off : BitVec 36) (mask : WriteMask) (data : List Byte)
    (s : State) : Host.Outcome State Fault Refusal :=
  act s fun s => if s.fatal then s else s.apWrite link.val tag.toNat off.toNat mask.size mask.bits.toNat data

/-! ### Bells (13 R369, R370) -/

/-- A Bell as a message: OPC the source, TAG the BSEQ, STATUS bit 0 LOST, WIN and SIZE the bytes A and B,
ADDR the argument. -/
def bellMsg (seq : Nat) (b : Bell) (lost : Bool) : PlMsg :=
  { cls := clsBell, opc := b.src, tag := seq, status := ofBool lost, win := b.a, size := b.b, addr := b.arg }

/-- The link Bells leave on. -/
def State.bellLinkOf (s : State) : Option Nat :=
  if s.plSt 0 = plActive then some 0 else if s.plSt 1 = plActive then some 1 else none

/-- The oldest queued Bell is sent; in the device-fatal state only that of the fatal record is (19 R483). -/
def execBellSend (s : State) : Host.Outcome State Fault Refusal :=
  act s fun s =>
    let q := if s.fatal then s.puell.bellQ.filter fun p => p.2.src = bellError ∧ p.2.a = clsFatal
      else s.puell.bellQ
    match q, s.bellLinkOf with
    | (n, b) :: r, some l =>
      let k := s.pl l
      if k.credBell = 0 || 512 ≤ k.replay.length then s
      else ({ s with puell.bellQ := r, puell.bellLost := false }).plSend l (bellMsg n b s.puell.bellLost)
    | _, _ => s

end Sys2Proof.Machine
end

