-- ==== Sys2Proof/Machine/Ledger.lean ====
section
/-! DEFINITION. The ring of die stacks (14 R372), READY bits (20 R503, R505), the Ledger (20 R501, R502),
the halt of a boot (20 R499) and the device-fatal state (19 R483). -/
namespace Sys2Proof.Machine

/-! ### The ring P0, P1, P3, P2 -/

/-- Position of a rotation, and rotation of a position (14 R372). -/
def rotPos (rot : Nat) : Nat := if rot = 2 then 3 else if rot = 3 then 2 else rot

/-! ### READY (20 R503, R505) -/

def State.presentDie (s : State) (d i : Nat) : State := s.setBitF (F.presentDiePresent d) i true
def State.presentPkg (s : State) (i : Nat) : State := s.setBitF F.presentPkgPresent i true

/-- Every READY bit of a stack clears. -/
def State.unready (s : State) (d : Nat) : State :=
  (upTo 28).foldl (fun s i => if i = 7 then s else s.setReadyDie d i false) s

/-! ### Whether the module is steady (17 R445) -/

/-- A stack has left service and is not back. -/
def State.dieOut (s : State) : Bool :=
  (upTo 4).any fun d => !(s.inService d) && s.getF (F.dieStatusLastcause d) != 0

/-- A function brought up has not been ready since RUN_EN rose, or the boot has not ended. -/
def State.booting (s : State) : Bool :=
  !s.flag F.bootStatusRundone
    || (upTo 14).any (fun i => s.bitF F.presentPkgPresent i && !(tget false s.sec.everReady i))
    || (upTo 4).any fun d => (upTo 28).any fun i =>
      s.bitF (F.presentDiePresent d) i && !(tget false s.sec.everReady (32 + 32 * d + i))

/-- REASON; STATE is TRANSITIONAL while any bit is set. -/
def State.reason (s : State) : Nat :=
  place (ofBool s.booting) 0 1 + place (ofBool (s.flag F.fwStatusStaged)) 1 1
    + place (ofBool (s.flag F.fwStatusWriting)) 2 1 + place (ofBool s.dieOut) 3 1
    + place (ofBool s.sec.confPend) 4 1

/-- A running security command notes that the module is not steady. -/
def State.noteState (s : State) : State :=
  if s.reason = 0 then s
  else { s with sec.run := s.sec.run.map fun r => { r with unsteady := true } }

/-! ### The Ledger (20 R501, R502) -/

def ldStep : Nat := 1
def ldBootDone : Nat := 2
def ldShutdown : Nat := 3
def ldUnclean : Nat := 4
def ldRepair : Nat := 5
def ldDiscovery : Nat := 6
def ldFwEvent : Nat := 7
def ldHalt : Nat := 8
def ldClearAlt : Nat := 9
def mdNormal : Nat := 0
def mdAlternate : Nat := 1
def mdSkipped : Nat := 2
def rsPass : Nat := 0
def rsFail : Nat := 1
def rsHalted : Nat := 2

/-- One more than the LSEQ of the newest record. -/
def State.nextLseq (s : State) : Nat :=
  match s.boot.ledger.getLast? with
  | some r => (fieldAt r 4 4 + 1) % 2 ^ 32
  | none => 1

/-- A record is appended; a full region first loses its oldest sector of 64 records. -/
def State.ledger (s : State) (type step inst mode result code : Nat) (detail : List Byte) : State :=
  let n := s.nextLseq
  let b := leBytes 4 0x5247444C ++ leBytes 4 n ++ leBytes 8 (s.getF F.bootCountBoots) ++ leBytes 1 type
    ++ leBytes 1 step ++ leBytes 1 inst ++ leBytes 1 mode ++ leBytes 1 result ++ leBytes 1 0
    ++ leBytes 2 code ++ leBytes 8 (s.getF (F.watchNs 0)) ++ padTo 24 (detail.take 24) ++ leBytes 4 0
  let b := b ++ leBytes 4 (crc32c b).toNat
  let old := s.boot.ledger
  let old := if 16384 ≤ old.length then old.drop 64 else old
  { s.setF F.ledgerHeadLseq n with boot.ledger := old ++ [b] }

/-! ### Halt and device-fatal -/

/-- The boot halts at a step, with the instance and the code (20 R499). -/
def State.halt (s : State) (step inst code : Nat) : State :=
  let s := (s.setF F.bootStatusStep step).setF F.bootStatusInstance inst
  let s := (s.setB F.bootStatusHalted true).setF F.bootStatusCode code
  let s := s.ledger ldHalt step inst mdNormal rsHalted code []
  { s with boot.tries := [], dies.token := false }

/-- A device-fatal error: its record, and the state of 19 R483. -/
def State.fatalError (s : State) (d unit kind sub detail : Nat) (parent : Option Nat) : State :=
  (s.record clsFatal d unit kind sub none parent detail).deviceFatal

end Sys2Proof.Machine
end

