-- ==== Sys2Proof/Machine/Matrix.lean ====
section
/-! DEFINITION. The matrix engines: accumulation in the canonical order, spans, partial tiles and the
conversion of a finished tile (chapter 03). -/
namespace Sys2Proof.Machine

/-! ### Tiles -/

def cell (i j : Nat) : Nat := 64 * i + j

/-- A tile from a function of row and column. -/
def mkTile (rows cols : Nat) (f : Nat → Nat → W32) : Tile :=
  (upTo rows).flatMap fun i => (upTo cols).filterMap fun j =>
    let v := f i j
    if v = 0#32 then none else some (cell i j, v)

def tileAt (t : Tile) (i j : Nat) : W32 := tget 0#32 t (cell i j)

def MatEng.tileMap2 (m : MatEng) (a b : Tile) : Tile :=
  mkTile m.mrows m.ncols fun i j => w32Add (tileAt a i j) (tileAt b i j)

/-! ### Operand panels (03 R55, R56) -/

/-- Format of an operand field FA or FB. -/
def opFmt (c : Nat) : Fmt := if c = 0 then .kq4 else if c = 1 then .kq8 else .kw16

/-- Bytes of one element panel. -/
def panelBytes (f : Fmt) : Nat := 128 * f.bits
/-- Bytes of the 16 elements of one row of a panel. -/
def runBytes (f : Fmt) : Nat := 2 * f.bits

/-- One operand of a block: the element values of each row as W32 without scale, and each row's fine
scale in units of 2^-17 (03 R58; 02 R39). -/
def panelRows (s : State) (g : Nat) (f : Fmt) (rows ea sa : Nat) : List (List W32 × Nat) :=
  (upTo rows).map fun r =>
    let codes := unpackCodes f 16 (s.ocRead g (ea + runBytes f * r) (runBytes f))
    let k := if f.scaled then (tget 0#8 s.mem.oc (ocKey g (sa + r))).toNat else 0
    let u := if f.scaled then ks8Units k else 2 ^ 17
    (codes.map fun c =>
      match srcPlain f c with
      | .fin n a d => if u = 0 then 0#32 else toW32 (.fin n a d)
      | v => toW32 v, u)

/-- W32(t × f) for an exact scale product of `k` units of 2^-34 (03 R58 step 3). -/
def scaleMul (t : W32) (k : Nat) : W32 :=
  if w32IsNaN t then w32NaN
  else if w32IsInf t then (if k = 0 then w32NaN else t)
  else w32OfInt (w32Int t * k) 183 (w32Neg t)

/-- Products of one cell; positions from `valid` on contribute +0 (03 R58, R71). -/
def cellProducts (valid : Nat) (a b : List W32) : List W32 :=
  ((a.zip b).zip (upTo 16)).map fun p => if p.2 < valid then w32Mul p.1.1 p.1.2 else 0#32

/-- The contribution of a block to one cell, and whether a product was NaN. -/
def cellBlock (valid : Nat) (a b : List W32 × Nat) : W32 × Bool :=
  let ps := cellProducts valid a.1 b.1
  (scaleMul (sumT ps) (a.2 * b.2), ps.any w32IsNaN)

/-- Contributions of a block to every cell, and whether any cell formed a NaN product. -/
def blockTile (s : State) (g : Nat) (m : MatEng) (valid ae sa be sb : Nat) : Tile × Bool :=
  let ra := panelRows s g (opFmt m.fa) m.mrows ae sa
  let rb := panelRows s g (opFmt m.fb) m.ncols be sb
  let cs := ra.map fun a => rb.map fun b => cellBlock valid a b
  (mkTile m.mrows m.ncols fun i j => ((cs.getD i []).getD j (0#32, false)).1,
   cs.any fun l => l.any (·.2))

/-! ### Segment stack (03 R58–R60) -/

/-- Merge the top two entries while they have equal size. -/
def MatEng.merge (m : MatEng) : Nat → List (Nat × Tile) → List (Nat × Tile)
  | f + 1, (sy, y) :: (sx, x) :: r =>
    if sy = sx then m.merge f ((2 * sx, m.tileMap2 x y) :: r) else (sy, y) :: (sx, x) :: r
  | _, l => l

/-- The unfinished segment, if any, goes on the stack. -/
def MatEng.push (m : MatEng) : MatEng :=
  if m.blk = 0 then m else
    { m with stack := m.merge 16 ((1, m.acc) :: m.stack), pushed := m.pushed + 1, blk := 0, acc := [] }

def MatEng.foldAll (m : MatEng) : Nat → List (Nat × Tile) → List (Nat × Tile)
  | f + 1, (_, y) :: (sx, x) :: r => m.foldAll f ((sx, m.tileMap2 x y) :: r)
  | _, l => l

/-- Push and fold: the only entry of the stack. -/
def MatEng.folded (m : MatEng) : Tile :=
  let m := m.push
  match m.foldAll 16 m.stack with
  | (_, t) :: _ => t
  | [] => []

/-- Add a block's contributions; a segment of 256 blocks is pushed. -/
def MatEng.addBlock (m : MatEng) (t : Tile) : MatEng :=
  let m := { m with acc := if m.blk = 0 then t else m.tileMap2 m.acc t, blk := m.blk + 1, fresh := false }
  if m.blk = 256 then m.push else m

/-! ### Spans (03 R61–R63) -/

/-- Segments of the engine's span. -/
def MatEng.span (m : MatEng) : Nat := m.pushed + (if m.blk = 0 then 0 else 1)

/-- Segments `lo` to `lo + n - 1` are a node of T over `base` to `base + len - 1`. -/
def isNode (lo n : Nat) : Nat → Nat → Nat → Bool
  | 0, _, _ => false
  | f + 1, base, len =>
    if lo = base ∧ n = len then true
    else if len ≤ 1 then false
    else
      let p := 2 ^ Nat.log2 (len - 1)
      if lo + n ≤ base + p then isNode lo n f base p
      else if base + p ≤ lo then isNode lo n f (base + p) (len - p)
      else false

def nodeOf (lo n nseg : Nat) : Bool := n != 0 && isNode lo n 20 0 nseg

/-- The span is acceptable (03 R61). -/
def MatEng.spanOk (m : MatEng) : Bool :=
  nodeOf m.seg0 m.span m.nseg && (m.blk == 0 || m.seg0 + m.span == m.nseg)
    && (m.seg0 + m.span != m.nseg || m.endK)

/-- Two spans are the two children of one node of T (03 R62). -/
def siblings (a na b nb nseg : Nat) : Bool :=
  let lo := Nat.min a b
  let n := na + nb
  let p := 2 ^ Nat.log2 (n - 1)
  nodeOf lo n nseg && (if a = lo then na else nb) == p && Nat.max a b == lo + p

/-! ### The operand-cache ranges of a word (03 R74) -/

/-- Bytes of a partial tile (03 R68). -/
def partialBytes : Nat := 16448

structure OcUse where
  reads : List (Nat × Nat)
  writes : List (Nat × Nat)

/-- Formats and tile size as a MACC sets them; other words leave them. -/
def MatEng.opens (m : MatEng) (w : Nat) : MatEng :=
  if bits w 0 4 = 1 then
    { m with fa := bits w 8 2, fb := bits w 10 2, mrows := bits w 12 6 + 1, ncols := bits w 18 6 + 1 }
  else m

/-- Element and scale panels of `n` blocks of one operand of an MMA. -/
def panelUse (f : Fmt) (n e sc : Nat) : List (Nat × Nat) :=
  (64 * e, n * panelBytes f) :: (if f.scaled then [(64 * sc, 64 * n)] else [])

/-- Ranges that a word reads and writes when it finds the engine as `m`. -/
def MatEng.use (m : MatEng) (w : Nat) : OcUse :=
  let a := 64 * bits w 16 14
  match bits w 0 4 with
  | 2 =>
    let n := bits w 8 8 + 1
    ⟨panelUse (opFmt m.fa) n (bits w 16 14) (bits w 30 14) ++ panelUse (opFmt m.fb) n (bits w 44 14) (bits w 58 14), []⟩
  | 3 => ⟨[], [(a, partialBytes)]⟩
  | 4 => ⟨[(a, partialBytes)], []⟩
  | 5 => match cvcDecode (bits w 8 8) with
    | none => ⟨[], []⟩
    | some c =>
      let np := ((if bits w 56 1 = 0 then m.ncols else m.mrows) + 15) / 16
      let ds := (64 * bits w 30 14, 64 * np)
      ⟨if c.fmt.scaled && c.given then [ds] else [],
       (a, np * panelBytes c.fmt) :: (if c.fmt.scaled && !c.given then [ds] else [])⟩
  | _ => ⟨[], []⟩

/-- The ranges of an engine's queued words in order, each as it will find the engine, with its place in issue. -/
def queueUses (m : MatEng) : List MWord → List (Nat × OcUse)
  | [] => []
  | q :: r => (q.seq, m.use q.w.toNat) :: queueUses (m.opens q.w.toNat) r

def rangesMeet (a b : List (Nat × Nat)) : Bool :=
  a.any fun x => b.any fun y => decide (x.1 < y.1 + y.2) && decide (y.1 < x.1 + x.2)

/-- A later word waits for an earlier one (03 R74). -/
def OcUse.waits (later earlier : OcUse) : Bool :=
  rangesMeet later.writes (earlier.reads ++ earlier.writes) || rangesMeet later.reads earlier.writes

def matIdx (g e : Nat) : Nat := 2 * g + e

/-- The word at the front of an engine's queue waits for an earlier-issued word of the other engine, which runs
its own in order (03 R64, R74). -/
def State.matHeld (s : State) (g e : Nat) (q : MWord) : Bool :=
  let o := s.mat (matIdx g (1 - e))
  let mine := (s.mat (matIdx g e)).use q.w.toNat
  (queueUses o o.queue).any fun p => decide (p.1 < q.seq) && mine.waits p.2

/-- Words that wait behind the one in execution (03 R64). -/
def MatEng.waiting (m : MatEng) : Nat :=
  match m.queue with
  | q :: r => if q.done = 0 then r.length + 1 else r.length
  | [] => 0

/-- Place in issue of the next word of a core. -/
def State.nextIssue (s : State) (g : Nat) : Nat :=
  ((s.mat (matIdx g 0)).queue ++ (s.mat (matIdx g 1)).queue).foldl (fun n q => Nat.max n (q.seq + 1)) 0

/-! ### Taking a word -/

/-- A fault of an engine word (03 R70): `seq` for illegal sequence. -/
def State.matFault (s : State) (g e : Nat) (seq : Bool) : State :=
  let s := if seq then s.incF (F.meFaultsSequence g e) 1 else s.incF (F.meFaultsEncoding g e) 1
  s.coreFault g uMatrix (if seq then kSequence else kEncoding) 0 g

/-- Take the word at the front of an engine's queue and run it when it is the one commanded and no range of the
operand cache holds it back. A word with a reserved opcode or header is met by whichever command comes (03 R64,
R65, R74). -/
def State.matWord (s : State) (g e mop : Nat) (f : State → Inst → MWord → MatEng → State) : State :=
  match s.running g with
  | none => s
  | some t =>
    let m := s.mat (matIdx g e)
    match m.queue with
    | [] => s
    | mw :: q =>
      let w := mw.w.toNat
      let mo := bits w 0 4
      let m := { m with queue := q }
      let s' := s.setMat (matIdx g e) m
      if mo = 0 ∨ 5 < mo then s'.matFault g e false
      else if mo != mop || s.matHeld g e mw then s
      else if bits w 5 3 != 0 then s'.matFault g e false
      else f s' t mw m

/-- Run `f` behind the reads of ranges of the operand cache; an uncorrectable error there stops the word (05
R113). -/
def State.reading (s : State) (g unit : Nat) (t : Inst) (l : List (Nat × Nat)) (f : State → State) : State :=
  match (ocReads g l).go s with
  | (.ok _, s) => f s
  | (.error e, s) => s.coreStop g unit t e

/-- Beats in which the engine worked (03 R73). -/
def State.matBeats (s : State) (g e : Nat) (t : Inst) (n : Nat) : State :=
  (s.incF (F.meBusy g e) n).chargeBeats t.ctx n

/-- Every cell of an engine's tiles becomes a free value (07 R214; log entry 2). -/
def State.freeTiles (s : State) (k : Nat) (m : MatEng) : State :=
  let free (base : Nat) : Tile := mkTile m.mrows m.ncols fun i j => (Config.freeWord (base + cell i j)).setWidth 32
  let m' := { m with acc := if m.blk = 0 then [] else free s.freeCtr,
                     stack := (m.stack.zip (upTo m.stack.length)).map fun p =>
                       (p.1.1, free (s.freeCtr + 4096 * (p.2 + 1))) }
  { s.setMat k m' with freeCtr := s.freeCtr + 4096 * (m.stack.length + 1) }

/-! ### MACC -/

def State.macc (s : State) (g e : Nat) : State :=
  s.matWord g e 1 fun s t q m =>
    let w := q.w.toNat
    let nseg := if bits w 24 16 = 0 then 65536 else bits w 24 16
    let seg0 := bits w 40 16
    if bits w 8 2 = 3 ∨ bits w 10 2 = 3 ∨ nseg ≤ seg0 ∨ bits w 56 8 != 0 ∨ bits w 96 32 != 0 then
      s.matFault g e false
    else
      let m' : MatEng := { st := .opened, fa := bits w 8 2, fb := bits w 10 2, mrows := bits w 12 6 + 1,
                           ncols := bits w 18 6 + 1, nseg := nseg, seg0 := seg0, tag := bits w 64 32,
                           fresh := true, queue := m.queue }
      (s.setMat (matIdx g e) m').matBeats g e t 2

/-- MACC opens a span (03 R67). -/
def execMacc (core : Fin 256) (eng : Fin 2) (s : State) : Host.Outcome State Fault Refusal :=
  work s fun s => s.macc core.val eng.val

/-! ### MMA -/

/-- Beats per block (03 R55). -/
def blockBeats (fa fb : Nat) : Nat :=
  if fa = 2 ∨ fb = 2 then 64 else if fa = 0 ∧ fb = 0 then 4 else 16

/-- The panels of `n` blocks lie within the operand cache. -/
def panelsOk (f : Fmt) (n e sc : Nat) : Bool :=
  ocOk (64 * e) (n * panelBytes f) && (!f.scaled || ocOk (64 * sc) (64 * n))

/-- Block `i` of an MMA word: contributions to every cell, and whether a product was NaN. -/
def mmaBlock (s : State) (g w i : Nat) (m : MatEng) : Tile × Bool :=
  let valid := if i = bits w 8 8 ∧ bits w 72 5 != 0 then bits w 72 5 else 16
  blockTile s g m valid (64 * bits w 16 14 + panelBytes (opFmt m.fa) * i) (64 * bits w 30 14 + 64 * i)
    (64 * bits w 44 14 + panelBytes (opFmt m.fb) * i) (64 * bits w 58 14 + 64 * i)

/-- Operand-cache ranges of block `i` of an MMA word. -/
def mmaReads (w i : Nat) (m : MatEng) : List (Nat × Nat) :=
  let one (f : Fmt) (rows ea sa : Nat) : List (Nat × Nat) :=
    (ea + panelBytes f * i, runBytes f * rows) :: (if f.scaled then [(sa + 64 * i, rows)] else [])
  one (opFmt m.fa) m.mrows (64 * bits w 16 14) (64 * bits w 30 14)
    ++ one (opFmt m.fb) m.ncols (64 * bits w 44 14) (64 * bits w 58 14)

/-- Reserved bits or a reserved KTAIL in an MMA word (03 R66). -/
def mmaReserved (w : Nat) : Bool := decide (16 < bits w 72 5) || bits w 77 51 != 0
/-- An MMA word breaks the order of an accumulation (03 R61, R67). -/
def MatEng.mmaOutOfTurn (m : MatEng) (w : Nat) : Bool :=
  let total := 256 * m.pushed + m.blk + bits w 8 8 + 1
  m.st != .opened || m.endK || decide (256 * (m.nseg - m.seg0) < total) || decide (65536 < total)
    || (bits w 72 5 != 0 && decide (total ≤ 256 * (m.nseg - m.seg0 - 1)))
/-- The panels of an MMA word lie within the operand cache (03 R70). -/
def MatEng.mmaInside (m : MatEng) (w : Nat) : Bool :=
  panelsOk (opFmt m.fa) (bits w 8 8 + 1) (bits w 16 14) (bits w 30 14)
    && panelsOk (opFmt m.fb) (bits w 8 8 + 1) (bits w 44 14) (bits w 58 14)

/-- An MMA word behind its `i`-th block: the engine with the word still in execution, or done. -/
def MatEng.mmaNext (m : MatEng) (q : MWord) : MatEng :=
  if q.done < bits q.w.toNat 8 8 then { m with queue := { q with done := q.done + 1 } :: m.queue }
  else { m with endK := bits q.w.toNat 72 5 != 0 }

/-- The next block of the MMA at the front (03 R58, R67, R76). Checks come before the first block: the encoding,
then the sequence, then the panel bounds (log entry 44). -/
def State.mma (s : State) (g e : Nat) : State :=
  s.matWord g e 2 fun s t q m =>
    let w := q.w.toNat
    if q.done = 0 && mmaReserved w then s.matFault g e false
    else if q.done = 0 && m.mmaOutOfTurn w then s.matFault g e true
    else if q.done = 0 && !(m.mmaInside w) then s.matFault g e false
    else if s.suppressed t.ctx then
      let m' := { (upTo (bits w 8 8 + 1 - q.done)).foldl (fun m _ => m.addBlock []) m with endK := bits w 72 5 != 0 }
      (s.freeTiles (matIdx g e) m').matBeats g e t 1
    else
      s.reading g uMatrix t (mmaReads w q.done m) fun s =>
        let b := mmaBlock s g w q.done m
        let s := s.setMat (matIdx g e) ((m.addBlock b.1).mmaNext q)
        (s.incF (F.mePoison g e) (ofBool b.2)).matBeats g e t (blockBeats m.fa m.fb + (if m.fresh then 6 else 0))

/-- MMA streams KB blocks in the canonical order, a block a command; it marks the end of K only in the last
segment (03 R58, R67, R76; log entry 56). -/
def execMma (core : Fin 256) (eng : Fin 2) (s : State) : Host.Outcome State Fault Refusal :=
  work s fun s => s.mma core.val eng.val

/-! ### Partial tiles (03 R68) -/

def MatEng.partialTile (m : MatEng) : List Byte :=
  let t := m.folded
  leBytes 4 m.tag ++ leBytes 2 m.nseg ++ leBytes 2 m.seg0 ++ leBytes 2 m.span
    ++ leBytes 1 (place m.fa 0 2 + place m.fb 2 2) ++ leBytes 1 (m.mrows - 1) ++ leBytes 1 (m.ncols - 1)
    ++ leBytes 1 (ofBool m.endK) ++ leBytes 50 0
    ++ (upTo 4096).flatMap fun c => w32Bytes (tget 0#32 t c)

/-- Census of the elements of a tile as MPART reports them. -/
def MatEng.census (m : MatEng) : Census :=
  let t := m.folded
  (upTo m.mrows).foldl (fun k i => (upTo m.ncols).foldl (fun k j =>
    let v := tileAt t i j
    k.count (if !(w32IsFinite v) then .nonfin else if w32IsZero v then .zero else .ordinary) (srcW32 v)) k) {}

/-- The engine closes its accumulation; its registers read 0 but for the queue (log entry 40). -/
def MatEng.closed (m : MatEng) : MatEng := { queue := m.queue }

def State.mpart (s : State) (g e : Nat) : State :=
  s.matWord g e 3 fun s t q m =>
    let w := q.w.toNat
    let dst := 64 * bits w 16 14
    let slot := bits w 30 12
    if bits w 8 8 != 0 ∨ bits w 42 86 != 0 ∨ !(ocOk dst partialBytes) ∨ !(s.slotOk slot t.ctx) then
      s.matFault g e false
    else if m.st = .idle ∨ !m.spanOk then s.matFault g e true
    else
      let s := (s.ocWrite g dst m.partialTile).setMat (matIdx g e) m.closed
      (s.report t.ctx slot (s.stepNo t.ctx) m.census).matBeats g e t 137

/-- MPART writes the folded span as a partial tile (03 R68). -/
def execMpart (core : Fin 256) (eng : Fin 2) (s : State) : Host.Outcome State Fault Refusal :=
  work s fun s => s.mpart core.val eng.val

/-- 0 stands for 65,536 in a partial tile's segment counts. -/
def segCount (n : Nat) : Nat := if n = 0 then 65536 else n

def State.mcomb (s : State) (g e : Nat) : State :=
  s.matWord g e 4 fun s t q m =>
    let w := q.w.toNat
    let src := 64 * bits w 16 14
    if bits w 8 8 != 0 ∨ bits w 30 98 != 0 ∨ !(ocOk src partialBytes) then s.matFault g e false
    else s.reading g uMatrix t [(src, partialBytes)] fun s =>
      let h := s.ocRead g src 64
      let start := fieldAt h 6 2
      let n := segCount (fieldAt h 8 2)
      let same := fieldAt h 0 4 == m.tag && segCount (fieldAt h 4 2) == m.nseg
        && fieldAt h 10 1 == place m.fa 0 2 + place m.fb 2 2
        && fieldAt h 11 1 + 1 == m.mrows && fieldAt h 12 1 + 1 == m.ncols
      if m.st = .idle ∨ !m.spanOk ∨ !same ∨ !(siblings m.seg0 m.span start n m.nseg) then
        s.matFault g e true
      else
        let own := m.folded
        let t' := mkTile m.mrows m.ncols fun i j =>
          w32Add (tileAt own i j) (w32At (s.ocRead g (src + 64 + 4 * cell i j) 4) 0)
        let m' := { m with st := .folded, endK := m.endK || bit (fieldAt h 13 1) 0,
                           seg0 := Nat.min m.seg0 start, pushed := m.span + n, blk := 0, acc := [],
                           stack := [(m.span + n, t')] }
        (s.setMat (matIdx g e) m').matBeats g e t 138

/-- MCOMB adds a sibling partial tile (03 R62). -/
def execMcomb (core : Fin 256) (eng : Fin 2) (s : State) : Host.Outcome State Fault Refusal :=
  work s fun s => s.mcomb core.val eng.val

/-! ### MOUT (03 R69) -/

/-- What a finished tile is converted with. -/
structure OutCtl where
  cvc : Cvc
  de : Nat
  ds : Nat
  axis : Nat
  slot : Nat
  ca : W32
  cb : W32
  cd : W32

/-- Rows, or columns with AXIS = 1, that carry fine blocks; and elements along the axis. -/
def MatEng.outLines (m : MatEng) (axis : Nat) : Nat := if axis = 0 then m.mrows else m.ncols
def MatEng.outLen (m : MatEng) (axis : Nat) : Nat := if axis = 0 then m.ncols else m.mrows

/-- Convert and write block `q` of line `r`. -/
def State.outBlock (s : State) (g x : Nat) (m : MatEng) (t : Tile) (o : OutCtl) (q r : Nat) :
    State × Census :=
  let n := Nat.min 16 (m.outLen o.axis - 16 * q)
  let es := (upTo n).map fun k => 16 * q + k
  let vs := es.map fun k => srcScale (srcScale (srcW32
    (if o.axis = 0 then tileAt t r k else tileAt t k r)) o.ca) o.cb
  let us := es.map fun k => draw (BitVec.ofNat 64 (s.stepNo x)) o.slot (64 * r + k)
  let sa := o.ds + 64 * q + r
  let c := convBlock o.cvc o.cd (!(coarseOk o.ca) || !(coarseOk o.cb)) (tget 0#8 s.mem.oc (ocKey g sa)).toNat vs us
  let f := o.cvc.fmt
  let bs := packCodes f (c.1 ++ List.replicate (16 - n) 0)
  let s := s.ocWrite g (o.de + panelBytes f * q + runBytes f * r) bs
  (match c.2.1 with
    | some k => s.ocWrite g sa [BitVec.ofNat 8 k]
    | none => s, c.2.2)

/-- Write the whole tile. -/
def State.outTile (s : State) (g x : Nat) (m : MatEng) (o : OutCtl) : State × Census :=
  let t := m.folded
  (upTo ((m.outLen o.axis + 15) / 16)).foldl (fun r q =>
    (upTo (m.outLines o.axis)).foldl (fun r i =>
      let b := r.1.outBlock g x m t o q i
      (b.1, r.2.add b.2)) r) (s, {})

/-- Beats to convert and write (03 R73). -/
def outBeats : Fmt → Nat
  | .w32 => 128
  | .kw16 => 64
  | .kq8 => 33
  | .kq4 => 17

/-- Given fine scales that MOUT reads (03 R69). -/
def MatEng.outReads (m : MatEng) (c : Cvc) (ds axis : Nat) : List (Nat × Nat) :=
  if c.fmt.scaled && c.given then
    (upTo ((m.outLen axis + 15) / 16)).map fun q => (ds + 64 * q, m.outLines axis)
  else []

def State.mout (s : State) (g e : Nat) : State :=
  s.matWord g e 5 fun s t q m =>
    let w := q.w.toNat
    let de := 64 * bits w 16 14
    let ds := 64 * bits w 30 14
    let slot := bits w 44 12
    let axis := bits w 56 1
    let ua := m.fa != 2
    let ub := m.fb != 2
    match cvcDecode (bits w 8 8) with
    | none => s.matFault g e false
    | some c =>
      let np := (m.outLen axis + 15) / 16
      let bad := bits w 57 7 != 0 || bits w 88 40 != 0 || !(ocOk de (np * panelBytes c.fmt))
        || (c.fmt.scaled && !(ocOk ds (64 * np))) || !(s.slotOk slot t.ctx)
        || (ua && !(s.bindIn t (bits w 64 8))) || (ub && !(s.bindIn t (bits w 72 8)))
        || (c.fmt.scaled && !(s.bindIn t (bits w 80 8)))
      if bad then s.matFault g e false
      else if m.st = .idle ∨ !m.spanOk ∨ m.seg0 != 0 ∨ m.span != m.nseg ∨ !m.endK then s.matFault g e true
      else if s.suppressed t.ctx then (s.setMat (matIdx g e) m.closed).matBeats g e t 1
      else s.reading g uMatrix t (m.outReads c ds (bits w 56 1)) fun s =>
        match (coarseUse g uMatrix t [(ua, bits w 64 8), (ub, bits w 72 8), (c.fmt.scaled, bits w 80 8)]).go s with
        | (.error .wait, _) => s.setMat (matIdx g e) { m with queue := q :: m.queue }
        | (.error err, s) => s.coreStop g uMatrix t err
        | (.ok cs, s) =>
          let a := cs.getD 0 0
          let b := cs.getD 1 0
          let d := cs.getD 2 0
          let o : OutCtl := { cvc := c, de := de, ds := ds, axis := axis, slot := slot, ca := a, cb := b, cd := d }
          let r := s.outTile g t.ctx m o
          let s := r.1.setMat (matIdx g e) m.closed
          (s.report t.ctx slot (s.stepNo t.ctx) r.2).matBeats g e t (8 + outBeats c.fmt)

/-- MOUT converts the finished tile and writes it in panels (03 R63, R69). -/
def execMout (core : Fin 256) (eng : Fin 2) (s : State) : Host.Outcome State Fault Refusal :=
  work s fun s => s.mout core.val eng.val

end Sys2Proof.Machine
end

