-- ==== Sys2Proof/Machine/Transcendental.lean ====
section
/-! DEFINITION. The transcendental functions within the error bounds of 04 R97: the exact result is followed in
fixed point, far below one ulp, and a free value of Config that lies within the bound is the result. -/
namespace Sys2Proof.Machine

/-- Fixed point: integers in units of 2^−384. -/
def fxOne : Int := 2 ^ 384
def fxLn2 : Int :=
  0xb17217f7d1cf79abc9e3b39803f2f6af40f343267298b62d8a0d175b8baafa2be7b876206debac98559552fb4afa1b10
def fxTwoPi : Int :=
  0x6487ed5110b4611a62633145c06e0e68948127044533e63a0105df531d89cd9128a5043cc71a026ef7ca8cd9e69d218d9
/-- 2/√π. -/
def fxErf : Int :=
  0x120dd750429b6d11ae3a914fed7fd8688281341d7587cea2e7342b06199cc416180eb39f0b24e1e2281806c12d98f35d7

def fxOf (x : W32) : Int := w32Int x * 2 ^ 235
def fxMul (a b : Int) : Int := a * b / fxOne
def fxClamp (x : Int) (n : Nat) : Int := max (-(n * fxOne)) (min (n * fxOne) x)

/-- Sum of a power series: the `k`-th term is the one before times `r` over `den k`. -/
def fxSeries (r : Int) (den : Nat → Int) : Nat → Nat → Int → Int → Int
  | 0, _, _, acc => acc
  | f + 1, k, t, acc => fxSeries r den f (k + 1) (fxMul t r / den k) (acc + t)

/-- e^x by 2^k · e^r with 0 ≤ r < ln 2. -/
def fxExp (x : Int) : Int :=
  let k := x / fxLn2
  let e := fxSeries (x - k * fxLn2) (fun k => k) 90 1 fxOne 0
  if 0 ≤ k then e * 2 ^ k.toNat else if k < -400 then 0 else e / 2 ^ (-k).toNat

/-- ln x of a positive number of `u` units of 2^−149: e · ln 2 + 2 · artanh ((m − 1) / (m + 1)). -/
def fxLog (u : Nat) : Int :=
  let e := Nat.log2 u
  let m : Int := (u * 2 ^ 384 / 2 ^ e : Nat)
  let z := (m - fxOne) * fxOne / (m + fxOne)
  let z2 := fxMul z z
  let s := (List.range 130).foldl (fun (a : Int × Int) (i : Nat) => (a.1 + a.2 / (2 * (i : Int) + 1), fxMul a.2 z2)) (0, z)
  ((e : Int) - 149) * fxLn2 + 2 * s.1

def fxRsqrt (u : Nat) : Int := (isqrt 470 (2 ^ 917 / u) 0 : Nat)
def fxTanh (x : Int) : Int :=
  let e := fxExp (2 * fxClamp x 64)
  (e - fxOne) * fxOne / (e + fxOne)
def fxSigm (x : Int) : Int :=
  let e := fxExp (fxClamp x 256)
  e * fxOne / (e + fxOne)

/-- erf x = 2/√π · Σ (−1)^n x^(2n+1) / (n! (2n + 1)); beyond 7 it is 1 to far below an ulp. -/
def fxErfOf (x : Int) : Int :=
  let x := fxClamp x 7
  let x2 := fxMul x x
  let s := (List.range 340).foldl
    (fun (a : Int × Int) (n : Nat) => (a.1 + a.2 / (2 * (n : Int) + 1), -(fxMul a.2 x2) / ((n : Int) + 1))) (0, x)
  fxMul fxErf s.1

/-- sin and cos of the rest modulo 2π. -/
def fxSin (x : Int) : Int :=
  let r := x % fxTwoPi
  fxSeries (-(fxMul r r)) (fun k => (2 * k) * (2 * k + 1)) 80 1 r 0
def fxCos (x : Int) : Int :=
  let r := x % fxTwoPi
  fxSeries (-(fxMul r r)) (fun k => (2 * k - 1) * (2 * k)) 80 1 fxOne 0

/-- One ulp of the W32 spacing at an exact result (04 R97). -/
def fxUlp (v : Int) : Nat := 2 ^ (Nat.max (Nat.log2 v.natAbs) 258 - 23)

/-- A W32 value lies within `n` ulp of an exact result; the fixed point is off by less than 2^−20 ulp. -/
def ulpWithin (n : Nat) (v : Int) (y : W32) : Bool :=
  if w32IsNaN y then false
  else
    let d := if w32IsInf y then (if w32Neg y then -(2 ^ 512) else 2 ^ 512) - v else fxOf y - v
    decide (d.natAbs * 2 ^ 20 ≤ (n * 2 ^ 20 + 1) * fxUlp v)

/-- The free value where it keeps the bound, else the nearest W32 value (04 R97; log entry 2). -/
def ulpPick (n : Nat) (v : Int) (y : W32) : W32 :=
  if ulpWithin n v y then y else w32OfInt v 384 (decide (v < 0))

end Sys2Proof.Machine
end

