-- ==== Sys2Proof/Machine/VectorBase.lean ====
section
/-! DEFINITION. What every vector word shares: fields, operands, masks, window streams, faults and the
taking of a word from the queue (04 R78–R93, R106). -/
namespace Sys2Proof.Machine

/-- A vector word being executed: core, instance, word, captured scalars, mode, window base and the
active lanes. -/
structure VCx where
  g : Nat
  t : Inst
  w : Nat
  cap : VWord
  window : Bool
  wbase : Nat
  act : Nat

def vCls (w : Nat) : Nat := bits w 0 4
def vOp (w : Nat) : Nat := bits w 4 4
def VCx.msel (c : VCx) : Nat := bits c.w 8 3
def VCx.mz (c : VCx) : Bool := bit c.w 11
def VCx.d (c : VCx) : Nat := bits c.w 12 8
def VCx.a (c : VCx) : Nat := bits c.w 20 8
def VCx.b (c : VCx) : Nat := bits c.w 28 8
def VCx.c (c : VCx) : Nat := bits c.w 36 8
def VCx.tslot (c : VCx) : Nat := bits c.w 44 12
def VCx.aux (c : VCx) : Nat := bits c.w 56 8

/-- Number of operations of a class; 0 for a reserved class (04 R84, R88). -/
def vOps (cls : Nat) : Nat := [0, 15, 6, 7, 11, 2, 6, 7, 3, 1].getD cls 0

/-! ### Faults -/

def VCx.enc {α : Type} (c : VCx) : M α := ctxStop kEncoding c.g
def VCx.seq {α : Type} (c : VCx) : M α := ctxStop kSequence c.g
def VCx.encIf (c : VCx) (b : Bool) : M Unit := if b then c.enc else pure ()
def VCx.seqIf (c : VCx) (b : Bool) : M Unit := if b then c.seq else pure ()

/-! ### Operands (04 R85, R86) -/

inductive Opd where
  | vec (n : Nat)
  | sca (n : Nat)

def VCx.opd (c : VCx) (f : Nat) : Option Opd :=
  if f < (if c.window then 0x80 else 0x20) then some (.vec f)
  else if 0x80 ≤ f ∧ f < 0xA0 then some (.sca (f - 0x80)) else none

/-- A field that must name a vector operand. -/
def VCx.vecOf (c : VCx) (f : Nat) : M Nat :=
  match c.opd f with
  | some (.vec n) => pure n
  | _ => c.enc

/-- A field that must name a scalar register. -/
def VCx.scaOf (c : VCx) (f : Nat) : M Nat :=
  match c.opd f with
  | some (.sca n) => pure n
  | _ => c.enc

def lanes : List Nat := upTo 128

def laneAt (l : List W32) (i : Nat) : W32 := l.getD i 0#32

/-- Values of a vector operand (04 R81). -/
def State.vecLanes (s : State) (c : VCx) (n : Nat) : List W32 :=
  if c.window then
    let bs := s.ocRead c.g (c.wbase + 512 * n) 512
    lanes.map fun l => w32At bs (4 * l)
  else lanes.map fun l => tget 0#32 (s.vec c.g).v (128 * n + l)

def VCx.on (c : VCx) (l : Nat) : Bool := bit c.act l
/-- Active lanes in increasing order. -/
def VCx.active (c : VCx) : List Nat := lanes.filter c.on

/-- Lanes of a window slot are read (05 R113). -/
def VCx.slotReads (c : VCx) (n : Nat) (ls : List Nat) : M Unit :=
  if c.window then ocReads c.g (ls.map fun l => (c.wbase + 512 * n + 4 * l, 4)) else pure ()

/-- Values of a source operand of which lanes `ls` are read; `k` is the captured scalar of the field. -/
def VCx.srcOn (c : VCx) (f : Nat) (k : Word64) (ls : List Nat) : M (List W32) := do
  match c.opd f with
  | some (.vec n) =>
    c.slotReads n ls
    return (← getS).vecLanes c n
  | some (.sca _) => return lanes.map fun _ => k.setWidth 32
  | none => c.enc

/-- Values of a source operand read by the active lanes. -/
def VCx.src (c : VCx) (f : Nat) (k : Word64) : M (List W32) := c.srcOn f k c.active

def VCx.srcA (c : VCx) : M (List W32) := c.src c.a c.cap.sA
def VCx.srcB (c : VCx) : M (List W32) := c.src c.b c.cap.sB
def VCx.srcC (c : VCx) : M (List W32) := c.src c.c c.cap.sC

/-- A captured scalar as an address, count or index. -/
def asNat (k : Word64) : Nat := k.toNat % 2 ^ 32
/-- A captured scalar as a W32 value. -/
def asW32 (k : Word64) : W32 := k.setWidth 32

/-! ### Masks -/

/-- Mask kn; k0 reads as all lanes set (04 R88). -/
def State.kmask (s : State) (g n : Nat) : Nat :=
  if n = 0 then 2 ^ 128 - 1 else (tget 0#128 (s.vec g).k n).toNat

/-- A field that names a mask. Bits [7:3] that are not 0 are an illegal encoding (log entry 57); a destination
k0 breaks R88 and is an illegal sequence (04 R88, R106). -/
def VCx.maskOf (c : VCx) (f : Nat) (dest : Bool) : M Nat := do
  c.encIf (decide (8 ≤ f))
  c.seqIf (dest && f == 0)
  return f

def maskOfLanes (f : Nat → Bool) : Nat :=
  lanes.foldl (fun m l => if f l then m + 2 ^ l else m) 0

/-- Write a mask over the active lanes (04 R92). -/
def State.putMask (s : State) (c : VCx) (n v : Nat) : State :=
  let old := s.kmask c.g n
  let m := maskOfLanes fun l => if c.on l then bit v l else if c.mz then false else bit old l
  let e := s.vec c.g
  s.setVec c.g { e with k := tput 0#128 e.k n (BitVec.ofNat 128 m) }

/-! ### Results -/

/-- Census class of a W32 result with no conversion. -/
def w32Class (x : W32) : CClass :=
  if !(w32IsFinite x) then .nonfin else if w32IsZero x then .zero else .ordinary

def censusOf (vs : List W32) : Census := vs.foldl (fun k v => k.count (w32Class v) (srcW32 v)) {}

/-- The TSLOT of a write stream must be one of the context's (07 R198). -/
def VCx.stream (c : VCx) (used : Bool) : M Unit := do
  c.encIf (used && !((← getS).slotOk c.tslot c.t.ctx))

def VCx.report (c : VCx) (k : Census) : M Unit :=
  setS fun s => s.report c.t.ctx c.tslot (s.stepNo c.t.ctx) k

/-- One lane of a vector operand written. -/
def State.putLane (s : State) (c : VCx) (n l : Nat) (v : W32) : State :=
  if c.window then s.ocWrite c.g (c.wbase + 512 * n + 4 * l) (w32Bytes v)
  else
    let e := s.vec c.g
    s.setVec c.g { e with v := tput 0#32 e.v (128 * n + l) v }

/-- Write a vector result: each lane of `on` its value, each other lane kept or, with MZ, zero; a
window destination reports its active lanes unless the word only copies (04 R87, R92). -/
def VCx.put (c : VCx) (n : Nat) (on : Nat → Bool) (vals : List W32) (copy : Bool) : M Unit := do
  c.stream (c.window && !copy)
  setS fun s => lanes.foldl (fun s l =>
    if on l then s.putLane c n l (laneAt vals l)
    else if c.mz then s.putLane c n l 0#32 else s) s
  if c.window && !copy then c.report (censusOf ((lanes.filter on).map (laneAt vals)))

/-- A scalar register written by a vector word; a W32 result is zero-extended (06 R187). -/
def State.putScalar (s : State) (g n : Nat) (v : Word64) : State :=
  let k := s.core g
  s.setCore g { k with s := k.s.set! n v }

/-! ### Taking a word -/

/-- A fault of a vector word (04 R106). -/
def State.vecFault (s : State) (g kind detail : Nat) : State :=
  let s := if kind = kSequence then s.incF (F.veFaultsSequence g) 1
    else if kind = kBounds then s.incF (F.veBounds g) 1
    else if kind = kEncoding then s.incF (F.veFaultsEncoding g) 1 else s
  s.coreFault g uVector kind 0 detail

/-- Window sources of a word, one port beat each (04 R82). -/
def VCx.portBeats (c : VCx) (fs : List Nat) : Nat :=
  if c.window then (fs.filter fun f => decide (f < 0x80)).length else 0

/-- How a word of the core's instance executes. -/
def State.vecCx (s : State) (g : Nat) (t : Inst) (q : VWord) : VCx :=
  { g := g, t := t, w := q.w.toNat, cap := q, wbase := (s.vec g).wbase,
    window := match s.grant t.ctx with
      | some gr => gr.vmode
      | none => false,
    act := if vCls q.w.toNat = 8 then 2 ^ 128 - 1 else s.kmask g (bits q.w.toNat 8 3) }

/-- Run a word, or the next chunk of one, from `s'`; one that must wait leaves `s`. `f` answers beats and source
fields. -/
def State.vecDo (s s' : State) (c : VCx) (f : VCx → M (Nat × List Nat)) : State :=
  match (f c).go s' with
  | (.ok (n, fs), s') =>
    let beats := Nat.max n (c.portBeats fs)
    (s'.incF (F.veBusy c.g) beats).chargeBeats c.t.ctx beats
  | (.error (.fault cl k su d u), s') =>
    if cl = clsContext ∧ u.isNone ∧ (k = kEncoding ∨ k = kSequence ∨ k = kBounds) then s'.vecFault c.g k d
    else s'.coreStop c.g uVector c.t (.fault cl k su d u)
  | (.error _, _) => s

/-- Take the word at the front of the vector queue, when none executes, and run it when it is the one commanded.
A word with a reserved class or operation is met by whichever command comes (04 R83, R106). -/
def State.vecWord (s : State) (g cls op : Nat) (f : VCx → M (Nat × List Nat)) : State :=
  match s.running g with
  | none => s
  | some t =>
    let v := s.vec g
    match v.queue with
    | [] => s
    | q :: rest =>
      let w := q.w.toNat
      let s' := s.setVec g { v with queue := rest }
      if v.run.isSome then s
      else if vOps (vCls w) ≤ vOp w then s'.vecFault g kEncoding g
      else if vCls w != cls || vOp w != op then s
      else s.vecDo s' (s.vecCx g t q) f

/-- The fused word in execution, when it is the one commanded, runs its next chunk; else one is taken (04 R83). -/
def State.vecFused (s : State) (g op : Nat) (begin next : VCx → M (Nat × List Nat)) : State :=
  match s.running g, (s.vec g).run with
  | some t, some r => if vOp r.q.w.toNat = op then s.vecDo s (s.vecCx g t r.q) next else s
  | _, _ => s.vecWord g 8 op begin

/-- AUX must be 0 on a word that does not use it (04 R84). -/
def VCx.noAux (c : VCx) : M Unit := c.encIf (c.aux != 0)
/-- MSEL and MZ must be 0 on a word that takes no mask (04 R93). -/
def VCx.noMask (c : VCx) : M Unit := c.encIf (c.msel != 0 || c.mz)

end Sys2Proof.Machine
end

