-- ==== Sys2Proof/Machine/Vector.lean ====
section
/-! DEFINITION. The vector engine's words: arithmetic, comparisons, masks, transcendentals, loads and
stores, reductions, permutations and fused rows (04 R88–R105). -/
namespace Sys2Proof.Machine

/-! ### Shapes of words -/

/-- A result per active lane from one, two or three operands (04 R88). -/
def vUn (beats : Nat) (copy : Bool) (f : W32 → W32) (c : VCx) : M (Nat × List Nat) := do
  c.noAux
  let d ← c.vecOf c.d
  let a ← c.srcA
  c.put d c.on (a.map f) copy
  return (beats, [c.a])

def vBin (beats : Nat) (f : W32 → W32 → W32) (c : VCx) : M (Nat × List Nat) := do
  c.noAux
  let d ← c.vecOf c.d
  let a ← c.srcA
  let b ← c.srcB
  c.put d c.on (List.zipWith f a b) false
  return (beats, [c.a, c.b])

def vTri (f : W32 → W32 → W32 → W32) (c : VCx) : M (Nat × List Nat) := do
  c.noAux
  let d ← c.vecOf c.d
  let a ← c.srcA
  let b ← c.srcB
  let e ← c.srcC
  c.put d c.on (lanes.map fun l => f (laneAt a l) (laneAt b l) (laneAt e l)) false
  return (1, [c.a, c.b, c.c])

/-- Total order of the non-NaN codes with −0 below +0. -/
def w32Key (x : W32) : Int :=
  if w32Neg x then -((x.toNat % 2 ^ 31 : Nat) : Int) - 1 else ((x.toNat : Nat) : Int)

/-- Minimum and maximum of 04 R79. -/
def w32Min (a b : W32) : W32 :=
  if w32IsNaN a || w32IsNaN b then w32NaN else if w32Key b < w32Key a then b else a
def w32Max (a b : W32) : W32 :=
  if w32IsNaN a || w32IsNaN b then w32NaN else if w32Key a < w32Key b then b else a

def w32Abs (a : W32) : W32 := if w32IsNaN a then w32NaN else a &&& 0x7FFFFFFF#32
def w32NegV (a : W32) : W32 := if w32IsNaN a then w32NaN else w32Flip a

/-- a rounded to the nearest even integer, saturated to unsigned 32 bits (04 R88). -/
def w32ToU32 (a : W32) : W32 :=
  if w32IsNaN a then 0#32
  else if w32Neg a then 0#32
  else if w32IsInf a then 0xFFFFFFFF#32
  else
    let u := w32Units a
    let q := u / 2 ^ 149
    let r := 2 * (u % 2 ^ 149)
    let n := if r < 2 ^ 149 then q else if 2 ^ 149 < r then q + 1 else if q % 2 = 0 then q else q + 1
    BitVec.ofNat 32 (Nat.min n (2 ^ 32 - 1))

/-! ### ARITH -/

def execVadd (core : Fin 256) (s : State) : Host.Outcome State Fault Refusal :=
  work s fun s => s.vecWord core.val 1 0 (vBin 1 w32Add)
def execVsub (core : Fin 256) (s : State) : Host.Outcome State Fault Refusal :=
  work s fun s => s.vecWord core.val 1 1 (vBin 1 w32Sub)
def execVmul (core : Fin 256) (s : State) : Host.Outcome State Fault Refusal :=
  work s fun s => s.vecWord core.val 1 2 (vBin 1 w32Mul)
def execVfma (core : Fin 256) (s : State) : Host.Outcome State Fault Refusal :=
  work s fun s => s.vecWord core.val 1 3 (vTri w32Fma)
/-- c − a × b with one rounding. -/
def execVfnma (core : Fin 256) (s : State) : Host.Outcome State Fault Refusal :=
  work s fun s => s.vecWord core.val 1 4 (vTri fun a b e => w32Fma (w32Flip a) b e)
def execVmin (core : Fin 256) (s : State) : Host.Outcome State Fault Refusal :=
  work s fun s => s.vecWord core.val 1 5 (vBin 1 w32Min)
def execVmax (core : Fin 256) (s : State) : Host.Outcome State Fault Refusal :=
  work s fun s => s.vecWord core.val 1 6 (vBin 1 w32Max)
def execVabs (core : Fin 256) (s : State) : Host.Outcome State Fault Refusal :=
  work s fun s => s.vecWord core.val 1 7 (vUn 1 false w32Abs)
def execVneg (core : Fin 256) (s : State) : Host.Outcome State Fault Refusal :=
  work s fun s => s.vecWord core.val 1 8 (vUn 1 false w32NegV)
def execVmov (core : Fin 256) (s : State) : Host.Outcome State Fault Refusal :=
  work s fun s => s.vecWord core.val 1 9 (vUn 1 true id)
def execVdiv (core : Fin 256) (s : State) : Host.Outcome State Fault Refusal :=
  work s fun s => s.vecWord core.val 1 10 (vBin 8 w32Div)
def execVsqrt (core : Fin 256) (s : State) : Host.Outcome State Fault Refusal :=
  work s fun s => s.vecWord core.val 1 11 (vUn 8 false w32Sqrt)
def execVclamp (core : Fin 256) (s : State) : Host.Outcome State Fault Refusal :=
  work s fun s => s.vecWord core.val 1 12 (vTri fun a b e => w32Min (w32Max a b) e)
def execVcvti (core : Fin 256) (s : State) : Host.Outcome State Fault Refusal :=
  work s fun s => s.vecWord core.val 1 13 (vUn 1 false w32ToU32)
def execVcvtf (core : Fin 256) (s : State) : Host.Outcome State Fault Refusal :=
  work s fun s => s.vecWord core.val 1 14 (vUn 1 false fun a => w32OfNat a.toNat)

/-! ### CMP -/

def vCmp (f : W32 → W32 → Bool) (two : Bool) (c : VCx) : M (Nat × List Nat) := do
  c.noAux
  let d ← c.maskOf c.d true
  let a ← c.srcA
  let b ← if two then c.srcB else pure a
  setS fun s => s.putMask c d (maskOfLanes fun l => f (laneAt a l) (laneAt b l))
  return (1, if two then [c.a, c.b] else [c.a])

def execVceq (core : Fin 256) (s : State) : Host.Outcome State Fault Refusal :=
  work s fun s => s.vecWord core.val 2 0 (vCmp w32Eq true)
def execVcne (core : Fin 256) (s : State) : Host.Outcome State Fault Refusal :=
  work s fun s => s.vecWord core.val 2 1 (vCmp (fun a b => !(w32Eq a b)) true)
def execVclt (core : Fin 256) (s : State) : Host.Outcome State Fault Refusal :=
  work s fun s => s.vecWord core.val 2 2 (vCmp w32Lt true)
def execVcle (core : Fin 256) (s : State) : Host.Outcome State Fault Refusal :=
  work s fun s => s.vecWord core.val 2 3 (vCmp w32Le true)
def execVcunord (core : Fin 256) (s : State) : Host.Outcome State Fault Refusal :=
  work s fun s => s.vecWord core.val 2 4 (vCmp (fun a b => w32IsNaN a || w32IsNaN b) true)
def execVcfin (core : Fin 256) (s : State) : Host.Outcome State Fault Refusal :=
  work s fun s => s.vecWord core.val 2 5 (vCmp (fun a _ => w32IsFinite a) false)

/-! ### MASK -/

def all128 : Nat := 2 ^ 128 - 1

def vMask (f : Nat → Nat → Nat) (c : VCx) : M (Nat × List Nat) := do
  c.noAux
  let d ← c.maskOf c.d true
  let a ← c.maskOf c.a false
  let b ← c.maskOf c.b false
  setS fun s => s.putMask c d (f (s.kmask c.g a) (s.kmask c.g b))
  return (1, [])

def execKand (core : Fin 256) (s : State) : Host.Outcome State Fault Refusal :=
  work s fun s => s.vecWord core.val 3 0 (vMask fun a b => a &&& b)
def execKor (core : Fin 256) (s : State) : Host.Outcome State Fault Refusal :=
  work s fun s => s.vecWord core.val 3 1 (vMask fun a b => a ||| b)
def execKxor (core : Fin 256) (s : State) : Host.Outcome State Fault Refusal :=
  work s fun s => s.vecWord core.val 3 2 (vMask fun a b => a ^^^ b)
def execKandn (core : Fin 256) (s : State) : Host.Outcome State Fault Refusal :=
  work s fun s => s.vecWord core.val 3 3 (vMask fun a b => a &&& (all128 ^^^ b))

def vKnot (c : VCx) : M (Nat × List Nat) := do
  c.encIf (c.b != 0)
  vMask (fun a _ => all128 ^^^ a) c

def execKnot (core : Fin 256) (s : State) : Host.Outcome State Fault Refusal :=
  work s fun s => s.vecWord core.val 3 4 vKnot

def vKfirst (c : VCx) : M (Nat × List Nat) := do
  c.noAux
  let d ← c.maskOf c.d true
  let _ ← c.scaOf c.a
  setS fun s => s.putMask c d (2 ^ Nat.min 128 (asNat c.cap.sA) - 1)
  return (1, [])

def execKfirst (core : Fin 256) (s : State) : Host.Outcome State Fault Refusal :=
  work s fun s => s.vecWord core.val 3 5 vKfirst

def vKcount (c : VCx) : M (Nat × List Nat) := do
  c.noAux
  let d ← c.scaOf c.d
  let a ← c.maskOf c.a false
  setS fun s => s.putScalar c.g d (BitVec.ofNat 64 ((c.active.filter (bit (s.kmask c.g a))).length))
  return (2, [])

def execKcount (core : Fin 256) (s : State) : Host.Outcome State Fault Refusal :=
  work s fun s => s.vecWord core.val 3 6 vKcount

/-! ### XFN (04 R97, R98) -/

def w32NegOne : W32 := 0xBF800000#32
def w32Half : W32 := 0x3F000000#32
/-- 2^e rounded once. -/
def w32Exp2i (e : Int) : W32 :=
  if 128 ≤ e then w32Inf false else if e < -150 then 0#32
  else w32Round false (2 ^ (e + 200).toNat) (2 ^ 200)

/-- The exponent of a positive power of two. -/
def w32Log2i (x : W32) : Option Int :=
  if !(w32IsFinite x) || w32Neg x || w32IsZero x then none
  else
    let u := w32Units x
    if 2 ^ Nat.log2 u = u then some ((Nat.log2 u : Int) - 149) else none

def w32OfSmallInt (n : Int) : W32 := w32OfInt (n * 2 ^ 149) 149 false

/-- e^x; from 0x42B17218 on it lies beyond the largest finite value. -/
def fExp (x : W32) : W32 :=
  if w32IsNaN x then w32NaN else if w32IsInf x then (if w32Neg x then 0#32 else x)
  else if w32IsZero x then w32One
  else if !(w32Neg x) && decide (0x42B17218 ≤ x.toNat) then w32Inf false
  else ulpPick 1 (fxExp (fxOf x)) (Config.exp x)

def fExp2 (x : W32) : W32 :=
  if w32IsNaN x then w32NaN else if w32IsInf x then (if w32Neg x then 0#32 else x)
  else if w32Int x % 2 ^ 149 = 0 ∧ -149 ≤ w32Int x / 2 ^ 149 ∧ w32Int x / 2 ^ 149 ≤ 127 then
    w32Exp2i (w32Int x / 2 ^ 149)
  else if !(w32Neg x) && decide (0x43000000 ≤ x.toNat) then w32Inf false
  else ulpPick 1 (fxExp (fxMul (fxOf x) fxLn2)) (Config.exp2 x)

def fLogWith (special : W32 → Option W32) (rest : W32 → W32) (x : W32) : W32 :=
  if w32IsNaN x then w32NaN else if w32IsZero x then w32Inf true
  else if w32Neg x then w32NaN else if w32IsInf x then x
  else match special x with
    | some r => r
    | none => rest x

def fLog : W32 → W32 := fLogWith (fun x => if x = w32One then some 0#32 else none)
  fun x => ulpPick 1 (fxLog (w32Units x)) (Config.log x)
def fLog2 : W32 → W32 := fLogWith (fun x => (w32Log2i x).map w32OfSmallInt)
  fun x => ulpPick 1 (fxLog (w32Units x) * fxOne / fxLn2) (Config.log2 x)
def fRcp (x : W32) : W32 := w32Div w32One x

def fRsqrt (x : W32) : W32 :=
  if w32IsNaN x then w32NaN else if w32IsZero x then w32Inf (w32Neg x)
  else if w32Neg x then w32NaN else if w32IsInf x then 0#32
  else match w32Log2i x with
    | some e => if e % 2 = 0 then w32Exp2i (-(e / 2)) else ulpPick 1 (fxRsqrt (w32Units x)) (Config.rsqrt x)
    | none => ulpPick 1 (fxRsqrt (w32Units x)) (Config.rsqrt x)

/-- The shape of tanh and erf. -/
def fOdd (rest : W32 → W32) (x : W32) : W32 :=
  if w32IsNaN x then w32NaN else if w32IsInf x then (if w32Neg x then w32NegOne else w32One)
  else if w32IsZero x then x else rest x

def fTanh : W32 → W32 := fOdd fun x => ulpPick 2 (fxTanh (fxOf x)) (Config.tanh x)
def fErf : W32 → W32 := fOdd fun x => ulpPick 2 (fxErfOf (fxOf x)) (Config.erf x)

def fSigm (x : W32) : W32 :=
  if w32IsNaN x then w32NaN else if w32IsInf x then (if w32Neg x then 0#32 else w32One)
  else if w32IsZero x then w32Half else ulpPick 2 (fxSigm (fxOf x)) (Config.sigm x)

/-- The bound of sine and cosine: 2 ulp to 65,536, 4 beyond. -/
def trigUlp (x : W32) : Nat := if x.toNat % 2 ^ 31 ≤ 0x47800000 then 2 else 4

def fSin (x : W32) : W32 :=
  if !(w32IsFinite x) then w32NaN else if w32IsZero x then x
  else ulpPick (trigUlp x) (fxSin (fxOf x)) (Config.sin x)
def fCos (x : W32) : W32 :=
  if !(w32IsFinite x) then w32NaN else if w32IsZero x then w32One
  else ulpPick (trigUlp x) (fxCos (fxOf x)) (Config.cos x)

def execVexp (core : Fin 256) (s : State) : Host.Outcome State Fault Refusal :=
  work s fun s => s.vecWord core.val 4 0 (vUn 4 false fExp)
def execVexp2 (core : Fin 256) (s : State) : Host.Outcome State Fault Refusal :=
  work s fun s => s.vecWord core.val 4 1 (vUn 4 false fExp2)
def execVlog (core : Fin 256) (s : State) : Host.Outcome State Fault Refusal :=
  work s fun s => s.vecWord core.val 4 2 (vUn 4 false fLog)
def execVlog2 (core : Fin 256) (s : State) : Host.Outcome State Fault Refusal :=
  work s fun s => s.vecWord core.val 4 3 (vUn 4 false fLog2)
def execVrcp (core : Fin 256) (s : State) : Host.Outcome State Fault Refusal :=
  work s fun s => s.vecWord core.val 4 4 (vUn 4 false fRcp)
def execVrsqrt (core : Fin 256) (s : State) : Host.Outcome State Fault Refusal :=
  work s fun s => s.vecWord core.val 4 5 (vUn 4 false fRsqrt)
def execVtanh (core : Fin 256) (s : State) : Host.Outcome State Fault Refusal :=
  work s fun s => s.vecWord core.val 4 6 (vUn 6 false fTanh)
def execVsigm (core : Fin 256) (s : State) : Host.Outcome State Fault Refusal :=
  work s fun s => s.vecWord core.val 4 7 (vUn 6 false fSigm)
def execVerf (core : Fin 256) (s : State) : Host.Outcome State Fault Refusal :=
  work s fun s => s.vecWord core.val 4 8 (vUn 6 false fErf)
def execVsin (core : Fin 256) (s : State) : Host.Outcome State Fault Refusal :=
  work s fun s => s.vecWord core.val 4 9 (vUn 8 false fSin)
def execVcos (core : Fin 256) (s : State) : Host.Outcome State Fault Refusal :=
  work s fun s => s.vecWord core.val 4 10 (vUn 8 false fCos)

/-! ### MOVE (04 R89–R91) -/

/-- Element codes at bit granularity: lane `l`'s first byte and bytes, from address `a`. -/
def laneByte (f : Fmt) (a l : Nat) : Nat := a + l * f.bits / 8
def laneSize (f : Fmt) : Nat := (f.bits + 7) / 8

/-- A lane's bytes lie in the operand cache; its scale byte too where there is one. -/
def laneIn (f : Fmt) (a sa l : Nat) : Bool :=
  ocOk (laneByte f a l) (laneSize f) && (!f.scaled || ocOk (sa + l / 16) 1)

/-- Bounds of the lanes of a load or store: active lanes fault, inactive ones count (04 R93). -/
def VCx.laneBounds (c : VCx) (ok : Nat → Bool) (at' : Nat → Nat) : M Unit := do
  match c.active.find? fun l => !(ok l) with
  | some l => ctxStop kBounds (at' l)
  | none =>
    let n := (lanes.filter fun l => !(c.on l) && !(ok l)).length
    if n != 0 then setS fun s => s.incF (F.veSuppress c.g) n

/-- Code of one element. -/
def elemAt (s : State) (g : Nat) (f : Fmt) (a l : Nat) : Nat :=
  let v := leNat (s.ocRead g (laneByte f a l) (laneSize f))
  if f.bits = 4 then (if l % 2 = 0 then v % 16 else v / 16) else v

/-- Scalar pair and alignment that VLD and VST share: element address, scale address, i0 (04 R90). -/
def VCx.moveArgs (c : VCx) (f : Fmt) : M (Nat × Nat × Nat) := do
  let n ← c.scaOf c.a
  let _ ← c.scaOf c.b
  c.encIf (f.scaled && n == 31)
  let a := asNat c.cap.sA
  let i0 := asNat c.cap.sB
  c.seqIf (a % 64 != 0 || (f.scaled && i0 % 16 != 0))
  return (a, asNat c.cap.sA1, i0)

def c2fmt (n : Nat) : Fmt := if n = 0 then .kq4 else if n = 1 then .kq8 else if n = 2 then .kw16 else .w32

/-- VLD; a W32 element that is a NaN becomes 0x7FC00000 (02 R45, R51; log entry 44). -/
def vVld (c : VCx) : M (Nat × List Nat) := do
  c.encIf (decide (4 ≤ c.aux))
  let d ← c.vecOf c.d
  let f := c2fmt c.aux
  let (a, sa, _) ← c.moveArgs f
  let copy := f == .w32
  c.encIf (f.scaled && !((← getS).bindIn c.t c.c))
  c.stream (c.window && !copy)
  c.laneBounds (laneIn f a sa) (laneByte f a)
  ocReads c.g (c.active.flatMap fun l =>
    (laneByte f a l, laneSize f) :: (if f.scaled then [(sa + l / 16, 1)] else []))
  let cs ← coarseUse c.g uVector c.t [(f.scaled, c.c)]
  let s ← getS
  let k := cs.getD 0 0
  let vals := lanes.map fun l =>
    if !(c.on l) then 0#32 else
    if f.scaled && !(coarseOk k) then w32NaN else
    toW32 (srcElem f (elemAt s c.g f a l)
      (if f.scaled then leNat (s.ocRead c.g (sa + l / 16) 1) else 0) k)
  c.put d c.on vals copy
  return (if f.scaled then 2 else 1, [])

def execVld (core : Fin 256) (s : State) : Host.Outcome State Fault Refusal :=
  work s fun s => s.vecWord core.val 5 0 vVld

/-- One block of a scaled VST. -/
def VCx.stBlock (c : VCx) (v : Cvc) (k : W32) (a sa i0 : Nat) (src : List W32) (q : Nat) : M Census := do
  let s ← getS
  let ls := (upTo 16).map fun i => 16 * q + i
  let us := ls.map fun l => draw (BitVec.ofNat 64 (s.stepNo c.t.ctx)) c.tslot (i0 + l)
  let r := convBlock v k false (leNat (s.ocRead c.g (sa + q) 1)) (ls.map fun l => srcW32 (laneAt src l)) us
  setS fun s => s.ocWrite c.g (laneByte v.fmt a (16 * q)) (packCodes v.fmt r.1)
  match r.2.1 with
  | some x => setS fun s => s.ocWrite c.g (sa + q) [BitVec.ofNat 8 x]
  | none => pure ()
  return r.2.2

/-- One lane of an unscaled store converted and written; a copy keeps the code (02 R51, 04 R87). -/
def VCx.stLane (c : VCx) (copy : Bool) (v : Cvc) (a i : Nat) (x : W32) : M Census := do
  let s ← getS
  let u := draw (BitVec.ofNat 64 (s.stepNo c.t.ctx)) c.tslot i
  let r := convCode v false u (srcW32 x)
  let code := if copy then x.toNat else r.1
  setS fun s => s.ocWrite c.g a (leBytes (laneSize v.fmt) code)
  return ({} : Census).count r.2 (srcW32 x)

def sumCensus (l : List Census) : Census := l.foldl Census.add {}

/-- Active lanes of a block. -/
def VCx.blockOn (c : VCx) (q : Nat) : Nat := ((upTo 16).filter fun i => c.on (16 * q + i)).length

def vVst (c : VCx) : M (Nat × List Nat) := do
  match cvcDecode c.aux with
  | none => c.enc
  | some v =>
    let f := v.fmt
    let n ← c.vecOf c.d
    c.seqIf (f.scaled && c.mz)
    let (a, sa, i0) ← c.moveArgs f
    c.encIf (f.scaled && !((← getS).bindIn c.t c.c))
    c.stream (f != .w32)
    c.seqIf (f.scaled && (upTo 8).any fun q => c.blockOn q != 0 && c.blockOn q != 16)
    c.laneBounds (laneIn f a sa) (laneByte f a)
    c.slotReads n c.active
    if f.scaled && v.given then
      ocReads c.g (((upTo 8).filter fun q => c.blockOn q = 16).map fun q => (sa + q, 1))
    let src := (← getS).vecLanes c n
    let cs ← coarseUse c.g uVector c.t [(f.scaled, c.c)]
    let k ←
      if f.scaled then
        ((upTo 8).filter fun q => c.blockOn q = 16).mapM fun q => c.stBlock v (cs.getD 0 0) a sa i0 src q
      else do
        let ks ← c.active.mapM fun l => c.stLane (f == .w32) v (laneByte f a l) (i0 + l) (laneAt src l)
        if c.mz then
          setS fun s => (lanes.filter fun l => !(c.on l) && laneIn f a sa l).foldl (fun s l =>
            s.ocWrite c.g (laneByte f a l) (leBytes (laneSize f) 0)) s
        pure ks
    if f != .w32 then c.report (sumCensus k)
    return (if f.scaled then 2 else 1, [c.d])

def execVst (core : Fin 256) (s : State) : Host.Outcome State Fault Refusal :=
  work s fun s => s.vecWord core.val 5 1 vVst

/-! ### REDUCE (04 R99, R100) -/

def pair0 : W32 × W32 := (0#32, 0#32)

def vVaccz (c : VCx) : M (Nat × List Nat) := do
  c.noAux
  c.noMask
  setS fun s => s.setVec c.g { s.vec c.g with pairs := [] }
  return (1, [])

def execVaccz (core : Fin 256) (s : State) : Host.Outcome State Fault Refusal :=
  work s fun s => s.vecWord core.val 6 0 vVaccz

/-- Add x to a compensated pair. -/
def pairAdd (p : W32 × W32) (x : W32) : W32 × W32 :=
  let t := w32Add p.1 x
  let z := w32Sub t p.1
  let e := w32Add (w32Sub p.1 (w32Sub t z)) (w32Sub x z)
  (t, w32Add p.2 e)

/-- Combine two nodes of pairs. -/
def pairNode (a b : W32 × W32) : W32 × W32 :=
  let t := w32Add a.1 b.1
  let z := w32Sub t a.1
  let e := w32Add (w32Sub a.1 (w32Sub t z)) (w32Sub b.1 z)
  (t, w32Add (w32Add a.2 b.2) e)

/-- T over a list of pairs (03 R59). -/
def pairTree : Nat → List (W32 × W32) → W32 × W32
  | 0, _ => pair0
  | f + 1, l =>
    match l with
    | [] => pair0
    | [x] => x
    | _ =>
      let p := 2 ^ Nat.log2 (l.length - 1)
      pairNode (pairTree f (l.take p)) (pairTree f (l.drop p))

def accX (mode : Nat) (a b : W32) : W32 :=
  if mode = 0 then a else if mode = 1 then w32Mul a a
  else let d := w32Sub a b; w32Mul d d

def vVacc (c : VCx) : M (Nat × List Nat) := do
  c.encIf (decide (3 ≤ c.aux))
  let a ← c.srcA
  let b ← if c.aux = 2 then c.srcB else pure a
  setS fun s =>
    let v := s.vec c.g
    s.setVec c.g { v with pairs := c.active.foldl (fun t l =>
      tput pair0 t l (pairAdd (tget pair0 t l) (accX c.aux (laneAt a l) (laneAt b l)))) v.pairs }
  return (1, if c.aux = 2 then [c.a, c.b] else [c.a])

def execVacc (core : Fin 256) (s : State) : Host.Outcome State Fault Refusal :=
  work s fun s => s.vecWord core.val 6 1 vVacc

/-- W32(s + c) of the fold over the 128 pairs. -/
def foldPairs (ps : Tbl (W32 × W32)) : W32 :=
  let r := pairTree 8 (lanes.map fun l => tget pair0 ps l)
  w32Add r.1 r.2

/-- A result for scalar D, or for every given lane of vector D. -/
def VCx.putEither (c : VCx) (on : Nat → Bool) (v : W32) : M Unit := do
  match c.opd c.d with
  | some (.sca n) => setS fun s => s.putScalar c.g n (v.setWidth 64)
  | some (.vec n) => c.put n on (lanes.map fun _ => v) false
  | none => c.enc

def vVfold (c : VCx) : M (Nat × List Nat) := do
  c.noAux
  c.noMask
  let r := foldPairs ((← getS).vec c.g).pairs
  match c.opd c.b with
  | some (.sca _) => c.putEither (fun _ => true) (w32Mul r (asW32 c.cap.sB))
  | some (.vec _) =>
    let d ← c.vecOf c.d
    let b ← c.srcB
    c.put d (fun _ => true) (b.map fun x => w32Mul r x) false
  | none => c.enc
  return (8, [c.b])

def execVfold (core : Fin 256) (s : State) : Host.Outcome State Fault Refusal :=
  work s fun s => s.vecWord core.val 6 2 vVfold

def vReduce (f : List W32 → W32) (c : VCx) : M (Nat × List Nat) := do
  c.noAux
  let a ← c.srcA
  c.putEither c.on (f (c.active.map (laneAt a)))
  return (8, [c.a])

def execVrsum (core : Fin 256) (s : State) : Host.Outcome State Fault Refusal :=
  work s fun s => s.vecWord core.val 6 3 (vReduce sumT)
def execVrmax (core : Fin 256) (s : State) : Host.Outcome State Fault Refusal :=
  work s fun s => s.vecWord core.val 6 4 (vReduce fun l => l.foldl w32Max (w32Inf true))
def execVrmin (core : Fin 256) (s : State) : Host.Outcome State Fault Refusal :=
  work s fun s => s.vecWord core.val 6 5 (vReduce fun l => l.foldl w32Min (w32Inf false))

/-! ### PERM (04 R94–R96) -/

/-- Rank of a lane among the active lanes. -/
def VCx.rank (c : VCx) (l : Nat) : Nat := (c.active.filter fun i => decide (i < l)).length

def vVcompress (c : VCx) : M (Nat × List Nat) := do
  c.noAux
  let d ← c.vecOf c.d
  let m ← c.scaOf c.c
  let a ← c.srcA
  let packed := c.active.map (laneAt a)
  let n := packed.length
  c.put d (fun l => decide (l < n)) packed true
  setS fun s => s.putScalar c.g m (BitVec.ofNat 64 n)
  return (2, [c.a])

def execVcompress (core : Fin 256) (s : State) : Host.Outcome State Fault Refusal :=
  work s fun s => s.vecWord core.val 7 0 vVcompress

/-- A contiguous run of `n` elements from the address in scalar B: aligned, and within the cache as far as it
holds an element (04 R95). -/
def VCx.runAt (c : VCx) (size n : Nat) : M (Nat × Nat) := do
  let m ← c.scaOf c.b
  let a := asNat c.cap.sB
  if a % size != 0 || (n != 0 && !(ocOk a (n * size))) then ctxStop kBounds a
  return (m, a)

def VCx.advance (c : VCx) (m size n : Nat) : M Unit :=
  setS fun s => s.putScalar c.g m (c.cap.sB + BitVec.ofNat 64 (n * size))

/-- VCSTORE; a part of 512 bytes costs a beat as a whole one does (04 R94; log entry 44). -/
def vVcstore (c : VCx) : M (Nat × List Nat) := do
  match cvcDecode c.aux with
  | none => c.enc
  | some v =>
    c.encIf (v.fmt.scaled || v.sr || v.given)
    let a ← c.srcA
    let size := laneSize v.fmt
    let n := c.active.length
    let copy := v.fmt == .w32
    c.stream (!copy)
    let (m, p) ← c.runAt size n
    let ks ← (c.active.zip (upTo n)).mapM fun x => c.stLane copy v (p + size * x.2) x.2 (laneAt a x.1)
    if !copy then c.report (sumCensus ks)
    c.advance m size n
    return (2 + (n * size + 511) / 512, [c.a])

def execVcstore (core : Fin 256) (s : State) : Host.Outcome State Fault Refusal :=
  work s fun s => s.vecWord core.val 7 1 vVcstore

def vVexpand (c : VCx) : M (Nat × List Nat) := do
  c.noAux
  let d ← c.vecOf c.d
  let m ← c.scaOf c.c
  let a ← c.srcOn c.a c.cap.sA (upTo c.active.length)
  c.put d c.on (lanes.map fun l => laneAt a (c.rank l)) true
  setS fun s => s.putScalar c.g m (BitVec.ofNat 64 c.active.length)
  return (2, [c.a])

def execVexpand (core : Fin 256) (s : State) : Host.Outcome State Fault Refusal :=
  work s fun s => s.vecWord core.val 7 2 vVexpand

/-- VXLOAD; beats as for VCSTORE, NaNs as for VLD (log entry 44). -/
def vVxload (c : VCx) : M (Nat × List Nat) := do
  c.encIf (c.aux != 2 && c.aux != 3)
  let f := c2fmt c.aux
  let d ← c.vecOf c.d
  let size := laneSize f
  let n := c.active.length
  let (m, p) ← c.runAt size n
  ocReads c.g [(p, size * n)]
  let s ← getS
  c.put d c.on (lanes.map fun l => if c.on l then
      toW32 (srcPlain f (leNat (s.ocRead c.g (p + size * c.rank l) size))) else 0#32) (f == .w32)
  c.advance m size n
  return (2 + (n * size + 511) / 512, [])

def execVxload (core : Fin 256) (s : State) : Host.Outcome State Fault Refusal :=
  work s fun s => s.vecWord core.val 7 3 vVxload

/-- Indexed addresses of the lanes: scalar A plus 4 times the bits of b. A misaligned address of an inactive lane
counts in VE_SUPPRESS as a bounds error does (04 R93; log entry 44). -/
def VCx.indexed (c : VCx) : M (List Nat) := do
  let _ ← c.scaOf c.a
  let b ← c.srcB
  let ad := b.map fun x => asNat c.cap.sA + 4 * x.toNat
  let at' := fun l => ad.getD l 0
  c.laneBounds (fun l => at' l % 4 == 0 && ocOk (at' l) 4) at'
  return ad

def vVgather (c : VCx) : M (Nat × List Nat) := do
  c.noAux
  let d ← c.vecOf c.d
  let ad ← c.indexed
  ocReads c.g (c.active.map fun l => (ad.getD l 0, 4))
  let s ← getS
  c.put d c.on (lanes.map fun l => if c.on l then w32At (s.ocRead c.g (ad.getD l 0) 4) 0 else 0#32) false
  return (8, [c.b])

def execVgather (core : Fin 256) (s : State) : Host.Outcome State Fault Refusal :=
  work s fun s => s.vecWord core.val 7 4 vVgather

/-- VSCATTER; with MZ = 1 an inactive lane writes 0 at its own address unless an active lane writes there (04 R92;
log entry 44). -/
def vVscatter (c : VCx) : M (Nat × List Nat) := do
  c.noAux
  let v ← c.srcC
  c.stream true
  let ad ← c.indexed
  setS fun s => c.active.foldl (fun s l => s.ocWrite c.g (ad.getD l 0) (w32Bytes (laneAt v l))) s
  if c.mz then
    setS fun s => (lanes.filter fun l => !(c.on l) && ad.getD l 0 % 4 == 0 && ocOk (ad.getD l 0) 4).foldl (fun s l =>
      if c.active.any (fun i => ad.getD i 0 == ad.getD l 0) then s
      else s.ocWrite c.g (ad.getD l 0) (w32Bytes 0)) s
  c.report (censusOf (c.active.map (laneAt v)))
  return (8, [c.b, c.c])

def execVscatter (core : Fin 256) (s : State) : Host.Outcome State Fault Refusal :=
  work s fun s => s.vecWord core.val 7 5 vVscatter

def vVbcast (c : VCx) : M (Nat × List Nat) := do
  c.noAux
  let d ← c.vecOf c.d
  let _ ← c.scaOf c.b
  let a ← c.srcOn c.a c.cap.sA [asNat c.cap.sB % 128]
  let v := laneAt a (asNat c.cap.sB % 128)
  c.put d c.on (lanes.map fun _ => v) true
  return (1, [c.a])

def execVbcast (core : Fin 256) (s : State) : Host.Outcome State Fault Refusal :=
  work s fun s => s.vecWord core.val 7 6 vVbcast

/-! ### FUSED (04 R102–R105) -/

inductive Fused where
  | softmax | lse | xent
  deriving DecidableEq

/-- The operands of a fused word (04 R102). -/
structure FusedArgs where
  f : Fmt
  src : Nat
  dst : Nat
  len : Nat
  t : Nat
  g : W32
  d : Nat

def VCx.fusedArgs (c : VCx) : FusedArgs :=
  { f := if c.msel = 0 then .w32 else .kw16, src := asNat c.cap.sA, dst := asNat c.cap.sA1, len := asNat c.cap.sB,
    t := asNat c.cap.sC, g := asW32 c.cap.sC1, d := c.d - 0x80 }

/-- Row element `j` as a W32. -/
def fusedElem (s : State) (g : Nat) (a : FusedArgs) (j : Nat) : W32 :=
  toW32 (srcPlain a.f (leNat (s.ocRead g (a.src + laneSize a.f * j) (laneSize a.f))))

/-- A row with a NaN or +∞ element, or of −∞ alone, by its maximum (04 R104). -/
def rowBad (m : W32) : Bool := w32IsNaN m || w32IsInf m

/-- e_j of an element (04 R103). -/
def rowExp (m x : W32) : W32 := fExp (w32Sub x m)

/-- The W32 value pass 3 writes for element `j` of value `x` (04 R103, R104). -/
def rowOut (k : Fused) (a : FusedArgs) (r : FusedRun) (j : Nat) (x : W32) : W32 :=
  if rowBad r.m then w32NaN
  else
    let y := w32Mul (rowExp r.m x) r.r
    if k = .xent then w32Mul a.g (w32Sub y (if j = a.t then w32One else 0#32)) else y

def VCx.setRun (c : VCx) (r : Option FusedRun) : M Unit :=
  setS fun s => s.setVec c.g { s.vec c.g with run := r }

/-- The word ends: accumulators cleared, D written. -/
def VCx.rowEnd (c : VCx) (res : W32) : M Unit :=
  setS fun s => (s.setVec c.g { s.vec c.g with run := none, pairs := [] }).putScalar c.g c.fusedArgs.d (res.setWidth 64)

/-- Behind the last chunk of pass 1: a bad row goes to pass 3, another to pass 2 with the accumulators at zero. -/
def VCx.endPass1 (c : VCx) (k : Fused) (r : FusedRun) : M Unit :=
  if !(rowBad r.m) then do
    setS fun s => s.setVec c.g { s.vec c.g with pairs := [] }
    c.setRun (some { r with pass := 2, chunk := 0 })
  else if k = .lse then c.rowEnd w32NaN
  else c.setRun (some { r with pass := 3, chunk := 0, res := w32NaN })

/-- Behind the last chunk of pass 2: S, LSE and r; VXENT's loss from x_t as it stands then (04 R103, R104; log
entry 56). -/
def VCx.endPass2 (c : VCx) (k : Fused) (r : FusedRun) : M Unit := do
  let a := c.fusedArgs
  let s ← getS
  let sum := foldPairs (s.vec c.g).pairs
  let lse := w32Add r.m (fLog sum)
  let r : FusedRun := { r with pass := 3, chunk := 0, sum := sum, lse := lse, r := fRcp sum }
  if k = .lse then c.rowEnd lse
  else if k = .xent then do
    ocReads c.g [(a.src + laneSize a.f * a.t, laneSize a.f)]
    c.setRun (some { r with res := w32Sub lse (fusedElem s c.g a a.t) })
  else c.setRun (some { r with res := lse })

/-- Beats of one chunk of a row over all its passes (04 R105). -/
def chunkBeats (k : Fused) : Nat := if k = .lse then 6 else 11

/-- The next chunk of the current pass (04 R103, R108). The beats of a chunk's passes count at its first (log entry
56); the index of an element in stochastic rounding is its place in the row (02 R47; log entry 44). -/
def vFusedNext (k : Fused) (c : VCx) : M (Nat × List Nat) := do
  let s ← getS
  match (s.vec c.g).run, cvcDecode c.aux with
  | some r, some v =>
    if s.suppressed c.t.ctx then
      c.setRun none
      return (0, [])
    let a := c.fusedArgs
    let j0 := 128 * r.chunk
    let js := (upTo (Nat.min 128 (a.len - j0))).map (j0 + ·)
    let last := decide (a.len ≤ j0 + 128)
    ocReads c.g [(a.src + laneSize a.f * j0, laneSize a.f * js.length)]
    let xs := js.map (fusedElem s c.g a)
    if r.pass = 1 then
      let r' := { r with m := xs.foldl w32Max r.m }
      if last then c.endPass1 k r' else c.setRun (some { r' with chunk := r.chunk + 1 })
      return (chunkBeats k, [])
    else if r.pass = 2 then
      setS fun s => s.setVec c.g { s.vec c.g with pairs := (xs.zip (upTo 128)).foldl (fun t p =>
        tput pair0 t p.2 (pairAdd (tget pair0 t p.2) (rowExp r.m p.1))) (s.vec c.g).pairs }
      if last then c.endPass2 k r else c.setRun (some { r with chunk := r.chunk + 1 })
      return (0, [])
    else
      let ks ← (js.zip xs).mapM fun p => c.stLane false v (a.dst + laneSize v.fmt * p.1) p.1 (rowOut k a r p.1 p.2)
      c.report (sumCensus ks)
      if last then c.rowEnd r.res else c.setRun (some { r with chunk := r.chunk + 1 })
      return (0, [])
  | _, _ => return (0, [])

/-- A fused word is taken: its checks, and the first chunk of pass 1 (04 R102–R106). -/
def vFused (k : Fused) (c : VCx) : M (Nat × List Nat) := do
  match cvcDecode c.aux with
  | none => c.enc
  | some v =>
    c.encIf (v.fmt.scaled || v.given || c.mz || decide (2 ≤ c.msel))
    let n ← c.scaOf c.a
    let _ ← c.scaOf c.b
    let _ ← c.scaOf c.d
    c.encIf (n == 31)
    if k = .xent then
      let m ← c.scaOf c.c
      c.encIf (m == 31)
    let a := c.fusedArgs
    c.stream (k != .lse)
    c.seqIf (a.len == 0 || decide (65536 < a.len) || a.src % 64 != 0 || (k != .lse && a.dst % 64 != 0)
      || (k == .xent && decide (a.len ≤ a.t)))
    if !(ocOk a.src (a.len * laneSize a.f)) then ctxStop kBounds a.src
    if k != .lse && !(ocOk a.dst (a.len * laneSize v.fmt)) then ctxStop kBounds a.dst
    if (← getS).suppressed c.t.ctx then return (1, [])
    c.setRun (some { q := c.cap })
    let b ← vFusedNext k c
    return (40 + b.1, [])

def execVsoftmax (core : Fin 256) (s : State) : Host.Outcome State Fault Refusal :=
  work s fun s => s.vecFused core.val 0 (vFused .softmax) (vFusedNext .softmax)
def execVlse (core : Fin 256) (s : State) : Host.Outcome State Fault Refusal :=
  work s fun s => s.vecFused core.val 1 (vFused .lse) (vFusedNext .lse)
def execVxent (core : Fin 256) (s : State) : Host.Outcome State Fault Refusal :=
  work s fun s => s.vecFused core.val 2 (vFused .xent) (vFusedNext .xent)

/-! ### CTRL -/

def vVwin (c : VCx) : M (Nat × List Nat) := do
  c.noAux
  c.noMask
  let _ ← c.scaOf c.a
  let a := asNat c.cap.sA
  c.seqIf (a % 65536 != 0 || decide (ocSize ≤ a))
  setS fun s => s.setVec c.g { s.vec c.g with wbase := a }
  return (1, [])

def execVwin (core : Fin 256) (s : State) : Host.Outcome State Fault Refusal :=
  work s fun s => s.vecWord core.val 9 0 vVwin

end Sys2Proof.Machine
end

