-- ==== Sys2Proof/Machine/ControlCore.lean ====
section
/-! DEFINITION. The control core: code fetch, the instructions of ISA level 1, fences and the end of an
instance (06 R187–R194, R180–R183, 04 R86). -/
namespace Sys2Proof.Machine

/-! ### Encodings (06 R189) -/

def rWord (op : Nat) (f : RForm) : Nat :=
  op + place f.rd.toNat 8 5 + place f.ra.toNat 13 5 + place f.rb.toNat 18 5 + place f.rest.toNat 23 9
def iWord (op : Nat) (f : IForm) : Nat :=
  op + place f.rd.toNat 8 5 + place f.ra.toNat 13 5 + place f.imm.toNat 18 14
def bWord (op : Nat) (f : BForm) : Nat :=
  op + place f.ra.toNat 8 5 + place f.rb.toNat 13 5 + place f.off.toNat 18 14
def pWord (op : Nat) (f : PForm) : Nat := op + place f.rd.toNat 8 5 + place f.rest.toNat 13 19

/-- Operation codes of ISA level 1 (06 R190). -/
def ccOps : List Nat :=
  [0x01, 0x02, 0x03, 0x04, 0x05, 0x06, 0x07, 0x08, 0x09, 0x0A, 0x0B, 0x10, 0x11, 0x12, 0x13, 0x14, 0x15,
   0x18, 0x19, 0x20, 0x21, 0x22, 0x28, 0x29, 0x2A, 0x2B, 0x2C, 0x2D, 0x30, 0x31, 0x32, 0x33, 0x38, 0x39,
   0x3A, 0x3E, 0x3F, 0x40, 0x48, 0x49, 0x4A, 0x4B]

/-- Words of an instruction with a payload (06 R189). -/
def ccPayload (op : Nat) : Nat :=
  if op = 0x18 ∨ op = 0x19 then 1 else if op = 0x30 then 4 else if op = 0x31 then 2 else 0

/-! ### Registers -/

def CoreSt.reg (c : CoreSt) (i : BitVec 5) : Word64 := c.s.toArray.getD i.toNat 0
def CoreSt.put (c : CoreSt) (i : BitVec 5) (v : Word64) : CoreSt := { c with s := c.s.set! i.toNat v }

/-- Scalar registers that a queued vector word will write (04 R86). -/
def vecWrites (w : Nat) : List Nat :=
  let sca (f : Nat) : List Nat := if 0x80 ≤ f ∧ f < 0xA0 then [f - 0x80] else []
  let cls := vCls w
  let op := vOp w
  if (cls = 3 ∧ op = 6) ∨ (cls = 6 ∧ 2 ≤ op) ∨ cls = 8 then sca (bits w 12 8)
  else if cls = 7 ∧ (op = 0 ∨ op = 2) then sca (bits w 36 8)
  else if cls = 7 ∧ (op = 1 ∨ op = 3) then sca (bits w 28 8)
  else []

def State.pendingScalars (s : State) (g : Nat) : List Nat :=
  (((s.vec g).run.toList.map (·.q)) ++ (s.vec g).queue).flatMap fun q => vecWrites q.w.toNat

/-- A VLD or VST of a format with scales, whose scale address is the scalar behind A's (04 R89). -/
def vecScaled (w : Nat) : Bool :=
  vCls w == 5 && (if vOp w = 0 then decide (bits w 56 8 < 2) else match cvcDecode (bits w 56 8) with
    | some v => v.fmt.scaled
    | none => false)

/-- Scalar registers a vector word names, those behind a pair's first with it (04 R86, R89, R102): C is a binding
index in MOVE, and in FUSED an operand of VXENT alone. -/
def vecNames (w : Nat) : List Nat :=
  let sca (f : Nat) : List Nat := if 0x80 ≤ f ∧ f < 0xA0 then [f - 0x80] else []
  let next (b : Bool) (f : Nat) : List Nat := if b then (sca f).map (· + 1) else []
  let xent := vCls w == 8 && vOp w == 2
  sca (bits w 12 8) ++ sca (bits w 20 8) ++ next (vCls w == 8 || vecScaled w) (bits w 20 8) ++ sca (bits w 28 8)
    ++ (if vCls w = 5 ∨ (vCls w = 8 ∧ !xent) then [] else sca (bits w 36 8)) ++ next xent (bits w 36 8)

/-! ### Fetch (06 R194) -/

/-- Fetch `n` bytes of code at the program counter, word by word. -/
def fetch (g : Nat) (t : Inst) (pc n : Nat) : M (List Byte) := do
  let ws ← (upTo (n / 4)).mapM fun i => do
    let a := pc + 4 * i
    let cva := (t.code + a) % 2 ^ 64
    check (decide (a < t.codeLen)) kBounds cva
    cvaRead (coreCluster g) t.ctx cva 4
  return ws.flatten

/-- A stop of the fetch; an uncorrectable error is the core's too (06 R194). -/
def State.fetchStop (s : State) (g : Nat) (t : Inst) (e : Stop) : State :=
  s.coreStop g uCore t (match e with
    | .fault cl k su d _ => .fault cl k su d (some uCore)
    | e => e)

/-- Illegal encoding of a control-core instruction. -/
def State.ccFault (s : State) (g kind sub detail : Nat) : State := s.coreFault g uCore kind sub detail

/-- Run one instruction: the core must have an instance of a resident context and wait for nothing; the
word at the program counter must be the one commanded (a reserved operation is met by whichever
command comes), with its unused fields 0; no register it names may await a queued vector word. `f` is
the effect, with the program counter behind the instruction (06 R187–R194; log entry 25). -/
def State.ccRun (s : State) (g word : Nat) (payload : List Byte) (unusedOk : Bool) (regs : List (BitVec 5))
    (f : State → Inst → CoreSt → State) : State :=
  match s.running g with
  | none => s
  | some t =>
    let c := s.core g
    if c.wait != .none then s else
    match (fetch g t c.pc 4).go s with
    | (.error (.fault cl k su d u), s') => s'.fetchStop g t (.fault cl k su d u)
    | (.error _, _) => s
    | (.ok bs, s1) =>
      let op := fieldAt bs 0 1
      if !ccOps.contains op then s1.ccFault g kEncoding 0 g
      else if leNat bs != word then s
      else match (fetch g t (c.pc + 4) payload.length).go s1 with
        | (.error (.fault cl k su d u), s') => s'.fetchStop g t (.fault cl k su d u)
        | (.error _, _) => s
        | (.ok pl, s2) =>
          if pl != payload then s
          else if !unusedOk then s2.ccFault g kEncoding 0 g
          else if regs.any fun r => (s.pendingScalars g).contains r.toNat then s
          else f s2 t { c with pc := (c.pc + 4 + payload.length) % 2 ^ 64 }

/-- Put the core back. -/
def State.ccPut (s : State) (g : Nat) (c : CoreSt) : State := s.setCore g c

/-! ### Shapes -/

/-- rd = f(ra, rb). -/
def State.ccBin (s : State) (g op : Nat) (r : RForm) (f : Word64 → Word64 → Word64) : State :=
  s.ccRun g (rWord op r) [] (r.rest == 0) [r.rd, r.ra, r.rb] fun s _ c =>
    s.setCore g (c.put r.rd (f (c.reg r.ra) (c.reg r.rb)))

/-- rd = f(ra, imm). -/
def State.ccImm (s : State) (g op : Nat) (i : IForm) (ok : Bool) (f : Word64 → BitVec 14 → Word64) : State :=
  s.ccRun g (iWord op i) [] ok [i.rd, i.ra] fun s _ c => s.setCore g (c.put i.rd (f (c.reg i.ra) i.imm))

def immVal (imm : BitVec 14) : Word64 := imm.signExtend 64

/-- Branch when f(ra, rb) holds: 4 × off from the branch itself. -/
def State.ccBranch (s : State) (g op : Nat) (b : BForm) (f : Word64 → Word64 → Bool) : State :=
  s.ccRun g (bWord op b) [] true [b.ra, b.rb] fun s _ c =>
    if f (c.reg b.ra) (c.reg b.rb) then
      s.setCore g { c with pc := wrap64 ((c.pc : Int) - 4 + 4 * sext 14 b.off.toNat) }
    else s.setCore g c

/-! ### Integer instructions -/

def ccShift (a b : Word64) (f : Word64 → Nat → Word64) : Word64 := f a (b.toNat % 64)

def execAdd (core : Fin 256) (f : RForm) (s : State) : Host.Outcome State Fault Refusal :=
  work s fun s => s.ccBin core.val 0x01 f fun a b => a + b
def execSub (core : Fin 256) (f : RForm) (s : State) : Host.Outcome State Fault Refusal :=
  work s fun s => s.ccBin core.val 0x02 f fun a b => a - b
def execMul (core : Fin 256) (f : RForm) (s : State) : Host.Outcome State Fault Refusal :=
  work s fun s => s.ccBin core.val 0x03 f fun a b => a * b
def execAndOp (core : Fin 256) (f : RForm) (s : State) : Host.Outcome State Fault Refusal :=
  work s fun s => s.ccBin core.val 0x04 f fun a b => a &&& b
def execOrOp (core : Fin 256) (f : RForm) (s : State) : Host.Outcome State Fault Refusal :=
  work s fun s => s.ccBin core.val 0x05 f fun a b => a ||| b
def execXor (core : Fin 256) (f : RForm) (s : State) : Host.Outcome State Fault Refusal :=
  work s fun s => s.ccBin core.val 0x06 f fun a b => a ^^^ b
def execShl (core : Fin 256) (f : RForm) (s : State) : Host.Outcome State Fault Refusal :=
  work s fun s => s.ccBin core.val 0x07 f fun a b => ccShift a b fun x n => x <<< n
def execShr (core : Fin 256) (f : RForm) (s : State) : Host.Outcome State Fault Refusal :=
  work s fun s => s.ccBin core.val 0x08 f fun a b => ccShift a b fun x n => x >>> n
def execSar (core : Fin 256) (f : RForm) (s : State) : Host.Outcome State Fault Refusal :=
  work s fun s => s.ccBin core.val 0x09 f fun a b => ccShift a b fun x n => x.sshiftRight n
def execSltu (core : Fin 256) (f : RForm) (s : State) : Host.Outcome State Fault Refusal :=
  work s fun s => s.ccBin core.val 0x0A f fun a b => if a.ult b then 1 else 0
def execSlt (core : Fin 256) (f : RForm) (s : State) : Host.Outcome State Fault Refusal :=
  work s fun s => s.ccBin core.val 0x0B f fun a b => if a.slt b then 1 else 0

def execAddi (core : Fin 256) (f : IForm) (s : State) : Host.Outcome State Fault Refusal :=
  work s fun s => s.ccImm core.val 0x10 f true fun a i => a + immVal i
def execAndi (core : Fin 256) (f : IForm) (s : State) : Host.Outcome State Fault Refusal :=
  work s fun s => s.ccImm core.val 0x11 f true fun a i => a &&& immVal i
def execOri (core : Fin 256) (f : IForm) (s : State) : Host.Outcome State Fault Refusal :=
  work s fun s => s.ccImm core.val 0x12 f true fun a i => a ||| immVal i

/-- imm[13:6] must be 0 in an immediate shift (06 R190). -/
def shiftOk (f : IForm) : Bool := decide (f.imm.toNat < 64)

def execShli (core : Fin 256) (f : IForm) (s : State) : Host.Outcome State Fault Refusal :=
  work s fun s => s.ccImm core.val 0x13 f (shiftOk f) fun a i => a <<< (i.toNat % 64)
def execShri (core : Fin 256) (f : IForm) (s : State) : Host.Outcome State Fault Refusal :=
  work s fun s => s.ccImm core.val 0x14 f (shiftOk f) fun a i => a >>> (i.toNat % 64)
def execSari (core : Fin 256) (f : IForm) (s : State) : Host.Outcome State Fault Refusal :=
  work s fun s => s.ccImm core.val 0x15 f (shiftOk f) fun a i => a.sshiftRight (i.toNat % 64)

/-- The bytes of a payload word (06 R189). -/
def wordBytes (w : BitVec 32) : List Byte := leBytes 4 w.toNat

/-- rd = the payload, zero-extended (06 R190). -/
def execLi (core : Fin 256) (f : PForm) (payload : BitVec 32) (s : State) : Host.Outcome State Fault Refusal :=
  work s fun s => s.ccRun core.val (pWord 0x18 f) (wordBytes payload) (f.rest == 0) [f.rd] fun s _ c =>
    s.setCore core.val (c.put f.rd (payload.setWidth 64))

/-- rd[63:32] = the payload; rd[31:0] kept (06 R190). -/
def execLih (core : Fin 256) (f : PForm) (payload : BitVec 32) (s : State) : Host.Outcome State Fault Refusal :=
  work s fun s => s.ccRun core.val (pWord 0x19 f) (wordBytes payload) (f.rest == 0) [f.rd] fun s _ c =>
    s.setCore core.val (c.put f.rd (payload ++ (c.reg f.rd).setWidth 32))

/-! ### Loads and stores -/

/-- Address of an operand-cache word, if aligned and within the cache (06 R190, R194). -/
def ocWordOk (a : Nat) : Bool := a % 8 == 0 && ocOk a 8

/-- rd = the 64-bit operand-cache word at ra + imm (06 R190). -/
def execLd (core : Fin 256) (f : IForm) (s : State) : Host.Outcome State Fault Refusal :=
  work s fun s => s.ccRun core.val (iWord 0x20 f) [] true [f.rd, f.ra] fun s t c =>
    let a := (c.reg f.ra + immVal f.imm).toNat
    if !ocWordOk a then s.ccFault core.val kBounds 0 a
    else s.reading core.val uCore t [(a, 8)] fun s =>
      s.setCore core.val (c.put f.rd (BitVec.ofNat 64 (leNat (s.ocRead core.val a 8))))

/-- The 64-bit operand-cache word at ra + imm = rd (06 R190). -/
def execSt (core : Fin 256) (f : IForm) (s : State) : Host.Outcome State Fault Refusal :=
  work s fun s => s.ccRun core.val (iWord 0x21 f) [] true [f.rd, f.ra] fun s _ c =>
    let a := (c.reg f.ra + immVal f.imm).toNat
    if !ocWordOk a then s.ccFault core.val kBounds 0 a
    else (s.setCore core.val c).ocWrite core.val a (leBytes 8 (c.reg f.rd).toNat)

/-- rd = a doubleword of the buffer record bound at index ra[7:0] (06 R190, R160). -/
def execLdd (core : Fin 256) (f : IForm) (s : State) : Host.Outcome State Fault Refusal :=
  work s fun s => s.ccRun core.val (iWord 0x22 f) [] (decide (f.imm.toNat < 8)) [f.rd, f.ra] fun s1 t c =>
    let d := (c.reg f.ra).toNat % 256
    if !(s1.bindIn t d) then s1.ccFault core.val kEncoding 0 core.val
    else match (bufferOf (dieUnit (coreDie core.val)) t d).go s1 with
      | (.ok (r, _), s2) => s2.setCore core.val (c.put f.rd (BitVec.ofNat 64 (fieldAt r (8 * f.imm.toNat) 8)))
      | (.error (.fault cl k su d u), s2) => s2.coreStop core.val uCore t (.fault cl k su d u)
      | (.error _, _) => s

/-! ### Branches and jumps -/

def execBeq (core : Fin 256) (f : BForm) (s : State) : Host.Outcome State Fault Refusal :=
  work s fun s => s.ccBranch core.val 0x28 f fun a b => a == b
def execBne (core : Fin 256) (f : BForm) (s : State) : Host.Outcome State Fault Refusal :=
  work s fun s => s.ccBranch core.val 0x29 f fun a b => a != b
def execBltu (core : Fin 256) (f : BForm) (s : State) : Host.Outcome State Fault Refusal :=
  work s fun s => s.ccBranch core.val 0x2A f fun a b => a.ult b
def execBgeu (core : Fin 256) (f : BForm) (s : State) : Host.Outcome State Fault Refusal :=
  work s fun s => s.ccBranch core.val 0x2B f fun a b => !(a.ult b)

/-- rd = PC + 4; PC += 4 × imm (06 R190). -/
def execJal (core : Fin 256) (f : IForm) (s : State) : Host.Outcome State Fault Refusal :=
  work s fun s => s.ccRun core.val (iWord 0x2C f) [] true [f.rd] fun s _ c =>
    s.setCore core.val { c.put f.rd (BitVec.ofNat 64 c.pc) with
      pc := wrap64 ((c.pc : Int) - 4 + 4 * sext 14 f.imm.toNat) }

/-- rd = PC + 4; PC = ra + imm, a multiple of 4 (06 R190, R194). -/
def execJr (core : Fin 256) (f : IForm) (s : State) : Host.Outcome State Fault Refusal :=
  work s fun s => s.ccRun core.val (iWord 0x2D f) [] true [f.rd, f.ra] fun s _ c =>
    let dest := (c.reg f.ra + immVal f.imm).toNat
    if dest % 4 != 0 then s.ccFault core.val kSequence 0 core.val
    else s.setCore core.val { c.put f.rd (BitVec.ofNat 64 c.pc) with pc := dest }

/-! ### Issue (06 R191) -/

/-- Issue an engine word; a full queue makes the instruction wait (03 R64). -/
def execMis (core : Fin 256) (f : PForm) (word : BitVec 128) (s : State) : Host.Outcome State Fault Refusal :=
  work s fun s => s.ccRun core.val (pWord 0x30 f) (leBytes 16 word.toNat) (f.rd == 0 && f.rest == 0) []
    fun s1 _ c =>
      let i := matIdx core.val (bits word.toNat 4 1)
      let m := s1.mat i
      if 8 ≤ m.waiting then s
      else (s1.setCore core.val c).setMat i { m with queue := m.queue ++ [{ w := word, seq := s1.nextIssue core.val }] }

/-- The scalar a field of a vector word names, or 0. -/
def CoreSt.capture (c : CoreSt) (f k : Nat) : Word64 :=
  if 0x80 ≤ f ∧ f < 0xA0 then c.s.toArray.getD (f - 0x80 + k) 0 else 0

/-- Issue a vector word with the scalars it names (04 R83, R86). -/
def execVis (core : Fin 256) (f : PForm) (word : BitVec 64) (s : State) : Host.Outcome State Fault Refusal :=
  work s fun s => s.ccRun core.val (pWord 0x31 f) (leBytes 8 word.toNat) (f.rd == 0 && f.rest == 0) []
    fun s1 _ c =>
      let w := word.toNat
      let v := s1.vec core.val
      let waits := (vecNames w).any fun r => (s1.pendingScalars core.val).contains r
      if decide (8 ≤ v.queue.length) || waits then s
      else
        let q : VWord := { w := word, sA := c.capture (bits w 20 8) 0, sA1 := c.capture (bits w 20 8) 1,
                           sB := c.capture (bits w 28 8) 0, sC := c.capture (bits w 36 8) 0,
                           sC1 := c.capture (bits w 36 8) 1 }
        (s1.setCore core.val c).setVec core.val { v with queue := v.queue ++ [q] }

/-- Issue the mover command at operand-cache address ra (06 R191). -/
def execMvc (core : Fin 256) (f : RForm) (s : State) : Host.Outcome State Fault Refusal :=
  work s fun s => s.ccRun core.val (rWord 0x32 f) [] (f.rd == 0 && f.rb == 0 && f.rest == 0) [f.ra]
    fun s1 t c =>
      let a := (c.reg f.ra).toNat
      if a % 64 != 0 || !ocOk a 64 then s1.ccFault core.val kBounds 0 a
      else if 8 ≤ c.cmds.length then s
      else s1.reading core.val uCore t [(a, 64)] fun s =>
        s.setCore core.val { c with cmds := c.cmds ++ [{ cmd := s.ocRead core.val a 64 }] }

/-! ### Fences (06 R192, R193) -/

/-- A companion request of the core's movers is outstanding (13 R362). -/
def State.moverReqs (s : State) (g : Nat) : Bool :=
  (upTo 2).any fun l => ((s.pl l).reqs.any fun r => r.owner = .mover g) || (s.pl l).tagWait.any fun r => r.owner = .mover g

/-- Everything issued to the units of a mask is complete: bit 0 MA, 1 MB, 2 VE, 3 movers. -/
def State.quiet (s : State) (g mask : Nat) : Bool :=
  (!bit mask 0 || (s.mat (matIdx g 0)).queue.isEmpty) && (!bit mask 1 || (s.mat (matIdx g 1)).queue.isEmpty)
    && (!bit mask 2 || ((s.vec g).queue.isEmpty && (s.vec g).run.isNone))
    && (!bit mask 3 || ((s.core g).cmds.isEmpty && !(s.moverReqs g)))

/-- A fence or an EXIT whose units are complete ends. -/
def State.fenceEnd (s : State) (g : Nat) : State :=
  match s.running g with
  | none => s
  | some t =>
    let c := s.core g
    match c.wait with
    | .fence mask => if s.quiet g mask then s.setCore g { c with wait := .none } else s
    | .exit => if s.quiet g 15 then s.endInst g t else s
    | _ => s

/-- Wait until everything issued to the selected units is complete (06 R192). -/
def execFence (core : Fin 256) (f : IForm) (s : State) : Host.Outcome State Fault Refusal :=
  work s fun s => s.ccRun core.val (iWord 0x33 f) [] (decide (f.imm.toNat < 16)) [] fun s _ c =>
    (s.setCore core.val { c with wait := .fence f.imm.toNat }).fenceEnd core.val

/-- The awaited units have completed: the instance continues, or ends (06 R192, R193). -/
def execFenceRelease (core : Fin 256) (s : State) : Host.Outcome State Fault Refusal :=
  work s fun s => s.fenceEnd core.val

/-! ### Semaphores (06 R180–R183) -/

/-- A semaphore instruction on semaphore ra[11:0] with v = rb[31:0]. -/
def State.ccSem (s : State) (g op : Nat) (f : RForm) (unusedOk : Bool)
    (k : State → Inst → CoreSt → Nat → Nat → State) : State :=
  s.ccRun g (rWord op f) [] (unusedOk && f.rest == 0) [f.rd, f.ra, f.rb] fun s t c =>
    let n := (c.reg f.ra).toNat % 4096
    let v := (c.reg f.rb).toNat % 2 ^ 32
    if v = 0 then s.ccFault g kEncoding 0 g
    else if !(s.semUsable n t.ctx) then s.ccFault g kEncoding n g
    else k s t c n v

/-- Queue a wait for count v; SEMAPHORE_GRANT grants it (06 R181, R182). -/
def execSemw (core : Fin 256) (f : RForm) (s : State) : Host.Outcome State Fault Refusal :=
  work s fun s => s.ccSem core.val 0x38 f (f.rd == 0) fun s t c n v =>
    (s.setCore core.val { c with wait := .sem n v }).setSemReqs n
      (s.semReqs n ++ [⟨.core t.ctx core.val, v⟩])

/-- Add v to the count; an overflow is refused and faults the context (06 R181, R183). -/
def execSems (core : Fin 256) (f : RForm) (s : State) : Host.Outcome State Fault Refusal :=
  work s fun s => s.ccSem core.val 0x39 f (f.rd == 0) fun s _ c n v =>
    match s.semSignal n v with
    | some s' => s'.setCore core.val c
    | none => s.ccFault core.val kOverflow 0 n

/-- Take v when nothing waits and the count allows; rd = 1 or 0 (06 R181). -/
def execSemt (core : Fin 256) (f : RForm) (s : State) : Host.Outcome State Fault Refusal :=
  work s fun s => s.ccSem core.val 0x3A f true fun s _ c n v =>
    match s.semTake n v with
    | some s' => s'.setCore core.val (c.put f.rd 1)
    | none => s.setCore core.val (c.put f.rd 0)

/-! ### Ends, reads of start values, W32 -/

/-- Wait for every unit, then end the instance (06 R193). -/
def execExitOp (core : Fin 256) (f : RForm) (s : State) : Host.Outcome State Fault Refusal :=
  work s fun s => s.ccRun core.val (rWord 0x3E f) [] (f.rd == 0 && f.ra == 0 && f.rb == 0 && f.rest == 0) []
    fun s _ c => (s.setCore core.val { c with wait := .exit }).fenceEnd core.val

/-- Fault the context with the immediate as DETAIL (06 R194). -/
def execTrap (core : Fin 256) (f : IForm) (s : State) : Host.Outcome State Fault Refusal :=
  work s fun s => s.ccRun core.val (iWord 0x3F f) [] true [] fun s _ _ =>
    s.ccFault core.val kTrap 0 (immVal f.imm).toNat

/-- Start value with an RDS number (06 R188). -/
def Inst.startValue (t : Inst) (n : Nat) : Option Nat :=
  [t.index, t.count, t.rank, t.size, t.args, t.shared, t.task, t.step, t.gtag][n]?

/-- rd = the start value with RDS number imm (06 R188, R190). -/
def execRds (core : Fin 256) (f : IForm) (s : State) : Host.Outcome State Fault Refusal :=
  work s fun s => s.ccRun core.val (iWord 0x40 f) [] true [f.rd] fun s t c =>
    match t.startValue f.imm.toNat with
    | some v => s.setCore core.val (c.put f.rd (BitVec.ofNat 64 v))
    | none => s.ccFault core.val kEncoding 0 core.val

/-- A W32 operand: bits [31:0] of a register (06 R187). -/
def w32Reg (v : Word64) : W32 := v.setWidth 32

def execFadd (core : Fin 256) (f : RForm) (s : State) : Host.Outcome State Fault Refusal :=
  work s fun s => s.ccBin core.val 0x48 f fun a b => (w32Add (w32Reg a) (w32Reg b)).setWidth 64
def execFmul (core : Fin 256) (f : RForm) (s : State) : Host.Outcome State Fault Refusal :=
  work s fun s => s.ccBin core.val 0x49 f fun a b => (w32Mul (w32Reg a) (w32Reg b)).setWidth 64
/-- ra × rb + rd with one rounding (06 R190). -/
def execFfma (core : Fin 256) (f : RForm) (s : State) : Host.Outcome State Fault Refusal :=
  work s fun s => s.ccRun core.val (rWord 0x4A f) [] (f.rest == 0) [f.rd, f.ra, f.rb] fun s _ c =>
    s.setCore core.val (c.put f.rd
      ((w32Fma (w32Reg (c.reg f.ra)) (w32Reg (c.reg f.rb)) (w32Reg (c.reg f.rd))).setWidth 64))
def execFlt (core : Fin 256) (f : RForm) (s : State) : Host.Outcome State Fault Refusal :=
  work s fun s => s.ccBin core.val 0x4B f fun a b => if w32Lt (w32Reg a) (w32Reg b) then 1 else 0

end Sys2Proof.Machine
end

