-- ==== Sys2Proof/Machine/Movers.lean ====
section
/-! DEFINITION. The data movers: checks of a command, its accesses to the three spaces, and COPY, PACK,
FILL, CMFLUSH and CMINV (05 R117, R118, R135–R140; 13 R362). -/
namespace Sys2Proof.Machine

/-! ### Fields of a command (05 R135) -/

structure MvCmd where
  mop : Nat
  ssp : Nat
  dsp : Nat
  sfmt : Fmt
  conv : Bool
  na : Bool
  tr : Bool
  rsv1 : Nat
  cvc : Nat
  dsrc : Nat
  ddst : Nat
  tslot : Nat
  rsv7 : Nat
  saddr : Nat
  daddr : Nat
  sscale : Nat
  dscale : Nat
  rowlen : Nat
  rows : Nat
  sstride : Nat
  dstride : Nat

def mvDecode (b : List Byte) : MvCmd where
  mop := fieldAt b 0 1 % 16
  ssp := bits (fieldAt b 0 1) 4 2
  dsp := bits (fieldAt b 0 1) 6 2
  sfmt := c2fmt (fieldAt b 1 1 % 4)
  conv := bit (fieldAt b 1 1) 2
  na := bit (fieldAt b 1 1) 3
  tr := bit (fieldAt b 1 1) 4
  rsv1 := bits (fieldAt b 1 1) 5 3
  cvc := fieldAt b 2 1
  dsrc := fieldAt b 3 1
  ddst := fieldAt b 4 1
  tslot := fieldAt b 5 2
  rsv7 := fieldAt b 7 1
  saddr := fieldAt b 8 8
  daddr := fieldAt b 16 8
  sscale := fieldAt b 24 8
  dscale := fieldAt b 32 8
  rowlen := fieldAt b 40 4
  rows := fieldAt b 44 4
  sstride := fieldAt b 48 8
  dstride := fieldAt b 56 8

/-- The conversion of the destination side: the command's, or the source format copied. -/
def MvCmd.dconv (c : MvCmd) : Option Cvc :=
  if c.conv then cvcDecode c.cvc else if c.cvc = 0 then some ⟨c.sfmt, false, false, true⟩ else none

/-- A breach of R135 to R137 (05 R139). -/
def MvCmd.illegal (c : MvCmd) (d : Cvc) : Bool :=
  let ks := c.mop != 3 && c.sfmt.scaled
  let kd := d.fmt.scaled
  c.ssp == 3 || c.dsp == 3 || c.rsv1 != 0 || c.rsv7 != 0 || decide (4096 ≤ c.tslot) || c.rowlen == 0
    || c.rows == 0 || (c.tr && (c.mop != 2 || c.sfmt.scaled))
    || ((ks || kd) && c.rowlen % 16 != 0) || (ks && c.sstride % 64 != 0)
    || (kd && c.mop != 2 && c.dstride % 64 != 0)
    || (c.mop == 3 && (c.conv || c.ssp != 0 || c.dsrc != 0 || c.ddst != 0 || c.tslot != 0
      || c.sscale != 0 || c.dscale != 0 || c.sstride != 0 || decide (2 ^ 32 ≤ c.saddr)))
    || (c.mop == 2 && (c.dsp != 2 || decide (64 < c.rows) || c.daddr % 64 != 0
      || (d.fmt.scaled && c.dscale % 64 != 0)))

/-! ### The three spaces -/

/-- The core and instance a mover works for, and its NA bit. -/
structure MvCx where
  g : Nat
  t : Inst
  na : Bool

/-- Cache ways serve the access (05 R117). -/
def MvCx.cached (c : MvCx) (s : State) : Bool :=
  !c.na && !(s.ownWays (coreCluster c.g) c.t.ctx true).isEmpty

def MvCx.unit (c : MvCx) : Nat := coreCluster c.g

/-- Read bytes of a space: 0 CVA, 1 CM, 2 OC (05 R135). -/
def mvRead (c : MvCx) (sp a n : Nat) : M (List Byte) := do
  if sp = 2 then ocRead c.g a n
  else if sp = 1 then cmRead c.t.ctx (coreDie c.g) a n
  else
    let parts ← (pageList a n).mapM fun p => do
      match ← translate c.unit c.t.ctx p.1 false with
      | .hbm set off =>
        if c.cached (← getS) then cacheRead c.unit c.t.ctx set off p.2
        else hbmRead (some c.t.ctx) set off p.2
      | .comp addr =>
        let s ← getS
        match s.routeLink (coreDie c.g) addr with
        | none => throw .linkDown
        | some l =>
          domainCheck (some c.t.ctx) (2 * l) 14
          return readBytes 0 s.mem.comp addr p.2
    return parts.flatten

def mvWrite (c : MvCx) (sp a : Nat) (bs : List Byte) : M Unit := do
  if sp = 2 then ocWrite c.g a bs
  else if sp = 1 then cmWrite c.t.ctx (coreDie c.g) a bs
  else
    (pageList a bs.length).forM fun p => do
      let part := (bs.drop (p.1 - a)).take p.2
      match ← translate c.unit c.t.ctx p.1 true with
      | .hbm set off =>
        if c.cached (← getS) then cacheWrite c.unit c.t.ctx set off part
        else hbmWrite (some c.t.ctx) set off part
      | .comp addr => compPut (coreDie c.g) (.mover c.g) addr part

/-- Byte of element `k` from its row's start (02 R35). -/
def elemOff (f : Fmt) (k : Nat) : Nat := k * f.bits / 8
/-- Scale bytes of row `r` from the side's scale address (05 R136). -/
def scaleRow (f : Fmt) (stride r : Nat) : Nat := if f = .kq4 then r * stride / 8 else r * stride / 16

/-- Source ranges of COPY and PACK. -/
def MvCmd.ranges (c : MvCmd) : List (Nat × Nat) :=
  if c.tr then (upTo c.rowlen).map fun k => (c.saddr + k * c.sstride, c.rows * (c.sfmt.bits / 8))
  else (upTo c.rows).flatMap fun r =>
    (c.saddr + r * c.sstride, c.sfmt.bytes c.rowlen) ::
      (if c.sfmt.scaled then [(c.sscale + scaleRow c.sfmt c.sstride r, c.rowlen / 16)] else [])

/-- Companion lines that ranges read, as far as they translate. -/
def State.compLines (s : State) (c : MvCx) (rs : List (Nat × Nat)) : List Nat :=
  (rs.flatMap fun r => (pageList r.1 r.2).flatMap fun p =>
    match (translate c.unit c.t.ctx p.1 false).go s with
    | (.ok (.comp a), _) => (lines64 a p.2).map fun l => l.1 / 64 * 64
    | _ => []).eraseDups

/-- Ask for the lines of companion memory that the command reads and does not have: each goes out as
RdCur on its link, or waits there for a tag (13 R357, R360, R362). -/
def State.askLines (s : State) (g : Nat) (ls : List Nat) : State :=
  ls.foldl (fun s a =>
    if s.puell.inHand.contains (g, a) then s else
    match s.routeLink (coreDie g) a with
    | none => s
    | some l =>
      let k := s.pl l
      if (k.reqs.any fun r => r.opc = rqCur ∧ r.addr = a ∧ r.owner = .mover g)
        || k.tagWait.any fun r => r.opc = rqCur ∧ r.addr = a ∧ r.owner = .mover g
      then s else s.plRequest l rqCur a (.mover g) [] []) s

/-! ### Streams -/

/-- What a stopped access leaves: one that waits, nothing; one that faults, its counters and records. -/
def Stop.left (e : Stop) (s s' : State) : State :=
  match e with
  | .wait => s
  | .touch _ _ => s
  | _ => { s' with mem := s.mem, puell := s.puell, out := s.out }

/-- The pieces a command has not made yet, one after the other: a piece that stops has no effect on any memory,
and what earlier pieces wrote stays (05 R138). -/
def runPieces : List (M Census) → MvWork → State → Option Stop × MvWork × State
  | [], w, s => (none, w, s)
  | m :: r, w, s =>
    match m.go s with
    | (.ok e, s') => runPieces r { w with made := w.made + 1, census := w.census.add e } s'
    | (.error e, s') => (some e, w, e.left s s')

/-- Pieces of a row of at most 1,024 elements: first element and number. -/
def rowPieces (n : Nat) : List (Nat × Nat) :=
  (upTo ((n + 1023) / 1024)).map fun i => (1024 * i, Nat.min 1024 (n - 1024 * i))

/-- What a stream needs beside its command: conversion, coarse scales, whether the source scale is bad,
STEP. -/
structure MvStream where
  cvc : Cvc
  cs : W32
  cd : W32
  step : Nat

/-- Source and destination have the same format and the same scales: codes are copied and no census is taken (02
R51). `fine` is the source block's scale, `given` the destination's. -/
def MvCmd.same (c : MvCmd) (p : MvStream) (fine given : Nat) : Bool :=
  c.sfmt == p.cvc.fmt
    && (!c.sfmt.scaled || (p.cvc.given && fine == given && p.cs == p.cd && coarseOk p.cs))

/-- Convert one block of source codes at row position `k0` of row `r`: codes, a derived fine scale, census. -/
def MvCmd.block (c : MvCmd) (p : MvStream) (r k0 : Nat) (given fine : Nat) (codes : List Nat) :
    List Nat × Option Nat × Census :=
  if c.same p fine given then (codes, none, {})
  else
    let us := (upTo codes.length).map fun i => draw (BitVec.ofNat 64 p.step) c.tslot (r * c.rowlen + k0 + i)
    convBlock p.cvc p.cd (c.sfmt.scaled && !(coarseOk p.cs)) given (codes.map fun e => srcElem c.sfmt e fine p.cs) us

/-- Copy or convert elements `k0` to `k0 + n − 1` of row `r` (05 R136). -/
def mvPiece (x : MvCx) (c : MvCmd) (p : MvStream) (r k0 n : Nat) : M Census := do
  let f := c.sfmt
  let raw ← mvRead x c.ssp (c.saddr + r * c.sstride + elemOff f k0) (f.bytes n)
  let fines ← if f.scaled then mvRead x c.ssp (c.sscale + scaleRow f c.sstride r + k0 / 16) (n / 16) else pure []
  let d := p.cvc.fmt
  let da := c.daddr + r * c.dstride + elemOff d k0
  let dsa := c.dscale + scaleRow d c.dstride r + k0 / 16
  if !c.conv then
    mvWrite x c.dsp da raw
    if f.scaled then mvWrite x c.dsp dsa fines
    return {}
  let given ← if d.scaled && p.cvc.given then mvRead x c.dsp dsa (n / 16) else pure []
  let codes := unpackCodes f n raw
  let bl := ((blocksOf 16 codes).zip (upTo (n / 16 + 1))).map fun q =>
    c.block p r (k0 + 16 * q.2) (given.getD q.2 0).toNat (fines.getD q.2 0).toNat q.1
  mvWrite x c.dsp da (packCodes d (bl.flatMap (·.1)))
  if d.scaled && !p.cvc.given then
    mvWrite x c.dsp dsa (bl.map fun q => BitVec.ofNat 8 (q.2.1.getD 0))
  return bl.foldl (fun k q => k.add q.2.2) {}

def MvCmd.copyPieces (x : MvCx) (c : MvCmd) (p : MvStream) : List (M Census) :=
  (upTo c.rows).flatMap fun r => (rowPieces c.rowlen).map fun q => mvPiece x c p r q.1 q.2

/-- Source codes of row `r`, elements from `k0`, and the block's fine scale (05 R137). -/
def mvRow (x : MvCx) (c : MvCmd) (r k0 n : Nat) : M (List Nat × Nat) := do
  let f := c.sfmt
  if c.tr then
    let w := f.bits / 8
    let es ← (upTo n).mapM fun j => mvRead x c.ssp (c.saddr + (k0 + j) * c.sstride + r * w) w
    return (es.map leNat, 0)
  let raw ← mvRead x c.ssp (c.saddr + r * c.sstride + elemOff f k0) (f.bytes n)
  let fine ← if f.scaled then mvRead x c.ssp (c.sscale + scaleRow f c.sstride r + k0 / 16) 1 else pure [0]
  return (unpackCodes f n raw, leNat fine)

/-- Write panel `q` (05 R137, 03 R56). -/
def mvPanel (x : MvCx) (c : MvCmd) (p : MvStream) (q : Nat) : M Census := do
  let d := p.cvc.fmt
  let k0 := 16 * q
  let n := Nat.min 16 (c.rowlen - k0)
  let sa := c.dscale + 64 * q
  let given ← if d.scaled && c.conv && p.cvc.given then mvRead x 2 sa 64 else pure []
  let rows ← (upTo c.rows).mapM fun r => do
    let (codes, fine) ← mvRow x c r k0 n
    if !c.conv then return (codes, fine, ({} : Census))
    let b := c.block p r k0 (given.getD r 0).toNat fine codes
    return (b.1, b.2.1.getD (given.getD r 0).toNat, b.2.2)
  let elems := rows.flatMap fun e => packCodes d (e.1 ++ List.replicate (16 - n) 0)
  mvWrite x 2 (c.daddr + q * panelBytes d) (padTo (panelBytes d) elems)
  if d.scaled then mvWrite x 2 sa (padTo 64 (rows.map fun e => BitVec.ofNat 8 e.2.1))
  return rows.foldl (fun k e => k.add e.2.2) {}

def MvCmd.packPieces (x : MvCx) (c : MvCmd) (p : MvStream) : List (M Census) :=
  (upTo ((c.rowlen + 15) / 16)).map (mvPanel x c p)

/-- Bytes of a FILL row from byte `o` on. -/
def fillBytes (pat o n : Nat) : List Byte :=
  (upTo n).map fun i => BitVec.ofNat 8 (pat / 256 ^ ((o + i) % 4))

def MvCmd.fillPieces (x : MvCx) (c : MvCmd) : List (M Census) :=
  let nb := c.sfmt.bytes c.rowlen
  (upTo c.rows).flatMap fun r => (upTo ((nb + 4095) / 4096)).map fun i => do
    mvWrite x c.dsp (c.daddr + r * c.dstride + 4096 * i)
      (fillBytes c.saddr (4096 * i) (Nat.min 4096 (nb - 4096 * i)))
    return {}

/-- Lines of the context's cache in the cluster that a range of a set touches are written back, or
dropped (05 R136, R118). -/
def cacheOp (x : MvCx) (drop : Bool) (set off n : Nat) : M Unit := do
  let hit (l : CLine) : Bool := l.cluster == x.unit && l.ctx == x.t.ctx && l.set == set
    && decide (off / 128 ≤ l.line) && decide (l.line ≤ (off + n - 1) / 128)
  if drop then
    setS fun s => { s with mem.lines := s.mem.lines.filter fun l => !hit l }
  else
    ((← getS).mem.lines.filter hit).forM fun l => do
      writeback l
      setS fun s => { s with mem.lines := s.mem.lines.map fun k => if k = l then { k with dirty := 0 } else k }

def MvCmd.cachePieces (x : MvCx) (c : MvCmd) (d : Fmt) (drop : Bool) : List (M Census) :=
  let nb := d.bytes c.rowlen
  (upTo c.rows).flatMap fun r => (upTo ((nb + 4095) / 4096)).map fun i => do
    (pageList (c.daddr + r * c.dstride + 4096 * i) (Nat.min 4096 (nb - 4096 * i))).forM fun p => do
      match ← translate x.unit x.t.ctx p.1 false with
      | .hbm set off => cacheOp x drop set off p.2
      | .comp _ => pure ()
    return {}

/-! ### Running a command (05 R138, R139) -/

/-- Remove command `i` of a core. -/
def State.mvDone (s : State) (g i : Nat) : State :=
  let c := s.core g
  s.setCore g { c with cmds := ldrop c.cmds i }

/-- A stop of a mover: a fault tears the context down; a command that must wait stays, with what it has made.
Both links down fault the context (13 R367; log entry 26). -/
def State.mvStop (s : State) (g i : Nat) (t : Inst) (w : MvWork) (e : Stop) : State :=
  let keep := s.setCore g { s.core g with cmds := lmod (s.core g).cmds i fun _ => w }
  match e with
  | .fault cl k su d u => s.coreStop g uMover t (.fault cl k su d u)
  | .linkDown => s.coreStop g uMover t (.fault clsContext kTimeout 0 14 none)
  | .touch y k => keep.touch y k
  | .wait => keep

/-- The descriptor indices a converting command uses (06 R156). -/
def MvCmd.bindBad (c : MvCmd) (s : State) (t : Inst) (d : Cvc) : Bool :=
  c.conv && ((c.sfmt.scaled && !(s.bindIn t c.dsrc)) || (d.fmt.scaled && !(s.bindIn t c.ddst))
    || !(s.slotOk c.tslot t.ctx))

/-- The coarse scales and the STEP of a command's stream, read when it begins (02 R36). -/
def State.mvBegin (s : State) (g : Nat) (t : Inst) (c : MvCmd) (d : Cvc) (w : MvWork) : Except Stop (List W32 × Nat) × State :=
  match w.stream with
  | some p => (.ok p, s)
  | none =>
    match (coarseUse g uMover t [(c.conv && c.sfmt.scaled, c.dsrc), (c.conv && d.fmt.scaled, c.ddst)]).go s with
    | (.ok cs, s') => (.ok (cs, s.stepNo t.ctx), if c.conv then s'.carry t.ctx (s.stepNo t.ctx) else s')
    | (.error e, s') => (.error e, s')

/-- The pieces of a command (05 R136, R137). -/
def MvCmd.pieces (c : MvCmd) (x : MvCx) (p : MvStream) : List (M Census) :=
  if c.mop = 1 then c.copyPieces x p else if c.mop = 2 then c.packPieces x p
  else if c.mop = 3 then c.fillPieces x else c.cachePieces x p.cvc.fmt (c.mop == 5)

/-- Bytes of one of the command's pieces. -/
def MvCmd.pieceBytes (c : MvCmd) (d : Cvc) : Nat :=
  if c.mop = 2 then panelBytes d.fmt else if c.mop = 1 then d.fmt.bytes (Nat.min 1024 c.rowlen)
  else Nat.min 4096 (d.fmt.bytes c.rowlen)

/-- Pieces that make one 4 KiB chunk, a mover's work unit (05 R138; log entry 56). -/
def MvCmd.chunk (c : MvCmd) (d : Cvc) : Nat := Nat.max 1 (4096 / Nat.max 1 (c.pieceBytes d))

/-- The stream makes a report: it converts, and not every element is a copy of the same format (02 R51). -/
def MvCmd.reports (c : MvCmd) (d : Cvc) : Bool := c.conv && (c.sfmt != d.fmt || c.sfmt.scaled)

/-- Run the next chunk of command `i` of core `g` when it is the one commanded; a reserved operation is met by
whichever command comes. -/
def State.mover (s : State) (g i mop : Nat) : State :=
  match s.running g with
  | none => s
  | some t =>
    match (s.core g).cmds[i]? with
    | none => s
    | some w =>
      let c := mvDecode w.cmd
      if c.mop = 0 ∨ 5 < c.mop then s.coreFault g uMover kEncoding 0 g
      else if c.mop != mop then s
      else match c.dconv with
        | none => s.coreFault g uMover kEncoding 0 g
        | some d =>
          if c.illegal d || c.bindBad s t d then s.coreFault g uMover kEncoding 0 g
          else if c.conv && s.suppressed t.ctx then s.mvDone g i
          else
            let x : MvCx := { g := g, t := t, na := c.na }
            let need := if c.ssp = 0 ∧ c.mop ≤ 2 then s.compLines x c.ranges else []
            let miss := need.filter fun a => !(s.puell.inHand.contains (g, a)) && (s.routeLink (coreDie g) a).isSome
            if !miss.isEmpty then s.askLines g miss
            else match s.mvBegin g t c d w with
              | (.error e, s') => (e.left s s').mvStop g i t w e
              | (.ok q, s') =>
                let p : MvStream := { cvc := d, cs := q.1.getD 0 0, cd := q.1.getD 1 0, step := q.2 }
                match runPieces (((c.pieces x p).drop w.made).take (c.chunk d)) { w with stream := some q } s' with
                | (some e, w', s'') => s''.mvStop g i t w' e
                | (none, w', s) =>
                  if w'.made < (c.pieces x p).length then s.mvStop g i t w' .wait
                  else
                    let s : State := { s.mvDone g i with
                      puell.inHand := s.puell.inHand.filter fun h => !(h.1 == g && need.contains h.2) }
                    if c.reports d then s.report t.ctx c.tslot p.step w'.census else s

/-- COPY moves or converts rows between spaces (05 R136). -/
def execCopy (core : Fin 256) (_mover : Fin 2) (index : Fin 8) (s : State) : Host.Outcome State Fault Refusal :=
  work s fun s => s.mover core.val index.val 1
/-- PACK writes operand panels (05 R137). -/
def execPack (core : Fin 256) (_mover : Fin 2) (index : Fin 8) (s : State) : Host.Outcome State Fault Refusal :=
  work s fun s => s.mover core.val index.val 2
/-- FILL writes rows with a repeated pattern (05 R136). -/
def execFill (core : Fin 256) (_mover : Fin 2) (index : Fin 8) (s : State) : Host.Outcome State Fault Refusal :=
  work s fun s => s.mover core.val index.val 3
/-- CMFLUSH writes back dirty bytes of a range and keeps the lines (05 R136). -/
def execCmflush (core : Fin 256) (_mover : Fin 2) (index : Fin 8) (s : State) : Host.Outcome State Fault Refusal :=
  work s fun s => s.mover core.val index.val 4
/-- CMINV discards the lines of a range (05 R136). -/
def execCminv (core : Fin 256) (_mover : Fin 2) (index : Fin 8) (s : State) : Host.Outcome State Fault Refusal :=
  work s fun s => s.mover core.val index.val 5

end Sys2Proof.Machine
end

