-- ==== Sys2Proof/Machine/Dies.lean ====
section
/-! DEFINITION. Die-to-die links, crossings, the watch, and a die stack that leaves and returns to service
(14 R376–R397). -/
namespace Sys2Proof.Machine

def State.dport (s : State) (d k : Nat) : D2dPort := tget {} s.dies.port (2 * d + k)
def State.setDport (s : State) (d k : Nat) (v : D2dPort) : State :=
  { s with dies.port := tput {} s.dies.port (2 * d + k) v }

/-! ### Flits, lanes and groups (14 R377–R380) -/

/-- The first group in service from `g` on, round the 24, that is in service or still holds flits. -/
def State.rxTurn (s : State) (d k : Nat) : Nat → Nat → Nat
  | 0, g => g
  | f + 1, g =>
    if s.bitF (F.d2dStatusRxgrp d k) g || !(tget [] (s.dport d k).held g).isEmpty then g
    else s.rxTurn d k f ((g + 1) % 24)

/-- Flits in turn leave the buffer, each returning its credit to the sender. -/
def State.rxDeliver (s : State) (d k : Nat) : Nat → State
  | 0 => s
  | f + 1 =>
    let g := s.rxTurn d k 24 (s.dport d k).next
    let v := s.dport d k
    match tget [] v.held g with
    | [] => s.setDport d k { v with next := g }
    | x :: r =>
      let s := s.setDport d k { v with next := (g + 1) % 24, held := tput [] v.held g r }
      ((s.incF (F.d2dCrReturn (neighbour d k) (1 - k)) 1).emit (.d2dFlit d k x)).rxDeliver d k f

/-- Number of a link, that of the stack whose CW port it leaves, and a direction, 0 clockwise, received at
port `k` of stack `d`; with group and lane as the record's DETAIL (19 R485; log entry 34). -/
def laneDetail (d k g lane : Nat) : Nat :=
  (if k = 1 then ccwOf d else d) + 256 * (1 - k) + 65536 * g + 16777216 * lane

/-- A failing lane: the spare takes its place, or its group is retired; the last group of a direction
breaks the ring. -/
def State.laneFails (s : State) (d k g lane : Nat) : State :=
  let v := s.dport d k
  let s := s.setDport d k { v with charges := tput [] v.charges (64 * g + lane) [] }
  let n := neighbour d k
  if tget 0 v.spared g = 0 && lane != 32 then
    let v := s.dport d k
    let s := s.setDport d k { v with spared := tput 0 v.spared g (lane + 1) }
    let s := (s.setBitF (F.d2dSpareRxspared d k) g true).setBitF (F.d2dSpareTxspared n (1 - k)) g true
    (s.incF (F.d2dRepairs d k) 1).record clsCorrected d uD2d kRepair 0 none none (laneDetail d k g lane)
  else
    let s := (s.setBitF (F.d2dStatusRxgrp d k) g false).setBitF (F.d2dStatusTxgrp n (1 - k)) g false
    let s := (s.incF (F.d2dRetires d k) 1).record clsCorrected d uD2d kRepair 0 none none (laneDetail d k g lane)
    if s.getF (F.d2dStatusRxgrp d k) != 0 then s
    else s.fatalError d uD2d kRepair 0 (laneDetail d k g lane) none

/-- A lane is charged one error; LANETH of them within a second mark it failing. -/
def State.chargeLane (s : State) (d k g lane : Nat) : State :=
  if !(s.bitF (F.d2dStatusRxgrp d k) g) then s else
  let v := s.dport d k
  let now := s.getF (F.watchNs d)
  let l := (tget [] v.charges (64 * g + lane)).filter (fun t => decide (now < t + 1000000000)) ++ [now]
  let s := s.setDport d k { v with charges := tput [] v.charges (64 * g + lane) l }
  if s.getF (F.d2dCfgLaneth d k) ≤ l.length then s.laneFails d k g lane else s

/-- A flit arrives: it is refused on a bad CRC; else it is taken in turn. A good flit of a group with a
refused flit outstanding is its replay, and the lanes in which the two copies differ are charged. -/
def execD2dFlitReceive (die : Fin 4) (port : Fin 2) (group : Fin 24) (crcOk : Bool) (badLanes : List (Fin 33))
    (flit : BitVec 512) (s : State) : Host.Outcome State Fault Refusal :=
  work s fun s =>
    let d := die.val
    let k := port.val
    let g := group.val
    if !(s.flag (F.d2dStatusUp d k)) || !(s.bitF (F.d2dStatusRxgrp d k) g) then s else
    let v := s.dport d k
    let again := tget false v.gap g
    let s := if again then s else s.incF (F.d2dCrIssue (neighbour d k) (1 - k)) 1
    if !crcOk then
      ((s.setDport d k { v with gap := tput false v.gap g true }).incF (F.d2dCrcerr d k) 1).emit (.d2dRefuse d k g)
    else
      let s := s.setDport d k { v with gap := tput false v.gap g false,
                                       held := tput [] v.held g (tget [] v.held g ++ [flit]) }
      let s := s.rxDeliver d k (24 * 2048)
      if again then badLanes.foldl (fun s i => s.chargeLane d k g i.val) s else s

/-- A refusal arrives: the sender replays the group from the refused flit. -/
def execD2dFlitRefused (die : Fin 4) (port : Fin 2) (group : Fin 24) (seq : Nat) (s : State) :
    Host.Outcome State Fault Refusal :=
  work s fun s =>
    let d := die.val
    let k := port.val
    if !(s.flag (F.d2dStatusUp d k)) || !(s.bitF (F.d2dStatusTxgrp d k) group.val) then s
    else (s.incF (F.d2dReplay d k) 1).emit (.d2dReplay d k group.val seq)

/-! ### Crossings (14 R383–R387) -/

def State.setXing (s : State) (k : Nat) (v : Xing) : State := { s with dies.xing := tput {} s.dies.xing k v }

/-- The domain exists on the stack: Puell on P0 and P2, flash and SMBus on P0 (14 R381). -/
def hasDomain (d : Nat) : Domain → Bool
  | .puell => d % 2 == 0
  | .spi => d == 0
  | .smbus => d == 0
  | _ => true

/-- The domain's clock comes from a PLL of the stack (14 R381). -/
def needsLock : Domain → Bool
  | .hbm _ => true
  | .mac _ => true
  | .d2d _ => true
  | .puell => true
  | _ => false

/-- The clock of a domain runs (14 R381, R389). -/
def State.domRuns (s : State) (d : Nat) (dom : Domain) : Bool :=
  if dom = .watch then !(s.flag (F.dieStatusWstop d)) else !(needsLock dom) || s.flag (F.dieStatusLock d)

/-- A turn of a handshake (14 R383): a receiver that sees REQ change emits one pulse and inverts ACK; with none
outstanding a pending event inverts REQ. -/
def Xing.turn (x : Xing) (runs : Bool) : Xing :=
  if x.req != x.ack then (if runs then { x with ack := x.req, pulses := x.pulses + 1 } else x)
  else if x.pending then { x with req := !x.req, pending := false }
  else x

/-- An event sets the pending bit, where it merges with one that stands there, and handshakes go on as far as the
receiver answers. -/
def Xing.event (x : Xing) (runs : Bool) : Xing :=
  ((({ x with pending := true } : Xing).turn runs).turn runs |>.turn runs).turn runs

/-- An event on an event crossing; a dead crossing drops it. -/
def execCrossingEvent (die : Fin 4) (dom : Domain) (crossing : Fin 8) (s : State) :
    Host.Outcome State Fault Refusal :=
  act s fun s =>
    let k := xingKey die.val dom crossing.val
    let x := s.xing k
    if !(hasDomain die.val dom) || x.inReset then s
    else if x.dead then s.incF (F.xdrop die.val) 1
    else s.setXing k (x.event (s.domRuns die.val dom))

/-- One round trip of a value crossing: the value is delivered, once the domain's clock runs; a dead crossing drops
it. -/
def execCrossingValue (die : Fin 4) (dom : Domain) (crossing : Fin 8) (value : Word64) (s : State) :
    Host.Outcome State Fault Refusal :=
  act s fun s =>
    let k := xingKey die.val dom crossing.val
    let x := s.xing k
    if !(hasDomain die.val dom) || x.inReset then s
    else if x.dead then s.incF (F.xdrop die.val) 1
    else if s.domRuns die.val dom then s.setXing k { x with value := value, req := !x.req, ack := !x.ack }
    else s

/-- Units whose requests wait on a dead crossing get DOMAINDOWN: a mover faults its context, the Smithy
redoes its chunk, RMT halts the connections of the port (log entry 26). -/
def State.domainDown (s : State) (d : Nat) : Domain → State
  | .mac p =>
    (s.rmt.slot.filter fun e => slotDie e.1 = d ∧ e.2.conn.port = p.val ∧
      (e.2.st = .opening ∨ e.2.st = .opened ∨ e.2.st = .closing)).foldl
      (fun s e => s.haltFull e.1 haltDomain) s
  | .puell =>
    let l := d / 2
    let k := s.pl l
    let xs := ((k.reqs.map (·.owner) ++ k.tagWait.map (·.owner)).filterMap fun o => match o with
      | .mover g => (s.core g).inst.map (·.ctx)
      | _ => none).eraseDups
    let s := s.setPl l { k with reqs := [], tagWait := [] }
    let s := k.unitCtxs.foldl (fun s x => s.lostChunks x) s
    xs.foldl (fun s x => s.ctxFault x d uMover kTimeout 0 14) s
  | _ => s

/-- No ACK within XTO: the crossing is dead, its handshake still open (14 R386). -/
def execCrossingDead (die : Fin 4) (dom : Domain) (crossing : Fin 8) (s : State) :
    Host.Outcome State Fault Refusal :=
  work s fun s =>
    let d := die.val
    let k := xingKey d dom crossing.val
    let x := s.xing k
    if !(hasDomain d dom) || x.dead || x.inReset then s
    else
      let s := (s.setXing k { x with dead := true, req := !x.ack }).incF (F.xtimeout d) 1
      (s.record clsDie d uDie kTimeout crossing.val none none (domNum dom)).domainDown d dom

/-- A domain and its crossings are drained, cleared and, once its clocks are locked, released. -/
def State.domainReset (s : State) (d : Nat) (dom : Domain) : State :=
  s.xingReset d (domNum dom) (needsLock dom && !(s.flag (F.dieStatusLock d)))

def execDomainReset (die : Fin 4) (dom : Domain) (s : State) : Host.Outcome State Fault Refusal :=
  act s fun s => if hasDomain die.val dom then s.domainReset die.val dom else s

/-! ### A stack leaves service (14 R391–R393) -/

def causeCommand : Nat := 1
def causeClock : Nat := 2

/-- Fields of a stack's block that its reset leaves: identity, the last cause, and the groups and spares that
hold until the next boot. -/
def keptFields (d : Nat) : List Fld :=
  [F.dieIdPos d, F.dieIdRot d, F.dieIdMirror d, F.dieIdDisc d, F.dieStatusLastcause d]
    ++ (upTo 2).flatMap (fun k => [F.d2dStatusTxgrp d k, F.d2dStatusRxgrp d k, F.d2dStatusPeer d k,
      F.d2dSpareTxspared d k, F.d2dSpareRxspared d k])
    ++ (upTo 4).map fun j => F.hbmStatusDisabled (4 * d + j)

/-- Registers of an offset range back at reset. -/
def State.clearRegs (s : State) (lo n : Nat) : State :=
  { s with regs.fields := tclear s.regs.fields (64 * lo) (64 * n),
           regs.shadow := tclear s.regs.shadow (64 * lo) (64 * n) }

/-- Erroneous words of the SRAMs of the other stacks (05 R113). -/
def sramLost (t : Tbl Bool) (d : Nat) : Tbl Bool :=
  let t := tclear t (ocKey (64 * d) 0 / 8) (64 * ocSize / 8)
  let t := tclear t ((cmWord + wayBase (8 * d) 0) / 8) (128 * 1572864 / 8)
  tclear t (portWord (8 * d) / 8) 8

/-- Everything held in a stack but its HBM is lost; its registers are at reset, and a port whose link was up sends
a Bell (20 R505, 13 R370). -/
def State.clearDie (s : State) (d : Nat) : State :=
  let kept := (keptFields d).map fun f => (f, s.getF f)
  let up := (upTo 8).filter fun i => s.flag (F.portStatusLinkup (8 * d + i))
  let s := up.foldl (fun s i => s.bell bellPort (8 * d + i) 0 0) s
  let s := s.clearRegs (dieOff d) 0x1000000
  let s := kept.foldl (fun s p => s.setF p.1 p.2) s
  let s := (upTo 64).foldl (fun s i => s.clearCore (64 * d + i)) s
  { s with
    mem.cm := tclear s.mem.cm (wayBase (8 * d) 0) (128 * 1572864),
    mem.sramBad := sramLost s.mem.sramBad d, mem.sramSoft := sramLost s.mem.sramSoft d,
    mem.lines := s.mem.lines.filter fun l => l.cluster / 8 != d,
    mem.tlb := s.mem.tlb.filter fun e => unitDie e.unit != d,
    mem.wpWaits := s.mem.wpWaits.filter fun w => unitDie w.unit != d,
    rmt.slot := tclear s.rmt.slot (65536 * d) 65536,
    rmt.cached := tput [] s.rmt.cached d [], rmt.waiting := tput [] s.rmt.waiting d [],
    rmt.keys := tput [] s.rmt.keys d [], rmt.keyWait := tput [] s.rmt.keyWait d [],
    rmt.spill := tput 0 s.rmt.spill d 0, rmt.fetch := tput 0 s.rmt.fetch d 0,
    ports := tclear s.ports (8 * d) 8,
    dies.port := tclear s.dies.port (2 * d) 2,
    dies.xing := tclear s.dies.xing (256 * d) 256,
    dies.frac := tput 0 s.dies.frac d 0,
    smithy.upd := s.smithy.upd.map fun e => (e.1, e.2.map fun u =>
      { u with slots := u.slots.filter fun c => c.1 / 4 != d }) }

/-- A commanded test on a stack that leaves is aborted (20 R511). -/
def State.bistAbort (s : State) (d : Nat) : State :=
  if s.boot.bist != 0 ∧ (s.boot.bist - 1) / 32 = d then
    { (s.setB F.bistStatusDone true).setF F.bistStatusResult 3 with boot.bist := 0 }
  else s

/-- Stack P1, P2 or P3 leaves service; its neighbours have yet to act. What it had not delivered to the log
is lost when it gives no notice (19 R487). -/
def State.leave (s : State) (d cause : Nat) : State :=
  if d = 0 || !(s.inService d) then s else
  let s := if cause = causeCommand then (s.emit (.d2dNotice d 0)).emit (.d2dNotice d 1)
    else { s with err.recQ := s.err.recQ.filter fun r => r.die != d }
  let s : State := if d = 2 then
      let s := if s.plSt 1 = plDown then s else s.linkLost 1 plDown
      (s.clearRegs 0x70000 0x10000).setBitF F.readyPkgReady rPl1 false
    else s
  let s := ((s.bistAbort d).clearDie d).setF (F.dieStatusLastcause d) cause
  let s := (s.unready d).noteState
  (upTo 2).foldl (fun s k =>
    let a := neighbour d k
    if s.inService a then { s with dies.notice := tput false s.dies.notice (2 * a + (1 - k)) true } else s) s

/-- Die stacks of the members of a set. -/
def State.setDies (s : State) (n : Nat) : List Nat :=
  (upTo (2 ^ s.getF (F.isDescLns n))).map fun i => (s.getF (F.isDescBstack n) + i) / 4

/-- Die stacks on which a context holds or uses something (14 R391). -/
def State.diesOf (s : State) (x : Nat) : List Nat :=
  let cores := match s.grant x with
    | some g => (g.coreList.map (· / 64)) ++ g.wayList.map fun w => w.1 / 8
    | none => []
  let sets := (upTo 256).filter fun n =>
    s.setValid n && !(s.flag (F.isDescHouse n)) && s.getF (F.isDescOwner n) == x
  let house := match s.upd x with
    | some u => (u.shards.filter (·.house)).map (·.hset) ++ []
    | none => []
  let chunks := match s.upd x with
    | some u => u.slots.map fun e => e.1 / 4
    | none => []
  (cores ++ (sets ++ house).flatMap s.setDies ++ (s.slotsOf x).map (fun e => slotDie e.1)
    ++ (s.stqEnds x).map s.qDie ++ chunks).eraseDups

/-- The context touches stack `d` (14 R391). Its accesses also run between its stacks and P0, where the scheduler
and the Smithy coordinator are (14 R395). -/
def State.touches (s : State) (x d : Nat) : Bool :=
  let l := s.diesOf x
  l.contains d || (0 :: l).any fun a => (0 :: l).any fun b => (passes a b).contains d

/-- Every context that touches a stack is torn down. -/
def State.tearTouching (s : State) (d : Nat) (parent : Option Nat) : State :=
  (s.grantees.filter fun x => s.alive x && s.touches x d).foldl (fun s x => s.teardown x parent none) s

/-- Credits of flits sent from a port and not returned (14 R378). -/
def State.d2dOut (s : State) (d k : Nat) : Nat :=
  s.getF (F.d2dCrIssue d k) - s.getF (F.d2dCrReturn d k) - s.getF (F.d2dCrReclaim d k)

/-- Staging pages of a context that lay in the set of stack `d` are written off (18 R473). -/
def State.loseStage (s : State) (d x : Nat) : State :=
  let r := s.resc x
  let n := (r.snap.staged.filter fun g => g.die = d).length
  let s := s.setSnap x { r.snap with staged := r.snap.staged.filter fun g => g.die != d }
  (s.incF F.resStgReclaim n).setF (F.resStgHeld x) (s.getF (F.resStgHeld x) - n)

/-- The staging pages of a departed stack, named in a die-class record of stack `a`. -/
def State.reclaimStage (s : State) (a d : Nat) : State :=
  let xs := (s.res.ctx.filter fun e => e.2.snap.staged.any fun g => g.die = d).map (·.1)
  let n := xs.foldl (fun n x => n + ((s.resc x).snap.staged.filter fun g => g.die = d).length) 0
  if n = 0 then s else
  (xs.foldl (fun s x => s.loseStage d x) s).record clsDie a uRes kReclaim d none none n

/-- Stack `a` acts for the departed neighbour at its port `k` (14 R393). -/
def State.neighbourActs (s : State) (a k : Nat) : State :=
  if !(tget false s.dies.notice (2 * a + k)) then s else
  let d := neighbour a k
  let s : State := { s with dies.notice := tput false s.dies.notice (2 * a + k) false }
  let n := s.d2dOut a k
  let s := (s.setB (F.d2dStatusUp a k) false).setReadyDie a (rdD2d + k) false
  let s := (s.incF (F.d2dFlush a k) n).incF (F.d2dCrReclaim a k) n
  let s := s.setDport a k {}
  let s := s.record clsDie a uD2d kReclaim d none none n
  let rid := s.lastRid
  (s.reclaimStage a d).tearTouching d (some rid)

def execResetNotice (die : Fin 4) (port : Fin 2) (s : State) : Host.Outcome State Fault Refusal :=
  work s fun s =>
    if s.getF (F.dieStatusLastcause (neighbour die.val port.val)) = causeCommand then
      s.neighbourActs die.val port.val
    else s

def execNeighbourSilence (die : Fin 4) (port : Fin 2) (s : State) : Host.Outcome State Fault Refusal :=
  work s fun s => s.neighbourActs die.val port.val

/-- A write of DIE_CTL; bit 0 is reserved on P0, and a stack out of service ignores it (14 R392, R394). -/
def State.dieCtlWrite (s : State) (d v : Nat) : State :=
  if d = 0 || !(bit v 0) || !(s.inService d) then s else s.leave d causeCommand

def execDieReset (die : Fin 4) (value : BitVec 32) (s : State) : Host.Outcome State Fault Refusal :=
  work s fun s => s.dieCtlWrite die.val value.toNat

/-- Loss of clock: P0's is a package fault, another stack's takes it out of service (14 R381, R382). -/
def State.clockLoss (s : State) (d ref : Nat) : State :=
  let s := s.setB (F.dieStatusLock d) false
  if d = 0 then s.fatalError 0 uDie kClock 0 ref none else s.leave d causeClock

def execPllLockLoss (die : Fin 4) (s : State) : Host.Outcome State Fault Refusal :=
  work s fun s => if s.flag (F.dieStatusLock die.val) then s.clockLoss die.val 0 else s

def execP0ClockLoss (s : State) : Host.Outcome State Fault Refusal :=
  work s fun s => s.clockLoss 0 0

/-! ### Return to service (14 R395, 20 R505) -/

/-- Interleave sets with a member on a stack, valid. -/
def State.setsOn (s : State) (d : Nat) : List Nat :=
  (upTo 256).filter fun n => s.setValid n && (s.setDies n).contains d

/-- READY bits of a stack that set when it is back: all that the boot brought up, but RMT's, which waits for
its arming write (20 R504). -/
def State.readyBack (s : State) (d : Nat) : State :=
  (upTo 28).foldl (fun s i =>
    if s.bitF (F.presentDiePresent d) i && i != rdRmt && i != 7 then s.markDie d i true else s) s

/-- The record lists the sets whose VALID it cleared: SUB counts them, DETAIL has a bit for each of sets 0 to
63 (log entry 34). -/
def execDieReturn (die : Fin 4) (s : State) : Host.Outcome State Fault Refusal :=
  work s fun s =>
    let d := die.val
    if d = 0 || s.inService d || s.getF (F.dieStatusLastcause d) = 0
      || (upTo 2).any (fun k => tget false s.dies.notice (2 * neighbour d k + (1 - k))) then s
    else
      let s := (s.setB (F.dieStatusLock d) true).xingRelease d
      let s := (upTo 2).foldl (fun s k =>
        let a := neighbour d k
        if s.inService a then
          ((((s.setB (F.d2dStatusUp d k) true).setB (F.d2dStatusUp a (1 - k)) true).markDie a (rdD2d + (1 - k)) true)
            ).xingReset a (12 + (1 - k)) false
        else s) s
      let s : State := { s with mem.hbm := tclear s.mem.hbm (128 * d * pcSize) (128 * pcSize),
                                mem.badBursts := tclear s.mem.badBursts (128 * d * pcSize / 32) (4 * pcSize),
                                mem.softBursts := tclear s.mem.softBursts (128 * d * pcSize / 32) (4 * pcSize) }
      let s := (upTo 4).foldl (fun s j =>
        if s.bitF (F.presentDiePresent d) (rdHbm + j) then s.setB (F.hbmStatusTrained (4 * d + j)) true else s) s
      let l := s.setsOn d
      let s := l.foldl (fun s n => s.clearSet n) s
      let s := s.record clsDie d uHbm kInvalid l.length none none
        (l.foldl (fun v n => if n < 64 then v + 2 ^ n else v) 0)
      let s := (s.setB (F.dieStatusInservice d) true).readyBack d
      if d = 2 ∧ s.bitF F.presentPkgPresent rPl1 then
        ((s.setB (F.plCfgEnable 1) true).setF (F.plCfgMaxw 1) (bits (fieldAt s.boot.config 9 1) 2 2)).plTrain 1
          plTraining
      else s

/-! ### The watch (14 R388, R389) -/

/-- A stall counter of 09 R267 advances by the calibrated ticks of a period of its stack. -/
def State.stageStall (s : State) (d n ns : Nat) : State :=
  if !(s.flag (F.stqCfgValid n)) || s.qDie n != d || !(s.resident (s.getF (F.stqCfgOwner n)))
    || (s.semReqs (s.getF (F.stqCfgWsem n))).isEmpty then s
  else
    let k := s.getF (F.stqCfgStg n)
    if s.getF (F.stqCfgRole n) = 0 then s.incF (F.stgFullTicks k) ns else s.incF (F.stgEmptyTicks k) ns

/-- Resident time of every resident context, in µs of P0's watch (16 R432). -/
def State.resTime (s : State) (us : Nat) : State :=
  if us = 0 then s else
  (s.grantees.filter s.resident).foldl (fun s x => s.incF (F.accRestime x) us) s

/-- One period of a stack's watch: WATCH_RAW advances by one and WATCH_NS by CAL. -/
def execWatchPeriod (die : Fin 4) (s : State) : Host.Outcome State Fault Refusal :=
  act s fun s =>
    let d := die.val
    if d != 0 && !(s.inService d) && s.getF (F.dieStatusLastcause d) != 0 then s else
    let t := tget 0 s.dies.frac d + s.getF (F.watchCalCal d)
    let ns := t / 2 ^ 24
    let old := s.getF (F.watchNs d)
    let s : State := { s with dies.frac := tput 0 s.dies.frac d (t % 2 ^ 24) }
    let s := ((s.setB (F.dieStatusWstop d) false).incF (F.watchRaw d) 1).incF (F.watchNs d) ns
    if s.fatal then s else
    let s := (upTo 256).foldl (fun s n => s.stageStall d n ns) s
    if d = 0 then s.resTime ((old + ns) / 1000 - old / 1000) else s

/-- The watch stops: timeouts go on, on the ring (14 R389). -/
def execWatchStop (die : Fin 4) (s : State) : Host.Outcome State Fault Refusal :=
  act s fun s =>
    let d := die.val
    if s.flag (F.dieStatusWstop d) || (d != 0 && !(s.inService d) && s.getF (F.dieStatusLastcause d) != 0) then s
    else (s.setB (F.dieStatusWstop d) true).record clsDie d uDie kClock 0 none none 4

end Sys2Proof.Machine
end

