-- ==== Sys2Proof/Machine/Boot.lean ====
section
/-! DEFINITION. Boot steps, firmware commands and self-test (20 R494–R513), and discovery (14 R375). -/
namespace Sys2Proof.Machine

/-! ### Flash banks (20 R494, R495) -/

def bankSize : Nat := 0x4000000
def State.bankBytes (s : State) (b o n : Nat) : List Byte := readBytes 0xFF s.mem.flash (b * bankSize + o) n

/-- Images in COMPID order: 0 loader, 1 management firmware, 2 boot configuration, 3 die firmware. -/
def imageLimit (i : Nat) : Nat := if i = 0 then 0x100000 else if i = 1 then 0x1000000 else if i = 2 then 4096 else 0x2000000
/-- A directory entry: offset, length, VERSION, four zero bytes, digest. -/
def State.dirEntry (s : State) (b i : Nat) : List Byte := s.bankBytes b (64 + 64 * i) 64
def State.imageBytes (s : State) (b i : Nat) : List Byte :=
  let e := s.dirEntry b i
  s.bankBytes b (fieldAt e 0 4) (fieldAt e 4 4)
def State.bankSvn (s : State) (b : Nat) : Nat := leNat (s.bankBytes b 8 4)
/-- FW_SVN.FLOOR: fused at manufacture and raised since (20 R508). -/
def State.floor (s : State) : Nat := Nat.max Config.fusedSvn.toNat s.boot.fusedFloor

def State.headerOk (s : State) (b : Nat) : Bool :=
  leNat (s.bankBytes b 0 4) == 0x5746514B && leNat (s.bankBytes b 4 2) == 1 && (upTo 4).all fun i =>
    let e := s.dirEntry b i
    zeroAt e 12 4 && decide (fieldAt e 0 4 + fieldAt e 4 4 ≤ bankSize) && decide (fieldAt e 4 4 ≤ imageLimit i)

def sha384Bytes (b : List Byte) : List Byte := beBytes 48 (Config.sha384 b).toNat
def State.digestOk (s : State) (b i : Nat) : Bool := sha384Bytes (s.imageBytes b i) == slice (s.dirEntry b i) 16 48

/-- Validation of a bank, as the result code of VERIFY (20 R506): a digest that fails counts as the signature
(log entry 35). -/
def State.bankCode (s : State) (b : Nat) : Nat :=
  if !(s.headerOk b) then 3
  else if !(Config.imageOk (s.bankBytes b 0 3885)) || !((upTo 4).all (s.digestOk b)) then 4
  else if s.bankSvn b < s.floor then 5
  else 0

/-! ### Measurements and the boot configuration (17 R445, 20 R496) -/

def State.measure (s : State) (i b : Nat) : State :=
  let e := s.dirEntry b i
  { s with sec.meas := tput {} s.sec.meas i { bank := b, version := fieldAt e 8 4, digest := slice e 16 48 } }

def defaultConfig : List Byte := padTo 4096 (leBytes 4 0x4342514B ++ leBytes 2 1 ++ leBytes 2 0 ++ leBytes 1 6)
def State.bflag (s : State) (i : Nat) : Bool := bit (fieldAt s.boot.config 8 1) i
def State.discMode (s : State) : Bool := s.bflag 0
/-- MAXW that the configuration gives a link. -/
def State.cfgMaxw (s : State) (l : Nat) : Nat := bits (fieldAt s.boot.config 9 1) (2 * l) 2
def State.portOff (s : State) (p : Nat) : Bool := bit (fieldAt s.boot.config 12 4) p

def State.readConfig (s : State) (b : Nat) : State :=
  let s := s.measure 2 b
  { s with boot.config := padTo 4096 (s.imageBytes b 2) }
def State.useDefault (s : State) (b : Nat) : State :=
  { s with boot.config := defaultConfig,
           sec.meas := tput {} s.sec.meas 2 { bank := b, version := 1, digest := sha384Bytes defaultConfig } }
def State.configOk (s : State) (b : Nat) : Bool :=
  let c := padTo 8 (s.imageBytes b 2)
  fieldAt c 0 4 == 0x4342514B && fieldAt c 4 2 == 1

/-! ### Instances and tries (20 R497, R498) -/

def State.stackOn (s : State) (d : Nat) : Bool := !(tget false s.dies.disabled d)
def allOn : List Nat := [0, 1, 2, 3]

def State.stepInsts (s : State) (k : Nat) : List Nat :=
  if k = 5 then allOn
  else if k = 6 then (if s.stackOn 2 then [0, 1] else [0])
  else if k = 8 then allOn.filter s.stackOn
  else if k = 9 then (allOn.filter s.stackOn).flatMap fun d =>
    (if s.bflag 1 then (upTo 9).map (32 * d + ·) else []) ++ (if s.bflag 2 then (upTo 9).map (32 * d + 16 + ·) else [])
  else if k = 10 then (upTo 16).filter fun h => s.stackOn (h / 4)
  else if k = 11 then (upTo 32).filter fun p => s.stackOn (p / 8) && !s.portOff p
  else [0xFF]

def hasAlternate (k : Nat) : Bool := [2, 3, 4, 6, 7, 8, 10, 11].contains k

/-- The steps that read a bank of the flash. -/
def bankStep (k : Nat) : Bool := k == 2 || k == 4 || k == 8

/-- A record is of a boot whose trial failed (20 R507): its alternate bank is the former bank, which later
boots select. -/
def failedTrial (all : List (List Byte)) (r : List Byte) : Bool :=
  all.any fun q => fieldAt q 16 1 == ldFwEvent && fieldAt q 22 2 == 4 && fieldAt q 19 1 == mdAlternate
    && fieldAt q 8 8 == fieldAt r 8 8

/-- What the Ledger shows of an instance, newest first: a success gives its mode, a skipped instance the
alternate; CLEARALT, and for the steps that read a bank a success in a failed trial, make it normal. -/
def startMode (all : List (List Byte)) (k inst : Nat) : List (List Byte) → Bool
  | [] => false
  | r :: rest =>
    let t := fieldAt r 16 1
    if t = ldClearAlt then false
    else if t = ldStep ∧ fieldAt r 17 1 = k ∧ fieldAt r 18 1 = inst then
      if fieldAt r 19 1 = mdSkipped then hasAlternate k
      else if fieldAt r 20 1 = rsPass then fieldAt r 19 1 == mdAlternate && !(bankStep k && failedTrial all r)
      else startMode all k inst rest
    else startMode all k inst rest

/-- What a try sets up: a Puell link trains; discovery sends its token. -/
def State.tryBegin (s : State) (t : Try) : State :=
  if t.step = 6 then
    let w := s.cfgMaxw t.inst
    let s := s.setF (F.plCfgMaxw t.inst) (if t.alt then Nat.min 2 (w + 1) else w)
    (s.setB (F.plCfgEnable t.inst) true).plTrain t.inst plTraining
  else if t.step = 7 && s.discMode then
    let s : State := { s.setB (F.dieIdDisc 0) true with dies.token := true, dies.discPos := tput 0 s.dies.discPos 0 1 }
    s.emit (.d2dToken 0 0)
  else s

/-- Bank from which a step reads: the loader selects, the rest follow the loader; the alternate is the other. -/
def State.tryBank (s : State) (t : Try) : Nat := if t.alt then 1 - s.boot.bank else s.boot.bank

/-- A step starts its instances, each in its starting mode; a boot on trial reads the staged bank first (20 R498,
R507). -/
def State.startStep (s : State) (k : Nat) : State :=
  let l := s.boot.ledger.reverse
  let trial := s.flag F.bootStatusTrial && bankStep k
  let ts := (s.stepInsts k).map fun i =>
    ({ step := k, inst := i, n := 0, alt := startMode l k i l && !trial } : Try)
  let s : State := { s with boot.tries := s.boot.tries ++ ts }
  ts.foldl (fun s t => s.tryBegin t) s

/-! ### Disabling and halting (20 R497) -/

/-- A link of the boot is disabled; with both disabled the boot halts. -/
def State.disableLink (s : State) (l : Nat) : State :=
  let s := s.setB (F.plCfgEnable l) false
  let s := if s.plSt l = plDown then s else s.linkLost l plDown
  let s := (s.setBitF F.presentPkgPresent (rPl0 + l) false).setBitF F.readyPkgReady (rPl0 + l) false
  let other := s.flag (F.plCfgEnable (1 - l)) || s.boot.tries.any fun t => t.step = 6 ∧ t.inst = 1 - l
  if other then s else s.halt 6 l 0x0060

/-- Stack of an instance of a step. -/
def instDie (k i : Nat) : Nat :=
  if k = 9 then i / 32 else if k = 10 then i / 4 else if k = 11 then i / 8 else if k = 6 then 2 * i else i

/-- A stack P1–P3 leaves the boot with everything on it and its links. -/
def State.disableDie (s : State) (d : Nat) : State :=
  let s : State := { s with dies.disabled := tput false s.dies.disabled d true,
                            boot.tries := s.boot.tries.filter fun t =>
                              !((t.step = 5 ∨ 8 ≤ t.step) ∧ t.step ≤ 11 ∧ instDie t.step t.inst = d) }
  let s := ((s.setB (F.dieStatusInservice d) false).setF (F.presentDiePresent d) 0).unready d
  let s := (upTo 2).foldl (fun s k =>
    let a := neighbour d k
    let s := (s.setB (F.d2dStatusUp d k) false).setB (F.d2dStatusUp a (1 - k)) false
    (s.setBitF (F.presentDiePresent a) (rdD2d + (1 - k)) false).setReadyDie a (rdD2d + (1 - k)) false) s
  if d = 2 ∧ s.flag (F.plCfgEnable 1) then s.disableLink 1 else s

/-- The action on final failure. `code` is the try's own, which step 7 halts with. -/
def State.finalFail (s : State) (t : Try) (code : Nat) : State :=
  let i := t.inst
  if t.step = 1 then s.halt 1 0xFF (if s.flag (F.dieIdMirror 0) then 0x0011 else 0x0010)
  else if t.step = 2 then s.halt 2 0xFF 0x0020
  else if t.step = 4 then s.halt 4 0xFF 0x0040
  else if t.step = 5 then (if i = 0 then s.halt 5 0 0x0050 else s.disableDie i)
  else if t.step = 6 then s.disableLink i
  else if t.step = 7 then s.halt 7 0xFF code
  else if t.step = 8 then (if i = 0 then s.halt 8 0 0x0080 else s.disableDie i)
  else if t.step = 9 then (if i / 32 = 0 then s.halt 9 i 0x0090 else s.disableDie (i / 32))
  else if t.step = 10 then s.setB (F.hbmStatusDisabled i) true
  else if t.step = 12 then s.halt 12 0xFF 0x00A0
  else s

/-! ### What a passed try brings up (20 R503, R504; log entry 36) -/

def State.upPkg (s : State) (i : Nat) (ready : Bool) : State :=
  let s := s.presentPkg i
  if ready then s.markPkg i true else s
def State.upDie (s : State) (d i : Nat) (ready : Bool) : State :=
  let s := s.presentDie d i
  if ready then s.markDie d i true else s

/-- A FWEVENT record: the bank, its SVN and the start of its management firmware's digest (20 R501). -/
def State.fwEvent (s : State) (op mode result b : Nat) : State :=
  s.ledger ldFwEvent 0 0xFF mode result op
    (leBytes 1 b ++ leBytes 3 0 ++ leBytes 4 (s.bankSvn b) ++ slice (s.dirEntry b 1) 16 16)

/-- A bank other than the one on trial was used: the trial has failed (20 R507). -/
def State.trialCheck (s : State) (b : Nat) : State :=
  if s.flag F.bootStatusTrial && b == s.boot.home then
    (s.setB F.bootStatusTrial false).fwEvent 4 mdAlternate rsFail (1 - b)
  else s

/-- Groups that trained on a direction received at port `k` of stack `d`. -/
def rxGroups (data : List Word64) (d k : Nat) : Nat := ((data.getD (2 * d + k) 0xFFFFFF#64).toNat) % 2 ^ 24

def linkPorts (s : State) : List (Nat × Nat) :=
  allOn.flatMap fun d => (upTo 2).filterMap fun k =>
    if s.stackOn d && s.stackOn (neighbour d k) then some (d, k) else none

/-- Why a try of step 7 cannot pass: mirror bits, straps, discovery, a direction with no group (14 R374,
R375, R380). -/
def State.d2dBad (s : State) (alt : Bool) (data : List Word64) : Option Nat :=
  if (upTo 4).any fun d => d != 0 && s.stackOn d && s.flag (F.dieIdMirror d) then some 0x0071
  else if !s.discMode && (allOn.filter s.stackOn).any fun d => s.getF (F.dieIdPos d) != d then some 0x0070
  else if s.discMode && s.dies.token then some 0x0072
  else if (linkPorts s).any fun p => rxGroups data p.1 p.2 == 0 || (!alt && rxGroups data p.1 p.2 != 2 ^ 24 - 1) then
    some 0x0073
  else none

/-- A link direction is in service with the groups that trained; every retired group is recorded (14 R379). -/
def State.d2dUp (s : State) (p : Nat × Nat) (data : List Word64) : State :=
  let d := p.1
  let k := p.2
  let n := neighbour d k
  let m := rxGroups data d k
  let s := (s.setF (F.d2dStatusRxgrp d k) m).setF (F.d2dStatusTxgrp n (1 - k)) m
  let s := ((s.setB (F.d2dStatusUp d k) true).setF (F.d2dStatusPeer d k) n).upDie d (rdD2d + k) true
  (upTo 24).foldl (fun s g =>
    if bit m g then s else
    let x := laneDetail d k g 0xFF
    let s := (s.incF (F.d2dRetires d k) 1).record clsCorrected d uD2d kRepair 0 none none x
    s.ledger ldRepair 7 0xFF mdAlternate rsPass 0 (leBytes 4 x)) s

/-- A try may pass only when what it read is valid. -/
def State.tryOk (s : State) (t : Try) (r : BootResult) : Bool :=
  if t.step = 1 then !(s.flag (F.dieIdMirror 0))
  else if t.step = 2 || t.step = 4 || t.step = 8 then s.bankCode (s.tryBank t) == 0
  else if t.step = 3 then t.alt || s.configOk s.boot.bank
  else if t.step = 6 then s.plSt t.inst == plActive
  else if t.step = 7 then (s.d2dBad t.alt r.data).isNone
  else true

/-- Repairs found are written to the Ledger, one record each (20 R502). -/
def State.repairs (s : State) (k i : Nat) (l : List Word64) : State :=
  l.foldl (fun s w => s.ledger ldRepair k i mdNormal rsPass 0 (leBytes 8 w.toNat)) s

def State.tryPass (s : State) (t : Try) (r : BootResult) : State :=
  let i := t.inst
  let b := s.tryBank t
  if t.step = 2 then { (s.measure 0 b).trialCheck b with boot.bank := b }
  else if t.step = 3 then (if t.alt then s.useDefault s.boot.bank else s.readConfig s.boot.bank)
  else if t.step = 4 then
    let s := (((s.measure 1 b).trialCheck b).setF F.bootStatusBank b).setF F.secSvnSvn (s.bankSvn b)
    ((s.setF F.fwSvnFloor s.floor).upPkg rMgmt true).upPkg rErr true
  else if t.step = 5 then
    let s := (((s.setB (F.dieStatusLock i) true).xingRelease i).setB (F.dieStatusInservice i) true).upDie i 0 true
    if i = 0 then s.upPkg rPower true else s
  else if t.step = 6 then s.upPkg (rPl0 + i) true
  else if t.step = 7 then (linkPorts s).foldl (fun s p => s.d2dUp p r.data) s
  else if t.step = 8 then
    let s := if i = 0 then s.measure 3 b else s
    let s := s.trialCheck b
    let s := ((s.upDie i rdSmithy true).upDie i rdRmt false).upDie i rdCol true |>.upDie i rdCopy true
    if i = 0 then
      let s := (s.upPkg rSched true).upPkg rTally true
      ([rAcc, rRes, rCol, rMem, rSmy]).foldl (fun s f => s.upPkg f false) s
    else s
  else if t.step = 9 then s.repairs 9 i (r.data.drop 2)
  else if t.step = 10 then
    (((s.setB (F.hbmStatusTrained i) true).upDie (i / 4) (rdHbm + i % 4) true)).repairs 10 i r.data
  else if t.step = 11 then s.upDie (i / 8) (rdPort + i % 8) true
  else if t.step = 12 then (s.upPkg rSec true).upPkg rIdent true
  else s

/-! ### From step to step -/

/-- Clusters report ready when step 9 ends (20 R504). -/
def State.clustersUp (s : State) : State :=
  (allOn.filter s.stackOn).foldl (fun s d => (upTo 8).foldl (fun s c => s.upDie d (rdCluster + c) true) s) s

/-- Every try of the running steps has ended: the next step, or steps, start; a step without instances is
passed over. -/
def State.bootAdvance (s : State) : Nat → State
  | 0 => s
  | f + 1 =>
    if s.flag F.bootStatusHalted || !s.boot.tries.isEmpty || s.flag F.bootStatusRundone then s else
    let k := s.getF F.bootStatusStep
    let s := if k = 9 then s.clustersUp else s
    let s : State :=
      if k = 9 then (((s.setF F.bootStatusStep 10).startStep 10).startStep 11).startStep 12
      else if 10 ≤ k then (s.setF F.bootStatusStep 13).startStep 13
      else (s.setF F.bootStatusStep (k + 1)).startStep (k + 1)
    s.bootAdvance f

/-- Step 13 ends: BOOTDONE, and what the trial leaves (20 R497, R507; 15 R398, R406). -/
def State.bootRun (s : State) : State :=
  let s := s.ledger ldBootDone 13 0xFF mdNormal rsPass 0 []
  let s := (s.setB F.bootStatusRundone true).setF F.pwrStatusState 2
  let s : State := if s.flag F.bootStatusTrial then
      { (s.setB F.bootStatusTrial false).setB F.fwStatusStaged false with boot.home := s.boot.bank }
    else s
  (upTo 4).foldl (fun s d => s.setF (F.pwrDieKd d) 256) s

/-- One try ends: its STEP record, then the next try, the action on final failure, or what it brings up. -/
def State.tryEnd (s : State) (t : Try) (r : BootResult) : State :=
  let bad := if t.step = 7 then (s.d2dBad t.alt r.data).getD 0 else 0
  let ok := (r.pass && s.tryOk t r) || (t.step == 3 && t.alt)
  let code := if ok then 0 else if bad != 0 then bad else r.code.toNat
  let last := !ok && (t.n = 2 || (t.n = 1 && !hasAlternate t.step))
  let skip := last && ([6, 10, 11].contains t.step || ([5, 8, 9].contains t.step && instDie t.step t.inst != 0))
  let mode := if skip then mdSkipped else if t.alt then mdAlternate else mdNormal
  let detail := if t.step = 9 then leBytes 8 (r.data.getD 0 0).toNat ++ leBytes 8 (r.data.getD 1 0).toNat else []
  let s := s.ledger ldStep t.step t.inst mode (if ok then rsPass else rsFail) code detail
  let s := if t.step = 9 then
      let f := if t.inst / 32 = 0 then F.bistFail0Fail else if t.inst / 32 = 1 then F.bistFail1Fail
        else if t.inst / 32 = 2 then F.bistFail2Fail else F.bistFail3Fail
      s.setBitF f (t.inst % 32) (!ok)
    else s
  let s : State := { s with boot.tries := s.boot.tries.erase t }
  let s := if ok then s.tryPass t r
    else if last then s.finalFail t code
    else
      let u := { t with n := t.n + 1, alt := t.alt || t.n = 1 }
      ({ s with boot.tries := s.boot.tries ++ [u] } : State).tryBegin u
  if ok && t.step = 13 then s.bootRun else s.bootAdvance 16

/-- A try of a running step ends. Passing step 13 is the one event that brings the module to RUN. -/
def execBootStepEnd (step : Fin 14) (inst : BitVec 8) (r : BootResult) (s : State) :
    Host.Outcome State Fault Refusal :=
  if !s.works || s.power.st != .boot then .next s else
  match s.boot.tries.find? fun t => t.step = step.val ∧ t.inst = inst.toNat with
  | none => .next s
  | some t =>
    let s' := s.tryEnd t r
    .next { s' with pending := s.pending,
                    power := if s'.flag F.bootStatusRundone then { s.power with st := .run } else s.power }

/-- Boot step 1 begins: the straps are latched, the Ledger is scanned, the bank is selected (20 R497, R502,
R507). -/
def State.bootStart (s : State) : State :=
  let s := (upTo 4).foldl (fun s d =>
    let o := tget 0 s.dies.orient d
    ((s.setF (F.dieIdPos d) (rotPos (o % 4))).setF (F.dieIdRot d) (o % 4)).setB (F.dieIdMirror d) (bit o 2)) s
  let new := s.boot.ledger.getLast?
  let s := s.setF F.bootCountBoots (match new with | some r => fieldAt r 8 8 + 1 | none => 1)
  let s : State := match new with
    | some r =>
      let s := s.setF F.ledgerHeadLseq (fieldAt r 4 4)
      if fieldAt r 16 1 = ldShutdown ∨ fieldAt r 16 1 = ldHalt then s
      else s.ledger ldUnclean 0 0xFF mdNormal rsPass 0 []
    | none => s
  let trial := s.boot.trialNext
  let s : State := { s.setB F.bootStatusTrial (trial != 0) with
    boot.bank := if trial = 0 then s.boot.home else trial - 1, boot.trialNext := 0 }
  (s.setF F.bootStatusStep 1).startStep 1

/-! ### Discovery (14 R375) -/

/-- A token carrying position `p` arrives on the CCW port: the stack takes the next position and passes the
token on; back at P0 it ends the discovery. -/
def execDiscoveryToken (die position : Fin 4) (s : State) : Host.Outcome State Fault Refusal :=
  work s fun s =>
    let d := die.val
    if !s.dies.token then s
    else if d = 0 then (if position.val = 2 then { s with dies.token := false } else s)
    else
      let strapped := s.getF (F.dieIdPos d)
      let pos := cwOf position.val
      let s : State := { (s.setF (F.dieIdPos d) pos).setB (F.dieIdDisc d) true with
        dies.discPos := tput 0 s.dies.discPos d (pos + 1) }
      let s := s.emit (.d2dToken d pos)
      if pos = strapped then s
      else s.ledger ldDiscovery 7 d mdNormal rsPass 0 (leBytes 1 strapped ++ leBytes 1 pos)

/-- No token within 45 ms: the try of step 7 fails with the discovery code. -/
def execDiscoveryTimeout (s : State) : Host.Outcome State Fault Refusal :=
  work s fun s =>
    match s.boot.tries.find? fun t => t.step = 7 with
    | some t => if s.dies.token then s.tryEnd t ⟨false, 0x0072, []⟩ else s
    | none => s

/-! ### Firmware commands (20 R506–R508) -/

def State.inactive (s : State) : Nat := 1 - s.getF F.bootStatusBank

/-- A write of FW_CMD: the command's work unit takes the live registers as it begins (00 R12, R513). -/
def State.fwWrite (s : State) (v : Nat) : State :=
  match s.regRefused (regOr F.fwCmdOp.off) v with
  | some s => s
  | none =>
    let op := bits v 0 4
    if !(s.flag F.fwStatusDone) || !(s.flag F.bootStatusRundone) then s.rejected F.fwCmdOp
    else
      let s : State := { s.setB F.fwStatusDone false with
        boot.fw := op + 1, boot.fwSrc := s.getF F.fwSrcAddr, boot.fwOff := s.getF F.fwOffOffset,
        boot.fwLen := s.getF F.fwLenBytes }
      if op = 1 ∨ op = 2 then ((s.setB F.fwStatusStaged false).setB F.fwStatusWriting true).noteState else s

def execFwErase (s : State) : Host.Outcome State Fault Refusal := work s fun s => s.fwWrite 1
def execFwWrite (s : State) : Host.Outcome State Fault Refusal := work s fun s => s.fwWrite 2
def execFwVerify (s : State) : Host.Outcome State Fault Refusal := work s fun s => s.fwWrite 3
def execFwActivate (s : State) : Host.Outcome State Fault Refusal := work s fun s => s.fwWrite 4
def execFwRaisesvn (s : State) : Host.Outcome State Fault Refusal := work s fun s => s.fwWrite 5
def execFwClearalt (s : State) : Host.Outcome State Fault Refusal := work s fun s => s.fwWrite 6
def execFwShutdown (s : State) : Host.Outcome State Fault Refusal := work s fun s => s.fwWrite 7

/-- What a command does, and its result code. A WRITE that cannot read companion memory ends with code 2
(log entry 35). -/
def State.fwRun (s : State) (op : Nat) (flashError : Bool) : Nat × State :=
  let b := s.inactive
  let base := b * bankSize
  if op = 1 then
    (if flashError then 2 else 0, { s with mem.flash := tclear s.mem.flash base bankSize })
  else if op = 2 then
    let o := s.boot.fwOff
    let n := s.boot.fwLen
    let src := s.boot.fwSrc
    if n = 0 || bankSize < n || bankSize < o + n || o % 256 != 0 || src % 256 != 0 then (1, s)
    else if flashError then (2, s)
    else match (compRead 0 none src n).go s with
      | (.ok bs, s) => (0, { s with mem.flash := writeBytes 0xFF s.mem.flash (base + o) bs })
      | (.error _, s) => (2, s)
  else if op = 3 then
    let c := s.bankCode b
    (c, if c = 0 then (s.setB F.fwStatusStaged true).noteState else s)
  else if op = 4 then
    if s.flag F.fwStatusStaged then (0, { s with boot.trialNext := b + 1 }) else (6, s)
  else if op = 5 then
    if s.flag F.bootStatusTrial then (7, s)
    else
      let s : State := { s with boot.fusedFloor := Nat.max s.boot.fusedFloor (s.getF F.secSvnSvn) }
      (0, s.setF F.fwSvnFloor s.floor)
  else (0, s)

/-- A firmware command ends: its result and its FWEVENT record; CLEARALT and SHUTDOWN write their own record
last. -/
def execFwCommandDone (flashError : Bool) (s : State) : Host.Outcome State Fault Refusal :=
  work s fun s =>
    if s.boot.fw = 0 then s else
    let op := s.boot.fw - 1
    let r := s.fwRun op flashError
    let s := ((r.2.setB F.fwStatusDone true).setF F.fwStatusResult r.1).setB F.fwStatusWriting false
    let s : State := { s with boot.fw := 0 }
    let s := s.fwEvent op mdNormal (if r.1 = 0 then rsPass else rsFail)
      (if op ≤ 4 then s.inactive else s.getF F.bootStatusBank)
    if op = 6 then s.ledger ldClearAlt 0 0xFF mdNormal rsPass 0 []
    else if op = 7 then s.ledger ldShutdown 0 0xFF mdNormal rsPass 0 []
    else s

/-! ### Commanded self-test (20 R509–R511) -/

/-- The global cluster number of a cluster target. -/
def targetCluster (t : Nat) : Nat := 8 * (t / 32) + t % 8

/-- A valid grant names a core or a way of cluster `k`. -/
def State.clusterGranted (s : State) (k : Nat) : Bool :=
  s.grantees.any fun x => match s.grant x with
    | some g => bits g.cores (8 * k) 8 != 0 || g.ways.getD k 0 != 0
    | none => false

/-- A write of BIST_CMD; a target that is not a cluster's lies outside the field's range (00 R530). -/
def State.bistWrite (s : State) (v : Nat) : State :=
  match s.regRefused (regOr F.bistCmdTarget.off) v with
  | some s => s
  | none =>
    let t := bits v 0 8
    let k := targetCluster t
    if !(s.flag F.bootStatusRundone) || s.boot.bist != 0 || s.clusterGranted k
      || !(s.readyDie (k / 8) (rdCluster + k % 8)) then s.setF F.bistStatusResult 2
    else { (s.setB F.bistStatusDone false).setReadyDie (k / 8) (rdCluster + k % 8) false with boot.bist := t + 1 }

def execBistCommand (target : BitVec 8) (s : State) : Host.Outcome State Fault Refusal :=
  work s fun s => s.bistWrite target.toNat

/-- Arrays of a cluster at zero. -/
def State.zeroCluster (s : State) (k : Nat) : State :=
  let s := (upTo 8).foldl (fun s i => s.clearCore (8 * k + i)) s
  { s with mem.cm := tclear s.mem.cm (wayBase k 0) (16 * 1572864) }

def execBistCommandDone (misr expect failAddr : Word64) (rowsOk : Bool) (s : State) :
    Host.Outcome State Fault Refusal :=
  work s fun s =>
    if s.boot.bist = 0 then s else
    let t := s.boot.bist - 1
    let k := targetCluster t
    let memory := decide (16 ≤ t % 32)
    let pass := misr == expect && (!memory || rowsOk)
    let s := ((s.setF F.bistMisrMisr misr.toNat).setF F.bistExpectMisr expect.toNat).setB F.bistStatusDone true
    let s := if memory then s.setF F.bistFailaddrAddr (if rowsOk then 0 else failAddr.toNat) else s
    let s : State := { s.setF F.bistStatusResult (if pass then 0 else 1) with boot.bist := 0 }
    if pass then (s.zeroCluster k).markDie (k / 8) (rdCluster + k % 8) true
    else s.record clsDie (k / 8) uMgmt kIntegrity 0 none none t

/-! ### Degraded (20 R500, 17 R446) -/

def State.degraded (s : State) : Bool :=
  (upTo 4).any (fun d => !(s.stackOn d)) || (upTo 16).any (fun h => s.flag (F.hbmStatusDisabled h))
    || (s.flag F.bootStatusRundone && (upTo 32).any fun p => !(s.bitF (F.presentDiePresent (p / 8)) (rdPort + p % 8)))
    || (s.flag F.bootStatusRundone && (linkPorts s).any fun p => s.getF (F.d2dStatusRxgrp p.1 p.2) != 2 ^ 24 - 1)

end Sys2Proof.Machine
end

