-- ==== Sys2Proof/Machine/Power.lean ====
section
/-! DEFINITION. Module power states, sequencing and trips (15 R398, R401, R413; 21 R520–R523), the power loops,
sensors and the division of energy (15 R402–R412, 16 R433). -/
namespace Sys2Proof.Machine

/-! ### Losing power or reset (15 R398, 21 R522) -/

/-- Flash as a fall of power leaves it: an ERASE or WRITE that ran leaves the inactive bank invalid, its header
gone (20 R506). -/
def State.tornFlash (s : State) : Bytes :=
  if s.boot.fw = 2 ∨ s.boot.fw = 3 then tclear s.mem.flash (s.inactive * bankSize) 16384 else s.mem.flash

/-- Everything but what lies outside the package's volatile state is lost: flash, Ledger, fuses and straps stay,
and so does companion memory, which is not the module's. -/
def State.wipe (s : State) : State :=
  { State.reset with
    pending := s.pending, freeCtr := s.freeCtr, out := s.out, power := s.power,
    mem.flash := s.tornFlash, mem.comp := s.mem.comp, dies.orient := s.dies.orient,
    loops.inputMv := s.loops.inputMv,
    boot.ledger := s.boot.ledger, boot.home := s.boot.home, boot.trialNext := s.boot.trialNext,
    boot.fusedFloor := s.boot.fusedFloor }

/-- Input within 48–57 V (21 R520). -/
def inRange (mv : Nat) : Bool := decide (48000 ≤ mv) && decide (mv ≤ 57000)

/-- Regulators start, or, with the input out of range, do not (15 R398, 21 R521). -/
def Power.start (p : Power) (mv : Nat) : Power := { p with st := if inRange mv then .boot else .off }

/-- RUN_EN rises: straps are latched and soft start begins. During a power-down the rise counts from its end
(21 R523). -/
def execRunEnRise (inputMv : Nat) (smbAddr : BitVec 3) (s : State) : Host.Outcome State Fault Refusal :=
  let p := s.power
  if p.runEn then .next s else
  let p := { p with runEn := true, smbAddr := smbAddr.toNat }
  let p := if p.downPending then { p with riseAgain := true } else p.start inputMv
  .next { s with power := p, loops.inputMv := inputMv }

/-- RUN_EN falls: the package stops at once (21 R523). -/
def execRunEnFall (s : State) : Host.Outcome State Fault Refusal :=
  let p := s.power
  if !p.runEn then .next s else
  let down := p.downPending || p.st == .boot || p.st == .run
  .next { s.wipe with power := { p with st := .off, runEn := false, railsUp := false, pwrOk := false,
                                        downPending := down, riseAgain := false } }

/-- Every rail is down: a rise of RUN_EN meanwhile takes effect now. -/
def execPowerDownComplete (s : State) : Host.Outcome State Fault Refusal :=
  let p := s.power
  if !p.downPending then .next s else
  let q := { p with downPending := false, riseAgain := false }
  .next { s with power := if p.riseAgain then q.start s.loops.inputMv else q }

/-- Boot step 1 begins once the rails are up and RST_N is high; none begins in the device-fatal state. -/
def State.powered (s : State) (p : Power) : State :=
  let s : State := { s with power := p }
  if p.st == .boot && p.railsUp && p.rstN && !s.fatal then
    { s.bootStart with power := p, pending := s.pending }
  else s

def execRailsInRegulation (s : State) : Host.Outcome State Fault Refusal :=
  let p := s.power
  if p.st != .boot || p.railsUp then .next s
  else .next (s.powered { p with railsUp := true, pwrOk := true })

def execRstNRise (s : State) : Host.Outcome State Fault Refusal :=
  let p := s.power
  if p.rstN then .next s else .next (s.powered { p with rstN := true })

/-- RST_N falls: with power up the package is held in reset, in state BOOT (21 R522). The device-fatal state is
left only through RUN_EN (19 R483; log entry 41). -/
def execRstNFall (s : State) : Host.Outcome State Fault Refusal :=
  let p := s.power
  if !p.rstN then .next s
  else if p.st == .boot || p.st == .run then
    .next { s.wipe.setB F.errStatusFatal s.fatal with power := { p with rstN := false, st := .boot } }
  else .next { s with power := { p with rstN := false } }

/-- A hardware trip turns every regulator off (15 R413). -/
def State.trip (s : State) : State :=
  { s.wipe with power := { s.power with st := .tripped, railsUp := false, pwrOk := false } }

def execHardwareTrip (computeMax baseMax : Nat) (s : State) : Host.Outcome State Fault Refusal :=
  let p := s.power
  .next (if (p.st == .boot || p.st == .run) && (decide (120 ≤ computeMax) || decide (110 ≤ baseMax)) then s.trip
    else s)

/-- The input below 40 V for longer than 2 ms, or below 36 V at all (21 R521). -/
def execInputUndervoltage (mv us : Nat) (s : State) : Host.Outcome State Fault Refusal :=
  let p := s.power
  let s : State := { s with loops.inputMv := mv }
  .next (if (p.st == .boot || p.st == .run) && (decide (mv < 36000) || (decide (mv < 40000) && decide (2000 < us)))
    then s.trip else s)

/-- A die rail below 0.50 V for more than 1 µs (15 R401). -/
def execRailUndervoltage (die : Fin 4) (mv ns : Nat) (s : State) : Host.Outcome State Fault Refusal :=
  work s fun s => if mv < 500 ∧ 1000 < ns then s.clockLoss die.val (8 + die.val) else s

/-! ### The Bellows (15 R404, R405, R407) -/

def bubMax : Nat := 240

/-- Uncorrected estimate of an interval in pJ, and its handshakes. Weights by kind: block format pairs from 0,
vector classes from 16, a move of 64 bytes 32, an instruction 33. -/
def weigh (k : Nat) (l : List Nat) : Nat :=
  (l.zip (upTo l.length)).foldl (fun n p => n + p.1 * Config.energyWeight (k + p.2)) 0
def estimate (a : Activity) : Nat :=
  weigh 0 a.blocks + weigh 16 a.vectorWords + a.moves * Config.energyWeight 32 + a.instrs * Config.energyWeight 33
def handshakes (a : Activity) : Nat :=
  a.blocks.foldl (· + ·) 0 + a.vectorWords.foldl (· + ·) 0 + a.moves + a.instrs

/-- A quotient rounded away from zero, so that a difference never rounds to no correction (log entry 37). -/
def divAway (a : Int) (b : Nat) : Int :=
  if a < 0 then -((a.natAbs + (b - 1)) / b : Nat) else ((a.natAbs + (b - 1)) / b : Nat)

/-- The new bubble fraction in 1/256 from the estimated power and the share, both in µW. -/
def nextBub (b est share : Nat) : Nat :=
  if share = 0 then bubMax
  else
    let v := (b : Int) + divAway (32 * ((est : Int) - share)) share
    Nat.min bubMax v.toNat

/-- Every 1 µs a Bellows withholds tokens at the fraction in force and updates it. -/
def execFastLoop (cluster : Fin 32) (a : Activity) (s : State) : Host.Outcome State Fault Refusal :=
  act s fun s =>
    let c := cluster.val
    let d := c / 8
    let e := estimate a
    let kd := s.getF (F.pwrDieKd d)
    let b := s.getF (F.blwStatusBub c)
    let t := tget 0 s.loops.tokens c + 256 * handshakes a * b / (256 - b)
    let j := tget 0 s.loops.estFrac c + kd * e
    let s : State := { s with loops.tokens := tput 0 s.loops.tokens c (t % 256),
                              loops.estFrac := tput 0 s.loops.estFrac c (j % 256000000),
                              loops.estPj := tput 0 s.loops.estPj d (tget 0 s.loops.estPj d + e) }
    let s := (s.incF (F.blwBubbles c) (t / 256)).incF (F.blwEstUj c) (j / 256000000)
    if s.flag (F.blwStatusJclamp c) then s.setF (F.blwStatusBub c) bubMax
    else if s.flag (F.blwStatusMeasonly c) then s
    else s.setF (F.blwStatusBub c) (nextBub b (kd * e / 256) (1000 * s.getF (F.blwShareMw c)))

/-- In estimator fault every cluster of the stack takes the same fraction from the measured rail. -/
def execMeasonlyUpdate (die : Fin 4) (pMeasMw : Nat) (s : State) : Host.Outcome State Fault Refusal :=
  act s fun s =>
    let d := die.val
    if !(s.bitF F.pwrStatusEfault d) then s else
    let sum := (upTo 8).foldl (fun n c => n + s.getF (F.blwShareMw (8 * d + c))) 0
    let b := if sum = 0 then bubMax else if pMeasMw = 0 then 0
      else Nat.min bubMax (256 - (24320 * sum + 100 * pMeasMw - 1) / (100 * pMeasMw))
    (upTo 8).foldl (fun s c =>
      s.setF (F.blwStatusBub (8 * d + c)) (if s.flag (F.blwStatusJclamp (8 * d + c)) then bubMax else b)) s

/-! ### The slow loop (15 R402, R406–R409) -/

def kdClamp (v : Int) : Nat := if v < 128 then 128 else if 512 < v then 512 else v.toNat

/-- r × 256 of a stack: measured mW over the sum of the estimates of 1 ms. With no estimate the ratio is a
free value. -/
def State.ratioOf (s : State) (d compMw : Nat) : Nat × State :=
  let e := tget 0 s.loops.estPj d
  if e = 0 then (s.fresh.1.toNat % 65536, s.fresh.2) else (compMw * 256000000 / e, s)

/-- k_d moves a quarter of the way to r; ten intervals of disagreement put the stack in estimator fault. -/
def State.correct (s : State) (d compMw : Nat) : State :=
  let r := s.ratioOf d compMw
  let k := s.getF (F.pwrDieKd d)
  let s := r.2.setF (F.pwrDieKd d) (kdClamp ((k : Int) + ((r.1 : Int) - k) / 4))
  let far := decide (1536 < 5 * r.1) || decide (5 * r.1 < 1024)
  let n := if far then tget 0 s.loops.disagree d + 1 else 0
  let s : State := { s with loops.estPj := tput 0 s.loops.estPj d 0, loops.ratio := tput 0 s.loops.ratio d r.1,
                            loops.disagree := tput 0 s.loops.disagree d n }
  if n < 10 || s.bitF F.pwrStatusEfault d then s
  else
    let s := (s.setBitF F.pwrStatusEfault d true).record clsCorrected 0 uPower kThermal d none none r.1
    (upTo 8).foldl (fun s c => s.setB (F.blwStatusMeasonly (8 * d + c)) true) s

/-- The throttle chain: one action an interval (15 R408). -/
def State.throttle (s : State) (budget comp floor : Nat) : State :=
  let h := s.getF F.pwrStatusHbmthr
  let r := s.getF F.pwrStatusRmtthr
  if budget < floor then
    if h < 6 then s.setF F.pwrStatusHbmthr (h + 1) else if r < 6 then s.setF F.pwrStatusRmtthr (r + 1) else s
  else if 11 * comp ≤ 10 * budget then
    if 0 < r then s.setF F.pwrStatusRmtthr (r - 1) else if 0 < h then s.setF F.pwrStatusHbmthr (h - 1) else s
  else s

def sumMw (l : List Nat) : Nat := l.foldl (· + ·) 0

def execSlowLoop (m : SlowMeasure) (s : State) : Host.Outcome State Fault Refusal :=
  act s fun s =>
    let cap := 1000 * s.getF F.pwrCfgCap
    let comp := sumMw m.compMw
    let budget := cap - 25000 - (m.inputMw - comp)
    let s := s.setF F.pwrInputMw m.inputMw
    let s := if cap < m.inputMw then s.incF F.pwrOver 1 else s
    let s := (upTo 4).foldl (fun s d =>
      ((s.setF (F.pwrRailCompmw d) (m.compMw.getD d 0)).setF (F.pwrRailBasemw d) (m.baseMw.getD d 0)).correct d
        (m.compMw.getD d 0)) s
    let s := (upTo 32).foldl (fun s c =>
      s.setF (F.blwShareMw c) (s.getF (F.pwrDamperFrac c) * budget * (100 - tget 0 s.loops.fcCut c) / 6553600)) s
    s.throttle budget comp m.floorMw

/-- Writing 1 to EFAULT ends the fault of a stack: k_d restarts at the latest r (15 R407). -/
def State.efaultWrite (s : State) (mask : Nat) : State :=
  (upTo 4).foldl (fun s d =>
    if !(bit mask d) || !(s.bitF F.pwrStatusEfault d) then s else
    let s := (s.setBitF F.pwrStatusEfault d false).setF (F.pwrDieKd d) (kdClamp ((tget 0 s.loops.ratio d : Nat) : Int))
    let s : State := { s with loops.disagree := tput 0 s.loops.disagree d 0 }
    (upTo 8).foldl (fun s c => s.setB (F.blwStatusMeasonly (8 * d + c)) false) s) s

def State.pwrStatusWrite (s : State) (v : Nat) : State :=
  match s.regRefused (regOr F.pwrStatusEfault.off) v with
  | some s => s
  | none => s.efaultWrite (bits v 2 4)

def execEfaultClear (mask : BitVec 4) (s : State) : Host.Outcome State Fault Refusal :=
  work s fun s => s.pwrStatusWrite (4 * mask.toNat)

/-! ### Samples (15 R406, R410–R412; 16 R433) -/

/-- A sample's energy is divided in integers: what is left over is the house's (16 R433). -/
def State.divide (s : State) (es : Nat) (acts : List (Fin 256 × Nat)) (house : Nat) : State :=
  let a := acts.foldl (fun n p => n + p.2) house
  let r := acts.foldl (fun (r : State × Nat) p =>
    let c := if a = 0 then 0 else es * p.2 / a
    (r.1.incF (F.accEnergy p.1.val) c, r.2 + c)) (s, 0)
  (r.1.incF F.accHouseNj (es - r.2)).incF F.accTotalNj es

def execRailSample (r : RailReading) (s : State) : Host.Outcome State Fault Refusal :=
  act s fun s => { s.divide r.energyNj r.activity r.house with loops.inputMv := r.inputMv }

/-- Hundredths by which the thermal factor is cut at a base-die temperature (15 R411). -/
def cutOf (t : Nat) : Nat := if t ≤ 92 then 0 else if 106 ≤ t then 70 else 5 * (t - 92)

/-- A cluster's thermal factor, and its junction clamp: set at 105 °C, released when both sensors read 103 °C or
less. -/
def State.clusterTemp (s : State) (c tb t0 t1 : Nat) : State :=
  let s : State := { s with loops.fcCut := tput 0 s.loops.fcCut c (cutOf tb) }
  let s := s.setF (F.blwStatusF c) (255 * (100 - cutOf tb) / 100)
  if 105 ≤ t0 ∨ 105 ≤ t1 then (s.setB (F.blwStatusJclamp c) true).setF (F.blwStatusBub c) bubMax
  else if t0 ≤ 103 ∧ t1 ≤ 103 then s.setB (F.blwStatusJclamp c) false
  else s

def maxOf (l : List Nat) : Nat := l.foldl Nat.max 0

def execSensorSample (die : Fin 4) (compute base : List Nat) (s : State) : Host.Outcome State Fault Refusal :=
  act s fun s =>
    let d := die.val
    let s := (s.setF (F.pwrTempTcmax d) (maxOf compute)).setF (F.pwrTempTbmax d) (maxOf base)
    (upTo 8).foldl (fun s c =>
      s.clusterTemp (8 * d + c) (base.getD c 0) (compute.getD (2 * c) 0) (compute.getD (2 * c + 1) 0)) s

/-- A stack's temperature: refresh doubles above 85 °C (05 R119); the issue rate is capped from 95 °C and from
100 °C, and released below 93 °C (15 R412). -/
def execHbmTempRead (stack : Fin 16) (celsius : Nat) (s : State) : Host.Outcome State Fault Refusal :=
  act s fun s =>
    let h := stack.val
    let old := s.getF (F.pwrTempThbm (h / 4))
    let s := s.setF (F.pwrTempThbm (h / 4)) (insert old (8 * (h % 4)) 8 celsius)
    let s := s.setB (F.hbmStatusHot h) (decide (85 < celsius))
    let cap := if 100 ≤ celsius then 2 else if 95 ≤ celsius then 1 else if celsius < 93 then 0
      else tget 0 s.loops.hbmCap h
    { s with loops.hbmCap := tput 0 s.loops.hbmCap h cap }

/-- TRIP_N is held low: the trip latch is set, RUN_EN is high and the input drives the bias supply (21 R521). -/
def State.tripN (s : State) : Bool :=
  s.power.st == .tripped && s.power.runEn && decide (30000 ≤ s.loops.inputMv)

/-- ALERT_N is asserted (15 R412, 19 R483); it is released with PWR_OK (21 R523). -/
def State.alert (s : State) : Bool :=
  s.power.pwrOk && (s.fatal || !s.loops.hbmCap.isEmpty || !s.loops.fcCut.isEmpty || s.getF F.pwrStatusEfault != 0
    || (upTo 32).any fun c => s.flag (F.blwStatusJclamp c))

end Sys2Proof.Machine
end

