-- ==== Sys2Proof/Machine/Contexts.lean ====
section
/-! DEFINITION. Contexts: grants, commands, switches, slices, real-time slots and donated time (16 R416–R431,
17 R436–R441). -/
namespace Sys2Proof.Machine

/-! ### The grant (16 R416, R417) -/

def mib2 : Nat := 0x200000

def grantOf (b : List Byte) : Grant where
  cores := fieldAt b 0 32
  ways := (upTo 32).map fun k => fieldAt b (32 + 4 * k) 4
  ptroot := fieldAt b 160 8
  compbase := fieldAt b 168 8
  complen := fieldAt b 176 8
  steprec := fieldAt b 184 8
  udesc := fieldAt b 192 8
  vmode := bit (fieldAt b 200 1) 0
  interleave := bit (fieldAt b 200 1) 1
  realtime := bit (fieldAt b 200 1) 2
  slice := fieldAt b 202 2
  save := (upTo 4).map fun n => (fieldAt b (208 + 4 * n) 1, fieldAt b (209 + 4 * n) 3 * mib2)

/-- Reserved fields are zero and every field is in its range. -/
def grantFields (b : List Byte) (g : Grant) : Bool :=
  decide (fieldAt b 200 1 < 8) && zeroAt b 201 1 && zeroAt b 204 4 && zeroAt b 224 32
    && decide (100 ≤ g.slice) && g.ptroot % 4096 == 0 && g.compbase % mib2 == 0 && g.complen % mib2 == 0
    && decide (g.compbase + g.complen ≤ 2 ^ 42) && g.steprec % 64 == 0
    && decide (g.steprec < 2 ^ 48) && decide (g.udesc < 2 ^ 48)

/-- No way is in both masks of a cluster, and none in a cluster without a core. -/
def Grant.waysOk (g : Grant) : Bool :=
  (g.ways.zip (upTo 32)).all fun p =>
    (p.1 % 65536) &&& (p.1 / 65536) == 0 && (p.1 == 0 || bits g.cores (8 * p.2) 8 != 0)

/-- Bytes of the save image on stack `n` (16 R423). -/
def Grant.imageBytes (g : Grant) (n : Nat) : Nat :=
  65536 + 1376256 * (g.coreList.filter fun c => c / 64 = n).length
    + 1572864 * (g.wayList.filter fun w => w.1 / 8 = n ∧ !w.2.2).length

/-- The save region of stack `n` is a house set of that stack and holds the image; in confidential mode the set
is sealed (17 R441). -/
def State.saveOk (s : State) (g : Grant) (n : Nat) : Bool :=
  let r := g.save.getD n (0, 0)
  s.setValid r.1 && s.flag (F.isDescHouse r.1) && (s.setDies r.1).all (· == n)
    && decide (r.2 + g.imageBytes n ≤ s.setSize r.1) && (!s.flag F.secStatusConf || s.sealed r.1)

/-- Every cluster of the grant is ready (20 R503). -/
def State.clustersReady (s : State) (g : Grant) : Bool :=
  (upTo 32).all fun k =>
    (bits g.cores (8 * k) 8 == 0 && g.ways.getD k 0 == 0) || s.readyDie (k / 8) (rdCluster + k % 8)

def State.tenant (s : State) (x : Nat) : Nat := s.getF (F.secTenantTenant x)

/-- Nothing of the grant is shared with another tenant (17 R437). -/
def State.tenantOk (s : State) (x : Nat) (g : Grant) : Bool :=
  s.grantees.all fun y => y == x || s.tenant y == s.tenant x || match s.grant y with
    | some h => !(g.overlap h) && (g.complen == 0 || h.complen == 0
        || decide (g.compbase + g.complen ≤ h.compbase) || decide (h.compbase + h.complen ≤ g.compbase))
    | none => true

def State.grantOk (s : State) (x : Nat) (b : List Byte) : Bool :=
  let g := grantOf b
  grantFields b g && g.waysOk && (upTo 4).all (s.saveOk g) && s.clustersReady g && s.tenantOk x g

/-- VALID written 1: the record is read and checked. -/
def State.validSet (s : State) (x : Nat) : State :=
  let f := F.ctxCtlValid x
  if !s.flag F.accCfgGvalid then s.rejected f else
  match (houseRead (s.getF F.accCfgGset) (256 * x) 256).go s with
  | (.ok b, s) =>
    if !(s.grantOk x b) then s.rejected f
    else
      let s := (s.setB f true).setCx x { grant := some (grantOf b) }
      { s.setSt x cIdle with sched.recDue := tput false s.sched.recDue x true }
  | (.error (.fault c k su d u), s) => (s.record c 0 (u.getD uSched) k su none none d).rejected f
  | (.error _, s) => s.rejected f

/-- VALID written 0: the context is free, its image is gone, its counters are cleared and its energy retired
(16 R431, R432). -/
def State.validClear (s : State) (x : Nat) : State :=
  let f := F.ctxCtlValid x
  let st := s.ctxSt x
  if st != cIdle && st != cSaved && st != cFaulted then s.rejected f else
  let s := s.incF F.accRetiredNj (s.getF (F.accEnergy x))
  let s := [F.accBeats x, F.accHbm x, F.accNet x, F.accPuell x, F.accEnergy x, F.accRestime x].foldl
    (fun s f => s.clrF f) s
  let s := ((s.setB f false).setSt x cFree).setB (F.ctxStateSusp x) false
  let s : State := { (s.freeKept x).setF (F.ctxStateOverrun x) 0 with
    train.steps := tput none s.train.steps x none,
    ctxs.waiting := s.ctxs.waiting.erase x }
  ((s.setCx x {}).dropGroups x).dropTlb x

/-! ### Commands (16 R431) -/

def ctPreempt : Nat := 1
def ctSuspend : Nat := 2
def ctResume : Nat := 3
def ctTeardown : Nat := 4

/-- A resident context is pre-empted by command; the command is in progress until its save ends. -/
def State.cmdPreempt (s : State) (x : Nat) : State :=
  if s.resident x then ((s.setB (F.ctxStateCmdbusy x) true).preemptNow x) else s

def State.ctxCommand (s : State) (x cmd : Nat) : State :=
  let st := s.ctxSt x
  let f := F.ctxCtlCmd x
  if cmd = 0 ∨ 5 ≤ cmd then s
  else if s.flag (F.ctxStateCmdbusy x) then s.rejected f
  else if cmd = ctResume then (s.setB (F.ctxStateSusp x) false).settle
  else if cmd = ctPreempt then (if st = cResident then s.cmdPreempt x else s.rejected f)
  else if st = cFree ∨ st = cFaulted then s.rejected f
  else if cmd = ctSuspend then ((s.setB (F.ctxStateSusp x) true).cmdPreempt x).settle
  else
    let s := s.record clsContext 0 uMgmt kTeardown 0 (some x) none ctTeardown
    s.teardown x (some s.lastRid) none

/-- A write of CTX_CTL: VALID first, then CMD. -/
def State.ctxCtlWrite (s : State) (x v : Nat) : State :=
  match s.regRefused (regOr (F.ctxCtlValid x).off) v with
  | some s => s
  | none =>
    let on := bit v 0
    let s := if on = s.flag (F.ctxCtlValid x) then s else if on then s.validSet x else s.validClear x
    s.ctxCommand x (bits v 8 3)

/-- The value of CTX_CTL that commands context `x` and leaves VALID as it is. -/
def State.ctlWith (s : State) (x cmd : Nat) : Nat := s.getF (F.ctxCtlValid x) + 256 * cmd

def execCtxValidWrite (ctx : Fin 256) (valid : Bool) (s : State) : Host.Outcome State Fault Refusal :=
  work s fun s => s.ctxCtlWrite ctx.val (ofBool valid)
def execPreempt (ctx : Fin 256) (s : State) : Host.Outcome State Fault Refusal :=
  work s fun s => s.ctxCtlWrite ctx.val (s.ctlWith ctx.val ctPreempt)
def execSuspend (ctx : Fin 256) (s : State) : Host.Outcome State Fault Refusal :=
  work s fun s => s.ctxCtlWrite ctx.val (s.ctlWith ctx.val ctSuspend)
def execResume (ctx : Fin 256) (s : State) : Host.Outcome State Fault Refusal :=
  work s fun s => s.ctxCtlWrite ctx.val (s.ctlWith ctx.val ctResume)
def execTeardown (ctx : Fin 256) (s : State) : Host.Outcome State Fault Refusal :=
  work s fun s => s.ctxCtlWrite ctx.val (s.ctlWith ctx.val ctTeardown)

/-! ### Slices (16 R420) -/

/-- A waiting context needs a unit that `x` holds. -/
def State.wanted (s : State) (x : Nat) : Bool :=
  s.ctxs.waiting.any fun y => s.mayRun y && (s.blockers y).contains x

/-- Donated time ends with the donor's slice: the donor waits in its turn (16 R429). -/
def State.donationOver (s : State) (d : Nat) : State :=
  let c := s.cx d
  if c.donor = 0 then s else
  let s := (s.setCx d { c with donor := 0, donSem := 0 }).setB (F.ctxStateDonated d) false
  (s.preemptNow d).settle

/-- A slice ends: its holder is pre-empted when a waiter needs its units; the slice of a donor ends the donation.
The holder of a real-time slot is not pre-empted by slice. -/
def execSliceExpiry (ctx : Fin 256) (s : State) : Host.Outcome State Fault Refusal :=
  work s fun s =>
    let x := ctx.val
    if !(s.resident x) || s.rtHolder x then s
    else if (s.cx x).donor != 0 then s.donationOver x
    else if s.wanted x then (s.preemptNow x).settle
    else s

/-! ### Save and restore (16 R422–R425) -/

def State.switchTime (s : State) (us : Nat) : State :=
  let s := s.setF F.accSwlastUs us
  if s.getF F.accSwmaxUs < us then s.setF F.accSwmaxUs us else s

/-- What a save reads of the SRAMs meets their errors (05 R113). -/
def saveReads (x : Nat) (g : Grant) (kept : List (Nat × Nat)) : M Unit := do
  if (← getS).coresBusy x then g.coreList.forM fun i => ocReads i [(0, ocSize)]
  (g.savedWays kept).forM fun w => sramCheck cmWord (cmWord + wayBase w.1 w.2.1) 1572864

/-- A save ends: cache ways are flushed, the image is kept, cores and ways are cleared and freed, but the redo
way of an open chunk, which stays with the context (16 R427). -/
def execSaveComplete (ctx : Fin 256) (us : Nat) (s : State) : Host.Outcome State Fault Refusal :=
  work s fun s =>
    let x := ctx.val
    match s.grant x with
    | none => s
    | some g =>
      if s.ctxSt x != cSaving then s else
      let kept := s.keptWays x
      match (do flushAll x; saveReads x g kept; saveReach x g : M Unit).go s with
      | (.error (.fault c k su d u), s) => s.stopFault x 0 uMover none (.fault c k su d u)
      | (.error (.touch y k), _) => s.touch y k
      | (.error _, _) => s
      | (.ok _, s) =>
        let v := s.image x g kept
        let s := (s.moveImage x g true v.bytesOn).storeImage g v
        let s := g.coreList.foldl (fun s i => s.clearCore i) s
        let s := g.wayList.foldl (fun s w =>
          if kept.any fun p => p.2 = w.1 * 16 + w.2.1 then s else s.wayAssign w.1 w.2.1 0 false false) s
        let s := ((s.dropLines x).dropTlb x).setCx x
          { s.cx x with saved := some v.units, kept := kept, keptAt := s.getF (F.watchNs 0) }
        let s := (s.setB (F.ctxStateCmdbusy x) false).setSt x cSaved
        (s.switchTime us).settle

/-- An image is put back and its context is resident; one suspended meanwhile is pre-empted. None while the step
record cannot be read. -/
def State.restored (s : State) (x us : Nat) (g : Grant) (v : Saved) : Option State :=
  let s := (s.moveImage x g false v.bytesOn).putImage v
  let s := ((s.setCx x { s.cx x with saved := none }).setSt x cResident).switchTime us
  (if (tget none s.train.steps x).isSome then s.readStepRec x false else some s).map fun s =>
    let s := (s.slotsOf x).foldl (fun s e => s.pump e.1) s
    (if s.flag (F.ctxStateSusp x) then s.preemptNow x else s).settle

/-- A restore ends: the instances go on where they stopped (16 R422, R431; 07 R202, 11 R326). -/
def execRestoreComplete (ctx : Fin 256) (us : Nat) (s : State) : Host.Outcome State Fault Refusal :=
  work s fun s =>
    let x := ctx.val
    match s.grant x with
    | none => s
    | some g =>
      if s.ctxSt x != cRestoring || s.wayClearing g then s else
      let v : Saved := ((s.cx x).saved).getD ⟨[], []⟩
      match (imageReads x g v).go s with
      | (.error (.fault c k su d u), u') => u'.stopFault x 0 uMover none (.fault c k su d u)
      | (.error _, _) => s
      | (.ok _, u) => (u.restored x us g (u.loadImage g v)).getD s

/-- A window closes, or 50 µs have passed since the switch became due: the switch goes on. What the window took
is overrun (16 R426, R427). -/
def execWindowClose (ctx : Fin 256) (s : State) : Host.Outcome State Fault Refusal :=
  work s fun s =>
    let x := ctx.val
    let c := s.cx x
    let late := s.getF (F.watchNs 0) - c.dueAt
    if !(s.resident x) || !c.switchDue || (s.chunkOpen x && decide (late < 50000)) then s
    else
      let o := Nat.min 65535 (s.getF (F.ctxStateOverrun x) + late / 1000)
      let s := (s.setF (F.ctxStateOverrun x) o).setCx x { c with switchDue := false }
      ((s.toDebt x).setSt x cSaving).settle

/-! ### Real-time slots (16 R421) -/

def rtSlots : List Nat := upTo 64
/-- Slots of a cycle: those before the first with LEN = 0. -/
def cycleOf (len : Nat → Nat) : List Nat := rtSlots.takeWhile fun i => len i != 0

def State.rtGrant (s : State) (x : Nat) : Bool :=
  match s.grant x with
  | some g => g.realtime
  | none => false

/-- The staged table is legal: a cycle that is not empty, naming real-time contexts only. -/
def State.rtLegal (s : State) : Bool :=
  let c := cycleOf fun i => s.staged (F.rtSlotLen i)
  !c.isEmpty && c.all fun i => s.staged (F.rtSlotValid i) == 0 || s.rtGrant (s.staged (F.rtSlotCtx i))

/-- A write of RT_COMMIT. -/
def State.rtCommitWrite (s : State) (v : Nat) : State :=
  match s.regRefused (regOr F.rtCommitCommit.off) v with
  | some s => s
  | none =>
    if !bit v 0 then s
    else if !s.rtLegal then (s.setB F.rtStatusRefused true).rejected F.rtCommitCommit
    else (s.setB F.rtCommitCommit true).setB F.rtStatusRefused false

def execRtCommit (value : BitVec 32) (s : State) : Host.Outcome State Fault Refusal :=
  work s fun s => s.rtCommitWrite value.toNat

/-- The staged slots take effect at a cycle boundary; what joined a pending COMMIT is not checked again (00 R13, 16
R421; log entry 40). -/
def State.rtApply (s : State) : State :=
  if !(s.flag F.rtCommitCommit) then s else
  (rtSlots.foldl (fun s i =>
    ((s.applyShadow (F.rtSlotCtx i)).applyShadow (F.rtSlotValid i)).applyShadow (F.rtSlotLen i)) s).setB
    F.rtCommitCommit false

/-- A slot begins. Slot 0 is the cycle boundary, from which RTEN counts; a slot past the cycle does not begin. -/
def execRtSlotStart (slot : Fin 64) (s : State) : Host.Outcome State Fault Refusal :=
  work s fun s =>
    let i := slot.val
    let s : State := if i = 0 then { s.rtApply with ctxs.rtOn := s.flag F.accCfgRten } else s
    let c := cycleOf fun i => s.getF (F.rtSlotLen i)
    if !s.ctxs.rtOn then { s with ctxs.rtNow := 0 }
    else if !(c.contains i) then s
    else
      let s := s.setF F.rtStatusSlot i
      let x := s.getF (F.rtSlotCtx i)
      let named := s.flag (F.rtSlotValid i) && s.rtGrant x && (s.runnable x || s.resident x)
      let s : State := { s with ctxs.rtNow := if named then x + 1 else 0 }
      let s := if named then
          (s.ctxs.ctx.filter fun e => e.2.donor != 0 && e.1 != x).foldl (fun s e => s.endDonation e.1) s
        else s
      s.settle

/-! ### Donated time (16 R429) -/

/-- A request of context `x` waits on semaphore `n`. -/
def State.queuedOn (s : State) (x n : Nat) : Bool :=
  (s.semReqs n).any fun r => r.who.ctx == x

/-- The context to which a request of `x` on semaphore `n` would donate. -/
def State.donee (s : State) (x n : Nat) : Option Nat :=
  let d := if s.getF (F.semOwner n) != x then some (s.getF (F.semOwner n))
    else if s.flag (F.semPeeren n) then some (s.getF (F.semPeer n)) else none
  match d with
  | none => none
  | some d =>
    if d != x && s.alive d && !(s.holds d) && !(s.flag (F.ctxStateSusp d)) && (s.runnable d || s.ctxSt d == cSaved) then some d else none

/-- A request has been queued for 100 µs: the waiter gives its time to the donee; time that is itself donated is
not passed on. -/
def execDonation (ctx : Fin 256) (sem : Fin 4096) (s : State) : Host.Outcome State Fault Refusal :=
  work s fun s =>
    let x := ctx.val
    let n := sem.val
    if !(s.resident x) || !(s.flag (F.semValid n)) || !(s.queuedOn x n) then s else
    match s.donee x n with
    | none => s
    | some d =>
      if (s.cx x).donor != 0 then (s.incF F.accDonblock 1).donationOver x
      else
        let s := (s.incF F.accDonate 1).setB (F.ctxStateDonated d) true
        let s := s.setCx d { s.cx d with donor := x + 1, donSem := n }
        let s : State := { s with ctxs.waiting := d :: s.ctxs.waiting.filter (· != d) }
        (s.preemptNow x).settle

end Sys2Proof.Machine
end

