-- ==== Sys2Proof/Machine/Security.lean ====
section
/-! DEFINITION. The security engine: keys, reports, certificates, sessions, sealing and weight bundles
(17 R439–R456). -/
namespace Sys2Proof.Machine

/-! ### Input and output (17 R455, R456) -/

/-- Bytes of SEC_IN as the running command found it (00 R12). -/
def SecRun.bytes (r : SecRun) (o n : Nat) : List Byte := readBytes 0 r.input o n
/-- SEC_OUT written from its start, the rest zero, and LEN. -/
def State.secOut (s : State) (bs : List Byte) : State :=
  { s.setF F.secResultLen bs.length with
    regs.secBuf := writeBytes 0 (tclear s.regs.secBuf 0x4000 0x4000) 0x4000 bs }

/-- Exactly `n` bytes. -/
def fit (n : Nat) (l : List Byte) : List Byte := padTo n (l.take n)

/-! ### Keys (17 R442, R443) -/

/-- Measurement of the running management firmware, and its SVN. -/
def State.mmf (s : State) : List Byte := (tget {} s.sec.meas 1).digest
def State.svn (s : State) : Nat := s.getF F.secSvnSvn

def idSeed (info : String) : List Byte := Config.hkdf Config.uds (strBytes "KQ-ID") (strBytes info) 32
def State.rkSeed (s : State) (info : String) : List Byte :=
  Config.hkdf Config.uds (s.mmf ++ leBytes 4 s.svn) (strBytes info) 32
def staticX : List Byte := Config.hkdf Config.uds (strBytes "KQ-KEM") (strBytes "X") 32
def staticKem : List Byte := Config.hkdf Config.uds (strBytes "KQ-KEM") (strBytes "MLKEM") 64

def fingerprint : List Byte :=
  (sha384Bytes (Config.edPublic (idSeed "ED") ++ Config.mldsaPublic (idSeed "MLDSA"))).take 16

def State.certificate (s : State) (i : Nat) : List Byte :=
  if i = 2 then Config.reportCert 2 (Config.edPublic (s.rkSeed "RK-ED")) s.mmf s.svn
  else if i = 5 then Config.reportCert 5 (Config.mldsaPublic (s.rkSeed "RK-MLDSA")) s.mmf s.svn
  else if i = 6 then
    let m := fingerprint ++ fit 32 (Config.x25519Public staticX) ++ fit 1184 (Config.kemPublic staticKem)
    m ++ fit 64 (Config.edSign (idSeed "ED") m) ++ fit 3309 (Config.mldsaSign (idSeed "MLDSA") m)
  else Config.certItem i

/-! ### Reports (17 R444–R446) -/

def maskOf (n : Nat) (f : Nat → Bool) : Nat := (upTo n).foldl (fun v i => v + place (ofBool (f i)) i 1) 0

def State.dieMask (s : State) : Nat := maskOf 4 s.inService
def State.hbmMask (s : State) : Nat :=
  maskOf 16 fun h => s.flag (F.hbmStatusTrained h) && !s.flag (F.hbmStatusDisabled h)
def State.portMask (s : State) : Nat := maskOf 32 fun p => s.bitF (F.presentDiePresent (p / 8)) (rdPort + p % 8)

def measBytes (i : Nat) (m : Meas) : List Byte :=
  leBytes 2 (i + 1) ++ leBytes 1 m.bank ++ leBytes 1 0 ++ leBytes 4 m.version ++ leBytes 8 0 ++ fit 48 m.digest

/-- Bytes 0–639 of a report. -/
def State.reportBody (s : State) (nonce : List Byte) : List Byte :=
  leBytes 4 0x52545441 ++ leBytes 2 1 ++ leBytes 1 (if s.reason = 0 then 1 else 2)
    ++ leBytes 1 (place (ofBool s.degraded) 0 1 + place (ofBool (s.flag F.secStatusConf)) 1 1
      + place (ofBool s.sec.secret.isSome) 2 1 + place (ofBool ((upTo 4).any fun d => s.flag (F.dieIdDisc d))) 3 1)
    ++ leBytes 4 s.reason ++ leBytes 1 s.dieMask ++ leBytes 1 4 ++ leBytes 2 s.hbmMask ++ leBytes 4 s.portMask
    ++ leBytes 4 s.svn ++ leBytes 8 Config.serial.toNat ++ fit 48 nonce ++ fit 16 fingerprint
    ++ leBytes 8 (s.getF F.bootCountBoots) ++ leBytes 8 (s.getF (F.watchNs 0)) ++ leBytes 16 0
    ++ (upTo 4).flatMap (fun i => measBytes i (tget {} s.sec.meas i)) ++ leBytes 256 0

def State.reportOf (s : State) (nonce : List Byte) : List Byte :=
  let b := s.reportBody nonce
  b ++ fit 64 (Config.edSign (s.rkSeed "RK-ED") b) ++ fit 3309 (Config.mldsaSign (s.rkSeed "RK-MLDSA") b)

/-! ### Result codes (17 R456) -/

def cdOk : Nat := 0
def cdNotSteady : Nat := 1
def cdSession : Nat := 2
def cdBadInput : Nat := 3
def cdNotMember : Nat := 4
def cdAuthFail : Nat := 5
def cdSvnLow : Nat := 6
def cdNotSealed : Nat := 7
def cdConfReq : Nat := 8
def cdNoSlot : Nat := 9
def cdConfLocked : Nat := 10
def cdNotHouse : Nat := 11
def cdInUse : Nat := 12

/-! ### Sessions (17 R448–R450) -/

/-- `n` random bytes: free values (log entry 2). -/
def State.random (s : State) : Nat → List Byte × State
  | 0 => ([], s)
  | n + 1 =>
    let r := s.fresh.2.random n
    (leBytes 8 s.fresh.1.toNat ++ r.1, r.2)

def State.keyAgree (s : State) (r : SecRun) : Nat × State :=
  let zeroed := s.secOut []
  if r.unsteady then (cdNotSteady, zeroed)
  else if s.sec.secret.isSome then (cdSession, zeroed)
  else
    let vx := r.bytes 0 32
    let vk := r.bytes 32 1184
    let flags := leNat (r.bytes 1264 1)
    if !(Config.x25519Ok vx) || !(Config.kemOk vk) || decide (2 ≤ flags) then (cdBadInput, zeroed)
    else
      let priv := s.random 4
      let coins := priv.2.random 4
      let s := coins.2
      let kem := Config.kemEncaps vk coins.1
      let out := fit 32 (Config.x25519Public priv.1) ++ fit 1088 kem.1
      let t := sha384Bytes (r.bytes 0 1265 ++ out)
      let rep := s.reportOf t
      let secret := Config.hkdf (Config.x25519 priv.1 vx ++ kem.2) t (strBytes "KQ-SESS") 48
      let s : State := { s.secOut (out ++ rep) with sec.secret := some secret }
      let s := s.setB F.secStatusSession true
      if flags = 0 then (cdOk, s)
      else
        let live := (upTo 2).any fun l => s.plSt l == plActive
        (cdOk, { s.setB F.secStatusConf true with sec.confPend := live })

/-! ### Bundles (17 R451–R454) -/

def memberAt (b : List Byte) (i : Nat) : List Byte := slice b (64 + 1184 * i) 1184

/-- The content key that a member entry wraps (17 R452). -/
def unwrap (bundleid e : List Byte) : Option (List Byte) :=
  let kek := Config.hkdf (Config.x25519 staticX (slice e 16 32) ++ Config.kemDecaps staticKem (slice e 48 1088)) bundleid
    (strBytes "KQ-WRAP" ++ fingerprint) 32
  Config.gcmOpen kek (leBytes 12 0) fingerprint (slice e 1136 32) (slice e 1168 16)

/-- Every field of a header lies in its range, and the lengths agree. -/
def bundleFields (h : List Byte) (len : Nat) : Bool :=
  let n := fieldAt h 7 1
  let pay := fieldAt h 48 8
  fieldAt h 0 4 == 0x4257514B && fieldAt h 4 2 == 1 && decide (fieldAt h 6 1 < 4) && decide (1 ≤ n) && decide (n ≤ 64)
    && decide (1 ≤ fieldAt h 14 2) && decide (fieldAt h 12 2 + fieldAt h 14 2 ≤ 4096) && zeroAt h 44 4 && zeroAt h 56 8
    && decide (1 ≤ pay) && decide (pay ≤ 2 ^ 40) && len == 64 + 1184 * n + pay + 16

def State.slotFree (s : State) : Option Nat := (upTo 64).find? fun b => !(s.flag (F.bundleStatValid b))
/-- A group range overlaps that of an open slot. -/
def State.groupsTaken (s : State) (g n : Nat) : Bool :=
  (upTo 64).any fun b => s.flag (F.bundleStatValid b) &&
    decide (g < s.getF (F.bundleStatGroup0 b) + s.getF (F.bundleNNgroup b)) && decide (s.getF (F.bundleStatGroup0 b) < g + n)

/-- The slot takes what the header says, and the content key. -/
def State.slotOpen (s : State) (b : Nat) (h ck : List Byte) : State :=
  let s := (s.setB (F.bundleStatValid b) true).setB (F.bundleStatExport b) (bit (fieldAt h 6 1) 0)
  let s := (s.setB (F.bundleStatConfreq b) (bit (fieldAt h 6 1) 1)).setF (F.bundleStatGroup0 b) (fieldAt h 12 2)
  let s := (s.setF (F.bundleNNgroup b) (fieldAt h 14 2)).setF (F.bundleSvnMinsvn b) (fieldAt h 8 4)
  let s := (s.setF (F.bundleId0Bundleid b) (fieldAt h 16 4)).setF (F.bundleId1Bundleid b) (fieldAt h 20 4)
  let s := (s.setF (F.bundleId2Bundleid b) (fieldAt h 24 4)).setF (F.bundleId3Bundleid b) (fieldAt h 28 4)
  { s with sec.ck := tput [] s.sec.ck b ck }

/-- OPEN, once it has read its header `h` and bundle `all`: the conditions in the order of log entry 38. -/
def bundleRun (r : SecRun) (h all : List Byte) : M Nat := do
  let s ← getS
  let set := leNat (r.bytes 16 1)
  let off := leNat (r.bytes 24 8)
  let pay := fieldAt h 48 8
  let n := fieldAt h 7 1
  let g := fieldAt h 12 2
  let dest := s.houseSet set && s.sealed set && decide (off + pay ≤ s.setSize set)
  if !(bundleFields h all.length) then return cdBadInput
  if s.svn < fieldAt h 8 4 then return cdSvnLow
  if bit (fieldAt h 6 1) 1 && !(s.flag F.secStatusConf) then return cdConfReq
  if !dest then return cdNotSealed
  match s.slotFree with
  | none => return cdNoSlot
  | some b =>
    if s.groupsTaken g (fieldAt h 14 2) then return cdNoSlot
    match ((upTo n).map (memberAt all)).find? fun e => e.take 16 == fingerprint with
    | none => return cdNotMember
    | some e =>
      let zero := hbmWrite none set off (List.replicate pay 0)
      if r.unsteady then
        zero
        return cdNotSteady
      let ct := slice all (64 + 1184 * n) pay
      let plain := (unwrap (slice h 16 16) e).bind fun ck =>
        (Config.gcmOpen ck (slice h 32 12) (all.take (64 + 1184 * n)) ct (all.drop (64 + 1184 * n + pay))).map
          fun p => (ck, p)
      match plain with
      | none =>
        zero
        return cdAuthFail
      | some (ck, p) =>
        hbmWrite none set off p
        setS fun s => (s.slotOpen b h ck).secOut (leBytes 4 b)
        return cdOk

/-- OPEN reads a bundle from companion memory. -/
def bundleOpenRun (r : SecRun) : M Nat := do
  let a := leNat (r.bytes 0 8)
  let len := leNat (r.bytes 8 8)
  if len < 64 || 2 ^ 42 < a + len then return cdBadInput
  let h ← compRead 0 none a 64
  if !(bundleFields h len) then return cdBadInput
  bundleRun r h (← compRead 0 none a len)

/-- A group bound by slot `b` has an update open. -/
def State.slotBusy (s : State) (b : Nat) : Bool :=
  s.smithy.upd.any fun e => match e.2 with
    | some u => u.shards.any fun h => decide (s.getF (F.bundleStatGroup0 b) ≤ h.group)
        && decide (h.group < s.getF (F.bundleStatGroup0 b) + s.getF (F.bundleNNgroup b))
    | none => false

def State.slotClose (s : State) (b : Nat) : State :=
  let s := [F.bundleStatValid b, F.bundleStatExport b, F.bundleStatConfreq b, F.bundleStatGroup0 b, F.bundleNNgroup b,
    F.bundleSvnMinsvn b, F.bundleId0Bundleid b, F.bundleId1Bundleid b, F.bundleId2Bundleid b,
    F.bundleId3Bundleid b].foldl (fun s f => s.clrF f) s
  { s with sec.ck := tput [] s.sec.ck b [] }

/-! ### Commands (17 R455) -/

def opReport : Nat := 1
def opCert : Nat := 2
def opKeyAgree : Nat := 3
def opEndSession : Nat := 4
def opSeal : Nat := 5
def opBundleOpen : Nat := 6
def opBundleClose : Nat := 7

/-- ARG lies in the range that the command of OP gives it (R455). -/
def argOk (op arg : Nat) : Bool :=
  if op = opCert then decide (arg ≤ 6) else if op = opSeal then true
  else if op = opBundleClose then decide (arg < 64) else arg == 0

/-- A write of SEC_CMD: the command's work unit takes SEC_IN as it begins (00 R12). An ARG outside the range
of its command rejects the write whole (00 R530). -/
def State.secWrite (s : State) (v : Nat) : State :=
  match s.regRefused (regOr F.secCmdOp.off) v with
  | some s => s
  | none =>
    let op := bits v 0 4
    if !(argOk op (bits v 8 8)) then s.rejected F.secCmdArg
    else if s.sec.run.isSome then s.rejected F.secCmdOp
    else ({ s.setB F.secResultDone false with
      sec.run := some ⟨op, bits v 8 8, s.regs.secBuf, false⟩ } : State).noteState

def secValue (op arg : Nat) : Nat := op + 256 * arg

def execReport (s : State) : Host.Outcome State Fault Refusal := work s fun s => s.secWrite (secValue opReport 0)
def execCert (index : BitVec 8) (s : State) : Host.Outcome State Fault Refusal :=
  work s fun s => s.secWrite (secValue opCert index.toNat)
def execKeyagree (s : State) : Host.Outcome State Fault Refusal := work s fun s => s.secWrite (secValue opKeyAgree 0)
def execEndsession (s : State) : Host.Outcome State Fault Refusal :=
  work s fun s => s.secWrite (secValue opEndSession 0)
def execSeal (set : BitVec 8) (s : State) : Host.Outcome State Fault Refusal :=
  work s fun s => s.secWrite (secValue opSeal set.toNat)
def execBundleOpen (s : State) : Host.Outcome State Fault Refusal :=
  work s fun s => s.secWrite (secValue opBundleOpen 0)
def execBundleClose (slot : BitVec 8) (s : State) : Host.Outcome State Fault Refusal :=
  work s fun s => s.secWrite (secValue opBundleClose slot.toNat)

/-- What a command does; none while a link it needs is not there. -/
def State.secRun (s : State) (r : SecRun) : Option (Nat × State) :=
  if r.op = opReport then some (cdOk, s.secOut (s.reportOf (r.bytes 0 48)))
  else if r.op = opCert then
    some (cdOk, s.secOut (s.certificate r.arg))
  else if r.op = opKeyAgree then some (s.keyAgree r)
  else if r.op = opEndSession then
    some (if s.flag F.secStatusConf then (cdConfLocked, s.secOut [])
      else (cdOk, ({ s.setB F.secStatusSession false with sec.secret := none } : State).secOut []))
  else if r.op = opSeal then
    some (if s.setValid r.arg && s.flag (F.isDescHouse r.arg)
      then (cdOk, (s.setBitF (F.secSealSealed (r.arg / 32)) (r.arg % 32) true).secOut [])
      else (cdNotHouse, s.secOut []))
  else if r.op = opBundleOpen then
    match (bundleOpenRun r).go (s.secOut []) with
    | (.ok c, s) => some (c, s)
    | (.error (.fault c k su d u), s) => some (cdBadInput, s.record c 0 (u.getD uSec) k su none none d)
    | (.error _, _) => none
  else
    some (if !(s.flag (F.bundleStatValid r.arg)) then (cdBadInput, s.secOut [])
      else if s.slotBusy r.arg then (cdInUse, s.secOut [])
      else (cdOk, (s.slotClose r.arg).secOut []))

/-- A command ends with its code (17 R455). -/
def execSecCommandDone (s : State) : Host.Outcome State Fault Refusal :=
  work s fun s =>
    match s.sec.run with
    | none => s
    | some r =>
      match s.secRun r with
      | none => s
      | some (c, s) => { (s.setB F.secResultDone true).setF F.secResultCode c with sec.run := none }

end Sys2Proof.Machine
end

