-- ==== Sys2Proof/Machine/Restore.lean ====
section
/-! DEFINITION. RESTORE: its checks in order, the pages, the twin payload and the step record, and the
comparison with the digest rings (18 R474–R477). -/
namespace Sys2Proof.Machine

/-! ### The command (18 R474, R480) -/

def rcOk : Nat := 0
def rcBusy : Nat := 1
def rcBadImage : Nat := 2
def rcSvnLow : Nat := 3
def rcRegions : Nat := 4
def rcNoBundle : Nat := 5
def rcTwinMiss : Nat := 6
def rcDigest : Nat := 7

/-- An active graph, an open update, a command in flight or an open snapshot (18 R475 row 1). -/
def State.ctxBusy (s : State) (x : Nat) : Bool :=
  !(s.graphsOf x).isEmpty || (s.upd x).isSome || !(s.col1 x).cmds.isEmpty || !(tget [] s.rmt.cmds x).isEmpty
    || s.snapOpen x

/-- A write of RES_CMD. -/
def State.resCmdWrite (s : State) (v : Nat) : State :=
  match s.regRefused (regOr F.resCmdOp.off) v with
  | some s => s
  | none =>
    if !(s.flag F.resCmdstDone) then s.rejected F.resCmdOp
    else if bits v 0 3 != 1 then s
    else
      let x := bits v 8 8
      let run : RestoreRun := { ctx := x, addr := bits v 16 36 * 64, busy := s.ctxBusy x, asked := false, ring := [] }
      { s.setB F.resCmdstDone false with res.restore := some run }

def execRestore (value : Word64) (s : State) : Host.Outcome State Fault Refusal :=
  regWork s F.resCmdOp.off fun s => s.resCmdWrite value.toNat

/-! ### The image (18 R470) -/

/-- An access that a check makes: a fault fails the check. -/
def orNone {α : Type} (m : M α) : M (Option α) :=
  tryCatch (some <$> m) fun e => match e with
    | .fault _ _ _ _ _ => pure none
    | e => throw e

/-- What a header says: its clear part and its opened block. -/
structure ImgHead where
  clear : List Byte
  block : List Byte

def ImgHead.step (h : ImgHead) : Nat := fieldAt h.clear 24 8
def ImgHead.nreg (h : ImgHead) : Nat := fieldAt h.clear 6 1
def ImgHead.applied (h : ImgHead) : Nat := fieldAt h.block 136 8
/-- Region `i` as the header keeps it, and the identifier of its bundle. -/
def ImgHead.region (h : ImgHead) (i : Nat) : List Byte := slice h.block (144 + 47 * i) 47
def ImgHead.bundle (h : ImgHead) (i : Nat) : List Byte := slice (h.region i) 18 16

/-- Row 2: the header's tag, MAGIC, VERSION, job and rank. -/
def readHead (x image : Nat) : M (Option ImgHead) := do
  let b ← compRead 0 (some x) image 4096
  let s ← getS
  let clear := b.take 64
  if fieldAt clear 0 4 != 0x4E53514B || fieldAt clear 4 2 != 1 || slice clear 8 16 != s.jobId x
      || fieldAt clear 32 2 != s.getF (F.resRankRank x) then return none
  return (Config.gcmOpen (keyU (s.jobId x) (fieldAt clear 24 8)) (nonceOf 0xFFFFFFFF 0) clear (slice b 64 4016)
    (slice b 4080 16)).map fun p => ⟨clear, p⟩

/-- The open bundle slot of an identifier. -/
def State.openBundle (s : State) (id : List Byte) : Option Nat :=
  (upTo 64).find? fun b => s.flag (F.bundleStatValid b) && s.bundleId b == id

/-- Row 4: the region list is the image's, and can be restored; then every bundle is open. -/
def regionsCode (s : State) (x : Nat) (h : ImgHead) (bs : List (List Byte)) : Nat :=
  let is := upTo bs.length
  if h.nreg != bs.length || !(s.regionsOk x bs)
    || (bs.zip is).any (fun p => p.1.take 18 != (h.region p.2).take 18) then rcRegions
  else if is.any fun i => leNat (h.bundle i) != 0 && (s.openBundle (h.bundle i)).isNone then rcNoBundle
  else rcOk

/-- The key of region `i` of an image. -/
def State.imageKey (s : State) (x : Nat) (h : ImgHead) (i : Nat) : List Byte :=
  let job := s.jobId x
  match (if leNat (h.bundle i) = 0 then none else s.openBundle (h.bundle i)) with
  | none => keyU job h.step
  | some b => s.keyR job h.step { region0 with bslot := b }

/-- A page record: region, page, tag and content, where its tag is valid. -/
def readPage (x image : Nat) (h : ImgHead) (n : Nat) : M (Option (Nat × Nat × List Byte × List Byte)) := do
  let b ← compRead 0 (some x) (image + 4096 + 2097216 * n) 2097216
  let s ← getS
  let i := fieldAt b 0 4
  let p := fieldAt b 4 8
  if !(zeroAt b 12 36) then return none
  let tag := slice b 48 16
  return (Config.gcmOpen (s.imageKey x h i) (nonceOf i p) [] (b.drop 64) tag).map fun c => (i, p, tag, c)

/-- Row 5: every page once, each valid, and the trailer. -/
def readPages (x image len : Nat) (h : ImgHead) (want : List (Nat × Nat)) :
    M (Option (List (Nat × Nat × List Byte))) := do
  let n := want.length
  if len != imageLen n || fieldAt h.clear 40 8 != imageLen n then return none
  let got ← (upTo n).mapM fun k => readPage x image h k
  let ps := got.filterMap id
  let keys := ps.map fun p => (p.1, p.2.1)
  if ps.length != n || !(want.all keys.contains) then return none
  let t ← compRead 0 (some x) (image + 4096 + 2097216 * n) 128
  let tags := ps.map fun p => p.2.2.1
  if fieldAt t 0 8 != n || slice t 8 48 != shaBytes tags.flatten || !(zeroAt t 56 56) then return none
  if (Config.gcmOpen (keyU ((← getS).jobId x) h.step) (nonceOf 0xFFFFFFFF 1) (t.take 112) [] (t.drop 112)).isNone then
    return none
  return some (ps.map fun p => (p.1, p.2.1, p.2.2.2))

/-! ### The twin entry (18 R471, R475 row 6) -/

/-- The entry's bytes: from the local ring, or asked of the twin by a READ. -/
def twinRead (x conn key off slot size : Nat) : M (Option (List Byte)) := do
  let s ← getS
  if conn = 0xFFFFFFFF then orNone (cvaRead (dieUnit 0) x (s.getF (F.resTwlocalCva x) + slot * size) size)
  else
    match s.connOf x conn, s.res.restore with
    | some k, some r =>
      if r.ring.length = size then return some r.ring
      if r.asked then
        if (s.slot k).has (.restore x) then stop .wait else return none
      let s := { s with res.restore := some { r with asked := true } }
      set (s.rmtMessage k { owner := .restore x, opc := opReadReq, len := size,
                            axh := some { key := BitVec.ofNat 32 key, length := BitVec.ofNat 32 size,
                                          offset := BitVec.ofNat 64 (off + slot * size), imm := 0, reserved := 0 } })
      return some []
    | _, _ => return none

/-- Row 6: the payload of the entry of step `s`; a context without twin regions has none to look for. -/
def twinOk (b : List Byte) (step n : Nat) : Bool :=
  fieldAt b 0 8 == step && fieldAt b 16 8 == n && slice b 24 16 == (shaBytes (slice b 64 n)).take 16

/-! ### Writing back (18 R475) -/

/-- Where a virtual address lies by its leaf alone: protection is ignored. -/
def rawTgt (x a : Nat) : M Tgt := do
  let r : Region := { region0 with base := a / pageSize * pageSize }
  match ← pageTgt x r 0 with
  | .hbm n o => return .hbm n (o + a % pageSize)
  | .comp c => return .comp (c + a % pageSize)

/-- A range of a region written, protection ignored. -/
def rawWrite (x : Nat) (r : Region) (a : Nat) (bs : List Byte) : M Unit :=
  if r.house then hbmWrite (some x) r.hset a bs
  else (pageList a bs.length).forM fun p => do
    let part := (bs.drop (p.1 - a)).take p.2
    match ← rawTgt x p.1 with
    | .hbm n o => hbmWrite (some x) n o part
    | .comp c => compWrite 0 (some x) c part

/-- The twin payload cut into the twin regions. -/
def writeTwins (x : Nat) : List Region → List Byte → M Unit
  | [], _ => pure ()
  | r :: rs, bs =>
    if r.twin then do
      rawWrite x r r.base (bs.take r.length)
      writeTwins x rs (bs.drop r.length)
    else writeTwins x rs bs

/-- A restore failed: what its regions hold is undefined. -/
def State.regionsLost (s : State) (x : Nat) : State :=
  match (regionBytes x).go s with
  | (.error _, _) => s
  | (.ok bs, s) => (bs.map regionOf).foldl (fun s r =>
      let f := s.freshBytes r.length
      match (rawWrite x r r.base f.1).go f.2 with
      | (.ok _, s) => s
      | (.error _, _) => s) s

/-! ### Digests (18 R476) -/

/-- The chunks of a shard hash to their restored digest records. -/
def chunksOk (x : Nat) (h : Shard) (g : Grp) : M Bool := do
  let l ← (upTo h.nChunks).mapM fun c => do
    let n := h.chunkCount c
    let b ← shRead 0 x h (h.master + 131072 * c) (4 * n)
    let wc := workingCopy g ((upTo n).map fun i => w32At b (4 * i))
    let d ← shRead 0 x h (h.digest + 32 * c) 32
    return chunkDigests g (wc.1, wc.2.1) b == d
  return l.all id

/-- One check entry: whether it passes, and whether its shard was left to the peers. -/
def checkEntry (x step : Nat) (e : List Byte) : M (Bool × Bool) := do
  let b ← cvaRead (dieUnit 0) x (fieldAt e 0 8) 64
  if !shardOk b || !(zeroAt e 20 12) then return (false, false)
  let h := shardOf b
  let gb ← grpBytes h.group
  if !((← getS).grpOk x gb) then return (false, false)
  if !(← chunksOk x h (grpOf gb)) then return (false, false)
  let nsh := fieldAt e 16 2
  let i := fieldAt e 18 2
  let a := fieldAt e 8 8 + step % 1024 * ((64 + 32 * nsh + 63) / 64 * 64)
  if leNat (← cvaRead (dieUnit 0) x a 8) != step then return (true, true)
  let d ← cvaRead (dieUnit 0) x (a + 64 + 32 * i) 32
  let w ← shardDigest x h 0
  let m ← shardDigest x h 16
  let same := fun (r q : List Byte) => leNat r == 0 || r == q
  return (same (d.take 16) w && same (d.drop 16) m, false)

/-- Row 7: the count of shards left to the peers, unless a digest differs. -/
def checkDigests (x step at0 n : Nat) : M (Option Nat) := do
  let rs ← (upTo n).mapM fun k => do
    checkEntry x step (← cvaRead (dieUnit 0) x (at0 + 32 * k) 32)
  return if rs.all (·.1) then some (rs.filter (·.2)).length else none

/-! ### The whole (18 R475) -/

/-- The step record, COL_LASTAPP and the threshold of the next snapshot. -/
def finishRestore (x : Nat) (h : ImgHead) (rs : List Region) : M Unit := do
  (snapPages rs).forM fun p => protectPage x (rs.getD p.1 region0) p.2 false
  match (← getS).grant x with
  | some g => (pageList g.steprec 128).forM fun p => do
      rawWrite x region0 p.1 (slice h.block (p.1 - g.steprec) p.2)
  | none => pure ()
  setS fun s => (s.setF (F.colLastappStep x) (fieldAt h.block 128 8)).setF (F.resNextApplied x)
    (h.applied + s.getF (F.resCtlK x))

/-- The pages, the twin payload and the digest checks, once rows 1 to 6 pass. -/
def writeBack (x : Nat) (h : ImgHead) (rs : List Region) (ps : List (Nat × Nat × List Byte)) (twin rr : List Byte) :
    M (Nat × Nat) := do
  ps.forM fun p =>
    let r := rs.getD p.1 region0
    rawWrite x r (r.at p.2.1) p.2.2
  writeTwins x rs twin
  let some n ← (do return (← orNone (checkDigests x h.step (fieldAt rr 32 8) (fieldAt rr 40 4))).join)
    | return (rcDigest, 0)
  finishRestore x h rs
  return (rcOk, n)

/-- Rows 2 to 7 of a restore record, and what follows them: the code and UNCHECKED. -/
def restoreGo (x : Nat) (rr : List Byte) : M (Nat × Nat) := do
  let image := fieldAt rr 0 8
  let some h ← (do return (← orNone (readHead x image)).join) | return (rcBadImage, 0)
  if (← getS).getF F.secSvnSvn < fieldAt h.clear 36 4 then return (rcSvnLow, 0)
  let some bs ← orNone (regionBytes x) | return (rcRegions, 0)
  let code := regionsCode (← getS) x h bs
  if code != rcOk then return (code, 0)
  let rs := bs.map regionOf
  let some ps ← (do return (← orNone (readPages x image (fieldAt rr 8 8) h (snapPages rs))).join)
    | return (rcBadImage, 0)
  let n := twinBytes rs
  let size := 64 + (n + 63) / 64 * 64
  let slot := h.step % Nat.max 1 ((← getS).getF (F.resCtlTdepth x))
  let some b ← (if n = 0 then pure (some []) else twinRead x (fieldAt rr 16 4) (fieldAt rr 20 4) (fieldAt rr 24 8) slot size)
    | return (rcTwinMiss, 0)
  if n != 0 && b.isEmpty then return (8, 0)
  if n != 0 && !(twinOk b h.step n) then return (rcTwinMiss, 0)
  writeBack x h rs ps (slice b 64 n) rr

/-- The command completes with its code; the record written is read whole again (07 R202), or `none` where it
cannot be read yet. -/
def State.restoreEnd (s : State) (x code unchecked : Nat) : Option State :=
  let s := if code = rcOk then s else s.regionsLost x
  let s := ((s.setB F.resCmdstDone true).setF F.resCmdstCode code).setF F.resCmdstUnchecked unchecked
  let s : State := { s with res.restore := none }
  if code = rcOk then (s.dropGroups x).readStepRec x true else some s

/-- A RESTORE ends; one that must wait for a link, or for the answer of a remote twin ring, stays. -/
def execRestoreCommandDone (s : State) : Host.Outcome State Fault Refusal :=
  work s fun s =>
    match s.res.restore with
    | none => s
    | some r =>
      if r.busy then (s.restoreEnd r.ctx rcBusy 0).getD s else
      match (do
          let some rr ← orNone (compRead 0 (some r.ctx) r.addr 64) | return (rcBadImage, 0)
          restoreGo r.ctx rr : M (Nat × Nat)).go s with
      | (.ok c, t) => if c.1 = 8 then t else (t.restoreEnd r.ctx c.1 c.2).getD s
      | (.error (.fault c k su d u), t) =>
        ((t.restoreEnd r.ctx rcBadImage 0).getD t).stopFault r.ctx 0 uRes none (.fault c k su d u)
      | (.error _, _) => s

/-- A write of RES_TWIN with an open connection starts the sends of the next close (18 R472). -/
def State.twinWrite (s : State) (x v : Nat) : State :=
  match s.regRefused (regOr (F.resTwinConn x).off) v with
  | some s => s
  | none =>
    let s := s.regWrite (regOr (F.resTwinConn x).off) v
    if (s.connOf x (s.getF (F.resTwinConn x))).isSome then s.setF (F.resTwinstState x) 1
    else if s.getF (F.resTwinConn x) = 0xFFFFFFFF then s.setF (F.resTwinstState x) 0 else s

end Sys2Proof.Machine
end

