-- ==== Sys2Proof/Machine/Errors.lean ====
section
/-! DEFINITION. The error log, its overflow, and the audit of the Wells (19 R482–R493). -/
namespace Sys2Proof.Machine

/-! ### Storing a record (19 R484–R488) -/

/-- The records of a die stack have a way to P0 (19 R487, 14 R395). -/
def State.logPath (s : State) (d : Nat) : Bool := d != 3 || !(s.departed 1) || !(s.departed 2)

def State.freeEntries (s : State) : List Nat := (upTo 128).filter fun i => (tget none s.err.log i).isNone

/-- Log index of the record that a record names as its cause, where it has been stored. -/
def State.linkOf (s : State) (r : Rec) : Option Nat :=
  match r.parent with
  | none => none
  | some p =>
    let i := tget 0 s.err.index p
    if i = 0 then none else some (i - 1)

/-- The 32 bytes of a record as stored under number `n` (19 R484). -/
def recBytes (r : Rec) (link : Option Nat) (n : Nat) : List Byte :=
  leBytes 1 (place r.cls 0 2 + place (ofBool link.isSome) 2 1 + place (ofBool r.ctx.isNone) 3 1)
    ++ leBytes 1 r.die ++ leBytes 1 r.unit ++ leBytes 1 r.kind ++ leBytes 2 r.sub ++ leBytes 1 (r.ctx.getD 0)
    ++ leBytes 1 (link.getD 0) ++ leBytes 4 r.seq ++ leBytes 4 n ++ leBytes 8 r.watch ++ leBytes 8 r.detail

/-- COUNT and FULL, as the log now stands. -/
def State.logStatus (s : State) : State :=
  let n := s.freeEntries.length
  (s.setF F.errStatusCount (128 - n)).setB F.errStatusFull (decide (n ≤ 4))

/-- A record takes entry `i`, with a Bell unless it is a corrected one and those ring none. -/
def State.storeRec (s : State) (r : Rec) (i : Nat) : State :=
  let n := (s.getF F.errSeqLogseq + 1) % 2 ^ 32
  let e : LogE := ⟨recBytes r (s.linkOf r) n, r.rid⟩
  let s : State := { s.sramFill (logKey + 32 * i) 32 with
    err.log := tput none s.err.log i (some e), err.index := tput 0 s.err.index r.rid (i + 1) }
  let s := (s.setF F.errSeqLogseq n).logStatus
  let ring := (r.cls != clsCorrected || s.flag F.errCfgBellcorr) && (!s.fatal || r.cls == clsFatal)
  if ring then s.bell bellError r.cls 0 i else s

/-- The records that an action of R490 makes are never raised in turn. -/
def State.markEsc (s : State) (rid : Nat) : State :=
  { s with err.recQ := s.err.recQ.map fun r => if rid ≤ r.rid then { r with esc := true } else r }

/-- A record is lost: it is counted, and its class raised by one (19 R490). -/
def State.loseRec (s : State) (r : Rec) : State :=
  let s := s.incF F.errOvf 1
  if r.esc then s else
  let up := Nat.min 3 (r.cls + 1)
  let s := s.setF F.errStatusOvfclass (Nat.max up (s.getF F.errStatusOvfclass))
  let from0 := s.err.nextRid
  if s.fatal then s
  else if r.cls = clsCorrected then
    match r.ctx with
    | some x => (s.teardown x (some r.rid) none).markEsc from0
    | none => s
  else if r.cls = clsContext then (s.tearTouching r.die (some r.rid)).markEsc from0
  else s.deviceFatal

/-- The oldest record of a die stack reaches the log: it takes the lowest free entry, of which the last four
are kept for device-fatal records. One whose cause is still on its way waits for it. While the path is broken
the stack holds 16 records, and one more is lost (19 R487). -/
def State.deliver (s : State) (d : Nat) : State :=
  match s.err.recQ.find? fun r => r.die = d with
  | none => s
  | some r =>
    let waits := match r.parent with
      | some p => s.err.recQ.any fun q => q.rid = p
      | none => false
    if !(s.logPath d) then
      match (s.err.recQ.filter fun q => q.die = d)[16]? with
      | some q => ({ s with err.recQ := s.err.recQ.erase q } : State).loseRec q
      | none => s
    else if waits then s else
    let s : State := { s with err.recQ := s.err.recQ.erase r }
    let free := s.freeEntries
    match free with
    | [] => s.loseRec r
    | i :: _ => if r.cls = clsFatal ∨ 4 < free.length then s.storeRec r i else s.loseRec r

def execErrorRecordStore (die : Fin 4) (s : State) : Host.Outcome State Fault Refusal :=
  act s fun s => s.deliver die.val

/-- A write of ERR_ACK: the entry is free. The device-fatal state does not stop it (19 R483, R486). -/
def State.errAckWrite (s : State) (v : Nat) : State :=
  match s.regRefused (regOr F.errAckIndex.off) v with
  | some s => s
  | none =>
    let i := bits v 0 7
    { s with err.log := tput none s.err.log i none }.logStatus

def execErrAck (value : BitVec 32) (s : State) : Host.Outcome State Fault Refusal :=
  act s fun s => s.errAckWrite value.toNat

/-! ### The Wells (19 R492) -/

/-- Instances of a Well: package, die stacks, valid producer ends, link directions 2·stack + port. -/
def State.wellInsts (s : State) (w : Nat) : List Nat :=
  if w = 1 ∨ w = 3 then upTo 4
  else if w = 2 then (upTo 256).filter fun n => s.qValid n 0
  else if w = 4 then upTo 8
  else [0]

/-- A producer task holds a credit that it has not signalled (09 R261). -/
def State.creditHeld (s : State) (n : Nat) : Bool :=
  (s.graphsOf (s.qOwner n)).any fun g => g.tasks.any fun t =>
    t.acquired && !t.st.ended && match t.sem with
      | some (m, _) => m == s.getF (F.stqCfgWsem n)
      | none => false

/-- A transfer or a credit message of a queue end is in flight (09 R268). -/
def State.queueBusy (s : State) (n : Nat) : Bool :=
  s.rmt.slot.any fun e => (e.2.unacked ++ e.2.queued).any fun t => match t.owner with
    | .queue m _ => m == n
    | .credit m => m == n
    | _ => false

/-- A quiescent point of an instance (06 R195, 08 R248, 09 R261, 11 R326, 14 R378, 18 R480). -/
def State.wellQuiet (s : State) (w i : Nat) : Bool :=
  if w = 0 then !(s.sched.graphs.any fun g => g.checking)
  else if w = 1 then s.smithy.exp.isNone && !(s.smithy.upd.any fun e => match e.2 with
    | some u => u.slots.any fun c => c.1 / 4 == i
    | none => false)
  else if w = 2 then !(s.creditHeld i) && !(s.queueBusy i)
  else if w = 3 then
    !(s.rmt.slot.any fun e => slotDie e.1 == i && !(s.preempted e.2.conn.owner) && e.2.unacked.any fun t => !t.paid)
  else if w = 4 then
    let v := s.dport (neighbour (i / 2) (i % 2)) (1 - i % 2)
    v.gap.isEmpty && (s.dport (i / 2) (i % 2)).gap.isEmpty
  else if w = 5 then !(s.res.ctx.any fun e => !e.2.snap.copying.isEmpty)
  else true

def sumF (s : State) (l : List Fld) : Int := ((l.foldl (fun (n : Nat) f => n + s.getF f) (0 : Nat) : Nat) : Int)

/-- The difference that an instance's equation leaves. -/
def State.wellDiff (s : State) (w i : Nat) : Int :=
  if w = 0 then sumF s [F.schEmbIssue] - sumF s [F.schEmbReturn, F.schEmberInuse]
  else if w = 1 then sumF s [F.smyRetIssue i] - sumF s [F.smyRetReturn i]
  else if w = 2 then
    sumF s [F.semCount (s.getF (F.stqCfgWsem i)), F.semCount (s.getF (F.stqCfgTsem i)), F.stqIssue i]
      - sumF s [F.stqReturn i, F.stqReclaim i] - s.stqSlots i
  else if w = 3 then
    let held := s.rmt.slot.foldl (fun (n : Nat) e => if slotDie e.1 = i then n + paidOf e.2.unacked else n) 0
    sumF s [F.rmtTxcIssue i] - sumF s [F.rmtTxcReturn i, F.rmtTxcReclaim i] - held
  else if w = 4 then
    let v := s.dport (neighbour (i / 2) (i % 2)) (1 - i % 2)
    let held := v.held.foldl (fun (n : Nat) e => n + e.2.length) 0
    sumF s [F.d2dCrIssue (i / 2) (i % 2)] - sumF s [F.d2dCrReturn (i / 2) (i % 2), F.d2dCrReclaim (i / 2) (i % 2)] - held
  else if w = 5 then
    sumF s [F.resStgIssue] - sumF s [F.resStgReturn, F.resStgReclaim] - sumF s (ctxIds.map F.resStgHeld)
  else sumF s (ctxIds.map F.accEnergy) + sumF s [F.accHouseNj, F.accRetiredNj] - sumF s [F.accTotalNj]

/-- One instance at its quiescent point: it passes, or the module stops. -/
def State.auditOne (s : State) (w i : Nat) : State :=
  if s.fatal then s else
  let d := s.wellDiff w i
  if d = 0 then s.incF F.errAudits 1
  else s.fatalError 0 uAudit kAudit (w + 256 * i) (d % 2 ^ 64).toNat none

/-- An audit of the selected Wells begins: an instance that is not quiet waits for its point. -/
def State.audit (s : State) : State :=
  let l := ((upTo 7).filter fun w => s.bitF F.errAuditWells w).flatMap fun w => (s.wellInsts w).map fun i => (w, i)
  let now := l.filter fun p => s.wellQuiet p.1 p.2
  let later := l.filter fun p => !(s.wellQuiet p.1 p.2)
  let s := now.foldl (fun s p => s.auditOne p.1 p.2) (s.setF F.errAuditNotquiet 0)
  let s : State := { s with err.audit := if s.fatal then [] else later }
  s.setB F.errAuditDone s.err.audit.isEmpty

/-- The automatic audit. One on demand that still waits goes on in it. -/
def execAuditTimer (s : State) : Host.Outcome State Fault Refusal :=
  work s fun s =>
    let done := s.flag F.errAuditDone
    let s := s.audit
    if done then s.setB F.errAuditDone true else s

/-- A write of ERR_AUDIT; GO starts an audit on demand, unless one runs. -/
def State.auditWrite (s : State) (v : Nat) : State :=
  let r := regOr F.errAuditGo.off
  match s.regRefused r v with
  | some s => s
  | none =>
    if bit v 0 && !(s.flag F.errAuditDone) then (s.rejected F.errAuditGo).regWrite r v
    else
      let s := s.regWrite r v
      if bit v 0 then s.audit else s

def execAuditGo (value : Word64) (s : State) : Host.Outcome State Fault Refusal :=
  regWork s F.errAuditGo.off fun s => s.auditWrite value.toNat

/-- 10 ms are over for an instance: it is audited if its point has come, and NOTQUIET otherwise. -/
def execAuditQuietTimeout (well : Fin 7) (inst : BitVec 8) (s : State) : Host.Outcome State Fault Refusal :=
  work s fun s =>
    let p := (well.val, inst.toNat)
    if !(s.err.audit.contains p) then s else
    let s : State := { s with err.audit := s.err.audit.erase p }
    let s := if s.wellQuiet p.1 p.2 then s.auditOne p.1 p.2 else s.setBitF F.errAuditNotquiet p.1 true
    let s : State := if s.fatal then { s with err.audit := [] } else s
    if s.err.audit.isEmpty then s.setB F.errAuditDone true else s

end Sys2Proof.Machine
end

