-- ==== Sys2Proof/Machine/Pins.lean ====
section
/-! DEFINITION. What the module answers on its side pins: the SMBus responder and the TAP (21 R524, R525). -/
namespace Sys2Proof.Machine

/-! ### SMBus (21 R525) -/

/-- The responder is addressed, and answers. -/
def State.smbusHears (s : State) (addr : BitVec 7) : Bool :=
  s.power.pwrOk && addr.toNat == 0x58 + s.power.smbAddr

/-- An answer; a command for another address, or with PWR_OK low, gets none. -/
def State.smbusAnswer (s : State) (addr : BitVec 7) (o : Out) : Host.Outcome State Fault Refusal :=
  .next (if s.smbusHears addr then s.emit o else s)

/-- Measured values read 0 until boot step 5 has passed. -/
def State.measured (s : State) (v : Nat) : Nat := if s.bitF F.presentPkgPresent rPower then v else 0

/-- STATE of PWR_STATUS (15 R414). -/
def State.pwrCode (s : State) : Nat := if s.power.st = .run then 2 else 1

/-- The module state word. -/
def State.smbusState (s : State) : Nat :=
  place s.pwrCode 0 2 + place (s.getF F.bootStatusHalted) 2 1 + place (ofBool s.fatal) 3 1
    + place (ofBool s.alert) 4 1 + place (ofBool s.degraded) 5 1

/-- TEMP: hottest compute sensor, base sensor and HBM stack of each die stack. -/
def State.smbusTemps (s : State) : List Byte :=
  (upTo 4).flatMap fun d =>
    let h := s.getF (F.pwrTempThbm d)
    leBytes 1 (s.measured (s.getF (F.pwrTempTcmax d))) ++ leBytes 1 (s.measured (s.getF (F.pwrTempTbmax d)))
      ++ leBytes 1 (s.measured (maxOf ((upTo 4).map fun j => bits h (8 * j) 8)))

def execSmbusStatus (addr : BitVec 7) (s : State) : Host.Outcome State Fault Refusal :=
  s.smbusAnswer addr (.smbus (leBytes 2 s.smbusState))
def execSmbusBoot (addr : BitVec 7) (s : State) : Host.Outcome State Fault Refusal :=
  s.smbusAnswer addr (.smbus (leBytes 1 (s.getF F.bootStatusStep) ++ leBytes 1 (s.getF F.bootStatusInstance)
    ++ leBytes 2 (s.getF F.bootStatusCode)))
def execSmbusVin (addr : BitVec 7) (s : State) : Host.Outcome State Fault Refusal :=
  s.smbusAnswer addr (.smbus (leBytes 2 (s.measured s.loops.inputMv)))
def execSmbusPin (addr : BitVec 7) (s : State) : Host.Outcome State Fault Refusal :=
  s.smbusAnswer addr (.smbus (leBytes 2 (s.measured (s.getF F.pwrInputMw / 1000))))
def execSmbusCap (addr : BitVec 7) (s : State) : Host.Outcome State Fault Refusal :=
  s.smbusAnswer addr (.smbus (leBytes 2 (s.getF F.pwrCfgCap)))
def execSmbusTemp (addr : BitVec 7) (s : State) : Host.Outcome State Fault Refusal :=
  s.smbusAnswer addr (.smbus s.smbusTemps)
def execSmbusSerial (addr : BitVec 7) (s : State) : Host.Outcome State Fault Refusal :=
  s.smbusAnswer addr (.smbus (leBytes 8 Config.serial.toNat))
def execSmbusPart (addr : BitVec 7) (s : State) : Host.Outcome State Fault Refusal :=
  s.smbusAnswer addr (.smbus (leBytes 2 0x0576))

/-- Every write has its command byte NAKed. -/
def execSmbusWriteNak (addr : BitVec 7) (_code : Byte) (s : State) : Host.Outcome State Fault Refusal :=
  s.smbusAnswer addr .smbusNak

/-! ### The TAP (21 R524) -/

def irIdcode : Nat := 0
def irBypass : Nat := 1
def irSample : Nat := 2
def irPreload : Nat := 3
def irExtest : Nat := 4

/-- The boundary instructions are accepted. -/
def State.scanOk (s : State) : Bool := s.power.runEn && !s.power.rstN

/-- A boundary instruction that is not accepted selects BYPASS while RST_N is high, and nothing otherwise. -/
def State.scanRefused (s : State) : State := if s.power.rstN then { s with power.tapIr := irBypass } else s

/-- EXTEST drives the boundary register on the pins. -/
def execExtest (pins : Word64) (s : State) : Host.Outcome State Fault Refusal :=
  .next (if s.scanOk then
      { s with power.tapIr := irExtest, power.tapBsr := pins }.emit (.pins pins)
    else s.scanRefused)

/-- SAMPLE captures the pins and shifts them out. -/
def execSample (pins : Word64) (s : State) : Host.Outcome State Fault Refusal :=
  .next (if s.scanOk then
      { s with power.tapIr := irSample, power.tapBsr := pins }.emit (.tdo pins.toNat)
    else s.scanRefused)

/-- PRELOAD fills the boundary register. -/
def execPreload (pins : Word64) (s : State) : Host.Outcome State Fault Refusal :=
  .next (if s.scanOk then { s with power.tapIr := irPreload, power.tapBsr := pins } else s.scanRefused)

/-- The bypass registers of the four stacks capture 0 (IEEE 1149.1; log entry 13). -/
def execBypass (s : State) : Host.Outcome State Fault Refusal :=
  .next ({ s with power.tapIr := irBypass }.emit (.tdo 0))

/-- IDCODE of a die stack; bit 0 reads 1 (IEEE 1149.1; log entry 13). -/
def idcode : Nat :=
  place Config.partRev.toNat 28 4 + place 0x0576 12 16 + place Config.jedec.toNat 1 11 + 1

/-- The chain of four, first out in the low bits. -/
def execIdcode (s : State) : Host.Outcome State Fault Refusal :=
  .next ({ s with power.tapIr := irIdcode }.emit
    (.tdo ((upTo 4).foldl (fun v n => v + idcode * 2 ^ (32 * n)) 0)))

end Sys2Proof.Machine
end

