-- ==== Sys2Proof/Machine/Registers.lean ====
section
/-! DEFINITION. Control-space accesses (00 R7–R15; 05 R142, R144; 13 R365): what a read returns, what a write
of each register does, the halves of 64-bit registers, and the windows that carry them. -/
namespace Sys2Proof.Machine

/-! ### What a field reads as (00 R9) -/

/-- A status field of a core's engines (03 R77, 04 R109). SPANCNT shows the pushed segments only, and an idle matrix
engine's SEG0, ENDK, span and tag read 0 (log entry 40). -/
def State.engineView (s : State) (f : Fld) : Nat :=
  let g := 8 * (8 * dieOf f.off + (f.off % 0x1000000 - 0x100000) / 0x10000) + f.off % 0x10000 / 0x1000
  let o := f.off % 0x1000
  if o < 0x200 then
    let m := s.mat (2 * g + (o - 0x100) / 0x80)
    let r := o % 0x80
    if r = 0 then
      (if f.lo = 0 then (match m.st with | .idle => 0 | .opened => 1 | .folded => 2)
       else if f.lo = 2 then ofBool m.endK else m.waiting)
    else if r = 4 then (if f.lo = 0 then m.seg0 else m.blk)
    else if r = 8 then m.pushed else if r = 12 then m.tag else s.getF f
  else
    let v := s.vec g
    if o = 0x200 then (if f.lo = 0 then ofBool v.run.isSome else v.queue.length)
    else if o = 0x204 then
      (if f.lo = 16 then v.wbase / 65536
       else match (s.core g).inst with
         | some t => ofBool ((s.grant t.ctx).elim false (·.vmode))
         | none => 0)
    else if o = 0x208 then
      (match v.run with
       | some r => if f.lo = 0 then r.pass else r.chunk
       | none => 0)
    else s.getF f

/-- What the Smithy of a die stack is at: the context it works for, the state code and the chunks open (08 R248).
The coordinator's own work shows on P0: a request granted and still to be checked, and a trust pre-pass whose
sums are not all in (log entry 66). -/
def State.smyAt (s : State) (d : Nat) : Nat × Nat × Nat :=
  let chunks (u : Upd) : List ChunkS := u.slots.filterMap fun e => if e.1 / 4 = d then e.2 else none
  let busy (e : Nat × Option Upd) : Bool := e.2.elim false fun u => !(chunks u).isEmpty
  let last := tget 0 s.smithy.turn d
  match (s.smithy.upd.find? fun e => busy e && e.1 + 1 == last) <|> s.smithy.upd.find? busy with
  | some (x, some u) =>
    let c := chunks u
    (x, if c.any fun c => c.todo = 2 then 4 else 3, (c.filter (·.opened)).length)
  | _ =>
    if d != 0 then (0, 0, 0)
    else if s.smithy.exp.isSome then ((s.smithy.exp.map (·.ctx)).getD 0, 5, 0)
    else match s.smithy.upd.find? fun e => e.2.elim false fun u =>
        u.phase == .applied && !u.trust.isEmpty && (s.trustRatios e.1 u).isNone with
      | some (x, _) => (x, 2, 0)
      | none => match s.sched.granted.findSome? fun w => match w with
          | .update x => some x
          | _ => none with
        | some x => (x, 1, 0)
        | none => (0, 0, 0)

/-- Pages of the valid staging sets that nothing holds (18 R460). -/
def State.stgPool (s : State) : Nat :=
  ((upTo 4).foldl (fun n d => if bit (s.getF F.resCfgSvalid) d then n + s.setSize (s.stgSet d) / pageSize else n) 0)
    - (s.getF F.resStgIssue - s.getF F.resStgReturn - s.getF F.resStgReclaim)

/-- Log entries from `i` on that hold a record (19 R493). -/
def State.validWord (s : State) (i : Nat) : Nat := maskOf 64 fun j => (tget none s.err.log (i + j)).isSome

/-- The value of a field in effect; status that shows other state is read from that state. -/
def State.view (s : State) (f : Fld) : Nat :=
  if dieOff 0 ≤ f.off then
    let d := dieOf f.off
    let o := f.off % 0x1000000
    if 0x100000 ≤ o ∧ o % 0x10000 < 0x8000 then s.engineView f
    else if 0x100000 ≤ o ∧ o % 0x10000 = 0xC018 then
      (Config.blwTrim (8 * d + (o - 0x100000) / 0x10000)).toNat
    else if o = 0x20004 then
      (let a := s.smyAt d
       if f.lo = 0 then a.2.1 else if f.lo = 8 then a.1 else a.2.2)
    else s.getF f
  else if 0x30100 ≤ f.off ∧ f.off < 0x30180 then
    let d := (f.off - 0x30100) / 0x20
    let p := f.off % 0x20 / 4
    if f.lo = 0 then (Config.vtabMv d p).toNat else (Config.vtabFloor d p).toNat
  else if f = F.pwrStatusState then s.pwrCode
  else if f = F.pwrStatusAlert then ofBool s.alert
  else if f = F.pwrEnergyUj then s.getF F.accTotalNj / 1000
  else if f = F.secStatusState then (if s.reason = 0 then 1 else 2)
  else if f = F.secStatusReason then s.reason
  else if f = F.secStatusDiemask then s.dieMask
  else if f = F.resPoolFree then s.stgPool
  else if f = F.errValidLoValid then s.validWord 0
  else if f = F.errValidHiValid then s.validWord 64
  else if f = F.idPartRev then Config.partRev.toNat
  else if f = F.idSerialSerial then Config.serial.toNat
  else s.getF f

/-- The value a read of a register returns: WO fields read 0; before its block's function is up, reset
values (00 R9, 20 R503). -/
def State.regValue (s : State) (r : Reg) : Nat :=
  r.fields.foldl (fun n d =>
    n + place (if d.acc = .wo then 0 else if s.blockUp r.off then s.view d.f else d.f.reset) d.f.lo d.f.w) 0

/-! ### Reading (00 R11, 05 R144) -/

/-- RC fields of a register are cleared by the read; reading ERR_OVF clears OVFCLASS too (19 R493). -/
def State.rcClear (s : State) (r : Reg) : State :=
  if !s.blockUp r.off then s else
  let s := r.fields.foldl (fun s d => if d.acc = .rc then s.setF d.f 0 else s) s
  if r.off = F.errOvf.off then s.setF F.errStatusOvfclass 0 else s

def Reg.isRc (r : Reg) : Bool := r.fields.any fun d => d.acc == .rc


/-- Bytes of a log entry; a free one reads as zeros. -/
def State.logBytes (s : State) (i : Nat) : List Byte :=
  match tget none s.err.log i with
  | some e => e.bytes
  | none => []

/-- A word of the Ledger mirror: the newest 512 records, each at its LSEQ modulo 512 (20 R513). -/
def State.ledgerWord (s : State) (off : Nat) : Nat :=
  let l := s.boot.ledger.drop (s.boot.ledger.length - 512)
  match l.find? fun r => fieldAt r 4 4 % 512 == (off - 0x18000) / 64 with
  | some r => if s.blockUp off then fieldAt r (off % 64) 4 else 0
  | none => 0

/-- A word of the log, of the Ledger mirror or of the security buffers, which are read as bytes (17 R456, 19
R493, 20 R513). -/
def State.bufWord (s : State) (off : Nat) : Nat :=
  if 0x21000 ≤ off ∧ off < 0x22000 then fieldAt (s.logBytes ((off - 0x21000) / 32)) (off % 32) 4
  else if 0x18000 ≤ off ∧ off < 0x20000 then s.ledgerWord off
  else if 0x48000 ≤ off ∧ off < 0x50000 then leNat (readBytes 0 s.regs.secBuf (off - 0x48000) 4)
  else 0

/-- A word of these buffers is read. An uncorrectable error in a log entry is device-fatal and shows as LOGBAD
alone; what the read returns is a free value (19 R487, 05 R113). -/
def State.bufRead (s : State) (off : Nat) : Nat × State :=
  if 0x21000 ≤ off ∧ off < 0x22000 then
    let r := s.sramRead (logKey + (off - 0x21000)) 4
    match r.1 with
    | none => (s.bufWord off, r.2)
    | some _ => (r.2.fresh.1.toNat % 2 ^ 32, (r.2.fresh.2.setB F.errStatusLogbad true).deviceFatal)
  else (s.bufWord off, s)

/-- A 32-bit aligned read: the value, and what the read does. -/
def State.read32 (s : State) (link off : Nat) : Nat × State :=
  match regAt off with
  | some r =>
    let v := s.regValue r
    if r.width = 32 then (v, if r.isRc then s.rcClear r else s)
    else if r.isRc && s.blockUp off then
      (v % 2 ^ 32, { s.rcClear r with regs.rcHold := tput 0 s.regs.rcHold (holdKey link off) (v / 2 ^ 32 + 1) })
    else (v % 2 ^ 32, s)
  | none =>
    match if off % 8 = 4 then regAt (off - 4) else none with
    | some r =>
      if r.width != 64 then (0, s) else
      let k := holdKey link (off - 4)
      let h := tget 0 s.regs.rcHold k
      if h = 0 then (s.regValue r / 2 ^ 32, s)
      else (h - 1, { s with regs.rcHold := tput 0 s.regs.rcHold k 0 })
    | none => s.bufRead off

/-- A 64-bit aligned read: one register, or two halves, the lower first. A whole read of an RC counter leaves a high
word held from an earlier low read in place (log entry 40). -/
def State.read64 (s : State) (link off : Nat) : Nat × State :=
  match regAt off with
  | some r =>
    if r.width = 64 then (s.regValue r, if r.isRc then s.rcClear r else s)
    else
      let a := s.read32 link off
      let b := a.2.read32 link (off + 4)
      (a.1 + 2 ^ 32 * b.1, b.2)
  | none =>
    let a := s.read32 link off
    let b := a.2.read32 link (off + 4)
    (a.1 + 2 ^ 32 * b.1, b.2)

/-- An access that the rules give an effect: a naturally aligned word (05 R144). -/
def accessOk (off : Nat) : AccessSize → Bool
  | .w32 => off % 4 == 0
  | .w64 => off % 8 == 0
  | .other _ => false

/-- An access without effect is counted (05 R144). -/
def State.badAccess (s : State) (link : Nat) : State := s.incF (F.plCtr6 link) 1

def State.ctlLoad (s : State) (link off : Nat) (size : AccessSize) : Nat × State :=
  if !accessOk off size then (0, s.badAccess link)
  else match size with
    | .w32 => s.read32 link off
    | _ => s.read64 link off

/-! ### Arming writes (20 R504) -/

/-- A house set that can hold a table. -/
def State.tableSet (s : State) (n size : Nat) : Bool := s.houseSet n && decide (size ≤ s.setSize n)

/-- A write of a register with an arming field: one that arms brings its function up, one that may not arm
leaves every I-class field and makes one record; any other is an ordinary write. -/
def State.armWrite (s : State) (v : Nat) (valid : Fld) (ok : Bool) (ready : State → State) : State :=
  let r := regOr valid.off
  match s.regRefused r v with
  | some s => s
  | none =>
    if s.initLocked valid || valid.of v = 0 then s.fieldsWrite r.fields v
    else if ok then ready (s.fieldsWrite r.fields v)
    else (s.rejected valid).fieldsWrite (r.fields.filter fun d => d.cls != .init) v

def State.accCfgWrite (s : State) (v : Nat) : State :=
  s.armWrite v F.accCfgGvalid (s.tableSet (F.accCfgGset.of v) 0x10000) fun s => s.markPkg rAcc true

def State.colCfgWrite (s : State) (v : Nat) : State :=
  s.armWrite v F.colCfgMvalid (s.tableSet (F.colCfgMset.of v) 0x800000) fun s => s.markPkg rCol true

def State.smyCfgWrite (s : State) (v : Nat) : State :=
  s.armWrite v F.smyCfgGvalid (s.tableSet (F.smyCfgGset.of v) 0x80000) fun s => s.markPkg rSmy true

/-- Each staging set put in service is sealed, with every member on its own die stack (18 R460). -/
def State.resCfgWrite (s : State) (v : Nat) : State :=
  let sv := F.resCfgSvalid.of v
  let ok := (upTo 4).all fun d =>
    let n := bits (F.resCfgSset.of v) (8 * d) 8
    !(bit sv d) || (s.houseSet n && s.sealed n && (s.setDies n).all (· == d))
  s.armWrite v F.resCfgSvalid ok fun s => s.markPkg rRes true

/-- Bytes 64 to 255 of every slot record are zeroed, with good check bits (11 R330). -/
def State.zeroSlots (s : State) (n : Nat) : State :=
  let gone (k : Nat) : Bool := match s.setOffset n k with
    | some o => decide (o < 0x1000000) && decide (64 ≤ o % 256)
    | none => false
  let ns := 2 ^ s.getF (F.isDescLns n)
  let b := s.getF (F.isDescBstack n)
  let t := (upTo ns).foldl (fun s i => s.incF (F.hbmWrbytes (b + i)) (0x1000000 / 256 * 192 / ns)) s
  { t with mem.hbm := s.mem.hbm.filter fun e => !(gone e.1),
           mem.badBursts := s.mem.badBursts.filter fun e => !(gone (e.1 * 32)) }

/-- The tables of a die stack's RMT; P0 names the key table too (11 R330). -/
def State.rmtCfgWrite (s : State) (d v : Nat) : State :=
  let n := (F.rmtCfgCset d).of v
  let ok := s.tableSet n 0x1000000 && (d != 0 || s.tableSet ((F.rmtCfgKset d).of v) 0x4000000)
  s.armWrite v (F.rmtCfgTvalid d) ok fun s => (s.zeroSlots n).markDie d rdRmt true

/-! ### Registers with effects of their own -/

/-- The state a command leaves; a register write is the same event as the command that names it. -/
def nextOf (s : State) (o : Host.Outcome State Fault Refusal) : State :=
  match o with
  | .next t => t
  | _ => s

/-- Fractions of all Dampers stay within 1 (15 R403). -/
def State.damperWrite (s : State) (c v : Nat) : State :=
  let f := F.pwrDamperFrac c
  let r := regOr f.off
  match s.regRefused r v with
  | some s => s
  | none =>
    let total := (upTo 32).foldl (fun n i => n + if i = c then f.of v else s.getF (F.pwrDamperFrac i)) 0
    if 65536 < total then s.rejected f else s.fieldsWrite r.fields v

/-- A tenant change that would leave some semaphore with a peer of another tenant is rejected (17 R437). -/
def State.tenantWrite (s : State) (x v : Nat) : State :=
  let f := F.secTenantTenant x
  let t := s.regWrite (regOr f.off) v
  if t.getF f != s.getF f && (upTo 4096).any t.peerAlien then s.rejected f else t

/-- PL_CFG: ENABLE set trains the link, which leaves HELD only under a new session; ENABLE cleared brings it down
(13 R367, R368). -/
def State.plCfgWrite (s : State) (l v : Nat) : State :=
  let r := regOr (F.plCfgEnable l).off
  match s.regRefused r v with
  | some s => s
  | none =>
    let was := s.flag (F.plCfgEnable l)
    let s := s.fieldsWrite r.fields v
    let now := s.flag (F.plCfgEnable l)
    let st := s.plSt l
    if !was && now then
      if st = plDown || (st = plHeld && s.sec.secret.isSome && s.sec.secret != (s.pl l).heldBy) then
        (s.setPl l { s.pl l with heldBy := none }).plTrain l plTraining
      else s
    else if was && !now then (if st = plDown ∨ st = plHeld then s else s.linkLost l plDown)
    else s

/-- A ring of the collective unit or of RMT: a new address or size sets HEAD to 0. -/
def State.ringWrite (s : State) (off v : Nat) (addr log2 head : Fld) : State :=
  let t := s.regWrite (regOr off) v
  if t.getF addr = s.getF addr ∧ t.getF log2 = s.getF log2 then t else t.setF head 0

/-- COL_CTL and RMT_CTL: with ENABLE = 1 the unit waits on GOSEM; with ENABLE = 0 its request leaves the queue (10
R292, 11 R330; log entry 59). -/
def State.unitCtlWrite (s : State) (off v : Nat) (addr log2 head enable : Fld) (w : Waiter) (join : State → State) :
    State :=
  let s := s.ringWrite off v addr log2 head
  (if s.flag enable then join s else s.unitLeave w).settle

/-- PORT_CFG: a port that is not ready does not enter service; one that is disabled leaves it (12 R349, 20
R503). -/
def State.portCfgWrite (s : State) (p v : Nat) : State :=
  let f := F.portCfgEnable p
  let r := regOr f.off
  match s.regRefused r v with
  | some s => s
  | none =>
    let was := s.flag f
    if !was && bit v 0 && !(s.readyDie (p / 8) (rdPort + p % 8)) then
      (s.rejected f).fieldsWrite (r.fields.filter fun d => d.f != f) v
    else
      let s := if was && !(bit v 0) then s.portDown p true else s
      s.fieldsWrite r.fields v

/-- PORT_IPV6_LO waits for PORT_IPV6_HI, whose write applies both (12 R350). -/
def State.ipv6LoWrite (s : State) (p v : Nat) : State :=
  match s.regRefused (regOr (F.portIpv6LoAddr p).off) v with
  | some s => s
  | none => s.setPort p { s.portSt p with ipv6Lo := some v }

def State.ipv6HiWrite (s : State) (p v : Nat) : State :=
  match s.regRefused (regOr (F.portIpv6HiAddr p).off) v with
  | some s => s
  | none =>
    let s := match (s.portSt p).ipv6Lo with
      | some lo => s.setF (F.portIpv6LoAddr p) lo
      | none => s
    ((s.setF (F.portIpv6HiAddr p) v).setPort p { s.portSt p with ipv6Lo := none }).announceAgain p

/-- An address of a port that is announced (12 R338). -/
def State.addrWrite (s : State) (p off v : Nat) : State := (s.regWrite (regOr off) v).announceAgain p

/-- RMT_CCMD and RMT_KCMD: the command that OP names. -/
def State.rmtCcmd (s : State) (d v : Nat) : State :=
  let slot := BitVec.ofNat 16 ((F.rmtCcmdSlot d).of v)
  let die := Fin.ofNat 4 d
  match s.regRefused (regOr (F.rmtCcmdSlot d).off) v with
  | some s => s
  | none => match (F.rmtCcmdOp d).of v with
  | 1 => nextOf s (execConnOpen die slot s)
  | 2 => nextOf s (execConnClose die slot s)
  | 3 => nextOf s (execConnQuery die slot s)
  | _ => s

def State.rmtKcmd (s : State) (v : Nat) : State :=
  match s.regRefused (regOr F.rmtKcmdIndex.off) v with
  | some s => s
  | none =>
    let i := BitVec.ofNat 20 (F.rmtKcmdIndex.of v)
    if F.rmtKcmdOp.of v = 1 then nextOf s (execKeyValidate i s) else nextOf s (execKeyRevoke i s)

/-- A write of a register below the die stacks' blocks. -/
def State.pkgApply (s : State) (r : Reg) (v : Nat) : State :=
  let off := r.off
  let w := BitVec.ofNat 64 v
  if off = F.fwCmdOp.off then s.fwWrite v
  else if off = F.bistCmdTarget.off then s.bistWrite v
  else if off = F.errAckIndex.off then s.errAckWrite v
  else if off = F.errAuditGo.off then s.auditWrite v
  else if off = F.pwrStatusEfault.off then s.pwrStatusWrite v
  else if 0x30060 ≤ off ∧ off < 0x300E0 then s.damperWrite ((off - 0x30060) / 4) v
  else if off = F.secCmdOp.off then s.secWrite v
  else if 0x40100 ≤ off ∧ off < 0x40500 then s.tenantWrite ((off - 0x40100) / 4) v
  else if off = F.schProbeCtx.off then nextOf s (execSchProbe w s)
  else if 0x51000 ≤ off ∧ off < 0x55000 then
    let x := Fin.ofNat 256 ((off - 0x51000) / 0x40)
    let o := (off - 0x51000) % 0x40
    if o = 0 then nextOf s (execSqBaseWrite x w s)
    else if o = 8 then nextOf s (execSqCfgWrite x (BitVec.ofNat 32 v) s)
    else if o = 0x10 then nextOf s (execCqConfigWrite x .base w s)
    else if o = 0x18 then nextOf s (execCqConfigWrite x .cfg w s)
    else if o = 0x1C then nextOf s (execCqPtrWrite x (BitVec.ofNat 32 v) s)
    else s.regWrite r v
  else if 0x58000 ≤ off ∧ off < 0x60000 then s.semWrite ((off - 0x58000) / 8) v
  else if off = 0x60000 ∨ off = 0x70000 then s.plCfgWrite ((off - 0x60000) / 0x10000) v
  else if 0x80000 ≤ off ∧ off < 0x84000 ∧ off % 0x40 = 0 then s.ctxCtlWrite ((off - 0x80000) / 0x40) v
  else if off = F.accCfgGset.off then s.accCfgWrite v
  else if off = F.rtCommitCommit.off then s.rtCommitWrite v
  else if off = F.resCfgSset.off then s.resCfgWrite v
  else if off = (regOr F.resCmdOp.off).off then s.resCmdWrite v
  else if 0x91000 ≤ off ∧ off < 0x99000 ∧ off % 0x80 = (F.resTwinConn 0).off % 0x80 then
    s.twinWrite ((off - 0x91000) / 0x80) v
  else if off = F.colCfgMset.off then s.colCfgWrite v
  else if 0xA1000 ≤ off ∧ off < 0xA3000 then
    let x := (off - 0xA1000) / 0x20
    if off % 0x20 < 8 then s.ringWrite off v (F.colRingAddr x) (F.colCtlLog2size x) (F.colHeadHead x)
    else if off % 0x20 < 0x10 then
      s.unitCtlWrite off v (F.colRingAddr x) (F.colCtlLog2size x) (F.colHeadHead x) (F.colCtlEnable x) (.coll x)
        fun s => s.colJoin x
    else s.regWrite r v
  else if 0xA8000 ≤ off ∧ off < 0xAC000 ∧ off % 0x40 = 0 then
    nextOf s (execStqCfgWrite (Fin.ofNat 256 ((off - 0xA8000) / 0x40)) w s)
  else if 0xB0000 ≤ off ∧ off < 0xD0000 ∧ off % 32 = 0x1C then s.tallyCtl ((off - 0xB0000) / 32) v
  else if off = F.memCfgPtset.off then nextOf s (execMemCfgWrite (BitVec.ofNat 32 v) s)
  else if off = F.memTinvCtx.off then nextOf s (execMemTinv w s)
  else if 0xD0100 ≤ off ∧ off < 0xD0900 then nextOf s (execIsDescWrite (Fin.ofNat 256 ((off - 0xD0100) / 8)) w s)
  else s.regWrite r v

/-- A write of a register of a die stack's block. -/
def State.dieApply (s : State) (r : Reg) (v : Nat) : State :=
  let off := r.off
  let d := dieOf off
  let o := off % 0x1000000
  if off = (F.dieCtlReset d).off then
    match s.regRefused r v with
    | some s => s
    | none => s.dieCtlWrite d v
  else if o < 0x20000 then s.regWrite r v
  else if o = 0x20000 then s.smyCfgWrite v
  else if o = 0x20030 then s.exportWrite v
  else if o < 0x30000 then s.regWrite r v
  else if o = 0x30000 then s.rmtCfgWrite d v
  else if off = (F.rmtCcmdSlot d).off then s.rmtCcmd d v
  else if off = F.rmtKcmdIndex.off then s.rmtKcmd v
  else if 0x31000 ≤ o ∧ o < 0x33000 ∧ o % 0x20 < 0x10 then
    let x := (o - 0x31000) / 0x20
    if o % 0x20 < 8 then s.ringWrite off v (F.rmtRingAddr x) (F.rmtCtlLog2size x) (F.rmtHeadHead x)
    else
      s.unitCtlWrite off v (F.rmtRingAddr x) (F.rmtCtlLog2size x) (F.rmtHeadHead x) (F.rmtCtlEnable x) (.rmt x)
        fun s => s.rmtJoin x
  else if 0x40000 ≤ o ∧ o < 0xC0000 then
    let p := 8 * d + (o - 0x40000) / 0x10000
    let q := o % 0x10000
    if q = 0 then s.portCfgWrite p v
    else if q = 0xC then s.portCommitWrite p v
    else if q = 0x20 ∨ q = 0x40 then s.addrWrite p off v
    else if q = 0x28 then s.ipv6LoWrite p v
    else if q = 0x30 then s.ipv6HiWrite p v
    else s.regWrite r v
  else if 0x100000 ≤ o ∧ 0x8000 ≤ o % 0x10000 ∧ o % 0x10000 < 0x8040 then
    nextOf s (execCmWayWrite (Fin.ofNat 32 (8 * d + (o - 0x100000) / 0x10000)) (Fin.ofNat 16 ((o % 0x10000 - 0x8000) / 4))
      (BitVec.ofNat 32 v) s)
  else s.regWrite r v

/-- One write of a whole register; the holding copies of its low half are spent on both links (05 R144). -/
def State.regApply (s : State) (r : Reg) (v : Nat) : State :=
  (if r.off < dieOff 0 then s.pkgApply r v else s.dieApply r v).spend r.off

/-! ### Writing (05 R144) -/

/-- A word of the security command's input; every other place outside the registers ignores a write. -/
def State.bufWrite (s : State) (off v : Nat) : State :=
  if 0x48000 ≤ off ∧ off < 0x4C000 then
    if s.blockUp off then { s with regs.secBuf := writeBytes 0 s.regs.secBuf (off - 0x48000) (leBytes 4 v) }
    else s.rejectedAt off 0
  else s

/-- A 32-bit aligned write: a register, the held low half of one, or the high half that applies the whole. -/
def State.write32 (s : State) (link off v : Nat) : State :=
  match regAt off with
  | some r =>
    if r.width = 32 then s.regApply r v
    else { s with regs.hold := tput 0 s.regs.hold (holdKey link off) (v + 1) }
  | none =>
    match if off % 8 = 4 then regAt (off - 4) else none with
    | some r =>
      if r.width != 64 then s else
      let h := tget 0 s.regs.hold (holdKey link (off - 4))
      let low := if h = 0 then s.regValue r % 2 ^ 32 else h - 1
      s.regApply r (low + 2 ^ 32 * v)
    | none => s.bufWrite off v

def State.write64 (s : State) (link off v : Nat) : State :=
  match regAt off with
  | some r =>
    if r.width = 64 then s.regApply r v
    else (s.write32 link off (v % 2 ^ 32)).write32 link (off + 4) (v / 2 ^ 32)
  | none => (s.write32 link off (v % 2 ^ 32)).write32 link (off + 4) (v / 2 ^ 32)

/-- In the device-fatal state only ERR_ACK is written (19 R483). -/
def State.ctlStore (s : State) (link off : Nat) (size : AccessSize) (v : Nat) : State :=
  if !accessOk off size then s.badAccess link
  else if s.fatal && off != F.errAckIndex.off then s
  else match size with
    | .w32 => s.write32 link off (v % 2 ^ 32)
    | _ => s.write64 link off v

/-! ### Paths (14 R394) -/

/-- A die stack that is out of service after having been in it, or that this boot disabled. -/
def State.stackOut (s : State) (d : Nat) : Bool := s.departed d || tget false s.dies.disabled d

/-- An access over a link reaches the block of an offset. -/
def State.reaches (s : State) (link off : Nat) : Bool :=
  let d := dieOf off
  !(s.stackOut d) && (passes (2 * link) d).all fun n => !(s.stackOut n)

/-! ### The commands -/

/-- A write over a link to any register of the control space. -/
def execRegisterWrite (link : Fin 2) (off : BitVec 28) (size : AccessSize) (value : Word64) (s : State) :
    Host.Outcome State Fault Refusal :=
  act s fun s =>
    if !(s.reaches link.val off.toNat) then s else s.ctlStore link.val off.toNat size value.toNat

/-- The COMMIT register of a block written 1. -/
def execCommit (block : CommitBlock) (s : State) : Host.Outcome State Fault Refusal :=
  work s fun s => match block with
    | .port p => s.portCommitWrite p.val 1
    | .rtTable => s.rtCommitWrite 1

/-- The block's quiescent point. A port's shadows were applied by its COMMIT write, which finds every port
between frames. -/
def execCommitApply (block : CommitBlock) (s : State) : Host.Outcome State Fault Refusal :=
  work s fun s => match block with
    | .port p => s.setB (F.portCommitCommit p.val) false
    | .rtTable => s.rtApply

/-- A read of an RC counter over a link, whole or one half. -/
def execRcCounterRead (link : Fin 2) (off : BitVec 28) (part : RcPart) (s : State) :
    Host.Outcome State Fault Refusal :=
  act s fun s =>
    let o := off.toNat
    if !(regOr o).isRc || !(s.reaches link.val o) then s else
    let a := match part with
      | .whole => if (regOr o).width = 64 then s.read64 link.val o else s.read32 link.val o
      | .low => s.read32 link.val o
      | .high => s.read32 link.val (o + 4)
    a.2.emit (.read link.val a.1)

/-- Bytes of a window access as the sizes R144 names. -/
def sizeOf (n : Nat) : AccessSize := if n = 4 then .w32 else if n = 8 then .w64 else .other n

/-- CtlRd: the answer, refused where the path is out of service. -/
def State.ctlRead (s : State) (l tag off n : Nat) : State :=
  if s.plSt l != plActive then s else
  let s := s.plTake l clsReq false
  if !(s.reaches l off) then s.winData l tag stRefused (leBytes n 0)
  else
    let a := s.ctlLoad l off (sizeOf n)
    a.2.winData l tag 0 (leBytes n a.1)

def execCtlrd (link : Fin 2) (tag : BitVec 12) (off : BitVec 28) (size : Nat) (s : State) :
    Host.Outcome State Fault Refusal :=
  act s fun s => s.ctlRead link.val tag.toNat off.toNat size

/-- CtlWr, likewise. -/
def State.ctlWrite (s : State) (l tag off n v : Nat) : State :=
  if s.plSt l != plActive then s else
  let s := s.plTake l clsReq true
  if !(s.reaches l off) then s.winCmp l tag stRefused
  else (s.ctlStore l off (sizeOf n) v).winCmp l tag 0

def execCtlwr (link : Fin 2) (tag : BitVec 12) (off : BitVec 28) (size : Nat) (value : Word64) (s : State) :
    Host.Outcome State Fault Refusal :=
  act s fun s => s.ctlWrite link.val tag.toNat off.toNat size value.toNat

end Sys2Proof.Machine
end

