-- ==== Sys2Proof/Machine/Flits.lean ====
section
/-! DEFINITION. A received Puell flit: CRC, sequence, acknowledgement and credits, decryption, and the
messages its slots carry (13 R354–R361, R368). -/
namespace Sys2Proof.Machine

/-! ### The header (13 R354) -/

def flitHdr (bs : List Byte) : FlitHdr :=
  let h := fieldAt bs 0 8
  { ftype := bits h 0 4, fseq := bits h 4 12, fack := bits h 16 12, enc := bit h 28, keysel := bit h 29,
    rclass := bits h 30 4, rcount := bits h 34 12, zero := bits h 46 18 }

/-! ### Messages (13 R359–R361) -/

/-- A header slot: its message, and whether its fields keep the rules of its class. -/
def headerOf (b : List Byte) : PlMsg × Bool :=
  let h := fieldAt b 0 2
  let m : PlMsg := { cls := bits h 0 3, opc := bits h 3 5, dataDue := bit h 8, status := bits h 9 3,
                     tag := fieldAt b 2 2 % 4096, addr := fieldAt b 4 6, win := fieldAt b 10 1, size := fieldAt b 11 1 }
  (m, bits h 12 4 == 0 && decide (fieldAt b 2 2 < 4096) && zeroAt b 12 4 && decide (m.win < 3)
    && (m.win != 0 || (m.addr % 64 == 0 && decide (m.addr < 2 ^ 42) && m.size == 0)))

/-- The opcodes a companion sends, with the window and data each has. -/
def PlMsg.legal (m : PlMsg) : Bool :=
  if m.cls = clsReq then
    (m.win == 1 && ((m.opc == 0x10 && !m.dataDue) || (m.opc == 0x11 && m.dataDue)) && decide (m.addr < 2 ^ 28))
      || (m.win == 2 && ((m.opc == 0x12 && !m.dataDue) || (m.opc == 0x13 && m.dataDue)) && decide (m.addr < 2 ^ 36))
  else if m.cls = clsRsp then
    m.win == 0 && decide (m.status < 3) && (((m.opc == 1 || m.opc == 2 || m.opc == 3) && m.dataDue)
      || (m.opc == 4 && !m.dataDue))
  else if m.cls = clsSnp then m.win == 0 && (m.opc == 1 || m.opc == 2) && !m.dataDue
  else false

def statusOf (n : Nat) : RspStatus := if n = 0 then .ok else if n = 1 then .refused else .poison

/-- A whole message reaches the unit that handles it. -/
def State.plDeliver (s : State) (l : Nat) (m : PlMsg) : State :=
  let link := Fin.ofNat 2 l
  let tag := BitVec.ofNat 12 m.tag
  if m.cls = clsReq then
    if m.opc = 0x10 then s.ctlRead l m.tag m.addr m.size
    else if m.opc = 0x11 then s.ctlWrite l m.tag m.addr m.size (leNat (m.data.take 8) % 2 ^ (8 * m.size))
    else if m.opc = 0x12 then s.apRead l m.tag m.addr m.size
    else if s.fatal then s else s.apWrite l m.tag m.addr m.size m.mask m.data
  else if m.cls = clsRsp then
    let st := statusOf m.status
    if m.opc = 1 then nextOf s (execGnts link tag st m.data s)
    else if m.opc = 2 then nextOf s (execGnte link tag st m.data s)
    else if m.opc = 3 then nextOf s (execCur link tag st m.data s)
    else nextOf s (execCmp link tag s)
  else s.snoop l m.tag m.addr (m.opc == 1)

/-- Messages whose Data has come, each behind the earlier ones of its class, and those that stay. -/
def inboxSplit : List PlMsg → List Nat → List PlMsg × List PlMsg
  | [], _ => ([], [])
  | m :: r, held =>
    if m.dataDue || held.contains m.cls then
      let t := inboxSplit r (m.cls :: held)
      (t.1, m :: t.2)
    else
      let t := inboxSplit r held
      (m :: t.1, t.2)

def State.inboxRun (s : State) (l : Nat) : State :=
  let k := s.pl l
  let t := inboxSplit k.inbox []
  t.1.foldl (fun s m => s.plDeliver l m) (s.setPl l { k with inbox := t.2 })

/-- The oldest header of a class and tag that waits for its Data takes it; none: the list is as it was. -/
def giveData (cls tag mask : Nat) (data : List Byte) : List PlMsg → List PlMsg × Bool
  | [] => ([], false)
  | m :: r =>
    if m.dataDue && m.cls == cls && m.tag == tag then ({ m with dataDue := false, mask := mask, data := data } :: r, true)
    else
      let t := giveData cls tag mask data r
      (m :: t.1, t.2)

/-- A Data message of 80 bytes. -/
def State.dataIn (s : State) (l : Nat) (b : List Byte) : State :=
  let rsp := bit (fieldAt b 1 1) 0
  let k := s.pl l
  let t := giveData (if rsp then clsRsp else clsReq) (fieldAt b 2 2 % 4096) (fieldAt b 4 8) (slice b 16 64) k.inbox
  if !t.2 || fieldAt b 0 1 != 3 || decide (2 ≤ fieldAt b 1 1) || decide (4096 ≤ fieldAt b 2 2) || !(zeroAt b 12 4) then
    s.plProtoErr l
  else s.setPl l { k with inbox := t.1 }

/-- A header-only message, or the header of one with Data. -/
def State.headerIn (s : State) (l : Nat) (b : List Byte) : State :=
  let h := headerOf b
  if !h.2 || !h.1.legal then s.plProtoErr l
  else
    let k := s.pl l
    s.setPl l { k with inbox := k.inbox ++ [h.1] }

/-- The slots of a direction, in order: messages are taken whole; a slot of zeros is empty (log entry 39). -/
def State.slotsIn (s : State) (l : Nat) : Nat → List Byte → State
  | 0, bs => s.setPl l { s.pl l with rest := bs }
  | f + 1, bs =>
    if bs.isEmpty then s.setPl l { s.pl l with rest := [] }
    else if fieldAt bs 0 16 = 0 then s.slotsIn l f (bs.drop 16)
    else if fieldAt bs 0 1 % 8 = 3 then
      (if bs.length < 80 then s.setPl l { s.pl l with rest := bs }
       else (s.dataIn l (bs.take 80)).slotsIn l f (bs.drop 80))
    else (s.headerIn l (bs.take 16)).slotsIn l f (bs.drop 16)

/-! ### Flits (13 R356, R357, R368) -/

/-- Slots of a DATA flit in clear: none on a bad tag. -/
def State.flitSlots (s : State) (l fpos : Nat) (bs : List Byte) : Option (List Byte) :=
  if (s.pl l).rxConf then
    Config.gcmOpen (s.plKey l 1 (s.pl l).rxEpoch) (plNonce l 1 fpos) (bs.take 8) (slice bs 8 224) (slice bs 232 16)
  else some (slice bs 8 240)

/-- The expected flit has not come: one NAK for the gap. -/
def State.flitGap (s : State) (l : Nat) : State :=
  let k := s.pl l
  if k.gap then s else (s.setPl l { k with gap := true }).flitOut l ftNak 0 []

/-- The stream's next flit is IDLE and acknowledges what has come (13 R354, R356). -/
def State.idleOut (s : State) (l : Nat) : State :=
  if s.plSt l = plActive then s.flitOut l ftIdle 0 [] else s

/-- Credits returned by the companion. -/
def State.plCredit (s : State) (l cls n : Nat) : State :=
  let k := s.pl l
  let k := if cls = 0 then { k with credReq := k.credReq + n } else if cls = 3 then { k with credData := k.credData + n }
    else if cls = 4 then { k with credBell := k.credBell + n } else k
  (s.setPl l k).plPump l

/-- A DATA flit in its turn. -/
def State.flitData (s : State) (l fpos : Nat) (h : FlitHdr) (bs : List Byte) : State :=
  let k := s.pl l
  if h.fseq != k.rxSeq then
    (if (k.rxSeq + 4096 - h.fseq) % 4096 ≤ 512 then s.idleOut l else s.flitGap l)
  else if h.enc != k.rxConf then s.plProtoErr l
  else
    match s.flitSlots l fpos bs with
    | none =>
      let s := s.setPl l { k with heldBy := s.sec.secret }
      ((s.incF (F.plCtr10 l) 1).record clsDie (2 * l) uPuell kIntegrity 0 none none l).linkLost l plHeld
    | some slots =>
      let k := { k with rxSeq := (k.rxSeq + 1) % 4096, gap := false }
      let s := ((s.setPl l k).incF (F.plCtr1 l) 1).plCredit l h.rclass h.rcount
      let all := (s.pl l).rest ++ slots
      ((s.slotsIn l (all.length / 16 + 1) all).inboxRun l).idleOut l

/-- A flit that passes CRC. -/
def State.flitGood (s : State) (l fpos : Nat) (h : FlitHdr) (bs : List Byte) : State :=
  if h.zero != 0 || h.ftype = 0 || 4 < h.ftype then s.plProtoErr l
  else
    let s := s.plAck l h.fack
    if h.ftype = ftData then s.flitData l fpos h bs
    else
      let s := s.plCredit l h.rclass h.rcount
      if h.ftype = ftNak then s.replay l
      else if h.ftype = ftLinkctl then s.rxNext l h.keysel
      else s

/-- A flit arrives on an ACTIVE link. -/
def State.flitIn (s : State) (l : Nat) (bs : List Byte) : State :=
  if s.plSt l != plActive || bs.length != 256 then s else
  let k := s.pl l
  let s := s.setPl l { k with fposRx := k.fposRx + 1 }
  if (crc64 (bs.take 248)).toNat != fieldAt bs 248 8 then (s.incF (F.plCtr2 l) 1).flitGap l
  else s.flitGood l k.fposRx (flitHdr bs) bs

def execFlitReceive (link : Fin 2) (bytes : List Byte) (s : State) : Host.Outcome State Fault Refusal :=
  act s fun s => s.flitIn link.val bytes

end Sys2Proof.Machine
end

