-- ==== Sys2Proof/Machine/Dispatch.lean ====
section
/-! DEFINITION. The dispatch of a command to its meaning, one arm per constructor of Instr. -/
namespace Sys2Proof.Machine

def exec (i : Instr) (s : State) : Host.Outcome State Fault Refusal :=
  match i with
  | .registerWrite link off size value => Sys2Proof.Machine.execRegisterWrite link off size value s
  | .commit block => Sys2Proof.Machine.execCommit block s
  | .commitApply block => Sys2Proof.Machine.execCommitApply block s
  | .rcCounterRead link off part => Sys2Proof.Machine.execRcCounterRead link off part s
  | .macc core eng => Sys2Proof.Machine.execMacc core eng s
  | .mma core eng => Sys2Proof.Machine.execMma core eng s
  | .mpart core eng => Sys2Proof.Machine.execMpart core eng s
  | .mcomb core eng => Sys2Proof.Machine.execMcomb core eng s
  | .mout core eng => Sys2Proof.Machine.execMout core eng s
  | .vadd core => Sys2Proof.Machine.execVadd core s
  | .vsub core => Sys2Proof.Machine.execVsub core s
  | .vmul core => Sys2Proof.Machine.execVmul core s
  | .vfma core => Sys2Proof.Machine.execVfma core s
  | .vfnma core => Sys2Proof.Machine.execVfnma core s
  | .vmin core => Sys2Proof.Machine.execVmin core s
  | .vmax core => Sys2Proof.Machine.execVmax core s
  | .vabs core => Sys2Proof.Machine.execVabs core s
  | .vneg core => Sys2Proof.Machine.execVneg core s
  | .vmov core => Sys2Proof.Machine.execVmov core s
  | .vdiv core => Sys2Proof.Machine.execVdiv core s
  | .vsqrt core => Sys2Proof.Machine.execVsqrt core s
  | .vclamp core => Sys2Proof.Machine.execVclamp core s
  | .vcvti core => Sys2Proof.Machine.execVcvti core s
  | .vcvtf core => Sys2Proof.Machine.execVcvtf core s
  | .vceq core => Sys2Proof.Machine.execVceq core s
  | .vcne core => Sys2Proof.Machine.execVcne core s
  | .vclt core => Sys2Proof.Machine.execVclt core s
  | .vcle core => Sys2Proof.Machine.execVcle core s
  | .vcunord core => Sys2Proof.Machine.execVcunord core s
  | .vcfin core => Sys2Proof.Machine.execVcfin core s
  | .kand core => Sys2Proof.Machine.execKand core s
  | .kor core => Sys2Proof.Machine.execKor core s
  | .kxor core => Sys2Proof.Machine.execKxor core s
  | .kandn core => Sys2Proof.Machine.execKandn core s
  | .knot core => Sys2Proof.Machine.execKnot core s
  | .kfirst core => Sys2Proof.Machine.execKfirst core s
  | .kcount core => Sys2Proof.Machine.execKcount core s
  | .vexp core => Sys2Proof.Machine.execVexp core s
  | .vexp2 core => Sys2Proof.Machine.execVexp2 core s
  | .vlog core => Sys2Proof.Machine.execVlog core s
  | .vlog2 core => Sys2Proof.Machine.execVlog2 core s
  | .vrcp core => Sys2Proof.Machine.execVrcp core s
  | .vrsqrt core => Sys2Proof.Machine.execVrsqrt core s
  | .vtanh core => Sys2Proof.Machine.execVtanh core s
  | .vsigm core => Sys2Proof.Machine.execVsigm core s
  | .verf core => Sys2Proof.Machine.execVerf core s
  | .vsin core => Sys2Proof.Machine.execVsin core s
  | .vcos core => Sys2Proof.Machine.execVcos core s
  | .vld core => Sys2Proof.Machine.execVld core s
  | .vst core => Sys2Proof.Machine.execVst core s
  | .vaccz core => Sys2Proof.Machine.execVaccz core s
  | .vacc core => Sys2Proof.Machine.execVacc core s
  | .vfold core => Sys2Proof.Machine.execVfold core s
  | .vrsum core => Sys2Proof.Machine.execVrsum core s
  | .vrmax core => Sys2Proof.Machine.execVrmax core s
  | .vrmin core => Sys2Proof.Machine.execVrmin core s
  | .vcompress core => Sys2Proof.Machine.execVcompress core s
  | .vcstore core => Sys2Proof.Machine.execVcstore core s
  | .vexpand core => Sys2Proof.Machine.execVexpand core s
  | .vxload core => Sys2Proof.Machine.execVxload core s
  | .vgather core => Sys2Proof.Machine.execVgather core s
  | .vscatter core => Sys2Proof.Machine.execVscatter core s
  | .vbcast core => Sys2Proof.Machine.execVbcast core s
  | .vsoftmax core => Sys2Proof.Machine.execVsoftmax core s
  | .vlse core => Sys2Proof.Machine.execVlse core s
  | .vxent core => Sys2Proof.Machine.execVxent core s
  | .vwin core => Sys2Proof.Machine.execVwin core s
  | .add core f => Sys2Proof.Machine.execAdd core f s
  | .sub core f => Sys2Proof.Machine.execSub core f s
  | .mul core f => Sys2Proof.Machine.execMul core f s
  | .andOp core f => Sys2Proof.Machine.execAndOp core f s
  | .orOp core f => Sys2Proof.Machine.execOrOp core f s
  | .xor core f => Sys2Proof.Machine.execXor core f s
  | .shl core f => Sys2Proof.Machine.execShl core f s
  | .shr core f => Sys2Proof.Machine.execShr core f s
  | .sar core f => Sys2Proof.Machine.execSar core f s
  | .sltu core f => Sys2Proof.Machine.execSltu core f s
  | .slt core f => Sys2Proof.Machine.execSlt core f s
  | .addi core f => Sys2Proof.Machine.execAddi core f s
  | .andi core f => Sys2Proof.Machine.execAndi core f s
  | .ori core f => Sys2Proof.Machine.execOri core f s
  | .shli core f => Sys2Proof.Machine.execShli core f s
  | .shri core f => Sys2Proof.Machine.execShri core f s
  | .sari core f => Sys2Proof.Machine.execSari core f s
  | .li core f payload => Sys2Proof.Machine.execLi core f payload s
  | .lih core f payload => Sys2Proof.Machine.execLih core f payload s
  | .ld core f => Sys2Proof.Machine.execLd core f s
  | .st core f => Sys2Proof.Machine.execSt core f s
  | .ldd core f => Sys2Proof.Machine.execLdd core f s
  | .beq core f => Sys2Proof.Machine.execBeq core f s
  | .bne core f => Sys2Proof.Machine.execBne core f s
  | .bltu core f => Sys2Proof.Machine.execBltu core f s
  | .bgeu core f => Sys2Proof.Machine.execBgeu core f s
  | .jal core f => Sys2Proof.Machine.execJal core f s
  | .jr core f => Sys2Proof.Machine.execJr core f s
  | .mis core f word => Sys2Proof.Machine.execMis core f word s
  | .vis core f word => Sys2Proof.Machine.execVis core f word s
  | .mvc core f => Sys2Proof.Machine.execMvc core f s
  | .fence core f => Sys2Proof.Machine.execFence core f s
  | .fenceRelease core => Sys2Proof.Machine.execFenceRelease core s
  | .semw core f => Sys2Proof.Machine.execSemw core f s
  | .sems core f => Sys2Proof.Machine.execSems core f s
  | .semt core f => Sys2Proof.Machine.execSemt core f s
  | .exitOp core f => Sys2Proof.Machine.execExitOp core f s
  | .trap core f => Sys2Proof.Machine.execTrap core f s
  | .rds core f => Sys2Proof.Machine.execRds core f s
  | .fadd core f => Sys2Proof.Machine.execFadd core f s
  | .fmul core f => Sys2Proof.Machine.execFmul core f s
  | .ffma core f => Sys2Proof.Machine.execFfma core f s
  | .flt core f => Sys2Proof.Machine.execFlt core f s
  | .copy core mover index => Sys2Proof.Machine.execCopy core mover index s
  | .pack core mover index => Sys2Proof.Machine.execPack core mover index s
  | .fill core mover index => Sys2Proof.Machine.execFill core mover index s
  | .cmflush core mover index => Sys2Proof.Machine.execCmflush core mover index s
  | .cminv core mover index => Sys2Proof.Machine.execCminv core mover index s
  | .cmWayWrite cluster way value => Sys2Proof.Machine.execCmWayWrite cluster way value s
  | .wayClearDone cluster way => Sys2Proof.Machine.execWayClearDone cluster way s
  | .isDescWrite set value => Sys2Proof.Machine.execIsDescWrite set value s
  | .setClearDone set => Sys2Proof.Machine.execSetClearDone set s
  | .memCfgWrite value => Sys2Proof.Machine.execMemCfgWrite value s
  | .memTinv value => Sys2Proof.Machine.execMemTinv value s
  | .tinvDone => Sys2Proof.Machine.execTinvDone s
  | .protectedPageWrite ctx unit cva data => Sys2Proof.Machine.execProtectedPageWrite ctx unit cva data s
  | .firstTouchCopyDone ctx region page => Sys2Proof.Machine.execFirstTouchCopyDone ctx region page s
  | .hbmScrub stack found => Sys2Proof.Machine.execHbmScrub stack found s
  | .hbmRefresh stack channel => Sys2Proof.Machine.execHbmRefresh stack channel s
  | .submit ctx => Sys2Proof.Machine.execSubmit ctx s
  | .cancel ctx => Sys2Proof.Machine.execCancel ctx s
  | .imageCheckDone ctx subseq => Sys2Proof.Machine.execImageCheckDone ctx subseq s
  | .emberIssue ctx => Sys2Proof.Machine.execEmberIssue ctx s
  | .cohortPlace ctx => Sys2Proof.Machine.execCohortPlace ctx s
  | .completionEntryWrite ctx => Sys2Proof.Machine.execCompletionEntryWrite ctx s
  | .cqPtrWrite ctx value => Sys2Proof.Machine.execCqPtrWrite ctx value s
  | .sqBaseWrite ctx value => Sys2Proof.Machine.execSqBaseWrite ctx value s
  | .sqCfgWrite ctx value => Sys2Proof.Machine.execSqCfgWrite ctx value s
  | .cqConfigWrite ctx reg value => Sys2Proof.Machine.execCqConfigWrite ctx reg value s
  | .schProbe value => Sys2Proof.Machine.execSchProbe value s
  | .semWrite sem value => Sys2Proof.Machine.execSemWrite sem value s
  | .semaphoreGrant sem => Sys2Proof.Machine.execSemaphoreGrant sem s
  | .tallyReport index => Sys2Proof.Machine.execTallyReport index s
  | .tallyCtlWrite slot value => Sys2Proof.Machine.execTallyCtlWrite slot value s
  | .updateRequest ctx => Sys2Proof.Machine.execUpdateRequest ctx s
  | .skipDecision ctx => Sys2Proof.Machine.execSkipDecision ctx s
  | .chunkStart ctx die => Sys2Proof.Machine.execChunkStart ctx die s
  | .chunkOpen ctx die slot => Sys2Proof.Machine.execChunkOpen ctx die slot s
  | .chunkDone ctx die slot => Sys2Proof.Machine.execChunkDone ctx die slot s
  | .chunkRedo ctx die slot => Sys2Proof.Machine.execChunkRedo ctx die slot s
  | .stepCommitRecord ctx => Sys2Proof.Machine.execStepCommitRecord ctx s
  | .closeDrainEnd ctx => Sys2Proof.Machine.execCloseDrainEnd ctx s
  | .donesemSignal ctx => Sys2Proof.Machine.execDonesemSignal ctx s
  | .smyExport value => Sys2Proof.Machine.execSmyExport value s
  | .exportDone => Sys2Proof.Machine.execExportDone s
  | .queueSend qend => Sys2Proof.Machine.execQueueSend qend s
  | .queueTransferReceive qend link seq data => Sys2Proof.Machine.execQueueTransferReceive qend link seq data s
  | .queueFree qend => Sys2Proof.Machine.execQueueFree qend s
  | .queueCreditReceive qend link count => Sys2Proof.Machine.execQueueCreditReceive qend link count s
  | .stqCfgWrite qend value => Sys2Proof.Machine.execStqCfgWrite qend value s
  | .collectiveFetch ctx => Sys2Proof.Machine.execCollectiveFetch ctx s
  | .rscat ctx ctag => Sys2Proof.Machine.execRscat ctx ctag s
  | .agath ctx ctag => Sys2Proof.Machine.execAgath ctx ctag s
  | .norm ctx ctag => Sys2Proof.Machine.execNorm ctx ctag s
  | .ared ctx ctag => Sys2Proof.Machine.execAred ctx ctag s
  | .dxch ctx ctag => Sys2Proof.Machine.execDxch ctx ctag s
  | .mswap ctx ctag => Sys2Proof.Machine.execMswap ctx ctag s
  | .mapArrival ctx mapid gen position => Sys2Proof.Machine.execMapArrival ctx mapid gen position s
  | .collectivePacket ctx m => Sys2Proof.Machine.execCollectivePacket ctx m s
  | .collectiveStall ctx ctag => Sys2Proof.Machine.execCollectiveStall ctx ctag s
  | .write die p => Sys2Proof.Machine.execWrite die p s
  | .writeNotify die p => Sys2Proof.Machine.execWriteNotify die p s
  | .readReq die p => Sys2Proof.Machine.execReadReq die p s
  | .readResp die p => Sys2Proof.Machine.execReadResp die p s
  | .rmtFadd die p => Sys2Proof.Machine.execRmtFadd die p s
  | .cswap die p => Sys2Proof.Machine.execCswap die p s
  | .swap die p => Sys2Proof.Machine.execSwap die p s
  | .atomicResp die p => Sys2Proof.Machine.execAtomicResp die p s
  | .reduceWrite die p => Sys2Proof.Machine.execReduceWrite die p s
  | .ack die p => Sys2Proof.Machine.execAck die p s
  | .nakSeq die p => Sys2Proof.Machine.execNakSeq die p s
  | .nakBusy die p => Sys2Proof.Machine.execNakBusy die p s
  | .nakAccess die p => Sys2Proof.Machine.execNakAccess die p s
  | .openPkt die p => Sys2Proof.Machine.execOpenPkt die p s
  | .openAck die p => Sys2Proof.Machine.execOpenAck die p s
  | .haltPkt die p => Sys2Proof.Machine.execHaltPkt die p s
  | .closePkt die p => Sys2Proof.Machine.execClosePkt die p s
  | .rtoTimeout die slot => Sys2Proof.Machine.execRtoTimeout die slot s
  | .ackTimer die slot => Sys2Proof.Machine.execAckTimer die slot s
  | .nplExpiry die slot => Sys2Proof.Machine.execNplExpiry die slot s
  | .openRetry die slot => Sys2Proof.Machine.execOpenRetry die slot s
  | .busywaitExpiry die slot => Sys2Proof.Machine.execBusywaitExpiry die slot s
  | .ratePeriod die slot => Sys2Proof.Machine.execRatePeriod die slot s
  | .connFetchDone die slot => Sys2Proof.Machine.execConnFetchDone die slot s
  | .keyFetchDone die index => Sys2Proof.Machine.execKeyFetchDone die index s
  | .connOpen die slot => Sys2Proof.Machine.execConnOpen die slot s
  | .connClose die slot => Sys2Proof.Machine.execConnClose die slot s
  | .connQuery die slot => Sys2Proof.Machine.execConnQuery die slot s
  | .keyValidate index => Sys2Proof.Machine.execKeyValidate index s
  | .keyRevoke index => Sys2Proof.Machine.execKeyRevoke index s
  | .revokeDrained index => Sys2Proof.Machine.execRevokeDrained index s
  | .revokeTimeout index => Sys2Proof.Machine.execRevokeTimeout index s
  | .rmtCommandFetch ctx => Sys2Proof.Machine.execRmtCommandFetch ctx s
  | .cmdWrite ctx index => Sys2Proof.Machine.execCmdWrite ctx index s
  | .cmdWriteNotify ctx index => Sys2Proof.Machine.execCmdWriteNotify ctx index s
  | .cmdRead ctx index => Sys2Proof.Machine.execCmdRead ctx index s
  | .cmdFadd ctx index => Sys2Proof.Machine.execCmdFadd ctx index s
  | .cmdCswap ctx index => Sys2Proof.Machine.execCmdCswap ctx index s
  | .cmdSwap ctx index => Sys2Proof.Machine.execCmdSwap ctx index s
  | .cmdReduceWrite ctx index => Sys2Proof.Machine.execCmdReduceWrite ctx index s
  | .frameReceive port f => Sys2Proof.Machine.execFrameReceive port f s
  | .pauseReceive port quanta => Sys2Proof.Machine.execPauseReceive port quanta s
  | .pfcReceive port enable quanta => Sys2Proof.Machine.execPfcReceive port enable quanta s
  | .frameTransmit port prio => Sys2Proof.Machine.execFrameTransmit port prio s
  | .frameFreed port => Sys2Proof.Machine.execFrameFreed port s
  | .pauseExpiry port prio => Sys2Proof.Machine.execPauseExpiry port prio s
  | .xoffRefresh port => Sys2Proof.Machine.execXoffRefresh port s
  | .pauseWatchdogFire port prio => Sys2Proof.Machine.execPauseWatchdogFire port prio s
  | .watchdogClear port prio => Sys2Proof.Machine.execWatchdogClear port prio s
  | .genstop port prio => Sys2Proof.Machine.execGenstop port prio s
  | .genstopClear port prio => Sys2Proof.Machine.execGenstopClear port prio s
  | .linkUp port partnerMode => Sys2Proof.Machine.execLinkUp port partnerMode s
  | .linkDown port => Sys2Proof.Machine.execLinkDown port s
  | .portCommit port value => Sys2Proof.Machine.execPortCommit port value s
  | .exceptionFrame port => Sys2Proof.Machine.execExceptionFrame port s
  | .addressAnnounce port => Sys2Proof.Machine.execAddressAnnounce port s
  | .plActive link t => Sys2Proof.Machine.execPlActive link t s
  | .flitReceive link bytes => Sys2Proof.Machine.execFlitReceive link bytes s
  | .nakFlit link fack => Sys2Proof.Machine.execNakFlit link fack s
  | .replayTimer link => Sys2Proof.Machine.execReplayTimer link s
  | .retrain link widthFound => Sys2Proof.Machine.execRetrain link widthFound s
  | .plLinkDown link => Sys2Proof.Machine.execPlLinkDown link s
  | .keySwitch link => Sys2Proof.Machine.execKeySwitch link s
  | .confKeySwitch link => Sys2Proof.Machine.execConfKeySwitch link s
  | .gnts link tag status data => Sys2Proof.Machine.execGnts link tag status data s
  | .gnte link tag status data => Sys2Proof.Machine.execGnte link tag status data s
  | .cur link tag status data => Sys2Proof.Machine.execCur link tag status data s
  | .cmp link tag => Sys2Proof.Machine.execCmp link tag s
  | .snpinv link tag addr => Sys2Proof.Machine.execSnpinv link tag addr s
  | .snpshr link tag addr => Sys2Proof.Machine.execSnpshr link tag addr s
  | .ctlrd link tag off size => Sys2Proof.Machine.execCtlrd link tag off size s
  | .ctlwr link tag off size value => Sys2Proof.Machine.execCtlwr link tag off size value s
  | .aprd link tag off size => Sys2Proof.Machine.execAprd link tag off size s
  | .apwr link tag off mask data => Sys2Proof.Machine.execApwr link tag off mask data s
  | .rewatchTimer ctx => Sys2Proof.Machine.execRewatchTimer ctx s
  | .headLinePoll ctx => Sys2Proof.Machine.execHeadLinePoll ctx s
  | .bellSend => Sys2Proof.Machine.execBellSend s
  | .discoveryToken die position => Sys2Proof.Machine.execDiscoveryToken die position s
  | .discoveryTimeout => Sys2Proof.Machine.execDiscoveryTimeout s
  | .d2dFlitReceive die port group crcOk badLanes flit => Sys2Proof.Machine.execD2dFlitReceive die port group crcOk badLanes flit s
  | .d2dFlitRefused die port group seq => Sys2Proof.Machine.execD2dFlitRefused die port group seq s
  | .crossingEvent die dom crossing => Sys2Proof.Machine.execCrossingEvent die dom crossing s
  | .crossingValue die dom crossing value => Sys2Proof.Machine.execCrossingValue die dom crossing value s
  | .crossingDead die dom crossing => Sys2Proof.Machine.execCrossingDead die dom crossing s
  | .domainReset die dom => Sys2Proof.Machine.execDomainReset die dom s
  | .pllLockLoss die => Sys2Proof.Machine.execPllLockLoss die s
  | .p0ClockLoss => Sys2Proof.Machine.execP0ClockLoss s
  | .watchPeriod die => Sys2Proof.Machine.execWatchPeriod die s
  | .watchStop die => Sys2Proof.Machine.execWatchStop die s
  | .dieReset die value => Sys2Proof.Machine.execDieReset die value s
  | .resetNotice die port => Sys2Proof.Machine.execResetNotice die port s
  | .neighbourSilence die port => Sys2Proof.Machine.execNeighbourSilence die port s
  | .dieReturn die => Sys2Proof.Machine.execDieReturn die s
  | .runEnRise inputMv smbAddr => Sys2Proof.Machine.execRunEnRise inputMv smbAddr s
  | .runEnFall => Sys2Proof.Machine.execRunEnFall s
  | .rstNRise => Sys2Proof.Machine.execRstNRise s
  | .rstNFall => Sys2Proof.Machine.execRstNFall s
  | .fastLoop cluster a => Sys2Proof.Machine.execFastLoop cluster a s
  | .slowLoop m => Sys2Proof.Machine.execSlowLoop m s
  | .measonlyUpdate die pMeasMw => Sys2Proof.Machine.execMeasonlyUpdate die pMeasMw s
  | .railSample r => Sys2Proof.Machine.execRailSample r s
  | .sensorSample die compute base => Sys2Proof.Machine.execSensorSample die compute base s
  | .hbmTempRead stack celsius => Sys2Proof.Machine.execHbmTempRead stack celsius s
  | .hardwareTrip computeMax baseMax => Sys2Proof.Machine.execHardwareTrip computeMax baseMax s
  | .railUndervoltage die mv ns => Sys2Proof.Machine.execRailUndervoltage die mv ns s
  | .inputUndervoltage mv us => Sys2Proof.Machine.execInputUndervoltage mv us s
  | .efaultClear mask => Sys2Proof.Machine.execEfaultClear mask s
  | .ctxValidWrite ctx valid => Sys2Proof.Machine.execCtxValidWrite ctx valid s
  | .preempt ctx => Sys2Proof.Machine.execPreempt ctx s
  | .suspend ctx => Sys2Proof.Machine.execSuspend ctx s
  | .resume ctx => Sys2Proof.Machine.execResume ctx s
  | .teardown ctx => Sys2Proof.Machine.execTeardown ctx s
  | .sliceExpiry ctx => Sys2Proof.Machine.execSliceExpiry ctx s
  | .saveComplete ctx us => Sys2Proof.Machine.execSaveComplete ctx us s
  | .restoreComplete ctx us => Sys2Proof.Machine.execRestoreComplete ctx us s
  | .windowClose ctx => Sys2Proof.Machine.execWindowClose ctx s
  | .rtSlotStart slot => Sys2Proof.Machine.execRtSlotStart slot s
  | .rtCommit value => Sys2Proof.Machine.execRtCommit value s
  | .donation ctx sem => Sys2Proof.Machine.execDonation ctx sem s
  | .report => Sys2Proof.Machine.execReport s
  | .cert index => Sys2Proof.Machine.execCert index s
  | .keyagree => Sys2Proof.Machine.execKeyagree s
  | .endsession => Sys2Proof.Machine.execEndsession s
  | .seal set => Sys2Proof.Machine.execSeal set s
  | .bundleOpen => Sys2Proof.Machine.execBundleOpen s
  | .bundleClose slot => Sys2Proof.Machine.execBundleClose slot s
  | .pageDrain ctx => Sys2Proof.Machine.execPageDrain ctx s
  | .restore value => Sys2Proof.Machine.execRestore value s
  | .errorRecordStore die => Sys2Proof.Machine.execErrorRecordStore die s
  | .errAck value => Sys2Proof.Machine.execErrAck value s
  | .auditTimer => Sys2Proof.Machine.execAuditTimer s
  | .auditGo value => Sys2Proof.Machine.execAuditGo value s
  | .auditQuietTimeout well inst => Sys2Proof.Machine.execAuditQuietTimeout well inst s
  | .bootStepEnd step inst r => Sys2Proof.Machine.execBootStepEnd step inst r s
  | .fwErase => Sys2Proof.Machine.execFwErase s
  | .fwWrite => Sys2Proof.Machine.execFwWrite s
  | .fwVerify => Sys2Proof.Machine.execFwVerify s
  | .fwActivate => Sys2Proof.Machine.execFwActivate s
  | .fwRaisesvn => Sys2Proof.Machine.execFwRaisesvn s
  | .fwClearalt => Sys2Proof.Machine.execFwClearalt s
  | .fwShutdown => Sys2Proof.Machine.execFwShutdown s
  | .fwCommandDone flashError => Sys2Proof.Machine.execFwCommandDone flashError s
  | .bistCommand target => Sys2Proof.Machine.execBistCommand target s
  | .bistCommandDone misr expect failAddr rowsOk => Sys2Proof.Machine.execBistCommandDone misr expect failAddr rowsOk s
  | .smbusStatus addr => Sys2Proof.Machine.execSmbusStatus addr s
  | .smbusBoot addr => Sys2Proof.Machine.execSmbusBoot addr s
  | .smbusVin addr => Sys2Proof.Machine.execSmbusVin addr s
  | .smbusPin addr => Sys2Proof.Machine.execSmbusPin addr s
  | .smbusCap addr => Sys2Proof.Machine.execSmbusCap addr s
  | .smbusTemp addr => Sys2Proof.Machine.execSmbusTemp addr s
  | .smbusSerial addr => Sys2Proof.Machine.execSmbusSerial addr s
  | .smbusPart addr => Sys2Proof.Machine.execSmbusPart addr s
  | .smbusWriteNak addr code => Sys2Proof.Machine.execSmbusWriteNak addr code s
  | .extest pins => Sys2Proof.Machine.execExtest pins s
  | .sample pins => Sys2Proof.Machine.execSample pins s
  | .preload pins => Sys2Proof.Machine.execPreload pins s
  | .bypass => Sys2Proof.Machine.execBypass s
  | .idcode => Sys2Proof.Machine.execIdcode s
  | .railsInRegulation => Sys2Proof.Machine.execRailsInRegulation s
  | .powerDownComplete => Sys2Proof.Machine.execPowerDownComplete s
  | .secCommandDone => Sys2Proof.Machine.execSecCommandDone s
  | .restoreCommandDone => Sys2Proof.Machine.execRestoreCommandDone s

end Sys2Proof.Machine
end

