-- ==== Sys2Proof/Safety.lean ====
section
/-! DEFINITION. What counts as a safe step and a legal state, in the terms the statements use. -/
namespace Sys2Proof.Machine

/-- Command `c` completes on `s`, in a state that has `p`. -/
def runsTo (c : Instr) (s : State) (p : State → Prop) : Prop := ∃ t, exec c s = .next t ∧ p t

/-- Counter `f` has advanced by `n` from `s` to `t`, modulo its width (00 R11). -/
def counted (s t : State) (f : Fld) (n : Nat) : Prop := t.getF f = (s.getF f + n) % 2 ^ f.w

/-- A message of link `l` would be sent at once: the link is ACTIVE, no message waits, the replay buffer has
room (13 R356, R357). -/
def sendsAtOnce (s : State) (l : Nat) : Prop :=
  s.plSt l = plActive ∧ (s.pl l).txWait = [] ∧ (s.pl l).replay.length < 512

/-- From `s` to `t` the first thing put out is a flit of link `l` of this type, sequence number and content, laid out
as 13 R354 says and acknowledging what has come (R356). -/
def putOut (s t : State) (l ftype fseq : Nat) (slots : List Byte) : Prop :=
  ∃ h fpos rest, t.out = s.out ++ .flit l (s.flitBytes l h fpos slots) :: rest ∧ h.ftype = ftype ∧ h.fseq = fseq ∧
    h.fack = ((s.pl l).rxSeq + 4095) % 4096

/-- From `s` to `t` link `l` put out a DATA flit, with a message that has `p`. -/
def sent (s t : State) (l : Nat) (p : PlMsg → Prop) : Prop :=
  ∃ m : PlMsg, putOut s t l ftData (s.pl l).txSeq m.slots ∧ p m

/-- Nothing but registers, the links and their crossings, and what is put out, changed. -/
def linkOnly (s t : State) : Prop :=
  t = { s with regs := t.regs, puell := t.puell, dies.xing := t.dies.xing, out := t.out, freeCtr := t.freeCtr }

/-- Link `l` is DOWN and no cached line is held over it (13 R367). -/
def linkGone (l : Nat) (t : State) : Prop := t.plSt l = plDown ∧ ∀ e ∈ t.puell.lines, e.2.link ≠ l

/-- The sending direction of link `l` has switched to its next key epoch, with a LINKCTL flit that carries the new
selector (13 R368). -/
def keySwitched (s t : State) (l : Nat) : Prop :=
  putOut s t l ftLinkctl 0 [] ∧ (t.pl l).txEpoch = (s.pl l).txEpoch + 1 ∧ (t.pl l).fposTx = 0 ∧
    t.flag (F.plStatusKeysel l) = !(s.flag (F.plStatusKeysel l))

/-- A flit failed its CRC: counted, its messages not taken, and one NAK unless one is outstanding (13 R355, R356). -/
def flitBad (s t : State) (l : Nat) : Prop :=
  linkOnly s t ∧ counted s t (F.plCtr2 l) 1 ∧ (t.pl l).rxSeq = (s.pl l).rxSeq ∧ (t.pl l).inbox = (s.pl l).inbox ∧
    ((s.pl l).gap = true → t.out = s.out) ∧ ((s.pl l).gap = false → putOut s t l ftNak 0 [])

/-- A DATA flit in its turn was taken: the next one is expected, and the stream's next flit acknowledges it (13
R356). -/
def flitTaken (s t : State) (l : Nat) : Prop :=
  linkOnly s t ∧ counted s t (F.plCtr1 l) 1 ∧ (t.pl l).rxSeq = ((s.pl l).rxSeq + 1) % 4096 ∧ (t.pl l).gap = false ∧
    ∃ h fpos rest, t.out = s.out ++ .flit l (s.flitBytes l h fpos []) :: rest ∧ h.ftype = ftIdle ∧
      h.fack = (s.pl l).rxSeq

/-- The memories hold the bytes they held: only the check bits of SRAM words and what is counted of them may have
changed (05 R113). -/
def sramKept (s t : State) : Prop :=
  t.mem = { s.mem with sramBad := t.mem.sramBad, sramSoft := t.mem.sramSoft, sramCe := t.mem.sramCe,
                       sramUe := t.mem.sramUe }

/-- Bytes `a` to `a + n − 1` of an operand cache hold no uncorrectable error (05 R113). -/
def ocGood (s : State) (g a n : Nat) : Prop := wordsOf s.mem.sramBad (ocKey g a) n = []

/-- Of the memories only bytes `a` to `a + n − 1` of core `g`'s operand cache, and the check bits of SRAM words,
may have changed. -/
def ocChanged (s t : State) (g a n : Nat) : Prop :=
  t.mem = { s.mem with oc := t.mem.oc, sramBad := t.mem.sramBad, sramSoft := t.mem.sramSoft, sramCe := t.mem.sramCe } ∧
    ∀ b, b < ocKey g a ∨ ocKey g a + n ≤ b → tget 0 t.mem.oc b = tget 0 s.mem.oc b

/-- Offsets of registers whose write is that of their fields alone: the power plan, the Puell links' (not PL_CFG),
the tally slots' (not TALLY_CTL), the stacks' and their die-to-die ports' (not DIE_CTL), HBM and the clusters' (not
CM_WAY) (05 R142). -/
def plainWrite (off : Nat) : Bool :=
  let o := off % 0x1000000
  if off < dieOff 0 then
    (decide (0x30000 ≤ off ∧ off < 0x30060) && off != F.pwrStatusEfault.off)
      || (decide (0x60000 ≤ off ∧ off < 0x80000) && off % 0x10000 != 0)
      || (decide (0xB0000 ≤ off ∧ off < 0xD0000) && off % 32 != 0x1C)
  else (decide (o < 0x20000) && off != (F.dieCtlReset (dieOf off)).off) || decide (0xC0000 ≤ o ∧ o < 0x100000)
    || (decide (0x100000 ≤ o) && (decide (o % 0x10000 < 0x8000) || decide (0x8040 ≤ o % 0x10000)))

/-- The fields of a register have keys of their own, and none of them counts what an access itself counts. -/
def Reg.distinctFields (r : Reg) : Prop :=
  (r.fields.map fun d => d.f.key).Nodup ∧
    ∀ d ∈ r.fields, (∀ l < 2, d.f.key ≠ (F.plCtr0 l).key) ∧ ∀ n < 16, d.f.key ≠ (F.dieSeqSeq n).key

/-- The fields of a register took a written value by access type and change class (00 R9, R12–R15). -/
def fieldsTaken (s t : State) (r : Reg) (v : Nat) : Prop :=
  ∀ d ∈ r.fields,
    (d.acc = .rw → d.cls ≠ .staged → t.getF d.f = if s.locks d then s.getF d.f else d.f.of v) ∧
    (d.acc = .rw → d.cls = .staged → t.shadow d.f = some (d.f.of v) ∧ t.getF d.f = s.getF d.f) ∧
    (d.acc = .w1c → ∀ b, b < d.f.w → t.bitF d.f b = (s.bitF d.f b && !bit (d.f.of v) b)) ∧
    (d.acc = .ro → t.getF d.f = s.getF d.f)

/-- A write that would put field `d` outside its range left every field of the register as it was, and one record
names the field (00 R530). -/
def writeRejected (s t : State) (r : Reg) (d : FDesc) : Prop :=
  (∀ e ∈ r.fields, t.getF e.f = s.getF e.f) ∧
    ∃ q, t.err.recQ = s.err.recQ ++ [q] ∧ q.kind = kRejected ∧
      q.detail = (d.f.off % 2 ^ 28 + place d.f.lo 32 6) % 2 ^ 64

/-- Commands from outside the package: pins, rails, trips, the SMBus responder and the TAP (21 R520–R525). -/
def outside : Instr → Bool
  | .runEnRise .. | .runEnFall | .rstNRise | .rstNFall | .hardwareTrip .. | .inputUndervoltage ..
  | .railsInRegulation | .powerDownComplete => true
  | .smbusStatus .. | .smbusBoot .. | .smbusVin .. | .smbusPin .. | .smbusCap .. | .smbusTemp ..
  | .smbusSerial .. | .smbusPart .. | .smbusWriteNak .. => true
  | .extest .. | .sample .. | .preload .. | .bypass | .idcode => true
  | _ => false

/-- Commands that the device-fatal state leaves some effect: the power loops, clocks, links and their messages,
control-space reads, the record log (19 R483). -/
def runsFatal : Instr → Bool
  | .registerWrite .. | .rcCounterRead .. | .ctlrd .. | .ctlwr .. | .aprd .. | .apwr .. => true
  | .plActive .. | .flitReceive .. | .nakFlit .. | .replayTimer .. | .retrain .. | .plLinkDown .. => true
  | .keySwitch .. | .snpinv .. | .snpshr .. | .gnts .. | .gnte .. | .cur .. | .cmp .. | .bellSend => true
  | .crossingEvent .. | .crossingValue .. | .domainReset .. | .watchPeriod .. | .watchStop .. => true
  | .errorRecordStore .. | .errAck .. => true
  | .fastLoop .. | .measonlyUpdate .. | .slowLoop .. | .railSample .. | .sensorSample .. | .hbmTempRead .. => true
  | _ => false

/-- What a loss of power or a reset leaves: registers at their reset values, memories with nothing listed,
nothing in flight, no record; companion memory, Ledger and straps as they were (15 R398, 21 R522). -/
def emptied (s t : State) : Prop :=
  t.mem.oc = [] ∧ t.mem.cm = [] ∧ t.mem.hbm = [] ∧ t.mem.lines = [] ∧ t.mem.comp = s.mem.comp ∧
  t.eng = State.reset.eng ∧ t.sched = State.reset.sched ∧ t.smithy = State.reset.smithy ∧
  t.rmt = State.reset.rmt ∧ t.puell = State.reset.puell ∧ t.ctxs = State.reset.ctxs ∧
  t.err = State.reset.err ∧ t.boot.ledger = s.boot.ledger ∧ t.dies.orient = s.dies.orient

/-- The power state is one the module can be in (15 R398, R413; 21 R521–R523): BOOT and RUN with RUN_EN high,
RUN out of reset with the rails up, TRIPPED with RUN_EN high, PWR_OK and rails only in BOOT and RUN, a
power-down under way only in OFF. -/
def Power.ok (p : Power) : Bool :=
  (p.st == .off || p.runEn) && (p.st != .run || (p.railsUp && p.rstN))
    && (!p.railsUp || p.st == .boot || p.st == .run) && (p.pwrOk == p.railsUp)
    && (!p.downPending || p.st == .off) && (!p.riseAgain || (p.downPending && p.runEn))
    && decide (p.smbAddr < 8) && decide (p.tapIr < 5)

/-- The memories are in their canonical form: addresses rise, nothing listed reads as an unlisted byte does. -/
def Mem.wf (m : Mem) : Bool :=
  twf 0 m.oc && twf 0 m.cm && twf 0 m.hbm && twf 0 m.comp && twf 0xFF m.flash

/-- Core `g` awaits nothing and runs instance `x`, whose code holds `word`, and `payload` behind it, at the
program counter; the fetch leaves `u`, and no register of `regs` awaits a queued vector word (06 R187–R194,
04 R86). -/
def fetches (s : State) (g word : Nat) (payload : List Byte) (regs : List (BitVec 5)) (x : Inst) (u : State) : Prop :=
  s.works = true ∧ s.running g = some x ∧ (s.core g).wait = .none ∧
  (∃ v, (fetch g x (s.core g).pc 4).go s = (.ok (leBytes 4 word), v) ∧
    (fetch g x ((s.core g).pc + 4) payload.length).go v = (.ok payload, u)) ∧
  ∀ r ∈ regs, r.toNat ∉ s.pendingScalars g

/-- Of a state a read on behalf of context `x` changes only counters, cached translations, corrected bursts, free
values, and, for companion memory, the links with what they put out; registers keep their values but for those
counters and the link's key selector (05 R122, R132, R140; 14 R386). -/
def readOnly (s u : State) (x : Nat) : Prop :=
  u = { s with regs := u.regs, mem.tlb := u.mem.tlb, mem.softBursts := u.mem.softBursts, puell := u.puell, out := u.out,
               freeCtr := u.freeCtr } ∧
  ∀ f : Fld, (∀ h, f.key ≠ (F.hbmRdbytes h).key ∧ f.key ≠ (F.hbmUe h).key ∧ f.key ≠ (F.hbmUeaddrAddr h).key ∧
      f.key ≠ (F.hbmCe h).key ∧ f.key ≠ (F.plCtr0 h).key ∧ f.key ≠ (F.plStatusKeysel h).key ∧ f.key ≠ (F.xdrop h).key) →
    f.key ≠ (F.accHbm x).key → f.key ≠ (F.accPuell x).key → u.getF f = s.getF f

/-- Every instruction of core `g` with its word, its payload, and whether a field it does not use, or a bit of its
immediate that must be 0, is nonzero (06 R189, R190). -/
def coreForms (g : Fin 256) (r : RForm) (i : IForm) (b : BForm) (p : PForm) (w : BitVec 32) (y : BitVec 64)
    (z : BitVec 128) : List (Instr × Nat × List Byte × Bool) :=
  let rs (e : Instr) (op : Nat) (bad : Bool) := (e, rWord op r, ([] : List Byte), bad || r.rest != 0)
  let im (e : Instr) (op : Nat) (n : Nat) := (e, iWord op i, ([] : List Byte), Nat.ble n i.imm.toNat)
  let br (e : Instr) (op : Nat) := (e, bWord op b, ([] : List Byte), false)
  let pl (e : Instr) (op : Nat) (bs : List Byte) (bad : Bool) := (e, pWord op p, bs, bad || p.rest != 0)
  [rs (.add g r) 0x01 false, rs (.sub g r) 0x02 false, rs (.mul g r) 0x03 false, rs (.andOp g r) 0x04 false,
   rs (.orOp g r) 0x05 false, rs (.xor g r) 0x06 false, rs (.shl g r) 0x07 false, rs (.shr g r) 0x08 false,
   rs (.sar g r) 0x09 false, rs (.sltu g r) 0x0A false, rs (.slt g r) 0x0B false, rs (.fadd g r) 0x48 false,
   rs (.fmul g r) 0x49 false, rs (.ffma g r) 0x4A false, rs (.flt g r) 0x4B false, rs (.semt g r) 0x3A false,
   rs (.semw g r) 0x38 (r.rd != 0), rs (.sems g r) 0x39 (r.rd != 0), rs (.mvc g r) 0x32 (r.rd != 0 || r.rb != 0),
   rs (.exitOp g r) 0x3E (r.rd != 0 || r.ra != 0 || r.rb != 0),
   im (.addi g i) 0x10 16384, im (.andi g i) 0x11 16384, im (.ori g i) 0x12 16384, im (.shli g i) 0x13 64,
   im (.shri g i) 0x14 64, im (.sari g i) 0x15 64, im (.ld g i) 0x20 16384, im (.st g i) 0x21 16384,
   im (.ldd g i) 0x22 8, im (.jal g i) 0x2C 16384, im (.jr g i) 0x2D 16384, im (.fence g i) 0x33 16,
   im (.trap g i) 0x3F 16384, im (.rds g i) 0x40 16384,
   br (.beq g b) 0x28, br (.bne g b) 0x29, br (.bltu g b) 0x2A, br (.bgeu g b) 0x2B,
   pl (.li g p w) 0x18 (leBytes 4 w.toNat) false, pl (.lih g p w) 0x19 (leBytes 4 w.toNat) false,
   pl (.mis g p z) 0x30 (leBytes 16 z.toNat) (p.rd != 0), pl (.vis g p y) 0x31 (leBytes 8 y.toNat) (p.rd != 0)]

/-- `u` with core `g` put back as `c`, behind an instruction of `n` bytes, as a command on `s` leaves it. -/
def steppedTo (s u : State) (g : Nat) (c : CoreSt) (n : Nat) : State :=
  { u.setCore g { c with pc := (c.pc + n) % 2 ^ 64 } with pending := s.pending, power := s.power }

/-- What a meaning leaves of the state its effect comes to: the queue and the power state are the old ones. -/
def left (s u : State) : State := { u with pending := s.pending, power := s.power }

/-- Lane `l` of vector operand `n`: of a register or, in window mode, of a slot of the window (04 R81). -/
def vlane (s : State) (g : Nat) (win : Bool) (n l : Nat) : W32 :=
  if win then w32At (s.ocRead g ((s.vec g).wbase + 512 * n + 4 * l) 4) 0 else tget 0#32 (s.vec g).v (128 * n + l)

/-- An operand field that names a vector; one that names a scalar register; one that names either (04 R85). -/
def vecField (win : Bool) (f : Nat) : Prop := f < if win then 0x80 else 0x20
def scaField (f : Nat) : Prop := 0x80 ≤ f ∧ f < 0xA0
def srcField (win : Bool) (f : Nat) : Prop := vecField win f ∨ scaField f

/-- What a source field gives lane `l`, with captured scalar `k` (04 R85, R86). -/
def vval (s : State) (g : Nat) (win : Bool) (f : Nat) (k : Word64) (l : Nat) : W32 :=
  if f < 0x80 then vlane s g win f l else k.setWidth 32

/-- Lane `l` of mask `n`; mask 0 has every lane set (04 R88). -/
def lit (s : State) (g n l : Nat) : Bool := decide (n = 0) || (tget 0#128 (s.vec g).k n).getLsbD l

/-- The active lanes of a word, in increasing order (04 R92). -/
def activeLanes (s : State) (g w : Nat) : List Nat := (upTo 128).filter (lit s g (bits w 8 3))

/-- A word of this class and operation is at the front of core `g`'s vector queue, none is in execution, of an
instance `x` of a resident context in operand mode `win`, and the operand cache holds no uncorrectable error; `u` is
the state with the word taken (04 R81, R83, R84; 05 R113). -/
def vecFront (s : State) (g : Nat) (x : Inst) (win : Bool) (q : VWord) (cls op : Nat) (u : State) : Prop :=
  s.works = true ∧ s.running g = some x ∧ x.ctx < 256 ∧ (∃ r, s.grant x.ctx = some r ∧ r.vmode = win) ∧
  (∃ rest, (s.vec g).queue = q :: rest ∧ u = s.setVec g { s.vec g with queue := rest }) ∧ (s.vec g).run = none ∧
  vCls q.w.toNat = cls ∧ vOp q.w.toNat = op ∧ (s.vec g).wbase % 65536 = 0 ∧ (s.vec g).wbase < ocSize ∧
  ocGood s g 0 ocSize

/-- The vector engine's words with their class and operation (04 R84). -/
def vecWords (g : Fin 256) : List (Instr × Nat × Nat) :=
  [(.vadd g, 1, 0), (.vsub g, 1, 1), (.vmul g, 1, 2), (.vfma g, 1, 3), (.vfnma g, 1, 4), (.vmin g, 1, 5), (.vmax g, 1, 6),
   (.vabs g, 1, 7), (.vneg g, 1, 8), (.vmov g, 1, 9), (.vdiv g, 1, 10), (.vsqrt g, 1, 11), (.vclamp g, 1, 12),
   (.vcvti g, 1, 13), (.vcvtf g, 1, 14), (.vceq g, 2, 0), (.vcne g, 2, 1), (.vclt g, 2, 2), (.vcle g, 2, 3),
   (.vcunord g, 2, 4), (.vcfin g, 2, 5), (.kand g, 3, 0), (.kor g, 3, 1), (.kxor g, 3, 2), (.kandn g, 3, 3),
   (.knot g, 3, 4), (.kfirst g, 3, 5), (.kcount g, 3, 6), (.vexp g, 4, 0), (.vexp2 g, 4, 1), (.vlog g, 4, 2),
   (.vlog2 g, 4, 3), (.vrcp g, 4, 4), (.vrsqrt g, 4, 5), (.vtanh g, 4, 6), (.vsigm g, 4, 7), (.verf g, 4, 8),
   (.vsin g, 4, 9), (.vcos g, 4, 10), (.vld g, 5, 0), (.vst g, 5, 1), (.vaccz g, 6, 0), (.vacc g, 6, 1),
   (.vfold g, 6, 2), (.vrsum g, 6, 3), (.vrmax g, 6, 4), (.vrmin g, 6, 5), (.vcompress g, 7, 0), (.vcstore g, 7, 1),
   (.vexpand g, 7, 2), (.vxload g, 7, 3), (.vgather g, 7, 4), (.vscatter g, 7, 5), (.vbcast g, 7, 6),
   (.vsoftmax g, 8, 0), (.vlse g, 8, 1), (.vxent g, 8, 2), (.vwin g, 9, 0)]

/-- What a vector word may change from `u` to `t`: engines, with `core` scalars, the beats and suppressed lanes it
counts, memory and what is reported. -/
def vecOnly (u t : State) (g : Nat) (x : Inst) (core : Bool) : Prop :=
  t = { u with regs := t.regs, eng.vec := t.eng.vec, eng.core := t.eng.core, mem := t.mem, train := t.train } ∧
  (core = false → t.eng.core = u.eng.core) ∧
  ∀ f : Fld, f.key ≠ (F.veBusy g).key → f.key ≠ (F.accBeats x.ctx).key → f.key ≠ (F.veSuppress g).key →
    t.getF f = u.getF f

/-- As `vecOnly`, of a word that stores nothing and reports nothing. -/
def vecQuiet (u t : State) (g : Nat) (x : Inst) (core : Bool) : Prop :=
  vecOnly u t g x core ∧ sramKept u t ∧ t.train = u.train

/-- From `u` to `t` the lanes `on` of vector operand `d` took the values `f`, its other lanes stayed or, with
`mz`, became zero; nothing else of the engine, of any other engine and of any memory changed. -/
def lanesSet (u t : State) (g : Nat) (win mz : Bool) (d : Nat) (on : Nat → Bool) (f : Nat → W32) : Prop :=
  (∀ l, l < 128 → vlane t g win d l = if on l then f l else if mz then 0#32 else vlane u g win d l) ∧
  t.vec g = { u.vec g with v := (t.vec g).v } ∧ (∀ h, h ≠ g → t.vec h = u.vec h) ∧
  (if win then (t.vec g).v = (u.vec g).v ∧ ocChanged u t g ((u.vec g).wbase + 512 * d) 512
    else sramKept u t ∧ ∀ n l, n < 32 → l < 128 → n ≠ d → vlane t g false n l = vlane u g false n l)

/-- A write stream reports once to the slot of its word, and nothing else of the tallies changes; a stream that is
none reports nothing (04 R87). -/
def reported (u t : State) (x : Inst) (w : Nat) (stream : Bool) : Prop :=
  if stream then ∃ c : Census, t.train = (u.report x.ctx (bits w 44 12) (u.stepNo x.ctx) c).train
  else t.train = u.train

/-- Mask `d` took the values `f` on the active lanes, its other lanes stayed or, with `mz`, became clear;
nothing else of the engine and of any other engine changed (04 R88, R92). -/
def maskSet (u t : State) (g : Nat) (mz : Bool) (d : Nat) (on f : Nat → Bool) : Prop :=
  (∀ l, l < 128 → lit t g d l = if on l then f l else if mz then false else lit u g d l) ∧
  (∀ n l, n ≠ d → lit t g n l = lit u g n l) ∧ t.vec g = { u.vec g with k := (t.vec g).k } ∧
  ∀ h, h ≠ g → t.vec h = u.vec h

/-- Scalar register `n` of core `g` took `v`; nothing else of a core changed. -/
def scalarSet (u t : State) (g n : Nat) (v : Word64) : Prop :=
  t.core g = { u.core g with s := (u.core g).s.set! n v } ∧ ∀ h, h ≠ g → t.core h = u.core h

/-- From `u`, with the fused word in execution at `r`, to `t` the next chunk of its pass ran: the maximum, then the
sums, then the elements of the row; behind the last chunk of a pass the next one, or the end with scalar D written and
the pairs clear (04 R103, R104, R108). -/
def chunkRan (u t : State) (g : Nat) (x : Inst) (k : Fused) (a : FusedArgs) (v : Cvc) (r : FusedRun) : Prop :=
  let n := Nat.min 128 (a.len - 128 * r.chunk)
  let el := fun i => fusedElem u g a (128 * r.chunk + i)
  let last := a.len ≤ 128 * r.chunk + 128
  let goes := fun r' => (t.vec g).run = some r' ∧ (t.vec g).pairs = (u.vec g).pairs ∧ t.eng.core = u.eng.core
  let ends := fun y : W32 => (t.vec g).run = none ∧ (t.vec g).pairs = [] ∧ scalarSet u t g a.d (y.setWidth 64)
  vecOnly u t g x true ∧ t.vec g = { u.vec g with run := (t.vec g).run, pairs := (t.vec g).pairs } ∧
  (∀ h, h ≠ g → t.vec h = u.vec h) ∧
  (r.pass = 1 → ∀ m, m = (upTo n).foldl (fun m i => w32Max m (el i)) r.m → sramKept u t ∧ t.train = u.train ∧
    (¬last → goes { r with m := m, chunk := r.chunk + 1 }) ∧
    (last → rowBad m = true → k = .lse → ends w32NaN) ∧
    (last → rowBad m = true → k ≠ .lse → goes { r with m := m, pass := 3, chunk := 0, res := w32NaN }) ∧
    (last → rowBad m = false → (t.vec g).run = some { r with m := m, pass := 2, chunk := 0 } ∧ (t.vec g).pairs = [] ∧
      t.eng.core = u.eng.core)) ∧
  (r.pass = 2 → ∀ ps sum lse, ps = (upTo n).foldl (fun p i => tput pair0 p i (pairAdd (tget pair0 p i)
      (fExp (w32Sub (el i) r.m)))) (u.vec g).pairs → sum = foldPairs ps → lse = w32Add r.m (fLog sum) →
    sramKept u t ∧ t.train = u.train ∧
    (last → k = .lse → ends lse) ∧
    ((last → k ≠ .lse) → (t.vec g).pairs = ps ∧ t.eng.core = u.eng.core ∧ (t.vec g).run = some (
      if a.len ≤ 128 * r.chunk + 128 then { r with
        pass := 3
        chunk := 0
        sum := sum
        lse := lse
        r := fRcp sum
        res := if k = .xent then w32Sub lse (fusedElem u g a a.t) else lse }
      else { r with chunk := r.chunk + 1 }))) ∧
  (r.pass = 3 → ∀ o, o = a.dst + laneSize v.fmt * (128 * r.chunk) → reported u t x r.q.w.toNat true ∧
    ocChanged u t g o (laneSize v.fmt * n) ∧
    (∀ i, i < n → leNat (t.ocRead g (o + laneSize v.fmt * i) (laneSize v.fmt)) = (convCode v false
      (draw (BitVec.ofNat 64 (u.stepNo x.ctx)) (bits r.q.w.toNat 44 12) (128 * r.chunk + i))
      (srcW32 (rowOut k a r (128 * r.chunk + i) (el i)))).1) ∧
    (last → ends r.res) ∧ (¬last → goes { r with chunk := r.chunk + 1 }))

/-- Word `q` of operation `op` is at the front of the queue of engine `e` of core `g`, of an instance `x` of a
resident context, and no range of the operand cache holds it back; `m` is the engine with the word taken (03 R64,
R65, R74). -/
def matFront (s : State) (g e : Nat) (x : Inst) (q : MWord) (op : Nat) (m : MatEng) : Prop :=
  s.works = true ∧ s.running g = some x ∧ x.ctx < 256 ∧
  (∃ r, (s.mat (matIdx g e)).queue = q :: r ∧ m = { s.mat (matIdx g e) with queue := r }) ∧
  bits q.w.toNat 0 4 = op ∧ bits q.w.toNat 5 3 = 0 ∧ s.matHeld g e q = false

/-- The fields of an engine word hold legal values, and what they name is the context's and within the operand cache
(03 R66–R70); of MMA, the panels come later. -/
def matFormed (s : State) (x : Inst) (w : Nat) (m : MatEng) : Prop :=
  match bits w 0 4 with
  | 1 => bits w 8 2 ≠ 3 ∧ bits w 10 2 ≠ 3 ∧ bits w 40 16 < segCount (bits w 24 16) ∧ bits w 56 8 = 0 ∧ bits w 96 32 = 0
  | 2 => bits w 72 5 ≤ 16 ∧ bits w 77 51 = 0
  | 3 => bits w 8 8 = 0 ∧ bits w 42 86 = 0 ∧ 64 * bits w 16 14 + partialBytes ≤ ocSize ∧
    s.slotOk (bits w 30 12) x.ctx = true
  | 4 => bits w 8 8 = 0 ∧ bits w 30 98 = 0 ∧ 64 * bits w 16 14 + partialBytes ≤ ocSize
  | 5 => ∃ c np, cvcDecode (bits w 8 8) = some c ∧ np = (m.outLen (bits w 56 1) + 15) / 16 ∧ bits w 57 7 = 0 ∧
    bits w 88 40 = 0 ∧ 64 * bits w 16 14 + np * panelBytes c.fmt ≤ ocSize ∧
    (c.fmt.scaled = true → 64 * bits w 30 14 + 64 * np ≤ ocSize ∧ s.bindIn x (bits w 80 8) = true) ∧
    s.slotOk (bits w 44 12) x.ctx = true ∧ (m.fa ≠ 2 → s.bindIn x (bits w 64 8) = true) ∧
    (m.fb ≠ 2 → s.bindIn x (bits w 72 8) = true)
  | _ => False

/-- The engine's accumulation allows the word (03 R61–R63, R67, R70): an MMA goes on an open span, within its segments
and before its end; MPART and MCOMB take an acceptable span, MCOMB with its sibling at the source; MOUT the whole. -/
def matInTurn (s : State) (g w : Nat) (m : MatEng) : Prop :=
  match bits w 0 4 with
  | 2 => ∃ total, total = 256 * m.pushed + m.blk + bits w 8 8 + 1 ∧ m.st = .opened ∧ m.endK = false ∧
    total ≤ 256 * (m.nseg - m.seg0) ∧ total ≤ 65536 ∧ (bits w 72 5 ≠ 0 → 256 * (m.nseg - m.seg0 - 1) < total)
  | 3 => m.st ≠ .idle ∧ m.spanOk = true
  | 4 => ∃ h, h = s.ocRead g (64 * bits w 16 14) 64 ∧ m.st ≠ .idle ∧ m.spanOk = true ∧ fieldAt h 0 4 = m.tag ∧
    segCount (fieldAt h 4 2) = m.nseg ∧ fieldAt h 10 1 = place m.fa 0 2 + place m.fb 2 2 ∧
    fieldAt h 11 1 + 1 = m.mrows ∧ fieldAt h 12 1 + 1 = m.ncols ∧
    siblings m.seg0 m.span (fieldAt h 6 2) (segCount (fieldAt h 8 2)) m.nseg = true
  | 5 => m.st ≠ .idle ∧ m.spanOk = true ∧ m.seg0 = 0 ∧ m.span = m.nseg ∧ m.endK = true
  | _ => True

/-- From `s` to `t` one engine became `m`, every other stayed, `n` beats were counted, and registers but those counters
and the engine's count of NaN blocks stayed. -/
def matSet (s t : State) (g e : Nat) (x : Inst) (m : MatEng) (n : Nat) : Prop :=
  t.mat (matIdx g e) = m ∧ (∀ k, k ≠ matIdx g e → t.mat k = s.mat k) ∧
  counted s t (F.meBusy g e) n ∧ counted s t (F.accBeats x.ctx) n ∧
  ∀ f : Fld, f.key ≠ (F.meBusy g e).key → f.key ≠ (F.accBeats x.ctx).key → f.key ≠ (F.mePoison g e).key →
    t.getF f = s.getF f

/-! ### The scheduler (06) -/

/-- A SUBMIT entry's graph, in checking (06 R164); a CANCEL that names no active graph is one finished with code 12
(06 R168). -/
def submitted (x head : Nat) (e : List Byte) : Graph :=
  { ctx := x, subseq := head, gtag := fieldAt e 8 8, image := fieldAt e 0 8, hdr := [], ordered := bit (fieldAt e 19 1) 0,
    checking := true, cancelled := false, tasks := [], fin := none }
def cancelMissed (x head : Nat) (e : List Byte) : Graph :=
  { ctx := x, subseq := head, gtag := fieldAt e 8 8, image := 0, hdr := [], ordered := false, checking := false,
    cancelled := true, tasks := [], fin := some ⟨2, 12, 0⟩ }

/-- The context's submission queue is enabled, its limit of graphs leaves room, and its head slot reads as `e` (06
R165–R167). -/
def headReads (s : State) (x : Nat) (e : List Byte) (u : State) : Prop :=
  s.consuming x = true ∧ s.graphRoom x = true ∧ (headEntry x).go s = (.ok (some e), u)

/-- From `u` to `t` the submission queue stopped with an error and a context-class record; nothing else changed (06
R166). -/
def queueStopped (u t : State) (x err : Nat) : Prop :=
  t = { u with regs := t.regs, err := t.err } ∧ t.getF (F.sqStatState x) = 2 ∧ t.getF (F.sqStatErr x) = err ∧
    ∃ r, t.err.recQ = u.err.recQ ++ [r] ∧ r.cls = clsContext ∧ r.kind = kOverflow

/-- The first codes of the image check: 5 for an image off a multiple of 64, 1 for one without the magic, 2 for
another MAJOR (06 R159). -/
def imageHeadCodes (s : State) (x : Nat) : Prop :=
  ∀ a, (a % 64 ≠ 0 → (checkImage x a).go s = (.ok (5, [], []), s)) ∧
    ∀ h u, a % 64 = 0 → (cvaRead (dieUnit 0) x a 96).go s = (.ok h, u) →
      (fieldAt h 0 4 ≠ 0x47435443 → (checkImage x a).go s = (.ok (1, [], []), u)) ∧
      (fieldAt h 0 4 = 0x47435443 → fieldAt h 4 2 ≠ 1 → (checkImage x a).go s = (.ok (2, [], []), u))

/-- The bytes of a completion entry (06 R170). -/
def completionBytes (s : State) (x : Nat) (g : Graph) (c : Completion) : List Byte :=
  leBytes 8 g.gtag ++ leBytes 2 g.subseq ++ leBytes 1 c.status
    ++ leBytes 1 ((s.getF (F.cqPtrTail x) / s.cqSize x + 1) % 2) ++ leBytes 4 c.detail ++ leBytes 4 c.tdone ++ leBytes 4 0
    ++ leBytes 8 (s.getF (F.watchNs 0))

/-- Core state `c` starts instance `e`: at offset 0, with nothing issued and the registers of 06 R188. -/
def startsAs (c : CoreSt) (e : Inst) : Prop :=
  ∃ v : Vector Word64 32, c = { inst := some e, pc := 0, s := v, cmds := [], wait := .none } ∧
    v.toList = ([e.index, e.count, e.rank, e.size, e.args, e.shared] ++ List.replicate 26 0).map (BitVec.ofNat 64)

/-! ### The Smithy (08) -/

/-- The Smithy of die stack `d` looks for a chunk of an applied update of a resident context: slot `k` is free, `w` is
the update with every trust ratio formed, and the look ends in `r` (08 R238–R241). -/
def chunkLook (s : State) (x d : Nat) (u : Upd) (k : Nat) (w : Upd) (r : Except Stop (Option NextChunk)) (v : State) :
    Prop :=
  u.phase = .applied ∧ s.resident x = true ∧ s.inService d = true ∧
  (∃ taus, s.trustRatios x u = some taus ∧ w = { u with taus := taus }) ∧
  ((upTo 4).find? fun i => (tget none u.slots (retKey d i)).isNone) = some k ∧
  (nextChunk d x w (upTo w.shards.length)).go s = (r, v)

/-- The accesses of a step commit record: of an applied step every chunk is looked up as done and every progress
record marked; the record goes to its place in the ring (08 R241, R243). -/
def commitRun (x : Nat) (u : Upd) (ok : Bool) (applied : Nat) : M Unit := do
  if ok then u.shards.forM fun h => do if !(← shardDone x h) then stop .wait
  cvaWrite (dieUnit 0) x (u.ring + 64 * (u.step % 2 ^ u.ringLog2)) (recordBytes (← getS) u applied)
  if ok then u.shards.forM fun h => shWrite 0 x h (h.progress + 44) (leBytes 1 2)

/-- The decision on the norm of the update's own step: skipped where it is not finite or absurd, with `q`, the loss
scale and no chunk started (08 R226). -/
def skippedAs (u : Upd) (q l n : W32) : Upd :=
  if w32IsFinite q then { u with q := q, lscale := l, phase := .skipped, outcome := 3, n := n, c := 0 }
  else { u with q := q, lscale := l, phase := .skipped, outcome := 2, n := w32NaN, c := 0 }

/-! ### Packets of the remote memory transport (11) -/

/-- The packets that arrive at a die stack, each with whether the packet is of the command's kind (11 R297). -/
def rmtPackets (d : Fin 4) (p : Packet) : List (Instr × Bool) :=
  [(.write d p, isOp p opWrite), (.writeNotify d p, isOp p opWriteNotify), (.readReq d p, isOp p opReadReq),
   (.readResp d p, isOp p opReadResp), (.rmtFadd d p, isOp p opAtomic (some 1)), (.cswap d p, isOp p opAtomic (some 2)),
   (.swap d p, isOp p opAtomic (some 3)), (.atomicResp d p, isOp p opAtomicResp),
   (.reduceWrite d p, isOp p opReduceWrite), (.ack d p, isOp p opAck), (.nakSeq d p, isOp p opNak (some 1)),
   (.nakBusy d p, isOp p opNak (some 2)), (.nakAccess d p, isOp p opNak (some 3)), (.openPkt d p, isOp p opOpen),
   (.openAck d p, isOp p opOpenAck), (.haltPkt d p, isOp p opHalt), (.closePkt d p, isOp p opClose)]

/-- The requests among them. -/
def rmtRequests (d : Fin 4) (p : Packet) : List (Instr × Bool) :=
  [(.write d p, isOp p opWrite), (.writeNotify d p, isOp p opWriteNotify), (.readReq d p, isOp p opReadReq),
   (.rmtFadd d p, isOp p opAtomic (some 1)), (.cswap d p, isOp p opAtomic (some 2)),
   (.swap d p, isOp p opAtomic (some 3)), (.reduceWrite d p, isOp p opReduceWrite)]

/-- A whole packet of a slot of this die stack that is in the cache; `q` is the packet with the marking of its
arrival, and `u` counts it and makes the slot the most recent one (11 R296, R300, R301, R320, R323). -/
def rmtWhole (s : State) (d : Nat) (p q : Packet) (u : State) : Prop :=
  s.works = true ∧ s.readyDie d rdRmt = true ∧ pktIpOk p = true ∧ p.crc = crc32c (pktBytes p) ∧ pktForm p = true ∧
  p.dcn.toNat < 2 ^ 18 ∧ slotDie p.dcn.toNat = d ∧ (s.connCache d).contains p.dcn.toNat = true ∧ q = s.mark d p ∧
  u = (((s.incF (F.rmtCtr1 d) 1).incF (F.rmtCtr14 d) (ofBool q.ce)).connUse p.dcn.toNat).2

/-- The slot carries traffic, and the packet's EPOCH, source and payload are its connection's; `u` counts the
frame's bytes for the owner (11 R301, R305; 16 R432). -/
def rmtPasses (s : State) (d : Nat) (p q : Packet) (u : State) : Prop :=
  ∃ t, rmtWhole s d p q t ∧ payloadOk (t.slot p.dcn.toNat) q = true ∧ (t.slot p.dcn.toNat).traffic q = true ∧
    u = t.rxBytes p.dcn.toNat q

/-- Distance of a packet's PSN from the expected one (11 R307). -/
def psnDist (u : State) (p : Packet) : Nat := (p.psn.toNat + 2 ^ 32 - (u.slot p.dcn.toNat).expect) % 2 ^ 32

/-- A request with the expected PSN that nothing of its connection waits before, within the buffer's BUSY
threshold; `b` has forgotten a gap or a BUSY (11 R307, R324). -/
def rmtExpected (s : State) (d : Nat) (p q : Packet) (b : State) : Prop :=
  ∃ u, rmtPasses s d p q u ∧ (∀ w ∈ u.keyWaits d, w.dcn ≠ p.dcn) ∧ psnDist u p = 0 ∧
    (pktFirst p = true → u.filled p.dcn.toNat (u.getF (F.rmtBufBusyth d)) = false) ∧
    b = u.setSlot p.dcn.toNat { u.slot p.dcn.toNat with gap := false, busy := false }

/-- A keyed request begins message `m` under a cached key that grants it; `c` holds the key's reference (11 R316,
R317). -/
def rmtBegins (b : State) (d : Nat) (p : Packet) (m : RxMsg) (c : State) : Prop :=
  p.cxh = none ∧ pktFirst p = true ∧ (b.slot p.dcn.toNat).rx = none ∧ ∃ h e, p.axh = some h ∧
    b.keyView p.dcn.toNat p.opc.toNat p.sub.toNat h = .ok e ∧ m = rxOf p e h ∧
    c = (b.keyUse d e 1).setSlot p.dcn.toNat { b.slot p.dcn.toNat with rx := some m }

/-- A keyed request goes on with the open message of its slot. -/
def rmtGoesOn (b : State) (p : Packet) (m : RxMsg) : Prop :=
  p.cxh = none ∧ pktFirst p = false ∧ (b.slot p.dcn.toNat).rx = some m ∧ m.waiting = false

/-- The payload is of the message and lands at its next address, written or, for a reduction, added in W32; `w` is
the state with it, the message advanced (11 R311, R312). -/
def rmtWrites (c : State) (d : Nat) (p : Packet) (m : RxMsg) (w : State) : Prop :=
  m.opc = p.opc.toNat ∧ p.payload.length ≤ m.left ∧ (p.last = true ↔ m.left = p.payload.length) ∧ ∃ v,
    (if m.opc = opReduceWrite then reduceInto (dieUnit d) (c.slot p.dcn.toNat).conn.owner m.next m.sub p.payload
      else cvaWrite (dieUnit d) (c.slot p.dcn.toNat).conn.owner m.next p.payload).go c = (.ok (), v) ∧
    w = v.setSlot p.dcn.toNat { v.slot p.dcn.toNat with
      rx := some { m with next := m.next + targetLen m.opc m.sub p.payload.length, left := m.left - p.payload.length } }

/-- An OPEN, OPEN_ACK, HALT or CLOSE names the connection of its slot: EPOCH, peer's number and source (11 R302). -/
def rmtNames (v : RmtSlot) (p : Packet) : Prop :=
  p.epoch.toNat = v.conn.epoch ∧ beNat p.payload = v.conn.pcn ∧ p.srcIp.toNat = v.conn.peerIp

/-- A slot has no packet, message or command of a live context (11 R302), and no slot waits for a credit. -/
def rmtIdle (u : State) (k : Nat) : Prop :=
  (u.slot k).pkts = [] ∧ (u.slot k).rx = none ∧ (u.col1 (u.slot k).conn.owner).cmds = [] ∧
    (∀ e ∈ u.rmt.slot, e.2.queued = []) ∧ ∀ x, u.alive x = false

/-- Slot `k` is FREE under the epoch it had, and no other slot and no memory changed (11 R302). -/
def rmtFreed (u t : State) (k : Nat) : Prop :=
  t.slot k = { lastEpoch := (u.slot k).conn.epoch } ∧ (∀ j, j ≠ k → t.slot j = u.slot j) ∧ t.mem = u.mem

/-- `y` is slot `v` opened at PSN 0, path 0 and the rate of its line (11 R303, R306, R322). -/
def rmtOpened (b : State) (k d : Nat) (v y : RmtSlot) : Prop :=
  y = { v with st := .opened, path := 0, timeouts := 0, expect := 0, next := 0, hold := 0, a := 0, m := 0,
               cur := lineRate (b.getF (F.portCfgMode (slotPort k v.conn))), step := b.getF (F.rmtRateStep0 d) }

/-- From `s` to `t` a request of `n` PSNs has been processed: E moves past them, and an acknowledgement is owed where none
is due (11 R307, R309). -/
def rmtCounted (s t : State) (k : Nat) (p : Packet) (n : Nat) : Prop :=
  (t.slot k).expect = ((s.slot k).expect + n) % 2 ^ 32 ∧
  (pktLast p = false → p.areq = false → (s.slot k).owed + 1 < 16 → (t.slot k).owed = (s.slot k).owed + 1)

/-- A read or an atomic that a response answers (11 R307, R329). -/
def rmtAnswers (v : RmtSlot) (p : Packet) (t : TxPkt) : Bool :=
  if p.opc.toNat = opReadResp then t.opc = opReadReq ∧ (t.psn + t.got / v.conn.pmtu) % 2 ^ 32 = p.psn.toNat
  else t.opc = opAtomic ∧ t.psn = p.psn.toNat

/-- The slot's state is one in which an OPEN or OPEN_ACK, or a HALT or CLOSE, means something (11 R302). -/
def rmtFits (v : RmtSlot) (p : Packet) : Prop :=
  if isOp p opOpen ∨ isOp p opOpenAck then v.st = .opening ∨ v.st = .opened else v.st = .opened ∨ v.st = .closing

/-- What such a packet leaves of `b`, in which its bytes are counted (11 R302–R304): an opening slot opens, and an OPEN is
answered; a HALT halts; a CLOSE frees the slot. -/
def rmtManaged (u b : State) (d k : Nat) (v : RmtSlot) (p : Packet) (w : State) : Prop :=
  (isOp p opOpen = true → v.st = .opened → w = b.sendCn k opOpenAck) ∧
  (isOp p opOpen = true → v.st = .opening → ∃ y, rmtOpened b k d v y ∧ w = (b.setSlot k y).sendCn k opOpenAck) ∧
  (isOp p opOpenAck = true → v.st = .opened → w = b) ∧
  (isOp p opOpenAck = true → v.st = .opening → ∃ y, rmtOpened b k d v y ∧ w = b.setSlot k y) ∧
  (isOp p opHalt = true → w = b.haltFull k haltRecv) ∧
  (isOp p opClose = true → rmtIdle u k → rmtFreed u w k)

/-! ### The commands of the remote memory transport (11) -/

/-- From `s` to `t` the last connection command of a die stack ended with RESULT `r`, and the slot shows as it stands
(11 R330). -/
def connShown (s t : State) (d k r : Nat) : Prop :=
  t = { s with regs := t.regs } ∧ t.flag (F.rmtCstatDone d) = true ∧ t.getF (F.rmtCstatResult d) = r ∧
    t.getF (F.rmtCstatState d) = (s.slot k).st.code ∧ t.flag (F.rmtCstatCached d) = (s.connCache d).contains k

/-- From `s` to `t` the last key command ended with RESULT `r` and generation `g` (11 R330). -/
def keyShown (s t : State) (r g : Nat) : Prop :=
  t = { s with regs := t.regs } ∧ t.flag F.rmtKstatDone = true ∧ t.getF F.rmtKstatResult = r ∧ t.getF F.rmtKstatGen = g

/-- OPEN of slot `k`, record `l` of the table, ends with RESULT `r` by the first condition that fails, `u` being what
reading the record leaves (11 R303; log entry 38). -/
def openFails (s : State) (d k l r : Nat) (u : State) : Prop :=
  let n := s.getF (F.rmtCfgCset d)
  let there := s.flag (F.rmtCfgTvalid d) = true ∧ s.houseRange n (256 * l) 64 = true
  ((s.slot k).st ≠ .free ∧ u = s ∧ r = 3) ∨ ((s.slot k).st = .free ∧ ¬there ∧ u = s ∧ r = 1) ∨
  ((s.slot k).st = .free ∧ there ∧ ∃ b, (hbmRead none n (256 * l) 64).go s = (.ok b, u) ∧
    ((connRec b = none ∧ r = 1) ∨ ∃ c, connRec b = some c ∧
      ((u.grant c.owner = none ∧ r = 1) ∨ (u.grant c.owner ≠ none ∧ c.epoch ≤ (u.slot k).lastEpoch ∧ r = 2))))

/-- OPEN of slot `k` finds every condition met, with record `c` (11 R303). -/
def openHolds (s : State) (d k l : Nat) (c : ConnRec) (u : State) : Prop :=
  let n := s.getF (F.rmtCfgCset d)
  (s.slot k).st = .free ∧ s.flag (F.rmtCfgTvalid d) = true ∧ s.houseRange n (256 * l) 64 = true ∧
  ∃ b, (hbmRead none n (256 * l) 64).go s = (.ok b, u) ∧ connRec b = some c ∧ u.grant c.owner ≠ none ∧
    (u.slot k).lastEpoch < c.epoch

/-- A key command that may start finds its record in the table (11 R315, R318). -/
def keyThere (s : State) (i : Nat) : Prop :=
  s.flag (F.rmtCfgTvalid 0) = true ∧ s.houseRange s.kset (keyAt i) 64 = true

/-- VALIDATE, or REVOKE, of key `i` ends with RESULT `r` and generation `g`, with nothing changed (11 R315, R318). -/
def keyFails (s : State) (i : Nat) (revoke : Bool) (r g : Nat) : Prop :=
  let b := s.keyRec i
  (¬keyThere s i ∧ r = 1 ∧ g = 0) ∨ (keyThere s i ∧ g = kGen b ∧
    if revoke then kState b ≠ 1 ∧ r = 2 else (kState b ≠ 0 ∧ r = 2) ∨ (kState b = 0 ∧ s.keyRecOk b = false ∧ r = 1))

/-- The fields of the entry `b` of ring position `h`, at CVA `a` (11 R328). -/
def rmtEntry (c : RmtCmd) (h a : Nat) (b : List Byte) : Prop :=
  c.index = h ∧ c.addr = a ∧ c.started = false ∧ c.op = fieldAt b 0 1 ∧ c.fence = bit (fieldAt b 1 1) 0 ∧
  c.kw16 = bit (fieldAt b 1 1) 1 ∧ c.conn = fieldAt b 4 4 ∧ c.key = fieldAt b 8 4 ∧ c.length = fieldAt b 12 4 ∧
  c.laddr = fieldAt b 16 8 ∧ c.roff = fieldAt b 24 8 ∧ c.opnd0.toNat = fieldAt b 32 8 ∧ c.opnd1.toNat = fieldAt b 40 8 ∧
  c.imm = fieldAt b 48 4 ∧ c.sigsem = fieldAt b 52 2 ∧ c.sigval = fieldAt b 56 4

/-- The engine of context `x` has been granted a count of GOSEM, with the context running; `t` has it taken (11 R328;
06 R182). -/
def rmtTurn (s : State) (x : Nat) (t : State) : Prop :=
  ∃ u, u = (s.rmtJoin x).settle ∧ u.alive x = true ∧ u.preempted x = false ∧ u.unitTake (.rmt x) = some t

/-- The message of command `c`: opcode, subcode, header and operands of the table (11 R297, R299, R328). -/
def rmtMessageOf (x : Nat) (c : RmtCmd) (m : Msg) : Prop :=
  m.owner = .cmd x c.index ∧ m.dst = c.laddr ∧ m.len = c.length ∧ m.cxh = none ∧
  (m.opc, m.sub) = (match c.op with
    | 1 => (opWrite, 0)
    | 2 => (opWriteNotify, 0)
    | 3 => (opReadReq, 0)
    | 4 => (opAtomic, 1)
    | 5 => (opAtomic, 2)
    | 6 => (opAtomic, 3)
    | _ => (opReduceWrite, if c.kw16 then 2 else 1)) ∧
  m.opnd0 = (if 4 ≤ c.op ∧ c.op ≤ 6 then c.opnd0 else 0) ∧ m.opnd1 = (if c.op = 5 then c.opnd1 else 0) ∧
  m.src = (if c.op ≤ 2 ∨ c.op = 7 then some c.laddr else none) ∧
  m.axh = some { key := BitVec.ofNat 32 c.key, length := BitVec.ofNat 32 c.length, offset := BitVec.ofNat 64 c.roff,
                 imm := if c.op = 2 then BitVec.ofNat 32 c.imm else 0, reserved := 0 }

/-- Command `c` of a context may start: nothing before it on its connection is unstarted, and with FENCE nothing is
before it at all (11 R328, R329). -/
def rmtMayStart (s : State) (x : Nat) (c : RmtCmd) (op : Nat) : Prop :=
  let before := (tget [] s.rmt.cmds x).takeWhile fun d => d.index != c.index
  c.op = op ∧ c.started = false ∧ s.preempted x = false ∧ s.alive x = true ∧ (c.fence = true → before = []) ∧
    ∀ d ∈ before, d.started = false → d.conn ≠ c.conn

/-- Slot `k` after a period in which it moved bytes (11 R322): with marked ones CUR falls by BETA and the marked
share, rounded to the nearest 0.1 Gb/s, not below RMIN; after HOLDN periods without it rises by STEP. -/
def rateLaw (s : State) (d k : Nat) : RmtSlot :=
  let v := s.slot k
  let den := 256 * v.a
  let num := v.cur * (den - s.getF (F.rmtRateBeta d) * v.m)
  if v.m ≠ 0 then
    { v with cur := Nat.max ((2 * num + den) / (2 * den)) (s.getF (F.rmtRateRmin d)),
             step := s.getF (F.rmtRateStep0 d), hold := s.getF (F.rmtRateHoldn d), a := 0, m := 0 }
  else if v.hold ≠ 0 then { v with hold := v.hold - 1, a := 0, m := 0 }
  else { v with cur := Nat.min (v.cur + v.step) (lineRate (s.getF (F.portCfgMode (slotPort k v.conn)))),
                step := Nat.min (2 * v.step) (s.getF (F.rmtRateStepmax d)), a := 0, m := 0 }

/-! ### Stage queues (09) and collectives (10) -/

/-- The turn of queue end `n` in this role has come: it may act, and its unit's request for a count of TSEM is granted;
`t` has the count taken and the unit waiting again (09 R262, R265, R266; 06 R182). -/
def queueTurn (s : State) (n role : Nat) (t : State) : Prop :=
  ∃ u w, u = s.queueJoin n ∧ u.queueReady n role = true ∧ u.unitTake (.queue (u.qOwner n) n) = some w ∧ t = w.queueJoin n

/-- It has not come. -/
def queueWaits (s : State) (n role : Nat) : Prop :=
  (s.queueJoin n).queueReady n role = false ∨
    (s.queueJoin n).unitTake (.queue ((s.queueJoin n).qOwner n) n) = none

/-- Queue end `n` is a valid end of this role on link `l`, of a context that is not pre-empted (09 R262). -/
def queueHears (s : State) (n role l : Nat) : Prop :=
  s.qValid n role = true ∧ s.qLink n = l ∧ s.preempted (s.qOwner n) = false

/-- A signal of 1 to semaphore `w` adds to its count and does nothing else: it fits, and no donated time waits for it
(06 R181, 16 R429). -/
def signalFits (u : State) (w : Nat) : Prop :=
  w < 4096 ∧ u.getF (F.semCount w) + 1 < 2 ^ 32 ∧ ∀ e ∈ u.ctxs.ctx, e.2.donor = 0

/-- Of `u`, count `f` of queue end `n` and the end's waiting semaphore each rise by 1. -/
def queueMoved (u : State) (n : Nat) (f : Fld) : State :=
  let w := u.getF (F.stqCfgWsem n)
  (u.incF f 1).setF (F.semCount w) (u.getF (F.semCount w) + 1)

/-- The collective unit of context `x` has been granted a count of GOSEM, with the context running; `t` has it taken
(10 R276; 06 R182). -/
def colTurn (s : State) (x : Nat) (t : State) : Prop :=
  ∃ u, u = (s.colJoin x).settle ∧ u.alive x = true ∧ u.preempted x = false ∧ u.unitTake (.coll x) = some t

/-- Command `c` is what the entry `b` of ring position `num`, at CVA `a`, says, and has done nothing yet (10 R277). -/
def entryCommand (c : ColCmd) (num a : Nat) (b : List Byte) : Prop :=
  c.num = num ∧ c.addr = a ∧ c.op = fieldAt b 0 1 ∧ c.cflags = fieldAt b 1 1 ∧ c.rsv = fieldAt b 2 2 ∧
  c.sigsem = fieldAt b 4 2 ∧ c.tslot = fieldAt b 6 2 ∧ c.sigval = fieldAt b 8 4 ∧ c.ctag = fieldAt b 12 4 ∧
  c.src = fieldAt b 16 8 ∧ c.dst = fieldAt b 24 8 ∧ c.count = fieldAt b 32 8 ∧ c.tagrec = fieldAt b 40 8 ∧
  c.shardAt = fieldAt b 48 8 ∧ c.dring = fieldAt b 56 8 ∧ c.started = false ∧ c.sent = false ∧ c.inbox = [] ∧
  c.marks = [] ∧ c.aborting = false

/-- Behind a command that leaves the table, or joins it, the context's list is `l`: INFLIGHT says how many, the unit
waits for the next where there is room, and a reserved operation whose turn has come faults (10 R276, R277). -/
def colWith (s : State) (x : Nat) (l : List ColCmd) : State :=
  (((((s.setCol x { s.col1 x with cmds := l }).setF (F.colCtlInflight x) l.length)).colJoin x).colNext x).settle

/-- What a write of STQ_CFG makes of `a`: its fields by their class, but VALID only of an end that is valid (09 R268). -/
def configured (a : State) (n v : Nat) : State :=
  a.fieldsWrite ((regOr (F.stqCfgValid n).off).fields.filter fun d =>
    d.f != F.stqCfgValid n || a.flag (F.stqCfgValid n)) v

/-- An end that is valid and runs, or whose fields the write leaves as they are, takes the fields by their class alone
(09 R268). -/
def queueKeeps (a u : State) (n : Nat) : Prop :=
  a.flag (F.stqCfgValid n) = true ∧
    (a.stqRunning n = true ∨ ∀ d ∈ (regOr (F.stqCfgValid n).off).fields, u.getF d.f = a.getF d.f)

/-- An end that is not valid behind the write has no request waiting. -/
def quitted (a u : State) (n : Nat) : State :=
  if u.flag (F.stqCfgValid n) then u else u.unitLeave (.queue (a.qOwner n) n)

/-- The write leaves the role, owner, semaphores and slots of a valid end: it issues no credit anew (log entry 59). -/
def sameEnd (a u : State) (n : Nat) : Bool := a.flag (F.stqCfgValid n) && u.qIdentity n == a.qIdentity n

/-- The end is valid, WSEM holds a producer's credits, one for each slot, or no transfer of a consumer, and the unit
waits on TSEM (09 R261, R262). -/
def credited (a u : State) (n : Nat) : State :=
  (((u.unitLeave (.queue (a.qOwner n) n)).setB (F.stqCfgValid n) true).setF (F.semCount (u.getF (F.stqCfgWsem n)))
    (if u.getF (F.stqCfgRole n) = 0 then u.stqSlots n else 0)).queueJoin n

/-- What a unit answers a message with (10 R278, R284, R289, R291; log entries 30 and 31): one it cannot take yet, or
from no peer of the context, changes nothing; a mismatch faults the context; a trust vector is kept; data goes to its
command, which goes on; an abort marker dooms the step. -/
def colAnswered (s : State) (x : Nat) (m : ColMsg) (t : State) : Prop :=
  (s.colAdmit x m = .busy ∨ s.colAdmit x m = .access → t = left s s) ∧
  (s.colAdmit x m = .fault →
    t = left s (s.ctxFault x 0 uColl kInvalid 0 (m.ctag.toNat + m.position.val * 2 ^ 32))) ∧
  (∀ c, s.colAdmit x m = .take → isTrust m = false → s.colFor x m = some c →
    (m.abort = false → t = left s ((s.modCmd x c.num fun c =>
      if c.aborting then c else { c with inbox := c.inbox ++ [m] }).colRun x c.num)) ∧
    (m.abort = true → c.op ≠ 1 → c.op ≠ 2 → c.op ≠ 4 → t = left s (s.doomByPeer x))) ∧
  (∀ u, s.colAdmit x m = .take → isTrust m = true → s.upd x = some u → t = left s (s.setUpd x (some
    { u with trustIn := u.trustIn.filter (fun e => e.1 != m.position.val) ++ [(m.position.val, m.data)] })))

/-! ### Contexts (16) -/

/-- From `u` to `t` the legal record `b` is the grant of context `x`, which is IDLE; other contexts stay (16 R416, R417). -/
def ctxGranted (u t : State) (x : Nat) (b : List Byte) : Prop :=
  t.flag (F.ctxCtlValid x) = true ∧ t.ctxSt x = cIdle ∧ t.cx x = { grant := some (grantOf b) } ∧
    tget false t.sched.recDue x = true ∧ ∀ y, y ≠ x → t.cx y = u.cx y

/-- From `s` to `t` context `x` is free: its grant and image are gone, its counters at their reset values, its energy
retired, and other contexts stay (16 R431, R432). -/
def ctxFreed (s t : State) (x : Nat) : Prop :=
  t = { s with regs := t.regs, ctxs := t.ctxs, train.steps := t.train.steps, mem.tlb := t.mem.tlb,
               smithy.groups := t.smithy.groups } ∧
  t.flag (F.ctxCtlValid x) = false ∧ t.ctxSt x = cFree ∧ t.flag (F.ctxStateSusp x) = false ∧ t.cx x = {} ∧
  (∀ y, y ≠ x → t.cx y = s.cx y) ∧
  (∀ f ∈ [F.accBeats x, F.accHbm x, F.accNet x, F.accPuell x, F.accEnergy x, F.accRestime x], t.getF f = f.reset) ∧
  t.getF F.accRetiredNj = (s.getF F.accRetiredNj + s.getF (F.accEnergy x)) % 2 ^ F.accRetiredNj.w

/-- The context's state allows the command: PREEMPT a resident one, SUSPEND and TEARDOWN a living one, RESUME any. -/
def ctxAllows (s : State) (x cmd : Nat) : Prop :=
  (cmd = ctPreempt → s.ctxSt x = cResident) ∧
    (cmd = ctSuspend ∨ cmd = ctTeardown → s.ctxSt x ≠ cFree ∧ s.ctxSt x ≠ cFaulted)

/-- What the command leaves (16 R422, R426, R430, R431): a save begun, or due behind the open chunk; SUSP set or clear;
the context torn down. -/
def ctxCommanded (s : State) (x cmd : Nat) (t : State) : Prop :=
  (cmd = ctPreempt → t = { s with regs := t.regs, ctxs.ctx := t.ctxs.ctx, rmt.slot := t.rmt.slot } ∧
    t.flag (F.ctxStateCmdbusy x) = true ∧ (∀ y, y ≠ x → t.cx y = s.cx y) ∧
    if s.chunkOpen x then t.ctxSt x = cResident ∧ (t.cx x).switchDue = true else t.ctxSt x = cSaving) ∧
  (cmd = ctSuspend → t.flag (F.ctxStateSusp x) = true ∧
    (s.ctxSt x = cResident → s.chunkOpen x = false → t.ctxSt x = cSaving)) ∧
  (cmd = ctResume → t.flag (F.ctxStateSusp x) = false ∧ t = left s (s.setB (F.ctxStateSusp x) false).settle) ∧
  (cmd = ctTeardown → t = left s (s.ctxFault x 0 uMgmt kTeardown 0 ctTeardown))

/-- Time given to context `x` is no longer its own (16 R429). -/
def ungifted (s : State) (x : Nat) : State :=
  (s.setCx x { s.cx x with donor := 0, donSem := 0 }).setB (F.ctxStateDonated x) false

/-- From `u`, in which the cache ways of the context are written back, to `w` the save has ended: the image is kept, but
for the ways an open chunk needs; cores are clear, and no cache line is left (16 R422–R424, R427). -/
def saveEnded (u w : State) (x us : Nat) (g : Grant) (kept : List (Nat × Nat)) : Prop :=
  w.ctxSt x = cSaved ∧ w.flag (F.ctxStateCmdbusy x) = false ∧ w.getF F.accSwlastUs = us % 2 ^ F.accSwlastUs.w ∧
  w.cx x = { u.cx x with
    saved := some (u.image x g kept).units
    kept := kept
    keptAt := u.getF (F.watchNs 0) } ∧
  (∀ i ∈ g.coreList, w.core i = {} ∧ w.vec i = {} ∧ ∀ a, a < ocSize → tget 0 w.mem.oc (ocKey i a) = 0) ∧
  w.mem.hbm = ((u.moveImage x g true (u.image x g kept).bytesOn).storeImage g (u.image x g kept)).mem.hbm ∧
  ∀ l ∈ w.mem.lines, l.ctx ≠ x

/-- From `u`, in which the image has been read, to `w` the restore has ended: the image `v` is put back, and nothing
else than registers and contexts changed (16 R422). -/
def restoreDone (u w : State) (x us : Nat) (g : Grant) (v : Saved) : Prop :=
  w.ctxSt x = cResident ∧ w.cx x = { u.cx x with saved := none } ∧ w.getF F.accSwlastUs = us % 2 ^ F.accSwlastUs.w ∧
  w = { ((u.moveImage x g false v.bytesOn).putImage v) with regs := w.regs, ctxs.ctx := w.ctxs.ctx }

/-- A record of `len` bytes `c` lies in a set where the set's offsets say, and no byte outside it changed (16 R423). -/
def imageRecordStored (s : State) (set o len : Nat) (c : Bytes) : Prop :=
  (∀ a, a < len → s.setOffset set (s.hbmKey set (o + a)) = some (o + a)) → (∀ e ∈ c, e.1 < len) → twf 0 c = true →
  twf 0 s.mem.hbm = true →
  (∀ a, a < len → tget 0 (s.fillSet set o len c).mem.hbm (s.hbmKey set (o + a)) = tget 0 c a) ∧
  ∀ k, s.inRange set o len k = none → tget 0 (s.fillSet set o len c).mem.hbm k = tget 0 s.mem.hbm k

/-- A switch of context `x` is due and goes on: no chunk is open, or 50 µs have passed (16 R426). -/
def windowOver (s : State) (x : Nat) : Prop :=
  s.ctxSt x = cResident ∧ (s.cx x).switchDue = true ∧
    (s.chunkOpen x = false ∨ 50000 ≤ s.getF (F.watchNs 0) - (s.cx x).dueAt)

/-- A request of resident context `x` waits on the valid semaphore `n` of context `d`, which may run but holds no units
(16 R429). -/
def donates (s : State) (x n d : Nat) : Prop :=
  s.ctxSt x = cResident ∧ s.flag (F.semValid n) = true ∧ s.queuedOn x n = true ∧ s.donee x n = some d

/-- What a write of RT_COMMIT leaves (16 R421): with bit 0 a legal staged table is armed, another refused. -/
def rtAsked (s : State) (v : Nat) (t : State) : Prop :=
  (∀ u, s.regRefused (regOr F.rtCommitCommit.off) v = some u → t = left s u) ∧
  (s.regRefused (regOr F.rtCommitCommit.off) v = none →
    t = left s (if bit v 0 = false then s
      else if s.rtLegal = false then (s.setB F.rtStatusRefused true).rejected F.rtCommitCommit
      else (s.setB F.rtCommitCommit true).setB F.rtStatusRefused false))

/-- From `s` to `t` the armed table is in force: every staged field took its shadow value, and nothing but registers
changed (00 R13, 16 R421). -/
def rtApplied (s t : State) : Prop :=
  t = { s with regs := t.regs } ∧ t.flag F.rtCommitCommit = false ∧
    ∀ i : Fin 64, ∀ f ∈ [F.rtSlotCtx i.val, F.rtSlotValid i.val, F.rtSlotLen i.val],
      (∀ w, s.shadow f = some w → w < 2 ^ f.w → t.getF f = w) ∧ (s.shadow f = none → t.getF f = s.getF f)

/-- What the start of slot `i` leaves of `u`, to which the cycle boundary has brought the armed table and RTEN (16 R421):
nothing behind the cycle's end; else the slot's context, valid, real-time and able to run, is the holder. -/
def rtSlotBegun (s u : State) (i : Nat) (t : State) : Prop :=
  let x := u.getF (F.rtSlotCtx i)
  let named := u.flag (F.rtSlotValid i) = true ∧ u.rtGrant x = true ∧ (u.runnable x = true ∨ u.resident x = true)
  let inCycle := ∀ j, j ≤ i → u.getF (F.rtSlotLen j) ≠ 0
  (u.ctxs.rtOn = false → t = left s { u with ctxs.rtNow := 0 }) ∧
  (u.ctxs.rtOn = true → ¬inCycle → t = left s u) ∧
  (u.ctxs.rtOn = true → inCycle →
    (¬named → t = left s ({ u.setF F.rtStatusSlot i with ctxs.rtNow := 0 } : State).settle) ∧
    (named → (∀ e ∈ u.ctxs.ctx, e.1 ≠ x → e.2.donor = 0) →
      t = left s ({ u.setF F.rtStatusSlot i with ctxs.rtNow := x + 1 } : State).settle))

/-! ### Security (17) -/

/-- A command ends with code `c`: DONE is set, and the engine is idle (17 R455). -/
def secDone (u : State) (c : Nat) : State :=
  { (u.setB F.secResultDone true).setF F.secResultCode c with sec.run := none }

/-- What the end of command `r` leaves (17 R439, R444, R448, R449, R451, R454, R456): SEC_OUT with the report or the item;
the seal; an error's code over an empty SEC_OUT. -/
def secEnded (s : State) (r : SecRun) (t : State) : Prop :=
  let fails := fun c => t = left s (secDone (s.secOut []) c)
  (r.op = opReport → t = left s (secDone (s.secOut (s.reportOf (r.bytes 0 48))) cdOk)) ∧
  (r.op = opCert → t = left s (secDone (s.secOut (s.certificate r.arg)) cdOk)) ∧
  (r.op = opEndSession →
    if s.flag F.secStatusConf then fails cdConfLocked
    else t = { s with regs := t.regs, sec := { s.sec with secret := none, run := none } } ∧
      t.flag F.secStatusSession = false ∧ t.flag F.secResultDone = true ∧ t.getF F.secResultCode = cdOk) ∧
  (r.op = opSeal →
    if s.setValid r.arg = true ∧ s.flag (F.isDescHouse r.arg) = true then
      t = left s (secDone ((s.setBitF (F.secSealSealed (r.arg / 32)) (r.arg % 32) true).secOut []) cdOk)
    else fails cdNotHouse) ∧
  (r.op = opBundleClose →
    if s.flag (F.bundleStatValid r.arg) = false then fails cdBadInput
    else if s.slotBusy r.arg then fails cdInUse
    else t = { s with regs := t.regs, sec := t.sec } ∧ t.flag (F.bundleStatValid r.arg) = false ∧
      t.sec = { s.sec with ck := t.sec.ck, run := none } ∧ tget [] t.sec.ck r.arg = [] ∧
      (∀ b, b ≠ r.arg → tget [] t.sec.ck b = tget [] s.sec.ck b) ∧ t.flag F.secResultDone = true ∧
      t.getF F.secResultCode = cdOk)

/-- What a key agreement leaves (17 R448): a session, and confidential mode with the flag; or the code of the first
condition that fails. -/
def keyAgreed (s : State) (r : SecRun) (t : State) : Prop :=
  let good := Config.x25519Ok (r.bytes 0 32) = true ∧ Config.kemOk (r.bytes 32 1184) = true ∧
    leNat (r.bytes 1264 1) < 2
  if r.unsteady then t = left s (secDone (s.secOut []) cdNotSteady)
  else if s.sec.secret.isSome then t = left s (secDone (s.secOut []) cdSession)
  else (¬good → t = left s (secDone (s.secOut []) cdBadInput)) ∧
    (good → t = { s with regs := t.regs, sec := t.sec, freeCtr := t.freeCtr } ∧ t.sec.run = none ∧
      t.sec.secret.isSome = true ∧ t.flag F.secStatusSession = true ∧ t.flag F.secResultDone = true ∧
      t.getF F.secResultCode = cdOk ∧
      t.flag F.secStatusConf = (s.flag F.secStatusConf || leNat (r.bytes 1264 1) == 1))

/-- OPEN of bundle `all` with header `h` may go on: every condition of 17 R453 but the last holds, in a steady state;
member entry `e` is the device's, `b` the slot, `st` and `off` the destination. -/
def bundleFits (s : State) (r : SecRun) (h all e : List Byte) (st off b : Nat) : Prop :=
  r.unsteady = false ∧ st = leNat (r.bytes 16 1) ∧ off = leNat (r.bytes 24 8) ∧ bundleFields h all.length = true ∧
  fieldAt h 8 4 ≤ s.svn ∧ (bit (fieldAt h 6 1) 1 = true → s.flag F.secStatusConf = true) ∧ s.houseSet st = true ∧
  s.sealed st = true ∧ off + fieldAt h 48 8 ≤ s.setSize st ∧ s.slotFree = some b ∧
  s.groupsTaken (fieldAt h 12 2) (fieldAt h 14 2) = false ∧
  ((upTo (fieldAt h 7 1)).map (memberAt all)).find? (fun e => e.take 16 == fingerprint) = some e

/-! ### Resilience (18) and errors (19) -/

/-- What a write of RES_CMD leaves of `a` (18 R474, R480): a restore begins, which notes whether the context is busy; one
that runs rejects it, another operation does nothing. -/
def restoreAsked (s a t : State) (v : Nat) : Prop :=
  (∀ u, a.regRefused (regOr F.resCmdOp.off) v = some u → t = left s u) ∧
  (a.regRefused (regOr F.resCmdOp.off) v = none → t = left s (
    if a.flag F.resCmdstDone = false then a.rejected F.resCmdOp
    else if bits v 0 3 ≠ 1 then a
    else { a.setB F.resCmdstDone false with
      res.restore := some { ctx := bits v 8 8
                            addr := bits v 16 36 * 64
                            busy := a.ctxBusy (bits v 8 8)
                            asked := false
                            ring := [] } }))

/-- What the end of restore `r` leaves (18 R475): BUSY of a busy context, else what the checks of its record give; 8 says
that it waits for the twin's answer. -/
def restoreAnswered (s t : State) (r : RestoreRun) : Prop :=
  (r.busy = true → t = left s ((s.restoreEnd r.ctx rcBusy 0).getD s)) ∧
  (∀ rr u n c w, r.busy = false → (compRead 0 (some r.ctx) r.addr 64).go s = (.ok rr, u) →
    (restoreGo r.ctx rr).go u = (.ok (c, n), w) →
    t = left s (if c = 8 then w else (w.restoreEnd r.ctx c n).getD s))

/-- The oldest record of die stack `d`, `r`, must wait: its cause is still on its way, or the path is broken and the stack
holds no more than 16 (19 R485, R487). -/
def recordWaits (s : State) (d : Nat) (r : Rec) : Prop :=
  (s.logPath d = true ∧ ∃ q ∈ s.err.recQ, r.parent = some q.rid) ∨
    (s.logPath d = false ∧ (s.err.recQ.filter fun q => q.die = d).length ≤ 16)

/-- From `s` to `t` record `r` was stored in entry `i`, the lowest free one, before `rest`, under the next number (19 R484,
R486, R488). -/
def recordStored (s t : State) (r : Rec) (i : Nat) (rest : List Nat) : Prop :=
  let n := (s.getF F.errSeqLogseq + 1) % 2 ^ 32
  tget none t.err.log i = some ⟨recBytes r (s.linkOf r) n, r.rid⟩ ∧
  (∀ j, j ≠ i → tget none t.err.log j = tget none s.err.log j) ∧ t.err.recQ = s.err.recQ.erase r ∧
  t.getF F.errSeqLogseq = n ∧ t.getF F.errStatusCount = 128 - rest.length ∧
  t.flag F.errStatusFull = decide (rest.length ≤ 4)

/-- From `s` to `t` record `r` was lost: counted, and, unless it was made by an overflow itself, raised by one class (19
R490). -/
def recordLost (s t : State) (r : Rec) : Prop :=
  let u := { s with err.recQ := s.err.recQ.erase r }.incF F.errOvf 1
  let raised := fun c => u.setF F.errStatusOvfclass (Nat.max c (u.getF F.errStatusOvfclass))
  (r.esc = true → t = left s u) ∧
  (r.esc = false → s.fatal = false →
    (r.cls = clsCorrected → r.ctx = none → t = left s (raised clsContext)) ∧
    (r.cls = clsContext →
      t = left s (((raised clsDie).tearTouching r.die (some r.rid)).markEsc s.err.nextRid)) ∧
    (r.cls = clsDie ∨ r.cls = clsFatal → t.fatal = true ∧ t.err.recQ = s.err.recQ.erase r ∧ counted s t F.errOvf 1))

/-- What a write of ERR_AUDIT leaves (19 R493, 00 R15): its fields by their class; GO starts an audit, and is rejected
alone while one runs. -/
def auditAsked (s a t : State) (v : Nat) : Prop :=
  (∀ u, a.regRefused (regOr F.errAuditGo.off) v = some u → t = left s u) ∧
  (a.regRefused (regOr F.errAuditGo.off) v = none → t = left s (
    if bit v 0 = false then a.regWrite (regOr F.errAuditGo.off) v
    else if a.flag F.errAuditDone then (a.regWrite (regOr F.errAuditGo.off) v).audit
    else (a.rejected F.errAuditGo).regWrite (regOr F.errAuditGo.off) v))

/-- What 10 ms leave of an audit that waits for instance `p` (19 R493): audited at its quiescent point, else not quiet. -/
def auditTimed (s t : State) (p : Nat × Nat) : Prop :=
  (s.wellQuiet p.1 p.2 = false → t = { s with regs := t.regs, err.audit := s.err.audit.erase p } ∧
    t.bitF F.errAuditNotquiet p.1 = true ∧ (s.err.audit.erase p = [] → t.flag F.errAuditDone = true)) ∧
  (s.wellQuiet p.1 p.2 = true → s.wellDiff p.1 p.2 = 0 → counted s t F.errAudits 1 ∧
    t = { s with regs := t.regs, err.audit := s.err.audit.erase p })

/-! ### Boot, firmware and self-test (20) -/

/-- The newest record of the Ledger has these TYPE, STEP and CODE (20 R501). -/
def newest (t : State) (type step code : Nat) : Prop :=
  ∃ b, t.boot.ledger.getLast? = some b ∧ fieldAt b 16 1 = type ∧ fieldAt b 17 1 = step ∧ fieldAt b 22 2 = code

/-- From `s` to `t` a failed try `y` was recorded and the next one started, in the alternate mode after the second (20 R497,
R498, R501). -/
def tryAgain (s t : State) (y : Try) (code : Nat) : Prop :=
  t.power = s.power ∧ t.boot.tries = s.boot.tries.erase y ++ [{ y with n := y.n + 1, alt := y.alt || y.n = 1 }] ∧
    newest t ldStep y.step code ∧ ∃ b, t.boot.ledger.getLast? = some b ∧ fieldAt b 18 1 = y.inst % 256 ∧
      fieldAt b 19 1 = (if y.alt then mdAlternate else mdNormal) ∧ fieldAt b 20 1 = rsFail

/-- From `s` to `t` the boot halted in step `k` with code `c` (20 R499). -/
def bootHalted (s t : State) (k c : Nat) : Prop :=
  t.power = s.power ∧ t.flag F.bootStatusHalted = true ∧ t.getF F.bootStatusStep = k ∧
    t.getF F.bootStatusInstance = 0xFF ∧ t.getF F.bootStatusCode = c ∧ t.boot.tries = [] ∧ newest t ldHalt k c

/-- From `s` to `t` the try `y` of step 1 to 6 passed as the last one, and the next step began (20 R497, R507). -/
def stepPassed (s t : State) (y : Try) : Prop :=
  t.power = s.power ∧ t.getF F.bootStatusStep = y.step + 1 ∧ (∃ z ∈ t.boot.tries, z.step = y.step + 1 ∧ z.n = 0) ∧
    (y.step = 2 → t.boot.bank = s.tryBank y) ∧
    (y.step = 4 → t.getF F.bootStatusBank = s.tryBank y % 2 ∧
      t.getF F.secSvnSvn = s.bankSvn (s.tryBank y) % 2 ^ F.secSvnSvn.w)

/-- From `s` to `t` a firmware command of code `op` began, with the live registers it works on (20 R506, R513). -/
def fwBegun (s t : State) (op : Nat) : Prop :=
  t = { s with regs := t.regs, boot := t.boot, sec.run := t.sec.run } ∧
  t.boot = { s.boot with
    fw := op + 1
    fwSrc := s.getF F.fwSrcAddr
    fwOff := s.getF F.fwOffOffset
    fwLen := s.getF F.fwLenBytes } ∧
  t.flag F.fwStatusDone = false ∧ (op ≤ 2 → t.flag F.fwStatusStaged = false ∧ t.flag F.fwStatusWriting = true)

/-- From `s` to `t` the firmware command that runs ended: its result and its FWEVENT record; CLEARALT and SHUTDOWN wrote
their own record last (20 R501, R506). -/
def fwEnded (s t : State) (flashError : Bool) : Prop :=
  let op := s.boot.fw - 1
  let r := s.fwRun op flashError
  t.boot.fw = 0 ∧ t.flag F.fwStatusDone = true ∧ t.flag F.fwStatusWriting = false ∧ t.getF F.fwStatusResult = r.1 ∧
  (∃ b ∈ t.boot.ledger, fieldAt b 16 1 = ldFwEvent ∧ fieldAt b 22 2 = op ∧
    fieldAt b 20 1 = (if r.1 = 0 then rsPass else rsFail)) ∧
  (∃ b, t.boot.ledger.getLast? = some b ∧
    fieldAt b 16 1 = (if op = 6 then ldClearAlt else if op = 7 then ldShutdown else ldFwEvent)) ∧
  t.mem = r.2.mem

/-- What the firmware commands do, and their result codes (20 R506–R508; log entry 35). -/
def fwActs (s : State) (fe : Bool) : Prop :=
  let b := s.inactive
  let o := s.boot.fwOff
  let n := s.boot.fwLen
  ((s.fwRun 1 fe).1 = (if fe then 2 else 0) ∧
    (∀ a, b * bankSize ≤ a → a < (b + 1) * bankSize → tget 0xFF (s.fwRun 1 fe).2.mem.flash a = 0xFF) ∧
    ∀ a, a < b * bankSize ∨ (b + 1) * bankSize ≤ a → tget 0xFF (s.fwRun 1 fe).2.mem.flash a = tget 0xFF s.mem.flash a) ∧
  (n = 0 ∨ bankSize < o + n ∨ o % 256 ≠ 0 ∨ s.boot.fwSrc % 256 ≠ 0 → s.fwRun 2 fe = (1, s)) ∧
  (∀ bs u, 0 < n → o + n ≤ bankSize → o % 256 = 0 → s.boot.fwSrc % 256 = 0 → fe = false →
    (compRead 0 none s.boot.fwSrc n).go s = (.ok bs, u) → s.fwRun 2 fe =
      (0, { u with mem.flash := writeBytes 0xFF u.mem.flash (b * bankSize + o) bs })) ∧
  (s.fwRun 3 fe).1 = s.bankCode b ∧ (s.bankCode b = 0 → (s.fwRun 3 fe).2.flag F.fwStatusStaged = true) ∧
  (s.flag F.fwStatusStaged = true → s.fwRun 4 fe = (0, { s with boot.trialNext := b + 1 })) ∧
  (s.flag F.fwStatusStaged = false → s.fwRun 4 fe = (6, s)) ∧
  (s.flag F.bootStatusTrial = true → s.fwRun 5 fe = (7, s)) ∧
  (s.flag F.bootStatusTrial = false → (s.fwRun 5 fe).1 = 0 ∧
    (s.fwRun 5 fe).2.boot.fusedFloor = Nat.max s.boot.fusedFloor (s.getF F.secSvnSvn) ∧
    (s.fwRun 5 fe).2.getF F.fwSvnFloor = (s.fwRun 5 fe).2.floor % 2 ^ F.fwSvnFloor.w) ∧
  s.fwRun 6 fe = (0, s) ∧ s.fwRun 7 fe = (0, s)

/-- A self-test of target `x` may begin: in RUN, none runs, no grant names the cluster, and it is ready (20 R509, R510). -/
def bistMay (s : State) (x : Nat) : Prop :=
  let g := targetCluster x
  s.flag F.bootStatusRundone = true ∧ s.boot.bist = 0 ∧ s.clusterGranted g = false ∧
    s.readyDie (g / 8) (rdCluster + g % 8) = true

/-- From `s` to `t` the self-test of cluster `g` passed: its arrays are zero, and it is ready; other cores and the records
stay (20 R511). -/
def bistPassed (s t : State) (g : Nat) : Prop :=
  t.boot.bist = 0 ∧ t.getF F.bistStatusResult = 0 ∧ t.flag F.bistStatusDone = true ∧
  t.readyDie (g / 8) (rdCluster + g % 8) = true ∧ t.err = s.err ∧
  (∀ c, c < 8 → t.core (8 * g + c) = {} ∧ ∀ b, b < ocSize → tget 0 t.mem.oc (ocKey (8 * g + c) b) = 0) ∧
  (∀ b, wayBase g 0 ≤ b → b < wayBase g 0 + 16 * 1572864 → tget 0 t.mem.cm b = 0) ∧
  ∀ c, c < 8 * g ∨ 8 * g + 8 ≤ c → t.core c = s.core c

/-- From `s` to `t` the self-test of target `x` failed: a die-class record, and the cluster stays out of service (20
R511). -/
def bistFailed (s t : State) (x : Nat) : Prop :=
  t = { s with regs := t.regs, boot.bist := 0, err := t.err } ∧ t.getF F.bistStatusResult = 1 ∧
  t.flag F.bistStatusDone = true ∧ ∃ r, t.err.recQ = s.err.recQ ++ [r] ∧ r.cls = clsDie ∧
    r.die = targetCluster x / 8 ∧ r.unit = uMgmt ∧ r.kind = kIntegrity ∧ r.detail = x

/-! ### Ways and sets (05) -/

/-- From `s` to `t` way `w` of cluster `k` has been cleared: its bytes are zero, no cache line of it is left, ZEROING is
clear, and every other byte and line stays (05 R115). -/
def wayCleared (s t : State) (k w : Nat) : Prop :=
  t = { s with regs := t.regs, mem := t.mem } ∧
  t.mem = { s.mem with cm := t.mem.cm, lines := t.mem.lines, sramBad := t.mem.sramBad, sramSoft := t.mem.sramSoft } ∧
  t.flag (F.cmWayZeroing k w) = false ∧
  (∀ e, e ∈ t.mem.lines ↔ e ∈ s.mem.lines ∧ ¬ (e.cluster = k ∧ e.way = w)) ∧
  (∀ a, a < 1572864 → tget 0 t.mem.cm (wayBase k w + a) = 0) ∧
  ∀ a, a < wayBase k w ∨ wayBase k w + 1572864 ≤ a → tget 0 t.mem.cm a = tget 0 s.mem.cm a

/-- From `s` to `t` set `n` has been cleared: the bytes of its members are zero, and every other byte stays (05 R127). -/
def setCleared (s t : State) (n : Nat) : Prop :=
  t = { s with regs := t.regs, mem := t.mem } ∧
  t.mem = { s.mem with hbm := t.mem.hbm, badBursts := t.mem.badBursts, softBursts := t.mem.softBursts,
                       setClr := t.mem.setClr } ∧
  tget false t.mem.setClr n = false ∧ (∀ m ∈ s.members n, ∀ a, a < pcSize → tget 0 t.mem.hbm (m * pcSize + a) = 0) ∧
  ∀ a, (∀ m ∈ s.members n, a < m * pcSize ∨ m * pcSize + pcSize ≤ a) → tget 0 t.mem.hbm a = tget 0 s.mem.hbm a

end Sys2Proof.Machine
end

