-- ==== Sys2Proof/WellFormed.lean ====
section
/-! DEFINITION. Which commands can occur: what a type of an operand does not already bound (lists of a fixed
length, sizes of accesses, distinct contexts). -/
namespace Sys2Proof

/-- A list of numbers without repeats. -/
def distinct : List Nat → Bool
  | [] => true
  | x :: r => !(r.contains x) && distinct r

/-- A response carries a whole line (13 R360). -/
def lineOk (data : List Byte) : Bool := data.length == 64

/-- A received frame: MAC control frames of PFC carry eight quanta (12 R343), and a corrected codeword has 1 to 15
corrected symbols (12 R332). -/
def Frame.wf (f : Frame) : Bool :=
  decide (f.fecCorrected ≤ f.fecSymbols) && decide (f.fecSymbols ≤ 15 * f.fecCorrected)
    && match f.kind with
      | .macControl _ _ q => q.length == 8
      | _ => true

/-- Activity lists kinds in the order of 15 R404: at most 64 format pairs and 64 classes. -/
def Activity.wf (a : Activity) : Bool := decide (a.blocks.length ≤ 64) && decide (a.vectorWords.length ≤ 64)

/-- One value for each die stack. -/
def SlowMeasure.wf (m : SlowMeasure) : Bool := m.compMw.length == 4 && m.baseMw.length == 4

/-- A context's activity is given once. -/
def RailReading.wf (r : RailReading) : Bool := distinct (r.activity.map fun a => a.1.val)

/-- The packet's payload fits a jumbo frame (11 R301); IPv6 has no header checksum or options of IPv4 (11 R296). -/
def Packet.wf (p : Packet) : Bool :=
  decide (p.payload.length ≤ 9216) && (!p.v6 || (!p.options && !p.fragment && p.headerSumOk))

/-- A command that can occur. -/
def Instr.wf : Instr → Bool
  | .flitReceive _ bytes => bytes.length == 256
  | .gnts _ _ _ data => lineOk data
  | .gnte _ _ _ data => lineOk data
  | .cur _ _ _ data => lineOk data
  | .apwr _ _ off _ data => decide (off.toNat % 64 + data.length ≤ 64)
  | .aprd _ _ off size => decide (1 ≤ size) && decide (off.toNat % 64 + size ≤ 64)
  | .ctlrd _ _ _ size => decide (1 ≤ size) && decide (size < 256)
  | .ctlwr _ _ _ size _ => decide (1 ≤ size) && decide (size < 256)
  | .pfcReceive _ _ quanta => quanta.length == 8
  | .frameReceive _ f => f.wf
  | .fastLoop _ a => a.wf
  | .slowLoop m => m.wf
  | .railSample r => r.wf
  | .sensorSample _ compute base => compute.length == 16 && base.length == 25
  | .d2dFlitReceive _ _ _ _ lanes _ => distinct (lanes.map (·.val))
  | .write _ p => p.wf
  | .writeNotify _ p => p.wf
  | .readReq _ p => p.wf
  | .readResp _ p => p.wf
  | .rmtFadd _ p => p.wf
  | .cswap _ p => p.wf
  | .swap _ p => p.wf
  | .atomicResp _ p => p.wf
  | .reduceWrite _ p => p.wf
  | .ack _ p => p.wf
  | .nakSeq _ p => p.wf
  | .nakBusy _ p => p.wf
  | .nakAccess _ p => p.wf
  | .openPkt _ p => p.wf
  | .openAck _ p => p.wf
  | .haltPkt _ p => p.wf
  | .closePkt _ p => p.wf
  | _ => true

end Sys2Proof
end

