-- ==== Sys2Proof/Certificates/Slice0/Obligations.lean ====
section
/-! DEFINITION. The statements about this model, for the provers. -/

open Sys2Proof Sys2Proof.Machine

/-! ### The block as a whole -/

/-- Log entry 1: a queue of commands, and idling on an empty one. -/
def Obligations.StepRunsFrontCommand : Prop :=
  (∀ (c : Instr) (rest : List Instr) (s : State),
    step { s with pending := c :: rest } = exec c { s with pending := rest }) ∧
  (∀ s : State, s.pending = [] → step s = .next s)

/-- 15 R398, 19 R482: errors are records and actions of the device; the queue is log entry 1. -/
def Obligations.EveryCommandAnswersNextState : Prop :=
  (∀ (c : Instr) (s : State), runsTo c s fun t => t.pending = s.pending ∧
     (t.power = s.power ∨ outside c = true ∨ ∃ k i r, c = .bootStepEnd k i r)) ∧
  (∀ s t : State, step s = .next t → t.pending = s.pending.tail)

/-- 00 R9, 15 R398: what reset leaves. -/
def Obligations.ResetIsLegalAndEmpty : Prop :=
  State.reset.power.ok = true ∧ State.reset.mem.wf = true ∧ State.reset.power.st = .off ∧
  State.reset.live = false ∧ State.reset.pending = [] ∧ State.reset.err.recQ = [] ∧
  ∀ f : Fld, State.reset.getF f = f.reset

/-- 15 R398, R413; 21 R521–R523: the table of power states, over every command. -/
def Obligations.StepKeepsPowerLegal : Prop :=
  ∀ s t : State, s.power.ok = true → step s = .next t → t.power.ok = true

/-- 15 R398: with RUN_EN low nothing in the module runs; 21 R522: the package is held in reset. -/
def Obligations.NothingRunsWithoutPowerOrInReset : Prop :=
  ∀ (c : Instr) (s : State), s.live = false → outside c = false → exec c s = .next s

/-- 19 R483: work is abandoned, nothing further is consumed, writes other than ERR_ACK are ignored. -/
def Obligations.DeviceFatalStopsWork : Prop :=
  (∀ (c : Instr) (s : State), s.fatal = true → outside c = false → runsFatal c = false → exec c s = .next s) ∧
  (∀ (link : Fin 2) (off : BitVec 28) (size : AccessSize) (v : Word64) (s : State), s.fatal = true →
    off.toNat ≠ F.errAckIndex.off → accessOk off.toNat size = true →
    exec (.registerWrite link off size v) s = .next s)

/-- 15 R398, R413: the table of power states; RUN is entered when management firmware completes the boot steps. -/
def Obligations.TrippedAndRunHaveOneWay : Prop :=
  ((∀ (c : Instr) (s : State), s.power.ok = true → s.power.st = .tripped → c ≠ .runEnFall →
     runsTo c s fun t => t.power.st = .tripped ∧ t.power.runEn = true) ∧
   (∀ s : State, s.power.ok = true → s.power.st = .tripped →
     runsTo .runEnFall s fun t => t.power.st = .off ∧ t.power.runEn = false)) ∧
  (∀ (c : Instr) (s t : State), exec c s = .next t → s.power.st ≠ .run → t.power.st = .run →
     s.power.st = .boot ∧ t.flag F.bootStatusRundone = true ∧ ∃ k i r, c = .bootStepEnd k i r)

/-! ### Power (15, 21) -/

/-- 15 R398, R413; 20 R497; 21 R520–R523; 19 R483 (log entry 41). -/
def Obligations.PowerComesAndGoes : Prop :=
  (((∀ (mv : Nat) (a : BitVec 3) (s : State), s.power.runEn = false →
      exec (.runEnRise mv a) s = .next { s with
        loops.inputMv := mv
        power := { s.power with
          runEn := true, smbAddr := a.toNat, riseAgain := s.power.downPending || s.power.riseAgain
          st := if s.power.downPending then s.power.st else if 48000 ≤ mv ∧ mv ≤ 57000 then .boot else .off } }) ∧
    (∀ s : State, s.power.downPending = true →
      exec .powerDownComplete s = .next { s with
        power := { s.power with
          downPending := false, riseAgain := false
          st := if s.power.riseAgain = false then s.power.st
            else if 48000 ≤ s.loops.inputMv ∧ s.loops.inputMv ≤ 57000 then .boot else .off } }) ∧
    (∀ s : State, s.power.runEn = true → runsTo .runEnFall s fun t =>
      emptied s t ∧ t.regs = State.reset.regs ∧ (s.boot.fw ≠ 2 → s.boot.fw ≠ 3 → t.mem.flash = s.mem.flash) ∧
      t.power = { s.power with st := .off, runEn := false, railsUp := false, pwrOk := false, riseAgain := false,
                               downPending := s.power.downPending || s.power.st == .boot || s.power.st == .run })) ∧
   ((∀ s : State, s.power.st = .boot → s.power.railsUp = false → s.power.rstN = true → s.fatal = false →
      runsTo .railsInRegulation s fun t => t.power = { s.power with railsUp := true, pwrOk := true } ∧
        t.getF F.bootStatusStep = 1 ∧ ∃ y ∈ t.boot.tries, y.step = 1 ∧ y.n = 0) ∧
    (∀ s : State, s.power.st = .boot → s.power.railsUp = false → s.power.rstN = false ∨ s.fatal = true →
      exec .railsInRegulation s = .next { s with power.railsUp := true, power.pwrOk := true }) ∧
    (∀ s : State, s.power.st = .boot → s.power.railsUp = true → s.power.rstN = false → s.fatal = false →
      runsTo .rstNRise s fun t => t.power = { s.power with rstN := true } ∧
        t.getF F.bootStatusStep = 1 ∧ ∃ y ∈ t.boot.tries, y.step = 1 ∧ y.n = 0) ∧
    (∀ s : State, s.power.st ≠ .boot ∨ s.power.railsUp = false ∨ s.fatal = true → s.power.rstN = false →
      exec .rstNRise s = .next { s with power.rstN := true }))) ∧
  ((∀ s : State, s.power.rstN = true → s.power.st = .boot ∨ s.power.st = .run →
     runsTo .rstNFall s fun t => emptied s t ∧ t.power = { s.power with rstN := false, st := .boot } ∧
       t.fatal = s.fatal ∧ ∀ f : Fld, f.key ≠ F.errStatusFatal.key → t.getF f = f.reset) ∧
   (∀ s : State, s.power.rstN = true → s.power.st = .off ∨ s.power.st = .tripped →
     exec .rstNFall s = .next { s with power.rstN := false }) ∧
   (∀ (c b : Nat) (s : State), s.power.st = .boot ∨ s.power.st = .run → 120 ≤ c ∨ 110 ≤ b →
     runsTo (.hardwareTrip c b) s fun t => emptied s t ∧ t.regs = State.reset.regs ∧
       t.power = { s.power with st := .tripped, railsUp := false, pwrOk := false }) ∧
   (∀ (c b : Nat) (s : State), c < 120 → b < 110 → exec (.hardwareTrip c b) s = .next s) ∧
   (∀ (mv us : Nat) (s : State), s.power.st = .boot ∨ s.power.st = .run → mv < 36000 ∨ (mv < 40000 ∧ 2000 < us) →
     runsTo (.inputUndervoltage mv us) s fun t => emptied s t ∧ t.regs = State.reset.regs ∧ t.loops.inputMv = mv ∧
       t.power = { s.power with st := .tripped, railsUp := false, pwrOk := false }) ∧
   (∀ (mv us : Nat) (s : State), 40000 ≤ mv ∨ (36000 ≤ mv ∧ us ≤ 2000) →
     exec (.inputUndervoltage mv us) s = .next { s with loops.inputMv := mv }))

/-- 15 R401–R412; 16 R433; the rounding is log entry 37. -/
def Obligations.PowerLoopsMeasureAndAct : Prop :=
  ((∀ (c : Fin 32) (a : Activity) (s : State), s.live = true → runsTo (.fastLoop c a) s fun t =>
     t = { s with regs := t.regs, loops := t.loops } ∧
     t.getF (F.blwStatusBub c.val) =
       (if s.flag (F.blwStatusJclamp c.val) then 240
        else if s.flag (F.blwStatusMeasonly c.val) then s.getF (F.blwStatusBub c.val)
        else nextBub (s.getF (F.blwStatusBub c.val)) (s.getF (F.pwrDieKd (c.val / 8)) * estimate a / 256)
          (1000 * s.getF (F.blwShareMw c.val)))) ∧
   (∀ (b e : Nat), nextBub b e 0 = 240) ∧
   (∀ (b e z : Nat), 0 < z → nextBub b e z = Nat.min 240
     (if e < z then b - (32 * (z - e) + (z - 1)) / z else b + (32 * (e - z) + (z - 1)) / z)) ∧
   (∀ (d : Fin 4) (mw : Nat) (s : State), s.live = true → s.bitF F.pwrStatusEfault d.val = true →
     runsTo (.measonlyUpdate d mw) s fun t => t = { s with regs := t.regs } ∧ ∀ c : Fin 8,
       t.getF (F.blwStatusBub (8 * d.val + c.val)) =
         let sum := (upTo 8).foldl (fun n c => n + s.getF (F.blwShareMw (8 * d.val + c))) 0
         if s.flag (F.blwStatusJclamp (8 * d.val + c.val)) = true ∨ sum = 0 then 240 else if mw = 0 then 0
         else Nat.min 240 (256 - (24320 * sum + 100 * mw - 1) / (100 * mw))) ∧
   (∀ (r : RailReading) (s : State), s.live = true → r.wf = true → runsTo (.railSample r) s fun t =>
     t = { s with regs := t.regs, loops := t.loops } ∧ t.loops.inputMv = r.inputMv ∧
     t.getF F.accTotalNj = (s.getF F.accTotalNj + r.energyNj) % 2 ^ F.accTotalNj.w ∧
     ∀ p ∈ r.activity, ∀ n, n = r.activity.foldl (fun n q => n + q.2) r.house → 0 < n →
       t.getF (F.accEnergy p.1.val) =
         (s.getF (F.accEnergy p.1.val) + r.energyNj * p.2 / n) % 2 ^ (F.accEnergy p.1.val).w)) ∧
  ((∀ (m : SlowMeasure) (s : State), s.live = true → m.wf = true → runsTo (.slowLoop m) s fun t =>
     t = { s with regs := t.regs, loops := t.loops, err := t.err, freeCtr := t.freeCtr } ∧
     t.getF F.pwrInputMw = m.inputMw % 2 ^ F.pwrInputMw.w ∧
     t.getF F.pwrOver = (if 1000 * s.getF F.pwrCfgCap < m.inputMw then (s.getF F.pwrOver + 1) % 2 ^ F.pwrOver.w
       else s.getF F.pwrOver) ∧
     (1000 * s.getF F.pwrCfgCap - 25000 - (m.inputMw - sumMw m.compMw) < m.floorMw → s.getF F.pwrStatusHbmthr < 6 →
       t.getF F.pwrStatusHbmthr = s.getF F.pwrStatusHbmthr + 1)) ∧
   (∀ (d : Fin 4) (compute base : List Nat) (s : State), s.live = true → runsTo (.sensorSample d compute base) s fun t =>
     t = { s with regs := t.regs, loops := t.loops } ∧
     t.getF (F.pwrTempTcmax d.val) = maxOf compute % 256 ∧ t.getF (F.pwrTempTbmax d.val) = maxOf base % 256 ∧
     ∀ c : Fin 8, let a := compute.getD (2 * c.val) 0; let b := compute.getD (2 * c.val + 1) 0
       t.flag (F.blwStatusJclamp (8 * d.val + c.val)) =
         if 105 ≤ a ∨ 105 ≤ b then true else if a ≤ 103 ∧ b ≤ 103 then false
         else s.flag (F.blwStatusJclamp (8 * d.val + c.val))) ∧
   (∀ (h : Fin 16) (celsius : Nat) (s : State), s.live = true → celsius < 256 → runsTo (.hbmTempRead h celsius) s fun t =>
     t = { s with regs := t.regs, loops := t.loops } ∧
     bits (t.getF (F.pwrTempThbm (h.val / 4))) (8 * (h.val % 4)) 8 = celsius ∧
     t.flag (F.hbmStatusHot h.val) = decide (85 < celsius) ∧
     tget 0 t.loops.hbmCap h.val = (if 100 ≤ celsius then 2 else if 95 ≤ celsius then 1
       else if celsius < 93 then 0 else tget 0 s.loops.hbmCap h.val)) ∧
   (∀ (d : Fin 4) (mv ns : Nat) (s : State), s.works = true → mv < 500 → 1000 < ns → s.inService d.val = true →
     runsTo (.railUndervoltage d mv ns) s fun t =>
       if d.val = 0 then t.fatal = true else t.inService d.val = false) ∧
   (∀ (mask : BitVec 4) (s : State), s.works = true → s.blockUp F.pwrStatusEfault.off = true →
     runsTo (.efaultClear mask) s fun t => t = { s with regs := t.regs, loops := t.loops } ∧
       ∀ d : Fin 4, t.bitF F.pwrStatusEfault d.val = (s.bitF F.pwrStatusEfault d.val && !mask.getLsb d)))

/-- 21 R524, R525; log entry 13. -/
def Obligations.SmbusAndTapAnswer : Prop :=
  ((∀ (a : BitVec 7) (s : State), s.smbusHears a = true →
     (∃ w, exec (.smbusStatus a) s = .next { s with out := s.out ++ [.smbus (leBytes 2 w)] } ∧ w < 64 ∧
       bits w 0 2 = (if s.power.st = .run then 2 else 1) ∧ bits w 2 1 = s.getF F.bootStatusHalted % 2 ∧
       bit w 3 = s.fatal ∧ bit w 4 = s.alert ∧ bit w 5 = s.degraded) ∧
     exec (.smbusBoot a) s = .next { s with out := s.out ++ [.smbus (leBytes 1 (s.getF F.bootStatusStep)
       ++ leBytes 1 (s.getF F.bootStatusInstance) ++ leBytes 2 (s.getF F.bootStatusCode))] } ∧
     exec (.smbusVin a) s = .next { s with out := s.out ++ [.smbus (leBytes 2 (s.measured s.loops.inputMv))] } ∧
     exec (.smbusPin a) s = .next { s with out := s.out ++ [.smbus (leBytes 2 (s.measured (s.getF F.pwrInputMw / 1000)))] } ∧
     exec (.smbusCap a) s = .next { s with out := s.out ++ [.smbus (leBytes 2 (s.getF F.pwrCfgCap))] } ∧
     (∃ bs, exec (.smbusTemp a) s = .next { s with out := s.out ++ [.smbus bs] } ∧ bs.length = 12 ∧ ∀ n : Fin 4,
       bs[3 * n.val]? = some (BitVec.ofNat 8 (s.measured (s.getF (F.pwrTempTcmax n.val)))) ∧
       bs[3 * n.val + 1]? = some (BitVec.ofNat 8 (s.measured (s.getF (F.pwrTempTbmax n.val)))) ∧
       bs[3 * n.val + 2]? = some (BitVec.ofNat 8 (s.measured
         (maxOf ((upTo 4).map fun j => bits (s.getF (F.pwrTempThbm n.val)) (8 * j) 8))))) ∧
     exec (.smbusSerial a) s = .next { s with out := s.out ++ [.smbus (leBytes 8 Config.serial.toNat)] } ∧
     exec (.smbusPart a) s = .next { s with out := s.out ++ [.smbus [0x76, 0x05]] } ∧
     ∀ code : Byte, exec (.smbusWriteNak a code) s = .next { s with out := s.out ++ [.smbusNak] }) ∧
   (∀ v (s : State), s.bitF F.presentPkgPresent 2 = false → s.measured v = 0) ∧
   (∀ (a : BitVec 7) (s : State), s.power.pwrOk = false ∨ a.toNat ≠ 0x58 + s.power.smbAddr → ∀ c ∈
     [Instr.smbusStatus a, .smbusBoot a, .smbusVin a, .smbusPin a, .smbusCap a, .smbusTemp a, .smbusSerial a, .smbusPart a],
     exec c s = .next s)) ∧
  ((∀ (v : Word64) (s : State), s.power.runEn = true → s.power.rstN = false →
     exec (.extest v) s = .next { s with power.tapIr := 4, power.tapBsr := v, out := s.out ++ [.pins v] } ∧
     exec (.sample v) s = .next { s with power.tapIr := 2, power.tapBsr := v, out := s.out ++ [.tdo v.toNat] } ∧
     exec (.preload v) s = .next { s with power.tapIr := 3, power.tapBsr := v }) ∧
   (∀ (v : Word64) (s : State), s.power.rstN = true → ∀ c ∈ [Instr.extest v, .sample v, .preload v],
     exec c s = .next { s with power.tapIr := 1 }) ∧
   (∀ s : State, exec .bypass s = .next { s with power.tapIr := 1, out := s.out ++ [.tdo 0] }) ∧
   (∀ s : State, ∃ n, exec .idcode s = .next { s with power.tapIr := 0, out := s.out ++ [.tdo n] } ∧ ∀ k : Fin 4,
     bits n (32 * k.val + 12) 16 = 0x0576 ∧ bits n (32 * k.val) 1 = 1 ∧
     bits n (32 * k.val + 28) 4 = Config.partRev.toNat % 16 ∧ bits n (32 * k.val + 1) 11 = Config.jedec.toNat))

/-! ### Die stacks, die-to-die links, crossings and the watch (14) -/

/-- 14 R375, R377–R379. -/
def Obligations.DiscoveryAndDieToDieFlits : Prop :=
  (∀ (d p : Fin 4) (s : State), s.works = true → s.dies.token = true → d.val ≠ 0 →
    runsTo (.discoveryToken d p) s fun t => t = { s with regs := t.regs, dies := t.dies, out := t.out, boot := t.boot } ∧
      t.getF (F.dieIdPos d.val) = cwOf p.val ∧ t.flag (F.dieIdDisc d.val) = true ∧ t.dies.token = true ∧
      t.out = s.out ++ [.d2dToken d.val (cwOf p.val)]) ∧
  (∀ s : State, s.works = true → s.dies.token = true →
    exec (.discoveryToken 0 2) s = .next { s with dies.token := false }) ∧
  (∀ (s : State) (y : Try), s.works = true → s.dies.token = true → y.n = 0 → y.step = 7 →
    s.boot.tries.find? (fun t => t.step = 7) = some y →
    runsTo .discoveryTimeout s fun t => (∃ z ∈ t.boot.tries, z.step = 7 ∧ z.inst = y.inst ∧ z.n = 1) ∧
      ∃ r, t.boot.ledger.getLast? = some r ∧ fieldAt r 16 1 = 1 ∧ fieldAt r 17 1 = 7 ∧ fieldAt r 20 1 = 1) ∧
  (∀ (d : Fin 4) (k : Fin 2) (g : Fin 24) (lanes : List (Fin 33)) (x : BitVec 512) (s : State), s.works = true →
    s.flag (F.d2dStatusUp d.val k.val) = true → s.bitF (F.d2dStatusRxgrp d.val k.val) g.val = true →
    tget false (s.dport d.val k.val).gap g.val = false →
    (runsTo (.d2dFlitReceive d k g false lanes x) s fun t => t = { s with regs := t.regs, dies := t.dies, out := t.out } ∧
      t.getF (F.d2dCrcerr d.val k.val) = (s.getF (F.d2dCrcerr d.val k.val) + 1) % 2 ^ 64 ∧
      t.out = s.out ++ [.d2dRefuse d.val k.val g.val] ∧ tget false (t.dport d.val k.val).gap g.val = true) ∧
    ((s.dport d.val k.val).held = [] → (s.dport d.val k.val).next = g.val →
      runsTo (.d2dFlitReceive d k g true lanes x) s fun t => t = { s with regs := t.regs, dies := t.dies, out := t.out } ∧
        t.out = s.out ++ [.d2dFlit d.val k.val x] ∧ tget [] (t.dport d.val k.val).held g.val = []) ∧
    ((s.dport d.val k.val).held = [] → (s.dport d.val k.val).next ≠ g.val →
      s.bitF (F.d2dStatusRxgrp d.val k.val) (s.dport d.val k.val).next = true →
      runsTo (.d2dFlitReceive d k g true lanes x) s fun t => t = { s with regs := t.regs, dies := t.dies } ∧
        tget [] (t.dport d.val k.val).held g.val = [x])) ∧
  (∀ (d : Fin 4) (k : Fin 2) (g : Fin 24) (q : Nat) (s : State), s.works = true →
    s.flag (F.d2dStatusUp d.val k.val) = true → s.bitF (F.d2dStatusTxgrp d.val k.val) g.val = true →
    runsTo (.d2dFlitRefused d k g q) s fun t => t = { s with regs := t.regs, out := t.out } ∧
      t.getF (F.d2dReplay d.val k.val) = (s.getF (F.d2dReplay d.val k.val) + 1) % 2 ^ 64 ∧
      t.out = s.out ++ [.d2dReplay d.val k.val g.val q])

/-- 14 R383–R387; log entry 26 numbers the domains. -/
def Obligations.CrossingsDeliverOrDrop : Prop :=
  (∀ (d : Fin 4) (dom : Domain) (c : Fin 8) (v : Word64) (s : State), s.live = true → hasDomain d.val dom = true →
    (s.xing (xingKey d.val dom c.val)).inReset = false →
    ((s.xing (xingKey d.val dom c.val)).dead = false →
      (runsTo (.crossingEvent d dom c) s fun t => t = { s with dies.xing := t.dies.xing } ∧
        (∀ k, k ≠ xingKey d.val dom c.val → t.xing k = s.xing k) ∧
        ∀ x, x = s.xing (xingKey d.val dom c.val) →
          (s.domRuns d.val dom = true → x.req = x.ack → t.xing (xingKey d.val dom c.val) =
            { x with pulses := x.pulses + 1, req := !x.req, ack := !x.ack, pending := false }) ∧
          (s.domRuns d.val dom = false → x.req ≠ x.ack →
            t.xing (xingKey d.val dom c.val) = { x with pending := true })) ∧
      (s.domRuns d.val dom = true → runsTo (.crossingValue d dom c v) s fun t => t = { s with dies.xing := t.dies.xing } ∧
        (t.xing (xingKey d.val dom c.val)).value = v ∧
        ∀ k, k ≠ xingKey d.val dom c.val → t.xing k = s.xing k) ∧
      (s.domRuns d.val dom = false → exec (.crossingValue d dom c v) s = .next s)) ∧
    ((s.xing (xingKey d.val dom c.val)).dead = true → ∀ i ∈ [Instr.crossingEvent d dom c, .crossingValue d dom c v],
      runsTo i s fun t => t = { s with regs := t.regs } ∧
        t.getF (F.xdrop d.val) = (s.getF (F.xdrop d.val) + 1) % 2 ^ 64)) ∧
  (∀ (d : Fin 4) (dom : Domain) (c : Fin 8) (s : State), s.works = true → hasDomain d.val dom = true →
    (s.xing (xingKey d.val dom c.val)).inReset = false → (s.xing (xingKey d.val dom c.val)).dead = false →
    (dom = .puell → (s.pl (d.val / 2)).reqs = [] ∧ (s.pl (d.val / 2)).tagWait = []) →
    ((∃ p, dom = .mac p) → s.rmt.slot = []) →
    runsTo (.crossingDead d dom c) s fun t => (t.xing (xingKey d.val dom c.val)).dead = true ∧
      (∀ k, k ≠ xingKey d.val dom c.val → t.xing k = s.xing k) ∧
      t.getF (F.xtimeout d.val) = (s.getF (F.xtimeout d.val) + 1) % 2 ^ 64 ∧
      ∃ r, t.err.recQ = s.err.recQ ++ [r] ∧ r.cls = clsDie ∧ r.die = d.val ∧ r.unit = uDie ∧ r.kind = kTimeout ∧
        r.sub = c.val ∧ r.ctx = none ∧ r.detail = domNum dom) ∧
  (∀ (d : Fin 4) (dom : Domain) (s : State), s.live = true → hasDomain d.val dom = true →
    runsTo (.domainReset d dom) s fun t => t = { s with dies.xing := t.dies.xing } ∧
      ∀ c : Fin 8, t.xing (xingKey d.val dom c.val) =
        { dead := false, pending := false, req := false, ack := false, pulses := 0, value := 0#64, inReset := needsLock dom && !(s.flag (F.dieStatusLock d.val)) })

/-- 14 R381, R382, R388, R389, R391–R393, R395. -/
def Obligations.StacksLeaveReturnAndTheirWatchCounts : Prop :=
  ((∀ (d : Fin 4) (s : State), s.works = true → s.flag (F.dieStatusLock d.val) = true → d.val ≠ 0 →
     s.inService d.val = true → runsTo (.pllLockLoss d) s fun t => t.inService d.val = false ∧
       t.flag (F.dieStatusLock d.val) = false ∧ t.getF (F.dieStatusLastcause d.val) = 2) ∧
   (∀ s : State, s.works = true → runsTo .p0ClockLoss s fun t => t.fatal = true ∧
     t = { s with regs := t.regs, err := t.err } ∧ ∃ r, t.err.recQ = s.err.recQ ++ [r] ∧ r.cls = clsFatal ∧
       r.die = 0 ∧ r.unit = uDie ∧ r.kind = kClock) ∧
   (∀ s : State, s.works = true → s.flag (F.dieStatusLock 0) = true →
     exec (.pllLockLoss 0) s = exec .p0ClockLoss s) ∧
   (∀ (d : Fin 4) (v : BitVec 32) (s : State), s.works = true →
     (d.val ≠ 0 → v.getLsbD 0 = true → s.inService d.val = true → runsTo (.dieReset d v) s fun t =>
       t.inService d.val = false ∧ t.getF (F.dieStatusLastcause d.val) = 1 ∧
       ∀ k : Fin 2, .d2dNotice d.val k.val ∈ t.out) ∧
     (d.val = 0 ∨ v.getLsbD 0 = false ∨ s.inService d.val = false → exec (.dieReset d v) s = .next s)) ∧
   (∀ (a : Fin 4) (k : Fin 2) (s : State), s.works = true → (∀ x, s.alive x = false) →
     tget false s.dies.notice (2 * a.val + k.val) = true → ∀ i ∈ [Instr.neighbourSilence a k, .resetNotice a k],
     (i = .resetNotice a k → s.getF (F.dieStatusLastcause (neighbour a.val k.val)) = 1) →
     runsTo i s fun t => tget false t.dies.notice (2 * a.val + k.val) = false ∧
       t.flag (F.d2dStatusUp a.val k.val) = false ∧
       t.getF (F.d2dFlush a.val k.val) = (s.getF (F.d2dFlush a.val k.val) + s.d2dOut a.val k.val) % 2 ^ 64 ∧
       ∃ r ∈ t.err.recQ, r.cls = clsDie ∧ r.die = a.val ∧ r.unit = uD2d ∧ r.kind = kReclaim ∧
         r.sub = neighbour a.val k.val ∧ r.detail = s.d2dOut a.val k.val % 2 ^ 64) ∧
   (∀ (a : Fin 4) (k : Fin 2) (s : State), tget false s.dies.notice (2 * a.val + k.val) = false →
     ∀ i ∈ [Instr.neighbourSilence a k, .resetNotice a k], exec i s = .next s) ∧
   (∀ (d : Fin 4) (s : State), s.works = true → d.val ≠ 0 → s.inService d.val = false →
     s.getF (F.dieStatusLastcause d.val) ≠ 0 →
     (∀ k : Fin 2, tget false s.dies.notice (2 * neighbour d.val k.val + (1 - k.val)) = false) →
     runsTo (.dieReturn d) s fun t => t.inService d.val = true ∧ t.flag (F.dieStatusLock d.val) = true ∧
       (∀ k, 128 * d.val * pcSize ≤ k → k < 128 * (d.val + 1) * pcSize → tget 0 t.mem.hbm k = 0) ∧
       (∀ k, k < 128 * d.val * pcSize ∨ 128 * (d.val + 1) * pcSize ≤ k → tget 0 t.mem.hbm k = tget 0 s.mem.hbm k) ∧
       ∀ n : Fin 256, s.setValid n.val = true → (s.setDies n.val).contains d.val = true → t.setValid n.val = false)) ∧
  ((∀ (d : Fin 4) (s : State), s.live = true →
     d.val = 0 ∨ s.inService d.val = true ∨ s.getF (F.dieStatusLastcause d.val) = 0 →
     runsTo (.watchPeriod d) s fun t => t = { s with regs := t.regs, dies := t.dies } ∧
       t.getF (F.watchRaw d.val) = (s.getF (F.watchRaw d.val) + 1) % 2 ^ 64 ∧
       t.getF (F.watchNs d.val) = (s.getF (F.watchNs d.val)
         + (tget 0 s.dies.frac d.val + s.getF (F.watchCalCal d.val)) / 2 ^ 24) % 2 ^ 64 ∧
       tget 0 t.dies.frac d.val = (tget 0 s.dies.frac d.val + s.getF (F.watchCalCal d.val)) % 2 ^ 24 ∧
       t.flag (F.dieStatusWstop d.val) = false) ∧
   (∀ (d : Fin 4) (s : State), s.live = true → s.flag (F.dieStatusWstop d.val) = false →
     (d.val = 0 ∨ s.inService d.val = true ∨ s.getF (F.dieStatusLastcause d.val) = 0) →
     runsTo (.watchStop d) s fun t => t = { s with regs := t.regs, err := t.err } ∧
       t.flag (F.dieStatusWstop d.val) = true ∧ ∃ r, t.err.recQ = s.err.recQ ++ [r] ∧ r.cls = clsDie ∧
         r.die = d.val ∧ r.unit = uDie ∧ r.kind = kClock) ∧
   (∀ (d : Fin 4) (s : State), s.flag (F.dieStatusWstop d.val) = true → exec (.watchStop d) s = .next s))

/-! ### Ethernet ports (12) -/

/-- 12 R336, R338, R340, R341, R349; 14 R386. -/
def Obligations.PortReceivesInOrderOfChecks : Prop :=
  ∀ (p : Fin 32) (f : Frame) (s : State), s.works = true →
    (s.portUp p.val = false → exec (.frameReceive p f) s = .next s) ∧
    (s.portUp p.val = true → s.xingDead (p.val / 8) (4 + p.val % 8) = true → runsTo (.frameReceive p f) s fun t =>
      t = { s with regs := t.regs } ∧ counted s t (F.xdrop (p.val / 8)) 1) ∧
    (s.portUp p.val = true → s.xingDown (p.val / 8) (4 + p.val % 8) = false →
      (runsTo (.frameReceive p f) s fun t => counted s t (portCtr p.val 48) f.fecCorrected ∧
        counted s t (portCtr p.val 49) f.fecBad ∧ counted s t (portCtr p.val 50) f.fecSymbols) ∧
      (f.fecBad ≠ 0 ∨ f.fcsOk = false → runsTo (.frameReceive p f) s fun t =>
        t = { s with regs := t.regs } ∧ counted s t (portCtr p.val 7) 1) ∧
      (f.fecBad = 0 → f.fcsOk = true → f.len < 64 → runsTo (.frameReceive p f) s fun t =>
        t = { s with regs := t.regs } ∧ counted s t (portCtr p.val 8) 1) ∧
      (f.fecBad = 0 → f.fcsOk = true → 64 ≤ f.len →
        s.getF (F.portCfgMaxframe p.val) + (if f.tag.isSome then 4 else 0) < f.len → runsTo (.frameReceive p f) s fun t =>
        t = { s with regs := t.regs } ∧ counted s t (portCtr p.val 9) 1) ∧
      (f.fecBad = 0 → f.fcsOk = true → 64 ≤ f.len →
        f.len ≤ s.getF (F.portCfgMaxframe p.val) + (if f.tag.isSome then 4 else 0) →
        (∀ opc en qs, f.kind = .macControl opc en qs → f.len ≠ 64 ∨ f.dst.toNat ≠ pauseMac ∨
          (opc.toNat ≠ 1 ∧ opc.toNat ≠ 0x101) → runsTo (.frameReceive p f) s fun t =>
            t = { s with regs := t.regs } ∧ counted s t (portCtr p.val 13) 1) ∧
        ((∀ opc en qs, f.kind ≠ .macControl opc en qs) →
          (s.addrPass p.val f.dst.toNat = none ∨ s.vidPass p.val f.tag = false →
            runsTo (.frameReceive p f) s fun t => t = { s with regs := t.regs } ∧ counted s t (portCtr p.val 10) 1) ∧
          ∀ ctr q, s.addrPass p.val f.dst.toNat = some ctr → s.vidPass p.val f.tag = true →
            (match f.tag with | some t => t.2.val | none => s.getF (F.portCfgDefprio p.val)) = q →
            (s.getF (F.portPrioShare p.val q) * 1024 < s.occupied p.val q + s.getF (F.portCfgMaxframe p.val) ∨
              6144 * 1024 < s.occupiedAll p.val + s.getF (F.portCfgMaxframe p.val) →
              runsTo (.frameReceive p f) s fun t => t = { s with regs := t.regs } ∧ counted s t (portCtr p.val 11) 1) ∧
            (s.occupied p.val q + s.getF (F.portCfgMaxframe p.val) ≤ s.getF (F.portPrioShare p.val q) * 1024 →
              s.occupiedAll p.val + s.getF (F.portCfgMaxframe p.val) ≤ 6144 * 1024 → s.isRmt p.val f.kind = true →
              runsTo (.frameReceive p f) s fun t => t = { s with regs := t.regs, ports := t.ports, out := t.out } ∧
                counted s t (portCtr p.val 2) 1 ∧ counted s t (portCtr p.val 3) f.len ∧
                (t.portSt p.val).frames = (s.portSt p.val).frames ++ [⟨q, f.len, false, f.kind⟩]))))

/-- 12 R337–R339, R345, R348, R349. -/
def Obligations.PortSendsFreesAndAnswers : Prop :=
  ∀ (p : Fin 32) (s : State), s.works = true →
    (∀ (q : Fin 8) (f : TxFrame) (r : List TxFrame), takePrio q.val (s.portSt p.val).txq = some (f, r) →
      (∀ i, s.portDiscards p.val q.val = some i → runsTo (.frameTransmit p q) s fun t =>
        t = { s with regs := t.regs, ports := t.ports } ∧ (t.portSt p.val).txq = r ∧ counted s t (portCtr p.val i) 1) ∧
      (s.portDiscards p.val q.val = none → s.portUp p.val = true → s.xingDown (p.val / 8) (4 + p.val % 8) = false →
        ∀ left, s.txTurn p.val = some (q.val, left) → runsTo (.frameTransmit p q) s fun t =>
          t = { s with regs := t.regs, ports := t.ports, out := t.out } ∧ (t.portSt p.val).txq = r ∧
          t.out = s.out ++ [.frame p.val (s.frameBytes p.val f.dstMac q.val f.etype f.body)] ∧
          counted s t (portCtr p.val 0) 1 ∧ counted s t (portCtr p.val 1) (s.frameSize p.val f.body)) ∧
      (s.portDiscards p.val q.val = none → (∀ left, s.txTurn p.val ≠ some (q.val, left)) →
        exec (.frameTransmit p q) s = .next s) ∧
      (s.portDiscards p.val q.val = none → s.paused p.val q.val = true → exec (.frameTransmit p q) s = .next s)) ∧
    (∀ q : Fin 8, takePrio q.val (s.portSt p.val).txq = none → exec (.frameTransmit p q) s = .next s) ∧
    (∀ f, (s.portSt p.val).frames.find? (fun f => !f.exc) = some f → runsTo (.frameFreed p) s fun t =>
      t = { s with regs := t.regs, ports := t.ports, out := t.out, mem := t.mem, err := t.err } ∧ sramKept s t ∧
      (wordsOf s.mem.sramBad (portWord p.val) 8 = [] → t.err = s.err) ∧
      (t.portSt p.val).frames = (s.portSt p.val).frames.erase f ∧ (t.portSt p.val).txq = (s.portSt p.val).txq) ∧
    (∀ (f : BufFrame) (mac : BitVec 48) (ip a : BitVec 32), (s.portSt p.val).frames.find? (fun f => f.exc) = some f →
      runsTo (.exceptionFrame p) s fun t =>
        t = { s with regs := t.regs, ports := t.ports, out := t.out, mem := t.mem, err := t.err } ∧ sramKept s t ∧
        (t.portSt p.val).frames = (s.portSt p.val).frames.erase f ∧
        (f.kind = .arp mac ip a → a.toNat ≠ 0 → a.toNat = s.portIp p.val false →
          s.portDiscards p.val (s.getF (F.portCfgDefprio p.val)) = none → s.xingDown (p.val / 8) (4 + p.val % 8) = false →
          ∃ b, (t.portSt p.val).txq = (s.portSt p.val).txq ++ [⟨s.getF (F.portCfgDefprio p.val), mac.toNat, 0x0806, b, none⟩])) ∧
    (0 < (s.portSt p.val).announce → s.portSends p.val = true → runsTo (.addressAnnounce p) s fun t =>
      t = { s with regs := t.regs, ports := t.ports } ∧ (t.portSt p.val).announce = (s.portSt p.val).announce - 1 ∧
      (s.portDiscards p.val (s.getF (F.portCfgDefprio p.val)) = none → s.xingDown (p.val / 8) (4 + p.val % 8) = false →
        (s.portIp p.val false ≠ 0 → ∃ f ∈ (t.portSt p.val).txq, f.dstMac = broadcastMac ∧ f.etype = 0x0806) ∧
        (s.portIp p.val true ≠ 0 → ∃ f ∈ (t.portSt p.val).txq, f.dstMac = 0x333300000001 ∧ f.etype = 0x86DD)))

/-- 12 R343, R345, R346, R348. -/
def Obligations.PauseInBothDirections : Prop :=
  ∀ (p : Fin 32) (s : State), s.works = true → s.portUp p.val = true →
    (∀ n : BitVec 16, s.pauseMode p.val = 1 → runsTo (.pauseReceive p n) s fun t =>
      t = { s with regs := t.regs, ports := t.ports } ∧ tget 0 (t.portSt p.val).pause 0 = n.toNat ∧
      t.getF (F.portStatusXoffrx p.val) = (if n = 0 then 0 else 0xFF) ∧ counted s t (portCtr p.val 15) 1) ∧
    (∀ n : BitVec 16, s.pauseMode p.val ≠ 1 → runsTo (.pauseReceive p n) s fun t =>
      t = { s with regs := t.regs } ∧ counted s t (portCtr p.val 13) 1) ∧
    (∀ (en : BitVec 8) (qs : List (BitVec 16)), s.pauseMode p.val = 2 → qs.length = 8 →
      (∃ q : Fin 8, bit en.toNat q.val = true ∧ s.flag (F.portPrioPfcen p.val q.val) = true) →
      runsTo (.pfcReceive p en qs) s fun t => t = { s with regs := t.regs, ports := t.ports } ∧
      ∀ q : Fin 8, tget 0 (t.portSt p.val).pause q.val =
        if bit en.toNat q.val && s.flag (F.portPrioPfcen p.val q.val) then (qs.getD q.val 0).toNat
        else tget 0 (s.portSt p.val).pause q.val) ∧
    (∀ (en : BitVec 8) (qs : List (BitVec 16)), s.pauseMode p.val ≠ 2 → runsTo (.pfcReceive p en qs) s fun t =>
      t = { s with regs := t.regs } ∧ counted s t (portCtr p.val 13) 1) ∧
    (∀ q : Fin 8, s.paused p.val q.val = true → runsTo (.pauseExpiry p q) s fun t =>
      t = { s with regs := t.regs, ports := t.ports } ∧ t.paused p.val q.val = false) ∧
    (runsTo (.xoffRefresh p) s fun t => t = { s with regs := t.regs, out := t.out } ∧
      t.getF (F.portStatusXofftx p.val) = s.getF (F.portStatusXofftx p.val)) ∧
    ∀ q : Fin 8, ∀ r, s.pausePrio p.val q.val = r →
      (s.wdOn p.val = true → s.paused p.val r = true → s.bitF (F.portWdstatFired p.val) r = false →
        runsTo (.pauseWatchdogFire p q) s fun t => t = { s with regs := t.regs } ∧
          t.bitF (F.portWdstatFired p.val) r = true ∧ counted s t (portCtr p.val 52) 1) ∧
      (s.paused p.val r = false → runsTo (.watchdogClear p q) s fun t => t = { s with regs := t.regs } ∧
        t.bitF (F.portWdstatFired p.val) r = false) ∧
      (s.wdOn p.val = true → s.bitF (F.portStatusXofftx p.val) r = true →
        s.bitF (F.portWdstatGenstop p.val) r = false → runsTo (.genstop p q) s fun t =>
          t = { s with regs := t.regs, out := t.out } ∧ t.bitF (F.portWdstatGenstop p.val) r = true ∧
          t.bitF (F.portStatusXofftx p.val) r = false) ∧
      (s.pauseOcc p.val r < s.getF (F.portPrioXon p.val r) * 1024 → runsTo (.genstopClear p q) s fun t =>
        t = { s with regs := t.regs } ∧ t.bitF (F.portWdstatGenstop p.val) r = false)

/-- 00 R13; 12 R332, R334, R342, R349. -/
def Obligations.PortLinksAndCommits : Prop :=
  ∀ (p : Fin 32) (s : State), s.works = true →
    (∀ m : BitVec 4, s.flag (F.portCfgEnable p.val) = true → s.getF (F.portCfgMode p.val) ≠ 0 →
      s.flag (F.portStatusLinkup p.val) = false → s.inService (p.val / 8) = true →
      (s.negotiates p.val = true → m.toNat = s.getF (F.portCfgMode p.val)) → runsTo (.linkUp p m) s fun t =>
        t = { s with regs := t.regs, ports := t.ports, puell := t.puell } ∧
        t.flag (F.portStatusLinkup p.val) = true ∧ t.flag (F.portStatusFeclock p.val) = true ∧
        t.getF (F.portStatusLanes p.val) = modeLanes (s.getF (F.portCfgMode p.val)) ∧
        t.getF (F.portStatusXoffrx p.val) = 0 ∧ (t.portSt p.val).pause = [] ∧ (t.portSt p.val).announce = 3) ∧
    (∀ cut lf rf : Bool, s.flag (F.portStatusLinkup p.val) = true → runsTo (.linkDown ⟨p, cut, lf, rf⟩) s fun t =>
      t = { s with regs := t.regs, ports := t.ports, puell := t.puell } ∧
      t.flag (F.portStatusLinkup p.val) = false ∧ t.getF (F.portStatusLanes p.val) = 0 ∧
      t.flag (F.portStatusLfault p.val) = lf ∧ t.flag (F.portStatusRfault p.val) = rf ∧
      t.getF (F.portStatusXofftx p.val) = 0 ∧ (t.portSt p.val).pause = [] ∧ counted s t (portCtr p.val 51) 1 ∧
      (cut = true → counted s t (portCtr p.val 7) 1)) ∧
    (s.blockUp (F.portCommitCommit p.val).off = true → ∀ i ∈ [Instr.portCommit p 1, .commit (.port p)],
      (s.prioLegal p.val = true → runsTo i s fun t => t = { s with regs := t.regs, out := t.out } ∧
        t.flag (F.portCommitRefused p.val) = false ∧ ∀ q : Fin 8,
          ∀ f ∈ [F.portPrioShare p.val q.val, F.portPrioXoff p.val q.val, F.portPrioXon p.val q.val, F.portPrioPfcen p.val q.val],
            t.shadow f = none ∧ (s.shadow f = none → t.getF f = s.getF f) ∧
            ∀ v, s.shadow f = some v → t.getF f = v % 2 ^ f.w) ∧
      (s.prioLegal p.val = false → runsTo i s fun t => t = { s with regs := t.regs, err := t.err } ∧
        t.flag (F.portCommitRefused p.val) = true ∧ ∀ q : Fin 8,
          ∀ f ∈ [F.portPrioShare p.val q.val, F.portPrioXoff p.val q.val, F.portPrioXon p.val q.val, F.portPrioPfcen p.val q.val],
            t.getF f = s.getF f)) ∧
    (runsTo (.commitApply (.port p)) s fun t => t = { s with regs := t.regs } ∧
      t.flag (F.portCommitCommit p.val) = false)

/-! ### The Puell companion links (13) -/

/-- 13 R353–R358, R367, R368; 17 R450; log entry 39. -/
def Obligations.PuellLinksAndFlits : Prop :=
  (∀ (l : Fin 2) (s : State), s.live = true →
     (∀ t : Training, s.plSt l.val = plTraining ∨ s.plSt l.val = plRetrain → s.trained l.val t = true →
       runsTo (.plActive l t) s fun u => u.plSt l.val = plActive ∧ u.getF (F.plStatusTxw l.val) = t.txw.toNat ∧
         u.getF (F.plStatusRxw l.val) = t.rxw.toNat) ∧
     (∀ t : Training, (s.plSt l.val ≠ plTraining ∧ s.plSt l.val ≠ plRetrain) ∨ s.trained l.val t = false →
       exec (.plActive l t) s = .next s) ∧
     (∀ f r, s.plSt l.val = plActive → (s.pl l.val).replay = f :: r → runsTo (.replayTimer l) s fun t =>
       linkOnly s t ∧ putOut s t l.val ftData f.1 f.2.slots ∧ counted s t (F.plCtr3 l.val) 1 ∧
       (t.pl l.val).replay = (s.pl l.val).replay) ∧
     (∀ a : BitVec 12, s.plSt l.val = plActive → (s.pl l.val).txWait = [] → runsTo (.nakFlit l a) s fun t =>
       linkOnly s t ∧ (t.pl l.val).replay = dropAcked a.toNat (s.pl l.val).replay ∧
       ∀ f r, dropAcked a.toNat (s.pl l.val).replay = f :: r → putOut s t l.val ftData f.1 f.2.slots) ∧
     (s.plSt l.val = plActive → runsTo (.retrain l true) s fun t => linkOnly s t ∧ t.out = s.out ∧
       t.plSt l.val = plRetrain ∧ (t.pl l.val).txEpoch = (s.pl l.val).txEpoch + 1 ∧
       (t.pl l.val).rxEpoch = (s.pl l.val).rxEpoch + 1 ∧ (t.pl l.val).fposTx = 0 ∧ (t.pl l.val).fposRx = 0 ∧
       (t.pl l.val).replay = (s.pl l.val).replay ∧ counted s t (F.plCtr4 l.val) 1) ∧
     (s.plSt l.val = plRetrain → (s.pl l.val).retrainFails < 2 → runsTo (.retrain l true) s fun t =>
       t = { s with puell := t.puell } ∧ (t.pl l.val).retrainFails = (s.pl l.val).retrainFails + 1) ∧
     (s.plSt l.val = plRetrain → 2 ≤ (s.pl l.val).retrainFails → runsTo (.retrain l true) s (linkGone l.val)) ∧
     (s.plSt l.val = plActive ∨ s.plSt l.val = plRetrain ∨ s.plSt l.val = plTraining →
       runsTo (.retrain l false) s (linkGone l.val)) ∧
     (s.plSt l.val ≠ plDown → s.plSt l.val ≠ plHeld → runsTo (.plLinkDown l) s (linkGone l.val)) ∧
     (s.plSt l.val = plActive → s.flag (F.plStatusConf l.val) = true → runsTo (.keySwitch l) s fun t =>
       linkOnly s t ∧ keySwitched s t l.val) ∧
     (s.fatal = false → s.sec.confPend = true → s.plSt l.val = plActive → s.flag (F.plStatusConf l.val) = false →
       runsTo (.confKeySwitch l) s fun t => linkOnly { s with sec.confPend := t.sec.confPend } t ∧
         keySwitched s t l.val ∧ t.flag (F.plStatusConf l.val) = true ∧
         (s.plSt (1 - l.val) ≠ plActive ∨ s.flag (F.plStatusConf (1 - l.val)) = true → t.sec.confPend = false))) ∧
  (∀ (l : Fin 2) (bs : List Byte) (s : State), s.live = true →
     (s.plSt l.val ≠ plActive → exec (.flitReceive l bs) s = .next s) ∧
     (s.plSt l.val = plActive → bs.length = 256 →
       ((crc64 (bs.take 248)).toNat ≠ fieldAt bs 248 8 → runsTo (.flitReceive l bs) s fun t => flitBad s t l.val) ∧
       ((crc64 (bs.take 248)).toNat = fieldAt bs 248 8 →
         ((flitHdr bs).zero ≠ 0 ∨ (flitHdr bs).ftype = 0 ∨ 4 < (flitHdr bs).ftype →
           runsTo (.flitReceive l bs) s fun t => t = { s with regs := t.regs, puell := t.puell, err := t.err } ∧
             counted s t (F.plCtr11 l.val) 1) ∧
         ((flitHdr bs).zero = 0 → (s.pl l.val).txWait = [] → (s.pl l.val).replay = [] →
           ((flitHdr bs).ftype = ftIdle → (flitHdr bs).rclass = 0 → runsTo (.flitReceive l bs) s fun t =>
             linkOnly s t ∧ (t.pl l.val).credReq = (s.pl l.val).credReq + (flitHdr bs).rcount) ∧
           ((flitHdr bs).ftype = ftData → (flitHdr bs).fseq = (s.pl l.val).rxSeq → (flitHdr bs).enc = false →
             (s.pl l.val).rxConf = false → slice bs 8 240 = List.replicate 240 0 → (s.pl l.val).rest = [] →
             (s.pl l.val).inbox = [] → runsTo (.flitReceive l bs) s fun t => flitTaken s t l.val)))))

/-- 13 R361–R364. -/
def Obligations.PuellCoherence : Prop :=
  ∀ (l : Fin 2) (tag : BitVec 12) (s : State), s.live = true → s.plSt l.val = plActive →
    ((s.pl l.val).snoops = [] → (s.pl l.val).tagWait = [] → (s.pl l.val).reqs.length ≤ plTags →
      (∀ (data : List Byte) (r : PlReq), data.length = 64 →
        (s.plReq l.val tag.toNat [rqShared] = some r → runsTo (.gnts l tag .ok data) s fun t =>
          ((∀ x, r.owner ≠ .head x) ∨ s.fatal = true →
            t = { s with regs := t.regs, puell := t.puell, mem.comp := t.mem.comp }) ∧
          t.plLine r.addr = ⟨.s, l.val, data⟩ ∧ (∀ q ∈ (t.pl l.val).reqs, q.tag ≠ tag.toNat) ∧
          readBytes 0 t.mem.comp r.addr 64 = data ∧
          ∀ a, a < r.addr ∨ r.addr + 64 ≤ a → tget 0 t.mem.comp a = tget 0 s.mem.comp a) ∧
        (s.plReq l.val tag.toNat [rqOwn] = some r → runsTo (.gnte l tag .ok data) s fun t =>
          t = { s with regs := t.regs, out := t.out, puell := t.puell, mem.comp := t.mem.comp, freeCtr := t.freeCtr } ∧
          (t.plLine r.addr).st = .i ∧ (∃ q ∈ (t.pl l.val).reqs, q.opc = rqWb ∧ q.addr = r.addr) ∧
          readBytes 0 t.mem.comp r.addr 64 = mergeLine data r.merge ∧
          ∀ a, a < r.addr ∨ r.addr + 64 ≤ a → tget 0 t.mem.comp a = tget 0 s.mem.comp a) ∧
        (∀ g, s.plReq l.val tag.toNat [rqCur] = some r → r.owner = .mover g → runsTo (.cur l tag .ok data) s fun t =>
          t = { s with regs := t.regs, puell := t.puell, mem.comp := t.mem.comp } ∧ (g, r.addr) ∈ t.puell.inHand ∧
          (∀ q ∈ (t.pl l.val).reqs, q.tag ≠ tag.toNat) ∧ readBytes 0 t.mem.comp r.addr 64 = data)) ∧
      (∀ r, s.plReq l.val tag.toNat [rqWrLine, rqWb, rqEvict] = some r → runsTo (.cmp l tag) s fun t =>
        t = { s with regs := t.regs, puell := t.puell } ∧ ∀ q ∈ (t.pl l.val).reqs, q.tag ≠ tag.toNat)) ∧
    (s.plReq l.val tag.toNat [rqWrLine, rqWb, rqEvict] = none → runsTo (.cmp l tag) s fun t =>
      t = { s with regs := t.regs, err := t.err } ∧ counted s t (F.plCtr11 l.val) 1) ∧
    (∀ (a : BitVec 42), ∀ i ∈ [Instr.snpinv l tag a, .snpshr l tag a],
      (s.snoopHeld l.val (a.toNat / 64 * 64) = true → runsTo i s fun t => t = { s with puell := t.puell } ∧
        (t.pl l.val).snoops = (s.pl l.val).snoops ++ [(tag.toNat, a.toNat / 64 * 64, decide (i = .snpinv l tag a))]) ∧
      (s.snoopHeld l.val (a.toNat / 64 * 64) = false → sendsAtOnce s l.val → runsTo i s fun t =>
        t = { s with regs := t.regs, puell := t.puell, out := t.out, sched.rewatch := t.sched.rewatch,
                     freeCtr := t.freeCtr } ∧
        counted s t (F.plCtr8 l.val) 1 ∧
        (t.plLine (a.toNat / 64 * 64)).st =
          (if i = .snpinv l tag a ∨ (s.plLine (a.toNat / 64 * 64)).st = .i then .i else .s) ∧
        sent s t l.val fun m => m.cls = clsRsp ∧ m.tag = tag.toNat ∧ m.addr = a.toNat / 64 * 64 ∧
          m.data = (if (s.plLine (a.toNat / 64 * 64)).st = .m then (s.plLine (a.toNat / 64 * 64)).data else [])))

/-- 00 R9, R11–R13, R530; 05 R144; 13 R365; 14 R394. -/
def Obligations.ControlSpaceAccesses : Prop :=
  ∀ (l : Fin 2) (off : BitVec 28) (r : Reg) (s : State), s.works = true → s.reaches l.val off.toNat = true →
    regAt off.toNat = some r → r.off = off.toNat →
    (∀ v : BitVec 32, r.width = 32 → off.toNat % 4 = 0 → plainWrite off.toNat = true → s.blockUp off.toNat = true →
      r.distinctFields →
      (r.badField v.toNat = none →
        runsTo (.registerWrite l off .w32 (v.setWidth 64)) s fun t => fieldsTaken s t r v.toNat) ∧
      (∀ d, r.badField v.toNat = some d →
        runsTo (.registerWrite l off .w32 (v.setWidth 64)) s fun t => writeRejected s t r d) ∧
      ∀ tag : BitVec 12, sendsAtOnce s l.val →
        (r.badField v.toNat = none →
          runsTo (.ctlwr l tag off 4 (v.setWidth 64)) s fun t => fieldsTaken s t r v.toNat ∧
            sent s t l.val fun m => m.opc = rspWinCmp ∧ m.tag = tag.toNat ∧ m.status = 0) ∧
        (∀ d, r.badField v.toNat = some d →
          runsTo (.ctlwr l tag off 4 (v.setWidth 64)) s fun t => writeRejected s t r d)) ∧
    (∀ tag : BitVec 12, r.width = 32 → r.isRc = false → off.toNat % 4 = 0 → sendsAtOnce s l.val →
      runsTo (.ctlrd l tag off 4) s fun t => linkOnly s t ∧
        sent s t l.val fun m => m.opc = rspWinData ∧ m.tag = tag.toNat ∧ m.status = 0 ∧
          m.data = padTo 64 (leBytes 4 (s.regValue r))) ∧
    (r.width = 64 → r.distinctFields → s.blockUp off.toNat = true → (∀ d ∈ r.fields, d.acc = .rc) → 0 < r.fields.length →
      (runsTo (.rcCounterRead l off .whole) s fun t => t = { s with regs := t.regs, out := t.out } ∧
        t.out = s.out ++ [.read l.val (s.regValue r)] ∧ ∀ d ∈ r.fields, t.getF d.f = 0) ∧
      (runsTo (.rcCounterRead l off .low) s fun t => t = { s with regs := t.regs, out := t.out } ∧
        t.out = s.out ++ [.read l.val (s.regValue r % 2 ^ 32)] ∧ (∀ d ∈ r.fields, t.getF d.f = 0) ∧
        tget 0 t.regs.rcHold (holdKey l.val off.toNat) = s.regValue r / 2 ^ 32 + 1) ∧
      ∀ h, regAt (off.toNat + 4) = none → off.toNat % 8 = 0 → tget 0 s.regs.rcHold (holdKey l.val off.toNat) = h + 1 →
        runsTo (.rcCounterRead l off .high) s fun t => t = { s with regs := t.regs, out := t.out } ∧
          t.out = s.out ++ [.read l.val h] ∧ tget 0 t.regs.rcHold (holdKey l.val off.toNat) = 0) ∧
    (∀ (v : Word64) (n : Nat), runsTo (.registerWrite l off (.other n) v) s fun t =>
      t = { s with regs := t.regs } ∧ counted s t (F.plCtr6 l.val) 1) ∧
    (∀ (v : Word64) (z : AccessSize) (k : Fin 2), s.reaches k.val off.toNat = false →
      exec (.registerWrite k off z v) s = .next s)

/-- 13 R365, R366, R369, R370; 17 R440. -/
def Obligations.ApertureAndBells : Prop :=
  (∀ (l : Fin 2) (tag : BitVec 12) (off : BitVec 36) (n : Nat) (s : State), s.works = true → sendsAtOnce s l.val →
    (∀ set o b u, inLine off.toNat n = true → s.aperture l.val off.toNat n = some (set, o) →
      (hbmRead none set o n).go s = (.ok b, u) → runsTo (.aprd l tag off n) s fun t =>
        t.mem = u.mem ∧ sent s t l.val fun m => m.opc = rspWinData ∧ m.tag = tag.toNat ∧ m.status = 0 ∧ m.data = padTo 64 b) ∧
    (inLine off.toNat n = true → s.aperture l.val off.toNat n = none → runsTo (.aprd l tag off n) s fun t =>
      linkOnly s t ∧ counted s t (F.plCtr7 l.val) 1 ∧ sent s t l.val fun m => m.opc = rspWinData ∧ m.status = stRefused) ∧
    (inLine off.toNat n = false → runsTo (.aprd l tag off n) s fun t =>
      t = { s with regs := t.regs, puell := t.puell, err := t.err } ∧ counted s t (F.plCtr11 l.val) 1)) ∧
  (∀ (l : Fin 2) (tag : BitVec 12) (off : BitVec 36) (n : Nat) (mask : BitVec 64) (data : List Byte) (s : State),
    s.works = true → sendsAtOnce s l.val → n ≤ data.length → inLine off.toNat n = true →
    (∀ i, i < n → bit mask.toNat i = true) →
    (∀ set o u, s.aperture l.val off.toNat n = some (set, o) →
      (hbmWrite none set o (data.take n)).go s = (.ok (), u) → runsTo (.apwr l tag off ⟨n, mask⟩ data) s fun t =>
        t.mem = u.mem ∧ sent s t l.val fun m => m.opc = rspWinCmp ∧ m.tag = tag.toNat ∧ m.status = 0) ∧
    (s.aperture l.val off.toNat n = none → runsTo (.apwr l tag off ⟨n, mask⟩ data) s fun t =>
      linkOnly s t ∧ counted s t (F.plCtr7 l.val) 1 ∧ sent s t l.val fun m => m.opc = rspWinCmp ∧ m.status = stRefused)) ∧
  (∀ (s : State) (n : Nat) (b : Bell) (r : List (Nat × Bell)) (l : Nat), s.works = true → s.puell.bellQ = (n, b) :: r →
    s.bellLinkOf = some l → sendsAtOnce s l → 0 < (s.pl l).credBell → runsTo .bellSend s fun t =>
      linkOnly s t ∧ t.puell.bellQ = r ∧ t.puell.bellLost = false ∧ (t.pl l).credBell = (s.pl l).credBell - 1 ∧
      sent s t l fun m => m.cls = clsBell ∧ m.opc = b.src ∧ m.tag = n ∧ m.status = ofBool s.puell.bellLost ∧
        m.win = b.a ∧ m.size = b.b ∧ m.addr = b.arg) ∧
  (∀ s : State, s.puell.bellQ = [] ∨ s.bellLinkOf = none → exec .bellSend s = .next s)

/-- 05 R121–R123, R125. -/
def Obligations.HbmHoldsWhatWasWritten : Prop :=
  ∀ (who : Option Nat) (n o : Nat) (s : State),
    s.getF (F.isDescBpc n) + 2 ^ s.getF (F.isDescLw n) ≤ 32 →
    (∀ (bs : List Byte) (t : State), o + bs.length ≤ s.setSize n → (hbmWrite who n o bs).go s = (.ok (), t) →
      (∀ i, i < bs.length → tget 0 t.mem.hbm (s.hbmKey n (o + i)) = bs.getD i 0) ∧
      (∀ k, (∀ i, i < bs.length → k ≠ s.hbmKey n (o + i)) → tget 0 t.mem.hbm k = tget 0 s.mem.hbm k) ∧
      t = { s with regs := t.regs, mem.hbm := t.mem.hbm, mem.badBursts := t.mem.badBursts,
                   mem.softBursts := t.mem.softBursts }) ∧
    (∀ (len : Nat) (bs : List Byte) (t : State), o + len ≤ s.setSize n → (hbmRead who n o len).go s = (.ok bs, t) →
      bs.length = len ∧ (∀ i, i < len → bs.getD i 0 = tget 0 s.mem.hbm (s.hbmKey n (o + i))) ∧
      t = { s with regs := t.regs, mem.softBursts := t.mem.softBursts })

/-! ### Package memory and movers (05) -/

/-- 05 R114, R115, R126, R127, R132, R143; 17 R439; 20 R504. -/
def Obligations.WaysSetsAndInvalidations : Prop :=
  (∀ (k : Fin 32) (w : Fin 16) (v : BitVec 32) (s : State), s.works = true →
    s.blockUp (F.cmWayValid k.val w.val).off = true →
    s.regRunning (F.cmWayValid k.val w.val) = false → runsTo (.cmWayWrite k w v) s fun t => t = { s with regs := t.regs } ∧
      t.getF (F.cmWayOwner k.val w.val) = (F.cmWayOwner k.val w.val).of v.toNat ∧
      t.getF (F.cmWayValid k.val w.val) = (F.cmWayValid k.val w.val).of v.toNat ∧
      t.getF (F.cmWayMode k.val w.val) = (F.cmWayMode k.val w.val).of v.toNat ∧
      (t.flag (F.cmWayValid k.val w.val) ≠ s.flag (F.cmWayValid k.val w.val) → t.flag (F.cmWayZeroing k.val w.val) = true)) ∧
  (∀ (k : Fin 32) (w : Fin 16) (s : State), s.works = true → s.flag (F.cmWayZeroing k.val w.val) = true →
    runsTo (.wayClearDone k w) s fun t => wayCleared s t k.val w.val) ∧
  (∀ (n : Fin 256) (v : Word64) (s u : State), s.works = true → s.blockUp (F.isDescValid n.val).off = true →
    (regOr (F.isDescValid n.val).off).badField v.toNat = none →
    u = (s.spend (F.isDescValid n.val).off).fieldsWrite
      ((regOr (F.isDescValid n.val).off).fields.filter fun d => d.f != F.isDescValid n.val) v.toNat →
    (v.getLsbD 0 = true → s.setValid n.val = false → u.setFit n.val = true → runsTo (.isDescWrite n v) s fun t =>
      t.setValid n.val = true ∧ tget false t.mem.setClr n.val = true ∧ t.mem.hbm = s.mem.hbm) ∧
    (v.getLsbD 0 = true → s.setValid n.val = false → u.setFit n.val = false → runsTo (.isDescWrite n v) s fun t =>
      t.setValid n.val = false ∧ t.mem = s.mem ∧ ∃ r ∈ t.err.recQ, r.kind = kRejected) ∧
    (v.getLsbD 0 = false → s.setValid n.val = true → runsTo (.isDescWrite n v) s fun t => t.setValid n.val = false ∧
      t.bitF (F.secSealSealed (n.val / 32)) (n.val % 32) = false ∧ t.mem.hbm = s.mem.hbm)) ∧
  (∀ (n : Fin 256) (s : State), s.works = true → tget false s.mem.setClr n.val = true →
    runsTo (.setClearDone n) s fun t => setCleared s t n.val) ∧
  (∀ (v : BitVec 32) (s : State), s.works = true → s.blockUp F.memCfgPtset.off = true →
    s.bitF F.readyPkgReady rMem = false →
    (s.setValid (F.memCfgPtset.of v.toNat) = true ∧ s.flag (F.isDescHouse (F.memCfgPtset.of v.toNat)) = true →
      runsTo (.memCfgWrite v) s fun t =>
      t = { s with regs := t.regs, sec := t.sec } ∧ t.getF F.memCfgPtset = F.memCfgPtset.of v.toNat ∧
      t.bitF F.readyPkgReady rMem = true) ∧
    (s.setValid (F.memCfgPtset.of v.toNat) = false ∨ s.flag (F.isDescHouse (F.memCfgPtset.of v.toNat)) = false →
      runsTo (.memCfgWrite v) s fun t =>
      t = { s with regs := t.regs, err := t.err } ∧ t.getF F.memCfgPtset = s.getF F.memCfgPtset ∧
      ∃ r, t.err.recQ = s.err.recQ ++ [r] ∧ r.kind = kRejected)) ∧
  (∀ (v : Word64) (s : State), s.works = true → s.blockUp F.memTinvCtx.off = true →
    (regOr F.memTinvCtx.off).badField v.toNat = none →
    (s.flag F.memTinvStDone = true → runsTo (.memTinv v) s fun t => t = { s with regs := t.regs, mem.tinvNow := v } ∧
      t.flag F.memTinvStDone = false) ∧
    (s.flag F.memTinvStDone = false → runsTo (.memTinv v) s fun t =>
      t = { s with regs.hold := t.regs.hold, mem.tinvNext := s.mem.tinvNext ++ [v] })) ∧
  (∀ s : State, s.works = true → s.flag F.memTinvStDone = false → runsTo .tinvDone s fun t =>
    (∀ e, e ∈ t.mem.tlb ↔ e ∈ s.mem.tlb ∧ tinvHits s.mem.tinvNow.toNat e = false) ∧ t.mem.hbm = s.mem.hbm ∧
    (s.mem.tinvNext = [] → t.flag F.memTinvStDone = true) ∧
    ∀ v r, s.mem.tinvNext = v :: r → t.mem.tinvNow = v ∧ t.mem.tinvNext = r ∧ t.flag F.memTinvStDone = false)

/-- 05 R119, R120, R122, R123, R133, R134; 18 R466. -/
def Obligations.ProtectedPagesScrubAndRefresh : Prop :=
  (∀ (x : Fin 256) (u : Fin 36) (a : BitVec 48) (bs : List Byte) (s v : State), s.works = true →
    (∀ y k, (translate u.val x.val a.toNat true).go s = (.error (.touch y k), v) → s.stgFree y = true →
      runsTo (.protectedPageWrite x u a bs) s fun t =>
        t = { s with mem.wpWaits := t.mem.wpWaits, res.ctx := t.res.ctx } ∧
        t.mem.wpWaits = s.mem.wpWaits ++ [⟨y, u.val, a.toNat, bs⟩] ∧
        (tget false (s.resc y).snap.cleared k = false → tget false (t.resc y).snap.copying k = true)) ∧
    (∀ g, (translate u.val x.val a.toNat true).go s = (.ok g, v) → exec (.protectedPageWrite x u a bs) s = .next s)) ∧
  (∀ (x : Fin 256) (i : Fin 64) (p : Nat) (s u : State), s.works = true → s.snapOpen x.val = true →
    tget false (s.resc x.val).snap.copying (pageKey i.val p) = true → s.stgFree x.val = true →
    s.pageRoom x.val i.val p = true → (copyPage x.val i.val p true).go s = (.ok (), u) →
    u.mem.wpWaits = [] → u.rmt.keyWait = [] → runsTo (.firstTouchCopyDone x i p) s fun t =>
      tget false (t.resc x.val).snap.cleared (pageKey i.val p) = true ∧
      tget false (t.resc x.val).snap.copying (pageKey i.val p) = false ∧
      (∃ g, (t.resc x.val).snap.staged = (s.resc x.val).snap.staged ++ [g] ∧ g.region = i.val ∧ g.page = p) ∧
      counted s t F.resFtc 1) ∧
  (∀ (h : Fin 16) (found : List ScrubHit) (s : State), s.works = true → s.getF (F.hbmScrubHours h.val) ≠ 0 →
    s.flag (F.hbmStatusTrained h.val) = true → s.mem.badBursts = [] → runsTo (.hbmScrub h found) s fun t =>
      t = { s with regs := t.regs, err := t.err, mem.badBursts := t.mem.badBursts, mem.softBursts := t.mem.softBursts } ∧
      counted s t (F.hbmRdbytes h.val) (32 * pcSize) ∧
      (s.mem.softBursts = [] → counted s t (F.hbmCe h.val)
        (found.filter fun f => decide (f.addr.toNat / 32 < 32 * pcSize / 32) && !f.uncorrectable).length) ∧
      ∀ a : BitVec 40, found = [⟨a, true⟩] → a.toNat < 32 * pcSize →
        counted s t (F.hbmUe h.val) 1 ∧ t.getF (F.hbmUeaddrAddr h.val) = a.toNat / 32 * 32 ∧
        ∃ r, t.err.recQ = s.err.recQ ++ [r] ∧ r.cls = clsDie ∧ r.die = h.val / 4 ∧ r.unit = uHbm ∧ r.kind = kUncorrectable) ∧
  (∀ (h : Fin 16) (found : List ScrubHit) (s : State), s.getF (F.hbmScrubHours h.val) = 0 →
    exec (.hbmScrub h found) s = .next s) ∧
  (∀ (h : Fin 16) (c : Fin 32) (s : State), exec (.hbmRefresh h c) s = .next s)

/-- 05 R118, R135–R139. -/
def Obligations.MoversMoveData : Prop :=
  ∀ (g : Fin 256) (m : Fin 2) (i : Fin 8) (x : Inst) (s : State), s.works = true → s.running g.val = some x →
    (∀ (w z : MvWork) (c : MvCmd) (d : Cvc) (q : List W32 × Nat) (r : Option Stop) (u v : State),
      ∀ e ∈ ([(.copy g m i, 1), (.pack g m i, 2), (.fill g m i, 3), (.cmflush g m i, 4), (.cminv g m i, 5)] :
          List (Instr × Nat)),
      (s.core g.val).cmds[i.val]? = some w → mvDecode w.cmd = c → c.mop = e.2 → c.dconv = some d →
      c.illegal d = false → c.bindBad s x d = false → (c.conv = true → s.suppressed x.ctx = false) →
      (c.ssp = 0 → c.mop ≤ 2 → ∀ a ∈ s.compLines ⟨g.val, x, c.na⟩ c.ranges, (g.val, a) ∈ s.puell.inHand) →
      s.mvBegin g.val x c d w = (.ok q, u) →
      ∀ ps, ps = c.pieces ⟨g.val, x, c.na⟩ ⟨d, q.1.getD 0 0, q.1.getD 1 0, q.2⟩ →
      runPieces ((ps.drop w.made).take (c.chunk d)) { w with stream := some q } u = (r, z, v) →
      (r = none → ps.length ≤ z.made → runsTo e.1 s fun t => t.mem = v.mem ∧
        (t.core g.val).cmds = ldrop (v.core g.val).cmds i.val ∧
        (c.reports d = false → t.train.reports = v.train.reports) ∧
        (c.reports d = true → ∃ p, t.train.reports = v.train.reports ++ [p] ∧ p.ctx = x.ctx ∧ p.slot = c.tslot ∧
          p.step = q.2)) ∧
      ((r = none ∧ z.made < ps.length) ∨ r = some .wait → runsTo e.1 s fun t => t.mem = v.mem ∧ w.made ≤ z.made ∧
        (t.core g.val).cmds = lmod (v.core g.val).cmds i.val fun _ => z)) ∧
    (∀ (w : MvWork) (c : MvCmd) (d : Cvc), (s.core g.val).cmds[i.val]? = some w → w.made = 0 → mvDecode w.cmd = c →
      c.dconv = some d → c.illegal d = false → c.conv = false → c.rows = 1 → c.sfmt.scaled = false → c.dsp = 2 →
      c.daddr + c.sfmt.bytes c.rowlen ≤ ocSize → c.rowlen ≤ 1024 →
      (c.mop = 1 → c.ssp = 2 → c.saddr + c.sfmt.bytes c.rowlen ≤ ocSize → ocGood s g.val c.saddr (c.sfmt.bytes c.rowlen) →
        runsTo (.copy g m i) s fun t => t = { s with mem := t.mem, eng.core := t.eng.core } ∧
        t.ocRead g.val c.daddr (c.sfmt.bytes c.rowlen) = s.ocRead g.val c.saddr (c.sfmt.bytes c.rowlen) ∧
        ocChanged s t g.val c.daddr (c.sfmt.bytes c.rowlen) ∧
        t.core g.val = { s.core g.val with cmds := ldrop (s.core g.val).cmds i.val }) ∧
      (c.mop = 3 → c.rowlen * c.sfmt.bits ≤ 32768 → runsTo (.fill g m i) s fun t =>
        t = { s with mem := t.mem, eng.core := t.eng.core } ∧
        t.ocRead g.val c.daddr (c.sfmt.bytes c.rowlen) = fillBytes c.saddr 0 (c.sfmt.bytes c.rowlen) ∧
        ocChanged s t g.val c.daddr (c.sfmt.bytes c.rowlen) ∧
        t.core g.val = { s.core g.val with cmds := ldrop (s.core g.val).cmds i.val })) ∧
    (∀ e ∈ ([(.copy g m i, 1), (.pack g m i, 2), (.fill g m i, 3), (.cmflush g m i, 4), (.cminv g m i, 5)] :
        List (Instr × Nat)),
      ((s.core g.val).cmds[i.val]? = none → exec e.1 s = .next s) ∧
      (∀ w, (s.core g.val).cmds[i.val]? = some w →
        ((mvDecode w.cmd).mop ≠ 0 → (mvDecode w.cmd).mop ≤ 5 → (mvDecode w.cmd).mop ≠ e.2 → exec e.1 s = .next s) ∧
        ((mvDecode w.cmd).mop = 0 ∨ 5 < (mvDecode w.cmd).mop ∨ ((mvDecode w.cmd).mop = e.2 ∧
            ((mvDecode w.cmd).dconv = none ∨ ∃ d, (mvDecode w.cmd).dconv = some d ∧
              ((mvDecode w.cmd).illegal d = true ∨ (mvDecode w.cmd).bindBad s x d = true))) →
          exec e.1 s = .next { s.coreFault g.val uMover kEncoding 0 g.val with pending := s.pending, power := s.power })))

/-! ### The control core (06) -/

/-- 06 R187, R189, R190; the words are those of R189's formats. -/
def Obligations.ControlCoreComputes : Prop :=
  ∀ (g : Fin 256) (x : Inst) (s u : State) (c : CoreSt), s.core g.val = c →
    (∀ r : RForm, r.rest = 0 →
      (∀ e ∈ ([(.add g r, 0x01, fun a b => a + b), (.sub g r, 0x02, fun a b => a - b), (.mul g r, 0x03, fun a b => a * b),
          (.andOp g r, 0x04, fun a b => a &&& b), (.orOp g r, 0x05, fun a b => a ||| b),
          (.xor g r, 0x06, fun a b => a ^^^ b), (.shl g r, 0x07, fun a b => a <<< (b.toNat % 64)),
          (.shr g r, 0x08, fun a b => a >>> (b.toNat % 64)), (.sar g r, 0x09, fun a b => a.sshiftRight (b.toNat % 64)),
          (.sltu g r, 0x0A, fun a b => if a.toNat < b.toNat then 1 else 0),
          (.slt g r, 0x0B, fun a b => if a.toInt < b.toInt then 1 else 0),
          (.fadd g r, 0x48, fun a b => (w32Add (a.setWidth 32) (b.setWidth 32)).setWidth 64),
          (.fmul g r, 0x49, fun a b => (w32Mul (a.setWidth 32) (b.setWidth 32)).setWidth 64),
          (.flt g r, 0x4B, fun a b => if w32Lt (a.setWidth 32) (b.setWidth 32) = true then 1 else 0)] :
            List (Instr × Nat × (Word64 → Word64 → Word64))),
        fetches s g.val (rWord e.2.1 r) [] [r.rd, r.ra, r.rb] x u →
        exec e.1 s = .next (steppedTo s u g.val (c.put r.rd (e.2.2 (c.reg r.ra) (c.reg r.rb))) 4)) ∧
      (fetches s g.val (rWord 0x4A r) [] [r.rd, r.ra, r.rb] x u →
        exec (.ffma g r) s = .next (steppedTo s u g.val (c.put r.rd ((w32Fma ((c.reg r.ra).setWidth 32)
          ((c.reg r.rb).setWidth 32) ((c.reg r.rd).setWidth 32)).setWidth 64)) 4))) ∧
    (∀ i : IForm,
      (∀ e ∈ ([(.addi g i, 0x10, fun a b => a + b), (.andi g i, 0x11, fun a b => a &&& b),
          (.ori g i, 0x12, fun a b => a ||| b)] : List (Instr × Nat × (Word64 → Word64 → Word64))),
        fetches s g.val (iWord e.2.1 i) [] [i.rd, i.ra] x u →
        exec e.1 s = .next (steppedTo s u g.val (c.put i.rd (e.2.2 (c.reg i.ra) (i.imm.signExtend 64))) 4)) ∧
      (∀ e ∈ ([(.shli g i, 0x13, fun a n => a <<< n), (.shri g i, 0x14, fun a n => a >>> n),
          (.sari g i, 0x15, fun a n => a.sshiftRight n)] : List (Instr × Nat × (Word64 → Nat → Word64))),
        i.imm.toNat < 64 → fetches s g.val (iWord e.2.1 i) [] [i.rd, i.ra] x u →
        exec e.1 s = .next (steppedTo s u g.val (c.put i.rd (e.2.2 (c.reg i.ra) i.imm.toNat)) 4)) ∧
      (∀ v : Nat, fetches s g.val (iWord 0x40 i) [] [i.rd] x u →
        [x.index, x.count, x.rank, x.size, x.args, x.shared, x.task, x.step, x.gtag][i.imm.toNat]? = some v →
        exec (.rds g i) s = .next (steppedTo s u g.val (c.put i.rd (BitVec.ofNat 64 v)) 4))) ∧
    (∀ (p : PForm) (w : BitVec 32), p.rest = 0 →
      (fetches s g.val (pWord 0x18 p) (leBytes 4 w.toNat) [p.rd] x u →
        exec (.li g p w) s = .next (steppedTo s u g.val (c.put p.rd (w.setWidth 64)) 8)) ∧
      (fetches s g.val (pWord 0x19 p) (leBytes 4 w.toNat) [p.rd] x u →
        exec (.lih g p w) s = .next (steppedTo s u g.val (c.put p.rd (w ++ (c.reg p.rd).setWidth 32)) 8)))

/-- 06 R187, R189, R190. -/
def Obligations.ControlCoreLoadsAndJumps : Prop :=
  ∀ (g : Fin 256) (x : Inst) (s u : State) (c : CoreSt), s.core g.val = c →
    (∀ (i : IForm) (a : Nat), a = (c.reg i.ra + i.imm.signExtend 64).toNat →
      (a % 8 = 0 → a + 8 ≤ ocSize →
        (fetches s g.val (iWord 0x20 i) [] [i.rd, i.ra] x u → ocGood s g.val a 8 → runsTo (.ld g i) s fun t => sramKept u t ∧
          t = { steppedTo s u g.val (c.put i.rd (BitVec.ofNat 64 (leNat (s.ocRead g.val a 8)))) 4 with mem := t.mem }) ∧
        (fetches s g.val (iWord 0x21 i) [] [i.rd, i.ra] x u → runsTo (.st g i) s fun t =>
          t = { steppedTo s u g.val c 4 with mem := t.mem } ∧ ocChanged u t g.val a 8 ∧
          t.ocRead g.val a 8 = leBytes 8 (c.reg i.rd).toNat)) ∧
      (∀ b y v, i.imm.toNat < 8 → fetches s g.val (iWord 0x22 i) [] [i.rd, i.ra] x u →
        u.bindIn x ((c.reg i.ra).toNat % 256) = true →
        (bufferOf (dieUnit (coreDie g.val)) x ((c.reg i.ra).toNat % 256)).go u = (.ok (b, y), v) →
        exec (.ldd g i) s = .next (steppedTo s v g.val (c.put i.rd (BitVec.ofNat 64 (fieldAt b (8 * i.imm.toNat) 8))) 4)) ∧
      (fetches s g.val (iWord 0x2C i) [] [i.rd] x u → runsTo (.jal g i) s fun t =>
        t = { steppedTo s u g.val c 4 with eng.core := t.eng.core } ∧
        t.core g.val = { c.put i.rd (BitVec.ofNat 64 ((c.pc + 4) % 2 ^ 64)) with
          pc := ((((c.pc + 4) % 2 ^ 64 : Nat) - 4 + 4 * i.imm.toInt : Int) % 2 ^ 64).toNat } ∧
        ∀ k, k ≠ g.val → t.core k = s.core k) ∧
      (a % 4 = 0 → fetches s g.val (iWord 0x2D i) [] [i.rd, i.ra] x u → runsTo (.jr g i) s fun t =>
        t = { steppedTo s u g.val c 4 with eng.core := t.eng.core } ∧
        t.core g.val = { c.put i.rd (BitVec.ofNat 64 ((c.pc + 4) % 2 ^ 64)) with pc := a } ∧
        ∀ k, k ≠ g.val → t.core k = s.core k)) ∧
    ∀ b : BForm, ∀ e ∈ ([(.beq g b, 0x28, fun p q => decide (p = q)), (.bne g b, 0x29, fun p q => decide (p ≠ q)),
        (.bltu g b, 0x2A, fun p q => decide (p.toNat < q.toNat)), (.bgeu g b, 0x2B, fun p q => decide (q.toNat ≤ p.toNat))] :
          List (Instr × Nat × (Word64 → Word64 → Bool))),
      fetches s g.val (bWord e.2.1 b) [] [b.ra, b.rb] x u →
      (e.2.2 (c.reg b.ra) (c.reg b.rb) = false → exec e.1 s = .next (steppedTo s u g.val c 4)) ∧
      (e.2.2 (c.reg b.ra) (c.reg b.rb) = true → runsTo e.1 s fun t =>
        t = { steppedTo s u g.val c 4 with eng.core := t.eng.core } ∧
        t.core g.val = { c with pc := ((((c.pc + 4) % 2 ^ 64 : Nat) - 4 + 4 * b.off.toInt : Int) % 2 ^ 64).toNat } ∧
        ∀ k, k ≠ g.val → t.core k = s.core k)

/-- 04 R86; 06 R181, R182, R191, R192, R193. -/
def Obligations.ControlCoreIssuesAndWaits : Prop :=
  ∀ (g : Fin 256) (x : Inst) (s u : State) (c : CoreSt), s.core g.val = c →
    (∀ (p : PForm) (w : BitVec 128) (m : MatEng), p.rd = 0 → p.rest = 0 →
      fetches s g.val (pWord 0x30 p) (leBytes 16 w.toNat) [] x u →
      s.mat (matIdx g.val (bits w.toNat 4 1)) = m →
      (m.waiting < 8 → exec (.mis g p w) s = .next ((steppedTo s u g.val c 20).setMat (matIdx g.val (bits w.toNat 4 1))
        { m with queue := m.queue ++ [{ w := w, seq := s.nextIssue g.val }] })) ∧
      (8 ≤ m.waiting → exec (.mis g p w) s = .next s)) ∧
    (∀ (p : PForm) (w : BitVec 64) (q : VWord), p.rd = 0 → p.rest = 0 →
      fetches s g.val (pWord 0x31 p) (leBytes 8 w.toNat) [] x u →
      q = { w := w, sA := c.capture (bits w.toNat 20 8) 0, sA1 := c.capture (bits w.toNat 20 8) 1,
            sB := c.capture (bits w.toNat 28 8) 0, sC := c.capture (bits w.toNat 36 8) 0,
            sC1 := c.capture (bits w.toNat 36 8) 1 } →
      ((s.vec g.val).queue.length < 8 → (∀ r ∈ vecNames w.toNat, r ∉ s.pendingScalars g.val) →
        exec (.vis g p w) s = .next ((steppedTo s u g.val c 12).setVec g.val
          { s.vec g.val with queue := (s.vec g.val).queue ++ [q] })) ∧
      (8 ≤ (s.vec g.val).queue.length ∨ (∃ r ∈ vecNames w.toNat, r ∈ s.pendingScalars g.val) →
        exec (.vis g p w) s = .next s)) ∧
    (∀ r : RForm, r.rd = 0 → r.rb = 0 → r.rest = 0 → fetches s g.val (rWord 0x32 r) [] [r.ra] x u →
      (c.reg r.ra).toNat % 64 = 0 → (c.reg r.ra).toNat + 64 ≤ ocSize →
      (c.cmds.length < 8 → ocGood s g.val (c.reg r.ra).toNat 64 → runsTo (.mvc g r) s fun t => sramKept u t ∧ t =
        { steppedTo s u g.val { c with cmds := c.cmds ++ [{ cmd := s.ocRead g.val (c.reg r.ra).toNat 64 }] } 4 with
          mem := t.mem }) ∧
      (8 ≤ c.cmds.length → exec (.mvc g r) s = .next s)) ∧
    (∀ i : IForm, i.imm.toNat < 16 → fetches s g.val (iWord 0x33 i) [] [] x u → runsTo (.fence g i) s fun t =>
      t = { steppedTo s u g.val c 4 with eng.core := t.eng.core } ∧
      t.core g.val = { c with
        pc := (c.pc + 4) % 2 ^ 64
        wait := if s.quiet g.val i.imm.toNat then .none else .fence i.imm.toNat } ∧
      ∀ k, k ≠ g.val → t.core k = s.core k) ∧
    (∀ n, s.works = true → s.running g.val = some x → c.wait = .fence n → exec (.fenceRelease g) s =
      .next (if s.quiet g.val n then s.setCore g.val { c with wait := .none } else s)) ∧
    (∀ r : RForm, r = ⟨0, 0, 0, 0⟩ → fetches s g.val (rWord 0x3E r) [] [] x u →
      (s.quiet g.val 15 = false → exec (.exitOp g r) s = .next (steppedTo s u g.val { c with wait := .exit } 4)) ∧
      (s.quiet g.val 15 = true → exec (.exitOp g r) s = .next (left s
        ((u.setCore g.val { c with pc := (c.pc + 4) % 2 ^ 64, wait := .exit }).endInst g.val x)))) ∧
    (∀ (r : RForm) (n v : Nat), r.rest = 0 → (c.reg r.ra).toNat % 4096 = n → (c.reg r.rb).toNat % 2 ^ 32 = v → v ≠ 0 →
      s.semUsable n x.ctx = true →
      (r.rd = 0 → fetches s g.val (rWord 0x38 r) [] [r.rd, r.ra, r.rb] x u → exec (.semw g r) s = .next
        ((steppedTo s u g.val { c with wait := .sem n v } 4).setSemReqs n (s.semReqs n ++ [⟨.core x.ctx g.val, v⟩]))) ∧
      (r.rd = 0 → fetches s g.val (rWord 0x39 r) [] [r.rd, r.ra, r.rb] x u → s.getF (F.semCount n) + v < 2 ^ 32 →
        (∀ e ∈ s.ctxs.ctx, e.2.donor = 0) →
        exec (.sems g r) s = .next ((steppedTo s u g.val c 4).setF (F.semCount n) (s.getF (F.semCount n) + v))) ∧
      (fetches s g.val (rWord 0x3A r) [] [r.rd, r.ra, r.rb] x u →
        (s.semReqs n = [] → v ≤ s.getF (F.semCount n) → exec (.semt g r) s = .next
          ((steppedTo s u g.val (c.put r.rd 1) 4).setF (F.semCount n) (s.getF (F.semCount n) - v))) ∧
        (s.semReqs n ≠ [] ∨ s.getF (F.semCount n) < v →
          exec (.semt g r) s = .next (steppedTo s u g.val (c.put r.rd 0) 4))))

/-- 06 R194. -/
def Obligations.ControlCoreFaults : Prop :=
  ∀ (g : Fin 256) (x : Inst) (s u : State) (c : CoreSt), s.core g.val = c →
    (∀ (r : RForm) (i : IForm) (b : BForm) (p : PForm) (w : BitVec 32) (y : BitVec 64) (z : BitVec 128),
      ∀ e ∈ coreForms g r i b p w y z,
        (∀ bs, s.works = true → s.running g.val = some x → c.wait = .none → (fetch g.val x c.pc 4).go s = (.ok bs, u) →
          fieldAt bs 0 1 ∉ ccOps → exec e.1 s = .next (left s (u.coreFault g.val uCore kEncoding 0 g.val))) ∧
        (s.works = true → s.running g.val = some x → c.wait = .none → x.codeLen ≤ c.pc →
          exec e.1 s = .next (left s (s.coreStop g.val uCore x
            (.fault clsContext kBounds 0 ((x.code + c.pc) % 2 ^ 64) (some uCore))))) ∧
        (fetches s g.val e.2.1 e.2.2.1 [] x u → e.2.2.2 = true →
          exec e.1 s = .next (left s (u.coreFault g.val uCore kEncoding 0 g.val)))) ∧
    (∀ (i : IForm) (a : Nat), a = (c.reg i.ra + i.imm.signExtend 64).toNat →
      (8 < i.imm.toNat → fetches s g.val (iWord 0x40 i) [] [i.rd] x u →
        exec (.rds g i) s = .next (left s (u.coreFault g.val uCore kEncoding 0 g.val))) ∧
      (i.imm.toNat < 8 → u.bindIn x ((c.reg i.ra).toNat % 256) = false → fetches s g.val (iWord 0x22 i) [] [i.rd, i.ra] x u →
        exec (.ldd g i) s = .next (left s (u.coreFault g.val uCore kEncoding 0 g.val))) ∧
      (a % 8 ≠ 0 ∨ ocSize < a + 8 → ∀ e ∈ ([(.ld g i, 0x20), (.st g i, 0x21)] : List (Instr × Nat)),
        fetches s g.val (iWord e.2 i) [] [i.rd, i.ra] x u →
        exec e.1 s = .next (left s (u.coreFault g.val uCore kBounds 0 a))) ∧
      (a % 4 ≠ 0 → fetches s g.val (iWord 0x2D i) [] [i.rd, i.ra] x u →
        exec (.jr g i) s = .next (left s (u.coreFault g.val uCore kSequence 0 g.val))) ∧
      (fetches s g.val (iWord 0x3F i) [] [] x u →
        exec (.trap g i) s = .next (left s (u.coreFault g.val uCore kTrap 0 (i.imm.signExtend 64).toNat)))) ∧
    (∀ (r : RForm) (n : Nat), r.rest = 0 → r.rd = 0 → (c.reg r.ra).toNat % 4096 = n →
      (∀ e ∈ ([(.semw g r, 0x38), (.sems g r, 0x39), (.semt g r, 0x3A)] : List (Instr × Nat)),
        fetches s g.val (rWord e.2 r) [] [r.rd, r.ra, r.rb] x u →
        ((c.reg r.rb).toNat % 2 ^ 32 = 0 → exec e.1 s = .next (left s (u.coreFault g.val uCore kEncoding 0 g.val))) ∧
        ((c.reg r.rb).toNat % 2 ^ 32 ≠ 0 → s.semUsable n x.ctx = false →
          exec e.1 s = .next (left s (u.coreFault g.val uCore kEncoding n g.val)))) ∧
      (fetches s g.val (rWord 0x39 r) [] [r.rd, r.ra, r.rb] x u → s.semUsable n x.ctx = true →
        2 ^ 32 ≤ s.getF (F.semCount n) + (c.reg r.rb).toNat % 2 ^ 32 → (c.reg r.rb).toNat % 2 ^ 32 ≠ 0 →
        exec (.sems g r) s = .next (left s (u.coreFault g.val uCore kOverflow 0 n)))) ∧
    (∀ r : RForm, r.rd = 0 → r.rb = 0 → r.rest = 0 → fetches s g.val (rWord 0x32 r) [] [r.ra] x u →
      (c.reg r.ra).toNat % 64 ≠ 0 ∨ ocSize < (c.reg r.ra).toNat + 64 →
      exec (.mvc g r) s = .next (left s (u.coreFault g.val uCore kBounds 0 (c.reg r.ra).toNat)))

/-- 05 R132; 06 R194. -/
def Obligations.FetchChangesNothingElse : Prop :=
  ∀ (s : State),
    (∀ unit x a n b u, (cvaRead unit x a n).go s = (b, u) → readOnly s u x) ∧
    ∀ g x pc n u b, (fetch g x pc n).go s = (b, u) → readOnly s u x.ctx

/-! ### The matrix engines (03) -/

/-- 03 R58, R62, R63, R65–R69, R72, R74, R76; suppression 07 R214; SRAM 05 R113. -/
def Obligations.MatrixWordsActOnTheSpan : Prop :=
  ∀ (g : Fin 256) (e : Fin 2) (x : Inst) (q : MWord) (w i : Nat) (m : MatEng) (s : State), w = q.w.toNat →
    i = matIdx g.val e.val → matFormed s x w m → (q.done = 0 → matInTurn s g.val w m) →
    (matFront s g.val e.val x q 1 m → runsTo (.macc g e) s fun t => t = { s with regs := t.regs, eng.mat := t.eng.mat } ∧
      matSet s t g.val e.val x
        { st := .opened, fa := bits w 8 2, fb := bits w 10 2, mrows := bits w 12 6 + 1, ncols := bits w 18 6 + 1,
          nseg := segCount (bits w 24 16), seg0 := bits w 40 16, tag := bits w 64 32, fresh := true, queue := m.queue } 2) ∧
    (matFront s g.val e.val x q 2 m → (q.done = 0 → m.mmaInside w = true) →
      (s.suppressed x.ctx = false → (∀ r ∈ mmaReads w q.done m, ocGood s g.val r.1 r.2) → runsTo (.mma g e) s fun t =>
        t = { s with regs := t.regs, eng.mat := t.eng.mat, mem := t.mem } ∧ sramKept s t ∧
        matSet s t g.val e.val x ((m.addBlock (mmaBlock s g.val w q.done m).1).mmaNext q)
          (blockBeats m.fa m.fb + (if m.fresh then 6 else 0))) ∧
      (s.suppressed x.ctx = true → q.done = 0 → runsTo (.mma g e) s fun t =>
        t = { s with regs := t.regs, eng.mat := t.eng.mat, freeCtr := t.freeCtr } ∧ matSet s t g.val e.val x (t.mat i) 1 ∧
        (t.mat i).endK = decide (bits w 72 5 ≠ 0) ∧ (t.mat i).queue = m.queue ∧
        256 * (t.mat i).pushed + (t.mat i).blk = 256 * m.pushed + m.blk + bits w 8 8 + 1)) ∧
    (matFront s g.val e.val x q 3 m → runsTo (.mpart g e) s fun t =>
        t = { s with regs := t.regs, eng.mat := t.eng.mat, mem := t.mem, train := t.train } ∧
        matSet s t g.val e.val x { queue := m.queue } 137 ∧ ocChanged s t g.val (64 * bits w 16 14) partialBytes ∧
        t.ocRead g.val (64 * bits w 16 14) partialBytes = m.partialTile ∧
        t.train = (s.report x.ctx (bits w 30 12) (s.stepNo x.ctx) m.census).train) ∧
    (∀ h : List Byte, matFront s g.val e.val x q 4 m → m.mrows ≤ 64 → m.ncols ≤ 64 →
      ocGood s g.val (64 * bits w 16 14) partialBytes → h = s.ocRead g.val (64 * bits w 16 14) 64 →
      runsTo (.mcomb g e) s fun t => t = { s with regs := t.regs, eng.mat := t.eng.mat, mem := t.mem } ∧ sramKept s t ∧
        matSet s t g.val e.val x (t.mat i) 138 ∧ (t.mat i).seg0 = min m.seg0 (fieldAt h 6 2) ∧
        (t.mat i).span = m.span + segCount (fieldAt h 8 2) ∧ (t.mat i).st = .folded ∧ (t.mat i).queue = m.queue ∧
        ∀ a b, a < m.mrows → b < m.ncols → tileAt (t.mat i).folded a b =
          w32Add (tileAt m.folded a b) (w32At (s.ocRead g.val (64 * bits w 16 14 + 64 + 4 * cell a b) 4) 0)) ∧
    (∀ (c : Cvc) (cs : List W32) (u : State) (o : OutCtl), matFront s g.val e.val x q 5 m →
      cvcDecode (bits w 8 8) = some c →
      (s.suppressed x.ctx = true → runsTo (.mout g e) s fun t => t = { s with regs := t.regs, eng.mat := t.eng.mat } ∧
        matSet s t g.val e.val x { queue := m.queue } 1) ∧
      (s.suppressed x.ctx = false → (ocReads g.val (m.outReads c (64 * bits w 30 14) (bits w 56 1)) >>= fun _ =>
          coarseUse g.val uMatrix x [(m.fa != 2, bits w 64 8), (m.fb != 2, bits w 72 8), (c.fmt.scaled, bits w 80 8)]).go
            (s.setMat i m) = (.ok cs, u) →
        o = { cvc := c, de := 64 * bits w 16 14, ds := 64 * bits w 30 14, axis := bits w 56 1, slot := bits w 44 12,
              ca := cs.getD 0 0, cb := cs.getD 1 0, cd := cs.getD 2 0 } →
        runsTo (.mout g e) s fun t => t = left s { u with
            regs := t.regs
            eng.mat := t.eng.mat
            mem := (u.outTile g.val x.ctx m o).1.mem
            train := (u.report x.ctx (bits w 44 12) (u.stepNo x.ctx) (u.outTile g.val x.ctx m o).2).train } ∧
          matSet u t g.val e.val x { queue := m.queue } (8 + outBeats c.fmt)))

/-- 03 R62, R63, R65, R70; 04 R84, R85, R88, R93, R106. -/
def Obligations.EngineWordsFault : Prop :=
  (∀ (g : Fin 256) (e : Fin 2) (x : Inst) (q : MWord) (w : Nat) (m : MatEng) (s u : State), w = q.w.toNat →
     u = s.setMat (matIdx g.val e.val) m →
     ∀ i ∈ ([(.macc g e, 1), (.mma g e, 2), (.mpart g e, 3), (.mcomb g e, 4), (.mout g e, 5)] : List (Instr × Nat)),
       (∀ r, s.works = true → s.running g.val = some x → (s.mat (matIdx g.val e.val)).queue = q :: r →
         m = { s.mat (matIdx g.val e.val) with queue := r } →
         (bits w 0 4 = 0 ∨ 5 < bits w 0 4 ∨ (bits w 0 4 = i.2 ∧ bits w 5 3 ≠ 0 ∧ s.matHeld g.val e.val q = false) →
           exec i.1 s = .next (left s (u.matFault g.val e.val false))) ∧
         (bits w 0 4 ≠ 0 → bits w 0 4 ≤ 5 → bits w 0 4 ≠ i.2 → exec i.1 s = .next s)) ∧
       ((s.mat (matIdx g.val e.val)).queue = [] → exec i.1 s = .next s) ∧
       (matFront s g.val e.val x q i.2 m → q.done = 0 →
         (¬ matFormed s x w m → exec i.1 s = .next (left s (u.matFault g.val e.val false))) ∧
         (matFormed s x w m → matInTurn s g.val w m → i.2 = 2 → m.mmaInside w = false →
           exec i.1 s = .next (left s (u.matFault g.val e.val false))) ∧
         (∀ v, matFormed s x w m → ¬ matInTurn s g.val w m →
           (ocReads g.val (if i.2 = 4 then [(64 * bits w 16 14, partialBytes)] else [])).go u = (.ok (), v) →
           exec i.1 s = .next (left s (v.matFault g.val e.val true))))) ∧
  (∀ (g : Fin 256) (x : Inst) (win : Bool) (q : VWord) (w : Nat) (s u : State), w = q.w.toNat →
     (∀ rest, s.works = true → s.running g.val = some x → (s.vec g.val).queue = q :: rest → (s.vec g.val).run = none →
       u = s.setVec g.val { s.vec g.val with queue := rest } → ∀ e ∈ vecWords g,
         (vOps (vCls w) ≤ vOp w → exec e.1 s = .next (left s (u.vecFault g.val kEncoding g.val))) ∧
         (vOp w < vOps (vCls w) → (vCls w, vOp w) ≠ e.2 → exec e.1 s = .next s)) ∧
     ((s.vec g.val).queue = [] → (s.vec g.val).run = none → ∀ e ∈ vecWords g, exec e.1 s = .next s) ∧
     (∀ e ∈ vecWords g, e.2 ∉ [(5, 0), (5, 1), (6, 1), (7, 1), (7, 3), (8, 0), (8, 1), (8, 2)] →
       vecFront s g.val x win q e.2.1 e.2.2 u → bits w 56 8 ≠ 0 →
       exec e.1 s = .next (left s (u.vecFault g.val kEncoding g.val))) ∧
     (∀ e ∈ vecWords g, (e.2.1 = 1 ∨ e.2.1 = 4 ∨ e.2 = (7, 0) ∨ e.2 = (7, 2) ∨ e.2 = (7, 4) ∨ e.2 = (7, 6)) →
       vecFront s g.val x win q e.2.1 e.2.2 u → bits w 56 8 = 0 → ¬ vecField win (bits w 12 8) →
       exec e.1 s = .next (left s (u.vecFault g.val kEncoding g.val))) ∧
     (∀ e ∈ vecWords g, (e.2.1 = 2 ∨ e.2.1 = 3) → e.2 ≠ (3, 6) → (e.2 = (3, 4) → bits w 28 8 = 0) →
       vecFront s g.val x win q e.2.1 e.2.2 u → bits w 56 8 = 0 →
       (8 ≤ bits w 12 8 → exec e.1 s = .next (left s (u.vecFault g.val kEncoding g.val))) ∧
       (bits w 12 8 = 0 → exec e.1 s = .next (left s (u.vecFault g.val kSequence g.val)))) ∧
     (∀ e ∈ vecWords g, (e.2 = (6, 0) ∨ e.2 = (6, 2) ∨ e.2 = (9, 0)) → vecFront s g.val x win q e.2.1 e.2.2 u →
       bits w 56 8 = 0 → bits w 8 4 ≠ 0 → exec e.1 s = .next (left s (u.vecFault g.val kEncoding g.val))) ∧
     (vecFront s g.val x win q 5 0 u → bits w 56 8 = 3 → vecField win (bits w 12 8) → scaField (bits w 20 8) →
       scaField (bits w 28 8) → ∀ a, a = q.sA.toNat % 2 ^ 32 →
       (a % 64 ≠ 0 → exec (.vld g) s = .next (left s (u.vecFault g.val kSequence g.val))) ∧
       (∀ l, a % 64 = 0 → l < 128 → lit s g.val (bits w 8 3) l = true → ocSize < a + 4 * l + 4 →
         (∀ k, k < l → lit s g.val (bits w 8 3) k = true → a + 4 * k + 4 ≤ ocSize) →
         exec (.vld g) s = .next (left s (u.vecFault g.val kBounds (a + 4 * l))))))

/-- 03 R58–R60. -/
def Obligations.SegmentStackIsTheTree : Prop :=
  (sumT [] = 0#32 ∧ (∀ v : W32, sumT [v] = v) ∧ ∀ l : List W32, 2 ≤ l.length → l.length ≤ 65536 →
    ∃ k, 2 ^ k < l.length ∧ l.length ≤ 2 ^ (k + 1) ∧ sumT l = w32Add (sumT (l.take (2 ^ k))) (sumT (l.drop (2 ^ k)))) ∧
  ∀ (m : MatEng) (ts : List Tile) (i j : Nat), m.stack = [] → m.blk = 0 → m.mrows ≤ 64 → m.ncols ≤ 64 →
    i < m.mrows → j < m.ncols → 0 < ts.length → ts.length ≤ 65536 →
    tileAt (ts.foldl (fun m t => MatEng.push { m with acc := t, blk := 1 }) m).folded i j =
      sumT (ts.map fun t => tileAt t i j)

/-! ### The vector engine (04) -/

/-- 04 R79, R81, R84–R88, R92, R97. -/
def Obligations.VectorLaneWords : Prop :=
  ∀ (g : Fin 256) (x : Inst) (win : Bool) (q : VWord) (w : Nat) (s u : State), w = q.w.toNat →
    ∀ e ∈ ([(.vadd g, 1, 0, 2, fun a b _ => w32Add a b), (.vsub g, 1, 1, 2, fun a b _ => w32Sub a b),
        (.vmul g, 1, 2, 2, fun a b _ => w32Mul a b), (.vfma g, 1, 3, 3, fun a b c => w32Fma a b c),
        (.vfnma g, 1, 4, 3, fun a b c => w32Fma (w32Flip a) b c), (.vmin g, 1, 5, 2, fun a b _ => w32Min a b),
        (.vmax g, 1, 6, 2, fun a b _ => w32Max a b), (.vabs g, 1, 7, 1, fun a _ _ => w32Abs a),
        (.vneg g, 1, 8, 1, fun a _ _ => w32NegV a), (.vmov g, 1, 9, 1, fun a _ _ => a),
        (.vdiv g, 1, 10, 2, fun a b _ => w32Div a b), (.vsqrt g, 1, 11, 1, fun a _ _ => w32Sqrt a),
        (.vclamp g, 1, 12, 3, fun a b c => w32Min (w32Max a b) c), (.vcvti g, 1, 13, 1, fun a _ _ => w32ToU32 a),
        (.vcvtf g, 1, 14, 1, fun a _ _ => w32OfNat a.toNat), (.vexp g, 4, 0, 1, fun a _ _ => fExp a),
        (.vexp2 g, 4, 1, 1, fun a _ _ => fExp2 a), (.vlog g, 4, 2, 1, fun a _ _ => fLog a),
        (.vlog2 g, 4, 3, 1, fun a _ _ => fLog2 a), (.vrcp g, 4, 4, 1, fun a _ _ => w32Div w32One a),
        (.vrsqrt g, 4, 5, 1, fun a _ _ => fRsqrt a), (.vtanh g, 4, 6, 1, fun a _ _ => fTanh a),
        (.vsigm g, 4, 7, 1, fun a _ _ => fSigm a), (.verf g, 4, 8, 1, fun a _ _ => fErf a),
        (.vsin g, 4, 9, 1, fun a _ _ => fSin a), (.vcos g, 4, 10, 1, fun a _ _ => fCos a)] :
          List (Instr × Nat × Nat × Nat × (W32 → W32 → W32 → W32))),
      vecFront s g.val x win q e.2.1 e.2.2.1 u → bits w 56 8 = 0 → vecField win (bits w 12 8) →
      srcField win (bits w 20 8) →
      (2 ≤ e.2.2.2.1 → srcField win (bits w 28 8)) →
      (3 ≤ e.2.2.2.1 → srcField win (bits w 36 8)) →
      (win = true → e.1 ≠ .vmov g → s.slotOk (bits w 44 12) x.ctx = true) →
      runsTo e.1 s fun t => vecOnly u t g.val x false ∧
        lanesSet u t g.val win (bit w 11) (bits w 12 8) (lit s g.val (bits w 8 3)) (fun l =>
          e.2.2.2.2 (vval s g.val win (bits w 20 8) q.sA l) (vval s g.val win (bits w 28 8) q.sB l)
            (vval s g.val win (bits w 36 8) q.sC l)) ∧
        reported u t x w (win && decide (e.1 ≠ .vmov g))

/-- 04 R97, R98. -/
def Obligations.TranscendentalSpecialInputs : Prop :=
  (∀ e ∈ ([(fExp, 0x00000000#32, 0x7F800000#32, 0x3F800000#32, 0x3F800000#32),
      (fExp2, 0x00000000#32, 0x7F800000#32, 0x3F800000#32, 0x3F800000#32),
      (fLog, w32NaN, 0x7F800000#32, 0xFF800000#32, 0xFF800000#32), (fLog2, w32NaN, 0x7F800000#32, 0xFF800000#32, 0xFF800000#32),
      (fRcp, 0x80000000#32, 0x00000000#32, 0xFF800000#32, 0x7F800000#32),
      (fRsqrt, w32NaN, 0x00000000#32, 0xFF800000#32, 0x7F800000#32),
      (fTanh, 0xBF800000#32, 0x3F800000#32, 0x80000000#32, 0x00000000#32),
      (fErf, 0xBF800000#32, 0x3F800000#32, 0x80000000#32, 0x00000000#32),
      (fSigm, 0x00000000#32, 0x3F800000#32, 0x3F000000#32, 0x3F000000#32), (fSin, w32NaN, w32NaN, 0x80000000#32, 0x00000000#32),
      (fCos, w32NaN, w32NaN, 0x3F800000#32, 0x3F800000#32)] : List ((W32 → W32) × W32 × W32 × W32 × W32)),
    e.1 0xFF800000#32 = e.2.1 ∧ e.1 0x7F800000#32 = e.2.2.1 ∧ e.1 0x80000000#32 = e.2.2.2.1 ∧ e.1 0x00000000#32 = e.2.2.2.2 ∧
    ∀ v : W32, w32IsNaN v = true → e.1 v = w32NaN) ∧
  (∀ f ∈ [fLog, fLog2, fRsqrt], ∀ v : W32, w32IsFinite v = true → w32IsZero v = false → w32Neg v = true → f v = w32NaN) ∧
  (∀ n : Nat, n < 254 → fLog2 (BitVec.ofNat 32 ((n + 1) * 2 ^ 23)) = w32OfSmallInt ((n : Int) - 126)) ∧
  (∀ n : Nat, n < 127 → fRsqrt (BitVec.ofNat 32 ((2 * n + 1) * 2 ^ 23)) = BitVec.ofNat 32 ((190 - n) * 2 ^ 23)) ∧
  (∀ n : Int, -126 ≤ n → n ≤ 127 → fExp2 (w32OfSmallInt n) = BitVec.ofNat 32 ((n + 127).toNat * 2 ^ 23)) ∧
  ∀ v : W32, w32Neg v = false → w32IsNaN v = false → (0x42B17218 ≤ v.toNat → fExp v = 0x7F800000#32) ∧
    (0x43000000 ≤ v.toNat → fExp2 v = 0x7F800000#32)

/-- 04 R84, R85, R88, R92. -/
def Obligations.VectorMasks : Prop :=
  ∀ (g : Fin 256) (x : Inst) (win : Bool) (q : VWord) (w : Nat) (s u : State), w = q.w.toNat → bits w 56 8 = 0 →
    (∀ e ∈ ([(.vceq g, 0, true, w32Eq), (.vcne g, 1, true, fun a b => !(w32Eq a b)), (.vclt g, 2, true, w32Lt),
        (.vcle g, 3, true, w32Le), (.vcunord g, 4, true, fun a b => w32IsNaN a || w32IsNaN b),
        (.vcfin g, 5, false, fun a _ => w32IsFinite a)] : List (Instr × Nat × Bool × (W32 → W32 → Bool))),
      vecFront s g.val x win q 2 e.2.1 u → 1 ≤ bits w 12 8 → bits w 12 8 < 8 →
      srcField win (bits w 20 8) →
      (e.2.2.1 = true → srcField win (bits w 28 8)) →
      runsTo e.1 s fun t => vecQuiet u t g.val x false ∧
        maskSet u t g.val (bit w 11) (bits w 12 8) (lit s g.val (bits w 8 3)) fun l =>
          e.2.2.2 (vval s g.val win (bits w 20 8) q.sA l) (vval s g.val win (bits w 28 8) q.sB l)) ∧
    (∀ e ∈ ([(.kand g, 0, fun a b => a && b), (.kor g, 1, fun a b => a || b), (.kxor g, 2, fun a b => a != b),
        (.kandn g, 3, fun a b => a && !b), (.knot g, 4, fun a _ => !a)] : List (Instr × Nat × (Bool → Bool → Bool))),
      vecFront s g.val x win q 3 e.2.1 u → 1 ≤ bits w 12 8 → bits w 12 8 < 8 → bits w 20 8 < 8 → bits w 28 8 < 8 →
      (e.2.1 = 4 → bits w 28 8 = 0) →
      runsTo e.1 s fun t => vecQuiet u t g.val x false ∧
        maskSet u t g.val (bit w 11) (bits w 12 8) (lit s g.val (bits w 8 3)) fun l =>
          e.2.2 (lit s g.val (bits w 20 8) l) (lit s g.val (bits w 28 8) l)) ∧
    (vecFront s g.val x win q 3 5 u → 1 ≤ bits w 12 8 → bits w 12 8 < 8 → scaField (bits w 20 8) →
      runsTo (.kfirst g) s fun t => vecQuiet u t g.val x false ∧
        maskSet u t g.val (bit w 11) (bits w 12 8) (lit s g.val (bits w 8 3)) fun l => decide (l < q.sA.toNat % 2 ^ 32)) ∧
    (vecFront s g.val x win q 3 6 u → scaField (bits w 12 8) → bits w 20 8 < 8 →
      runsTo (.kcount g) s fun t => vecQuiet u t g.val x true ∧ t.eng.vec = u.eng.vec ∧
        scalarSet u t g.val (bits w 12 8 - 0x80) (BitVec.ofNat 64
          ((activeLanes s g.val w).filter fun l => lit s g.val (bits w 20 8) l).length)) ∧
    (vecFront s g.val x win q 9 0 u → bits w 56 8 = 0 → bits w 8 4 = 0 → scaField (bits w 20 8) →
      (q.sA.toNat % 2 ^ 32) % 65536 = 0 → q.sA.toNat % 2 ^ 32 < ocSize → runsTo (.vwin g) s fun t =>
        vecQuiet u t g.val x false ∧
        t.vec g.val = { u.vec g.val with wbase := q.sA.toNat % 2 ^ 32 } ∧ ∀ h, h ≠ g.val → t.vec h = s.vec h)

/-- 02 R33, R51; 04 R80, R89–R93. -/
def Obligations.VectorLoadsAndStores : Prop :=
  ∀ (g : Fin 256) (x : Inst) (win : Bool) (q : VWord) (w : Nat) (s u : State) (a sa i0 : Nat), w = q.w.toNat →
    a = q.sA.toNat % 2 ^ 32 → sa = q.sA1.toNat % 2 ^ 32 → i0 = q.sB.toNat % 2 ^ 32 → scaField (bits w 20 8) →
    scaField (bits w 28 8) → vecField win (bits w 12 8) → a % 64 = 0 →
    (∀ (f : Fmt) (cs : List W32) (v : State), vecFront s g.val x win q 5 0 u → bits w 56 8 < 4 → f = c2fmt (bits w 56 8) →
      (f.scaled = true → bits w 20 8 ≠ 0x9F ∧ i0 % 16 = 0 ∧ s.bindIn x (bits w 36 8) = true) →
      (win = true → f ≠ .w32 → s.slotOk (bits w 44 12) x.ctx = true) → (∀ l ∈ lanes, laneIn f a sa l = true) →
      (ocReads g.val ((activeLanes s g.val w).flatMap fun l => (laneByte f a l, laneSize f) ::
          (if f.scaled then [(sa + l / 16, 1)] else [])) >>= fun _ =>
        coarseUse g.val uVector x [(f.scaled, bits w 36 8)]).go u = (.ok cs, v) →
      runsTo (.vld g) s fun t => vecOnly (left s v) t g.val x false ∧
        lanesSet v t g.val win (bit w 11) (bits w 12 8) (lit s g.val (bits w 8 3)) (fun l =>
          if f.scaled = true ∧ coarseOk (cs.getD 0 0) = false then w32NaN else toW32 (srcElem f (elemAt s g.val f a l)
            (if f.scaled then leNat (s.ocRead g.val (sa + l / 16) 1) else 0) (cs.getD 0 0))) ∧
        reported v t x w (win && decide (f ≠ .w32))) ∧
    (∀ c : Cvc, vecFront s g.val x win q 5 1 u → cvcDecode (bits w 56 8) = some c →
      (∀ l ∈ lanes, laneIn c.fmt a sa l = true) →
      (c.fmt.scaled = false → (c.fmt ≠ .w32 → s.slotOk (bits w 44 12) x.ctx = true) →
        runsTo (.vst g) s fun t => vecOnly u t g.val x false ∧ t.eng.vec = u.eng.vec ∧
          (∀ l, l < 128 → leNat (t.ocRead g.val (a + laneSize c.fmt * l) (laneSize c.fmt)) =
            if lit s g.val (bits w 8 3) l then
              (if c.fmt = .w32 then (vlane s g.val win (bits w 12 8) l).toNat else
                (convCode c false (draw (BitVec.ofNat 64 (s.stepNo x.ctx)) (bits w 44 12) (i0 + l))
                  (srcW32 (vlane s g.val win (bits w 12 8) l))).1)
            else if bit w 11 then 0 else leNat (s.ocRead g.val (a + laneSize c.fmt * l) (laneSize c.fmt))) ∧
          ocChanged u t g.val a (128 * laneSize c.fmt) ∧ reported u t x w (decide (c.fmt ≠ .w32))) ∧
      (∀ (cs : List W32) (v : State) (b : Nat) (r : List Nat × Option Nat × Census), c.fmt.scaled = true → bit w 11 = false →
        bits w 20 8 ≠ 0x9F → i0 % 16 = 0 → s.bindIn x (bits w 36 8) = true → s.slotOk (bits w 44 12) x.ctx = true → b < 8 →
        (∀ l, l < 128 → lit s g.val (bits w 8 3) l = decide (l / 16 = b)) →
        (ocReads g.val (if win then (activeLanes s g.val w).map fun l =>
            ((s.vec g.val).wbase + 512 * bits w 12 8 + 4 * l, 4) else []) >>= fun _ =>
          ocReads g.val (if c.given then [(sa + b, 1)] else []) >>= fun _ =>
          coarseUse g.val uVector x [(true, bits w 36 8)]).go u = (.ok cs, v) →
        r = convBlock c (cs.getD 0 0) false (leNat (s.ocRead g.val (sa + b) 1))
          ((upTo 16).map fun i => srcW32 (vlane s g.val win (bits w 12 8) (16 * b + i)))
          ((upTo 16).map fun i => draw (BitVec.ofNat 64 (s.stepNo x.ctx)) (bits w 44 12) (i0 + (16 * b + i))) →
        runsTo (.vst g) s fun t => vecOnly (left s v) t g.val x false ∧ t.eng.vec = u.eng.vec ∧ reported v t x w true ∧
          ocChanged v t g.val 0 ocSize ∧
          (∀ k, (k < ocKey g.val (a + 2 * c.fmt.bits * b) ∨ ocKey g.val (a + 2 * c.fmt.bits * (b + 1)) ≤ k) →
            k ≠ ocKey g.val (sa + b) → tget 0 t.mem.oc k = tget 0 s.mem.oc k) ∧
          (sa + b < a + 2 * c.fmt.bits * b ∨ a + 2 * c.fmt.bits * (b + 1) ≤ sa + b →
            t.ocRead g.val (a + 2 * c.fmt.bits * b) (2 * c.fmt.bits) = packCodes c.fmt r.1) ∧
          (∀ k, r.2.1 = some k → tget 0 t.mem.oc (ocKey g.val (sa + b)) = BitVec.ofNat 8 k)))

/-- 03 R59; 04 R79, R92, R99, R100. -/
def Obligations.VectorSumsAndFolds : Prop :=
  ∀ (g : Fin 256) (x : Inst) (win : Bool) (q : VWord) (w : Nat) (s u : State), w = q.w.toNat →
    (vecFront s g.val x win q 6 0 u → bits w 56 8 = 0 → bits w 8 4 = 0 → runsTo (.vaccz g) s fun t =>
      vecQuiet u t g.val x false ∧ t.vec g.val = { u.vec g.val with pairs := [] } ∧
      ∀ h, h ≠ g.val → t.vec h = s.vec h) ∧
    (vecFront s g.val x win q 6 1 u → bits w 56 8 < 3 → srcField win (bits w 20 8) →
      (bits w 56 8 = 2 → srcField win (bits w 28 8)) → runsTo (.vacc g) s fun t =>
        vecQuiet u t g.val x false ∧
        t.vec g.val = { u.vec g.val with pairs := (t.vec g.val).pairs } ∧ (∀ h, h ≠ g.val → t.vec h = s.vec h) ∧
        ∀ l, l < 128 → tget pair0 (t.vec g.val).pairs l =
          if lit s g.val (bits w 8 3) l then pairAdd (tget pair0 (s.vec g.val).pairs l)
            (accX (bits w 56 8) (vval s g.val win (bits w 20 8) q.sA l) (vval s g.val win (bits w 28 8) q.sB l))
          else tget pair0 (s.vec g.val).pairs l) ∧
    (∀ r : W32, vecFront s g.val x win q 6 2 u → bits w 56 8 = 0 → bits w 8 4 = 0 → r = foldPairs (s.vec g.val).pairs →
      (scaField (bits w 28 8) → scaField (bits w 12 8) → runsTo (.vfold g) s fun t =>
        vecQuiet u t g.val x true ∧ t.eng.vec = u.eng.vec ∧
        scalarSet u t g.val (bits w 12 8 - 0x80) ((w32Mul r (q.sB.setWidth 32)).setWidth 64)) ∧
      (srcField win (bits w 28 8) → vecField win (bits w 12 8) →
        (win = true → s.slotOk (bits w 44 12) x.ctx = true) → runsTo (.vfold g) s fun t => vecOnly u t g.val x false ∧
          lanesSet u t g.val win false (bits w 12 8) (fun _ => true)
            (fun l => w32Mul r (vval s g.val win (bits w 28 8) q.sB l)) ∧ reported u t x w win)) ∧
    ∀ e ∈ ([(.vrsum g, 3, sumT), (.vrmax g, 4, fun l => l.foldl w32Max (w32Inf true)),
        (.vrmin g, 5, fun l => l.foldl w32Min (w32Inf false))] : List (Instr × Nat × (List W32 → W32))),
      ∀ r : W32, vecFront s g.val x win q 6 e.2.1 u → bits w 56 8 = 0 → srcField win (bits w 20 8) →
        r = e.2.2 ((activeLanes s g.val w).map (vval s g.val win (bits w 20 8) q.sA)) →
        (scaField (bits w 12 8) → runsTo e.1 s fun t => vecQuiet u t g.val x true ∧ t.eng.vec = u.eng.vec ∧
          scalarSet u t g.val (bits w 12 8 - 0x80) (r.setWidth 64)) ∧
        (vecField win (bits w 12 8) → (win = true → s.slotOk (bits w 44 12) x.ctx = true) → runsTo e.1 s fun t =>
          vecOnly u t g.val x false ∧
          lanesSet u t g.val win (bit w 11) (bits w 12 8) (lit s g.val (bits w 8 3)) (fun _ => r) ∧ reported u t x w win)

/-- 04 R87, R88, R92, R94–R96. -/
def Obligations.VectorPermutations : Prop :=
  ∀ (g : Fin 256) (x : Inst) (win : Bool) (q : VWord) (w n p d : Nat) (act : List Nat) (on : Nat → Bool) (va : Nat → W32)
      (s u : State), w = q.w.toNat → act = activeLanes s g.val w → n = act.length → on = lit s g.val (bits w 8 3) →
    va = vval s g.val win (bits w 20 8) q.sA → p = q.sB.toNat % 2 ^ 32 → d = bits w 12 8 →
    (∀ e ∈ ([(.vcompress g, 0, fun l => decide (l < n), fun a l => a (act.getD l 0)),
        (.vexpand g, 2, on, fun a l => a (act.filter fun i => decide (i < l)).length)] :
          List (Instr × Nat × (Nat → Bool) × ((Nat → W32) → Nat → W32))),
      vecFront s g.val x win q 7 e.2.1 u → bits w 56 8 = 0 → vecField win d → scaField (bits w 36 8) →
      srcField win (bits w 20 8) → runsTo e.1 s fun t => vecOnly u t g.val x true ∧ reported u t x w false ∧
        lanesSet u t g.val win (bit w 11) d e.2.2.1 (e.2.2.2 va) ∧
        scalarSet u t g.val (bits w 36 8 - 0x80) (BitVec.ofNat 64 n)) ∧
    (∀ (c : Cvc) (z : Nat), vecFront s g.val x win q 7 1 u → cvcDecode (bits w 56 8) = some c → c.fmt.scaled = false →
      c.sr = false → c.given = false → srcField win (bits w 20 8) → scaField (bits w 28 8) → z = laneSize c.fmt →
      p % z = 0 → n = 0 ∨ p + n * z ≤ ocSize → (c.fmt ≠ .w32 → s.slotOk (bits w 44 12) x.ctx = true) →
      runsTo (.vcstore g) s fun t => vecOnly u t g.val x true ∧ t.eng.vec = u.eng.vec ∧
        (∀ i, i < n → leNat (t.ocRead g.val (p + z * i) z) = if c.fmt = .w32 then (va (act.getD i 0)).toNat else
          (convCode c false (draw (BitVec.ofNat 64 (s.stepNo x.ctx)) (bits w 44 12) i) (srcW32 (va (act.getD i 0)))).1) ∧
        ocChanged u t g.val p (n * z) ∧ reported u t x w (decide (c.fmt ≠ .w32)) ∧
        scalarSet u t g.val (bits w 28 8 - 0x80) (q.sB + BitVec.ofNat 64 (n * z))) ∧
    (∀ (f : Fmt) (z : Nat), vecFront s g.val x win q 7 3 u → bits w 56 8 = 2 ∨ bits w 56 8 = 3 → f = c2fmt (bits w 56 8) →
      vecField win d → scaField (bits w 28 8) → z = laneSize f → p % z = 0 → n = 0 ∨ p + n * z ≤ ocSize →
      (win = true → f ≠ .w32 → s.slotOk (bits w 44 12) x.ctx = true) →
      runsTo (.vxload g) s fun t => vecOnly u t g.val x true ∧
        lanesSet u t g.val win (bit w 11) d on (fun l => toW32 (srcPlain f
          (leNat (s.ocRead g.val (p + z * (act.filter fun i => decide (i < l)).length) z)))) ∧
        scalarSet u t g.val (bits w 28 8 - 0x80) (q.sB + BitVec.ofNat 64 (n * z)) ∧
        reported u t x w (win && decide (f ≠ .w32))) ∧
    (∀ at' : Nat → Nat, (∀ l, at' l = q.sA.toNat % 2 ^ 32 + 4 * (vval s g.val win (bits w 28 8) q.sB l).toNat) →
      bits w 56 8 = 0 → scaField (bits w 20 8) → srcField win (bits w 28 8) →
      (∀ l ∈ act, at' l % 4 = 0 ∧ at' l + 4 ≤ ocSize) →
      (vecFront s g.val x win q 7 4 u → vecField win d → (win = true → s.slotOk (bits w 44 12) x.ctx = true) →
        runsTo (.vgather g) s fun t => vecOnly u t g.val x false ∧ reported u t x w win ∧
          lanesSet u t g.val win (bit w 11) d on (fun l => w32At (s.ocRead g.val (at' l) 4) 0)) ∧
      (vecFront s g.val x win q 7 5 u → srcField win (bits w 36 8) → s.slotOk (bits w 44 12) x.ctx = true →
        runsTo (.vscatter g) s fun t => vecOnly u t g.val x false ∧ t.eng.vec = u.eng.vec ∧ reported u t x w true ∧
          ocChanged u t g.val 0 ocSize ∧
          (∀ l ∈ act, (∀ k ∈ act, l < k → at' k ≠ at' l) →
            w32At (t.ocRead g.val (at' l) 4) 0 = vval s g.val win (bits w 36 8) q.sC l) ∧
          (bit w 11 = false → ∀ k, (∀ l ∈ act, k < ocKey g.val (at' l) ∨ ocKey g.val (at' l) + 4 ≤ k) →
            tget 0 t.mem.oc k = tget 0 s.mem.oc k))) ∧
    (vecFront s g.val x win q 7 6 u → bits w 56 8 = 0 → vecField win d → scaField (bits w 28 8) →
      srcField win (bits w 20 8) → runsTo (.vbcast g) s fun t => vecOnly u t g.val x false ∧ reported u t x w false ∧
        lanesSet u t g.val win (bit w 11) d on (fun _ => va (q.sB.toNat % 128)))

/-- 04 R83, R93, R102–R104, R108; 07 R214. -/
def Obligations.VectorFusedRows : Prop :=
  ∀ (g : Fin 256) (x : Inst) (win : Bool) (q : VWord) (w : Nat) (c : Cvc) (a : FusedArgs) (s u : State), w = q.w.toNat →
    cvcDecode (bits w 56 8) = some c → c.fmt.scaled = false → c.given = false → bit w 11 = false → bits w 8 3 < 2 →
    scaField (bits w 20 8) → bits w 20 8 ≠ 0x9F → scaField (bits w 28 8) → scaField (bits w 12 8) →
    a = { f := if bits w 8 3 = 0 then .w32 else .kw16, src := q.sA.toNat % 2 ^ 32, dst := q.sA1.toNat % 2 ^ 32,
          len := q.sB.toNat % 2 ^ 32, t := q.sC.toNat % 2 ^ 32, g := q.sC1.setWidth 32, d := bits w 12 8 - 0x80 } →
    0 < a.len → a.len ≤ 65536 → a.src % 64 = 0 → a.src + a.len * laneSize a.f ≤ ocSize →
    ∀ e ∈ ([(.vsoftmax g, 0, .softmax), (.vlse g, 1, .lse), (.vxent g, 2, .xent)] : List (Instr × Nat × Fused)),
      (e.2.2 = .xent → scaField (bits w 36 8) ∧ bits w 36 8 ≠ 0x9F ∧ a.t < a.len) →
      (e.2.2 ≠ .lse → a.dst % 64 = 0 ∧ a.dst + a.len * laneSize c.fmt ≤ ocSize ∧ s.slotOk (bits w 44 12) x.ctx = true) →
      (vecFront s g.val x win q 8 e.2.1 u →
        (s.suppressed x.ctx = false → runsTo e.1 s fun t =>
          chunkRan (u.setVec g.val { u.vec g.val with run := some { q := q } }) t g.val x e.2.2 a c { q := q } ∧
          counted s t (F.veBusy g.val) (40 + chunkBeats e.2.2)) ∧
        (s.suppressed x.ctx = true → runsTo e.1 s fun t => vecQuiet u t g.val x false ∧ t.eng.vec = u.eng.vec)) ∧
      (∀ r : FusedRun, s.works = true → s.running g.val = some x → x.ctx < 256 → (s.vec g.val).run = some r → r.q = q →
        vOp w = e.2.1 → ocGood s g.val 0 ocSize → 1 ≤ r.pass → r.pass ≤ 3 → 128 * r.chunk < a.len →
        (s.suppressed x.ctx = false → runsTo e.1 s fun t => chunkRan s t g.val x e.2.2 a c r) ∧
        (s.suppressed x.ctx = true → runsTo e.1 s fun t => vecQuiet s t g.val x false ∧
          t.vec g.val = { s.vec g.val with run := none } ∧ ∀ h, h ≠ g.val → t.vec h = s.vec h))

/-! ### The task contract and the scheduler (06) -/

/-- 06 R164–R168, R185; 07 R202. -/
def Obligations.SubmissionRings : Prop :=
  ∀ (x : Fin 256) (s u : State) (e : List Byte) (h : Nat), s.works = true → h = s.getF (F.sqStatHead x.val) →
    (headReads s x.val e u → ∀ i ∈ [Instr.submit x, .cancel x, .headLinePoll x],
      (∀ o, fieldAt e 16 2 = h → fieldAt e 18 1 = o →
        (o = 1 → i ≠ .submit x → exec i s = .next (left s u)) ∧ (o = 2 → i ≠ .cancel x → exec i s = .next (left s u)) ∧
        (o ≠ 1 → o ≠ 2 → runsTo i s fun t => queueStopped u t x.val 2)) ∧
      (fieldAt e 16 2 ≠ h →
        ((fieldAt e 16 2 + s.sqSize x.val) % 65536 = h → exec i s = .next (left s u)) ∧
        ((fieldAt e 16 2 + s.sqSize x.val) % 65536 ≠ h → runsTo i s fun t => queueStopped u t x.val 1))) ∧
    (∀ v w : State, headReads s x.val e u → fieldAt e 16 2 = h →
      (if tget false s.sched.recDue x.val then
        ({ v with sched.recDue := tput false v.sched.recDue x.val false }).readStepRec x.val true else some v) = some w →
      (fieldAt e 18 1 = 1 → v = ({ u with sched.graphs := u.sched.graphs ++ [submitted x.val h e] }).incF
          (F.sqStatHead x.val) 1 →
        exec (.submit x) s = .next (left s (((w.setActive x.val).dropHead x.val (u.headCva x.val)).settle.watchHead x.val))) ∧
      (fieldAt e 18 1 = 2 → (∀ g ∈ u.graphsOf x.val, g.gtag ≠ fieldAt e 8 8) → v = ({ u with
          sched.graphs := u.sched.graphs ++ [cancelMissed x.val h e]
          sched.finished := u.sched.finished ++ [(x.val, h)] }).incF (F.sqStatHead x.val) 1 →
        exec (.cancel x) s = .next (left s (((w.setActive x.val).dropHead x.val (u.headCva x.val)).settle.watchHead x.val)))) ∧
    (s.consuming x.val = false ∨ s.graphRoom x.val = false →
      ∀ i ∈ [Instr.submit x, .cancel x, .headLinePoll x], exec i s = .next s) ∧
    (tget false s.sched.rewatch x.val = false → exec (.rewatchTimer x) s = .next s) ∧
    (tget false s.sched.rewatch x.val = true → exec (.rewatchTimer x) s = .next (left s
      (({ s with sched.rewatch := tput false s.sched.rewatch x.val false }).watchHead x.val))) ∧
    (∀ (w : Word64) (v : State), s.blockUp (F.sqBaseAddr x.val).off = true →
      (regOr (F.sqBaseAddr x.val).off).badField w.toNat = none →
      v = (s.spend (F.sqBaseAddr x.val).off).fieldsWrite (regOr (F.sqBaseAddr x.val).off).fields w.toNat →
      (v.getF (F.sqBaseAddr x.val) = s.getF (F.sqBaseAddr x.val) → exec (.sqBaseWrite x w) s = .next (left s v)) ∧
      (v.getF (F.sqBaseAddr x.val) ≠ s.getF (F.sqBaseAddr x.val) → exec (.sqBaseWrite x w) s =
        .next (left s ((v.setF (F.sqStatHead x.val) 0).watchHead x.val)))) ∧
    (∀ (w : BitVec 32) (v : State), s.blockUp (F.sqCfgEnable x.val).off = true →
      (regOr (F.sqCfgEnable x.val).off).badField w.toNat = none →
      v = s.fieldsWrite (regOr (F.sqCfgEnable x.val).off).fields w.toNat →
      v.getF (F.sqCfgLog2size x.val) = s.getF (F.sqCfgLog2size x.val) →
      (v.flag (F.sqCfgEnable x.val) = false → runsTo (.sqCfgWrite x w) s fun t => t = { s with regs := t.regs, err := t.err } ∧
        t.getF (F.sqStatState x.val) = 0 ∧ t.getF (F.sqStatHead x.val) = v.getF (F.sqStatHead x.val)) ∧
      (v.flag (F.sqCfgEnable x.val) = true → s.flag (F.sqCfgEnable x.val) = false → exec (.sqCfgWrite x w) s =
        .next (left s (((v.setF (F.sqStatState x.val) 1).setF (F.sqStatErr x.val) 0).watchHead x.val))))

/-- 06 R145, R159, R168–R177, R188. -/
def Obligations.GraphsTasksAndCompletions : Prop :=
  ∀ (x : Fin 256) (s : State), s.works = true →
    (∀ (sub : BitVec 16) (g : Machine.Graph) (c : Nat) (h : List Byte) (ts : List TaskS) (u : State),
      s.findGraph x.val sub.toNat = some g → g.checking = true → (checkImage x.val g.image).go s = (.ok (c, h, ts), u) →
      (c = 0 → g.cancelled = false → exec (.imageCheckDone x sub) s = .next (left s ((u.modGraph x.val sub.toNat fun g =>
        { g with hdr := h, tasks := u.withPlaces ts, checking := false }).advance x.val).settle)) ∧
      (c ≠ 0 → exec (.imageCheckDone x sub) s = .next (left s ((u.finishGraph x.val sub.toNat 2 c).settle)))) ∧
    (∀ (sub : BitVec 16), (∀ g, s.findGraph x.val sub.toNat = some g → g.checking = false) →
      exec (.imageCheckDone x sub) s = .next s) ∧
    imageHeadCodes s x.val ∧
    (∀ (u : State) (cand : List (Machine.Graph × Nat × Nat × TaskS)), u = s.advance x.val →
      cand = ((u.taskList x.val).filter fun p => p.2.2.2.st == .admitted && !p.1.cancelled && p.1.fin.isNone) →
      (u.getF (F.ctxSchedEmberQuota x.val) ≤ u.getF (F.ctxEmbersHeld x.val) ∨ 16384 ≤ u.getF F.schEmberInuse ∨ cand = [] →
        exec (.emberIssue x) s = .next (left s u)) ∧
      (∀ g k i y, u.getF (F.ctxEmbersHeld x.val) < u.getF (F.ctxSchedEmberQuota x.val) → u.getF F.schEmberInuse < 16384 →
        leastBy (fun p => taskKey p.2.2.2 p.2.1 p.2.2.1) cand = some (g, k, i, y) → runsTo (.emberIssue x) s fun t =>
          t = left s { u with regs := t.regs, sched := t.sched } ∧ t.sched = { ((u.modTask x.val g.subseq i fun y =>
            { y with st := .ready, ember := some u.sched.nextEmber }).sched) with nextEmber := u.sched.nextEmber + 1 } ∧
          counted u t (F.ctxEmbersHeld x.val) 1 ∧ counted u t F.schEmberInuse 1 ∧ counted u t F.schEmbIssue 1)) ∧
    (∀ (gr : Grant) (due : List (Machine.Graph × Nat × Nat × TaskS)), s.resident x.val = true → s.grant x.val = some gr →
      due = ((s.taskList x.val).filter fun p => p.2.2.2.ember.isSome && !p.1.cancelled && p.1.fin.isNone
        && decide (p.2.2.2.placed < p.2.2.2.instances)) →
      (due = [] → exec (.cohortPlace x) s = .next s) ∧
      (∀ p, leastBy (fun p => taskKey p.2.2.2 (p.2.2.2.ember.getD 0) 0)
          (if due.any fun p => !p.2.2.2.fill then due.filter fun p => !p.2.2.2.fill else due) = some p →
        exec (.cohortPlace x) s = .next (left s ((s.placeTask x.val gr p.1 p.2.2.1 p.2.2.2).getD s)))) ∧
    (∀ (gr : Grant) (g : Machine.Graph) (i : Nat) (y : TaskS) (code : Nat × Nat) (sh k a c : Nat) (rest : List Nat),
      y.lcohort = 0 → s.freeCores gr k = c :: rest → ∀ t, t = s.placeAt x.val gr g i y code sh k a →
      startsAs (t.core c)
        { ctx := x.val, subseq := g.subseq, task := i, index := y.placed, count := y.instances, rank := 0, size := 1,
          args := y.args, shared := if sh = 0 then 0 else (k % 8) * 2 ^ 25 + a, sharedLen := sh, step := s.stepNo x.val,
          gtag := g.gtag, code := code.1, codeLen := code.2 } ∧
      ∀ d, d ≠ c → t.core d = s.core d) ∧
    ((s.sched.finished.find? fun p => p.1 = x.val) = none → exec (.completionEntryWrite x) s = .next s) ∧
    (∀ (sub tail size d : Nat) (g : Machine.Graph) (c : Completion), (s.sched.finished.find? fun p => p.1 = x.val) =
      some (x.val, sub) → s.findGraph x.val sub = some g → g.fin = some c → tail = s.getF (F.cqPtrTail x.val) →
      size = s.cqSize x.val → d = (tail + 65536 - s.getF (F.cqPtrHead x.val)) % 65536 →
      (d = size → exec (.completionEntryWrite x) s = .next s) ∧
      (∀ u v, d ≠ size → (cvaWrite (dieUnit 0) x.val (64 * s.getF (F.cqBaseAddr x.val) + 32 * (tail % size))
          (completionBytes s x.val g c)).go s = (.ok (), u) → v = u.incF (F.cqPtrTail x.val) 1 →
        exec (.completionEntryWrite x) s = .next (left s ((if u.flag (F.cqCfgBell x.val) = true then
          v.bell bellCompletion x.val 0 (v.getF (F.cqPtrTail x.val)) else v).dropGraph x.val sub))))

/-- 06 R170, R173, R180, R182, R184, R186; 17 R437. -/
def Obligations.SemaphoresAndSchedulerRegisters : Prop :=
  ∀ (s : State), s.works = true →
    (∀ n : Fin 4096,
      (s.semReqs n.val = [] → exec (.semaphoreGrant n) s = .next s) ∧
      (∀ r rest u, s.semReqs n.val = r :: rest →
        (s.getF (F.semCount n.val) < r.v → exec (.semaphoreGrant n) s = .next s) ∧
        (r.v ≤ s.getF (F.semCount n.val) →
          u = (s.setF (F.semCount n.val) (s.getF (F.semCount n.val) - r.v)).setSemReqs n.val rest →
          (∀ y c e, r.who = .core y c → (s.core c).inst = some e → e.ctx = y →
            exec (.semaphoreGrant n) s = .next (left s (u.setCore c { s.core c with wait := .none }))) ∧
          (∀ y sub i, r.who = .task y sub i → exec (.semaphoreGrant n) s = .next (left s
            ((u.modTask y sub i fun t => { t with acquired := true }).admitTask y sub i))) ∧
          ((∀ y c, r.who ≠ .core y c) → (∀ y sub i, r.who ≠ .task y sub i) → exec (.semaphoreGrant n) s =
            .next (left s { u with sched.granted := s.sched.granted ++ [r.who] })))) ∧
      (∀ (w : Word64) (v : State), s.blockUp (F.semCount n.val).off = true →
        (regOr (F.semCount n.val).off).badField w.toNat = none →
        v = (s.spend (F.semCount n.val).off).fieldsWrite (regOr (F.semCount n.val).off).fields w.toNat →
        (v.peerAlien n.val = false → exec (.semWrite n w) s = .next (left s v)) ∧
        (v.peerAlien n.val = true → runsTo (.semWrite n w) s fun t => t = { s with regs := t.regs, err := t.err } ∧
          t.getF (F.semCount n.val) = s.getF (F.semCount n.val) ∧ t.getF (F.semPeer n.val) = s.getF (F.semPeer n.val) ∧
          ∃ r, t.err.recQ = s.err.recQ ++ [r] ∧ r.kind = kRejected))) ∧
    (∀ w : Word64, s.blockUp F.schProbeCtx.off = true → (regOr F.schProbeCtx.off).badField w.toNat = none →
      (∀ g y, s.findGraph (F.schProbeCtx.of w.toNat) (F.schProbeSubseq.of w.toNat) = some g →
        g.tasks[F.schProbeTask.of w.toNat]? = some y → runsTo (.schProbe w) s fun t => t = { s with regs := t.regs } ∧
          t.flag F.schProbeResValid = true ∧ t.getF F.schProbeResIdone = y.idone % 2 ^ F.schProbeResIdone.w ∧
          t.getF F.schProbeResState = (match y.st with
            | .pending => 0 | .semwait => 1 | .admitted => 2 | .ready => 3 | .running => 4 | .done => 5
            | .cancelled => 6 | .faulted => 7)) ∧
      (s.findGraph (F.schProbeCtx.of w.toNat) (F.schProbeSubseq.of w.toNat) = none → runsTo (.schProbe w) s fun t =>
        t = { s with regs := t.regs } ∧ t.flag F.schProbeResValid = false)) ∧
    ∀ x : Fin 256,
      (∀ (w : BitVec 32) (h tail : Nat), s.blockUp (F.cqPtrHead x.val).off = true →
        (regOr (F.cqPtrHead x.val).off).badField w.toNat = none → h = (F.cqPtrHead x.val).of w.toNat →
        tail = s.getF (F.cqPtrTail x.val) + 65536 →
        ((tail - h) % 65536 ≤ (tail - s.getF (F.cqPtrHead x.val)) % 65536 →
          exec (.cqPtrWrite x w) s = .next (s.setF (F.cqPtrHead x.val) h)) ∧
        ((tail - s.getF (F.cqPtrHead x.val)) % 65536 < (tail - h) % 65536 → runsTo (.cqPtrWrite x w) s fun t =>
          t = { s with regs := t.regs, err := t.err } ∧ writeRejected s t (regOr (F.cqPtrHead x.val).off) ⟨F.cqPtrHead x.val, .rw, .init, .any⟩)) ∧
      (∀ (w : Word64) (y : Nat) (v : State) (f : Fld), ∀ k ∈ [CqReg.base, .cfg],
        f = (match k with | .base => F.cqBaseAddr x.val | .cfg => F.cqCfgLog2size x.val) → s.blockUp f.off = true →
        y = (match k with | .base => w.toNat | .cfg => w.toNat % 2 ^ 32) → (regOr f.off).badField y = none →
        v = (s.spend f.off).fieldsWrite (regOr f.off).fields y →
        (v.getF f = s.getF f → exec (.cqConfigWrite x k w) s = .next (left s v)) ∧
        (v.getF f ≠ s.getF f → exec (.cqConfigWrite x k w) s = .next (left s
          ((v.setF (F.cqPtrTail x.val) 0).setF (F.cqPtrHead x.val) 0))))

/-! ### Formats (02) -/

/-- 02 R29. -/
def Obligations.Kq4CodesHaveTheirValues : Prop :=
  srcPlain .kq4 8 = .nan ∧ poisonCode .kq4 = 8 ∧ ∀ c, c < 16 → c ≠ 8 → ∃ n d, 0 < d ∧
    srcPlain .kq4 c = .fin (decide (8 ≤ c)) n d ∧ 4 * n = d * ([0, 1, 2, 3, 4, 6, 8, 12] : List Nat).getD (c % 8) 0

/-- 02 R30; values in units of 2^-10. -/
def Obligations.Kq8CodesHaveTheirValues : Prop :=
  srcPlain .kq8 0x80 = .nan ∧ poisonCode .kq8 = 0x80 ∧ ∀ c e m, c < 256 → c ≠ 0x80 → e = c / 8 % 16 → m = c % 8 →
    ∃ n d, 0 < d ∧ srcPlain .kq8 c = .fin (decide (128 ≤ c)) n d ∧
      1024 * n = d * (if e = 0 then m else (8 + m) * 2 ^ (e - 1))

/-! ### Tally and the close of a step (07) -/

/-- 07 R197, R199, R200, R203, R204, R211, R213. -/
def Obligations.TallyCountsAndDoom : Prop :=
  (∀ (i : Nat) (r : Report) (l : Live) (s : State), s.works = true → s.train.reports[i]? = some r →
    l = s.liveOf r.slot r.step →
    (r.step < s.openStep r.ctx → runsTo (.tallyReport i) s fun t => t = { s with train := t.train } ∧
      t.train.live = s.train.live ∧ t.train.reports = ldrop s.train.reports i ∧
      t.stepRec r.ctx = { s.stepRec r.ctx with late := (s.stepRec r.ctx).late + 1 }) ∧
    (s.openStep r.ctx ≤ r.step → runsTo (.tallyReport i) s fun t => t = { s with regs := t.regs, train := t.train } ∧
      t.train.reports = ldrop s.train.reports i ∧
      t.liveOf r.slot r.step = ⟨r.slot, r.step, l.zero + r.zero, l.sat + r.sat, l.nonfin + r.nonfin, max l.max r.max⟩ ∧
      (∀ n k, n ≠ r.slot ∨ k ≠ r.step → t.liveOf n k = s.liveOf n k) ∧
      (r.nonfin = 0 → t.stepRec r.ctx = s.stepRec r.ctx) ∧
      (r.nonfin ≠ 0 → r.slot < 4096 → s.flag (F.tallyCtlWatch r.slot) = true →
        ((s.doomOf r.ctx r.step).normed = false → (t.doomOf r.ctx r.step).doomed = true ∧ (t.doomOf r.ctx r.step).slot =
          if (s.doomOf r.ctx r.step).slot = 0xFFFF then r.slot else (s.doomOf r.ctx r.step).slot) ∧
        ((s.doomOf r.ctx r.step).normed = true →
          t.doomOf r.ctx r.step = { s.doomOf r.ctx r.step with latewatch := true })))) ∧
  (∀ (n : Fin 4096) (v : BitVec 32) (s u : State), s.works = true →
    u = s.regWrite (regOr (F.tallyCtlOwner n.val).off) v.toNat →
    (u.getF (F.tallyCtlOwner n.val) = s.getF (F.tallyCtlOwner n.val) →
      u.getF (F.tallyCtlValid n.val) = s.getF (F.tallyCtlValid n.val) → exec (.tallyCtlWrite n v) s = .next (left s u)) ∧
    (u.getF (F.tallyCtlOwner n.val) ≠ s.getF (F.tallyCtlOwner n.val) ∨
        u.getF (F.tallyCtlValid n.val) ≠ s.getF (F.tallyCtlValid n.val) →
      runsTo (.tallyCtlWrite n v) s fun t => (∀ l ∈ t.train.live, l.slot ≠ n.val) ∧
        t.getF (F.tallyCtlOwner n.val) = u.getF (F.tallyCtlOwner n.val) ∧
        t.getF (F.tallyZero n.val) = 0 ∧ t.getF (F.tallySat n.val) = 0 ∧ t.getF (F.tallyNonfin n.val) = 0 ∧
        t.getF (F.tallyMaxMaxmag n.val) = 0 ∧ t.flag (F.tallyCtlLivenf n.val) = false ∧
        t.flag (F.tallyCtlOvf n.val) = false)) ∧
  (∀ (x k n : Nat) (l : Live) (s : State), n < 4096 → l = s.liveOf n k → l.max < 2 ^ 32 →
    (s.closeSlot x k n).getF (F.tallyZero n) = min l.zero (2 ^ 48 - 1) ∧
    (s.closeSlot x k n).getF (F.tallySat n) = min l.sat (2 ^ 48 - 1) ∧
    (s.closeSlot x k n).getF (F.tallyNonfin n) = min l.nonfin (2 ^ 48 - 1) ∧
    (s.closeSlot x k n).getF (F.tallyMaxMaxmag n) = l.max ∧
    ∀ m ∈ (s.closeSlot x k n).train.live, m.slot ≠ n ∨ m.step ≠ k) ∧
  (∀ (r : StepRec) (a : Bool), (r.advance a).step = r.step + 1 ∧
    (r.advance a).applied + (r.advance a).skipped = r.applied + r.skipped + 1 ∧
    (r.advance a).applied = r.applied + (if a then 1 else 0) ∧
    (r.advance a).cursor = r.cursor + (if a = false ∧ bit r.flags 1 = true then 0 else 1) ∧
    (bit r.flags 2 = false → (r.advance a).lossScale = r.lossScale ∧ (r.advance a).clean = r.clean) ∧
    (bit r.flags 2 = true → r.checkDue = false →
      (a = false → (r.advance a).lossScale = lsUp (w32Mul r.lossScale 0x3F000000#32) r.lsMin ∧ (r.advance a).clean = 0) ∧
      (a = true → r.clean + 1 < (if r.growInt = 0 then 2000 else r.growInt) →
        (r.advance a).lossScale = r.lossScale ∧ (r.advance a).clean = r.clean + 1) ∧
      (a = true → (if r.growInt = 0 then 2000 else r.growInt) ≤ r.clean + 1 →
        (r.advance a).lossScale = lsDown (w32Mul r.lossScale 0x40000000#32) r.lsMax ∧ (r.advance a).clean = 0)))

/-! ### The Smithy (08) -/

/-- 07 R204; 08 R221, R223, R224, R226, R227, R243. -/
def Obligations.UpdateDecidesAndCloses : Prop :=
  ∀ (x : Fin 256) (s : State), s.works = true →
    (∀ (g : Grant) (b : List Byte) (u v r : State) (w : Upd), s.grant x.val = some g → s.alive x.val = true →
      ((s.upd x.val).isSome = true → exec (.updateRequest x) s = .next s) ∧
      (s.upd x.val = none → (cvaRead (dieUnit 0) x.val g.udesc 128).go s = (.ok b, u) →
        r = (u.unitJoin (fieldAt b 0 2) (.update x.val)).settle →
        (r.resident x.val = false ∨ r.unitTake (.update x.val) = none → exec (.updateRequest x) s = .next (left s r)) ∧
        (∀ z, r.resident x.val = true → r.unitTake (.update x.val) = some z →
          (checkUpdate x.val g.udesc b).go z = (.ok w, v) →
          exec (.updateRequest x) s = .next (left s (v.setUpd x.val (some w)))))) ∧
    (∀ (u : Upd) (k : Nat) (q l : W32) (n : W32), s.upd x.val = some u → (s.col1 x.val).q = some (k, q) → u.phase = .waitQ →
      s.resident x.val = true → l = (s.stepRec x.val).lossScale → n = w32Mul (w32Sqrt q) (w32Div w32One l) →
      (k ≠ u.step → exec (.skipDecision x) s = .next s) ∧
      (k = u.step → w32IsFinite q = false ∨ (w32IsZero u.absurd = false ∧ w32Lt u.absurd n = true) →
        exec (.skipDecision x) s = .next (left s (s.setUpd x.val (some (skippedAs u q l n))))) ∧
      (∀ (w : Upd) (v : State), k = u.step → w32IsFinite q = true → w32IsZero u.absurd = true ∨ w32Lt u.absurd n = false →
        w = u.decide q l (s.stepRec x.val).applied →
        (do trustPass x.val w; w.shards.forM fun h => startShard x.val w.step h).go (s.setUpd x.val (some w)) = (.ok (), v) →
        w.phase = .applied ∧ w.outcome = 1 ∧ w.n = n ∧
          w.c = (if w32IsZero u.clip = true ∨ w32Lt u.clip n = false then w32One else w32Div u.clip n) ∧
          exec (.skipDecision x) s = .next (left s v))) ∧
    (∀ (u : Upd) (v : State) (ok : Bool), s.upd x.val = some u → s.resident x.val = true → u.slots = [] →
      (∀ h ∈ u.shards, s.unacked x.val (s.shTargets 0 x.val h h.progress 64) = false) →
      ok = decide (u.outcome = 1) → u.phase = (if ok then .applied else .skipped) →
      (commitRun x.val u ok ((s.stepRec x.val).advance ok).applied).go s = (.ok (), v) →
      runsTo (.stepCommitRecord x) s fun t => t.mem = v.mem ∧ t.stepRec x.val = (s.stepRec x.val).advance ok ∧
        t.upd x.val = some { u with phase := .drain } ∧ (t.col1 x.val).q = none ∧ (ok = true →
          t.smithy.groups = u.groups.foldl (fun m e => tput none m e.1 e.2) v.smithy.groups) ∧
        (u.bell = true → v.fatal = false → v.puell.bellQ.length < 1024 →
          t.puell.bellQ = v.puell.bellQ ++ [(v.puell.bseq, ⟨bellStep, x.val, u.outcome, u.step⟩)])) ∧
    (∀ (u : Upd) (g : Grant) (v w : State) (ok : Bool), s.upd x.val = some u → s.grant x.val = some g →
      (s.draining x.val u.step = true → exec (.closeDrainEnd x) s = .next s) ∧
      (u.phase = .drain → s.draining x.val u.step = false → ok = decide (u.outcome = 1) →
        (s.stepRec x.val).checkDue = false → (s.stepRec x.val).nscale ≤ 4096 →
        (if ok then scaleList x.val (s.stepRec x.val) else pure ()).go (s.closeSlots x.val u.step) = (.ok (), v) →
        (writeRecord x.val u.step u.outcome g.steprec).go v = (.ok (), w) → w.flag (F.resCtlEnable x.val) = false →
        runsTo (.closeDrainEnd x) s fun t => t.mem = w.mem ∧ t.train = w.train ∧
          t.upd x.val = some { u with phase := .recorded, after := 0 } ∧
          (ok = true → t.getF (F.colLastappStep x.val) = u.step % 2 ^ (F.colLastappStep x.val).w))) ∧
    (∀ u : Upd, s.upd x.val = some u → u.phase = .recorded → u.after = 0 → s.semUsable u.donesem x.val = true →
      s.getF (F.semCount u.donesem) + 1 < 2 ^ 32 → (∀ e ∈ s.ctxs.ctx, e.2.donor = 0) →
      exec (.donesemSignal x) s = .next (left s (((s.setUpd x.val none).setF (F.semCount u.donesem)
        (s.getF (F.semCount u.donesem) + 1)).settle)))

/-- 08 R231, R238–R242, R245, R247. -/
def Obligations.ChunkTransactionsAndExport : Prop :=
  (∀ (x : Fin 256) (d sl : Fin 4) (s : State) (u : Upd), s.works = true → s.upd x.val = some u →
    (∀ k w r v, chunkLook s x.val d.val u k w r v →
      (r = .ok none ∨ ((∃ c, r = .ok (some c)) ∧ s.smyTurn d.val ≠ some x.val) → exec (.chunkStart x d) s = .next s) ∧
      (∀ c z, r = .ok (some c) → s.smyTurn d.val = some x.val → (startChunk d.val x.val k w c).go
          (({ v with smithy.turn := tput 0 v.smithy.turn d.val (x.val + 1) }).setUpd x.val (some w)) = (.ok (), z) →
        exec (.chunkStart x d) s = .next (left s z) ∧ (z.slotChunk x.val d.val k).isSome = true)) ∧
    ((∀ i, i < 4 → (tget none u.slots (retKey d.val i)).isSome = true) → exec (.chunkStart x d) s = .next s) ∧
    (∀ c : ChunkS, s.slotChunk x.val d.val sl.val = some (u, c) →
      (∀ w t, c.opened = false → u.before d.val c = false → s.resident x.val = true →
        (do markOpen d.val x.val (u.shard c.shard) (← winPlace d.val x.val (u.shard c.shard) c.chunk) : M Unit).go s =
          (.ok (), w) → t = w.setUpd x.val (some (u.setSlot (retKey d.val sl.val) (some { c with opened := true, todo := 1 }))) →
        exec (.chunkOpen x d sl) s = .next (left s (if t.markOut x.val d.val u c then t else
          t.chunkRow5 x.val d.val sl.val))) ∧
      (c.opened = true ∨ u.before d.val c = true → exec (.chunkOpen x d sl) s = .next s) ∧
      (∀ w, (writeChunk d.val x.val (u.shard c.shard) (u.grp c.shard) c).go s = (.ok (), w) → w.upd x.val = some u →
        (s.chunkRow5 x.val d.val sl.val).mem = w.mem ∧ ∃ y,
          (s.chunkRow5 x.val d.val sl.val).slotChunk x.val d.val sl.val = some (y, { c with todo := 0 })) ∧
      (∀ z, c.opened = true → c.todo = 0 → s.unacked x.val (s.chunkPlaces d.val x.val u c) = false →
        s.chunkRow7 x.val d.val sl.val u c = (none, z) → exec (.chunkDone x d sl) s = .next (left s
          (if (z.openDies x.val).contains d.val then z else z.releaseKept x.val d.val))) ∧
      (c.opened = false ∨ c.todo = 2 ∨ (c.todo = 1 ∧ s.markOut x.val d.val u c = true) ∨
        (c.todo = 0 ∧ s.unacked x.val (s.chunkPlaces d.val x.val u c) = true) → exec (.chunkDone x d sl) s = .next s) ∧
      (∀ v t z, c.opened = true → c.todo = 2 → (recompute x.val d.val sl.val u c).go s = (.ok (), v) →
        t = v.chunkRow5 x.val d.val sl.val → (∃ y k, t.slotChunk x.val d.val sl.val = some (y, k) ∧ k.todo ≠ 2) →
        (countRedo x.val d.val (u.shard c.shard)).go t = (.ok (), z) → exec (.chunkRedo x d sl) s = .next (left s z)))) ∧
  (∀ (x : Fin 256) (d sl : Fin 4) (s : State), s.upd x.val = none →
    ∀ i ∈ [Instr.chunkStart x d, .chunkOpen x d sl, .chunkDone x d sl, .chunkRedo x d sl], exec i s = .next s) ∧
  (∀ (w : Word64) (s u : State), s.works = true → s.blockUp F.smyExpCtlCtx.off = true →
    (regOr F.smyExpCtlCtx.off).badField w.toNat = none →
    u = (s.spend F.smyExpCtlCtx.off).fieldsWrite (regOr F.smyExpCtlCtx.off).fields w.toNat →
    (bit w.toNat 8 = false → exec (.smyExport w) s = .next (left s u)) ∧
    (bit w.toNat 8 = true → s.flag F.smyExpStDone = false → runsTo (.smyExport w) s fun t =>
      t = { s with regs := t.regs, err := t.err } ∧ ∃ r, t.err.recQ = s.err.recQ ++ [r] ∧ r.kind = kRejected) ∧
    (bit w.toNat 8 = true → s.flag F.smyExpStDone = true → runsTo (.smyExport w) s fun t =>
      t = left s { u with regs := t.regs, smithy := t.smithy } ∧ t.flag F.smyExpStDone = false ∧
      t.smithy.exp = some ⟨u.getF F.smyExpCtlCtx, u.getF F.smyExpShardCva, u.getF F.smyExpDstCva⟩)) ∧
  (∀ s : State, s.smithy.exp = none → exec .exportDone s = .next s) ∧
  (∀ (s v : State) (e : Export) (c : Nat), s.works = true → s.smithy.exp = some e → (exportRun e).go s = (.ok c, v) →
    runsTo .exportDone s fun t => t = left s { v with regs := t.regs, smithy := t.smithy } ∧ t.smithy.exp = none ∧
      t.flag F.smyExpStDone = true ∧ t.getF F.smyExpStResult = c % 2 ^ F.smyExpStResult.w)

/-! ### Stage queues (09) and collectives (10) -/

/-- 09 R258–R266, R269; log entry 59. -/
def Obligations.StageQueuesMoveSlotsAndCredits : Prop :=
  ∀ (n : Fin 256) (s : State), s.works = true →
    (∀ i ∈ ([(.queueSend n, 0), (.queueFree n, 1)] : List (Instr × Nat)), queueWaits s n.val i.2 →
      exec i.1 s = .next (left s (s.queueJoin n.val))) ∧
    (∀ (u : State) (seq q : Nat), queueTurn s n.val 0 u → seq = u.getF (F.stqIssue n.val) →
      q = u.getF (F.stqPeerPeerq n.val) →
      (∀ b v w, u.qLink n.val = 15 → u.qValid q 1 = true →
        (cvaRead (dieUnit (u.qDie n.val)) ((s.queueJoin n.val).qOwner n.val) (u.qSlot n.val seq) (u.qBytes n.val)).go u =
          (.ok b, v) →
        ((v.incF (F.stqIssue n.val) 1).queueFill q seq b = .over w → exec (.queueSend n) s = .next (left s w)) ∧
        ((v.incF (F.stqIssue n.val) 1).queueFill q seq b = .wait w →
          exec (.queueSend n) s = .next (left s { s.queueJoin n.val with res := w.res }))) ∧
      (∀ m k, u.qLink n.val ≠ 15 → u.queuePath n.val = some (m, k) → exec (.queueSend n) s = .next (left s
        ((u.incF (F.stqIssue n.val) 1).rmtMessage k
          { owner := .queue n.val seq
            opc := opWrite
            cxh := some (queueCxh m q 0x10 seq)
            src := some (u.qSlot n.val seq)
            len := u.qBytes n.val }))) ∧
      (u.qLink n.val ≠ 15 → u.queuePath n.val = none → exec (.queueSend n) s = .next (left s (u.queueFault n.val)))) ∧
    (∀ (u : State) (c q : Nat), queueTurn s n.val 1 u → c = u.getF (F.stqReturn n.val) + 1 →
      q = u.getF (F.stqPeerPeerq n.val) →
      (u.qLink n.val = 15 → u.qValid q 0 = true →
        exec (.queueFree n) s = .next (left s ((u.incF (F.stqReturn n.val) 1).queueCredit q c))) ∧
      (∀ m k, u.qLink n.val ≠ 15 → u.queuePath n.val = some (m, k) → exec (.queueFree n) s = .next (left s
        ((u.incF (F.stqReturn n.val) 1).rmtMessage k
          { owner := .credit n.val
            opc := opWrite
            cxh := some (queueCxh m q 0x11 c) }))) ∧
      (u.qLink n.val ≠ 15 → u.queuePath n.val = none → exec (.queueFree n) s = .next (left s (u.queueFault n.val)))) ∧
    (∀ (l : Fin 16) (seq : Nat) (b : List Byte), ∀ i ∈ ([(.queueTransferReceive n l seq b, 1),
        (.queueCreditReceive n l seq, 0)] : List (Instr × Nat)),
      (¬queueHears s n.val i.2 l.val → exec i.1 s = .next (left s s)) ∧
      (queueHears s n.val i.2 l.val →
        (if i.2 = 1 then seq ≠ s.getF (F.stqIssue n.val) ∨ b.length ≠ s.qBytes n.val
          else seq ≠ s.getF (F.stqReturn n.val) + 1) → exec i.1 s = .next (left s (s.queueFault n.val)))) ∧
    (∀ (l : Fin 16) (seq : Nat) (b : List Byte) (u : State), queueHears s n.val 1 l.val → seq = s.getF (F.stqIssue n.val) →
      b.length = s.qBytes n.val →
      (cvaWrite (dieUnit (s.qDie n.val)) (s.qOwner n.val) (s.qSlot n.val seq) b).go s = (.ok (), u) →
      signalFits u (u.getF (F.stqCfgWsem n.val)) →
      exec (.queueTransferReceive n l seq b) s = .next (left s (queueMoved u n.val (F.stqIssue n.val)))) ∧
    (∀ (l : Fin 16) (c : Nat), queueHears s n.val 0 l.val → c = s.getF (F.stqReturn n.val) + 1 →
      signalFits s (s.getF (F.stqCfgWsem n.val)) →
      exec (.queueCreditReceive n l c) s = .next (left s (queueMoved s n.val (F.stqReturn n.val)))) ∧
    (∀ (v : Word64) (a u : State), a = s.spend (F.stqCfgValid n.val).off → s.blockUp (F.stqCfgValid n.val).off = true →
      (regOr (F.stqCfgValid n.val).off).badField v.toNat = none → u = configured a n.val v.toNat →
      (bit v.toNat 0 = false → exec (.stqCfgWrite n v) s = .next (left s (quitted a u n.val))) ∧
      (bit v.toNat 0 = true → (queueKeeps a u n.val → exec (.stqCfgWrite n v) s = .next (left s u)) ∧
        (¬queueKeeps a u n.val → u.queueFit n.val = false → exec (.stqCfgWrite n v) s =
          .next (left s ((if a.flag (F.stqCfgValid n.val) then a else u).rejected (F.stqCfgValid n.val)))) ∧
        (¬queueKeeps a u n.val → u.queueFit n.val = true →
          exec (.stqCfgWrite n v) s = .next (left s (if sameEnd a u n.val then u else credited a u n.val)))))

/-- 10 R273, R274, R276–R278, R284, R289–R291; log entry 30. -/
def Obligations.CollectivesRunInOrder : Prop :=
  ∀ (x : Fin 256) (s : State), s.works = true →
    ((¬∃ t, colTurn s x.val t) → exec (.collectiveFetch x) s = .next (left s (s.colJoin x.val).settle)) ∧
    (∀ (t v : State) (a : Nat) (b : List Byte), colTurn s x.val t →
      a = 64 * t.getF (F.colRingAddr x.val) + 64 * (t.getF (F.colHeadHead x.val) % 2 ^ t.getF (F.colCtlLog2size x.val)) →
      (cvaRead (dieUnit 0) x.val a 64).go (t.incF (F.colHeadHead x.val) 1) = (.ok b, v) →
      ∃ c, entryCommand c (t.getF (F.colHeadHead x.val)) a b ∧
        exec (.collectiveFetch x) s = .next (left s (colWith v x.val ((v.col1 x.val).cmds ++ [c])))) ∧
    (∀ c, (s.col1 x.val).cmds.find? (fun d => !d.started) = some c → (c.op = 0 ∨ 6 < c.op) → s.preempted x.val = false →
      s.colMayStart x.val c = true → s.colNext x.val = s.ctxFault x.val 0 uColl kInvalid 0 c.addr) ∧
    (∀ (tag : BitVec 32) (u : State), u = s.colNext x.val → ∀ e ∈ ([(.rscat x tag, 1), (.agath x tag, 2),
        (.norm x tag, 3), (.ared x tag, 4), (.dxch x tag, 5), (.mswap x tag, 6)] : List (Instr × Nat)),
      ((u.col1 x.val).cmds.find? (fun c => c.ctag = tag.toNat ∧ c.op = e.2) = none → exec e.1 s = .next (left s u)) ∧
      (∀ c : ColCmd, (u.col1 x.val).cmds.find? (fun c => c.ctag = tag.toNat ∧ c.op = e.2) = some c →
        u.colCmd x.val c.num = some c →
        (u.alive x.val = false ∨ u.preempted x.val = true ∨ (c.started || u.colMayStart x.val c) = false →
          exec e.1 s = .next (left s u)) ∧
        (∀ (done : Bool) (w : State), u.alive x.val = true → u.preempted x.val = false →
          (c.started || u.colMayStart x.val c) = true → (colStep x.val c).go u = (.ok done, w) →
          exec e.1 s = .next (left s (if done then w.colDone x.val c else w))))) ∧
    (∀ (c : ColCmd) (u : State), c.started = true → s.colCmd x.val c.num = some c → c.aborting = false →
      s.aborts x.val c = false → (colStep x.val c).go s = (.ok true, u) →
      (c.op = 3 → ∃ q, (u.col1 x.val).q = some (c.step, q)) ∧
      (c.op = 6 → (u.getF (F.colCtlRslot x.val) = c.src % 8 ∧ u.flag (F.colCtlRvalid x.val) = true) ∨
        (u.getF (F.colCtlPslot x.val) = c.src % 8 ∧ u.flag (F.colCtlPvalid x.val) = true))) ∧
    (∀ c : ColCmd, s.colCmd x.val c.num = some c → c.aborting = false → c.sigsem = 0xFFFF → s.colDone x.val c =
      colWith (s.incF F.colCmds 1) x.val ((s.col1 x.val).cmds.filter fun d => d.num != c.num)) ∧
    (∀ (i gen : BitVec 32) (p : Fin 64),
      (s.alive x.val = false ∨ s.preempted x.val = true ∨ s.mapNamed x.val i.toNat = false →
        exec (.mapArrival x i gen p) s = .next (left s s)) ∧
      (s.alive x.val = true → s.preempted x.val = false → s.mapNamed x.val i.toNat = true → ∀ u, u = s.setCol x.val
          { s.col1 x.val with arrivals := (s.col1 x.val).arrivals ++ [⟨i.toNat, gen.toNat, p.val⟩] } →
        exec (.mapArrival x i gen p) s = .next (left s (
          match (s.col1 x.val).cmds.find? fun c => c.op = 6 ∧ c.started with
          | some c => u.colRun x.val c.num
          | none => u)))) ∧
    (∀ m : ColMsg, runsTo (.collectivePacket x m) s (colAnswered s x.val m)) ∧
    (∀ tag : BitVec 32, exec (.collectiveStall x tag) s = .next (left s (
      match (s.col1 x.val).cmds.find? fun c => c.ctag = tag.toNat ∧ c.started with
      | some c => if s.resident x.val then
          s.ctxFault x.val 0 uColl kTimeout 0 (tag.toNat + s.colAwaits x.val c * 2 ^ 32) else s
      | none => s)))

/-! ### The remote memory transport (11) -/

/-- 11 R296, R300, R301, R304, R305, R307, R308, R316, R320, R323, R324. -/
def Obligations.RmtPacketsInOrderOfChecks : Prop :=
  ∀ (d : Fin 4) (p q : Packet) (s u v : State) (k : Nat), k = p.dcn.toNat →
    (∀ i ∈ rmtPackets d p, s.works = true →
      (s.readyDie d.val rdRmt = false → exec i.1 s = .next s) ∧
      (s.readyDie d.val rdRmt = true → u = s.incF (F.rmtCtr1 d.val) 1 →
        (pktIpOk p = false → exec i.1 s = .next (left s (u.incF (F.rmtCtr12 d.val) 1))) ∧
        (pktIpOk p = true → p.crc ≠ crc32c (pktBytes p) → exec i.1 s = .next (left s (u.incF (F.rmtCtr10 d.val) 1))) ∧
        (pktIpOk p = true → p.crc = crc32c (pktBytes p) →
          (pktForm p = false → exec i.1 s = .next (left s (u.incF (F.rmtCtr12 d.val) 1))) ∧
          (pktForm p = true → i.2 = false → exec i.1 s = .next s) ∧
          (pktForm p = true → i.2 = true → q = s.mark d.val p → v = u.incF (F.rmtCtr14 d.val) (ofBool q.ce) →
            (2 ^ 18 ≤ k ∨ slotDie k ≠ d.val → exec i.1 s = .next (left s (v.incF (F.rmtCtr11 d.val) 1))) ∧
            (k < 2 ^ 18 → slotDie k = d.val → (s.connCache d.val).contains k = false →
              (256 ≤ (tget [] s.rmt.waiting d.val).length →
                exec i.1 s = .next (left s (v.incF (F.rmtCtr13 d.val) 1))) ∧
              ((tget [] s.rmt.waiting d.val).length < 256 → runsTo i.1 s fun t =>
                t = left s { v with rmt.waiting := t.rmt.waiting } ∧
                tget [] t.rmt.waiting d.val = tget [] s.rmt.waiting d.val ++ [q])))))) ∧
    (∀ i ∈ rmtPackets d p, i.2 = true → ¬ (opOpen ≤ p.opc.toNat) → rmtWhole s d.val p q u →
      ((u.slot k).st ≠ .free → payloadOk (u.slot k) q = false →
        exec i.1 s = .next (left s (u.incF (F.rmtCtr12 d.val) 1))) ∧
      (payloadOk (u.slot k) q = true → (u.slot k).traffic q = false →
        exec i.1 s = .next (left s (u.incF (F.rmtCtr11 d.val) 1)))) ∧
    (∀ i ∈ rmtRequests d p, i.2 = true → rmtPasses s d.val p q u → (∀ w ∈ u.keyWaits d.val, w.dcn ≠ p.dcn) →
      (0 < psnDist u p → psnDist u p < 2 ^ 31 →
        ((u.slot k).busy = true ∨ (u.slot k).gap = true → exec i.1 s = .next (left s u)) ∧
        (∀ t, (u.slot k).busy = false → (u.slot k).gap = false → t = (u.incF (F.rmtCtr6 d.val) 1).sendNak k 1 q.ce →
          exec i.1 s = .next (left s (t.setSlot k { t.slot k with gap := true })))) ∧
      (2 ^ 31 ≤ psnDist u p →
        (isWrite p.opc.toNat = true ∨ (p.opc.toNat = opAtomic ∧ ∀ e ∈ (u.slot k).alog, e.1 ≠ p.psn.toNat) →
          exec i.1 s = .next (left s ((u.incF (F.rmtCtr5 d.val) 1).sendAck k q.ce))) ∧
        (∀ old, p.opc.toNat = opAtomic → (u.slot k).alog.find? (fun e => e.1 = p.psn.toNat) = some (p.psn.toNat, old) →
          exec i.1 s = .next (left s ((u.incF (F.rmtCtr5 d.val) 1).sendAtomic k p.psn.toNat old))) ∧
        (∀ h c bs w, p.opc.toNat = opReadReq → p.axh = some h → u.keyView k opReadReq 0 h = .ok c →
          (cvaRead (dieUnit d.val) (u.slot k).conn.owner (fieldAt c.bytes 0 8 + h.offset.toNat) h.length.toNat).go
            (u.incF (F.rmtCtr5 d.val) 1) = (.ok bs, w) →
          exec i.1 s = .next (left s (w.sendReads k p.psn.toNat bs)))) ∧
      (∀ b, psnDist u p = 0 → b = u.setSlot k { u.slot k with gap := false, busy := false } → pktFirst p = true →
        u.filled k (u.getF (F.rmtBufBusyth d.val)) = true → exec i.1 s = .next (left s (b.nakBusy k true)))) ∧
    (∀ i ∈ rmtRequests d p, ∀ h b, i.2 = true → rmtExpected s d.val p q b → p.cxh = none → pktFirst p = true →
      p.axh = some h → (b.slot k).rx = none →
      (b.keyView k p.opc.toNat p.sub.toNat h = .busy → exec i.1 s = .next (left s (b.nakBusy k q.ce))) ∧
      (b.keyView k p.opc.toNat p.sub.toNat h = .access → exec i.1 s = .next (left s (b.nakAccess k q.ce))) ∧
      (b.keyView k p.opc.toNat p.sub.toNat h = .fetch →
        exec i.1 s = .next (left s (b.setKeyWaits d.val (b.keyWaits d.val ++ [q])))))

/-- 11 R298, R302, R304, R307, R309–R313, R317, R322, R329; log entry 32. -/
def Obligations.RmtRequestsAndAnswersTakeEffect : Prop :=
  (∀ (s : State) (k n : Nat) (p : Packet), rmtCounted s (s.reqDone k p n) k p n) ∧
  (∀ (d : Fin 4) (p q : Packet) (s b : State) (k : Nat), k = p.dcn.toNat → rmtExpected s d.val p q b →
    (∀ c w m, rmtBegins b d.val p m c ∨ (rmtGoesOn b p m ∧ c = b) → rmtWrites c d.val p m w →
      (∀ i ∈ ([(.write d p, isOp p opWrite), (.reduceWrite d p, isOp p opReduceWrite)] : List (Instr × Bool)), i.2 = true →
        exec i.1 s = .next (left s (if p.last then (w.dropRx k).reqDone k q 1 else w.reqDone k q 1))) ∧
      (isOp p opWriteNotify = true → p.last = false → exec (.writeNotify d p) s = .next (left s (w.reqDone k q 1))) ∧
      (∀ e, isOp p opWriteNotify = true → p.last = true →
        (w.keyCache d.val).find? (fun e => some e.index = m.key) = some e →
        exec (.writeNotify d p) s = .next (left s (((w.notify k e m.imm).dropRx k).reqDone k q 1)))) ∧
    (∀ c w m bs, rmtBegins b d.val p m c → isOp p opReadReq = true →
      (cvaRead (dieUnit d.val) (b.slot k).conn.owner m.next m.left).go c = (.ok bs, w) →
      exec (.readReq d p) s = .next (left s (((w.sendReads k p.psn.toNat bs).dropRx k).reqDone k q
        ((m.left + (b.slot k).conn.pmtu - 1) / (b.slot k).conn.pmtu)))) ∧
    (∀ c w m old t, rmtBegins b d.val p m c →
      (atomicOn (dieUnit d.val) (b.slot k).conn.owner m.next m.sub p.opnd0 p.opnd1).go c = (.ok old, w) →
      t = w.setSlot k { w.slot k with alog := ((p.psn.toNat, old) :: (w.slot k).alog).take 16 } →
      ∀ i ∈ ([(.rmtFadd d p, isOp p opAtomic (some 1)), (.cswap d p, isOp p opAtomic (some 2)),
        (.swap d p, isOp p opAtomic (some 3))] : List (Instr × Bool)), i.2 = true →
      exec i.1 s = .next (left s (((t.sendAtomic k p.psn.toNat old).dropRx k).reqDone k q 1))) ∧
    (∀ c x t, isOp p opWrite = true → p.cxh = some c → x = (b.slot k).conn.owner → p.first = true → p.last = true →
      (b.slot k).rx = none → b.cxhAdmit x k c false = .take →
      (b.setSlot k { b.slot k with rx := none }).cxhDeliver x k c p.payload = .over t →
      exec (.write d p) s = .next (left s (t.reqDone k q 1)))) ∧
  (∀ (d : Fin 4) (p q : Packet) (s u : State) (k : Nat), k = p.dcn.toNat → rmtPasses s d.val p q u →
    (isOp p opAck = true → exec (.ack d p) s = .next (left s ((u.retire k ((u.slot k).unacked.filter
      (ackCovers p.apsn.toNat)) p.ece).closeEnd k))) ∧
    (isOp p opNak (some 1) = true → exec (.nakSeq d p) s = .next (left s ((u.nakRate k q).resendAll k))) ∧
    (isOp p opNak (some 2) = true → runsTo (.nakBusy d p) s fun t =>
      t = left s { u with regs := t.regs, rmt.slot := t.rmt.slot } ∧ (t.slot k).busyWait = true ∧
      counted u t (F.rmtCtr8 d.val) 1) ∧
    (isOp p opNak (some 3) = true → exec (.nakAccess d p) s = .next (left s ((u.nakRate k q).haltFull k haltNakRecv))) ∧
    (∀ r w, ((u.slot k).unacked ++ (u.slot k).reads).find? (rmtAnswers (u.slot k) p) = some r → (∀ x, r.owner ≠ .restore x) →
      (cvaWrite (dieUnit d.val) (u.slot k).conn.owner (r.dst + r.got) p.payload).go u = (.ok (), w) →
      (isOp p opAtomicResp = true → exec (.atomicResp d p) s = .next (left s (w.respIn k r r.len p.ece))) ∧
      (isOp p opReadResp = true → p.payload.length = Nat.min (u.slot k).conn.pmtu (r.len - r.got) →
        exec (.readResp d p) s = .next (left s (w.respIn k r p.payload.length p.ece))))) ∧
  (∀ (d : Fin 4) (p q : Packet) (s u b : State) (k : Nat) (v : RmtSlot), k = p.dcn.toNat → rmtWhole s d.val p q u →
    v = u.slot k → b = u.rxBytes k q →
    ∀ i ∈ ([(.openPkt d p, isOp p opOpen), (.openAck d p, isOp p opOpenAck), (.haltPkt d p, isOp p opHalt),
        (.closePkt d p, isOp p opClose)] : List (Instr × Bool)), i.2 = true →
      (¬(rmtNames v p ∧ rmtFits v p) → exec i.1 s = .next (left s (u.incF (F.rmtCtr11 d.val) 1))) ∧
      (rmtNames v p → rmtFits v p → runsTo i.1 s fun t => ∃ w, t = left s w ∧ rmtManaged u b d.val k v p w))

/-- 11 R302, R304, R309, R310, R320–R322. -/
def Obligations.RmtFetchesTimersAndRates : Prop :=
  ∀ (d : Fin 4) (l : BitVec 16) (s : State) (k : Nat) (v : RmtSlot), s.works = true → k = slotKey d.val l.toNat →
    v = s.slot k →
    (∀ mine rest u w, mine = (tget [] s.rmt.waiting d.val).filter (fun p => p.dcn.toNat = k) → mine ≠ [] →
      rest = (tget [] s.rmt.waiting d.val).filter (fun p => p.dcn.toNat != k) →
      u = { s with rmt.waiting := tput [] s.rmt.waiting d.val rest } → u.connUse k = (none, w) →
      exec (.connFetchDone d l) s = .next (left s (mine.foldl (fun s p => s.slotGo d.val p) w))) ∧
    (∀ (i : BitVec 20) (w : List KeyC) (b : List Byte) (u : State),
      (∃ p ∈ s.keyWaits d.val, ∃ h, p.axh = some h ∧ h.key.toNat % 2 ^ 20 = i.toNat) →
      (∀ c ∈ s.keyCache d.val, c.index ≠ i.toNat) → keyRoom (s.keyCache d.val) = some w →
      (houseRead s.kset (keyAt i.toNat) 64).go s = (.ok b, u) →
      exec (.keyFetchDone d i) s = .next (left s ((u.setKeys d.val (⟨i.toNat, b, 0⟩ :: w)).redrive d.val))) ∧
    (v.st = .opened ∨ v.st = .closing → s.resends k ≠ [] → v.busyWait = false → ∀ n u w, n = v.timeouts + 1 →
      u = (s.incF (F.rmtCtr3 d.val) 1).setSlot k { v with timeouts := n } →
      w = (if n % s.getF (F.rmtTimersHopn d.val) = 0 then
          (u.incF (F.rmtCtr4 d.val) 1).setSlot k { v with timeouts := n, path := (v.path + 1) % 8 } else u) →
      (s.getF (F.rmtTimersRetrymax d.val) ≤ n → exec (.rtoTimeout d l) s = .next (left s (w.haltFull k haltRetry))) ∧
      (n < s.getF (F.rmtTimersRetrymax d.val) → exec (.rtoTimeout d l) s = .next (left s (w.resendAll k)))) ∧
    (v.owed ≠ 0 → v.st = .opened ∨ v.st = .closing → runsTo (.ackTimer d l) s fun t => t = left s (s.sendAck k false) ∧
      (t.slot k).owed = 0 ∧ counted s t (F.rmtCtr0 d.val) 1) ∧
    (v.st = .opened → v.unacked ≠ [] → exec (.nplExpiry d l) s = .next (left s (s.haltFull k haltNpl))) ∧
    (v.st = .closing → rmtIdle s k → runsTo (.nplExpiry d l) s fun t => rmtFreed s t k) ∧
    (v.st = .opening → exec (.openRetry d l) s = .next (left s (s.sendCn k opOpen))) ∧
    (v.busyWait = true → exec (.busywaitExpiry d l) s = .next (left s
      (((s.setSlot k { v with busyWait := false }).resendAll k).pump k))) ∧
    (v.st = .opened ∨ v.st = .closing → v.a ≠ 0 → runsTo (.ratePeriod d l) s fun t =>
      t = left s { s with regs := t.regs, rmt.slot := t.rmt.slot } ∧ t.slot k = rateLaw s d.val k ∧
      (∀ j, j ≠ k → t.slot j = s.slot j) ∧ (v.m ≠ 0 → counted s t (F.rmtCtr15 d.val) 1)) ∧
    (∀ cause parent, v.st = .opened ∨ v.st = .closing → k < 2 ^ 18 →
      ((s.haltSlot k cause parent).1.slot k).st = .halted ∧ ((s.haltSlot k cause parent).1.slot k).unacked = [] ∧
      ((s.haltSlot k cause parent).1.slot k).queued = [] ∧ ∃ r ∈ (s.haltSlot k cause parent).1.err.recQ,
        r.cls = clsContext ∧ r.die = d.val ∧ r.unit = uRmt ∧ r.kind = kHalt ∧ r.sub = cause ∧
        r.ctx = some v.conn.owner ∧ r.detail = k) ∧
    ((∀ p ∈ tget [] s.rmt.waiting d.val, p.dcn.toNat ≠ k) → exec (.connFetchDone d l) s = .next s) ∧
    (∀ c ∈ [Instr.rtoTimeout d l, .nplExpiry d l, .ratePeriod d l, .openRetry d l],
      v.st = .free ∨ v.st = .halted → exec c s = .next s) ∧
    (s.resends k = [] ∨ v.busyWait = true → exec (.rtoTimeout d l) s = .next s) ∧
    (v.owed = 0 → exec (.ackTimer d l) s = .next s) ∧
    (v.st = .opened → v.unacked = [] → exec (.nplExpiry d l) s = .next s) ∧
    (v.busyWait = false → exec (.busywaitExpiry d l) s = .next s) ∧
    (v.a = 0 → exec (.ratePeriod d l) s = .next s)

/-- 11 R302, R303, R314–R319, R330; log entry 38. -/
def Obligations.RmtCommandsOfTheDriver : Prop :=
  (∀ (d : Fin 4) (k r : Nat) (s : State), r < 4 → connShown s (s.connStat d.val k r) d.val k r) ∧
  (∀ (r g a : Nat) (s : State), r < 4 → g < 4096 → keyShown s (s.keyStat r g a) r g) ∧
  (∀ (d : Fin 4) (l : BitVec 16) (s a : State) (k : Nat) (v : RmtSlot), s.works = true → k = slotKey d.val l.toNat →
    v = s.slot k → a = s.spend (F.rmtCcmdSlot d.val).off →
    (∀ i ∈ [Instr.connOpen d l, .connClose d l, .connQuery d l], s.blockUp (F.rmtCcmdSlot d.val).off = false →
      exec i s = .next (left s (a.rejectedAt (F.rmtCcmdSlot d.val).off (F.rmtCcmdSlot d.val).lo))) ∧
    (s.blockUp (F.rmtCcmdSlot d.val).off = true →
      exec (.connQuery d l) s = .next (left s (a.connStat d.val k 0)) ∧
      (v.st = .opening ∨ v.st = .halted → exec (.connClose d l) s = .next (left s
        ((a.setSlot k { lastEpoch := v.conn.epoch }).connStat d.val k 0))) ∧
      (v.st = .free ∨ v.st = .closing → exec (.connClose d l) s = .next (left s (a.connStat d.val k 3))) ∧
      (v.st = .opened → v.unacked ≠ [] ∨ v.queued ≠ [] → exec (.connClose d l) s = .next (left s
        ((a.setSlot k { v with st := .closing }).connStat d.val k 0))) ∧
      (v.st = .opened → v.pkts = [] → v.rx = none → runsTo (.connClose d l) s fun t =>
        t.slot k = { lastEpoch := v.conn.epoch } ∧ t.getF (F.rmtCstatResult d.val) = 0) ∧
      (∀ r u, openFails a d.val k l.toNat r u → exec (.connOpen d l) s = .next (left s (u.connStat d.val k r))) ∧
      (∀ c u, openHolds a d.val k l.toNat c u → exec (.connOpen d l) s = .next (left s
        ((((u.setSlot k { lastEpoch := (u.slot k).lastEpoch, conn := c, st := .opening }).connUse k).2.sendCn k opOpen).connStat
          d.val k 0))))) ∧
  (∀ (i : BitVec 20) (s a : State), s.works = true → a = s.spend F.rmtKcmdIndex.off →
    (∀ e ∈ ([(.keyValidate i, false), (.keyRevoke i, true)] : List (Instr × Bool)),
      (s.blockUp F.rmtKcmdIndex.off = false →
        exec e.1 s = .next (left s (a.rejectedAt F.rmtKcmdIndex.off F.rmtKcmdIndex.lo))) ∧
      (s.blockUp F.rmtKcmdIndex.off = true → s.flag F.rmtKstatDone = false →
        exec e.1 s = .next (left s (a.rejected F.rmtKcmdOp))) ∧
      (∀ r g, s.blockUp F.rmtKcmdIndex.off = true → s.flag F.rmtKstatDone = true → keyFails a i.toNat e.2 r g →
        exec e.1 s = .next (left s (a.keyStat r g 0)))) ∧
    (∀ b, s.blockUp F.rmtKcmdIndex.off = true → s.flag F.rmtKstatDone = true → keyThere s i.toNat → b = a.keyRec i.toNat →
      (kState b = 0 → a.keyRecOk b = true → exec (.keyValidate i) s = .next (left s
        ((a.keyPut i.toNat (keyBytes b 1 (kGen b))).keyStat 0 (kGen b) 0))) ∧
      (∀ u, kState b = 1 → u = (a.keySet i.toNat 2 (kGen b)).setB F.rmtKstatDone false →
        exec (.keyRevoke i) s = .next (left s { u with rmt.revoke := some ⟨i.toNat, 0⟩ }))) ∧
    (∀ c ∈ [Instr.revokeDrained i, .revokeTimeout i],
      (∀ r, s.rmt.revoke = some r → r.index ≠ i.toNat) → exec c s = .next s) ∧
    (∀ r, s.rmt.revoke = some r → r.index = i.toNat →
      (s.keyRefs i.toNat ≠ 0 → exec (.revokeDrained i) s = .next s) ∧
      (s.keyRefs i.toNat = 0 → exec (.revokeDrained i) s = .next (left s (s.keyFree i.toNat r.aborted))) ∧
      (∀ ks, ks = s.keyHolders i.toNat → exec (.revokeTimeout i) s = .next (left s
        ((ks.foldl (fun s k => s.haltFull k haltRevoke) s).keyFree i.toNat (r.aborted + ks.length)))))) ∧
  (∀ (i a g : Nat) (s u t : State), g = (kGen (s.keyRec i) + 1) % 4096 → u = s.keySet i 0 g → t = s.keyFree i a →
    ((∀ r, u.rmt.revoke = some r → r.index ≠ i) → t = u) ∧
    (∀ r, u.rmt.revoke = some r → r.index = i →
      keyShown { u with rmt.revoke := none } t (if a = 0 then 0 else 3) g))

/-- 11 R297, R299, R328, R329; 06 R183. -/
def Obligations.RmtCommandsOfJobSoftware : Prop :=
  ∀ (x : Fin 256) (s : State), s.works = true →
    ((¬∃ t, rmtTurn s x.val t) → exec (.rmtCommandFetch x) s = .next (left s (s.rmtJoin x.val).settle)) ∧
    (∀ (u v : State) (h a : Nat) (b : List Byte), rmtTurn s x.val u → h = u.getF (F.rmtHeadHead x.val) →
      a = 64 * u.getF (F.rmtRingAddr x.val) + 64 * (h % 2 ^ u.getF (F.rmtCtlLog2size x.val)) →
      (cvaRead (dieUnit 0) x.val a 64).go (u.incF (F.rmtHeadHead x.val) 1) = (.ok b, v) →
      (v.rmtFieldsOk x.val b = false → exec (.rmtCommandFetch x) s =
        .next (left s (v.ctxFault x.val 0 uRmt kInvalid 0 a))) ∧
      (v.rmtFieldsOk x.val b = true → ∃ c l, rmtEntry c h a b ∧
        l = tget [] (s.rmtJoin x.val).settle.rmt.cmds x.val ++ [c] ∧ exec (.rmtCommandFetch x) s = .next (left s
          ((({ v with rmt.cmds := tput [] v.rmt.cmds x.val l }).setF (F.rmtCtlInflight x.val) l.length).rmtJoin
            x.val).settle))) ∧
    (∀ c : RmtCmd, 1 ≤ c.op → c.op ≤ 7 → rmtMessageOf x.val c (cmdMsg x.val c)) ∧
    (∀ n : Nat, ∀ i ∈ ([(.cmdWrite x n, 1), (.cmdWriteNotify x n, 2), (.cmdRead x n, 3), (.cmdFadd x n, 4),
        (.cmdCswap x n, 5), (.cmdSwap x n, 6), (.cmdReduceWrite x n, 7)] : List (Instr × Nat)),
      ((∀ c ∈ tget [] s.rmt.cmds x.val, c.index ≠ n) → exec i.1 s = .next s) ∧
      (∀ c : RmtCmd, (tget [] s.rmt.cmds x.val).find? (fun c => c.index = n) = some c →
        (¬rmtMayStart s x.val c i.2 → exec i.1 s = .next s) ∧
        (rmtMayStart s x.val c i.2 →
          (2 ^ 18 ≤ c.conn ∨ (s.slot c.conn).st ≠ .opened →
            (∀ u, s.cmdComplete x.val n 3 = (u, none) → exec i.1 s = .next (left s u.settle)) ∧
            (∀ u k, s.cmdComplete x.val n 3 = (u, some k) →
              exec i.1 s = .next (left s (u.ctxFault x.val 0 uRmt kOverflow 0 k)))) ∧
          (c.conn < 2 ^ 18 → (s.slot c.conn).st = .opened → (s.slot c.conn).conn.owner ≠ x.val →
            exec i.1 s = .next (left s (s.ctxFault x.val 0 uRmt kInvalid 0 c.addr))) ∧
          (∀ u, c.conn < 2 ^ 18 → (s.slot c.conn).st = .opened → (s.slot c.conn).conn.owner = x.val →
            s.connUse c.conn = (none, u) → exec i.1 s = .next (left s
              (({ u with rmt.cmds := tput [] u.rmt.cmds x.val ((tget [] s.rmt.cmds x.val).map fun d =>
                  if d.index = n then { d with started := true } else d) } : State).rmtMessage
                c.conn (cmdMsg x.val c)))))))

/-! ### Contexts (16) -/

/-- 16 R416–R419, R422, R430–R432; 17 R437; 19 R489. -/
def Obligations.ContextsAreGrantedAndCommanded : Prop :=
  ∀ (x : Fin 256) (s : State), s.works = true → s.getF (F.ctxCtlValid x.val) < 2 →
    (∀ (b : Bool) (u : State), s.regRefused (regOr (F.ctxCtlValid x.val).off) (ofBool b) = some u →
      exec (.ctxValidWrite x b) s = .next (left s u)) ∧
    (∀ b : Bool, s.regRefused (regOr (F.ctxCtlValid x.val).off) (ofBool b) = none →
      (b = s.flag (F.ctxCtlValid x.val) → exec (.ctxValidWrite x b) s = .next s) ∧
      (b = true → s.flag (F.ctxCtlValid x.val) = false →
        (s.flag F.accCfgGvalid = false → exec (.ctxValidWrite x b) s = .next (left s (s.rejected (F.ctxCtlValid x.val)))) ∧
        (∀ bs u, s.flag F.accCfgGvalid = true → (houseRead (s.getF F.accCfgGset) (256 * x.val) 256).go s = (.ok bs, u) →
          (u.grantOk x.val bs = false → exec (.ctxValidWrite x b) s = .next (left s (u.rejected (F.ctxCtlValid x.val)))) ∧
          (u.grantOk x.val bs = true → runsTo (.ctxValidWrite x b) s fun t =>
            t = left s { u with regs := t.regs, ctxs.ctx := t.ctxs.ctx, sched.recDue := t.sched.recDue } ∧
            ctxGranted u t x.val bs))) ∧
      (b = false → s.flag (F.ctxCtlValid x.val) = true →
        (s.ctxSt x.val ≠ cIdle → s.ctxSt x.val ≠ cSaved → s.ctxSt x.val ≠ cFaulted →
          exec (.ctxValidWrite x b) s = .next (left s (s.rejected (F.ctxCtlValid x.val)))) ∧
        (s.ctxSt x.val = cIdle ∨ s.ctxSt x.val = cSaved ∨ s.ctxSt x.val = cFaulted →
          runsTo (.ctxValidWrite x b) s fun t => ctxFreed s t x.val))) ∧
    (∀ i ∈ ([(.preempt x, ctPreempt), (.suspend x, ctSuspend), (.resume x, ctResume), (.teardown x, ctTeardown)] :
        List (Instr × Nat)),
      (∀ u, s.regRefused (regOr (F.ctxCtlValid x.val).off) (s.ctlWith x.val i.2) = some u → exec i.1 s = .next (left s u)) ∧
      (s.regRefused (regOr (F.ctxCtlValid x.val).off) (s.ctlWith x.val i.2) = none →
        (s.flag (F.ctxStateCmdbusy x.val) = true ∨ ¬ctxAllows s x.val i.2 →
          exec i.1 s = .next (left s (s.rejected (F.ctxCtlCmd x.val)))) ∧
        (s.flag (F.ctxStateCmdbusy x.val) = false → ctxAllows s x.val i.2 →
          runsTo i.1 s (ctxCommanded s x.val i.2)))) ∧
    (∀ (die unit kind sub detail : Nat) (parent : Option Nat) (bad : Option (Nat × Nat)) (t : State),
      t = s.ctxFault x.val die unit kind sub detail parent bad → detail < 2 ^ 64 →
      (∃ r ∈ t.err.recQ, r.cls = clsContext ∧ r.die = die ∧ r.unit = unit ∧ r.kind = kind ∧ r.sub = sub ∧
        r.ctx = some x.val ∧ r.parent = parent ∧ r.detail = detail ∧ r.rid = s.err.nextRid) ∧
      (s.alive x.val = true → t.ctxSt x.val = cFaulted ∧ t.flag (F.ctxStateCmdbusy x.val) = false ∧
        tget [] t.rmt.cmds x.val = [] ∧ t.col1 x.val = {} ∧
        ∀ w ∈ t.mem.wpWaits, w.ctx ≠ x.val) ∧
      (s.alive x.val = false → t = s.record clsContext die unit kind sub (some x.val) parent detail))

/-- 16 R420–R424, R426–R429. -/
def Obligations.ContextsSwitchAndShareTime : Prop :=
  (∀ (s t : State) (x : Nat) (g : Grant) (i : Nat) (kept : List (Nat × Nat)), twf 0 s.mem.oc = true →
    s.grant x = some g → i ∈ g.coreList → s.coresBusy x = true → ∀ w, w = t.putImage (s.image x g kept) →
    w.core i = s.core i ∧ w.vec i = s.vec i ∧ w.mat (2 * i) = s.mat (2 * i) ∧ w.mat (2 * i + 1) = s.mat (2 * i + 1) ∧
    ∀ a, a < ocSize → tget 0 w.mem.oc (ocKey i a) = tget 0 s.mem.oc (ocKey i a)) ∧
  (∀ (s : State) (set o len : Nat) (c : Bytes), imageRecordStored s set o len c) ∧
  (∀ (x : Fin 256) (s : State), s.works = true →
    (s.ctxSt x.val ≠ cResident ∨ s.rtHolder x.val = true ∨ ((s.cx x.val).donor = 0 ∧ s.wanted x.val = false) →
      exec (.sliceExpiry x) s = .next s) ∧
    (s.ctxSt x.val = cResident → s.rtHolder x.val = false →
      ((s.cx x.val).donor = 0 → s.wanted x.val = true →
        exec (.sliceExpiry x) s = .next (left s (s.preemptNow x.val).settle)) ∧
      ((s.cx x.val).donor ≠ 0 →
        exec (.sliceExpiry x) s = .next (left s ((ungifted s x.val).preemptNow x.val).settle))) ∧
    (∀ us : Nat,
      (s.grant x.val = none ∨ s.ctxSt x.val ≠ cSaving → exec (.saveComplete x us) s = .next s) ∧
      (∀ g k u, s.grant x.val = some g → s.ctxSt x.val = cSaving → k = s.keptWays x.val →
        (do flushAll x.val; saveReads x.val g k; saveReach x.val g : M Unit).go s = (.ok (), u) →
        ∃ w : State, exec (.saveComplete x us) s = .next (left s w.settle) ∧ saveEnded u w x.val us g k) ∧
      (s.grant x.val = none ∨ s.ctxSt x.val ≠ cRestoring ∨ (s.grant x.val).any s.wayClearing = true →
        exec (.restoreComplete x us) s = .next s) ∧
      (∀ g v u, s.ctxSt x.val = cRestoring → s.grant x.val = some g → s.wayClearing g = false →
        v = ((s.cx x.val).saved).getD ⟨[], []⟩ → tget none s.train.steps x.val = none → s.slotsOf x.val = [] →
        (imageReads x.val g v).go s = (.ok (), u) →
        ∃ w : State, restoreDone u w x.val us g (u.loadImage g v) ∧ exec (.restoreComplete x us) s = .next (left s
          (if u.flag (F.ctxStateSusp x.val) then w.preemptNow x.val else w).settle))) ∧
    (¬windowOver s x.val → exec (.windowClose x) s = .next s) ∧
    (∀ late u, windowOver s x.val → late = s.getF (F.watchNs 0) - (s.cx x.val).dueAt →
      u = (s.setF (F.ctxStateOverrun x.val) (Nat.min 65535 (s.getF (F.ctxStateOverrun x.val) + late / 1000))).setCx x.val
        { s.cx x.val with switchDue := false } →
      exec (.windowClose x) s = .next (left s ((u.toDebt x.val).setSt x.val cSaving).settle)) ∧
    (∀ n : Fin 4096, ((∀ d, ¬donates s x.val n.val d) → exec (.donation x n) s = .next s) ∧
      (∀ d u, donates s x.val n.val d →
        ((s.cx x.val).donor ≠ 0 → exec (.donation x n) s = .next (left s
          ((ungifted (s.incF F.accDonblock 1) x.val).preemptNow x.val).settle)) ∧
        ((s.cx x.val).donor = 0 → u = ((s.incF F.accDonate 1).setB (F.ctxStateDonated d) true).setCx d
            { s.cx d with donor := x.val + 1, donSem := n.val } →
          exec (.donation x n) s = .next (left s (({ u with
            ctxs.waiting := d :: s.ctxs.waiting.filter (· != d) } : State).preemptNow x.val).settle))))) ∧
  (∀ (v : BitVec 32) (s : State), s.works = true →
    runsTo (.rtCommit v) s (rtAsked s v.toNat) ∧ runsTo (.commit .rtTable) s (rtAsked s 1) ∧
    (s.flag F.rtCommitCommit = false → exec (.commitApply .rtTable) s = .next s) ∧
    (s.flag F.rtCommitCommit = true → runsTo (.commitApply .rtTable) s (rtApplied s))) ∧
  (∀ (i : Fin 64) (s u : State), s.works = true →
    u = (if i.val = 0 then { s.rtApply with ctxs.rtOn := s.flag F.accCfgRten } else s) →
    runsTo (.rtSlotStart i) s (rtSlotBegun s u i.val))

/-! ### Security (17) -/

/-- 17 R439, R444, R448, R449, R451–R456; log entry 38. -/
def Obligations.SecurityCommandsEndWithTheirCode : Prop :=
  ∀ (s : State), s.works = true →
    (∀ (n : BitVec 8), ∀ i ∈ ([(.report, opReport, 0), (.cert n, opCert, n.toNat), (.keyagree, opKeyAgree, 0),
        (.endsession, opEndSession, 0), (.seal n, opSeal, n.toNat), (.bundleOpen, opBundleOpen, 0),
        (.bundleClose n, opBundleClose, n.toNat)] : List (Instr × Nat × Nat)),
      (∀ u, s.regRefused (regOr F.secCmdOp.off) (secValue i.2.1 i.2.2) = some u → exec i.1 s = .next (left s u)) ∧
      (s.regRefused (regOr F.secCmdOp.off) (secValue i.2.1 i.2.2) = none →
        ((i.2.1 = opCert ∧ 6 < i.2.2) ∨ (i.2.1 = opBundleClose ∧ 64 ≤ i.2.2) →
          exec i.1 s = .next (left s (s.rejected F.secCmdArg))) ∧
        ((i.2.1 = opCert → i.2.2 ≤ 6) → (i.2.1 = opBundleClose → i.2.2 < 64) →
          (s.sec.run.isSome = true → exec i.1 s = .next (left s (s.rejected F.secCmdOp))) ∧
          (s.sec.run = none → runsTo i.1 s fun t => t = { s with regs := t.regs, sec.run := t.sec.run } ∧
            t.flag F.secResultDone = false ∧
            ∃ b, t.sec.run = some ⟨i.2.1, i.2.2, s.regs.secBuf, b⟩ ∧ (b = true ↔ s.reason ≠ 0))))) ∧
    (s.sec.run = none → exec .secCommandDone s = .next s) ∧
    (∀ r : SecRun, s.sec.run = some r →
      (r.op ∈ [opReport, opCert, opEndSession, opSeal, opBundleClose] → runsTo .secCommandDone s (secEnded s r)) ∧
      (r.op = opKeyAgree → runsTo .secCommandDone s (keyAgreed s r)) ∧
      (∀ c u, r.op = opBundleOpen → (bundleOpenRun r).go (s.secOut []) = (.ok c, u) →
        exec .secCommandDone s = .next (left s (secDone u c)))) ∧
    (∀ (r : SecRun) (h all e : List Byte) (st off pay n b : Nat) (ct aad tag : List Byte) (u : State),
      bundleFits s r h all e st off b → pay = fieldAt h 48 8 → n = fieldAt h 7 1 →
      ct = slice all (64 + 1184 * n) pay → aad = all.take (64 + 1184 * n) → tag = all.drop (64 + 1184 * n + pay) →
      (∀ ck p, unwrap (slice h 16 16) e = some ck → Config.gcmOpen ck (slice h 32 12) aad ct tag = some p →
        (hbmWrite none st off p).go s = (.ok (), u) →
        (bundleRun r h all).go s = (.ok cdOk, (u.slotOpen b h ck).secOut (leBytes 4 b))) ∧
      ((unwrap (slice h 16 16) e).bind (fun ck => Config.gcmOpen ck (slice h 32 12) aad ct tag) = none →
        (hbmWrite none st off (List.replicate pay 0)).go s = (.ok (), u) →
        (bundleRun r h all).go s = (.ok cdAuthFail, u))) ∧
    (∀ (a len : Nat) (h all : List Byte) (r : SecRun) (u v : State), a = leNat (r.bytes 0 8) → len = leNat (r.bytes 8 8) →
      64 ≤ len → a + len ≤ 2 ^ 42 → (compRead 0 none a 64).go s = (.ok h, u) → bundleFields h len = true →
      (compRead 0 none a len).go u = (.ok all, v) → (bundleOpenRun r).go s = (bundleRun r h all).go v) ∧
    (∀ nonce : List Byte, nonce.length = 48 → (s.reportBody nonce).length = 640 ∧ (s.reportOf nonce).length = 4013 ∧
      slice (s.reportBody nonce) 32 48 = nonce ∧ (s.reportOf nonce).take 640 = s.reportBody nonce)

/-! ### Resilience (18) and errors (19) -/

/-- 18 R473–R476; 19 R482, R484, R486, R487, R490, R492, R493; 00 R15. -/
def Obligations.RestoresDrainsRecordsAndAudits : Prop :=
  (∀ (x : Fin 256) (s : State), s.works = true →
    (s.getF (F.resSnapState x.val) ≠ snOpen → exec (.pageDrain x) s = .next s) ∧
    (∀ (sn : Snap) (k i p : Nat) (u : State), s.getF (F.resSnapState x.val) = snOpen → sn = (s.resc x.val).snap →
      k = (snapPages sn.regions).length → (snapPages sn.regions)[sn.tags.length]? = some (i, p) →
      (stagePage x.val i p).go s = (.ok (), u) → exec (.pageDrain x) s = .next (left s
        ((u.runFor x.val 0 uRes none (drainRest x.val (some (i, p)) k)).unblocked x.val)))) ∧
  (∀ (v : Word64) (s : State), s.works = true →
    runsTo (.restore v) s fun t => restoreAsked s (s.spend F.resCmdOp.off) t v.toNat) ∧
  (∀ s : State, s.works = true → (s.res.restore = none → exec .restoreCommandDone s = .next s) ∧
    (∀ r, s.res.restore = some r → runsTo .restoreCommandDone s fun t => restoreAnswered s t r)) ∧
  (∀ (s : State) (x n : Nat), (1 ≤ n → n < 8 → ∃ t, s.restoreEnd x n 0 = some t ∧ t.res.restore = none ∧
      t.flag F.resCmdstDone = true ∧ t.getF F.resCmdstCode = n) ∧
    s.restoreEnd x rcOk n = State.readStepRec (State.dropGroups { (((s.setB F.resCmdstDone true).setF F.resCmdstCode 0).setF
      F.resCmdstUnchecked n) with res.restore := none } x) x true) ∧
  (∀ (d : Fin 4) (s : State), s.live = true →
    ((∀ r ∈ s.err.recQ, r.die ≠ d.val) → exec (.errorRecordStore d) s = .next s) ∧
    (∀ r, s.err.recQ.find? (fun r => r.die = d.val) = some r →
      (recordWaits s d.val r → exec (.errorRecordStore d) s = .next s) ∧
      (∀ q, s.logPath d.val = false → (s.err.recQ.filter fun q => q.die = d.val)[16]? = some q →
        runsTo (.errorRecordStore d) s fun t => recordLost s t q) ∧
      (s.logPath d.val = true → (∀ q ∈ s.err.recQ, r.parent ≠ some q.rid) →
        (∀ i rest, s.freeEntries = i :: rest → r.cls = clsFatal ∨ 4 ≤ rest.length →
          runsTo (.errorRecordStore d) s fun t => recordStored s t r i rest) ∧
        (s.freeEntries = [] ∨ (s.freeEntries.length ≤ 4 ∧ r.cls ≠ clsFatal) →
          runsTo (.errorRecordStore d) s fun t => recordLost s t r)))) ∧
  (∀ (v : BitVec 32) (s : State), s.live = true →
    (∀ u, s.regRefused (regOr F.errAckIndex.off) v.toNat = some u → exec (.errAck v) s = .next (left s u)) ∧
    (s.regRefused (regOr F.errAckIndex.off) v.toNat = none → runsTo (.errAck v) s fun t =>
      t = { s with regs := t.regs, err.log := t.err.log } ∧ tget none t.err.log (v.toNat % 128) = none ∧
      (∀ j, j ≠ v.toNat % 128 → tget none t.err.log j = tget none s.err.log j) ∧
      t.getF F.errStatusCount = 128 - t.freeEntries.length)) ∧
  (∀ (w i : Nat) (s : State), s.fatal = false →
    (s.wellDiff w i = 0 → s.auditOne w i = s.incF F.errAudits 1) ∧
    (s.wellDiff w i ≠ 0 → (s.auditOne w i).fatal = true ∧ ∃ r ∈ (s.auditOne w i).err.recQ, r.cls = clsFatal ∧
      r.unit = uAudit ∧ r.kind = kAudit ∧ r.sub = w + 256 * i)) ∧
  (∀ s : State, s.works = true →
    (∀ l, l = (((upTo 7).filter fun w => s.bitF F.errAuditWells w).flatMap fun w => (s.wellInsts w).map fun i => (w, i)) →
      (∀ p ∈ l, s.wellQuiet p.1 p.2 = true ∧ s.wellDiff p.1 p.2 = 0) →
      runsTo .auditTimer s fun t => t = { s with regs := t.regs, err.audit := [] } ∧ counted s t F.errAudits l.length ∧
        t.flag F.errAuditDone = true ∧ t.getF F.errAuditNotquiet = 0) ∧
    (∀ v : Word64, runsTo (.auditGo v) s fun t => auditAsked s (s.spend F.errAuditGo.off) t v.toNat) ∧
    (∀ (w : Fin 7) (i : BitVec 8),
      ((w.val, i.toNat) ∉ s.err.audit → exec (.auditQuietTimeout w i) s = .next s) ∧
      ((w.val, i.toNat) ∈ s.err.audit → runsTo (.auditQuietTimeout w i) s fun t => auditTimed s t (w.val, i.toNat))))

/-! ### Boot, firmware and self-test (20) -/

/-- 20 R497–R499, R501, R503, R506–R511; log entry 35. -/
def Obligations.BootStepsFirmwareAndSelfTest : Prop :=
  (∀ (k : Fin 14) (i : BitVec 8) (r : BootResult) (s : State),
    (s.works = false ∨ s.power.st ≠ .boot ∨ (∀ y ∈ s.boot.tries, ¬ (y.step = k.val ∧ y.inst = i.toNat)) →
      exec (.bootStepEnd k i r) s = .next s) ∧
    (∀ y : Try, s.works = true → s.power.st = .boot →
      s.boot.tries.find? (fun y => y.step = k.val ∧ y.inst = i.toNat) = some y →
      (r.pass = false → k.val ≠ 3 → k.val ≠ 7 → s.flag F.bootStatusRundone = false →
        y.n = 0 ∨ (y.n = 1 ∧ hasAlternate k.val = true) →
        runsTo (.bootStepEnd k i r) s fun t => tryAgain s t y r.code.toNat) ∧
      (∀ c, (k.val, y.n, c) ∈ ([(2, 2, 0x0020), (4, 2, 0x0040), (12, 1, 0x00A0)] : List (Nat × Nat × Nat)) →
        r.pass = false → s.flag F.bootStatusRundone = false →
        runsTo (.bootStepEnd k i r) s fun t => bootHalted s t k.val c) ∧
      (1 ≤ k.val → k.val ≤ 6 → s.boot.tries = [y] → s.getF F.bootStatusStep = k.val → r.pass = true →
        s.tryOk y r = true → s.flag F.bootStatusHalted = false → s.flag F.bootStatusRundone = false →
        runsTo (.bootStepEnd k i r) s fun t => stepPassed s t y) ∧
      (k.val = 13 → r.pass = true → runsTo (.bootStepEnd k i r) s fun t => t.power = { s.power with st := .run } ∧
        t.flag F.bootStatusRundone = true ∧ t.getF F.pwrStatusState = 2 ∧ t.flag F.bootStatusTrial = false ∧
        newest t ldBootDone 13 0))) ∧
  (∀ s : State, s.works = true →
    (∀ i ∈ ([(.fwErase, 1), (.fwWrite, 2), (.fwVerify, 3), (.fwActivate, 4), (.fwRaisesvn, 5), (.fwClearalt, 6),
        (.fwShutdown, 7)] : List (Instr × Nat)),
      (∀ u, s.regRefused (regOr F.fwCmdOp.off) i.2 = some u → exec i.1 s = .next (left s u)) ∧
      (s.regRefused (regOr F.fwCmdOp.off) i.2 = none →
        (s.flag F.fwStatusDone = false ∨ s.flag F.bootStatusRundone = false →
          exec i.1 s = .next (left s (s.rejected F.fwCmdOp))) ∧
        (s.flag F.fwStatusDone = true → s.flag F.bootStatusRundone = true →
          runsTo i.1 s fun t => fwBegun s t i.2))) ∧
    (∀ fe : Bool, fwActs s fe ∧ (s.boot.fw = 0 → exec (.fwCommandDone fe) s = .next s) ∧
      (2 ≤ s.boot.fw → s.boot.fw ≤ 8 → runsTo (.fwCommandDone fe) s fun t => fwEnded s t fe)) ∧
    (∀ t : BitVec 8,
      (∀ u, s.regRefused (regOr F.bistCmdTarget.off) t.toNat = some u → exec (.bistCommand t) s = .next (left s u)) ∧
      (s.regRefused (regOr F.bistCmdTarget.off) t.toNat = none →
        (¬bistMay s t.toNat → exec (.bistCommand t) s = .next (left s (s.setF F.bistStatusResult 2))) ∧
        (bistMay s t.toNat → runsTo (.bistCommand t) s fun u =>
          u = { s with regs := u.regs, boot.bist := t.toNat + 1 } ∧ u.flag F.bistStatusDone = false ∧
          u.readyDie (targetCluster t.toNat / 8) (rdCluster + targetCluster t.toNat % 8) = false))) ∧
    (∀ (m e a : Word64) (ok : Bool) (x : Nat), (s.boot.bist = 0 → exec (.bistCommandDone m e a ok) s = .next s) ∧
      (s.boot.bist = x + 1 → x < 128 →
        (m = e → x % 32 < 16 ∨ ok = true → runsTo (.bistCommandDone m e a ok) s fun t =>
          bistPassed s t (targetCluster x) ∧ t.getF F.bistMisrMisr = m.toNat) ∧
        (m ≠ e ∨ (16 ≤ x % 32 ∧ ok = false) → runsTo (.bistCommandDone m e a ok) s fun t => bistFailed s t x))))
end

