-- ==== Sys2Proof/Laws/Store.lean ====
section
/-! SUPPORT. What reading and writing a sparse table do, and that every table and byte memory keeps its
canonical form. -/
namespace Sys2Proof.Machine

variable {α : Type}

theorem tget_tins_same (d : α) (t : Tbl α) (k : Nat) (v : α) : tget d (tins t k v) k = v := by
  induction t with
  | nil => simp [tins, tget]
  | cons e r ih =>
    obtain ⟨k', v'⟩ := e
    unfold tins
    split
    · simp [tget]
    · split
      · simp [tget]
      · rename_i h; simp [tget, h, ih]

theorem tget_tins_ne (d : α) (t : Tbl α) {j k : Nat} (v : α) (h : j ≠ k) :
    tget d (tins t k v) j = tget d t j := by
  induction t with
  | nil => simp [tins, tget, h]
  | cons e r ih =>
    obtain ⟨k', v'⟩ := e
    unfold tins
    split
    · simp [tget, h]
    · split
      · subst_vars; simp [tget, h]
      · simp only [tget, ih]

theorem tget_filter_same (d : α) (t : Tbl α) (k : Nat) : tget d (t.filter fun e => e.1 != k) k = d := by
  induction t with
  | nil => rfl
  | cons e r ih =>
    by_cases h : e.1 = k
    · simp [h, ih]
    · simp [h, tget, ih, Ne.symm h]

theorem tget_filter_keep (d : α) (t : Tbl α) (p : Nat → Bool) {j : Nat} (h : p j = true) :
    tget d (t.filter fun e => p e.1) j = tget d t j := by
  induction t with
  | nil => rfl
  | cons e r ih =>
    obtain ⟨k, v⟩ := e
    by_cases hk : p k = true
    · simp [hk, tget, ih]
    · have : j ≠ k := fun e => hk (e ▸ h)
      simp [hk, tget, ih, this]

variable [DecidableEq α]

/-- A value put in a table is the one it holds there. -/
@[simp] theorem tget_tput_same (d : α) (t : Tbl α) (k : Nat) (v : α) : tget d (tput d t k v) k = v := by
  unfold tput
  split
  · rename_i h; rw [h]; exact tget_filter_same d t k
  · exact tget_tins_same d t k v

/-- Every other key holds what it held. -/
theorem tget_tput_ne (d : α) {e : α} (t : Tbl α) {j k : Nat} (v : α) (h : j ≠ k) :
    tget d (tput e t k v) j = tget d t j := by
  unfold tput
  split
  · exact tget_filter_keep d t (fun x => x != k) (by simpa using h)
  · exact tget_tins_ne d t v h

theorem tget_tput (d : α) (t : Tbl α) (j k : Nat) (v : α) :
    tget d (tput d t k v) j = if j = k then v else tget d t j := by
  split
  · subst_vars; simp
  · exact tget_tput_ne d t v ‹_›

/-! ### The canonical form -/

omit [DecidableEq α] in
theorem tsorted_mono {t : Tbl α} {a b : Nat} (h : a ≤ b) (hs : tsorted b t = true) : tsorted a t = true := by
  cases t with
  | nil => rfl
  | cons e r =>
    simp only [tsorted, Bool.and_eq_true, decide_eq_true_eq] at hs ⊢
    exact ⟨h.trans hs.1, hs.2⟩

omit [DecidableEq α] in
theorem tsorted_filter (p : Nat × α → Bool) (t : Tbl α) (b : Nat) (hs : tsorted b t = true) :
    tsorted b (t.filter p) = true := by
  induction t generalizing b with
  | nil => rfl
  | cons e r ih =>
    simp only [tsorted, Bool.and_eq_true, decide_eq_true_eq] at hs
    rw [List.filter_cons]
    split
    · simp only [tsorted, Bool.and_eq_true, decide_eq_true_eq]
      exact ⟨hs.1, ih _ hs.2⟩
    · exact ih _ (tsorted_mono (by omega) hs.2)

omit [DecidableEq α] in
theorem tsorted_tins (t : Tbl α) (b k : Nat) (v : α) (hb : b ≤ k) (hs : tsorted b t = true) :
    tsorted b (tins t k v) = true := by
  induction t generalizing b with
  | nil => simp [tins, tsorted, hb]
  | cons e r ih =>
    obtain ⟨k', v'⟩ := e
    simp only [tsorted, Bool.and_eq_true, decide_eq_true_eq] at hs
    unfold tins
    split
    · simp only [tsorted, Bool.and_eq_true, decide_eq_true_eq]
      exact ⟨hb, by omega, hs.2⟩
    · split
      · subst_vars
        simp only [tsorted, Bool.and_eq_true, decide_eq_true_eq]
        exact hs
      · simp only [tsorted, Bool.and_eq_true, decide_eq_true_eq]
        exact ⟨hs.1, ih _ (by omega) hs.2⟩

omit [DecidableEq α] in
theorem mem_tins {t : Tbl α} {k : Nat} {v : α} {e : Nat × α} (h : e ∈ tins t k v) : e = (k, v) ∨ e ∈ t := by
  induction t with
  | nil => simpa [tins] using h
  | cons f r ih =>
    obtain ⟨k', v'⟩ := f
    unfold tins at h
    split at h
    · simpa using h
    · split at h
      · simp only [List.mem_cons] at h ⊢; tauto
      · simp only [List.mem_cons] at h ⊢
        rcases h with h | h
        · exact .inr (.inl h)
        · rcases ih h with h | h
          · exact .inl h
          · exact .inr (.inr h)

theorem twf_filter (d : α) (p : Nat × α → Bool) (t : Tbl α) (h : twf d t = true) : twf d (t.filter p) = true := by
  simp only [twf, Bool.and_eq_true, List.all_eq_true] at h ⊢
  exact ⟨tsorted_filter p t 0 h.1, fun e he => h.2 e (List.mem_of_mem_filter he)⟩

/-- Putting a value keeps a table's canonical form. -/
theorem twf_tput (d : α) (t : Tbl α) (k : Nat) (v : α) (h : twf d t = true) : twf d (tput d t k v) = true := by
  unfold tput
  split
  · exact twf_filter d _ t h
  · simp only [twf, Bool.and_eq_true, List.all_eq_true, decide_eq_true_eq] at h ⊢
    refine ⟨tsorted_tins t 0 k v (Nat.zero_le k) h.1, fun e he => ?_⟩
    rcases mem_tins he with rfl | he
    · assumption
    · exact h.2 e he

theorem twf_tmod (d : α) (t : Tbl α) (k : Nat) (f : α → α) (h : twf d t = true) :
    twf d (tmod d t k f) = true := twf_tput d t k _ h

theorem twf_tclear (d : α) (t : Tbl α) (lo n : Nat) (h : twf d t = true) : twf d (tclear t lo n) = true :=
  twf_filter d _ t h

/-- Writing bytes keeps a memory's canonical form. -/
theorem twf_writeBytes (d : Byte) (m : Bytes) (a : Nat) (bs : List Byte) (h : twf d m = true) :
    twf d (writeBytes d m a bs) = true := by
  induction bs generalizing m a with
  | nil => exact h
  | cons b r ih => exact ih _ _ (twf_tput d m a b h)

/-! ### Reading what was written -/

@[simp] theorem readBytes_length (d : Byte) (m : Bytes) (a n : Nat) : (readBytes d m a n).length = n := by
  induction n generalizing a with
  | zero => rfl
  | succ n ih => simp [readBytes, ih]

/-- A write leaves every byte outside it alone. -/
theorem tget_writeBytes_out (d : Byte) (m : Bytes) (a : Nat) (bs : List Byte) {j : Nat}
    (h : j < a ∨ a + bs.length ≤ j) : tget d (writeBytes d m a bs) j = tget d m j := by
  induction bs generalizing m a with
  | nil => rfl
  | cons b r ih =>
    simp only [List.length_cons] at h
    rw [writeBytes, ih _ _ (by omega), tget_tput_ne _ _ _ (by omega)]

/-- A read of what a write covered gives what it wrote. -/
theorem readBytes_writeBytes (d : Byte) (m : Bytes) (a : Nat) (bs : List Byte) :
    readBytes d (writeBytes d m a bs) a bs.length = bs := by
  induction bs generalizing m a with
  | nil => rfl
  | cons b r ih =>
    simp only [List.length_cons, readBytes, writeBytes]
    rw [ih, tget_writeBytes_out _ _ _ _ (by omega), tget_tput_same]

theorem readBytes_congr (d : Byte) (m m' : Bytes) (a n : Nat)
    (h : ∀ j, a ≤ j → j < a + n → tget d m j = tget d m' j) : readBytes d m a n = readBytes d m' a n := by
  induction n generalizing a with
  | zero => rfl
  | succ n ih =>
    rw [readBytes, readBytes, h a (le_refl a) (by omega), ih (a + 1) fun j h1 h2 => h j (by omega) (by omega)]

/-- A read beside what a write covered gives what it gave. -/
theorem readBytes_writeBytes_out (d : Byte) (m : Bytes) (a : Nat) (bs : List Byte) (b n : Nat)
    (h : b + n ≤ a ∨ a + bs.length ≤ b) : readBytes d (writeBytes d m a bs) b n = readBytes d m b n :=
  readBytes_congr d _ _ b n fun j h1 h2 => tget_writeBytes_out d m a bs (by omega)

end Sys2Proof.Machine
end

