-- ==== Sys2Proof/Laws/State.lean ====
section
/-! SUPPORT. One lemma per field per update of the state, so that no proof unfolds a record update; and what
reading a register field gives after another was set. -/
namespace Sys2Proof.Machine

variable (s : State)
@[simp] theorem State.setF_pending (f : Fld) (v : Nat) : (s.setF f v).pending = s.pending := rfl
@[simp] theorem State.setF_freeCtr (f : Fld) (v : Nat) : (s.setF f v).freeCtr = s.freeCtr := rfl
@[simp] theorem State.setF_out (f : Fld) (v : Nat) : (s.setF f v).out = s.out := rfl
@[simp] theorem State.setF_mem (f : Fld) (v : Nat) : (s.setF f v).mem = s.mem := rfl
@[simp] theorem State.setF_eng (f : Fld) (v : Nat) : (s.setF f v).eng = s.eng := rfl
@[simp] theorem State.setF_sched (f : Fld) (v : Nat) : (s.setF f v).sched = s.sched := rfl
@[simp] theorem State.setF_train (f : Fld) (v : Nat) : (s.setF f v).train = s.train := rfl
@[simp] theorem State.setF_smithy (f : Fld) (v : Nat) : (s.setF f v).smithy = s.smithy := rfl
@[simp] theorem State.setF_col (f : Fld) (v : Nat) : (s.setF f v).col = s.col := rfl
@[simp] theorem State.setF_rmt (f : Fld) (v : Nat) : (s.setF f v).rmt = s.rmt := rfl
@[simp] theorem State.setF_ports (f : Fld) (v : Nat) : (s.setF f v).ports = s.ports := rfl
@[simp] theorem State.setF_puell (f : Fld) (v : Nat) : (s.setF f v).puell = s.puell := rfl
@[simp] theorem State.setF_dies (f : Fld) (v : Nat) : (s.setF f v).dies = s.dies := rfl
@[simp] theorem State.setF_power (f : Fld) (v : Nat) : (s.setF f v).power = s.power := rfl
@[simp] theorem State.setF_loops (f : Fld) (v : Nat) : (s.setF f v).loops = s.loops := rfl
@[simp] theorem State.setF_ctxs (f : Fld) (v : Nat) : (s.setF f v).ctxs = s.ctxs := rfl
@[simp] theorem State.setF_sec (f : Fld) (v : Nat) : (s.setF f v).sec = s.sec := rfl
@[simp] theorem State.setF_res (f : Fld) (v : Nat) : (s.setF f v).res = s.res := rfl
@[simp] theorem State.setF_err (f : Fld) (v : Nat) : (s.setF f v).err = s.err := rfl
@[simp] theorem State.setF_boot (f : Fld) (v : Nat) : (s.setF f v).boot = s.boot := rfl
@[simp] theorem State.setF_live (f : Fld) (v : Nat) : (s.setF f v).live = s.live := rfl

@[simp] theorem State.setB_pending (f : Fld) (b : Bool) : (s.setB f b).pending = s.pending := rfl
@[simp] theorem State.setB_freeCtr (f : Fld) (b : Bool) : (s.setB f b).freeCtr = s.freeCtr := rfl
@[simp] theorem State.setB_out (f : Fld) (b : Bool) : (s.setB f b).out = s.out := rfl
@[simp] theorem State.setB_mem (f : Fld) (b : Bool) : (s.setB f b).mem = s.mem := rfl
@[simp] theorem State.setB_eng (f : Fld) (b : Bool) : (s.setB f b).eng = s.eng := rfl
@[simp] theorem State.setB_sched (f : Fld) (b : Bool) : (s.setB f b).sched = s.sched := rfl
@[simp] theorem State.setB_train (f : Fld) (b : Bool) : (s.setB f b).train = s.train := rfl
@[simp] theorem State.setB_smithy (f : Fld) (b : Bool) : (s.setB f b).smithy = s.smithy := rfl
@[simp] theorem State.setB_col (f : Fld) (b : Bool) : (s.setB f b).col = s.col := rfl
@[simp] theorem State.setB_rmt (f : Fld) (b : Bool) : (s.setB f b).rmt = s.rmt := rfl
@[simp] theorem State.setB_ports (f : Fld) (b : Bool) : (s.setB f b).ports = s.ports := rfl
@[simp] theorem State.setB_puell (f : Fld) (b : Bool) : (s.setB f b).puell = s.puell := rfl
@[simp] theorem State.setB_dies (f : Fld) (b : Bool) : (s.setB f b).dies = s.dies := rfl
@[simp] theorem State.setB_power (f : Fld) (b : Bool) : (s.setB f b).power = s.power := rfl
@[simp] theorem State.setB_loops (f : Fld) (b : Bool) : (s.setB f b).loops = s.loops := rfl
@[simp] theorem State.setB_ctxs (f : Fld) (b : Bool) : (s.setB f b).ctxs = s.ctxs := rfl
@[simp] theorem State.setB_sec (f : Fld) (b : Bool) : (s.setB f b).sec = s.sec := rfl
@[simp] theorem State.setB_res (f : Fld) (b : Bool) : (s.setB f b).res = s.res := rfl
@[simp] theorem State.setB_err (f : Fld) (b : Bool) : (s.setB f b).err = s.err := rfl
@[simp] theorem State.setB_boot (f : Fld) (b : Bool) : (s.setB f b).boot = s.boot := rfl
@[simp] theorem State.setB_live (f : Fld) (b : Bool) : (s.setB f b).live = s.live := rfl

@[simp] theorem State.incF_pending (f : Fld) (n : Nat) : (s.incF f n).pending = s.pending := rfl
@[simp] theorem State.incF_freeCtr (f : Fld) (n : Nat) : (s.incF f n).freeCtr = s.freeCtr := rfl
@[simp] theorem State.incF_out (f : Fld) (n : Nat) : (s.incF f n).out = s.out := rfl
@[simp] theorem State.incF_mem (f : Fld) (n : Nat) : (s.incF f n).mem = s.mem := rfl
@[simp] theorem State.incF_eng (f : Fld) (n : Nat) : (s.incF f n).eng = s.eng := rfl
@[simp] theorem State.incF_sched (f : Fld) (n : Nat) : (s.incF f n).sched = s.sched := rfl
@[simp] theorem State.incF_train (f : Fld) (n : Nat) : (s.incF f n).train = s.train := rfl
@[simp] theorem State.incF_smithy (f : Fld) (n : Nat) : (s.incF f n).smithy = s.smithy := rfl
@[simp] theorem State.incF_col (f : Fld) (n : Nat) : (s.incF f n).col = s.col := rfl
@[simp] theorem State.incF_rmt (f : Fld) (n : Nat) : (s.incF f n).rmt = s.rmt := rfl
@[simp] theorem State.incF_ports (f : Fld) (n : Nat) : (s.incF f n).ports = s.ports := rfl
@[simp] theorem State.incF_puell (f : Fld) (n : Nat) : (s.incF f n).puell = s.puell := rfl
@[simp] theorem State.incF_dies (f : Fld) (n : Nat) : (s.incF f n).dies = s.dies := rfl
@[simp] theorem State.incF_power (f : Fld) (n : Nat) : (s.incF f n).power = s.power := rfl
@[simp] theorem State.incF_loops (f : Fld) (n : Nat) : (s.incF f n).loops = s.loops := rfl
@[simp] theorem State.incF_ctxs (f : Fld) (n : Nat) : (s.incF f n).ctxs = s.ctxs := rfl
@[simp] theorem State.incF_sec (f : Fld) (n : Nat) : (s.incF f n).sec = s.sec := rfl
@[simp] theorem State.incF_res (f : Fld) (n : Nat) : (s.incF f n).res = s.res := rfl
@[simp] theorem State.incF_err (f : Fld) (n : Nat) : (s.incF f n).err = s.err := rfl
@[simp] theorem State.incF_boot (f : Fld) (n : Nat) : (s.incF f n).boot = s.boot := rfl
@[simp] theorem State.incF_live (f : Fld) (n : Nat) : (s.incF f n).live = s.live := rfl

@[simp] theorem State.clrF_pending (f : Fld) : (s.clrF f).pending = s.pending := rfl
@[simp] theorem State.clrF_freeCtr (f : Fld) : (s.clrF f).freeCtr = s.freeCtr := rfl
@[simp] theorem State.clrF_out (f : Fld) : (s.clrF f).out = s.out := rfl
@[simp] theorem State.clrF_mem (f : Fld) : (s.clrF f).mem = s.mem := rfl
@[simp] theorem State.clrF_eng (f : Fld) : (s.clrF f).eng = s.eng := rfl
@[simp] theorem State.clrF_sched (f : Fld) : (s.clrF f).sched = s.sched := rfl
@[simp] theorem State.clrF_train (f : Fld) : (s.clrF f).train = s.train := rfl
@[simp] theorem State.clrF_smithy (f : Fld) : (s.clrF f).smithy = s.smithy := rfl
@[simp] theorem State.clrF_col (f : Fld) : (s.clrF f).col = s.col := rfl
@[simp] theorem State.clrF_rmt (f : Fld) : (s.clrF f).rmt = s.rmt := rfl
@[simp] theorem State.clrF_ports (f : Fld) : (s.clrF f).ports = s.ports := rfl
@[simp] theorem State.clrF_puell (f : Fld) : (s.clrF f).puell = s.puell := rfl
@[simp] theorem State.clrF_dies (f : Fld) : (s.clrF f).dies = s.dies := rfl
@[simp] theorem State.clrF_power (f : Fld) : (s.clrF f).power = s.power := rfl
@[simp] theorem State.clrF_loops (f : Fld) : (s.clrF f).loops = s.loops := rfl
@[simp] theorem State.clrF_ctxs (f : Fld) : (s.clrF f).ctxs = s.ctxs := rfl
@[simp] theorem State.clrF_sec (f : Fld) : (s.clrF f).sec = s.sec := rfl
@[simp] theorem State.clrF_res (f : Fld) : (s.clrF f).res = s.res := rfl
@[simp] theorem State.clrF_err (f : Fld) : (s.clrF f).err = s.err := rfl
@[simp] theorem State.clrF_boot (f : Fld) : (s.clrF f).boot = s.boot := rfl
@[simp] theorem State.clrF_live (f : Fld) : (s.clrF f).live = s.live := rfl

@[simp] theorem State.setBitF_pending (f : Fld) (i : Nat) (b : Bool) : (s.setBitF f i b).pending = s.pending := rfl
@[simp] theorem State.setBitF_freeCtr (f : Fld) (i : Nat) (b : Bool) : (s.setBitF f i b).freeCtr = s.freeCtr := rfl
@[simp] theorem State.setBitF_out (f : Fld) (i : Nat) (b : Bool) : (s.setBitF f i b).out = s.out := rfl
@[simp] theorem State.setBitF_mem (f : Fld) (i : Nat) (b : Bool) : (s.setBitF f i b).mem = s.mem := rfl
@[simp] theorem State.setBitF_eng (f : Fld) (i : Nat) (b : Bool) : (s.setBitF f i b).eng = s.eng := rfl
@[simp] theorem State.setBitF_sched (f : Fld) (i : Nat) (b : Bool) : (s.setBitF f i b).sched = s.sched := rfl
@[simp] theorem State.setBitF_train (f : Fld) (i : Nat) (b : Bool) : (s.setBitF f i b).train = s.train := rfl
@[simp] theorem State.setBitF_smithy (f : Fld) (i : Nat) (b : Bool) : (s.setBitF f i b).smithy = s.smithy := rfl
@[simp] theorem State.setBitF_col (f : Fld) (i : Nat) (b : Bool) : (s.setBitF f i b).col = s.col := rfl
@[simp] theorem State.setBitF_rmt (f : Fld) (i : Nat) (b : Bool) : (s.setBitF f i b).rmt = s.rmt := rfl
@[simp] theorem State.setBitF_ports (f : Fld) (i : Nat) (b : Bool) : (s.setBitF f i b).ports = s.ports := rfl
@[simp] theorem State.setBitF_puell (f : Fld) (i : Nat) (b : Bool) : (s.setBitF f i b).puell = s.puell := rfl
@[simp] theorem State.setBitF_dies (f : Fld) (i : Nat) (b : Bool) : (s.setBitF f i b).dies = s.dies := rfl
@[simp] theorem State.setBitF_power (f : Fld) (i : Nat) (b : Bool) : (s.setBitF f i b).power = s.power := rfl
@[simp] theorem State.setBitF_loops (f : Fld) (i : Nat) (b : Bool) : (s.setBitF f i b).loops = s.loops := rfl
@[simp] theorem State.setBitF_ctxs (f : Fld) (i : Nat) (b : Bool) : (s.setBitF f i b).ctxs = s.ctxs := rfl
@[simp] theorem State.setBitF_sec (f : Fld) (i : Nat) (b : Bool) : (s.setBitF f i b).sec = s.sec := rfl
@[simp] theorem State.setBitF_res (f : Fld) (i : Nat) (b : Bool) : (s.setBitF f i b).res = s.res := rfl
@[simp] theorem State.setBitF_err (f : Fld) (i : Nat) (b : Bool) : (s.setBitF f i b).err = s.err := rfl
@[simp] theorem State.setBitF_boot (f : Fld) (i : Nat) (b : Bool) : (s.setBitF f i b).boot = s.boot := rfl
@[simp] theorem State.setBitF_live (f : Fld) (i : Nat) (b : Bool) : (s.setBitF f i b).live = s.live := rfl

@[simp] theorem State.emit_pending (o : Out) : (s.emit o).pending = s.pending := rfl
@[simp] theorem State.emit_freeCtr (o : Out) : (s.emit o).freeCtr = s.freeCtr := rfl
@[simp] theorem State.emit_regs (o : Out) : (s.emit o).regs = s.regs := rfl
@[simp] theorem State.emit_mem (o : Out) : (s.emit o).mem = s.mem := rfl
@[simp] theorem State.emit_eng (o : Out) : (s.emit o).eng = s.eng := rfl
@[simp] theorem State.emit_sched (o : Out) : (s.emit o).sched = s.sched := rfl
@[simp] theorem State.emit_train (o : Out) : (s.emit o).train = s.train := rfl
@[simp] theorem State.emit_smithy (o : Out) : (s.emit o).smithy = s.smithy := rfl
@[simp] theorem State.emit_col (o : Out) : (s.emit o).col = s.col := rfl
@[simp] theorem State.emit_rmt (o : Out) : (s.emit o).rmt = s.rmt := rfl
@[simp] theorem State.emit_ports (o : Out) : (s.emit o).ports = s.ports := rfl
@[simp] theorem State.emit_puell (o : Out) : (s.emit o).puell = s.puell := rfl
@[simp] theorem State.emit_dies (o : Out) : (s.emit o).dies = s.dies := rfl
@[simp] theorem State.emit_power (o : Out) : (s.emit o).power = s.power := rfl
@[simp] theorem State.emit_loops (o : Out) : (s.emit o).loops = s.loops := rfl
@[simp] theorem State.emit_ctxs (o : Out) : (s.emit o).ctxs = s.ctxs := rfl
@[simp] theorem State.emit_sec (o : Out) : (s.emit o).sec = s.sec := rfl
@[simp] theorem State.emit_res (o : Out) : (s.emit o).res = s.res := rfl
@[simp] theorem State.emit_err (o : Out) : (s.emit o).err = s.err := rfl
@[simp] theorem State.emit_boot (o : Out) : (s.emit o).boot = s.boot := rfl
@[simp] theorem State.emit_getF (o : Out) (fld : Fld) : (s.emit o).getF fld = s.getF fld := rfl
@[simp] theorem State.emit_fatal (o : Out) : (s.emit o).fatal = s.fatal := rfl
@[simp] theorem State.emit_live (o : Out) : (s.emit o).live = s.live := rfl

@[simp] theorem State.setCx_pending (x : Nat) (c : CtxSt) : (s.setCx x c).pending = s.pending := rfl
@[simp] theorem State.setCx_freeCtr (x : Nat) (c : CtxSt) : (s.setCx x c).freeCtr = s.freeCtr := rfl
@[simp] theorem State.setCx_out (x : Nat) (c : CtxSt) : (s.setCx x c).out = s.out := rfl
@[simp] theorem State.setCx_regs (x : Nat) (c : CtxSt) : (s.setCx x c).regs = s.regs := rfl
@[simp] theorem State.setCx_mem (x : Nat) (c : CtxSt) : (s.setCx x c).mem = s.mem := rfl
@[simp] theorem State.setCx_eng (x : Nat) (c : CtxSt) : (s.setCx x c).eng = s.eng := rfl
@[simp] theorem State.setCx_sched (x : Nat) (c : CtxSt) : (s.setCx x c).sched = s.sched := rfl
@[simp] theorem State.setCx_train (x : Nat) (c : CtxSt) : (s.setCx x c).train = s.train := rfl
@[simp] theorem State.setCx_smithy (x : Nat) (c : CtxSt) : (s.setCx x c).smithy = s.smithy := rfl
@[simp] theorem State.setCx_col (x : Nat) (c : CtxSt) : (s.setCx x c).col = s.col := rfl
@[simp] theorem State.setCx_rmt (x : Nat) (c : CtxSt) : (s.setCx x c).rmt = s.rmt := rfl
@[simp] theorem State.setCx_ports (x : Nat) (c : CtxSt) : (s.setCx x c).ports = s.ports := rfl
@[simp] theorem State.setCx_puell (x : Nat) (c : CtxSt) : (s.setCx x c).puell = s.puell := rfl
@[simp] theorem State.setCx_dies (x : Nat) (c : CtxSt) : (s.setCx x c).dies = s.dies := rfl
@[simp] theorem State.setCx_power (x : Nat) (c : CtxSt) : (s.setCx x c).power = s.power := rfl
@[simp] theorem State.setCx_loops (x : Nat) (c : CtxSt) : (s.setCx x c).loops = s.loops := rfl
@[simp] theorem State.setCx_sec (x : Nat) (c : CtxSt) : (s.setCx x c).sec = s.sec := rfl
@[simp] theorem State.setCx_res (x : Nat) (c : CtxSt) : (s.setCx x c).res = s.res := rfl
@[simp] theorem State.setCx_err (x : Nat) (c : CtxSt) : (s.setCx x c).err = s.err := rfl
@[simp] theorem State.setCx_boot (x : Nat) (c : CtxSt) : (s.setCx x c).boot = s.boot := rfl
@[simp] theorem State.setCx_getF (x : Nat) (c : CtxSt) (fld : Fld) : (s.setCx x c).getF fld = s.getF fld := rfl
@[simp] theorem State.setCx_fatal (x : Nat) (c : CtxSt) : (s.setCx x c).fatal = s.fatal := rfl
@[simp] theorem State.setCx_live (x : Nat) (c : CtxSt) : (s.setCx x c).live = s.live := rfl

@[simp] theorem State.setMat_pending (i : Nat) (m : MatEng) : (s.setMat i m).pending = s.pending := rfl
@[simp] theorem State.setMat_freeCtr (i : Nat) (m : MatEng) : (s.setMat i m).freeCtr = s.freeCtr := rfl
@[simp] theorem State.setMat_out (i : Nat) (m : MatEng) : (s.setMat i m).out = s.out := rfl
@[simp] theorem State.setMat_regs (i : Nat) (m : MatEng) : (s.setMat i m).regs = s.regs := rfl
@[simp] theorem State.setMat_mem (i : Nat) (m : MatEng) : (s.setMat i m).mem = s.mem := rfl
@[simp] theorem State.setMat_sched (i : Nat) (m : MatEng) : (s.setMat i m).sched = s.sched := rfl
@[simp] theorem State.setMat_train (i : Nat) (m : MatEng) : (s.setMat i m).train = s.train := rfl
@[simp] theorem State.setMat_smithy (i : Nat) (m : MatEng) : (s.setMat i m).smithy = s.smithy := rfl
@[simp] theorem State.setMat_col (i : Nat) (m : MatEng) : (s.setMat i m).col = s.col := rfl
@[simp] theorem State.setMat_rmt (i : Nat) (m : MatEng) : (s.setMat i m).rmt = s.rmt := rfl
@[simp] theorem State.setMat_ports (i : Nat) (m : MatEng) : (s.setMat i m).ports = s.ports := rfl
@[simp] theorem State.setMat_puell (i : Nat) (m : MatEng) : (s.setMat i m).puell = s.puell := rfl
@[simp] theorem State.setMat_dies (i : Nat) (m : MatEng) : (s.setMat i m).dies = s.dies := rfl
@[simp] theorem State.setMat_power (i : Nat) (m : MatEng) : (s.setMat i m).power = s.power := rfl
@[simp] theorem State.setMat_loops (i : Nat) (m : MatEng) : (s.setMat i m).loops = s.loops := rfl
@[simp] theorem State.setMat_ctxs (i : Nat) (m : MatEng) : (s.setMat i m).ctxs = s.ctxs := rfl
@[simp] theorem State.setMat_sec (i : Nat) (m : MatEng) : (s.setMat i m).sec = s.sec := rfl
@[simp] theorem State.setMat_res (i : Nat) (m : MatEng) : (s.setMat i m).res = s.res := rfl
@[simp] theorem State.setMat_err (i : Nat) (m : MatEng) : (s.setMat i m).err = s.err := rfl
@[simp] theorem State.setMat_boot (i : Nat) (m : MatEng) : (s.setMat i m).boot = s.boot := rfl
@[simp] theorem State.setMat_getF (i : Nat) (m : MatEng) (fld : Fld) : (s.setMat i m).getF fld = s.getF fld := rfl
@[simp] theorem State.setMat_fatal (i : Nat) (m : MatEng) : (s.setMat i m).fatal = s.fatal := rfl
@[simp] theorem State.setMat_live (i : Nat) (m : MatEng) : (s.setMat i m).live = s.live := rfl

@[simp] theorem State.setVec_pending (g : Nat) (v : VecEng) : (s.setVec g v).pending = s.pending := rfl
@[simp] theorem State.setVec_freeCtr (g : Nat) (v : VecEng) : (s.setVec g v).freeCtr = s.freeCtr := rfl
@[simp] theorem State.setVec_out (g : Nat) (v : VecEng) : (s.setVec g v).out = s.out := rfl
@[simp] theorem State.setVec_regs (g : Nat) (v : VecEng) : (s.setVec g v).regs = s.regs := rfl
@[simp] theorem State.setVec_mem (g : Nat) (v : VecEng) : (s.setVec g v).mem = s.mem := rfl
@[simp] theorem State.setVec_sched (g : Nat) (v : VecEng) : (s.setVec g v).sched = s.sched := rfl
@[simp] theorem State.setVec_train (g : Nat) (v : VecEng) : (s.setVec g v).train = s.train := rfl
@[simp] theorem State.setVec_smithy (g : Nat) (v : VecEng) : (s.setVec g v).smithy = s.smithy := rfl
@[simp] theorem State.setVec_col (g : Nat) (v : VecEng) : (s.setVec g v).col = s.col := rfl
@[simp] theorem State.setVec_rmt (g : Nat) (v : VecEng) : (s.setVec g v).rmt = s.rmt := rfl
@[simp] theorem State.setVec_ports (g : Nat) (v : VecEng) : (s.setVec g v).ports = s.ports := rfl
@[simp] theorem State.setVec_puell (g : Nat) (v : VecEng) : (s.setVec g v).puell = s.puell := rfl
@[simp] theorem State.setVec_dies (g : Nat) (v : VecEng) : (s.setVec g v).dies = s.dies := rfl
@[simp] theorem State.setVec_power (g : Nat) (v : VecEng) : (s.setVec g v).power = s.power := rfl
@[simp] theorem State.setVec_loops (g : Nat) (v : VecEng) : (s.setVec g v).loops = s.loops := rfl
@[simp] theorem State.setVec_ctxs (g : Nat) (v : VecEng) : (s.setVec g v).ctxs = s.ctxs := rfl
@[simp] theorem State.setVec_sec (g : Nat) (v : VecEng) : (s.setVec g v).sec = s.sec := rfl
@[simp] theorem State.setVec_res (g : Nat) (v : VecEng) : (s.setVec g v).res = s.res := rfl
@[simp] theorem State.setVec_err (g : Nat) (v : VecEng) : (s.setVec g v).err = s.err := rfl
@[simp] theorem State.setVec_boot (g : Nat) (v : VecEng) : (s.setVec g v).boot = s.boot := rfl
@[simp] theorem State.setVec_getF (g : Nat) (v : VecEng) (fld : Fld) : (s.setVec g v).getF fld = s.getF fld := rfl
@[simp] theorem State.setVec_fatal (g : Nat) (v : VecEng) : (s.setVec g v).fatal = s.fatal := rfl
@[simp] theorem State.setVec_live (g : Nat) (v : VecEng) : (s.setVec g v).live = s.live := rfl

@[simp] theorem State.setCore_pending (g : Nat) (c : CoreSt) : (s.setCore g c).pending = s.pending := rfl
@[simp] theorem State.setCore_freeCtr (g : Nat) (c : CoreSt) : (s.setCore g c).freeCtr = s.freeCtr := rfl
@[simp] theorem State.setCore_out (g : Nat) (c : CoreSt) : (s.setCore g c).out = s.out := rfl
@[simp] theorem State.setCore_regs (g : Nat) (c : CoreSt) : (s.setCore g c).regs = s.regs := rfl
@[simp] theorem State.setCore_mem (g : Nat) (c : CoreSt) : (s.setCore g c).mem = s.mem := rfl
@[simp] theorem State.setCore_sched (g : Nat) (c : CoreSt) : (s.setCore g c).sched = s.sched := rfl
@[simp] theorem State.setCore_train (g : Nat) (c : CoreSt) : (s.setCore g c).train = s.train := rfl
@[simp] theorem State.setCore_smithy (g : Nat) (c : CoreSt) : (s.setCore g c).smithy = s.smithy := rfl
@[simp] theorem State.setCore_col (g : Nat) (c : CoreSt) : (s.setCore g c).col = s.col := rfl
@[simp] theorem State.setCore_rmt (g : Nat) (c : CoreSt) : (s.setCore g c).rmt = s.rmt := rfl
@[simp] theorem State.setCore_ports (g : Nat) (c : CoreSt) : (s.setCore g c).ports = s.ports := rfl
@[simp] theorem State.setCore_puell (g : Nat) (c : CoreSt) : (s.setCore g c).puell = s.puell := rfl
@[simp] theorem State.setCore_dies (g : Nat) (c : CoreSt) : (s.setCore g c).dies = s.dies := rfl
@[simp] theorem State.setCore_power (g : Nat) (c : CoreSt) : (s.setCore g c).power = s.power := rfl
@[simp] theorem State.setCore_loops (g : Nat) (c : CoreSt) : (s.setCore g c).loops = s.loops := rfl
@[simp] theorem State.setCore_ctxs (g : Nat) (c : CoreSt) : (s.setCore g c).ctxs = s.ctxs := rfl
@[simp] theorem State.setCore_sec (g : Nat) (c : CoreSt) : (s.setCore g c).sec = s.sec := rfl
@[simp] theorem State.setCore_res (g : Nat) (c : CoreSt) : (s.setCore g c).res = s.res := rfl
@[simp] theorem State.setCore_err (g : Nat) (c : CoreSt) : (s.setCore g c).err = s.err := rfl
@[simp] theorem State.setCore_boot (g : Nat) (c : CoreSt) : (s.setCore g c).boot = s.boot := rfl
@[simp] theorem State.setCore_getF (g : Nat) (c : CoreSt) (fld : Fld) : (s.setCore g c).getF fld = s.getF fld := rfl
@[simp] theorem State.setCore_fatal (g : Nat) (c : CoreSt) : (s.setCore g c).fatal = s.fatal := rfl
@[simp] theorem State.setCore_live (g : Nat) (c : CoreSt) : (s.setCore g c).live = s.live := rfl

@[simp] theorem State.setPl_pending (l : Nat) (k : PlLink) : (s.setPl l k).pending = s.pending := rfl
@[simp] theorem State.setPl_freeCtr (l : Nat) (k : PlLink) : (s.setPl l k).freeCtr = s.freeCtr := rfl
@[simp] theorem State.setPl_out (l : Nat) (k : PlLink) : (s.setPl l k).out = s.out := rfl
@[simp] theorem State.setPl_regs (l : Nat) (k : PlLink) : (s.setPl l k).regs = s.regs := rfl
@[simp] theorem State.setPl_mem (l : Nat) (k : PlLink) : (s.setPl l k).mem = s.mem := rfl
@[simp] theorem State.setPl_eng (l : Nat) (k : PlLink) : (s.setPl l k).eng = s.eng := rfl
@[simp] theorem State.setPl_sched (l : Nat) (k : PlLink) : (s.setPl l k).sched = s.sched := rfl
@[simp] theorem State.setPl_train (l : Nat) (k : PlLink) : (s.setPl l k).train = s.train := rfl
@[simp] theorem State.setPl_smithy (l : Nat) (k : PlLink) : (s.setPl l k).smithy = s.smithy := rfl
@[simp] theorem State.setPl_col (l : Nat) (k : PlLink) : (s.setPl l k).col = s.col := rfl
@[simp] theorem State.setPl_rmt (l : Nat) (k : PlLink) : (s.setPl l k).rmt = s.rmt := rfl
@[simp] theorem State.setPl_ports (l : Nat) (k : PlLink) : (s.setPl l k).ports = s.ports := rfl
@[simp] theorem State.setPl_dies (l : Nat) (k : PlLink) : (s.setPl l k).dies = s.dies := rfl
@[simp] theorem State.setPl_power (l : Nat) (k : PlLink) : (s.setPl l k).power = s.power := rfl
@[simp] theorem State.setPl_loops (l : Nat) (k : PlLink) : (s.setPl l k).loops = s.loops := rfl
@[simp] theorem State.setPl_ctxs (l : Nat) (k : PlLink) : (s.setPl l k).ctxs = s.ctxs := rfl
@[simp] theorem State.setPl_sec (l : Nat) (k : PlLink) : (s.setPl l k).sec = s.sec := rfl
@[simp] theorem State.setPl_res (l : Nat) (k : PlLink) : (s.setPl l k).res = s.res := rfl
@[simp] theorem State.setPl_err (l : Nat) (k : PlLink) : (s.setPl l k).err = s.err := rfl
@[simp] theorem State.setPl_boot (l : Nat) (k : PlLink) : (s.setPl l k).boot = s.boot := rfl
@[simp] theorem State.setPl_getF (l : Nat) (k : PlLink) (fld : Fld) : (s.setPl l k).getF fld = s.getF fld := rfl
@[simp] theorem State.setPl_fatal (l : Nat) (k : PlLink) : (s.setPl l k).fatal = s.fatal := rfl
@[simp] theorem State.setPl_live (l : Nat) (k : PlLink) : (s.setPl l k).live = s.live := rfl

@[simp] theorem State.ocWrite_pending (g a : Nat) (bs : List Byte) : (s.ocWrite g a bs).pending = s.pending := rfl
@[simp] theorem State.ocWrite_freeCtr (g a : Nat) (bs : List Byte) : (s.ocWrite g a bs).freeCtr = s.freeCtr := rfl
@[simp] theorem State.ocWrite_out (g a : Nat) (bs : List Byte) : (s.ocWrite g a bs).out = s.out := rfl
@[simp] theorem State.ocWrite_regs (g a : Nat) (bs : List Byte) : (s.ocWrite g a bs).regs = s.regs := rfl
@[simp] theorem State.ocWrite_eng (g a : Nat) (bs : List Byte) : (s.ocWrite g a bs).eng = s.eng := rfl
@[simp] theorem State.ocWrite_sched (g a : Nat) (bs : List Byte) : (s.ocWrite g a bs).sched = s.sched := rfl
@[simp] theorem State.ocWrite_train (g a : Nat) (bs : List Byte) : (s.ocWrite g a bs).train = s.train := rfl
@[simp] theorem State.ocWrite_smithy (g a : Nat) (bs : List Byte) : (s.ocWrite g a bs).smithy = s.smithy := rfl
@[simp] theorem State.ocWrite_col (g a : Nat) (bs : List Byte) : (s.ocWrite g a bs).col = s.col := rfl
@[simp] theorem State.ocWrite_rmt (g a : Nat) (bs : List Byte) : (s.ocWrite g a bs).rmt = s.rmt := rfl
@[simp] theorem State.ocWrite_ports (g a : Nat) (bs : List Byte) : (s.ocWrite g a bs).ports = s.ports := rfl
@[simp] theorem State.ocWrite_puell (g a : Nat) (bs : List Byte) : (s.ocWrite g a bs).puell = s.puell := rfl
@[simp] theorem State.ocWrite_dies (g a : Nat) (bs : List Byte) : (s.ocWrite g a bs).dies = s.dies := rfl
@[simp] theorem State.ocWrite_power (g a : Nat) (bs : List Byte) : (s.ocWrite g a bs).power = s.power := rfl
@[simp] theorem State.ocWrite_loops (g a : Nat) (bs : List Byte) : (s.ocWrite g a bs).loops = s.loops := rfl
@[simp] theorem State.ocWrite_ctxs (g a : Nat) (bs : List Byte) : (s.ocWrite g a bs).ctxs = s.ctxs := rfl
@[simp] theorem State.ocWrite_sec (g a : Nat) (bs : List Byte) : (s.ocWrite g a bs).sec = s.sec := rfl
@[simp] theorem State.ocWrite_res (g a : Nat) (bs : List Byte) : (s.ocWrite g a bs).res = s.res := rfl
@[simp] theorem State.ocWrite_err (g a : Nat) (bs : List Byte) : (s.ocWrite g a bs).err = s.err := rfl
@[simp] theorem State.ocWrite_boot (g a : Nat) (bs : List Byte) : (s.ocWrite g a bs).boot = s.boot := rfl
@[simp] theorem State.ocWrite_getF (g a : Nat) (bs : List Byte) (fld : Fld) : (s.ocWrite g a bs).getF fld = s.getF fld := rfl
@[simp] theorem State.ocWrite_fatal (g a : Nat) (bs : List Byte) : (s.ocWrite g a bs).fatal = s.fatal := rfl
@[simp] theorem State.ocWrite_live (g a : Nat) (bs : List Byte) : (s.ocWrite g a bs).live = s.live := rfl

@[simp] theorem State.record_pending (c d u k n : Nat) (x p : Option Nat) (dt : Nat) : (s.record c d u k n x p dt).pending = s.pending := rfl
@[simp] theorem State.record_freeCtr (c d u k n : Nat) (x p : Option Nat) (dt : Nat) : (s.record c d u k n x p dt).freeCtr = s.freeCtr := rfl
@[simp] theorem State.record_out (c d u k n : Nat) (x p : Option Nat) (dt : Nat) : (s.record c d u k n x p dt).out = s.out := rfl
@[simp] theorem State.record_mem (c d u k n : Nat) (x p : Option Nat) (dt : Nat) : (s.record c d u k n x p dt).mem = s.mem := rfl
@[simp] theorem State.record_eng (c d u k n : Nat) (x p : Option Nat) (dt : Nat) : (s.record c d u k n x p dt).eng = s.eng := rfl
@[simp] theorem State.record_sched (c d u k n : Nat) (x p : Option Nat) (dt : Nat) : (s.record c d u k n x p dt).sched = s.sched := rfl
@[simp] theorem State.record_train (c d u k n : Nat) (x p : Option Nat) (dt : Nat) : (s.record c d u k n x p dt).train = s.train := rfl
@[simp] theorem State.record_smithy (c d u k n : Nat) (x p : Option Nat) (dt : Nat) : (s.record c d u k n x p dt).smithy = s.smithy := rfl
@[simp] theorem State.record_col (c d u k n : Nat) (x p : Option Nat) (dt : Nat) : (s.record c d u k n x p dt).col = s.col := rfl
@[simp] theorem State.record_rmt (c d u k n : Nat) (x p : Option Nat) (dt : Nat) : (s.record c d u k n x p dt).rmt = s.rmt := rfl
@[simp] theorem State.record_ports (c d u k n : Nat) (x p : Option Nat) (dt : Nat) : (s.record c d u k n x p dt).ports = s.ports := rfl
@[simp] theorem State.record_puell (c d u k n : Nat) (x p : Option Nat) (dt : Nat) : (s.record c d u k n x p dt).puell = s.puell := rfl
@[simp] theorem State.record_dies (c d u k n : Nat) (x p : Option Nat) (dt : Nat) : (s.record c d u k n x p dt).dies = s.dies := rfl
@[simp] theorem State.record_power (c d u k n : Nat) (x p : Option Nat) (dt : Nat) : (s.record c d u k n x p dt).power = s.power := rfl
@[simp] theorem State.record_loops (c d u k n : Nat) (x p : Option Nat) (dt : Nat) : (s.record c d u k n x p dt).loops = s.loops := rfl
@[simp] theorem State.record_ctxs (c d u k n : Nat) (x p : Option Nat) (dt : Nat) : (s.record c d u k n x p dt).ctxs = s.ctxs := rfl
@[simp] theorem State.record_sec (c d u k n : Nat) (x p : Option Nat) (dt : Nat) : (s.record c d u k n x p dt).sec = s.sec := rfl
@[simp] theorem State.record_res (c d u k n : Nat) (x p : Option Nat) (dt : Nat) : (s.record c d u k n x p dt).res = s.res := rfl
@[simp] theorem State.record_boot (c d u k n : Nat) (x p : Option Nat) (dt : Nat) : (s.record c d u k n x p dt).boot = s.boot := rfl
@[simp] theorem State.record_live (c d u k n : Nat) (x p : Option Nat) (dt : Nat) : (s.record c d u k n x p dt).live = s.live := rfl

@[simp] theorem State.rejected_pending (f : Fld) : (s.rejected f).pending = s.pending := rfl
@[simp] theorem State.rejected_freeCtr (f : Fld) : (s.rejected f).freeCtr = s.freeCtr := rfl
@[simp] theorem State.rejected_out (f : Fld) : (s.rejected f).out = s.out := rfl
@[simp] theorem State.rejected_mem (f : Fld) : (s.rejected f).mem = s.mem := rfl
@[simp] theorem State.rejected_eng (f : Fld) : (s.rejected f).eng = s.eng := rfl
@[simp] theorem State.rejected_sched (f : Fld) : (s.rejected f).sched = s.sched := rfl
@[simp] theorem State.rejected_train (f : Fld) : (s.rejected f).train = s.train := rfl
@[simp] theorem State.rejected_smithy (f : Fld) : (s.rejected f).smithy = s.smithy := rfl
@[simp] theorem State.rejected_col (f : Fld) : (s.rejected f).col = s.col := rfl
@[simp] theorem State.rejected_rmt (f : Fld) : (s.rejected f).rmt = s.rmt := rfl
@[simp] theorem State.rejected_ports (f : Fld) : (s.rejected f).ports = s.ports := rfl
@[simp] theorem State.rejected_puell (f : Fld) : (s.rejected f).puell = s.puell := rfl
@[simp] theorem State.rejected_dies (f : Fld) : (s.rejected f).dies = s.dies := rfl
@[simp] theorem State.rejected_power (f : Fld) : (s.rejected f).power = s.power := rfl
@[simp] theorem State.rejected_loops (f : Fld) : (s.rejected f).loops = s.loops := rfl
@[simp] theorem State.rejected_ctxs (f : Fld) : (s.rejected f).ctxs = s.ctxs := rfl
@[simp] theorem State.rejected_sec (f : Fld) : (s.rejected f).sec = s.sec := rfl
@[simp] theorem State.rejected_res (f : Fld) : (s.rejected f).res = s.res := rfl
@[simp] theorem State.rejected_boot (f : Fld) : (s.rejected f).boot = s.boot := rfl
@[simp] theorem State.rejected_live (f : Fld) : (s.rejected f).live = s.live := rfl

/-- A field set reads as the value modulo its width. -/
@[simp] theorem State.getF_setF (f : Fld) (v : Nat) : (s.setF f v).getF f = v % 2 ^ f.w := by
  simp [State.getF, State.setF]

/-- Setting a field leaves every other as it was. -/
theorem State.getF_setF_ne {f g : Fld} (v : Nat) (h : g.key ≠ f.key) : (s.setF f v).getF g = s.getF g := by
  simp [State.getF, State.setF, tget_tput_ne _ _ _ h]

@[simp] theorem State.getF_incF (f : Fld) (n : Nat) : (s.incF f n).getF f = (s.getF f + n) % 2 ^ f.w := by
  simp [State.incF]

@[simp] theorem State.mat_setMat (i : Nat) (m : MatEng) : (s.setMat i m).mat i = m := by
  simp [State.mat, State.setMat]
@[simp] theorem State.vec_setVec (g : Nat) (v : VecEng) : (s.setVec g v).vec g = v := by
  simp [State.vec, State.setVec]
@[simp] theorem State.core_setCore (g : Nat) (c : CoreSt) : (s.setCore g c).core g = c := by
  simp [State.core, State.setCore]
@[simp] theorem State.cx_setCx (x : Nat) (c : CtxSt) : (s.setCx x c).cx x = c := by
  simp [State.cx, State.setCx]
@[simp] theorem State.pl_setPl (l : Nat) (k : PlLink) : (s.setPl l k).pl l = k := by
  simp [State.pl, State.setPl]

/-- A record joins those that wait to be stored, and takes the stack's next sequence number. -/
theorem State.record_recQ (c d u k n : Nat) (x p : Option Nat) (dt : Nat) :
    (s.record c d u k n x p dt).err.recQ = s.err.recQ ++
      [{ rid := s.err.nextRid, cls := c, die := d, unit := u, kind := k, sub := n, ctx := x, parent := p,
         seq := s.getF (F.dieSeqSeq d), watch := s.getF (F.watchNs d), detail := dt % 2 ^ 64 }] := rfl

/-- A record changes no register field but its stack's sequence number. -/
theorem State.record_getF (c d u k n : Nat) (x p : Option Nat) (dt : Nat) {g : Fld} (h : g.key ≠ (F.dieSeqSeq d).key) :
    (s.record c d u k n x p dt).getF g = s.getF g := State.getF_setF_ne s _ h

end Sys2Proof.Machine
end

