-- ==== Sys2Proof/Laws/Acts.lean ====
section
/-! SUPPORT. What the shared frame of a command's effect does, and that every memory access keeps the canonical
form. -/
namespace Sys2Proof.Machine

variable (s : State) (f : State → State)

/-- Nothing comes about while the package is off, tripped or in reset. -/
theorem act_dead (h : s.live = false) : act s f = .next s := by simp [act, h]

theorem act_live (h : s.live = true) :
    act s f = .next { f s with pending := s.pending, power := s.power } := by simp [act, h]

theorem work_dead (h : s.live = false) : work s f = .next s := act_dead s _ h

/-- The device-fatal state stops work. -/
theorem work_fatal (h : s.fatal = true) : work s f = .next s := by
  unfold work act; split <;> simp [h]

theorem work_works (h : s.works = true) :
    work s f = .next { f s with pending := s.pending, power := s.power } := by
  simp only [State.works, Bool.and_eq_true, Bool.not_eq_true'] at h
  rw [work, act_live _ _ h.1]; simp [h.2]

/-- Every effect answers a next state and touches neither the queue nor the power state. -/
theorem act_frame : ∃ t, act s f = .next t ∧ t.pending = s.pending ∧ t.power = s.power := by
  unfold act; split
  · exact ⟨_, rfl, rfl, rfl⟩
  · exact ⟨_, rfl, rfl, rfl⟩

theorem work_frame : ∃ t, work s f = .next t ∧ t.pending = s.pending ∧ t.power = s.power :=
  act_frame s _

/-! ### Memory -/

/-- An operand-cache write keeps the canonical form of the operand caches. -/
theorem ocWrite_wf (g a : Nat) (bs : List Byte) (h : twf 0 s.mem.oc = true) :
    twf 0 (s.ocWrite g a bs).mem.oc = true := twf_writeBytes _ _ _ _ h

end Sys2Proof.Machine
end

