-- ==== Sys2Proof/Laws/Accesses.lean ====
section
/-! SUPPORT. A property of the state that an access keeps, stopped or not, by the steps it is built of; and that
every access to HBM, companion memory and an operand cache keeps the memories' canonical form. -/
namespace Sys2Proof.Machine

variable {α β : Type}

/-- Wherever `P` holds before the access it holds after it, whether the access answers or stops. -/
structure Keeps (P : State → Prop) (m : M α) : Prop where
  run : ∀ s, P s → P (m.go s).2

variable {P : State → Prop}

theorem M.go_bind (m : M α) (f : α → M β) (s : State) :
    (m >>= f).go s = match m.go s with
      | (.ok a, t) => (f a).go t
      | (.error e, t) => (.error e, t) := by
  simp only [M.go, bind, ExceptT.bind, ExceptT.run, ExceptT.mk, StateT.bind, StateT.run, ExceptT.bindCont]
  rcases m s with ⟨a | a, t⟩ <;> rfl

@[simp] theorem M.go_pure (a : α) (s : State) : (pure a : M α).go s = (.ok a, s) := rfl
@[simp] theorem M.go_throw (e : Stop) (s : State) : (throw e : M α).go s = (.error e, s) := rfl
@[simp] theorem M.go_stop (e : Stop) (s : State) : (stop e : M α).go s = (.error e, s) := rfl
@[simp] theorem M.go_getS (s : State) : getS.go s = (.ok s, s) := rfl
@[simp] theorem M.go_setS (f : State → State) (s : State) : (setS f).go s = (.ok (), f s) := rfl

theorem Keeps.pure (a : α) : Keeps P (Pure.pure a : M α) := ⟨fun _ h => h⟩
theorem Keeps.throw (e : Stop) : Keeps P (MonadExcept.throw e : M α) := ⟨fun _ h => h⟩
theorem Keeps.stop (e : Stop) : Keeps P (Machine.stop e : M α) := ⟨fun _ h => h⟩
theorem Keeps.ctxStop (k d : Nat) : Keeps P (Machine.ctxStop k d : M α) := ⟨fun _ h => h⟩
theorem Keeps.getS : Keeps P Machine.getS := ⟨fun _ h => h⟩
theorem Keeps.setS {f : State → State} (h : ∀ s, P s → P (f s)) : Keeps P (Machine.setS f) := ⟨h⟩

theorem Keeps.bind {m : M α} {f : α → M β} (hm : Keeps P m) (hf : ∀ a, Keeps P (f a)) : Keeps P (m >>= f) := by
  refine ⟨fun s h => ?_⟩
  rw [M.go_bind]
  have := hm.run s h
  split <;> rename_i he <;> simp only [he] at this
  · exact (hf _).run _ this
  · exact this

theorem Keeps.ite {c : Prop} [Decidable c] {m n : M α} (hm : Keeps P m) (hn : Keeps P n) :
    Keeps P (if c then m else n) := by split <;> assumption

theorem Keeps.check (b : Bool) (k d : Nat) : Keeps P (Machine.check b k d) :=
  Keeps.ite (Keeps.pure _) (Keeps.ctxStop _ _)

theorem Keeps.forM {l : List α} {f : α → M Unit} (h : ∀ a, Keeps P (f a)) : Keeps P (l.forM f) := by
  induction l with
  | nil => exact Keeps.pure ()
  | cons a r ih => exact (h a).bind fun _ => ih

theorem Keeps.mapM {l : List α} {f : α → M β} (h : ∀ a, Keeps P (f a)) : Keeps P (l.mapM f) := by
  induction l with
  | nil => exact Keeps.pure []
  | cons a r ih =>
    rw [List.mapM_cons]
    exact (h a).bind fun _ => ih.bind fun _ => Keeps.pure _

/-! ### The canonical form -/

/-- The memories of a state are in their canonical form. -/
structure Canon (s : State) : Prop where
  wf : s.mem.wf = true

theorem Canon.of_mem {s t : State} (h : Canon s) (e : t.mem = s.mem) : Canon t := ⟨e ▸ h.wf⟩

@[simp] theorem State.chargeHbm_mem (s : State) (who : Option Nat) (n : Nat) : (s.chargeHbm who n).mem = s.mem := by
  cases who <;> rfl
@[simp] theorem State.chargePuell_mem (s : State) (who : Option Nat) (n : Nat) :
    (s.chargePuell who n).mem = s.mem := by
  cases who <;> rfl
@[simp] theorem State.flitPut_mem (s : State) (l ft q : Nat) (bs : List Byte) :
    (s.flitPut l ft q bs).mem = s.mem := rfl
@[simp] theorem State.keyNext_mem (s : State) (l : Nat) : (s.keyNext l).mem = s.mem := by
  simp [State.keyNext]
@[simp] theorem State.flitOut_mem (s : State) (l ft q : Nat) (bs : List Byte) :
    (s.flitOut l ft q bs).mem = s.mem := by
  unfold State.flitOut
  dsimp only
  split <;> simp
@[simp] theorem State.dataOut_mem (s : State) (l : Nat) (f : Nat × PlMsg) : (s.dataOut l f).mem = s.mem := by
  simp [State.dataOut]

/-- What every step of a fold leaves alone, the fold leaves alone. -/
theorem foldl_mem (f : State → α → State) (h : ∀ s a, (f s a).mem = s.mem) (l : List α) (s : State) :
    (l.foldl f s).mem = s.mem := by
  induction l generalizing s with
  | nil => rfl
  | cons a r ih => rw [List.foldl_cons, ih, h]

@[simp] theorem State.plPump_mem (s : State) (l : Nat) : (s.plPump l).mem = s.mem := by
  unfold State.plPump
  dsimp only
  split
  · rfl
  · rw [foldl_mem _ (fun _ _ => State.dataOut_mem _ _ _)]; rfl
@[simp] theorem State.plSend_mem (s : State) (l : Nat) (m : PlMsg) : (s.plSend l m).mem = s.mem := by
  simp [State.plSend]
@[simp] theorem State.plIssue_mem (s : State) (l : Nat) (q : PlAsk) : (s.plIssue l q).mem = s.mem := by
  simp [State.plIssue]
@[simp] theorem State.plRequest_mem (s : State) (l o a : Nat) (w : PlOwner) (mg : List (Nat × Byte))
    (bs : List Byte) : (s.plRequest l o a w mg bs).mem = s.mem := by
  unfold State.plRequest
  dsimp only
  split <;> simp
@[simp] theorem State.plWrite_mem (s : State) (l : Nat) (w : PlOwner) (a : Nat) (bs : List Byte) :
    (s.plWrite l w a bs).mem = s.mem := by
  unfold State.plWrite
  dsimp only
  split
  · simp
  · split <;> simp
@[simp] theorem State.xingDrop_mem (s : State) (d n : Nat) : (s.xingDrop d n).mem = s.mem := by
  unfold State.xingDrop; split <;> rfl

/-- The canonical form looks at the five memories alone. -/
theorem Canon.of_parts {s t : State} (h : Canon s) (oc : t.mem.oc = s.mem.oc) (cm : t.mem.cm = s.mem.cm)
    (hbm : t.mem.hbm = s.mem.hbm) (comp : t.mem.comp = s.mem.comp) (flash : t.mem.flash = s.mem.flash) :
    Canon t := by
  refine ⟨?_⟩
  rw [Mem.wf, oc, cm, hbm, comp, flash]
  exact h.wf

theorem Canon.hbmCorrect {s : State} (h : Canon s) (k : Nat) : Canon (s.hbmCorrect k) := by
  unfold State.hbmCorrect
  split
  · exact h.of_parts rfl rfl rfl rfl rfl
  · exact h

theorem Canon.sramFill {s : State} (h : Canon s) (k n : Nat) : Canon (s.sramFill k n) :=
  h.of_parts rfl rfl rfl rfl rfl

theorem Canon.sramRead {s : State} (h : Canon s) (k n : Nat) : Canon (s.sramRead k n).2 := by
  unfold State.sramRead
  split <;> exact h.of_parts rfl rfl rfl rfl rfl

theorem Canon.hbm {s : State} (h : Canon s) (k : Nat) (bs : List Byte) (b c : Tbl Bool) :
    Canon { s with mem.hbm := writeBytes 0 s.mem.hbm k bs, mem.badBursts := b, mem.softBursts := c } := by
  have h := h.wf
  simp only [Mem.wf, Bool.and_eq_true] at h
  refine ⟨?_⟩
  simp only [Mem.wf, Bool.and_eq_true]
  exact ⟨⟨⟨h.1.1.1, twf_writeBytes _ _ _ _ h.1.1.2⟩, h.1.2⟩, h.2⟩

theorem Canon.comp {s : State} (h : Canon s) (k : Nat) (bs : List Byte) :
    Canon { s with mem.comp := writeBytes 0 s.mem.comp k bs } := by
  have h := h.wf
  simp only [Mem.wf, Bool.and_eq_true] at h
  refine ⟨?_⟩
  simp only [Mem.wf, Bool.and_eq_true]
  exact ⟨⟨h.1.1, twf_writeBytes _ _ _ _ h.1.2⟩, h.2⟩

theorem Canon.ocWrite {s : State} (h : Canon s) (g a : Nat) (bs : List Byte) : Canon (s.ocWrite g a bs) := by
  have h := h.wf
  simp only [Mem.wf, Bool.and_eq_true] at h
  refine ⟨?_⟩
  simp only [Mem.wf, Bool.and_eq_true, State.ocWrite]
  exact ⟨⟨⟨⟨twf_writeBytes _ _ _ _ h.1.1.1.1, h.1.1.1.2⟩, h.1.1.2⟩, h.1.2⟩, h.2⟩

theorem Canon.ends {s : State} (h : Canon s) (f : Fld) (who : Option Nat) (n : Nat) :
    Canon ((s.incF f n).chargeHbm who n) := h.of_mem (by simp)

theorem hbmUe_keeps (who : Option Nat) (k : Nat) : Keeps Canon (hbmUe who k : M α) := by
  unfold hbmUe
  exact (Keeps.setS fun _ h => h.of_mem rfl).bind fun _ => Keeps.throw _

theorem domainCheck_keeps (who : Option Nat) (d n : Nat) : Keeps Canon (domainCheck who d n) := by
  unfold domainCheck
  refine Keeps.getS.bind fun s => Keeps.ite ?_ (Keeps.pure _)
  exact (Keeps.setS fun _ h => h.of_mem (by simp)).bind fun _ => Keeps.throw _

theorem hbmReach_keeps (who : Option Nat) (k : Nat) : Keeps Canon (hbmReach who k) := by
  unfold hbmReach
  dsimp only
  refine Keeps.getS.bind fun s => ?_
  repeat' first
    | apply Keeps.ite
    | exact Keeps.throw _
    | exact Keeps.stop _
    | exact Keeps.pure _
    | exact domainCheck_keeps _ _ _
    | exact Keeps.getS
    | refine Keeps.bind ?_ fun _ => ?_

theorem sramCheck_keeps (base k n : Nat) : Keeps Canon (sramCheck base k n) := by
  unfold sramCheck
  refine ⟨fun s h => ?_⟩
  have hr := h.sramRead k n
  rcases hs : s.sramRead k n with ⟨r, t⟩
  rw [hs] at hr
  cases r <;> simp_all [M.go, bind, ExceptT.bind, ExceptT.run, ExceptT.mk, StateT.bind, StateT.run,
    ExceptT.bindCont, getS, set, MonadStateOf.set, StateT.set, liftM, monadLift, MonadLift.monadLift,
    ExceptT.lift, Functor.map, StateT.map, throw, throwThe, MonadExceptOf.throw, pure, StateT.pure, ExceptT.pure,
    get, getThe, MonadStateOf.get, StateT.get]

/-- Reading HBM keeps the canonical form. -/
theorem hbmRead_keeps (who : Option Nat) (n o len : Nat) : Keeps Canon (hbmRead who n o len) := by
  unfold hbmRead
  refine (Keeps.mapM fun p => Keeps.getS.bind fun s => ?_).bind fun _ => Keeps.pure _
  dsimp only
  repeat' first
    | apply Keeps.ite
    | exact Keeps.pure _
    | exact Keeps.getS
    | exact hbmUe_keeps _ _
    | exact hbmReach_keeps _ _
    | exact Keeps.setS fun _ h => (h.hbmCorrect _).ends _ _ _
    | refine Keeps.bind ?_ fun _ => ?_

/-- Writing HBM keeps the canonical form. -/
theorem hbmWrite_keeps (who : Option Nat) (n o : Nat) (bs : List Byte) : Keeps Canon (hbmWrite who n o bs) := by
  have put : ∀ (s : State) (k m : Nat) (b : List Byte), Canon s → Canon
      (let s := if m = 32 then s else s.hbmCorrect k
       let s := (s.incF (F.hbmWrbytes (hbmStack k)) m).chargeHbm who m
       { s with mem.hbm := writeBytes 0 s.mem.hbm k b,
                mem.badBursts := tput false s.mem.badBursts (k / 32) false,
                mem.softBursts := tput false s.mem.softBursts (k / 32) false }) := by
    intro s k m b h
    dsimp only
    refine Canon.hbm (Canon.ends ?_ _ _ _) _ _ _ _
    split
    · exact h
    · exact h.hbmCorrect _
  unfold hbmWrite
  refine Keeps.forM fun p => Keeps.getS.bind fun s => ?_
  dsimp only
  repeat' first
    | apply Keeps.ite
    | exact Keeps.pure _
    | exact Keeps.getS
    | exact hbmUe_keeps _ _
    | exact hbmReach_keeps _ _
    | exact Keeps.setS fun s h => put s _ _ _ h
    | refine Keeps.bind ?_ fun _ => ?_

theorem compLink_keeps (d : Nat) (who : Option Nat) (a : Nat) : Keeps Canon (compLink d who a) := by
  unfold compLink
  refine Keeps.getS.bind fun s => ?_
  split
  · exact Keeps.throw _
  · dsimp only
    repeat' first
      | apply Keeps.ite
      | exact Keeps.pure _
      | exact Keeps.stop _
      | exact domainCheck_keeps _ _ _
      | refine Keeps.bind ?_ fun _ => ?_

/-- Reading companion memory keeps the canonical form. -/
theorem compRead_keeps (d : Nat) (who : Option Nat) (a n : Nat) : Keeps Canon (compRead d who a n) := by
  unfold compRead
  refine (Keeps.forM fun p => (compLink_keeps _ _ _).bind fun l => Keeps.setS fun _ h => h.of_mem (by simp)).bind
    fun _ => Keeps.getS.bind fun _ => Keeps.pure _

/-- Writing companion memory keeps the canonical form. -/
theorem compPut_keeps (d : Nat) (o : PlOwner) (a : Nat) (bs : List Byte) : Keeps Canon (compPut d o a bs) := by
  unfold compPut
  refine Keeps.forM fun p => Keeps.getS.bind fun s => (compLink_keeps _ _ _).bind fun l => ?_
  exact Keeps.setS fun s h => Canon.comp (h.of_mem (State.plWrite_mem s _ _ _ _)) _ _

/-- Reading and writing an operand cache keep the canonical form. -/
theorem ocRead_keeps (g a n : Nat) : Keeps Canon (Machine.ocRead g a n) := by
  unfold Machine.ocRead
  exact (Keeps.check _ _ _).bind fun _ => (Keeps.forM fun _ => sramCheck_keeps _ _ _).bind fun _ =>
    Keeps.getS.bind fun _ => Keeps.pure _
theorem ocWrite_keeps (g a : Nat) (bs : List Byte) : Keeps Canon (Machine.ocWrite g a bs) := by
  unfold Machine.ocWrite
  exact (Keeps.check _ _ _).bind fun _ => Keeps.setS fun _ h => h.ocWrite _ _ _

/-- The memories of the machine after reset are in their canonical form. -/
theorem reset_canon : Canon State.reset := ⟨by decide⟩

end Sys2Proof.Machine
end

