-- ==== Sys2Proof/Tests/Slice0.lean ====
section
/-! SUPPORT. Tests: ill-formed commands refused, small results worked out from the spec, and for every statement
states and operands that meet the hypotheses of its clauses. -/
namespace Sys2Proof.Tests
open Sys2Proof.Machine
set_option Elab.async false

/-! ### States to test on -/

def powerOf (p : PwrSt) : Power :=
  { st := p, runEn := true, rstN := true, pwrOk := true, railsUp := true, downPending := false, riseAgain := false,
    smbAddr := 0, tapIr := 0, tapBsr := 0#64 }
/-- The module in RUN, with die stack P0 in service, and fields set. -/
def onWith (l : List (Fld × Nat)) : State :=
  (l ++ [(F.dieStatusInservice 0, 1)]).foldl (fun (s : State) (e : Fld × Nat) => s.setF e.1 e.2) { State.reset with power := powerOf .run }
def on : State := onWith []
def booting (l : List (Fld × Nat)) : State := { onWith l with power := powerOf .boot }

/-- Set 0 holds the page tables, set 1 the data of context 1: one leaf of 1 GiB, readable and writable. -/
def setFields : List (Fld × Nat) :=
  [(F.isDescValid 0, 1), (F.isDescHouse 0, 1), (F.isDescValid 1, 1), (F.isDescOwner 1, 1),
   (F.isDescLw 1, 3), (F.isDescBpc 1, 8), (F.ctxStateState 1, cResident), (F.ctxCtlValid 1, 1)]
def aGrant : Grant :=
  { cores := 1, ways := [], ptroot := 0, compbase := 0, complen := 0, steprec := 0, udesc := 0, vmode := false,
    interleave := false, realtime := false, slice := 100, save := [] }
def anInst : Inst :=
  { ctx := 1, subseq := 0, task := 0, index := 0, count := 1, rank := 0, size := 1, args := 0, shared := 0,
    sharedLen := 0, step := 0, gtag := 0, code := 0, codeLen := 4096 }
/-- Context 1 runs on core 0; `data` lies at the start of its memory. -/
def ctxWith (l : List (Fld × Nat)) (data : List Byte) : State :=
  let s := onWith (l ++ setFields)
  let s := s.setCx 1 { grant := some aGrant }
  let s := s.setCore 0 { s.core 0 with inst := some anInst }
  let s : State := { s with mem.hbm := writeBytes 0 (writeBytes 0 s.mem.hbm 0 (leBytes 8 0x1001)) 4096 (leBytes 8 0x133) }
  { s with mem.hbm := writeBytes 0 s.mem.hbm (s.hbmKey 1 0) data }

/-- An access succeeds, with a property of its result and state. -/
def okAnd {α : Type} (r : Except Stop α × State) (q : α → State → Bool) : Bool :=
  match r with
  | (.ok a, u) => q a u
  | _ => false

theorem of_okAnd {α : Type} {r : Except Stop α × State} {q : α → State → Bool} (h : okAnd r q = true) :
    ∃ a u, r = (.ok a, u) ∧ q a u = true := by
  unfold okAnd at h
  split at h
  · exact ⟨_, _, rfl, h⟩
  · cases h

/-! ### Ill-formed commands -/

def aFrame : Frame := { fecCorrected := 0, fecSymbols := 0, fecBad := 0, fcsOk := true, len := 64, dst := 0x020000000001, tag := none, kind := .other }
def zeros (n : Nat) : List Byte := List.replicate n 0#8

theorem test_wf_lines : (Instr.gnts 0 0 .ok (zeros 63)).wf = false ∧ (Instr.gnte 0 0 .ok (zeros 65)).wf = false
    ∧ (Instr.cur 0 0 .ok (zeros 0)).wf = false ∧ (Instr.gnts 0 0 .ok (zeros 64)).wf = true := by decide
theorem test_wf_aperture : (Instr.apwr 0 0 60 ⟨0, 0⟩ (zeros 5)).wf = false ∧ (Instr.apwr 0 0 60 ⟨0, 0⟩ (zeros 4)).wf = true
    ∧ (Instr.aprd 0 0 1 64).wf = false ∧ (Instr.aprd 0 0 0 64).wf = true ∧ (Instr.aprd 0 0 0 0).wf = false := by decide
theorem test_wf_control : (Instr.ctlrd 0 0 0 0).wf = false ∧ (Instr.ctlwr 0 0 0 256 0).wf = false := by decide
theorem test_wf_frames : (Instr.pfcReceive 0 0 [0, 0]).wf = false
    ∧ (Instr.frameReceive 0 { aFrame with kind := .macControl 0x0101 0 [] }).wf = false
    ∧ (Instr.frameReceive 0 aFrame).wf = true := by decide
theorem test_wf_flits : (Instr.flitReceive 0 (zeros 255)).wf = false ∧ (Instr.flitReceive 0 (zeros 256)).wf = true := by
  decide +kernel
theorem test_wf_power : (Instr.sensorSample 0 [] []).wf = false
    ∧ (Instr.d2dFlitReceive 0 0 0 true [3, 3] 0).wf = false ∧ (Instr.d2dFlitReceive 0 0 0 true [3, 4] 0).wf = true := by decide
theorem test_wf_packet : (Instr.write 0 { packet0 opWrite 0 with payload := zeros 9217 }).wf = false
    ∧ (Instr.write 0 { packet0 opWrite 0 with payload := zeros 9216 }).wf = true := by decide +kernel

/-! ### Statements about the whole block, power and pins -/

def reset0 : State := State.reset
/-- OFF with RUN_EN high, in power-down; TRIPPED; RST_N low. -/
def powered (p : PwrSt) : State := { reset0 with power := powerOf p }
def offDown : State := { reset0 with power := { powerOf .off with pwrOk := false, railsUp := false, downPending := true,
                                                                  riseAgain := true } }
def tripped : State := { reset0 with power := { powerOf .tripped with pwrOk := false, railsUp := false } }
def lastTry : State := { booting [(F.bootStatusStep, 13)] with boot.tries := [⟨13, 0xFF, 0, false⟩] }
def stateOf (r : Host.Outcome State Fault Refusal) : State :=
  match r with
  | .next s => s
  | _ => reset0

theorem witness_StepRunsFrontCommand : reset0.pending = [] := rfl
theorem witness_EveryCommandAnswersNextState : ∃ t, step on = .next t := ⟨_, rfl⟩
theorem witness_StepKeepsPowerLegal : on.power.ok = true ∧ tripped.power.ok = true ∧ offDown.power.ok = true
    ∧ (booting []).power.ok = true ∧ ∃ t, step on = .next t := ⟨by decide, by decide, by decide, by decide, _, rfl⟩
theorem witness_NothingRunsWithoutPowerOrInReset : reset0.live = false ∧ outside (.macc 0 0) = false
    ∧ ({ on with power.rstN := false } : State).live = false := by decide
theorem witness_DeviceFatalStopsWork : (onWith [(F.errStatusFatal, 1)]).fatal = true ∧ runsFatal (.macc 0 0) = false
    ∧ accessOk 0x20000 .w32 = true ∧ (0x20000 : Nat) ≠ F.errAckIndex.off := by decide
theorem witness_TrippedAndRunHaveOneWay : tripped.power.st = .tripped ∧ lastTry.power.st = .boot
    ∧ (stateOf (exec (.bootStepEnd 13 0xFF ⟨true, 0, []⟩) lastTry)).power.st = .run := by decide +kernel
theorem witness_PowerComesAndGoes : reset0.power.runEn = false ∧ offDown.power.downPending = true
    ∧ on.power.runEn = true ∧ (powered .boot).power.st = .boot
    ∧ ({ powered .boot with power.railsUp := false } : State).power.rstN = true ∧ tripped.power.rstN = true
    ∧ (powered .boot).fatal = false ∧ (onWith [(F.errStatusFatal, 1)]).fatal = true ∧ on.power.st = .run := by decide
theorem witness_PowerLoopsMeasureAndAct : on.live = true ∧ (onWith [(F.pwrStatusEfault, 1)]).bitF F.pwrStatusEfault 0 = true
    ∧ ({ inputMv := 50000, energyNj := 1000, activity := [(0, 5)], house := 1 } : RailReading).wf = true ∧ (⟨0, [0, 0, 0, 0], [0, 0, 0, 0], 0⟩ : SlowMeasure).wf = true
    ∧ on.works = true ∧ on.inService 0 = true ∧ (onWith [(F.presentPkgPresent, 255)]).blockUp F.pwrStatusEfault.off = true := by
  decide
/-- The fraction moves by 32(e − S)/S away from zero, and stays within 0 to 240 (15 R405). -/
theorem test_bub : nextBub 100 2000 1000 = 132 ∧ nextBub 100 500 1000 = 84 ∧ nextBub 230 2000 1000 = 240
    ∧ nextBub 5 0 1000 = 0 ∧ nextBub 100 1001 1000 = 101 := by decide
theorem witness_SmbusAndTapAnswer : on.smbusHears 0x58 = true ∧ on.smbusHears 0x59 = false
    ∧ on.bitF F.presentPkgPresent 2 = false ∧ reset0.power.pwrOk = false
    ∧ ({ on with power.rstN := false } : State).power.runEn = true ∧ on.power.rstN = true := by decide

/-! ### Statements about die stacks, crossings and watches -/

def dieFields : List (Fld × Nat) :=
  [(F.dieStatusInservice 1, 1), (F.dieStatusLock 1, 1), (F.dieStatusLock 0, 1), (F.d2dStatusUp 1 0, 1),
   (F.d2dStatusRxgrp 1 0, 3), (F.d2dStatusTxgrp 1 0, 3)]
def dies0 : State := onWith dieFields
def tokens : State := { dies0 with dies.token := true, boot.tries := [⟨7, 0xFF, 0, false⟩] }
theorem witness_DiscoveryAndDieToDieFlits : tokens.works = true ∧ tokens.dies.token = true
    ∧ tokens.boot.tries.find? (fun t => t.step = 7) = some ⟨7, 0xFF, 0, false⟩
    ∧ dies0.flag (F.d2dStatusUp 1 0) = true ∧ dies0.bitF (F.d2dStatusRxgrp 1 0) 0 = true
    ∧ dies0.bitF (F.d2dStatusRxgrp 1 0) 1 = true ∧ tget false (dies0.dport 1 0).gap 0 = false
    ∧ (dies0.dport 1 0).held = [] ∧ (dies0.dport 1 0).next = 0 ∧ dies0.bitF (F.d2dStatusTxgrp 1 0) 1 = true := by decide
def deadX : State := on.setXing (xingKey 0 .puell 0) { dead := true }
theorem witness_CrossingsDeliverOrDrop : on.live = true ∧ hasDomain 0 .puell = true ∧ hasDomain 3 (.mac 7) = true
    ∧ (on.xing (xingKey 0 .puell 0)).inReset = false ∧ (on.xing (xingKey 0 .puell 0)).dead = false
    ∧ (deadX.xing (xingKey 0 .puell 0)).dead = true ∧ (on.pl 0).reqs = [] ∧ (on.pl 0).tagWait = []
    ∧ on.rmt.slot = [] ∧ dies0.domRuns 0 .puell = true ∧ (dies0.xing (xingKey 0 .puell 0)).req = (dies0.xing (xingKey 0 .puell 0)).ack
    ∧ on.domRuns 0 .puell = false
    ∧ ((on.setXing (xingKey 0 .puell 0) { req := true }).xing (xingKey 0 .puell 0)).req
      ≠ ((on.setXing (xingKey 0 .puell 0) { req := true }).xing (xingKey 0 .puell 0)).ack := by decide
def due : State := { onWith [(F.dieStatusLastcause (neighbour 0 0), 1)] with dies.notice := [(0, true)] }
theorem witness_StacksLeaveReturnAndTheirWatchCounts : dies0.flag (F.dieStatusLock 1) = true ∧ dies0.inService 1 = true
    ∧ dies0.flag (F.dieStatusLock 0) = true ∧ (1#32).getLsbD 0 = true ∧ on.inService 1 = false
    ∧ tget false due.dies.notice 0 = true ∧ (∀ x, due.alive x = false)
    ∧ due.getF (F.dieStatusLastcause (neighbour 0 0)) = 1 ∧ tget false on.dies.notice 0 = false
    ∧ (onWith [(F.dieStatusLastcause 1, 2)]).getF (F.dieStatusLastcause 1) ≠ 0
    ∧ (onWith [(F.isDescValid 1, 1)]).setValid 1 = true ∧ on.getF (F.dieStatusLastcause 3) = 0
    ∧ on.flag (F.dieStatusWstop 0) = false ∧ (onWith [(F.dieStatusWstop 0, 1)]).flag (F.dieStatusWstop 0) = true :=
  ⟨by decide, by decide, by decide, by decide, by decide, by decide, fun x => rfl, by decide, by decide, by decide,
    by decide, by decide, by decide, by decide⟩

/-! ### Statements about ports -/

def portFields : List (Fld × Nat) :=
  [(F.portCfgEnable 0, 1), (F.portStatusLinkup 0, 1), (F.portUcValid 0 0, 1), (F.portUcAddr 0 0, 0x020000000001),
   (F.portIpv4Addr 0, 5), (F.portPrioShare 0 0, 100), (F.rmtCfgUdpport 0, 4791)]
def portWith (l : List (Fld × Nat)) (v : PortSt) : State := (onWith (portFields ++ l)).setPort 0 v
def port0 : State := portWith [] {}
def aTx : TxFrame := ⟨3, 0x020000000002, 0x0806, [], none⟩
def udpFrame : Frame := { aFrame with kind := .udp false 5 4791 }
theorem witness_PortReceivesInOrderOfChecks : on.portUp 0 = false ∧ port0.works = true ∧ port0.portUp 0 = true
    ∧ (port0.setXing (xingKey 0 (.mac 0) 0) { dead := true }).xingDead 0 4 = true ∧ port0.xingDown 0 4 = false
    ∧ port0.getF (F.portCfgMaxframe 0) + 4 < 9300 ∧ aFrame.dst.toNat ≠ pauseMac
    ∧ port0.addrPass 0 0x020000000002 = none ∧ port0.vidPass 0 (some (1, 0)) = false
    ∧ port0.addrPass 0 aFrame.dst.toNat = some 4 ∧ port0.vidPass 0 none = true ∧ port0.isRmt 0 udpFrame.kind = true
    ∧ port0.occupied 0 0 + port0.getF (F.portCfgMaxframe 0) ≤ port0.getF (F.portPrioShare 0 0) * 1024
    ∧ port0.occupiedAll 0 + port0.getF (F.portCfgMaxframe 0) ≤ 6144 * 1024
    ∧ port0.getF (F.portPrioShare 0 1) * 1024 < port0.occupied 0 1 + port0.getF (F.portCfgMaxframe 0) := by decide
theorem witness_PortSendsFreesAndAnswers : (takePrio 3 [aTx] = some (aTx, []) ∧ takePrio 2 [aTx] = none)
    ∧ port0.portDiscards 0 3 = none ∧ port0.xingDown 0 4 = false
    ∧ (portWith [] { txq := [aTx] }).txTurn 0 = some (3, quantum) ∧ port0.txTurn 0 = none
    ∧ port0.paused 0 3 = false ∧ on.portDiscards 0 3 = some 57
    ∧ (portWith [(F.portWdstatFired 0, 8)] {}).portDiscards 0 3 = some 43
    ∧ (portWith [(F.portCfgPause 0, 2)] { pause := [(3, 7)] }).paused 0 3 = true
    ∧ ([⟨0, 64, false, .other⟩, ⟨0, 64, true, .arp 7 9 5⟩] : List BufFrame).find? (fun f => !f.exc) = some ⟨0, 64, false, .other⟩
    ∧ ([⟨0, 64, false, .other⟩, ⟨0, 64, true, .arp 7 9 5⟩] : List BufFrame).find? (fun f => f.exc) = some ⟨0, 64, true, .arp 7 9 5⟩
    ∧ wordsOf port0.mem.sramBad (portWord 0) 8 = []
    ∧ port0.portIp 0 false = 5 ∧ port0.portSends 0 = true ∧ port0.portDiscards 0 (port0.getF (F.portCfgDefprio 0)) = none
    ∧ (portWith [(F.portIpv6LoAddr 0, 5)] {}).portIp 0 true ≠ 0 := by decide
theorem witness_PauseInBothDirections : port0.works = true ∧ port0.portUp 0 = true
    ∧ (portWith [(F.portCfgPause 0, 1)] {}).pauseMode 0 = 1 ∧ (portWith [(F.portCfgPause 0, 2)] {}).pauseMode 0 = 2
    ∧ bit 1 0 = true ∧ port0.pauseMode 0 = 0 ∧ (portWith [(F.portPrioPfcen 0 0, 1)] {}).flag (F.portPrioPfcen 0 0) = true
    ∧ (portWith [(F.portCfgPause 0, 2)] { pause := [(0, 7)] }).paused 0 0 = true
    ∧ (portWith [(F.portWdogWdms 0, 10)] {}).wdOn 0 = true ∧ port0.bitF (F.portWdstatFired 0) 0 = false
    ∧ port0.paused 0 0 = false ∧ (portWith [(F.portStatusXofftx 0, 1)] {}).bitF (F.portStatusXofftx 0) 0 = true
    ∧ port0.bitF (F.portWdstatGenstop 0) 0 = false
    ∧ (portWith [(F.portPrioXon 0 0, 4)] {}).pauseOcc 0 0 < (portWith [(F.portPrioXon 0 0, 4)] {}).getF (F.portPrioXon 0 0) * 1024 := by
  decide
theorem witness_PortLinksAndCommits : (onWith [(F.portCfgEnable 0, 1), (F.portCfgMode 0, 1)]).getF (F.portCfgMode 0) ≠ 0
    ∧ on.flag (F.portStatusLinkup 0) = false ∧ on.inService 0 = true ∧ (1#4).toNat = (onWith [(F.portCfgMode 0, 1)]).getF (F.portCfgMode 0)
    ∧ port0.flag (F.portStatusLinkup 0) = true
    ∧ (onWith [(F.presentDiePresent 0, 2 ^ 28 - 1)]).blockUp (F.portCommitCommit 0).off = true
    ∧ on.prioLegal 0 = true ∧ (onWith [(F.portPrioShare 0 0, 4095), (F.portPrioShare 0 1, 4095)]).prioLegal 0 = false
    ∧ (on.setShadow (F.portPrioXoff 0 0) 9).shadow (F.portPrioXoff 0 0) = some 9 := by decide

/-! ### Statements about the Puell links -/

def plWith (l : List (Fld × Nat)) (k : PlLink) : State := (onWith ([(F.plStatusState 0, plActive)] ++ l)).setPl 0 k
def link0 : State := plWith [] {}
def aMsg : PlMsg := { cls := clsReq, opc := rqShared }
/-- A flit of a header and empty slots, its check good with `d = 0` and off by one with `d = 1`. -/
def flitOf (hdr : Nat) (d : Nat := 0) : List Byte :=
  leBytes 8 hdr ++ zeros 240 ++ leBytes 8 (((crc64 (leBytes 8 hdr ++ zeros 240)).toNat + d) % 2 ^ 64)
def aTraining : Training := { txw := 0, rxw := 0, reversed := false, txok := 0xFFFF, rxok := 0xFFFF }
theorem witness_PuellLinksAndFlits : (onWith [(F.plStatusState 0, plTraining)]).plSt 0 = plTraining
    ∧ on.trained 0 aTraining = true ∧ on.trained 0 { aTraining with txok := 0 } = false ∧ link0.plSt 0 = plActive
    ∧ ((plWith [] { replay := [(1, aMsg)] }).pl 0).replay = [(1, aMsg)]
    ∧ ((plWith [(F.plStatusConf 1, 1)] {}).flag (F.plStatusConf 1)) = true ∧ (plWith [(F.plStatusState 0, plRetrain)] {}).plSt 0 = plRetrain
    ∧ dropAcked 0 [(0, aMsg), (1, aMsg)] = [(1, aMsg)] ∧ (link0.pl 0).txWait = [] ∧ (link0.pl 0).retrainFails < 2
    ∧ 2 ≤ ((plWith [] { retrainFails := 2 }).pl 0).retrainFails ∧ plActive ≠ plDown ∧ plActive ≠ plHeld
    ∧ (plWith [(F.plStatusConf 0, 1)] {}).flag (F.plStatusConf 0) = true
    ∧ ({ link0 with sec.confPend := true } : State).sec.confPend = true ∧ link0.flag (F.plStatusConf 0) = false := by decide
/-- The header of a flit is that of its first eight bytes. -/
theorem flitHdr_flitOf (h d : Nat) : flitHdr (flitOf h d) = flitHdr (leBytes 8 h) := rfl
theorem witness_PuellFlits : (flitHdr (flitOf 1)).ftype = ftData ∧ (flitHdr (flitOf 1)).fseq = (link0.pl 0).rxSeq
    ∧ (flitHdr (flitOf 2)).ftype = ftIdle ∧ (flitHdr (flitOf 2)).rclass = 0 ∧ (flitHdr (flitOf 5)).ftype = 5
    ∧ (flitHdr (flitOf 1)).zero = 0 ∧ (flitHdr (flitOf 1)).enc = false ∧ (link0.pl 0).inbox = []
    ∧ (link0.pl 0).rest = [] ∧ (link0.pl 0).replay = [] := by
  simp only [flitHdr_flitOf]
  decide +kernel
theorem leNat_leBytes8 (v : Nat) (h : v < 2 ^ 64) : leNat (leBytes 8 v) = v := by
  simp only [leBytes, leNat, BitVec.toNat_ofNat]
  omega
theorem flitOf_check (h d : Nat) : fieldAt (flitOf h d) 248 8 = ((crc64 ((flitOf h d).take 248)).toNat + d) % 2 ^ 64 := by
  have h8 : ∀ v : Nat, (leBytes 8 v).length = 8 := fun v => rfl
  have e : (leBytes 8 h ++ zeros 240).length = 248 := by
    rw [List.length_append, h8, zeros, List.length_replicate]
  unfold fieldAt flitOf
  rw [List.drop_left' e, List.take_of_length_le (Nat.le_of_eq (h8 _)), List.take_left' e, leNat_leBytes8 _ (Nat.mod_lt _ (by decide))]
theorem witness_PuellFlitPasses (h : Nat) :
    (crc64 ((flitOf h).take 248)).toNat = fieldAt (flitOf h) 248 8 ∧ slice (flitOf h) 8 240 = List.replicate 240 0 := by
  constructor
  · rw [flitOf_check, Nat.add_zero, Nat.mod_eq_of_lt (BitVec.isLt _)]
  · unfold slice flitOf
    rw [List.append_assoc, List.drop_left' (show (leBytes 8 h).length = 8 from rfl),
      List.take_left' (by rw [zeros, List.length_replicate])]
    rfl
theorem witness_PuellFlitFails (h : Nat) : (crc64 ((flitOf h 1).take 248)).toNat ≠ fieldAt (flitOf h 1) 248 8 := by
  rw [flitOf_check]
  have := (crc64 ((flitOf h 1).take 248)).isLt
  omega
def asked (opc : Nat) : State := plWith [] { reqs := [⟨3, opc, 128, .mover 0, []⟩] }
theorem witness_PuellCoherence : link0.live = true ∧ (asked rqShared).plReq 0 3 [rqShared] = some ⟨3, rqShared, 128, .mover 0, []⟩
    ∧ (asked rqOwn).plReq 0 3 [rqOwn] = some ⟨3, rqOwn, 128, .mover 0, []⟩
    ∧ (asked rqCur).plReq 0 3 [rqCur] = some ⟨3, rqCur, 128, .mover 0, []⟩
    ∧ (asked rqEvict).plReq 0 3 [rqWrLine, rqWb, rqEvict] = some ⟨3, rqEvict, 128, .mover 0, []⟩
    ∧ link0.plReq 0 3 [rqWrLine, rqWb, rqEvict] = none ∧ (asked rqShared).snoopHeld 0 128 = true
    ∧ link0.snoopHeld 0 128 = false ∧ (link0.pl 0).snoops = []
    ∧ ((asked rqOwn).pl 0).tagWait = [] ∧ ((asked rqOwn).pl 0).reqs.length ≤ plTags ∧ (∀ x, PlOwner.mover 0 ≠ .head x)
    ∧ (zeros 64).length = 64 ∧ (asked rqShared).plSt 0 = plActive :=
  ⟨by decide, by decide, by decide, by decide, by decide, by decide, by decide, by decide, by decide, by decide, by decide,
    fun _ => by simp, by decide, by decide⟩
theorem sends_link0 : sendsAtOnce link0 0 := by unfold sendsAtOnce; decide
/-- PWR_CFG is a 32-bit register of the package, ERR_OVF a 64-bit RC counter. -/
def ctlState : State := plWith [(F.presentPkgPresent, 255)] {}
theorem witness_ControlSpaceAccesses : ctlState.reaches 0 F.pwrCfgCap.off = true
    ∧ (regAt F.pwrCfgCap.off).map (·.width) = some 32 ∧ (regOr F.pwrCfgCap.off).distinctFields
    ∧ F.pwrCfgCap.off % 4 = 0 ∧ ctlState.blockUp F.pwrCfgCap.off = true
    ∧ (regOr F.pwrCfgCap.off).badField 0xFFFFFFFF ≠ none ∧ (regOr F.pwrCfgCap.off).isRc = false
    ∧ (regOr F.errOvf.off).width = 64 ∧ (regOr F.errOvf.off).distinctFields ∧ ctlState.blockUp F.errOvf.off = true
    ∧ (∀ d ∈ (regOr F.errOvf.off).fields, d.acc = .rc) ∧ 0 < (regOr F.errOvf.off).fields.length
    ∧ plainWrite F.pwrCfgCap.off = true ∧ (regOr F.pwrCfgCap.off).badField 1200 = none
    ∧ regAt (F.errOvf.off + 4) = none ∧ F.errOvf.off % 8 = 0
    ∧ ({ ctlState with dies.disabled := [(1, true)] } : State).reaches 0 (0x1000000 + 0x1000000) = false := by
  unfold Reg.distinctFields
  decide +kernel
def apState : State := plWith ([(F.plApbaseValid 0, 1), (F.plApbaseSet 0, 1)] ++ setFields) {}
theorem witness_ApertureAndBells : inLine 0 64 = true ∧ inLine 1 64 = false ∧ apState.aperture 0 0 64 = some (1, 0)
    ∧ link0.aperture 0 0 64 = none ∧ link0.bellLinkOf = some 0 ∧ on.bellLinkOf = none
    ∧ 0 < ((plWith [] { credBell := 1 }).pl 0).credBell ∧ on.puell.bellQ = []
    ∧ ({ link0 with puell.bellQ := [(0, ⟨1, 0, 0, 0⟩)] } : State).puell.bellQ = [(0, ⟨1, 0, 0, 0⟩)]
    ∧ (∀ i, i < 64 → bit (BitVec.allOnes 64).toNat i = true) := by decide +kernel
theorem witness_ApertureAccess : ∃ b u, (hbmRead none 1 0 64).go apState = (.ok b, u) ∧ decide (b.length = 64) = true :=
  of_okAnd (by decide +kernel)
theorem witness_ApertureWrite : ∃ b u, (hbmWrite none 1 0 (zeros 64)).go apState = (.ok b, u) ∧ true = true :=
  of_okAnd (by decide +kernel)
theorem witness_HbmHoldsWhatWasWritten : apState.getF (F.isDescBpc 1) + 2 ^ apState.getF (F.isDescLw 1) ≤ 32
    ∧ 0 + 64 ≤ apState.setSize 1 := by decide

/-! ### Statements about package memory and movers -/

def setsOn : State := onWith (setFields ++ [(F.presentPkgPresent, 2 ^ 32 - 1), (F.presentDiePresent 0, 2 ^ 32 - 1),
  (F.readyDieHbm 0, 15)])
theorem witness_WaysSetsAndInvalidations : setsOn.works = true ∧ setsOn.blockUp (F.cmWayValid 0 0).off = true
    ∧ setsOn.regRunning (F.cmWayValid 0 0) = false ∧ (F.cmWayValid 0 0).of (2 ^ (F.cmWayValid 0 0).lo) = 1
    ∧ (onWith [(F.cmWayZeroing 0 0, 1)]).flag (F.cmWayZeroing 0 0) = true
    ∧ setsOn.blockUp (F.isDescValid 2).off = true ∧ setsOn.setValid 2 = false ∧ setsOn.setValid 1 = true
    ∧ tget false ({ setsOn with mem.setClr := [(1, true)] } : State).mem.setClr 1 = true
    ∧ setsOn.blockUp F.memCfgPtset.off = true ∧ setsOn.bitF F.readyPkgReady rMem = false ∧ setsOn.setValid 0 = true
    ∧ setsOn.flag (F.isDescHouse 0) = true ∧ F.memCfgPtset.of 0 = 0 ∧ setsOn.flag (F.isDescHouse 1) = false ∧ setsOn.blockUp F.memTinvCtx.off = true
    ∧ (regOr F.memTinvCtx.off).badField 0 = none ∧ (onWith [(F.memTinvStDone, 1)]).flag F.memTinvStDone = true
    ∧ (onWith [(F.memTinvStDone, 0)]).flag F.memTinvStDone = false := by decide
/-- Descriptor 2 written with VALID, and a stack beside the others or over a set in service. -/
def descWord (stack bpc : Nat) : Nat :=
  stack * 2 ^ (F.isDescBstack 0).lo + bpc * 2 ^ (F.isDescBpc 0).lo + 2 ^ (F.isDescValid 0).lo
def wrote (v : Nat) : State :=
  (setsOn.spend (F.isDescValid 2).off).fieldsWrite ((regOr (F.isDescValid 2).off).fields.filter fun d => d.f != F.isDescValid 2) v
theorem witness_SetFitsOrNot : (regOr (F.isDescValid 2).off).badField (descWord 1 0) = none
    ∧ (regOr (F.isDescValid 2).off).badField (descWord 0 0) = none
    ∧ (descWord 1 0).testBit 0 = true := by decide +kernel
theorem witness_SetFits : (wrote (descWord 1 0)).setFit 2 = true ∧ (wrote (descWord 0 0)).setFit 2 = false := by
  decide +kernel

def aRegion : Region :=
  { base := 0, length := pageSize, twin := false, house := false, hset := 0, bslot := 0xFF, touched := 0 }
/-- Context 1 with page 0 write-protected by its open snapshot. -/
def guarded : State :=
  let s := ctxWith [(F.resSnapState 1, 2), (F.resCtlStgquota 1, 4), (F.resCfgSvalid, 1), (F.resCfgSset, 1)] []
  let s := s.setSnap 1 { regions := [aRegion], copying := [(0, true)] }
  { s with mem.hbm := writeBytes 0 (writeBytes 0 s.mem.hbm 4096 (leBytes 8 0x2001)) 8192 (leBytes 8 0x1F3) }
def touchOf (r : Except Stop Tgt × State) : Option (Nat × Nat) :=
  match r with
  | (.error (.touch y k), _) => some (y, k)
  | _ => none
theorem witness_ProtectedPageTouched : touchOf ((translate 0 1 0 true).go guarded) = some (1, 0)
    ∧ guarded.stgFree 1 = true ∧ guarded.works = true ∧ guarded.snapOpen 1 = true
    ∧ tget false (guarded.resc 1).snap.copying (pageKey 0 0) = true
    ∧ guarded.pageRoom 1 0 0 = true ∧ tget false ((guarded.setSnap 1 { regions := [aRegion] }).resc 1).snap.cleared 0 = false := by
  decide +kernel
theorem witness_FirstTouchCopyCompletes : ∃ a u, (copyPage 1 0 0 true).go guarded = (.ok a, u)
    ∧ decide (u.mem.wpWaits = [] ∧ u.rmt.keyWait = []) = true := of_okAnd (by decide +kernel)
theorem witness_UnprotectedPage : ∃ g v, (translate 0 1 0 true).go (ctxWith [] []) = (.ok g, v) ∧ true = true :=
  of_okAnd (by decide +kernel)
theorem witness_ScrubAndRefresh : on.works = true
    ∧ (onWith [(F.hbmScrubHours 0, 24), (F.hbmStatusTrained 0, 1)]).getF (F.hbmScrubHours 0) ≠ 0
    ∧ (onWith [(F.hbmScrubHours 0, 24), (F.hbmStatusTrained 0, 1)]).flag (F.hbmStatusTrained 0) = true
    ∧ on.mem.badBursts = [] ∧ on.mem.softBursts = [] ∧ (64#40).toNat < 32 * pcSize ∧ (onWith [(F.hbmScrubHours 0, 0)]).getF (F.hbmScrubHours 0) = 0 := by
  decide

/-- A mover command of one row of eight elements, from `sa` to `da` of spaces `sp` and `dp`. -/
def mvCmd (mop sp dp sa da : Nat) : List Byte :=
  leBytes 8 (mop + 16 * sp + 64 * dp + 512) ++ leBytes 8 sa ++ leBytes 8 da ++ leBytes 8 0 ++ leBytes 8 0
    ++ leBytes 4 8 ++ leBytes 4 1 ++ leBytes 8 0 ++ leBytes 8 0
def mvState (b : List Byte) (made : Nat := 0) : State :=
  let s := ctxWith [] []
  s.setCore 0 { s.core 0 with cmds := [{ cmd := b, made := made }] }
/-- A legal unconverted command of operation `mop` whose pieces complete, or wait. -/
def mvMeets (s : State) (mop : Nat) (waits : Bool) : Bool :=
  match (s.core 0).cmds[0]? with
  | none => false
  | some w =>
    let c := mvDecode w.cmd
    match c.dconv with
    | none => false
    | some d =>
      s.works && decide (s.running 0 = some anInst) && decide (c.mop = mop) && !(c.illegal d) && !(c.bindBad s anInst d)
        && !c.conv && (s.compLines ⟨0, anInst, c.na⟩ c.ranges).isEmpty
        && match s.mvBegin 0 anInst c d w with
          | (.error _, _) => false
          | (.ok q, u) =>
            match (runPieces ((c.pieces ⟨0, anInst, c.na⟩ ⟨d, q.1.getD 0 0, q.1.getD 1 0, q.2⟩).drop w.made)
              { w with stream := some q } u).1 with
            | none => !waits
            | some .wait => waits
            | some _ => false
theorem witness_MoversMoveData : mvMeets (mvState (mvCmd 1 2 2 0 64)) 1 false = true
    ∧ mvMeets (mvState (mvCmd 1 0 2 0 64)) 1 false = true ∧ mvMeets (mvState (mvCmd 1 2 2 0 64) 1) 1 false = true
    ∧ mvMeets (mvState (mvCmd 2 2 2 0 64)) 2 false = true ∧ mvMeets (mvState (mvCmd 3 0 2 5 64)) 3 false = true
    ∧ mvMeets (mvState (mvCmd 4 0 0 0 64)) 4 false = true ∧ mvMeets (mvState (mvCmd 5 0 0 0 64)) 5 false = true
    ∧ mvMeets { mvState (mvCmd 1 0 2 0 64) with mem.setClr := [(1, true)] } 1 true = true := by
  decide +kernel
theorem witness_MoversCopyAndFillInTheCache : (mvDecode (mvCmd 1 2 2 0 64)).dconv = some ⟨(mvDecode (mvCmd 1 2 2 0 64)).sfmt, false, false, true⟩
    ∧ (mvDecode (mvCmd 1 2 2 0 64)).rows = 1 ∧ (mvDecode (mvCmd 1 2 2 0 64)).sfmt.scaled = false
    ∧ (mvDecode (mvCmd 1 2 2 0 64)).dsp = 2 ∧ (mvDecode (mvCmd 1 2 2 0 64)).ssp = 2
    ∧ 64 + (mvDecode (mvCmd 1 2 2 0 64)).sfmt.bytes 8 ≤ ocSize ∧ (mvDecode (mvCmd 1 2 2 0 64)).rowlen = 8
    ∧ 8 * (mvDecode (mvCmd 3 0 2 5 64)).sfmt.bits ≤ 32768 ∧ ocGood (mvState (mvCmd 1 2 2 0 64)) 0 0 64
    ∧ (mvDecode (mvCmd 3 0 2 5 64)).mop = 3 ∧ (mvDecode (mvCmd 6 2 2 0 64)).mop = 6 ∧ (mvDecode (mvCmd 0 2 2 0 64)).mop = 0 := by
  unfold ocGood
  decide +kernel
theorem witness_MoverHasNoCommand : ((mvState []).core 0).cmds[1]? = none := by decide

/-! ### Statements about control cores -/

/-- The image of the running graph: one binding to one buffer with coarse scale 1. -/
def imgHdr : List Byte :=
  zeros 32 ++ leBytes 4 128 ++ leBytes 4 1 ++ zeros 16 ++ leBytes 4 192 ++ leBytes 4 1 ++ zeros 2 ++ leBytes 2 64
    ++ zeros 4 ++ leBytes 2 8 ++ zeros 22
def aGraph : Machine.Graph :=
  { ctx := 1, subseq := 0, gtag := 0, image := 0x2000, hdr := imgHdr, ordered := false, checking := false,
    cancelled := false, tasks := [{ st := .running, nbind := 1 }], fin := none }
def hbmPut (s : State) (a : Nat) (bs : List Byte) : State := { s with mem.hbm := writeBytes 0 s.mem.hbm (s.hbmKey 1 a) bs }
def withGraph (s : State) : State :=
  let s := hbmPut s (0x2000 + 128) (zeros 16 ++ leBytes 8 0x010003)
  let s := hbmPut s (0x2000 + 128 + 20) (leBytes 4 w32One.toNat)
  { s with sched.graphs := [aGraph] }
/-- Core 0 runs code that begins with `code`; register k holds `rs[k]`. -/
def codeState (code : List Byte) (rs : List Nat) (l : List (Fld × Nat) := []) : State :=
  let s := withGraph (ctxWith l code)
  s.setCore 0 { s.core 0 with s := Vector.ofFn fun k => BitVec.ofNat 64 (rs.getD k.val 0) }
def fetchOk (s : State) (word : Nat) (payload : List Byte) (regs : List (BitVec 5)) : Bool :=
  s.works && decide (s.running 0 = some anInst) && decide ((s.core 0).wait = .none)
    && okAnd ((fetch 0 anInst (s.core 0).pc 4).go s) (fun b v => decide (b = leBytes 4 word)
      && okAnd ((fetch 0 anInst ((s.core 0).pc + 4) payload.length).go v) fun p _ => decide (p = payload))
    && regs.all fun r => decide (r.toNat ∉ s.pendingScalars 0)
theorem fetches_of {s : State} {word : Nat} {payload : List Byte} {regs : List (BitVec 5)}
    (h : fetchOk s word payload regs = true) : ∃ u, fetches s 0 word payload regs anInst u := by
  simp only [fetchOk, Bool.and_eq_true, decide_eq_true_eq, List.all_eq_true] at h
  obtain ⟨⟨⟨⟨h1, h2⟩, h3⟩, h4⟩, h5⟩ := h
  obtain ⟨b, v, e, h4⟩ := of_okAnd h4
  simp only [Bool.and_eq_true, decide_eq_true_eq] at h4
  obtain ⟨rfl, h4⟩ := h4
  obtain ⟨p, u, e', h4⟩ := of_okAnd h4
  obtain rfl := of_decide_eq_true h4
  exact ⟨u, h1, h2, h3, ⟨v, e, e'⟩, h5⟩

def aR : RForm := ⟨3, 1, 2, 0⟩
def anI (imm : BitVec 14) : IForm := ⟨3, 1, imm⟩
def aB : BForm := ⟨1, 2, 4⟩
def aP : PForm := ⟨3, 0⟩
def fetchesWord (w : Nat) (payload : List Byte) (regs : List (BitVec 5)) : Bool :=
  fetchOk (codeState (leBytes 4 w ++ payload) [0, 64, 5]) w payload regs
theorem witness_ControlCoreComputes :
    ([0x01, 0x02, 0x03, 0x04, 0x05, 0x06, 0x07, 0x08, 0x09, 0x0A, 0x0B, 0x48, 0x49, 0x4A, 0x4B].all fun op =>
      fetchesWord (rWord op aR) [] [3, 1, 2]) = true
    ∧ ([0x10, 0x11, 0x12, 0x13, 0x14, 0x15, 0x40].all fun op => fetchesWord (iWord op (anI 7)) [] [3, 1]) = true
    ∧ ([0x18, 0x19].all fun op => fetchesWord (pWord op aP) (leBytes 4 9) [3]) = true ∧ aR.rest = 0 ∧ aP.rest = 0
    ∧ (anI 7).imm.toNat < 64 := by
  decide +kernel
theorem witness_ControlCoreLoadsAndJumps :
    ([0x20, 0x21, 0x22, 0x2C, 0x2D].all fun op => fetchesWord (iWord op (anI 0)) [] [3, 1]) = true
    ∧ ([0x28, 0x29, 0x2A, 0x2B].all fun op => fetchesWord (bWord op aB) [] [1, 2]) = true
    ∧ (((codeState [] [0, 64, 5]).core 0).reg 1 + (anI 0).imm.signExtend 64).toNat = 64 ∧ 64 + 8 ≤ ocSize
    ∧ ocGood (codeState [] [0, 64, 5]) 0 64 64 := by
  unfold ocGood
  decide +kernel
def lddState : State := codeState (leBytes 4 (iWord 0x22 (anI 2))) [0, 0, 5]
theorem witness_BoundRecordIsRead : fetchOk lddState (iWord 0x22 (anI 2)) [] [3, 1] = true
    ∧ lddState.bindIn anInst 0 = true := by decide +kernel
theorem witness_BoundRecordReads : ∃ b u, (bufferOf (dieUnit 0) anInst 0).go lddState = (.ok b, u) ∧ true = true :=
  of_okAnd (by decide +kernel)

def zP : PForm := ⟨0, 0⟩
def semState (op v : Nat) (l : List (Fld × Nat)) : State :=
  codeState (leBytes 4 (rWord op ⟨0, 1, 2, 0⟩)) [0, 9, v] ([(F.semValid 9, 1), (F.semOwner 9, 1)] ++ l)
theorem witness_ControlCoreIssuesAndWaits :
    fetchOk (codeState (leBytes 4 (pWord 0x30 zP) ++ leBytes 16 1) []) (pWord 0x30 zP) (leBytes 16 1) [] = true
    ∧ fetchOk (codeState (leBytes 4 (pWord 0x31 zP) ++ leBytes 8 0x1001) []) (pWord 0x31 zP) (leBytes 8 0x1001) [] = true
    ∧ fetchOk (codeState (leBytes 4 (rWord 0x32 ⟨0, 1, 0, 0⟩)) [0, 64]) (rWord 0x32 ⟨0, 1, 0, 0⟩) [] [1] = true
    ∧ fetchOk (codeState (leBytes 4 (iWord 0x33 (anI 15))) []) (iWord 0x33 (anI 15)) [] [] = true
    ∧ fetchOk (codeState (leBytes 4 (rWord 0x3E ⟨0, 0, 0, 0⟩)) []) (rWord 0x3E ⟨0, 0, 0, 0⟩) [] [] = true
    ∧ (codeState [] []).quiet 0 15 = true
    ∧ (((codeState [] []).setMat 0 { queue := [{ w := 1#128, seq := 0 }] }).quiet 0 15) = false := by decide +kernel
theorem witness_SemaphoreInstructions : ([0x38, 0x39, 0x3A].all fun op =>
      fetchOk (semState op 4 []) (rWord op ⟨0, 1, 2, 0⟩) [] [0, 1, 2]) = true
    ∧ (semState 0x38 4 []).semUsable 9 1 = true ∧ (semState 0x39 4 []).getF (F.semCount 9) + 4 < 2 ^ 32
    ∧ ((semState 0x39 4 []).ctxs.ctx.all fun e => decide (e.2.donor = 0)) = true ∧ (semState 0x3A 4 []).semReqs 9 = []
    ∧ 4 ≤ (semState 0x3A 4 [(F.semCount 9, 6)]).getF (F.semCount 9) ∧ (semState 0x3A 4 []).getF (F.semCount 9) < 4 := by
  decide +kernel
/-- Eight words wait in each queue of core 0; it waits at a fence. -/
def fullCore (code : List Byte) : State :=
  let s := codeState code [0, 64]
  let s := (s.setMat 0 { queue := List.replicate 8 { w := 1#128, seq := 0 } }).setVec 0
    { queue := List.replicate 8 { w := 1, sA := 0, sA1 := 0, sB := 0, sC := 0, sC1 := 0 } }
  s.setCore 0 { s.core 0 with cmds := List.replicate 8 { cmd := zeros 64 } }
theorem witness_ControlCoreQueuesFull :
    fetchOk (fullCore (leBytes 4 (pWord 0x30 zP) ++ leBytes 16 1)) (pWord 0x30 zP) (leBytes 16 1) [] = true
    ∧ fetchOk (fullCore (leBytes 4 (pWord 0x31 zP) ++ leBytes 8 1)) (pWord 0x31 zP) (leBytes 8 1) [] = true
    ∧ fetchOk (fullCore (leBytes 4 (rWord 0x32 ⟨0, 1, 0, 0⟩))) (rWord 0x32 ⟨0, 1, 0, 0⟩) [] [1] = true
    ∧ 8 ≤ ((fullCore []).mat 0).waiting ∧ 8 ≤ ((fullCore []).vec 0).queue.length
    ∧ 8 ≤ ((fullCore []).core 0).cmds.length := by decide +kernel
theorem witness_FenceReleases : on.works = true
    ∧ ((codeState [] []).setCore 0 { (codeState [] []).core 0 with wait := .fence 15 }).running 0 = some anInst
    ∧ (((codeState [] []).setCore 0 { (codeState [] []).core 0 with wait := .fence 15 }).core 0).wait = .fence 15 := by
  decide +kernel

theorem witness_ControlCoreFaults :
    fieldAt (leBytes 4 0x00) 0 1 ∉ ccOps ∧ fetchesWord 0 [] [] = true
    ∧ ([0x01, 0x02, 0x03, 0x04, 0x05, 0x06, 0x07, 0x08, 0x09, 0x0A, 0x0B, 0x48, 0x49, 0x4A, 0x4B, 0x3A, 0x38, 0x39, 0x32,
        0x3E].all fun op => fetchesWord (rWord op ⟨3, 1, 2, 1⟩) [] []) = true
    ∧ ([(0x13, 64), (0x14, 64), (0x15, 64), (0x22, 8), (0x33, 16)].all fun e =>
        fetchesWord (iWord e.1 (anI (BitVec.ofNat 14 e.2))) [] []) = true
    ∧ ([(0x18, 4), (0x19, 4), (0x30, 16), (0x31, 8)].all fun e => fetchesWord (pWord e.1 ⟨3, 1⟩) (leBytes e.2 9) []) = true
    ∧ fetchesWord (iWord 0x40 (anI 9)) [] [3] = true ∧ fetchesWord (iWord 0x3F (anI 9)) [] [] = true
    ∧ ([0x20, 0x21, 0x2D].all fun op => fetchesWord (iWord op (anI 1)) [] [3, 1]) = true
    ∧ (((codeState [] [0, 64, 5]).core 0).reg 1 + (anI 1).imm.signExtend 64).toNat % 4 ≠ 0 := by decide +kernel
theorem witness_ControlCoreFaultsOfOperands :
    fetchOk (codeState (leBytes 4 (iWord 0x22 (anI 2))) [0, 7]) (iWord 0x22 (anI 2)) [] [3, 1] = true
    ∧ (codeState [] [0, 7]).bindIn anInst 7 = false
    ∧ ([0x38, 0x39, 0x3A].all fun op => fetchOk (semState op 0 []) (rWord op ⟨0, 1, 2, 0⟩) [] [0, 1, 2]
      && fetchOk (semState op 4 [(F.semOwner 9, 2)]) (rWord op ⟨0, 1, 2, 0⟩) [] [0, 1, 2]) = true
    ∧ (semState 0x38 4 [(F.semOwner 9, 2)]).semUsable 9 1 = false
    ∧ 2 ^ 32 ≤ (semState 0x39 4 [(F.semCount 9, 2 ^ 32 - 1)]).getF (F.semCount 9) + 4
    ∧ fetchOk (codeState (leBytes 4 (rWord 0x32 ⟨0, 1, 0, 0⟩)) [0, 1]) (rWord 0x32 ⟨0, 1, 0, 0⟩) [] [1] = true
    ∧ anInst.codeLen ≤ 4096 := by decide +kernel
theorem witness_FetchChangesNothingElse : ∃ b u, (fetch 0 anInst 0 4).go (codeState [] []) = (.ok b, u) ∧ true = true :=
  of_okAnd (by decide +kernel)

/-! ### Statements about matrix engines -/

/-- A bit field of a word being spelled. -/
def fields (l : List (Nat × Nat)) : Nat := l.foldl (fun w e => w + e.2 * 2 ^ e.1) 0
def mw (w : Nat) : MWord := { w := BitVec.ofNat 128 w, seq := 0 }
/-- Engine 0 of core 0 is `m` with word `w` at the front of its queue; `data` lies in the operand cache. -/
def matState (w : Nat) (m : MatEng) (l : List (Fld × Nat) := []) (data : List Byte := []) : State :=
  let s := codeState [] [] ([(F.tallyCtlValid 0, 1), (F.tallyCtlOwner 0, 1)] ++ l)
  let s := s.setMat 0 { m with queue := [mw w] }
  { s with mem.oc := writeBytes 0 s.mem.oc (ocKey 0 0) data }
theorem matFront_of (w op : Nat) (m : MatEng) (l : List (Fld × Nat)) (data : List Byte) (hm : m.queue = [])
    (h : (bits (mw w).w.toNat 0 4 = op ∧ bits (mw w).w.toNat 5 3 = 0 ∧ (matState w m l data).matHeld 0 0 (mw w) = false)
      ∧ (matState w m l data).works = true ∧ (matState w m l data).running 0 = some anInst
      ∧ (matState w m l data).mat 0 = { m with queue := [mw w] }) :
    matFront (matState w m l data) 0 0 anInst (mw w) op m := by
  obtain ⟨⟨h1, h2, h6⟩, h3, h4, h5⟩ := h
  have h5 : (matState w m l data).mat (matIdx 0 0) = { m with queue := [mw w] } := h5
  refine ⟨h3, h4, by decide, ⟨[], by rw [h5], ?_⟩, h1, h2, h6⟩
  rw [h5, ← hm]
def maccW : Nat := fields [(0, 1), (8, 2), (10, 2), (24, 1), (64, 7)]
def mmaW : Nat := fields [(0, 2), (16, 0), (44, 64), (72, 16)]
def mpartW : Nat := fields [(0, 3), (16, 64)]
def mcombW : Nat := fields [(0, 4), (16, 0)]
def moutW : Nat := fields [(0, 5), (8, 0), (16, 64)]
def open0 : MatEng := { st := .opened, fa := 2, fb := 2, mrows := 1, ncols := 1, nseg := 1, seg0 := 0, tag := 7, fresh := true }
def whole0 : MatEng := { open0 with st := .folded, pushed := 1, endK := true, stack := [(1, [(0, w32One)])], fresh := false }
def half0 : MatEng := { whole0 with nseg := 2, endK := false }
theorem witness_MatrixWordsAtTheFront :
    matFront (matState maccW {}) 0 0 anInst (mw maccW) 1 {} ∧ matFront (matState mmaW open0) 0 0 anInst (mw mmaW) 2 open0
    ∧ matFront (matState mpartW whole0) 0 0 anInst (mw mpartW) 3 whole0
    ∧ matFront (matState mcombW half0) 0 0 anInst (mw mcombW) 4 half0
    ∧ matFront (matState moutW whole0) 0 0 anInst (mw moutW) 5 whole0 := by
  refine ⟨matFront_of _ _ _ _ _ rfl ?_, matFront_of _ _ _ _ _ rfl ?_, matFront_of _ _ _ _ _ rfl ?_,
    matFront_of _ _ _ _ _ rfl ?_, matFront_of _ _ _ _ _ rfl ?_⟩ <;> decide +kernel
/-- A step record with a doomed step suppresses the work of context 1. -/
def doom (s : State) : State := s.setStepRec 1 { flags := 1, doom := { doomed := true } }
theorem witness_Suppressed : (doom (matState mmaW open0)).suppressed 1 = true
    ∧ (doom (matState moutW whole0)).running 0 = some anInst := by decide +kernel
def sibling : List Byte := leBytes 4 7 ++ leBytes 2 2 ++ leBytes 2 1 ++ leBytes 2 1 ++ leBytes 1 (2 + 8) ++ zeros 53
theorem witness_MatrixWordsFormed :
    matFormed (matState maccW {}) anInst maccW {} ∧ matFormed (matState mmaW open0) anInst mmaW open0
    ∧ matFormed (matState mpartW whole0) anInst mpartW whole0 ∧ matFormed (matState mcombW half0) anInst mcombW half0
    ∧ matFormed (matState moutW whole0) anInst moutW whole0 := by
  unfold matFormed
  rw [show bits maccW 0 4 = 1 from by decide +kernel, show bits mmaW 0 4 = 2 from by decide +kernel,
    show bits mpartW 0 4 = 3 from by decide +kernel, show bits mcombW 0 4 = 4 from by decide +kernel,
    show bits moutW 0 4 = 5 from by decide +kernel]
  exact ⟨(by decide +kernel : bits maccW 8 2 ≠ 3 ∧ bits maccW 10 2 ≠ 3 ∧ bits maccW 40 16 < segCount (bits maccW 24 16) ∧
      bits maccW 56 8 = 0 ∧ bits maccW 96 32 = 0),
    (by decide +kernel : bits mmaW 72 5 ≤ 16 ∧ bits mmaW 77 51 = 0),
    (by decide +kernel : bits mpartW 8 8 = 0 ∧ bits mpartW 42 86 = 0 ∧ 64 * bits mpartW 16 14 + partialBytes ≤ ocSize ∧
      (matState mpartW whole0).slotOk (bits mpartW 30 12) anInst.ctx = true),
    (by decide +kernel : bits mcombW 8 8 = 0 ∧ bits mcombW 30 98 = 0 ∧ 64 * bits mcombW 16 14 + partialBytes ≤ ocSize),
    ⟨.w32, false, false, false⟩, 1, by decide +kernel⟩
theorem witness_MatrixWordsActOnTheSpan :
    matInTurn (matState maccW {}) 0 maccW {} ∧ matInTurn (matState mmaW open0) 0 mmaW open0
    ∧ matInTurn (matState mpartW whole0) 0 mpartW whole0 ∧ matInTurn (matState mcombW half0 [] sibling) 0 mcombW half0
    ∧ matInTurn (matState moutW whole0) 0 moutW whole0 := by
  unfold matInTurn
  rw [show bits maccW 0 4 = 1 from by decide +kernel, show bits mmaW 0 4 = 2 from by decide +kernel,
    show bits mpartW 0 4 = 3 from by decide +kernel, show bits mcombW 0 4 = 4 from by decide +kernel,
    show bits moutW 0 4 = 5 from by decide +kernel]
  exact ⟨trivial, ⟨1, by decide +kernel⟩, (by decide +kernel : whole0.st ≠ .idle ∧ whole0.spanOk = true),
    ⟨sibling, by decide +kernel⟩,
    (by decide +kernel : whole0.st ≠ .idle ∧ whole0.spanOk = true ∧ whole0.seg0 = 0 ∧ whole0.span = whole0.nseg ∧
      whole0.endK = true)⟩
theorem witness_MatrixPanelsAndRanges : open0.mmaInside mmaW = true ∧ (matState mmaW open0).suppressed 1 = false
    ∧ (∀ r ∈ mmaReads mmaW 0 open0, ocGood (matState mmaW open0) 0 r.1 r.2)
    ∧ half0.mrows ≤ 64 ∧ half0.ncols ≤ 64 ∧ ocGood (matState mcombW half0 [] sibling) 0 (64 * bits mcombW 16 14) partialBytes := by
  unfold ocGood
  decide +kernel
theorem witness_MatrixOutputWithoutScales : ∃ cs u, (ocReads 0 (whole0.outReads ⟨.w32, false, false, false⟩ 0 0) >>= fun _ =>
    coarseUse 0 uMatrix anInst [(false, 0), (false, 0), (false, 0)]).go
    ((matState moutW whole0).setMat 0 whole0) = (.ok cs, u) ∧ true = true := of_okAnd (by decide +kernel)
theorem witness_EngineWordsFault : (bits 0 0 4 = 0 ∧ bits 6 0 4 = 6 ∧ bits (1 + 32) 0 4 = 1 ∧ bits (1 + 32) 5 3 ≠ 0)
    ∧ bits maccW 0 4 ≠ 2 ∧ (on.mat 0).queue = [] ∧ ({} : MatEng).st = .idle
    ∧ 16 < bits (fields [(0, 2), (72, 17)]) 72 5 ∧ open0.mmaInside (fields [(0, 2), (16, 0x3FFF), (44, 64), (72, 16)]) = false
    ∧ (({} : MatEng).st ≠ .idle) = False := by decide +kernel
theorem witness_SegmentStackIsTheTree : open0.stack = [] ∧ open0.blk = 0 ∧ open0.mrows ≤ 64 ∧ open0.ncols ≤ 64
    ∧ 0 < open0.mrows ∧ 0 < open0.ncols ∧ 0 < [([] : Tile), [(0, w32One)]].length := by decide

/-! ### Statements about vector engines -/

def vword (w sA sA1 sB sC : Nat) : VWord :=
  { w := BitVec.ofNat 64 w, sA := BitVec.ofNat 64 sA, sA1 := BitVec.ofNat 64 sA1, sB := BitVec.ofNat 64 sB,
    sC := BitVec.ofNat 64 sC, sC1 := 0 }
/-- The vector queue of core 0 holds `q`, in operand mode `win`. -/
def vecState (win : Bool) (q : VWord) (k : Tbl (BitVec 128) := []) : State :=
  let s := codeState [] [] [(F.tallyCtlValid 0, 1), (F.tallyCtlOwner 0, 1)]
  let s := s.setCx 1 { s.cx 1 with grant := some { aGrant with vmode := win } }
  s.setVec 0 { queue := [q], k := k }
def vecOk (win : Bool) (q : VWord) (cls op : Nat) (k : Tbl (BitVec 128) := []) : Bool :=
  let s := vecState win q k
  s.works && decide (s.running 0 = some anInst) && decide (s.grant 1 = some { aGrant with vmode := win })
    && decide ((s.vec 0).queue = [q]) && decide (vCls q.w.toNat = cls) && decide (vOp q.w.toNat = op)
    && decide ((s.vec 0).wbase % 65536 = 0) && decide ((s.vec 0).wbase < ocSize) && decide ((s.vec 0).run = none)
    && decide (wordsOf s.mem.sramBad (ocKey 0 0) ocSize = [])
theorem vecFront_of {win : Bool} {q : VWord} {cls op : Nat} {k : Tbl (BitVec 128)} (h : vecOk win q cls op k = true) :
    ∃ u, vecFront (vecState win q k) 0 anInst win q cls op u := by
  simp only [vecOk, Bool.and_eq_true, decide_eq_true_eq] at h
  obtain ⟨⟨⟨⟨⟨⟨⟨⟨⟨h1, h2⟩, h3⟩, h4⟩, h5⟩, h6⟩, h7⟩, h8⟩, h9⟩, h10⟩ := h
  exact ⟨_, h1, h2, by decide, ⟨_, h3, rfl⟩, ⟨[], h4, rfl⟩, h9, h5, h6, h7, h8, h10⟩

/-- A word of vector operands 1, 2, 3 and 4 for D, a, b and c. -/
def vw (cls op : Nat) (rest : List (Nat × Nat) := [(12, 1), (20, 2), (28, 3), (36, 4)]) : Nat :=
  fields ([(0, cls), (4, op)] ++ rest)
def vq (cls op : Nat) (rest : List (Nat × Nat) := [(12, 1), (20, 2), (28, 3), (36, 4)]) : VWord := vword (vw cls op rest) 0 256 0 0
theorem witness_VectorLaneWords :
    (((upTo 15).map fun op => (1, op)) ++ ((upTo 11).map fun op => (4, op))).all (fun e =>
      vecOk false (vq e.1 e.2) e.1 e.2 && vecOk true (vq e.1 e.2) e.1 e.2) = true
    ∧ bits (vw 1 0) 56 8 = 0 ∧ bits (vw 1 0) 12 8 = 1 ∧ bits (vw 1 0) 20 8 = 2 ∧ bits (vw 1 0) 36 8 = 4
    ∧ vecField false 4 ∧ vecField true 4 ∧ (vecState true (vq 1 0)).slotOk (bits (vw 1 0) 44 12) 1 = true := by
  unfold vecField
  decide +kernel
theorem witness_TranscendentalSpecialInputs : w32IsNaN 0x7FC00001#32 = true ∧ w32IsFinite 0xC0000000#32 = true
    ∧ w32IsZero 0xC0000000#32 = false ∧ w32Neg 0xC0000000#32 = true ∧ w32Neg 0x43000001#32 = false
    ∧ w32IsNaN 0x43000001#32 = false ∧ 0x42B17218 ≤ (0x43000001#32).toNat := by decide
/-- Masks 1, 2 and 3 for D, A and B; scalar 0 is field 0x80. -/
theorem witness_VectorMasks :
    ((upTo 6).all fun op => vecOk false (vq 2 op) 2 op) = true
    ∧ ((upTo 5).all fun op => vecOk true (vq 3 op [(12, 1), (20, 2), (28, if op = 4 then 0 else 3)]) 3 op) = true
    ∧ vecOk false (vq 3 5 [(12, 1), (20, 0x80)]) 3 5 = true ∧ vecOk false (vq 3 6 [(12, 0x80), (20, 2)]) 3 6 = true
    ∧ bits (vw 3 6 [(12, 0x80), (20, 2)]) 12 8 = 0x80 ∧ scaField 0x80 := by
  unfold scaField
  decide +kernel
/-- VLD and VST of format code `aux` with the address in s0, block scales at s1. -/
def lsq (op aux : Nat) : VWord := vq 5 op [(12, 1), (20, 0x80), (28, 0x81), (36, 0), (56, aux)]
theorem witness_VectorLoadsAndStores :
    ([0, 1, 2, 3].all fun aux => vecOk false (lsq 0 aux) 5 0 && vecOk true (lsq 0 aux) 5 0) = true
    ∧ ([0, 1].all fun aux => vecOk false (lsq 1 aux) 5 1) = true
    ∧ ([Fmt.w32, .kw16, .kq8, .kq4].all fun f => lanes.all fun l => laneIn f 0 256 l) = true
    ∧ bits (lsq 0 2).w.toNat 20 8 = 0x80 ∧ scaField 0x81 ∧ (lsq 0 2).sB.toNat % 16 = 0
    ∧ (vecState false (lsq 0 0)).bindIn anInst 0 = true ∧ cvcDecode 1 = some ⟨.kw16, false, false, false⟩
    ∧ cvcDecode 2 = some ⟨.kq8, false, true, false⟩ := by
  unfold scaField
  decide +kernel
/-- Mask 1 holds block 0. -/
def oneBlock : VWord := vq 5 1 [(8, 1), (12, 1), (20, 0x80), (28, 0x81), (36, 0), (56, 2)]
theorem witness_ScaledStoreOfOneBlock : vecOk false oneBlock 5 1 [(1, 0xFFFF)] = true
    ∧ (lanes.all fun l => lit (vecState false oneBlock [(1, 0xFFFF)]) 0 (bits oneBlock.w.toNat 8 3) l == decide (l / 16 = 0)) = true := by
  decide +kernel
theorem witness_VectorCoarseScales : ∃ cs v, (ocReads 0 [(0, 2), (256, 1)] >>= fun _ => coarseUse 0 uVector anInst
    [(true, 0)]).go (vecState false oneBlock) = (.ok cs, v) ∧ decide (coarseOk (cs.getD 0 0) = true) = true :=
  of_okAnd (by decide +kernel)

theorem witness_VectorSumsAndFolds : vecOk false (vq 6 0 []) 6 0 = true ∧ vecOk true (vq 6 1) 6 1 = true
    ∧ vecOk false (vq 6 1 [(12, 1), (20, 2), (28, 3), (56, 2)]) 6 1 = true
    ∧ vecOk false (vq 6 2 [(12, 0x80), (28, 0x81)]) 6 2 = true ∧ vecOk true (vq 6 2) 6 2 = true
    ∧ ([3, 4, 5].all fun op => vecOk true (vq 6 op) 6 op && vecOk false (vq 6 op [(12, 0x80), (20, 2)]) 6 op) = true
    ∧ bits (vw 6 2) 8 4 = 0 := by
  decide +kernel
theorem witness_VectorPermutations :
    ([0, 2].all fun op => vecOk false (vq 7 op [(12, 1), (20, 2), (36, 0x80)]) 7 op) = true
    ∧ vecOk false (vq 7 1 [(20, 2), (28, 0x80), (56, 1)]) 7 1 = true
    ∧ vecOk true (vq 7 3 [(12, 1), (28, 0x80), (56, 3)]) 7 3 = true
    ∧ vecOk false (vq 7 4 [(12, 1), (20, 0x80), (28, 3)]) 7 4 = true
    ∧ vecOk false (vq 7 5 [(20, 0x80), (28, 3), (36, 4)]) 7 5 = true
    ∧ vecOk false (vq 7 6 [(12, 1), (20, 2), (28, 0x80)]) 7 6 = true ∧ vecOk false (vq 9 0 [(20, 0x80)]) 9 0 = true
    ∧ ((activeLanes (vecState false (vq 7 4)) 0 (vw 7 4)).all fun l =>
      decide (vval (vecState false (vq 7 4)) 0 false 3 0 l = 0#32)) = true ∧ (65536 : Nat) < ocSize
    ∧ (activeLanes (vecState false (vq 7 1)) 0 (vw 7 1)).length * laneSize .w32 ≤ ocSize := by
  decide +kernel
/-- A row of two W32 elements at 0, results at 256. -/
def rowq (op : Nat) : VWord :=
  { vq 8 op [(12, 0x84), (20, 0x80), (28, 0x82), (36, 0x83)] with sB := 2 }
theorem witness_VectorFusedRows : ([0, 1, 2].all fun op => vecOk false (rowq op) 8 op) = true
    ∧ (rowq 2).sB.toNat = 2 ∧ (rowq 2).sA.toNat % 64 = 0 ∧ (rowq 2).sA1.toNat % 64 = 0 ∧ (rowq 2).sC.toNat < 2
    ∧ 256 + 2 * laneSize .w32 ≤ ocSize ∧ bit (rowq 2).w.toNat 11 = false ∧ bits (rowq 2).w.toNat 8 3 = 0
    ∧ cvcDecode (bits (rowq 2).w.toNat 56 8) = some ⟨.w32, false, false, false⟩
    ∧ (vecState false (rowq 2)).suppressed 1 = false ∧ (doom (vecState false (rowq 2))).suppressed 1 = true
    ∧ (doom (vecState false (rowq 2))).running 0 = some anInst
    ∧ ((vecState false (rowq 2)).setVec 0 { run := some { q := rowq 2 } }).running 0 = some anInst
    ∧ ({ q := rowq 2 } : FusedRun).pass = 1 ∧ ({ q := rowq 2 } : FusedRun).chunk = 0 := by decide +kernel
/-- Words that fault: a reserved class, AUX, a vector operand beyond those of the mode, mask 0, a masked VWIN. -/
theorem witness_VectorWordsFault : vOps (vCls 10) ≤ vOp 10 ∧ vOp (vw 1 3) < vOps (vCls (vw 1 3))
    ∧ vecOk false (vq 1 0 [(56, 1)]) 1 0 = true ∧ vecOk false (vq 1 0 [(12, 0x20)]) 1 0 = true ∧ ¬ vecField false 0x20
    ∧ vecOk false (vq 2 2 [(12, 0)]) 2 2 = true ∧ vecOk false (vq 9 0 [(8, 1)]) 9 0 = true ∧ (on.vec 0).queue = []
    ∧ vecOk false { lsq 0 3 with sA := 4 } 5 0 = true ∧ vecOk false { lsq 0 3 with sA := BitVec.ofNat 64 ocSize } 5 0 = true
    ∧ ocSize < ocSize + 4 * 0 + 4 ∧ ocSize % 64 = 0 := by
  unfold vecField
  decide +kernel

/-! ### Statements about submission, graphs and semaphores -/

def ringFields : List (Fld × Nat) :=
  [(F.sqBaseAddr 1, 0xC0), (F.sqCfgLog2size 1, 6), (F.sqCfgEnable 1, 1), (F.sqCfgGraphMax 1, 8), (F.sqStatState 1, 1),
   (F.cqBaseAddr 1, 0x140), (F.cqCfgLog2size 1, 6), (F.ctxSchedEmberQuota 1, 16), (F.presentPkgPresent, 2 ^ 32 - 1)]
/-- A submission entry: image, tag, SEQ and OP. -/
def sqEntry (seq op : Nat) : List Byte := leBytes 8 0x4000 ++ leBytes 8 77 ++ leBytes 2 seq ++ leBytes 1 op ++ zeros 45
def ringWith (bs : List Byte) (l : List (Fld × Nat) := []) : State := hbmPut (ctxWith (ringFields ++ l) []) 0x3000 bs
def headOf (s : State) : Except Stop (Option (List Byte)) × State := (headEntry 1).go s
theorem witness_SubmissionRings : (ringWith (sqEntry 0 1)).works = true ∧ (ringWith (sqEntry 0 1)).consuming 1 = true
    ∧ (ringWith (sqEntry 0 1)).graphRoom 1 = true ∧ fieldAt (sqEntry 0 1) 16 2 = (ringWith (sqEntry 0 1)).getF (F.sqStatHead 1)
    ∧ fieldAt (sqEntry 0 2) 18 1 = 2 ∧ fieldAt (sqEntry 0 3) 18 1 = 3 ∧ tget false (ringWith (sqEntry 0 1)).sched.recDue 1 = false
    ∧ (ringWith (sqEntry 0 1)).sqSize 1 = 64 ∧ (fieldAt (sqEntry (65536 - 64) 1) 16 2 + 64) % 65536 = 0
    ∧ (fieldAt (sqEntry 9 1) 16 2 + 64) % 65536 ≠ 0 ∧ on.consuming 1 = false ∧ tget false on.sched.rewatch 1 = false
    ∧ tget false ({ on with sched.rewatch := [(1, true)] } : State).sched.rewatch 1 = true := by decide +kernel
theorem witness_SubmitAndCancelComplete : ([1, 2].all fun op => okAnd (headOf (ringWith (sqEntry 0 op))) fun e u =>
    decide (e = some (sqEntry 0 op)) && (u.graphsOf 1).isEmpty && !(tget false u.sched.recDue 1)) = true := by decide +kernel
theorem witness_HeadInHbm : ∃ g v, (translate (dieUnit 0) 1 ((ringWith (sqEntry 0 1)).headCva 1) false).go
    (ringWith (sqEntry 0 1)) = (.ok g, v) ∧ (match g with | .hbm _ _ => true | .comp _ => false) = true :=
  of_okAnd (by decide +kernel)
theorem witness_RingRegisters : (ringWith []).blockUp (F.sqBaseAddr 1).off = true
    ∧ (ringWith []).blockUp (F.sqCfgEnable 1).off = true
    ∧ (regOr (F.sqBaseAddr 1).off).badField 0 = none ∧ (regOr (F.sqCfgEnable 1).off).badField (6 * 2 ^ (F.sqCfgLog2size 1).lo + 8 * 2 ^ (F.sqCfgGraphMax 1).lo) = none
    ∧ (((ringWith []).spend (F.sqBaseAddr 1).off).fieldsWrite (regOr (F.sqBaseAddr 1).off).fields 0).getF (F.sqBaseAddr 1) ≠ (ringWith []).getF (F.sqBaseAddr 1)
    ∧ (on.setF (F.presentPkgPresent) (2 ^ 32 - 1)).flag (F.sqCfgEnable 1) = false := by decide +kernel

/-- An image of one kernel and one task of one instance. -/
def img0 : List Byte :=
  leBytes 4 0x47435443 ++ leBytes 2 1 ++ leBytes 2 0 ++ leBytes 2 96 ++ leBytes 2 0 ++ leBytes 4 224 ++ zeros 8
    ++ leBytes 4 96 ++ leBytes 4 1 ++ zeros 8 ++ leBytes 4 160 ++ leBytes 4 1 ++ zeros 16
    ++ leBytes 2 64 ++ leBytes 2 64 ++ leBytes 2 64 ++ leBytes 2 8 ++ leBytes 2 8 ++ zeros 22
def kern0 : List Byte := leBytes 2 1 ++ leBytes 2 0xFF ++ zeros 12 ++ leBytes 4 1 ++ leBytes 4 64 ++ zeros 40
def task0 : List Byte :=
  leBytes 4 0 ++ leBytes 4 1 ++ zeros 10 ++ leBytes 2 0xFFFF ++ zeros 6 ++ leBytes 2 0xFFFF ++ zeros 36
/-- Context 1 has one graph `g`; its image lies at 0x4000. -/
def graphWith (g : Machine.Graph) (l : List (Fld × Nat) := []) : State :=
  let s := ringWith [] l
  let s := hbmPut (hbmPut (hbmPut s 0x4000 img0) (0x4000 + 96) kern0) (0x4000 + 160) task0
  let s := s.setCore 0 {}
  { s with sched.graphs := [g] }
def checking0 : Machine.Graph := Machine.Graph.mk 1 0 77 0x4000 [] false true false [] none
def running0 (t : TaskS) : Machine.Graph := Machine.Graph.mk 1 0 77 0x4000 img0 false false false [t] none
theorem witness_GraphsTasksAndCompletions : (graphWith checking0).findGraph 1 0 = some checking0 ∧ checking0.checking = true
    ∧ on.findGraph 1 0 = none ∧ ((graphWith { checking0 with checking := false }).findGraph 1 0).any (fun g => !g.checking) = true
    ∧ (0x4001 : Nat) % 64 ≠ 0 := by decide +kernel
theorem witness_ImageChecked : ∃ r u, (checkImage 1 0x4000).go (graphWith checking0) = (.ok r, u)
    ∧ decide (r.1 = 0 ∧ r.2.2.length = 1) = true := of_okAnd (by decide +kernel)
theorem witness_ImageRejected : ∃ r u, (checkImage 1 0x8000).go (graphWith checking0) = (.ok r, u) ∧ decide (r.1 = 1) = true :=
  of_okAnd (by decide +kernel)
def admitted0 : TaskS := { st := .admitted, instances := 1, affinity := 0xFFFF, sigsem := 0xFFFF }
def ready0 : TaskS := { admitted0 with st := .ready, ember := some 5 }
def advanced : State := (graphWith (running0 admitted0)).advance 1
theorem witness_EmbersIssue : advanced.getF (F.ctxEmbersHeld 1) < advanced.getF (F.ctxSchedEmberQuota 1)
    ∧ advanced.getF F.schEmberInuse < 16384
    ∧ ((leastBy (fun p => taskKey p.2.2.2 p.2.1 p.2.2.1) ((advanced.taskList 1).filter fun p =>
        p.2.2.2.st == .admitted && !p.1.cancelled && p.1.fin.isNone)).map fun p => p.2.2.1) = some 0
    ∧ on.getF (F.ctxSchedEmberQuota 1) ≤ on.getF (F.ctxEmbersHeld 1) := by decide +kernel
theorem witness_CohortPlaced : ready0.lcohort = 0 ∧ (graphWith (running0 ready0)).resident 1 = true ∧ (graphWith (running0 ready0)).grant 1 = some aGrant
    ∧ (graphWith (running0 ready0)).taskList 1 = [(running0 ready0, 0, 0, ready0)] ∧ ready0.placed < ready0.instances
    ∧ ((graphWith (running0 ready0)).placeTask 1 aGrant (running0 ready0) 0 ready0).isSome = true
    ∧ (graphWith (running0 ready0)).freeCores aGrant 0 = [0] := by decide +kernel
def ended0 : Machine.Graph := { running0 { st := .done } with fin := some ⟨1, 0, 1⟩ }
def endedState (l : List (Fld × Nat)) : State := { graphWith ended0 l with sched.finished := [(1, 0)] }
theorem witness_CompletionEntry : ((endedState []).sched.finished.find? fun p => p.1 = 1) = some (1, 0)
    ∧ (endedState []).findGraph 1 0 = some ended0 ∧ (endedState []).cqSize 1 = 64 ∧ (endedState []).getF (F.cqPtrTail 1) = 0
    ∧ (endedState [(F.cqPtrTail 1, 64)]).getF (F.cqPtrTail 1) = 64 ∧ (endedState [(F.cqCfgBell 1, 1)]).flag (F.cqCfgBell 1) = true
    ∧ (on.sched.finished.find? fun p => p.1 = 1) = none := by decide +kernel
theorem witness_CompletionEntryWrites : ∃ b u, (cvaWrite (dieUnit 0) 1 0x5000 (zeros 32)).go (endedState []) = (.ok b, u)
    ∧ decide (u.flag (F.cqCfgBell 1) = false) = true := of_okAnd (by decide +kernel)

def semQueue (w : Waiter) (c : Nat) : State :=
  { codeState [] [] [(F.semValid 9, 1), (F.semOwner 9, 1), (F.semCount 9, c), (F.presentPkgPresent, 2 ^ 32 - 1)] with
    sched.semQ := [(9, [⟨w, 4⟩])] }
def peerWord (peer : Nat) : Nat := 2 ^ (F.semValid 9).lo + 1 * 2 ^ (F.semOwner 9).lo + 2 ^ (F.semPeeren 9).lo + peer * 2 ^ (F.semPeer 9).lo
def semWritten (l : List (Fld × Nat)) (peer : Nat) : State :=
  ((onWith l).spend (F.semCount 9).off).fieldsWrite (regOr (F.semCount 9).off).fields (peerWord peer)
theorem witness_SemaphoresAndSchedulerRegisters : (semQueue (.core 1 0) 4).works = true
    ∧ (semQueue (.core 1 0) 4).semReqs 9 = [⟨.core 1 0, 4⟩] ∧ (semQueue (.core 1 0) 3).getF (F.semCount 9) < 4
    ∧ 4 ≤ (semQueue (.task 1 0 0) 4).getF (F.semCount 9) ∧ ((semQueue (.core 1 0) 4).core 0).inst = some anInst ∧ on.semReqs 9 = []
    ∧ (semQueue (.core 1 0) 4).blockUp (F.semCount 9).off = true ∧ (regOr (F.semCount 9).off).badField (peerWord 2) = none
    ∧ (∀ y c, Waiter.coll 1 ≠ .core y c) ∧ (∀ y sub i, Waiter.coll 1 ≠ .task y sub i)
    ∧ (semQueue (.coll 1) 4).semReqs 9 = [⟨.coll 1, 4⟩] ∧ (semWritten [] 2).peerAlien 9 = false ∧ (semWritten [(F.secTenantTenant 2, 1)] 2).peerAlien 9 = true :=
  ⟨by decide +kernel, by decide +kernel, by decide +kernel, by decide +kernel, by decide +kernel, by decide +kernel,
    by decide +kernel, by decide +kernel, fun _ _ => by simp, fun _ _ _ => by simp, by decide +kernel, by decide +kernel,
    by decide +kernel⟩
theorem witness_SchedulerProbe : (graphWith (running0 ready0)).blockUp F.schProbeCtx.off = true
    ∧ (regOr F.schProbeCtx.off).badField (2 ^ F.schProbeCtx.lo) = none ∧ F.schProbeCtx.of (2 ^ F.schProbeCtx.lo) = 1
    ∧ F.schProbeSubseq.of (2 ^ F.schProbeCtx.lo) = 0
    ∧ (graphWith (running0 ready0)).findGraph 1 0 = some (running0 ready0) ∧ (running0 ready0).tasks[0]? = some ready0 := by decide +kernel
theorem witness_CompletionRingRegisters : (ringWith []).blockUp (F.cqPtrHead 1).off = true
    ∧ (regOr (F.cqPtrHead 1).off).badField (2 * 2 ^ (F.cqPtrHead 1).lo) = none
    ∧ (F.cqPtrHead 1).of (2 * 2 ^ (F.cqPtrHead 1).lo) = 2
    ∧ ((ringWith [] [(F.cqPtrTail 1, 3)]).getF (F.cqPtrTail 1) + 65536 - 2) % 65536 ≤ 3
    ∧ 3 < ((ringWith [] [(F.cqPtrTail 1, 1)]).getF (F.cqPtrTail 1) + 65536 - 2) % 65536
    ∧ (regOr (F.cqBaseAddr 1).off).badField 0 = none ∧ (regOr (F.cqCfgLog2size 1).off).badField (7 * 2 ^ (F.cqCfgLog2size 1).lo) = none
    ∧ (((ringWith []).spend (F.cqBaseAddr 1).off).fieldsWrite (regOr (F.cqBaseAddr 1).off).fields 0).getF (F.cqBaseAddr 1) ≠ (ringWith []).getF (F.cqBaseAddr 1)
    ∧ (ringWith []).blockUp (F.cqBaseAddr 1).off = true := by decide +kernel

/-! ### Statements about formats, Tally and the Smithy -/

theorem witness_Kq4CodesHaveTheirValues : (15 : Nat) < 16 ∧ (15 : Nat) ≠ 8 ∧ (0 : Nat) ≠ 8 := by decide
theorem witness_Kq8CodesHaveTheirValues : (255 : Nat) < 256 ∧ (255 : Nat) ≠ 0x80 ∧ 255 / 8 % 16 = 15 ∧ 127 / 8 % 16 = 15 ∧ 7 / 8 % 16 = 0 := by
  decide
def tallyFields : List (Fld × Nat) :=
  [(F.tallyCtlValid 7, 1), (F.tallyCtlOwner 7, 1), (F.tallyCtlWatch 7, 1), (F.presentPkgPresent, 2 ^ 32 - 1), (F.presentDiePresent 0, 2 ^ 32 - 1)]
def tallyWith (step : Nat) (normDone : Bool) (nonfin : Nat) : State :=
  let s := onWith (tallyFields ++ setFields)
  { s.setStepRec 1 { step := 5, doom := { normed := normDone } } with train.reports := [⟨1, 7, step, 3, 2, nonfin, 9⟩] }
theorem witness_TallyCountsAndDoom : (tallyWith 4 false 0).train.reports[0]? = some ⟨1, 7, 4, 3, 2, 0, 9⟩
    ∧ 4 < (tallyWith 4 false 0).openStep 1 ∧ (tallyWith 5 false 1).openStep 1 ≤ 5
    ∧ (tallyWith 5 false 1).flag (F.tallyCtlWatch 7) = true ∧ ((tallyWith 5 false 1).doomOf 1 5).normed = false
    ∧ ((tallyWith 5 true 1).doomOf 1 5).normed = true ∧ (tallyWith 5 true 1).works = true
    ∧ ((tallyWith 5 false 0).regWrite (regOr (F.tallyCtlOwner 7).off) (2 * 2 ^ (F.tallyCtlOwner 7).lo + 2 ^ (F.tallyCtlValid 7).lo)).getF
      (F.tallyCtlOwner 7) ≠ (tallyWith 5 false 0).getF (F.tallyCtlOwner 7)
    ∧ ((tallyWith 5 false 0).regWrite (regOr (F.tallyCtlOwner 7).off) (1 * 2 ^ (F.tallyCtlOwner 7).lo + 2 ^ (F.tallyCtlValid 7).lo)).getF
      (F.tallyCtlOwner 7) = (tallyWith 5 false 0).getF (F.tallyCtlOwner 7)
    ∧ ((tallyWith 5 false 0).liveOf 7 5).max < 2 ^ 32
    ∧ bit ({ flags := 4 } : StepRec).flags 2 = true ∧ ({ flags := 4, checkDue := false } : StepRec).checkDue = false
    ∧ bit ({} : StepRec).flags 2 = false := by decide +kernel

def group5 : List Byte := leBytes 2 0x0101 ++ leBytes 2 0 ++ leBytes 2 2 ++ leBytes 4 0xFFFFFFFF ++ zeros 118
def shardB (count : Nat) : List Byte :=
  leBytes 8 5 ++ leBytes 8 count ++ leBytes 8 0x10000 ++ leBytes 8 0x20000 ++ leBytes 8 0 ++ leBytes 8 0x40000
    ++ leBytes 8 0x50000 ++ leBytes 8 0x60000
def updDesc : List Byte :=
  leBytes 2 9 ++ leBytes 2 10 ++ leBytes 4 0x0400 ++ leBytes 4 1 ++ zeros 12 ++ leBytes 8 0x6000 ++ leBytes 8 0x8000
    ++ leBytes 4 0 ++ leBytes 4 0xFFFFFFFF ++ leBytes 4 0xFFFFFFFF ++ leBytes 4 0xFFFFFFFF ++ zeros 72
def smithyFields : List (Fld × Nat) :=
  [(F.smyCfgGset, 0), (F.smyCfgGvalid, 1), (F.semValid 9, 1), (F.semOwner 9, 1), (F.semCount 9, 1), (F.semValid 10, 1),
   (F.semOwner 10, 1), (F.cmWayValid 0 0, 1), (F.cmWayOwner 0 0, 1), (F.cmWayMode 0 0, 0), (F.presentPkgPresent, 2 ^ 32 - 1), (F.presentDiePresent 0, 2 ^ 32 - 1)]
/-- Context 1 with update descriptor, a shard of `count` parameters of group 5, and update `u`. -/
def smithyWith (count : Nat) (u : Option Upd) (l : List (Fld × Nat) := []) : State :=
  let s := ctxWith (smithyFields ++ l) []
  let s := s.setCx 1 { s.cx 1 with grant := some { aGrant with udesc := 0x7000, steprec := 0x9000 } }
  let s := hbmPut (hbmPut s 0x6000 (shardB count)) 0x7000 updDesc
  let s : State := { s with mem.hbm := writeBytes 0 s.mem.hbm (s.hbmKey 0 640) group5 }
  s.setUpd 1 u
def upd0 : Upd :=
  { step := 0, phase := .waitQ, gosem := 9, donesem := 10, bell := true, ringLog2 := 4, ring := 0x8000, absurd := 0,
    clip := 0, redo := [0, 0xFFFFFFFF, 0xFFFFFFFF, 0xFFFFFFFF], shards := [], groups := [], consts := [], q := 0, n := 0,
    c := 0, k := 0, outcome := 0, taus := [], trustOwn := none, trustIn := [], lscale := 0, slots := [], after := 0,
    twinFrom := 0, redone := false }
/-- The update's request stands in GOSEM's queue. -/
def joined (l : List (Fld × Nat)) : State := ((smithyWith 16 none l).unitJoin 9 (.update 1)).settle
theorem witness_UpdateDecidesAndCloses : (smithyWith 16 none).works = true ∧ (smithyWith 16 none).resident 1 = true
    ∧ (smithyWith 16 none).upd 1 = none ∧ ((smithyWith 16 (some upd0)).upd 1).isSome = true
    ∧ (joined [(F.semCount 9, 0)]).unitTake (.update 1) = none ∧ (joined []).resident 1 = true
    ∧ w32IsFinite w32NaN = false ∧ w32IsFinite w32One = true
    ∧ w32Lt 0x3F000000#32 (w32Mul (w32Sqrt w32One) (w32Div w32One w32One)) = true ∧ upd0.slots = [] ∧ upd0.phase = .waitQ := by
  decide +kernel
theorem witness_UpdateAsked : ∃ b u, (cvaRead (dieUnit 0) 1 0x7000 128).go (smithyWith 16 none) = (.ok b, u)
    ∧ (decide (b = updDesc) && (match ((u.unitJoin 9 (.update 1)).settle).unitTake (.update 1) with
      | some z => okAnd ((checkUpdate 1 0x7000 updDesc).go z) fun w _ => decide (w.shards.length = 1)
      | none => false)) = true := of_okAnd (by decide +kernel)
/-- Q is held for an update without shards. -/
def decided0 (u : Upd) : State :=
  let s := (smithyWith 16 (some u)).setStepRec 1 { lossScale := w32One }
  s.setCol 1 { q := some (0, w32One) }
theorem witness_SkipDecision : ((decided0 upd0).col1 1).q = some (0, w32One) ∧ (decided0 upd0).upd 1 = some upd0
    ∧ ((decided0 upd0).stepRec 1).lossScale = w32One := by decide +kernel
theorem witness_StepCommit : ∃ a u, (cvaWrite (dieUnit 0) 1 0x8000 (recordBytes (smithyWith 16 (some upd0)) { upd0 with outcome := 1 } 1)).go
    (smithyWith 16 (some { upd0 with outcome := 1, phase := .applied })) = (.ok a, u)
    ∧ decide (u.fatal = false ∧ u.puell.bellQ.length < 1024) = true := of_okAnd (by decide +kernel)
def drained0 : State :=
  let s := (ctxWith [] []).setUpd 1 (some { upd0 with phase := .drain, outcome := 1 })
  let s := s.setCx 1 { s.cx 1 with grant := some { aGrant with steprec := 0x9000 } }
  s.setStepRec 1 { checkDue := false }
theorem witness_CloseDrained : (drained0.draining 1 0 = false ∧ (drained0.stepRec 1).checkDue = false ∧ (drained0.stepRec 1).nscale ≤ 4096)
    ∧ ({ drained0 with train.reports := [⟨1, 7, 0, 0, 0, 0, 0⟩] } : State).draining 1 0 = true := by decide +kernel
theorem drained0_closeSlots : drained0.closeSlots 1 0 = drained0 := by
  have h : drained0.slotsOwned 1 = [] := by decide +kernel
  unfold State.closeSlots
  rw [h]
  rfl
theorem witness_CloseWrites : ∃ a u, (writeRecord 1 0 1 0x9000).go (drained0.closeSlots 1 0) = (.ok a, u)
    ∧ decide (u.flag (F.resCtlEnable 1) = false) = true := by
  rw [drained0_closeSlots]
  exact of_okAnd (by decide +kernel)
theorem witness_DonesemSignalled : (smithyWith 16 (some { upd0 with phase := .recorded })).semUsable 10 1 = true
    ∧ (smithyWith 16 none).getF (F.semCount 10) + 1 < 2 ^ 32
    ∧ ((smithyWith 16 none).ctxs.ctx.all fun e => decide (e.2.donor = 0)) = true := by decide +kernel

def chunk0 (opened : Bool) (todo : Nat) : ChunkS :=
  { shard := 0, chunk := 0, opened := opened, todo := todo, master := zeros 64, mom1 := zeros 64, mom2 := [],
    digest := zeros 32, mrep := {}, wrep := {} }
/-- An applied update of one shard; `c` is in slot 0 of die stack 0. -/
def running (shards : List Shard) (c : Option ChunkS) : Upd :=
  { upd0 with phase := .applied, outcome := 1, shards := shards, groups := [(5, some (grpOf group5))],
              slots := match c with | some c => [(0, some c)] | none => [] }
def runningState (c : Option ChunkS) : State := smithyWith 16 (some (running [shardOf (shardB 16)] c))
theorem witness_ChunkTransactionsAndExport : (runningState none).works = true ∧ (runningState none).inService 0 = true
    ∧ ((upTo 4).find? fun i => (tget none (running [] none).slots (retKey 0 i)).isNone) = some 0
    ∧ (runningState none).trustRatios 1 (running [] none) = some []
    ∧ ((runningState (some (chunk0 false 0))).upd 1) = some (running [shardOf (shardB 16)] (some (chunk0 false 0)))
    ∧ tget none (running [] (some (chunk0 true 2))).slots (retKey 0 0) = some (chunk0 true 2)
    ∧ on.upd 1 = none ∧ on.smithy.exp = none := by decide +kernel
theorem witness_NoChunkLeft : ∃ c v, (nextChunk 0 1 (running [] none) []).go (runningState none) = (.ok c, v) ∧ decide (c.isNone) = true :=
  of_okAnd (by decide +kernel)
theorem witness_ChunkLeft : ∃ c v, (nextChunk 0 1 (running [shardOf (shardB 16)] none) [0]).go (runningState none) = (.ok c, v)
    ∧ decide (c.isSome) = true := of_okAnd (by decide +kernel)
theorem witness_ChunkOpens : ∃ j v, (winPlace 0 1 (shardOf (shardB 16)) 0).go (runningState (some (chunk0 false 0))) = (.ok j, v)
    ∧ okAnd ((markOpen 0 1 (shardOf (shardB 16)) j).go v) (fun _ _ => true) = true := of_okAnd (by decide +kernel)
theorem witness_ChunkWrites : ∃ j v, (writeChunk 0 1 (shardOf (shardB 16)) (grpOf group5) (chunk0 true 0)).go (runningState (some (chunk0 true 0)))
    = (.ok j, v) ∧ decide (v.upd 1 = (runningState (some (chunk0 true 0))).upd 1) = true := of_okAnd (by decide +kernel)
theorem witness_ChunkDone : ((runningState (some (chunk0 true 0))).finishChunk 1 0 0).1 = none := by decide +kernel
def aShard : Shard := shardOf (shardB 16)
theorem witness_ChunkInOrder : (running [aShard] (some (chunk0 false 0))).before 0 (chunk0 false 0) = false
    ∧ (runningState (some (chunk0 true 1))).markOut 1 0 (running [aShard] (some (chunk0 true 1))) (chunk0 true 1) = false
    ∧ (runningState (some (chunk0 true 0))).unacked 1 ((runningState (some (chunk0 true 0))).chunkPlaces 0 1
      (running [aShard] (some (chunk0 true 0))) (chunk0 true 0)) = false
    ∧ ((runningState (some (chunk0 true 0))).chunkRow7 1 0 0 (running [aShard] (some (chunk0 true 0))) (chunk0 true 0)).1 = none := by
  decide +kernel
/-- A chunk without parameters, whose writes a link lost. -/
def chunk1 : ChunkS := { chunk0 true 2 with chunk := 1, master := [], mom1 := [] }
theorem witness_ChunkRedone : ∃ r v, (recompute 1 0 0 (running [aShard] (some chunk1)) chunk1).go
    (runningState (some chunk1)) = (.ok r, v) ∧ true = true := of_okAnd (by decide +kernel)
theorem witness_ChunkRedoCounted : (match ((runningState (some { chunk1 with todo := 0 })).chunkRow5 1 0 0).slotChunk 1 0 0 with
      | some (_, k) => decide (k.todo ≠ 2) && okAnd ((countRedo 1 0 aShard).go
        ((runningState (some { chunk1 with todo := 0 })).chunkRow5 1 0 0)) (fun _ _ => true)
      | none => false) = true := by decide +kernel
theorem witness_ChunkTurn : (runningState none).smyTurn 0 = some 1 := by decide +kernel
theorem witness_Export : (smithyWith 16 none [(F.smyExpStDone, 1)]).blockUp F.smyExpCtlCtx.off = true
    ∧ (regOr F.smyExpCtlCtx.off).badField 257 = none ∧ bit 257 8 = true ∧ bit 1 8 = false
    ∧ (smithyWith 16 none [(F.smyExpStDone, 1)]).flag F.smyExpStDone = true
    ∧ (smithyWith 16 none [(F.smyExpStDone, 0)]).flag F.smyExpStDone = false := by decide +kernel
theorem witness_ExportRuns : ∃ c v, (exportRun ⟨1, 0xA000, 0xB000⟩).go (smithyWith 16 none) = (.ok c, v) ∧ decide (c = 2) = true :=
  of_okAnd (by decide +kernel)

/-! ### Statements about stage queues and collectives -/

/-- Queue ends 2 (producer) and 3 (consumer) of context 1, one of 16 slots of 64 bytes, each the other's peer. -/
def queueFields (link : Nat) : List (Fld × Nat) :=
  [(F.stqCfgValid 2, 1), (F.stqCfgRole 2, 0), (F.stqCfgOwner 2, 1), (F.stqCfgTsem 2, 9), (F.stqCfgWsem 2, 10),
   (F.stqCfgValid 3, 1), (F.stqCfgRole 3, 1), (F.stqCfgOwner 3, 1), (F.stqCfgTsem 3, 11), (F.stqCfgWsem 3, 12),
   (F.stqPeerLink 2, link), (F.stqPeerLink 3, link), (F.stqPeerPeerq 2, 3), (F.stqPeerPeerq 3, 2),
   (F.stqPeerSlotb 2, 1), (F.stqPeerSlotb 3, 1), (F.stqBufAddr 2, 0x200), (F.stqBufAddr 3, 0x300),
   (F.semValid 9, 1), (F.semOwner 9, 1), (F.semCount 9, 1), (F.semValid 10, 1), (F.semOwner 10, 1), (F.semValid 11, 1),
   (F.semOwner 11, 1), (F.semCount 11, 1), (F.semValid 12, 1), (F.semOwner 12, 1), (F.presentPkgPresent, 2 ^ 32 - 1)]
def queueState (link : Nat) (l : List (Fld × Nat) := []) : State := ctxWith (queueFields link ++ l) []
/-- The state in which the turn of an end has come. -/
def turned (s : State) (n role : Nat) : Option State :=
  if (s.queueJoin n).queueReady n role then
    ((s.queueJoin n).unitTake (.queue ((s.queueJoin n).qOwner n) n)).map (·.queueJoin n)
  else none
theorem queueTurn_of {s t : State} {n role : Nat} (h : turned s n role = some t) : queueTurn s n role t := by
  unfold turned at h
  split at h
  · obtain ⟨w, hw, e⟩ := Option.map_eq_some_iff.mp h
    exact ⟨_, w, rfl, ‹_›, hw, e.symm⟩
  · cases h
theorem witness_StageQueuesMoveSlotsAndCredits : (queueState 15).works = true ∧ (turned (queueState 15) 2 0).isSome = true
    ∧ (turned (queueState 15) 3 1).isSome = true ∧ (on.queueJoin 2).queueReady 2 0 = false
    ∧ ((queueState 15 [(F.semCount 9, 0)]).queueJoin 2).unitTake (.queue 1 2) = none ∧ (queueState 15).qLink 2 = 15
    ∧ (queueState 15).qValid 3 1 = true ∧ (queueState 15).qValid 2 0 = true ∧ (queueState 4).qLink 3 = 4
    ∧ (queueState 4).qValid 3 1 = true ∧ (queueState 4).preempted 1 = false ∧ (queueState 4).getF (F.stqIssue 3) = 0
    ∧ (queueState 4).qBytes 3 = 64 ∧ (queueState 4).getF (F.stqCfgWsem 3) < 4096
    ∧ (queueState 4).getF (F.semCount ((queueState 4).getF (F.stqCfgWsem 3))) + 1 < 2 ^ 32
    ∧ ((queueState 4).ctxs.ctx.all fun e => decide (e.2.donor = 0)) = true := by decide +kernel
theorem witness_QueueSlotRead : ∃ b v, (cvaRead (dieUnit 0) 1 ((queueState 15).qSlot 2 0) 64).go (queueState 15) = (.ok b, v)
    ∧ true = true := of_okAnd (by decide +kernel)
theorem witness_QueueSlotStored : ((queueState 4).post (dieUnit 0) 1 ((queueState 4).qSlot 3 0) (zeros 64)).1 = none := by
  decide +kernel
/-- A pipeline map of two links; entry 1 is reached over connection 5, open and owned by context 1. -/
def pipeMapB : List Byte := leBytes 8 0x0203 ++ leBytes 8 5 ++ zeros 48 ++ zeros 32 ++ leBytes 4 5
def pathState : State :=
  let s := queueState 1 [(F.colCfgMvalid, 1), (F.colCtlPvalid 1, 1)]
  let s : State := { s with mem.hbm := writeBytes 0 s.mem.hbm (s.hbmKey 0 0x8000) pipeMapB }
  s.setSlot 5 { st := .opened, conn := { owner := 1 } }
theorem witness_QueuePath : (((turned pathState 2 0).getD on).queuePath 2).isSome = true ∧ (turned pathState 2 0).isSome = true
    ∧ (((turned (queueState 1) 2 0).getD pathState).queuePath 2) = none ∧ (queueState 1).queuePath 2 = none ∧ pathState.qLink 2 ≠ 15 := by decide +kernel
def unfit (l : List (Fld × Nat)) : State := queueState 4 ([(F.stqCfgValid 2, 0), (F.semCount 9, 0)] ++ l)
def endW : Nat := 1 + 1 * 2 ^ 8 + 10 * 2 ^ 16 + 9 * 2 ^ 32
theorem witness_QueueValidated : (unfit []).blockUp (F.stqCfgValid 2).off = true ∧ (unfit []).flag (F.stqCfgValid 2) = false
    ∧ (configured (unfit []) 2 endW).queueFit 2 = true ∧ (configured (unfit [(F.semCount 9, 1)]) 2 endW).queueFit 2 = false
    ∧ sameEnd (unfit []) (configured (unfit []) 2 endW) 2 = false ∧ (queueState 4).stqRunning 2 = false
    ∧ (configured (queueState 4) 2 (endW + 2)).getF (F.stqCfgRole 2) ≠ (queueState 4).getF (F.stqCfgRole 2)
    ∧ (regOr (F.stqCfgValid 2).off).badField endW = none ∧ bit endW 0 = true := by decide +kernel

def aCol : ColCmd :=
  { num := 0, rsv := 0, seen := [], held := [], kept := [], addr := 0x3000, op := 3, cflags := 0, sigsem := 0xFFFF, tslot := 0, sigval := 0, ctag := 7, src := 0, dst := 0,
    count := 0, tagrec := 0, shardAt := 0, dring := 0, started := true, step := 0, sent := false, aborting := false,
    inbox := [], marks := [], own := 0, fill := 0, fwd := 0, rep := {}, ess := {}, tags := [] }
/-- A ring map for updates with the module alone, identifier 5, generation 6. -/
def ringMapB : List Byte := leBytes 8 0x0102 ++ leBytes 4 5 ++ leBytes 4 6 ++ zeros 48 ++ List.replicate 16 0xFF#8
def colFields : List (Fld × Nat) :=
  [(F.colCfgMvalid, 1), (F.colCtlRvalid 1, 1), (F.colCtlEnable 1, 1), (F.colCtlGosem 1, 9), (F.semValid 9, 1),
   (F.semOwner 9, 1), (F.semCount 9, 1), (F.colRingAddr 1, 0xC0), (F.colCtlLog2size 1, 6)]
def colState (cs : List ColCmd) (l : List (Fld × Nat) := []) (entry : List Byte := []) : State :=
  let s := hbmPut (ctxWith (colFields ++ l) []) 0x3000 entry
  let s : State := { s with mem.hbm := writeBytes 0 s.mem.hbm (s.hbmKey 0 0x8000) ringMapB }
  s.setCol 1 { cmds := cs }
def colTurned (s : State) : Option State := ((s.colJoin 1).settle).unitTake (.coll 1)
theorem witness_CollectivesRunInOrder : (colState []).works = true ∧ (colTurned (colState [])).isSome = true
    ∧ ((colState []).colJoin 1).settle.alive 1 = true ∧ ((colState []).colJoin 1).settle.preempted 1 = false
    ∧ on.alive 1 = false ∧ (colState []).alive 1 = true ∧ (colState []).preempted 1 = false
    ∧ ((colState [{ aCol with op := 0, started := false }]).col1 1).cmds.find? (fun d => !d.started)
      = some { aCol with op := 0, started := false }
    ∧ (colState [{ aCol with op := 0, started := false }]).colMayStart 1 { aCol with op := 0, started := false } = true
    ∧ (((colState [aCol]).colNext 1).col1 1).cmds.find? (fun c => c.ctag = 7 ∧ c.op = 3) = some aCol
    ∧ ((colState [aCol]).colNext 1).alive 1 = true ∧ ((colState [aCol]).colNext 1).preempted 1 = false
    ∧ (((colState []).colNext 1).col1 1).cmds.find? (fun c => c.ctag = 7 ∧ c.op = 3) = none
    ∧ ((colState [aCol]).colNext 1).colCmd 1 0 = some aCol ∧ (colState [aCol]).colCmd 1 0 = some aCol ∧ aCol.op = 3
    ∧ aCol.started = true ∧ aCol.aborting = false ∧ aCol.sigsem = 0xFFFF ∧ (colState [aCol]).aborts 1 aCol = false := by
  decide +kernel
theorem witness_CollectiveEntryRead : ∃ b v, (cvaRead (dieUnit 0) 1 0x3000 64).go (((colTurned (colState [] [] (leBytes 8 3))).getD on).incF (F.colHeadHead 1) 1)
    = (.ok b, v) ∧ decide (fieldAt b 0 1 = 3 ∧ fieldAt b 2 2 = 0) = true := of_okAnd (by decide +kernel)
theorem witness_NormAlone : ∃ r u, (colStep 1 aCol).go (colState [aCol]) = (.ok r, u) ∧ decide (r = true) = true :=
  of_okAnd (by decide +kernel)
theorem witness_SwapAlone : ∃ r u, (colStep 1 { aCol with op := 6, sent := true }).go (colState [{ aCol with op := 6, sent := true }]) = (.ok r, u)
    ∧ decide (r = true) = true := of_okAnd (by decide +kernel)
/-- An update map of two modules, whose other contribution has not come. -/
def twoB : List Byte := leBytes 8 0x0202 ++ leBytes 4 5 ++ leBytes 4 6 ++ zeros 48
def waiting2 : State :=
  let s := colState [{ aCol with sent := true }]
  { s with mem.hbm := writeBytes 0 s.mem.hbm (s.hbmKey 0 0x8000) twoB }
theorem witness_NormWaits : ∃ r u, (colStep 1 { aCol with sent := true }).go waiting2 = (.ok r, u) ∧ decide (r = false) = true :=
  of_okAnd (by decide +kernel)
def aColMsg (count : Nat) : ColMsg :=
  { position := 1, mapid := 5, gen := 6, ctag := 7, op := 3, count := count, abort := false, index := 0, data := [] }
theorem witness_CollectiveMessages : (colState [aCol]).mapNamed 1 5 = true ∧ (queueState 1).mapNamed 1 9 = false
    ∧ isTrust (aColMsg 0) = false ∧ isTrust (aColMsg 1) = true ∧ (colState []).colAdmit 1 (aColMsg 0) = .busy
    ∧ on.colAdmit 1 (aColMsg 0) = .access
    ∧ (smithyWith 16 (some { running [] none with trustOwn := some [] })).colAdmit 1 { aColMsg 1 with ctag := 0 } = .take
    ∧ ((colState [aCol]).colFor 1 (aColMsg 0)) = some aCol ∧ (colState [aCol]).resident 1 = true := by decide +kernel
theorem witness_CollectivePacketTaken : (colState [aCol]).colAdmit 1 (aColMsg 0) = .take := by decide +kernel
theorem witness_CollectivePacketAlien : (colState [aCol]).colAdmit 1 { aColMsg 0 with op := 4 } = .fault := by decide +kernel

/-! ### Statements about the remote memory transport -/

/-- Key 4, generation 2: 4 KiB at 0x1000 of context 1, any connection, every right, NOTIFY to semaphore 9. -/
def keyB (state : Nat) : List Byte :=
  leBytes 8 0x1000 ++ leBytes 8 4096 ++ leBytes 1 state ++ leBytes 1 31 ++ leBytes 2 1 ++ leBytes 2 9 ++ leBytes 2 2
    ++ leBytes 4 0xFFFFFFFF ++ zeros 36
def rmtFields : List (Fld × Nat) :=
  [(F.readyDieBase 0, 15), (F.rmtBufBusyth 0, 100), (F.rmtBufMarkth 0, 50), (F.semValid 9, 1), (F.semOwner 9, 1),
   (F.rmtTimersRetrymax 0, 4), (F.rmtTimersHopn 0, 2), (F.rmtCfgTvalid 0, 1), (F.rmtKstatDone, 1), (F.rmtRateBeta 0, 64),
   (F.presentPkgPresent, 2 ^ 32 - 1), (F.presentDiePresent 0, 2 ^ 32 - 1)]
def aConn : ConnRec := { pcn := 7, epoch := 3, owner := 1, peerIp := 9, pmtu := 1024 }
/-- Slot 5 of die stack 0 is `v`, in the cache with key 4. -/
def rmtState (v : RmtSlot) (l : List (Fld × Nat) := []) : State :=
  let s := (ctxWith (rmtFields ++ l) []).setSlot 5 v
  { s with rmt.cached := [(0, [5])], rmt.keys := [(0, [⟨4, keyB 1, 0⟩])] }
def slot5 : RmtSlot := { st := .opened, conn := aConn }
/-- A packet with its end-to-end check. -/
def pktSeal (p : Packet) : Packet := { p with crc := crc32c (pktBytes p) }
/-- A sealed packet to slot 5 from its peer. -/
def pkt (f : Packet → Packet) : Packet := pktSeal (f { packet0 opAck 0 with dcn := 5, epoch := 3, srcIp := 9 })
def rmtOk (s : State) (p : Packet) : Bool :=
  s.works && s.readyDie 0 rdRmt && pktIpOk p && pktForm p && decide (p.dcn.toNat < 2 ^ 18) && decide (slotDie p.dcn.toNat = 0)
    && (s.connCache 0).contains p.dcn.toNat
/-- The state in which a whole packet is counted. -/
def whole1 (s : State) (p : Packet) : State :=
  (((s.incF (F.rmtCtr1 0) 1).incF (F.rmtCtr14 0) (ofBool (s.mark 0 p).ce)).connUse p.dcn.toNat).2
theorem rmtWhole_of {s : State} {f : Packet → Packet} (h : rmtOk s (pkt f) = true) :
    rmtWhole s 0 (pkt f) (s.mark 0 (pkt f)) (whole1 s (pkt f)) := by
  simp only [rmtOk, Bool.and_eq_true, decide_eq_true_eq] at h
  obtain ⟨⟨⟨⟨⟨⟨h1, h2⟩, h3⟩, h4⟩, h5⟩, h6⟩, h7⟩ := h
  exact ⟨h1, h2, h3, rfl, h4, h5, h6, h7, rfl, rfl⟩
def counted1 (s : State) (p : Packet) : State := (whole1 s p).rxBytes p.dcn.toNat (s.mark 0 p)
def passOk (s : State) (p : Packet) : Bool :=
  rmtOk s p && payloadOk ((whole1 s p).slot p.dcn.toNat) (s.mark 0 p)
    && ((whole1 s p).slot p.dcn.toNat).traffic (s.mark 0 p)
theorem rmtPasses_of {s : State} {f : Packet → Packet} (h : passOk s (pkt f) = true) :
    rmtPasses s 0 (pkt f) (s.mark 0 (pkt f)) (counted1 s (pkt f)) := by
  simp only [passOk, Bool.and_eq_true] at h
  exact ⟨_, rmtWhole_of h.1.1, h.1.2, h.2, rfl⟩
def expected1 (s : State) (p : Packet) : State :=
  let u := counted1 s p
  u.setSlot p.dcn.toNat { u.slot p.dcn.toNat with gap := false, busy := false }
def expectOk (s : State) (p : Packet) : Bool :=
  let u := counted1 s p
  passOk s p && ((u.keyWaits 0).all fun w => decide (w.dcn ≠ p.dcn)) && decide (psnDist u p = 0)
    && (!pktFirst p || !(u.filled p.dcn.toNat (u.getF (F.rmtBufBusyth 0))))
theorem rmtExpected_of {s : State} {f : Packet → Packet} (h : expectOk s (pkt f) = true) :
    rmtExpected s 0 (pkt f) (s.mark 0 (pkt f)) (expected1 s (pkt f)) := by
  simp only [expectOk, Bool.and_eq_true, Bool.or_eq_true, decide_eq_true_eq, List.all_eq_true, Bool.not_eq_true'] at h
  obtain ⟨⟨⟨h1, h2⟩, h3⟩, h4⟩ := h
  refine ⟨_, rmtPasses_of h1, h2, h3, fun hf => ?_, rfl⟩
  rcases h4 with h4 | h4
  · rw [h4] at hf; cases hf
  · exact h4

def axh0 (length : Nat) : Axh := { key := 4 + 2 * 2 ^ 20, length := BitVec.ofNat 32 length, offset := 0, imm := 0, reserved := 0 }
def writeOf (n : Nat) : Packet → Packet := fun p =>
  { p with opc := 1, first := true, last := true, axh := some (axh0 n), payload := zeros n }
def reqOf (opc sub n : Nat) : Packet → Packet := fun p =>
  { p with opc := BitVec.ofNat 8 opc, sub := BitVec.ofNat 8 sub, axh := some (axh0 n) }
theorem witness_RmtPacketsInOrderOfChecks : on.readyDie 0 rdRmt = false ∧ (rmtState slot5).works = true
    ∧ (rmtState slot5).readyDie 0 rdRmt = true ∧ pktForm { packet0 opWrite 0 with ver := 0x11 } = false
    ∧ pktForm (pkt (writeOf 8)) = true ∧ isOp (pkt (writeOf 8)) opWrite = true ∧ isOp (pkt (writeOf 8)) opAck = false
    ∧ (2 : Nat) ^ 18 ≤ (pkt fun p => { p with dcn := 2 ^ 18 }).dcn.toNat ∧ slotDie (pkt fun p => { p with dcn := 65536 }).dcn.toNat ≠ 0
    ∧ ((rmtState slot5).connCache 0).contains 6 = false ∧ (tget [] (rmtState slot5).rmt.waiting 0).length < 256
    ∧ 256 ≤ (tget [] ({ rmtState slot5 with rmt.waiting := [(0, List.replicate 256 (packet0 1 0))] } : State).rmt.waiting 0).length := by
  decide +kernel
theorem witness_RmtCheckOfAPacket : (packet0 opAck 0).crc ≠ crc32c (pktBytes (packet0 opAck 0)) := by decide +kernel
theorem witness_RmtPacketsPass : rmtOk (rmtState slot5) (pkt (writeOf 8)) = true ∧ passOk (rmtState slot5) (pkt (writeOf 8)) = true
    ∧ expectOk (rmtState slot5) (pkt (writeOf 8)) = true ∧ rmtOk (rmtState { slot5 with st := .free }) (pkt (writeOf 8)) = true
    ∧ payloadOk slot5 (pkt fun p => { writeOf 8 p with last := false }) = false
    ∧ slot5.traffic (pkt fun p => { writeOf 8 p with epoch := 4 }) = false ∧ pktIpOk { packet0 opAck 0 with options := true } = false
    ∧ ((rmtState slot5).mark 0 (pkt (writeOf 8))).ce = false := by decide +kernel
def later (n : Nat) : Packet := pkt fun p => { writeOf 8 p with psn := BitVec.ofNat 32 n }
theorem witness_RmtSequence : passOk (rmtState slot5) (later 3) = true ∧ psnDist (counted1 (rmtState slot5) (later 3)) (later 3) = 3
    ∧ psnDist (counted1 (rmtState slot5) (later (2 ^ 32 - 1))) (later (2 ^ 32 - 1)) = 2 ^ 32 - 1
    ∧ ({ slot5 with gap := true } : RmtSlot).gap = true ∧ slot5.busy = false ∧ isWrite opWrite = true
    ∧ passOk (rmtState { slot5 with alog := [(7, 1)] }) (pkt (reqOf 5 1 8)) = true
    ∧ passOk (rmtState slot5 [(F.rmtBufBusyth 0, 0)]) (pkt (writeOf 8)) = true
    ∧ (counted1 (rmtState slot5 [(F.rmtBufBusyth 0, 0)]) (pkt (writeOf 8))).filled 5 0 = true := by decide +kernel
def isView (k : KeyView) (n : Nat) : Bool :=
  match k with
  | .fetch => n == 0 | .busy => n == 1 | .access => n == 2 | .ok _ => n == 3
theorem witness_RmtKeys : isView ((rmtState slot5).keyView 5 opWrite 0 (axh0 8)) 3 = true
    ∧ isView ((rmtState slot5).keyView 5 opWrite 0 (axh0 4097)) 2 = true
    ∧ isView ((rmtState slot5).keyView 5 opWrite 0 { axh0 8 with key := 6 }) 0 = true := by decide +kernel
theorem keyView_of (s : State) (k o sub : Nat) (h : Axh) : isView (s.keyView k o sub h) 3 = true → ∃ c, s.keyView k o sub h = .ok c := by
  generalize s.keyView k o sub h = v
  cases v <;> simp [isView]
/-- An expected packet under a granting key. -/
def keyedOk (s : State) (p : Packet) : Bool :=
  expectOk s p && p.cxh.isNone && pktFirst p && (match p.axh with
    | some h => isView ((expected1 s p).keyView p.dcn.toNat p.opc.toNat p.sub.toNat h) 3
    | none => false)
theorem witness_RmtRequestsAndAnswersTakeEffect : keyedOk (rmtState slot5) (pkt (writeOf 8)) = true
    ∧ keyedOk (rmtState slot5) (pkt fun p => { writeOf 8 p with opc := 7, sub := 1 }) = true
    ∧ keyedOk (rmtState slot5) (pkt fun p => { writeOf 8 p with opc := 2, axh := some { axh0 8 with imm := 1 } }) = true
    ∧ keyedOk (rmtState slot5) (pkt (reqOf 3 0 8)) = true
    ∧ ([1, 2, 3].all fun sub => keyedOk (rmtState slot5) (pkt (reqOf 5 sub 8))) = true
    ∧ expectOk (rmtState { slot5 with rx := some { opc := 1, sub := 0, key := some 4, next := 0x1000, left := 8, imm := 0, cxh := none, buf := [] } })
      (pkt fun p => { writeOf 8 p with first := false, axh := none }) = true := by decide +kernel
theorem witness_RmtWriteLands : ∃ a w, (cvaWrite (dieUnit 0) 1 0x1000 (zeros 8)).go (rmtState slot5) = (.ok a, w) ∧ true = true :=
  of_okAnd (by decide +kernel)
theorem witness_RmtReduceLands : ∃ a w, (reduceInto (dieUnit 0) 1 0x1000 1 (zeros 8)).go (rmtState slot5) = (.ok a, w) ∧ true = true :=
  of_okAnd (by decide +kernel)
theorem witness_RmtAtomic : ∃ a w, (atomicOn (dieUnit 0) 1 0x1000 1 5 0).go (rmtState slot5) = (.ok a, w) ∧ true = true :=
  of_okAnd (by decide +kernel)
def aCxh (op : Nat) : Cxh := { mapid := 5, gen := 6, ctag := 7, cop := BitVec.ofNat 8 op, cxflags := 0, reserved := 0, count := 0, coff := 0 }
/-- The command `waiting2` names over the connection in slot 5. -/
def colRmt : State :=
  let s := waiting2.setSlot 5 slot5
  let s : State := { s with mem.hbm := writeBytes 0 s.mem.hbm (s.hbmKey 0 0x8000) (twoB ++ zeros 32 ++ leBytes 4 5), rmt.cached := [(0, [5])] }
  rmtFields.foldl (fun (s : State) (e : Fld × Nat) => s.setF e.1 e.2) s
def colPkt : Packet := pkt fun p => { p with opc := 1, first := true, last := true, hasCxh := true, cxh := some (aCxh 3) }
def isOver : QDone → Bool
  | .over _ => true
  | _ => false
theorem over_of {m : QDone} (h : isOver m = true) : ∃ t, m = .over t := by
  cases m <;> simp_all [isOver]
def colAfter : State := expected1 colRmt colPkt
theorem witness_RmtCollectivePackets : expectOk colRmt colPkt = true ∧ isOp colPkt opWrite = true ∧ colPkt.cxh = some (aCxh 3)
    ∧ (colAfter.slot 5).conn.owner = 1 ∧ (colAfter.slot 5).rx = none ∧ colAfter.cxhAdmit 1 5 (aCxh 3) false = .take := by
  decide +kernel
theorem witness_RmtCollectiveDelivered : ∃ t,
    (colAfter.setSlot 5 { colAfter.slot 5 with rx := none }).cxhDeliver 1 5 (aCxh 3) colPkt.payload = .over t :=
  over_of (by decide +kernel)
def sentPkt (opc psn : Nat) : TxPkt :=
  { psn := psn, npsn := 1, owner := .cmd 1 0, opc := opc, sub := 0, first := true, last := true, axh := none, cxh := none,
    opnd0 := 0, opnd1 := 0, src := none, len := 8, data := zeros 8, dst := 0x1000, got := 0 }
theorem witness_RmtAnswers : ([(0x10, 0), (0x11, 1), (0x11, 2), (0x11, 3)].all fun e =>
      passOk (rmtState slot5) (pkt fun p => { p with opc := e.1, sub := e.2 })) = true
    ∧ passOk (rmtState { slot5 with unacked := [sentPkt opAtomic 0] })
      (pkt fun p => { p with opc := 6, first := true, last := true, payload := zeros 8 }) = true
    ∧ passOk (rmtState { slot5 with unacked := [sentPkt opReadReq 0] })
      (pkt fun p => { p with opc := 4, first := true, last := true, payload := zeros 8 }) = true
    ∧ ackCovers 0 (sentPkt opWrite 1) = false := by decide +kernel
def cnOf (opc : Nat) : Packet → Packet := fun p => { p with opc := BitVec.ofNat 8 opc, payload := beBytes 4 7 }
theorem witness_RmtConnectionPackets : ([0x20, 0x21, 0x22, 0x23].all fun op =>
      rmtOk (rmtState { slot5 with st := .opening }) (pkt (cnOf op)) && decide (beNat (pkt (cnOf op)).payload = 7)) = true
    ∧ slot5.unacked = [] ∧ slot5.queued = [] ∧ slot5.rx = none
    ∧ (∀ x, (onWith []).alive x = false) := ⟨by decide +kernel, rfl, rfl, rfl, fun x => rfl⟩

theorem witness_RmtFetchesTimersAndRates : (rmtState slot5).works = true ∧ slotKey 0 5 = 5 ∧ (rmtState slot5).slot 5 = slot5
    ∧ tget [] (rmtState slot5).rmt.waiting 0 = []
    ∧ (([later 3] : List Packet).filter fun p => p.dcn.toNat = 5) ≠ [] ∧ (rmtState slot5).keyWaits 0 = []
    ∧ ((keyRoom ((rmtState slot5).keyCache 0)).isSome = true) ∧ ((rmtState slot5).keyCache 0).all (fun c => c.index != 6) = true
    ∧ (rmtState slot5).getF (F.rmtTimersRetrymax 0) ≤ 3 + 1 ∧ 0 + 1 < (rmtState slot5).getF (F.rmtTimersRetrymax 0)
    ∧ (0 + 1) % (rmtState slot5).getF (F.rmtTimersHopn 0) ≠ 0 ∧ (1 + 1) % (rmtState slot5).getF (F.rmtTimersHopn 0) = 0
    ∧ ({ slot5 with unacked := [sentPkt opWrite 0] } : RmtSlot).unacked ≠ [] ∧ slot5.busyWait = false
    ∧ ({ slot5 with owed := 1, a := 5, m := 5 } : RmtSlot).owed ≠ 0 ∧ slot5.a = 0 ∧ slot5.hold = 0 := by decide +kernel

/-! ### Statements about the commands of the remote memory transport -/

/-- A connection of context 1 under epoch 3, with a window of 16 packets. -/
def connB : List Byte :=
  leBytes 4 7 ++ leBytes 4 3 ++ leBytes 1 1 ++ zeros 3 ++ leBytes 1 2 ++ zeros 1 ++ leBytes 2 16 ++ zeros 48
/-- House set 0 holds the record of connection 5 of die stack 0 and the record of key 4. -/
def driver (v : RmtSlot) (key : Nat) (l : List (Fld × Nat) := []) : State :=
  let s := rmtState v l
  let s : State := { s with mem.hbm := writeBytes 0 s.mem.hbm (s.hbmKey 0 (256 * 5)) connB }
  { s with mem.hbm := writeBytes 0 s.mem.hbm (s.hbmKey 0 (64 * 4)) (keyB key) }
def granted5 (s : State) : Bool :=
  match connRec connB with
  | some c => (s.grant c.owner).isSome && decide ((s.slot 5).lastEpoch < c.epoch)
  | none => false
theorem witness_RmtCommandsOfTheDriver : (driver {} 0).works = true ∧ slotKey 0 5 = 5 ∧ on.blockUp (F.rmtCcmdSlot 0).off = false
    ∧ (driver {} 0).blockUp (F.rmtCcmdSlot 0).off = true ∧ (driver {} 0).slot 5 = {} ∧ (driver slot5 0).slot 5 = slot5
    ∧ slot5.unacked = [] ∧ slot5.queued = [] ∧ ({ slot5 with queued := [sentPkt opWrite 0] } : RmtSlot).queued ≠ []
    ∧ (driver {} 0).flag (F.rmtCfgTvalid 0) = true ∧ (driver {} 0).houseRange 0 (256 * 5) 64 = true
    ∧ (driver {} 0).houseRange 1 (256 * 5) 64 = false ∧ granted5 (driver {} 0) = true
    ∧ granted5 (driver { lastEpoch := 3 } 0) = false ∧ (connRec (zeros 64)).isNone = true := by decide +kernel
theorem witness_ConnectionRecordRead : ∃ b u, (hbmRead none 0 (256 * 5) 64).go (driver {} 0) = (.ok b, u)
    ∧ decide (b = connB) = true := of_okAnd (by decide +kernel)
def fetchWaits : State := { driver slot5 1 with rmt.cached := [], rmt.waiting := [(0, [later 0])] }
theorem witness_ConnectionFetched : ∃ w, fetchWaits.connUse 5 = (none, w) := ⟨_, Prod.ext (by decide +kernel) rfl⟩
theorem witness_ConnectionWaits : (tget [] fetchWaits.rmt.waiting 0).filter (fun p => p.dcn.toNat = 5) ≠ [] := by decide +kernel
theorem witness_KeyRecordWaits : ∃ p ∈ ({ driver slot5 1 with rmt.keys := [], rmt.keyWait := [(0, [later 0])] } : State).keyWaits 0,
    ∃ h, p.axh = some h ∧ h.key.toNat % 2 ^ 20 = 4 := ⟨later 0, by decide +kernel⟩
theorem witness_KeyRecordRead : ∃ b u, (houseRead (driver slot5 1).kset (keyAt 4) 64).go (driver slot5 1) = (.ok b, u)
    ∧ decide (b = keyB 1) = true := of_okAnd (by decide +kernel)
theorem witness_KeyCommands : on.blockUp F.rmtKcmdIndex.off = false ∧ (driver {} 0).blockUp F.rmtKcmdIndex.off = true
    ∧ (driver {} 0).flag F.rmtKstatDone = true ∧ (driver {} 0 [(F.rmtKstatDone, 0)]).flag F.rmtKstatDone = false
    ∧ (driver {} 0).houseRange (driver {} 0).kset (keyAt 4) 64 = true ∧ kState ((driver {} 0).keyRec 4) = 0
    ∧ kState ((driver {} 1).keyRec 4) = 1 ∧ (driver {} 0).keyRecOk ((driver {} 0).keyRec 4) = true
    ∧ on.keyRecOk ((driver {} 0).keyRec 4) = false := by decide +kernel
def revoking (v : RmtSlot) (refs : Nat) : State :=
  { driver v 2 with rmt.revoke := some ⟨4, 0⟩, rmt.keys := [(0, [⟨4, keyB 2, refs⟩])] }
def rxOf4 : RxMsg := { opc := 1, sub := 0, key := some 4, next := 0x1000, left := 8, imm := 0, cxh := none, buf := [] }
theorem witness_RevocationsEnd : (revoking slot5 0).rmt.revoke = some ⟨4, 0⟩ ∧ (revoking slot5 0).keyRefs 4 = 0
    ∧ (revoking slot5 1).keyRefs 4 ≠ 0
    ∧ ((revoking slot5 1).rmt.slot.all fun e => decide (e.2.rx = none)) = true
    ∧ (revoking { slot5 with rx := some rxOf4 } 1).rmt.slot.filter (fun e => match e.2.rx with
        | some m => m.key == some 4
        | none => false) = [(5, { slot5 with rx := some rxOf4 })] ∧ kGen (keyB 2) = 2 := by decide +kernel

/-- A FADD of 8 bytes over connection 5. -/
def faddB : List Byte :=
  leBytes 1 4 ++ leBytes 1 1 ++ zeros 2 ++ leBytes 4 5 ++ leBytes 4 4 ++ leBytes 4 8 ++ leBytes 8 64 ++ zeros 8
    ++ leBytes 8 1 ++ zeros 8 ++ zeros 4 ++ leBytes 2 0xFFFF ++ zeros 10
def job (v : RmtSlot) (entry : List Byte) (cs : List RmtCmd) : State :=
  let s := rmtState v [(F.rmtCtlEnable 1, 1), (F.rmtCtlGosem 1, 9), (F.semCount 9, 1), (F.rmtRingAddr 1, 0xC0),
    (F.rmtCtlLog2size 1, 6)]
  let s := hbmPut s 0x3000 entry
  { s with rmt.cmds := [(1, cs)] }
def cmdAt (op n : Nat) (fence started : Bool) (conn : Nat) : RmtCmd :=
  { rmtCmdOf n 0x3000 faddB with op := op, fence := fence, started := started, conn := conn }
theorem witness_RmtCommandsOfJobSoftware : (job slot5 faddB []).works = true ∧ on.flag (F.rmtCtlEnable 1) = false
    ∧ (job slot5 faddB []).flag (F.rmtCtlEnable 1) = true ∧ (job slot5 faddB []).alive 1 = true
    ∧ (job slot5 faddB []).preempted 1 = false ∧ (tget [] (job slot5 faddB []).rmt.cmds 1).length < 64
    ∧ (((job slot5 faddB []).rmtJoin 1).settle.unitTake (.rmt 1)).isSome = true
    ∧ (((job slot5 faddB []).setF (F.semCount 9) 0).rmtJoin 1).settle.unitTake (.rmt 1) = none
    ∧ ((job slot5 faddB []).rmtJoin 1).settle.alive 1 = true
    ∧ 64 ≤ (tget [] (job slot5 faddB (List.replicate 64 (cmdAt 1 0 false true 5))).rmt.cmds 1).length := by decide +kernel
def fetched (entry : List Byte) : State :=
  let s := ((job slot5 entry []).rmtJoin 1).settle
  ((s.unitTake (.rmt 1)).getD s).incF (F.rmtHeadHead 1) 1
theorem witness_RmtEntryLegal : ∃ b v, (cvaRead (dieUnit 0) 1 0x3000 64).go (fetched faddB) = (.ok b, v)
    ∧ v.rmtFieldsOk 1 b = true := of_okAnd (by decide +kernel)
theorem witness_RmtEntryIllegal : ∃ b v, (cvaRead (dieUnit 0) 1 0x3000 64).go (fetched (zeros 64)) = (.ok b, v)
    ∧ (!v.rmtFieldsOk 1 b) = true := of_okAnd (by decide +kernel)
def startCase (v : RmtSlot) (conn : Nat) (op : Nat) : Bool :=
  let s := job v [] [cmdAt op 3 true false conn]
  decide ((tget [] s.rmt.cmds 1).find? (fun c => c.index = 3) = some (cmdAt op 3 true false conn))
    && (tget [] s.rmt.cmds 1).takeWhile (fun d => d.index != 3) == [] && s.alive 1 && !s.preempted 1
theorem witness_RmtCommandStarts : ([1, 2, 3, 4, 5, 6, 7].all fun op => startCase slot5 5 op && startCase slot5 6 op
      && startCase { slot5 with conn := { aConn with owner := 2 } } 5 op) = true
    ∧ ((job slot5 [] [cmdAt 1 3 true false 5]).slot 5).st = .opened ∧ ((job slot5 [] []).slot 6).st ≠ .opened
    ∧ ((job slot5 [] []).slot 5).conn.owner = 1
    ∧ ((job slot5 [] [cmdAt 1 3 true false 6]).cmdComplete 1 3 3).2 = none
    ∧ (cmdAt 1 3 true false 5).op ≠ 2 ∧ (cmdAt 1 3 true true 5).started = true
    ∧ (∃ d ∈ [cmdAt 1 2 false false 5], d.started = false ∧ (d.conn = (cmdAt 1 3 false false 5).conn ∨ d.fence = true)) := by
  decide +kernel

/-! ### Statements about contexts -/

/-- The grant record of context 2: no core, a save region on each die stack. -/
def grantB : List Byte :=
  zeros 202 ++ leBytes 2 100 ++ zeros 4 ++ leBytes 4 10 ++ leBytes 4 11 ++ leBytes 4 12 ++ leBytes 4 13 ++ zeros 32
def regsThere : List (Fld × Nat) :=
  [(F.presentPkgPresent, 2 ^ 32 - 1), (F.presentDiePresent 0, 2 ^ 32 - 1)]
def grantFieldsAll : List (Fld × Nat) :=
  [(F.accCfgGvalid, 1), (F.isDescValid 10, 1), (F.isDescHouse 10, 1), (F.isDescValid 11, 1), (F.isDescHouse 11, 1),
   (F.isDescBstack 11, 4), (F.isDescValid 12, 1), (F.isDescHouse 12, 1), (F.isDescBstack 12, 8), (F.isDescValid 13, 1),
   (F.isDescHouse 13, 1), (F.isDescBstack 13, 12)] ++ regsThere
/-- Context 1 in state `st`, the record of context 2 in house set 0. -/
def ctxState (st : Nat) (l : List (Fld × Nat) := []) : State :=
  let s := ctxWith (l ++ grantFieldsAll) []
  let s : State := { s with mem.hbm := writeBytes 0 s.mem.hbm (s.hbmKey 0 512) grantB }
  s.setSt 1 st
theorem witness_ContextsAreGrantedAndCommanded : (ctxState cResident).works = true
    ∧ (ctxState cResident).getF (F.ctxCtlValid 2) < 2
    ∧ ((on.regRefused (regOr (F.ctxCtlValid 2).off) (ofBool true)).isSome = true)
    ∧ (ctxState cResident).regRefused (regOr (F.ctxCtlValid 2).off) (ofBool true) = none
    ∧ (ctxState cIdle).regRefused (regOr (F.ctxCtlValid 1).off) (ofBool false) = none
    ∧ (ctxState cResident).flag (F.ctxCtlValid 2) = false ∧ (ctxState cIdle).flag (F.ctxCtlValid 1) = true
    ∧ (ctxState cResident).flag F.accCfgGvalid = true ∧ on.flag F.accCfgGvalid = false
    ∧ (ctxState cIdle).ctxSt 1 = cIdle ∧ (ctxState cFaulted).ctxSt 1 = cFaulted
    ∧ (ctxState cSaved).ctxSt 1 = cSaved ∧ (ctxState cResident).ctxSt 1 = cResident := by decide +kernel
theorem witness_GrantLegal : ∃ bs u, (houseRead ((ctxState cResident).getF F.accCfgGset) (256 * 2) 256).go (ctxState cResident) = (.ok bs, u)
    ∧ (u.grantOk 2 bs && !u.grantOk 2 (zeros 256)) = true := of_okAnd (by decide +kernel)
theorem witness_ContextCommands : ([ctPreempt, ctSuspend, ctResume, ctTeardown].all fun c =>
      (on.regRefused (regOr (F.ctxCtlValid 1).off) (on.ctlWith 1 c)).isSome
      && ((ctxState cResident).regRefused (regOr (F.ctxCtlValid 1).off) ((ctxState cResident).ctlWith 1 c)).isNone) = true
    ∧ (ctxState cResident).flag (F.ctxStateCmdbusy 1) = false
    ∧ (ctxState cResident [(F.ctxStateCmdbusy 1, 1)]).flag (F.ctxStateCmdbusy 1) = true
    ∧ (ctxState cResident).chunkOpen 1 = false ∧ (ctxState cResident).alive 1 = true ∧ on.alive 1 = false
    ∧ on.ctxSt 1 = cFree := by decide +kernel

/-- Context 1 resident beside context 2, which has work and waits for core 0. -/
def shared (a b : CtxSt) (st1 st2 : Nat) : State :=
  let s := (ctxState st1 [(F.semValid 9, 1), (F.semOwner 9, 2)]).setCx 1 a
  let s := s.setSt 2 st2
  let s := s.setCx 2 b
  { s with ctxs.waiting := [2], rmt.cmds := [(2, [rmtCmdOf 0 0x3000 (zeros 64)])],
           sched.semQ := [(9, [⟨.core 1 0, 1⟩])] }
def plain : CtxSt := { grant := some aGrant }
def opened : State := (runningState (some { chunk0 true 2 with opened := true })).setSt 1 cResident
theorem witness_ContextsSwitchAndShareTime : (shared plain plain cResident cIdle).works = true
    ∧ on.ctxSt 1 ≠ cResident ∧ opened.ctxSt 1 = cResident ∧ opened.chunkOpen 1 = true ∧ (opened.cx 1).switchDue = false
    ∧ ({ opened with ctxs.rtNow := 2 } : State).rtHolder 1 = true
    ∧ (shared plain plain cResident cIdle).ctxSt 1 = cResident ∧ (shared plain plain cResident cIdle).rtHolder 1 = false
    ∧ (shared plain plain cResident cIdle).wanted 1 = true ∧ (ctxState cResident).wanted 1 = false
    ∧ ((shared plain plain cResident cIdle).cx 1).donor = 0
    ∧ ((shared { plain with donor := 3 } plain cResident cIdle).cx 1).donor ≠ 0
    ∧ (shared plain plain cResident cIdle).chunkOpen 1 = false := by decide +kernel
theorem witness_SaveAndRestore : (ctxState cSaving).grant 1 = some aGrant ∧ (ctxState cSaving).ctxSt 1 = cSaving
    ∧ on.grant 1 = none ∧ (ctxState cRestoring).ctxSt 1 = cRestoring
    ∧ tget none (ctxState cRestoring).train.steps 1 = none ∧ (ctxState cRestoring).slotsOf 1 = []
    ∧ twf 0 (ctxState cResident).mem.oc = true ∧ 0 ∈ aGrant.coreList ∧ (ctxState cResident).coresBusy 1 = true := by
  decide +kernel
theorem witness_WaysFlushed : ∃ a u, (do flushAll 1; saveReads 1 aGrant ((ctxState cSaving).keptWays 1); saveReach 1 aGrant : M Unit).go (ctxState cSaving) = (.ok a, u)
    ∧ true = true :=
  of_okAnd (by decide +kernel)
theorem witness_ImageRead : ∃ a u, (imageReads 1 aGrant ((((ctxState cRestoring).cx 1).saved).getD ⟨[], []⟩)).go (ctxState cRestoring)
    = (.ok a, u) ∧ true = true :=
  of_okAnd (by decide +kernel)
/-- A record of eight bytes in set 10, its second byte 7. -/
theorem witness_ImageRecord : ((upTo 8).all fun a => (ctxState cSaving).setOffset 10 ((ctxState cSaving).hbmKey 10 (4096 + a)) == some (4096 + a)) = true
    ∧ twf 0 ([(1, 7#8)] : Bytes) = true ∧ twf 0 (ctxState cSaving).mem.hbm = true
    ∧ (ctxState cSaving).inRange 10 4096 8 0 = none := by decide +kernel
theorem test_image_record : tget 0 ((ctxState cSaving).fillSet 10 4096 8 [(1, 7#8)]).mem.hbm ((ctxState cSaving).hbmKey 10 4097) = 7#8 := by
  decide +kernel
theorem test_image_layout : ({ aGrant with cores := 5 } : Grant).coreRec 2 = 65536 + 1376256 := by decide +kernel
def dueAt (t : Nat) : State := (ctxState cResident [(F.watchNs 0, t)]).setCx 1 { plain with switchDue := true, dueAt := 0 }
theorem witness_WindowsClose : (dueAt 0).ctxSt 1 = cResident ∧ ((dueAt 0).cx 1).switchDue = true ∧ (dueAt 0).chunkOpen 1 = false
    ∧ 50000 ≤ (dueAt 50000).getF (F.watchNs 0) - ((dueAt 50000).cx 1).dueAt
    ∧ ((ctxState cResident).cx 1).switchDue = false
    ∧ (opened.chunkOpen 1 = true ∧ opened.getF (F.watchNs 0) - (opened.cx 1).dueAt < 50000) := by decide +kernel
theorem witness_TimeIsDonated : (shared plain plain cResident cIdle).flag (F.semValid 9) = true
    ∧ (shared plain plain cResident cIdle).queuedOn 1 9 = true ∧ (shared plain plain cResident cIdle).donee 1 9 = some 2
    ∧ (shared plain {} cResident cIdle).donee 1 9 = none ∧ (ctxState cResident).queuedOn 1 9 = false
    ∧ (shared { plain with donor := 3 } plain cResident cIdle).donee 1 9 = some 2 := by decide +kernel
def rtFields : List (Fld × Nat) :=
  [(F.accCfgRten, 1), (F.rtSlotLen 0, 5), (F.rtSlotCtx 0, 1), (F.rtSlotValid 0, 1), (F.rtCommitCommit, 1)]
/-- Slot 0 names context 1, whose grant is `g`; a length of 9 is staged for slot 1. -/
def rtState (g : Grant) : State := ((ctxState cResident rtFields).setCx 1 { grant := some g }).setShadow (F.rtSlotLen 1) 9
theorem witness_RealTimeSlots : (rtState { aGrant with realtime := true }).rtLegal = true ∧ (rtState aGrant).rtLegal = false
    ∧ on.rtLegal = false ∧ (on.regRefused (regOr F.rtCommitCommit.off) 1).isSome = true
    ∧ (rtState aGrant).regRefused (regOr F.rtCommitCommit.off) 1 = none ∧ (1#32).getLsbD 0 = true
    ∧ (rtState aGrant).flag F.rtCommitCommit = true ∧ on.flag F.rtCommitCommit = false
    ∧ (rtState aGrant).shadow (F.rtSlotLen 1) = some 9 ∧ 9 < 2 ^ (F.rtSlotLen 1).w ∧ (rtState aGrant).shadow (F.rtSlotLen 0) = none
    ∧ (rtState aGrant).flag F.accCfgRten = true ∧ on.flag F.accCfgRten = false
    ∧ (rtState aGrant).rtApply.getF (F.rtSlotLen 1) = 9 ∧ (rtState aGrant).rtApply.getF (F.rtSlotLen 2) = 0
    ∧ (rtState { aGrant with realtime := true }).rtApply.rtGrant 1 = true ∧ (rtState aGrant).rtApply.rtGrant 1 = false
    ∧ (rtState { aGrant with realtime := true }).rtApply.resident 1 = true
    ∧ ((rtState { aGrant with realtime := true }).rtApply.ctxs.ctx.all fun e => decide (e.2.donor = 0)) = true := by
  decide +kernel

/-! ### Statement about security -/

/-- The header of a bundle for one device: group 5, one byte of plaintext. -/
def bundleHdr : List Byte :=
  leBytes 4 0x4257514B ++ leBytes 2 1 ++ zeros 1 ++ leBytes 1 1 ++ zeros 4 ++ leBytes 2 5 ++ leBytes 2 1 ++ zeros 32
    ++ leBytes 8 1 ++ zeros 8
def memberOf (f : List Byte) : List Byte := f ++ zeros 1168
def bundleOf (f : List Byte) : List Byte := bundleHdr ++ (memberOf f ++ zeros 17)
/-- A command runs on SEC_IN. -/
def secState (run : Option SecRun) (l : List (Fld × Nat) := []) (input : List Byte := []) : State :=
  let s := ctxWith ([(F.secSealSealed 0, 1), (F.secResultDone, 1), (F.plStatusState 0, plActive)] ++ regsThere ++ l) []
  { s with regs.secBuf := writeBytes 0 [] 0 input, sec.run := run }
/-- A command with its argument and SEC_IN, which names a bundle of 1,265 bytes at 0x2000 and house set 0, sealed, at
0x9000. -/
def ranOn (op arg : Nat) (unsteady : Bool := false) : SecRun :=
  ⟨op, arg, writeBytes 0 [] 0 (leBytes 8 0x2000 ++ leBytes 8 1265 ++ zeros 8 ++ leBytes 8 0x9000), unsteady⟩
def opensBundle : SecRun := ranOn opBundleOpen 0
theorem witness_SecurityCommandsEndWithTheirCode : (secState none).works = true ∧ (secState none).sec.run = none
    ∧ (secState (some (ranOn opCert 6))).sec.run = some (ranOn opCert 6)
    ∧ ([(opReport, 0), (opCert, 7), (opKeyAgree, 0), (opEndSession, 0), (opSeal, 3), (opBundleOpen, 0), (opBundleClose, 64)].all
        fun e => (on.regRefused (regOr F.secCmdOp.off) (secValue e.1 e.2)).isSome
          && ((secState none).regRefused (regOr F.secCmdOp.off) (secValue e.1 e.2)).isNone) = true := by decide +kernel
theorem witness_SecurityCases : ({ secState none with sec.secret := some [] } : State).sec.secret.isSome = true
    ∧ (secState none).sec.secret = none ∧ leNat ((ranOn opKeyAgree 0).bytes 1264 1) < 2
    ∧ (secState none).flag F.secStatusConf = false ∧ (secState none [(F.secStatusConf, 1)]).flag F.secStatusConf = true
    ∧ (secState none).setValid 0 = true ∧ (secState none).flag (F.isDescHouse 0) = true ∧ (secState none).setValid 9 = false
    ∧ (secState none [(F.bundleStatValid 3, 1)]).flag (F.bundleStatValid 3) = true
    ∧ (secState none [(F.bundleStatValid 3, 1)]).slotBusy 3 = false ∧ (secState none).flag (F.bundleStatValid 3) = false
    ∧ (smithyWith 16 (some (running [shardOf (shardB 16)] none)) [(F.bundleStatValid 3, 1), (F.bundleNNgroup 3, 4096)]).slotBusy 3
      = true := by decide +kernel
/-- The inputs of a key agreement are good or bad. -/
theorem witness_KeyAgreement (r : SecRun) (h : leNat (r.bytes 1264 1) < 2) :
    (Config.x25519Ok (r.bytes 0 32) = true ∧ Config.kemOk (r.bytes 32 1184) = true ∧ leNat (r.bytes 1264 1) < 2)
    ∨ ¬(Config.x25519Ok (r.bytes 0 32) = true ∧ Config.kemOk (r.bytes 32 1184) = true ∧ leNat (r.bytes 1264 1) < 2) := by
  cases Config.x25519Ok (r.bytes 0 32) <;> cases Config.kemOk (r.bytes 32 1184) <;> simp [h]
theorem witness_BundleOpens : ∃ c u, (bundleOpenRun (ranOn opBundleOpen 0 true)).go ((secState none).secOut []) = (.ok c, u)
    ∧ decide (c = cdBadInput) = true := of_okAnd (by decide +kernel)
/-- The header stands in companion memory. -/
def bundleHome : State := { secState none with mem.comp := writeBytes 0 [] 0x2000 bundleHdr }
theorem witness_BundleHeaderRead : ∃ h u, (compRead 0 none 0x2000 64).go bundleHome = (.ok h, u)
    ∧ (h == bundleHdr && bundleFields h 1265) = true := of_okAnd (by decide +kernel)
theorem witness_BundleRead : ∃ h u, (compRead 0 none 0x2000 1265).go bundleHome = (.ok h, u)
    ∧ true = true := of_okAnd (by decide +kernel)
theorem witness_BundleNamed : leNat (opensBundle.bytes 0 8) = 0x2000 ∧ leNat (opensBundle.bytes 8 8) = 1265 := by decide +kernel
theorem leBytes_length (k v : Nat) : (leBytes k v).length = k := by
  induction k generalizing v with
  | zero => rfl
  | succ k ih => simp [leBytes, ih]
theorem zeros_length (n : Nat) : (zeros n).length = n := List.length_replicate ..
theorem memberOf_length {f : List Byte} (h : f.length = 16) : (memberOf f).length = 1184 := by
  rw [memberOf, List.length_append, h, zeros_length]
theorem fingerprint_length : fingerprint.length = 16 := by
  simp [fingerprint, sha384Bytes, beBytes, leBytes_length]
theorem memberAt_bundleOf (f : List Byte) (h : f.length = 16) : memberAt (bundleOf f) 0 = memberOf f := by
  have e : bundleHdr.length = 64 := by decide
  have e' := memberOf_length h
  rw [memberAt, bundleOf, slice, show 64 + 1184 * 0 = bundleHdr.length by rw [e], List.drop_left, ← e', List.take_left]
theorem witness_BundleFields : bundleFields bundleHdr 1265 = true ∧ fieldAt bundleHdr 7 1 = 1 ∧ fieldAt bundleHdr 8 4 ≤ (secState none).svn
    ∧ bit (fieldAt bundleHdr 6 1) 1 = false ∧ (secState none).houseSet 0 = true ∧ (secState none).sealed 0 = true
    ∧ leNat (opensBundle.bytes 16 1) = 0 ∧ leNat (opensBundle.bytes 24 8) = 0x9000
    ∧ opensBundle.unsteady = false
    ∧ 0x9000 + fieldAt bundleHdr 48 8 ≤ (secState none).setSize 0 ∧ (secState none).slotFree = some 0
    ∧ (secState none).groupsTaken (fieldAt bundleHdr 12 2) (fieldAt bundleHdr 14 2) = false := by decide +kernel
theorem witness_BundleMember : (bundleOf fingerprint).length = 1265
    ∧ ((upTo 1).map (memberAt (bundleOf fingerprint))).find? (fun e => e.take 16 == fingerprint) = some (memberOf fingerprint) := by
  constructor
  · rw [bundleOf, List.length_append, List.length_append, memberOf_length fingerprint_length, zeros_length,
      show bundleHdr.length = 64 by decide]
  · have h : (memberOf fingerprint).take 16 = fingerprint := by
      rw [memberOf, ← fingerprint_length, List.take_left]
    rw [show upTo 1 = [0] by decide, List.map_singleton, memberAt_bundleOf _ fingerprint_length, List.find?_cons, h]
    simp
theorem witness_BundlePlaintextLands : ∃ a u, (hbmWrite none 0 0x9000 [7#8]).go (secState none) = (.ok a, u) ∧ true = true :=
  of_okAnd (by decide +kernel)
/-- A bundle authenticates or does not. -/
theorem witness_BundleAuthenticates (id e nonce ct aad tag : List Byte) :
    (∃ ck p, unwrap id e = some ck ∧ Config.gcmOpen ck nonce aad ct tag = some p)
    ∨ (unwrap id e).bind (fun ck => Config.gcmOpen ck nonce aad ct tag) = none := by
  cases h : unwrap id e with
  | none => exact .inr rfl
  | some ck =>
    cases h' : Config.gcmOpen ck nonce aad ct tag with
    | none => exact .inr h'
    | some p => exact .inl ⟨ck, p, rfl, h'⟩

/-! ### Statement about resilience and errors -/

/-- The open snapshot of context 1 holds the copy of its one page. -/
def drainable : State :=
  guarded.setSnap 1 { regions := [aRegion], staged := [{ region := 0, page := 0, die := 0, data := [] }] }
theorem witness_RestoresDrainsRecordsAndAudits : drainable.works = true ∧ drainable.getF (F.resSnapState 1) = snOpen
    ∧ on.getF (F.resSnapState 1) ≠ snOpen
    ∧ (snapPages (drainable.resc 1).snap.regions)[(drainable.resc 1).snap.tags.length]? = some (0, 0) := by decide +kernel
theorem witness_PageStaged : ∃ a u, (stagePage 1 0 0).go drainable = (.ok a, u) ∧ true = true := of_okAnd (by decide +kernel)

def restoring (busy : Bool) : State :=
  { ctxWith ([(F.plStatusState 0, plActive)] ++ regsThere) [] with
    res.restore := some { ctx := 1, addr := 4096, busy := busy, asked := false, ring := [] } }
theorem witness_Restores : on.res.restore = none ∧ (restoring true).works = true
    ∧ (on.regRefused (regOr F.resCmdOp.off) 1).isSome = true ∧ (restoring false).regRefused (regOr F.resCmdOp.off) 1 = none
    ∧ (restoring false).regRefused (regOr F.resCmdOp.off) 0 = none ∧ bits 1 0 3 = 1 ∧ bits 0 0 3 ≠ 1
    ∧ (restoring false).flag F.resCmdstDone = true ∧ ((restoring false).setB F.resCmdstDone false).flag F.resCmdstDone = false := by
  decide +kernel
theorem witness_RestoreChecks : ∃ rr u, (compRead 0 (some 1) 4096 64).go (restoring false) = (.ok rr, u)
    ∧ okAnd ((restoreGo 1 rr).go u) (fun r _ => decide (r = (rcBadImage, 0))) = true := of_okAnd (by decide +kernel)

def aRec (rid cls die : Nat) (parent : Option Nat) : Rec :=
  { rid := rid, cls := cls, die := die, unit := uMgmt, kind := kInvalid, sub := 0, ctx := none, parent := parent, seq := 0,
    watch := 0, detail := 0 }
def logged (n : Nat) : Tbl (Option LogE) := (upTo n).map fun i => (i, some ⟨zeros 32, 1000 + i⟩)
def records (n : Nat) (q : List Rec) (l : List (Fld × Nat) := []) : State := { onWith (regsThere ++ l) with err.recQ := q, err.log := logged n }
def broken (q : List Rec) : State := records 0 q [(F.dieStatusLastcause 1, 1), (F.dieStatusLastcause 2, 1)]
theorem witness_RecordsAreStored : (records 0 []).live = true
    ∧ (records 0 [aRec 1 clsContext 0 none]).err.recQ.find? (fun r => r.die = 0) = some (aRec 1 clsContext 0 none)
    ∧ (records 0 [aRec 1 clsContext 0 none]).logPath 0 = true ∧ (broken []).logPath 3 = false
    ∧ (∃ q ∈ [aRec 1 clsContext 1 none, aRec 2 clsContext 0 (some 1)], (aRec 2 clsContext 0 (some 1)).parent = some q.rid)
    ∧ ((broken (List.replicate 16 (aRec 1 clsContext 3 none))).err.recQ.filter fun q => q.die = 3).length ≤ 16
    ∧ ((broken (List.replicate 17 { aRec 1 clsContext 3 none with esc := true })).err.recQ.filter fun q => q.die = 3)[16]?
      = some { aRec 1 clsContext 3 none with esc := true }
    ∧ (records 0 []).freeEntries = 0 :: (upTo 128).drop 1 ∧ 4 ≤ ((upTo 128).drop 1).length
    ∧ (records 124 [aRec 1 clsDie 0 none]).freeEntries = [124, 125, 126, 127]
    ∧ (records 128 []).freeEntries = [] ∧ (records 124 []).fatal = false
    ∧ (aRec 1 clsCorrected 0 none).esc = false ∧ (aRec 1 clsCorrected 0 none).ctx = none
    ∧ ({ aRec 1 clsContext 0 none with esc := true } : Rec).esc = true := by decide +kernel
theorem witness_RecordsAcknowledged : (on.regRefused (regOr F.errAckIndex.off) 5).isSome = true
    ∧ (records 9 []).regRefused (regOr F.errAckIndex.off) 5 = none := by decide +kernel

def audited (l : List (Fld × Nat)) : State :=
  { onWith ([(F.errAuditWells, 127), (F.errAuditDone, 1)] ++ regsThere ++ l) with err.audit := [(0, 0)] }
theorem witness_AuditsOfTheWells : (audited []).fatal = false ∧ (audited []).wellDiff 0 0 = 0
    ∧ (audited [(F.schEmbIssue, 1)]).wellDiff 0 0 ≠ 0 ∧ (audited []).works = true
    ∧ ((((upTo 7).filter fun w => (audited []).bitF F.errAuditWells w).flatMap fun w => ((audited []).wellInsts w).map fun i => (w, i)).all
        fun p => (audited []).wellQuiet p.1 p.2 && decide ((audited []).wellDiff p.1 p.2 = 0)) = true
    ∧ (on.regRefused (regOr F.errAuditGo.off) 1).isSome = true ∧ (audited []).regRefused (regOr F.errAuditGo.off) 1 = none
    ∧ (audited []).flag F.errAuditDone = true ∧ (audited [(F.errAuditDone, 0)]).flag F.errAuditDone = false
    ∧ (0, 0) ∈ (audited []).err.audit ∧ (1, 0) ∉ (audited []).err.audit
    ∧ ({ audited [] with sched.graphs := [{ aGraph with checking := true }] } : State).wellQuiet 0 0 = false
    ∧ (1#64).getLsbD 0 = true := by decide +kernel

/-! ### Statement about boot, firmware and self-test -/

def tryAt (k n : Nat) (alt : Bool) : Try := { step := k, inst := 0xFF, n := n, alt := alt }
/-- The module boots; one try of step `k` runs. -/
def bootAt (k n : Nat) (alt : Bool) : State :=
  { booting [(F.bootStatusStep, k)] with boot.tries := [tryAt k n alt] }
def passed : BootResult := { pass := true, code := 0, data := [] }
theorem witness_BootStepsFirmwareAndSelfTest : (bootAt 1 0 false).works = true ∧ (bootAt 1 0 false).power.st = .boot
    ∧ on.power.st ≠ .boot
    ∧ (bootAt 1 0 false).boot.tries.find? (fun y => y.step = 1 ∧ y.inst = 0xFF) = some (tryAt 1 0 false)
    ∧ ([2, 4, 6, 8, 10, 11].all hasAlternate) = true ∧ hasAlternate 1 = false ∧ (bootAt 2 2 true).flag F.bootStatusRundone = false
    ∧ (bootAt 1 0 false).flag F.bootStatusHalted = false ∧ (bootAt 1 0 false).getF F.bootStatusStep = 1
    ∧ (bootAt 5 0 false).tryOk (tryAt 5 0 false) passed = true := by decide +kernel
theorem witness_MirrorAndLinkSteps : (bootAt 1 0 false).tryOk (tryAt 1 0 false) passed = !(bootAt 1 0 false).flag (F.dieIdMirror 0)
    ∧ (bootAt 3 0 true).tryOk (tryAt 3 0 true) passed = true ∧ (bootAt 13 0 false).boot.tries = [tryAt 13 0 false] := by
  decide +kernel
def firmware (fw : Nat) (l : List (Fld × Nat) := []) : State :=
  { onWith ([(F.fwStatusDone, 1), (F.bootStatusRundone, 1), (F.plStatusState 0, plActive)] ++ regsThere ++ l) with boot.fw := fw }
theorem witness_FirmwareCommands : (firmware 0).works = true
    ∧ ([1, 2, 3, 4, 5, 6, 7].all fun op => (on.regRefused (regOr F.fwCmdOp.off) op).isSome
      && ((firmware 0).regRefused (regOr F.fwCmdOp.off) op).isNone) = true
    ∧ (firmware 0).flag F.fwStatusDone = true ∧ (firmware 0).flag F.bootStatusRundone = true
    ∧ (firmware 0 [(F.bootStatusRundone, 0)]).flag F.bootStatusRundone = false ∧ (firmware 0).boot.fw = 0
    ∧ (firmware 7).boot.fw = 7 ∧ (firmware 4 [(F.fwStatusStaged, 1)]).flag F.fwStatusStaged = true
    ∧ (firmware 4).flag F.fwStatusStaged = false ∧ (firmware 6).flag F.bootStatusTrial = false
    ∧ (firmware 6 [(F.bootStatusTrial, 1)]).flag F.bootStatusTrial = true
    ∧ (firmware 3).boot.fwLen = 0 ∧ ({ firmware 3 with boot.fwLen := 256 } : State).boot.fwOff + 256 ≤ bankSize := by decide +kernel
theorem witness_BootFails : (bootAt 2 2 true).boot.tries.find? (fun y => y.step = 2 ∧ y.inst = 0xFF) = some (tryAt 2 2 true)
    ∧ (bootAt 2 2 true).boot.tries = [tryAt 2 2 true] := by decide +kernel
theorem witness_FirmwareRead : ∃ bs u, (compRead 0 none 256 8).go (firmware 3) = (.ok bs, u) ∧ decide (bs.length = 8) = true :=
  of_okAnd (by decide +kernel)
def tested (l : List (Fld × Nat)) (bist : Nat) : State :=
  { onWith ([(F.bootStatusRundone, 1), (F.readyDieCluster 0, 255)] ++ regsThere ++ l) with boot.bist := bist }
theorem witness_SelfTests : (on.regRefused (regOr F.bistCmdTarget.off) 3).isSome = true
    ∧ (tested [] 0).regRefused (regOr F.bistCmdTarget.off) 3 = none ∧ (tested [] 0).flag F.bootStatusRundone = true
    ∧ targetCluster 3 = 3 ∧ ((tested [] 0).regRefused (regOr F.bistCmdTarget.off) 8).isSome = true ∧ (tested [] 0).boot.bist = 0
    ∧ (tested [] 0).clusterGranted 3 = false
    ∧ (ctxWith [] []).clusterGranted 0 = true ∧ (tested [] 0).readyDie 0 (rdCluster + 3) = true
    ∧ on.readyDie 0 (rdCluster + 3) = false ∧ (tested [] 4).boot.bist = 3 + 1 ∧ (3 : Nat) % 32 < 16 := by decide +kernel

/-! ### Results worked out in the spec -/

/-- 02, a KW16 block to KQ4 with coarse scale 0.5: the table, in sixty-fourths of 1/32. -/
def kq4Values : List Src :=
  [(false, 144), (true, 72), (false, 60), (false, 120), (false, 6), (true, 3), (false, 42), (false, 18), (true, 96),
   (false, 64), (false, 0), (true, 32), (false, 24), (false, 48), (true, 12), (false, 136)].map fun e => .fin e.1 e.2 32
theorem test_kw16_block_to_kq4 :
    let r := convBlock ⟨.kq4, false, true, false⟩ 0x3F000000#32 false 0 kq4Values (kq4Values.map fun _ => 0)
    packCodes .kq4 r.1 = [0xD7, 0x64, 0x00, 0x24, 0x5E, 0xB0, 0x42, 0x79] ∧ r.2.1 = some 0x84
    ∧ r.2.2 = { zero := 3, sat := 0, nonfin := 0, max := 0x40900000 } := by decide +kernel
/-- 02, KQ8 at and beyond the largest code: saturate and strict. -/
def kq8Of (sat : Bool) (v : Src) : Nat × CClass := convCode ⟨.kq8, false, sat, true⟩ false 0 (quot 0x78 w32One v)
theorem test_kq8_range : [(Src.fin false 232 1), .fin false 240 1, .fin false 495 2, .fin false 248 1, .fin true 300 1, .inf false].map
      (fun v => (kq8Of true v, kq8Of false v))
    = [((0x7E, .ordinary), (0x7E, .ordinary)), ((0x7F, .ordinary), (0x7F, .ordinary)), ((0x7F, .ordinary), (0x7F, .ordinary)),
       ((0x7F, .sat), (0x80, .nonfin)), ((0xFF, .sat), (0x80, .nonfin)), ((0x7F, .nonfin), (0x80, .nonfin))] := by decide +kernel
/-- 02, W32 to KW16: the strict results, and 2^64 in saturate mode. -/
theorem test_w32_to_kw16 : ([0x3F804000, 0x3F80C000, 0x1C000000, 0x5F800000, 0xFFC00000].map fun w =>
      convCode cvcKW16 false 0 (srcW32 (BitVec.ofNat 32 w)))
    = [(0x3F00, .ordinary), (0x3F02, .ordinary), (0, .zero), (0x7F00, .nonfin), (0x7F80, .nonfin)]
    ∧ convCode ⟨.kw16, false, true, false⟩ false 0 (srcW32 0x5F800000#32) = (0x7EFF, .sat) := by decide +kernel
/-- 02, stochastic rounding of ±1.03125 to KQ8. -/
theorem test_stochastic : ([0x3FFFFFFF, 0x40000000, 0xC1234567].map fun u =>
      ((convCode ⟨.kq8, true, true, true⟩ false u (quot 0x78 w32One (.fin false 33 32))).1,
       (convCode ⟨.kq8, true, true, true⟩ false u (quot 0x78 w32One (.fin true 33 32))).1))
    = [(0x41, 0xC1), (0x40, 0xC0), (0x40, 0xC0)] := by decide +kernel
/-- 03, a worked block: the contribution of the cell. -/
theorem test_matrix_block :
    (cellBlock 16 ((0x7F :: List.replicate 15 0x20).map fun c => toW32 (srcPlain .kq8 c), ks8Units 0x7C)
      ((0x7F :: List.replicate 15 0x18).map fun c => toW32 (srcPlain .kq8 c), ks8Units 0x68)).1 = 0x46A8C005#32
    ∧ (convCode cvcKW16 false 0 (srcW32 0x46A8C005#32)).1 = 0x4D52 := by decide +kernel
/-- 08, a worked update: an Adam group at its first applied step. -/
def adam : Grp :=
  { flags := 0, owner := 1, rule := 2, vsk := 2, wcfmt := 2, wslot := 0, mslot := 0, lr := 0x3A800000, beta1 := 0x3F600000,
    beta2 := 0x3F7E0000, eps := 0x35800000, eps1 := 0, wd := 0x3D800000, wccoarse := 0, trmax := 0 }
theorem test_update_decision :
    let u := { upd0 with absurd := 0x49800000, clip := 0x46800000 }.decide 0x5D800000 0x47000000 0
    u.phase = .applied ∧ u.n = 0x47000000#32 ∧ u.c = 0x3F000000#32 ∧ u.k = 0x37800000#32 := by decide +kernel
theorem test_update_of_a_parameter :
    let c := grpConsts adam 1
    let o := chunkRule adam c 0x37800000 { w := [0x3FC00000], g := [toW32 (srcPlain .kw16 0x4F80)], m := [0], rho := [], kappa := [], v := [0] }
    c.r1 = 0x41000000#32 ∧ c.r2 = 0x43000000#32 ∧ c.d = 0x3F7FFC00#32 ∧ o.m = [0x3E400000#32] ∧ o.u = [0x3F7FFFF5#32]
    ∧ o.root = [w32Sqrt 0x3C900000#32] ∧ newMaster adam c w32One [0x3FC00000] o.u = [0x3FBFDD00#32]
    ∧ (workingCopy adam [0x3FBFDD00]).1 = [0x80, 0x3F] ∧ chunkCoarse o.m = 0x36800000#32
    ∧ (convAll cvcKQ8 0x36800000 16 o.m).1 = [0x7F] ∧ (convAll cvcKQ8 0x36800000 16 o.m).2.1 = [0xB5] := by decide +kernel
/-- 00 R11, a worked read of a 64-bit counter. -/
theorem test_counter_read :
    let a := (F.meBusy 0 0).off
    let r := (onWith ([(F.meBusy 0 0, 0x1FFFFFFFE)] ++ regsThere)).read32 0 a
    let s := (r.2.incF (F.meBusy 0 0) 1).incF (F.meBusy 0 0) 1
    let h := s.read32 0 (a + 4)
    r.1 = 0xFFFFFFFE ∧ h.1 = 1 ∧ (h.2.read32 0 a).1 = 2 := by decide +kernel
/-- 11 R300 and 13 R355: the standard check values of CRC-32C and of the CRC-64 named there, over the digits 1 to 9
(PRESUMED: published with those polynomials). -/
theorem test_crc : crc32c ((List.range 9).map fun i => BitVec.ofNat 8 (0x31 + i)) = 0xE3069283#32
    ∧ crc64 ((List.range 9).map fun i => BitVec.ofNat 8 (0x31 + i)) = 0x62EC59E3F1A4F00A#64 := by decide +kernel

end Sys2Proof.Tests
end

/-! PROOFS about the scope of the block (00): its reset state, control-space accesses, and a port's link and commits. -/
namespace Sys2Proof.Machine

/-- Settles O3: nothing is listed in any table of the reset state, so every field reads its reset value (00 R9). -/
theorem resetIsLegalAndEmpty : Obligations.ResetIsLegalAndEmpty := by
  have hfields : ∀ f : Fld, State.reset.getF f = f.reset := fun _ => rfl
  exact ⟨by decide, by decide, by decide, by decide, by decide, by decide, hfields⟩

/-! ### What a command leaves of the state its effect comes to -/

section
variable (s : State) (f : State → State)

theorem act_left (h : s.live = true) : act s f = .next (left s (f s)) := act_live s f h

theorem work_left (h : s.works = true) : work s f = .next (left s (f s)) := work_works s f h

end

/-- Work that leaves the queue and the power state alone completes in what its effect comes to. -/
theorem runsTo_of_work {i : Instr} {s : State} {f : State → State} {P : State → Prop} (hi : exec i s = work s f)
    (h : s.works = true) (hleft : left s (f s) = f s) (hP : P (f s)) : runsTo i s P :=
  ⟨f s, by rw [hi, work_left s f h, hleft], hP⟩

/-! ### Reading a register field back -/

/-- A flag set reads as 1 or 0. -/
theorem State.getF_setB (s : State) (f : Fld) (b : Bool) (hw : 0 < f.w) : (s.setB f b).getF f = ofBool b := by
  have hone : 1 % 2 ^ f.w = 1 := Nat.mod_eq_of_lt (Nat.one_lt_two_pow hw.ne')
  cases b <;> simp [State.setB, ofBool, hone]

/-- A flag set reads as the Boolean it was set to. -/
theorem State.flag_setB (s : State) (f : Fld) (b : Bool) (hw : 0 < f.w) : (s.setB f b).flag f = b := by
  cases b <;> simp [State.flag, s.getF_setB f _ hw, ofBool]

section
variable (s : State)

theorem State.getF_setB_ne {f g : Fld} (b : Bool) (h : g.key ≠ f.key) : (s.setB f b).getF g = s.getF g :=
  State.getF_setF_ne s _ h

theorem State.getF_incF_ne {f g : Fld} (n : Nat) (h : g.key ≠ f.key) : (s.incF f n).getF g = s.getF g :=
  State.getF_setF_ne s _ h

theorem State.getF_portCnt_ne {p i : Nat} {g : Fld} (n : Nat) (h : g.key ≠ (portCtr p i).key) :
    (s.portCnt p i n).getF g = s.getF g := State.getF_incF_ne s n h

theorem State.flag_eq_of_getF {s : State} {f : Fld} {b : Bool} (h : s.getF f = ofBool b) : s.flag f = b := by
  rw [State.flag, h]; cases b <;> rfl

@[simp] theorem State.setPort_getF (p : Nat) (v : PortSt) (g : Fld) : (s.setPort p v).getF g = s.getF g := rfl

@[simp] theorem State.portSt_setPort (p : Nat) (v : PortSt) : (s.setPort p v).portSt p = v := by
  simp [State.portSt, State.setPort]

end

/-! ### A Response that goes out at once, and the key epoch of its flit (13 R354–R357, R368) -/

section
variable (s : State) (l : Nat)

@[simp] theorem State.incF_pl (f : Fld) (n : Nat) : (s.incF f n).pl l = s.pl l := rfl

/-- A flit takes a position that is free of choice among those left of the key. -/
theorem State.flitPut_fposTx (ty q : Nat) (slots : List Byte) :
    ((s.flitPut l ty q slots).pl l).fposTx =
      (s.pl l).fposTx + s.fresh.1.toNat % (2 ^ 40 - (s.pl l).fposTx % 2 ^ 40) + 1 :=
  congrArg PlLink.fposTx (State.pl_setPl _ l _)

/-- At the last position of a key there is no choice left: the flit takes it. -/
theorem State.flitPut_fposTx_last (ty q : Nat) (slots : List Byte) (h : (s.pl l).fposTx % 2 ^ 40 = 2 ^ 40 - 1) :
    ((s.flitPut l ty q slots).pl l).fposTx = (s.pl l).fposTx + 1 := by
  have hone : 2 ^ 40 - (s.pl l).fposTx % 2 ^ 40 = 1 := by omega
  rw [State.flitPut_fposTx, hone, Nat.mod_one, Nat.add_zero]

theorem State.keyNext_keysel :
    (s.keyNext l).flag (F.plStatusKeysel l) = !(s.flag (F.plStatusKeysel l)) :=
  State.flag_setB s (F.plStatusKeysel l) _ Nat.one_pos

/-- In confidential mode the flit at the last position of a key flips the selector. -/
theorem State.flitOut_keysel_last (ty q : Nat) (slots : List Byte) (hc : s.flag (F.plStatusConf l) = true)
    (h : (s.pl l).fposTx % 2 ^ 40 = 2 ^ 40 - 1) :
    (s.flitOut l ty q slots).flag (F.plStatusKeysel l) = !(s.flag (F.plStatusKeysel l)) := by
  have hwrap : ((s.pl l).fposTx + 1) % 2 ^ 40 = 0 := by omega
  have hconf : (s.flitPut l ty q slots).flag (F.plStatusConf l) = true := hc
  rw [State.flitOut, State.flitPut_fposTx_last s l ty q slots h, hconf, hwrap]
  exact State.keyNext_keysel _ l

/-- A link as a Response sent at once leaves it: the message waits for its acknowledgement. -/
def PlLink.replayed (k : PlLink) (m : PlMsg) : PlLink :=
  { k with replay := k.replay ++ [(k.txSeq, m)], txSeq := (k.txSeq + 1) % 4096, txWait := [] }

/-- A Response needs no credit: alone on a link with room it is sent. -/
theorem plPumpGo_response {k : PlLink} {m : PlMsg} (hm : m.cls = clsRsp) (hroom : k.replay.length < 512) :
    plPumpGo [m] [] { k with txWait := [] } [] = (k.replayed m, [(k.txSeq, m)]) := by
  have hcred : PlLink.credited { k with txWait := [] } m = true := by simp [PlLink.credited, hm, clsRsp, clsReq, clsBell]
  have hspend : PlLink.spend { k with txWait := [] } m = { k with txWait := [] } := by
    simp [PlLink.spend, hm, clsRsp, clsReq, clsBell]
  simp [plPumpGo, hcred, hspend, hroom, PlLink.replayed]

/-- A Response on a link that sends at once leaves as one DATA flit, counted in PL_CTR 0. -/
theorem State.plSend_response {m : PlMsg} (hs : sendsAtOnce s l) (hm : m.cls = clsRsp) :
    ∃ u : State, s.plSend l m = u.dataOut l ((s.pl l).txSeq, m) ∧ u.pl l = (s.pl l).replayed m ∧
      ∀ g : Fld, g.key ≠ (F.plCtr0 l).key → u.getF g = s.getF g := by
  obtain ⟨hactive, hwait, hroom⟩ := hs
  have hst : s.getF (F.plStatusState l) = 2 := hactive
  refine ⟨((s.setPl l { s.pl l with txWait := [m] }).setPl l ((s.pl l).replayed m)).incF (F.plCtr0 l) 1, ?_, ?_, ?_⟩
  · simp [State.plSend, State.plPump, hst, hwait, plPumpGo_response hm hroom]
  · simp
  · exact fun g hg => State.getF_setF_ne _ _ hg

/-- The completion of a window write that takes the last position of a key in confidential mode flips KEYSEL. -/
theorem State.winCmp_keysel_last (tag status : Nat) (hs : sendsAtOnce s l) (hc : s.flag (F.plStatusConf l) = true)
    (h : (s.pl l).fposTx % 2 ^ 40 = 2 ^ 40 - 1) :
    (s.winCmp l tag status).flag (F.plStatusKeysel l) = !(s.flag (F.plStatusKeysel l)) := by
  obtain ⟨u, hu, hpl, hget⟩ := State.plSend_response s l
    (m := { cls := clsRsp, opc := rspWinCmp, tag := tag, status := status }) hs rfl
  have hkeep : ∀ g : Fld, g.key ≠ (F.plCtr0 l).key → u.flag g = s.flag g := fun g hg => by
    rw [State.flag, State.flag, hget g hg]
  have hsel : (F.plStatusKeysel l).key ≠ (F.plCtr0 l).key := by simp only [Fld.key, F.plStatusKeysel, F.plCtr0]; omega
  have hconf : (F.plStatusConf l).key ≠ (F.plCtr0 l).key := by simp only [Fld.key, F.plStatusConf, F.plCtr0]; omega
  rw [State.winCmp, hu, State.dataOut, State.flitOut_keysel_last, hkeep _ hsel]
  · rw [hkeep _ hconf, hc]
  · rw [hpl]; exact h

end

/-! ### A write of PL_STATUS whose own completion changes PL_STATUS -/

/-- The module in RUN with link 0 ACTIVE in confidential mode, at the last flit position of its key. -/
def lastOfKey : State :=
  let s : State := { State.reset with
    power := { State.reset.power with st := .run, runEn := true, rstN := true, pwrOk := true, railsUp := true } }
  (((s.setF (F.plStatusState 0) plActive).setB (F.plStatusConf 0) true).setF F.presentPkgPresent (2 ^ rPl0)).setPl 0
    { fposTx := 2 ^ 40 - 1 }

/-- PL_STATUS of link 0. -/
def plStatus0 : Reg := regOr (F.plStatusKeysel 0).off

/-- The state in which the completion of a write of PL_STATUS goes out. -/
def lastOfKeyWritten : State := (lastOfKey.plTake 0 clsReq true).ctlStore 0 0x60004 .w32 0

theorem lastOfKey_ctlwr :
    exec (.ctlwr 0 0 0x60004 4 0) lastOfKey = .next (left lastOfKey (lastOfKeyWritten.winCmp 0 0 0)) := by
  have hlive : lastOfKey.live = true := by decide +kernel
  have hst : (lastOfKey.plSt 0 != plActive) = false := by decide +kernel
  have hreach : (!(lastOfKey.plTake 0 clsReq true).reaches 0 0x60004) = false := by decide +kernel
  have hwrite : lastOfKey.ctlWrite 0 0 0x60004 4 0 = lastOfKeyWritten.winCmp 0 0 0 := by
    rw [State.ctlWrite, hst]
    simp only [hreach]
    rfl
  calc exec (.ctlwr 0 0 0x60004 4 0) lastOfKey
      _ = .next (left lastOfKey (lastOfKey.ctlWrite 0 0 0x60004 4 0)) :=
        act_left lastOfKey (fun s => s.ctlWrite 0 0 0x60004 4 0) hlive
      _ = .next (left lastOfKey (lastOfKeyWritten.winCmp 0 0 0)) := by rw [hwrite]

/-- Refutes O20: the completion of a CTLWR of PL_STATUS may be the flit that uses up a key, and then the read-only field
KEYSEL is not as it was (13 R368). -/
theorem not_controlSpaceAccesses : ¬ Obligations.ControlSpaceAccesses := by
  intro h
  have hreg : regAt (0x60004 : BitVec 28).toNat = some plStatus0 := by decide +kernel
  obtain ⟨hwrite, -⟩ := h 0 0x60004 plStatus0 lastOfKey (by decide +kernel) (by decide +kernel) hreg (by decide +kernel)
  obtain ⟨-, -, hwindow⟩ := hwrite 0 (by decide +kernel) (by decide) (by decide +kernel) (by decide +kernel)
    (by unfold Reg.distinctFields; decide +kernel)
  obtain ⟨t, ht, hfields, -⟩ := (hwindow 0 (by unfold sendsAtOnce; decide +kernel)).1 (by decide +kernel)
  have hmem : (⟨F.plStatusKeysel 0, .ro, .none, .any⟩ : FDesc) ∈ plStatus0.fields := by decide +kernel
  obtain ⟨-, -, -, hro⟩ := hfields _ hmem
  have hkept : t.flag (F.plStatusKeysel 0) = false := by
    rw [State.flag, hro rfl]; decide +kernel
  have hflip : t.flag (F.plStatusKeysel 0) = true := by
    cases (lastOfKey_ctlwr.symm.trans ht)
    exact (State.winCmp_keysel_last lastOfKeyWritten 0 0 0 (by unfold sendsAtOnce; decide +kernel) (by decide +kernel)
      (by decide +kernel)).trans (by decide +kernel)
  exact Bool.noConfusion (hkept.symm.trans hflip)

/-! ### Keys of a port's fields (05 R142, 12 R351) -/

/-- Offset of the registers of port `p`. -/
def portBase (p : Nat) : Nat := dieOff (p / 8) + 0x40000 + 0x10000 * (p % 8)

section
variable (p : Nat)

@[simp] theorem key_portStatusLinkup : (F.portStatusLinkup p).key = portBase p * 64 + 512 := by
  simp only [Fld.key, F.portStatusLinkup, portBase]; omega
@[simp] theorem key_portStatusFeclock : (F.portStatusFeclock p).key = portBase p * 64 + 513 := by
  simp only [Fld.key, F.portStatusFeclock, portBase]; omega
@[simp] theorem key_portStatusLfault : (F.portStatusLfault p).key = portBase p * 64 + 514 := by
  simp only [Fld.key, F.portStatusLfault, portBase]; omega
@[simp] theorem key_portStatusRfault : (F.portStatusRfault p).key = portBase p * 64 + 515 := by
  simp only [Fld.key, F.portStatusRfault, portBase]; omega
@[simp] theorem key_portStatusAndone : (F.portStatusAndone p).key = portBase p * 64 + 516 := by
  simp only [Fld.key, F.portStatusAndone, portBase]; omega
@[simp] theorem key_portStatusLanes : (F.portStatusLanes p).key = portBase p * 64 + 520 := by
  simp only [Fld.key, F.portStatusLanes, portBase]; omega
@[simp] theorem key_portStatusXofftx : (F.portStatusXofftx p).key = portBase p * 64 + 528 := by
  simp only [Fld.key, F.portStatusXofftx, portBase]; omega
@[simp] theorem key_portStatusXoffrx : (F.portStatusXoffrx p).key = portBase p * 64 + 536 := by
  simp only [Fld.key, F.portStatusXoffrx, portBase]; omega
@[simp] theorem key_portCommitRefused : (F.portCommitRefused p).key = portBase p * 64 + 769 := by
  simp only [Fld.key, F.portCommitRefused, portBase]; omega
@[simp] theorem key_portWdstatFired : (F.portWdstatFired p).key = portBase p * 64 + 1792 := by
  simp only [Fld.key, F.portWdstatFired, portBase]; omega
@[simp] theorem key_portWdstatGenstop : (F.portWdstatGenstop p).key = portBase p * 64 + 1800 := by
  simp only [Fld.key, F.portWdstatGenstop, portBase]; omega
@[simp] theorem key_portCtr (i : Nat) : (portCtr p i).key = portBase p * 64 + (16384 + 512 * i) := by
  simp only [Fld.key, portCtr, portBase]; omega

/-- No field of a port counts Bells lost. -/
@[simp] theorem portKey_ne_plCtr9 (n : Nat) : portBase p * 64 + n ≠ (F.plCtr9 0).key := by
  simp only [Fld.key, F.plCtr9, portBase, dieOff]; omega

/-- No field of a port is a stack's record number. -/
theorem portKey_ne_dieSeq (d : Nat) {n : Nat} (h : n < 0x400000) : portBase p * 64 + n ≠ (F.dieSeqSeq d).key := by
  simp only [Fld.key, F.dieSeqSeq, portBase, dieOff]; omega

end

/-! ### Bells -/

section
variable (s : State) (src a b arg : Nat)

/-- A Bell takes its number and joins the queue, or is lost and counted. -/
theorem State.bell_shape : ∃ r k, s.bell src a b arg = { s with regs.fields := r, puell := k } ∧
    ∀ g : Fld, g.key ≠ (F.plCtr9 0).key → tget g.reset r g.key = s.getF g := by
  unfold State.bell
  split
  · exact ⟨_, _, rfl, fun _ _ => rfl⟩
  · dsimp only
    split
    · exact ⟨_, _, rfl, fun g hg => State.getF_setF_ne s _ hg⟩
    · exact ⟨_, _, rfl, fun _ _ => rfl⟩

theorem State.bell_getF {g : Fld} (h : g.key ≠ (F.plCtr9 0).key) : (s.bell src a b arg).getF g = s.getF g := by
  obtain ⟨r, k, hbell, hget⟩ := s.bell_shape src a b arg
  rw [hbell]; exact hget g h

@[simp] theorem State.bell_portSt (p : Nat) : (s.bell src a b arg).portSt p = s.portSt p := by
  obtain ⟨r, k, hbell, -⟩ := s.bell_shape src a b arg
  rw [hbell]; rfl

end

/-! ### The link of a port (12 R332, R334, R349) -/

/-- Nothing but registers, ports and what the Puell links hold changed. -/
def portOnly (s t : State) : Prop := ∃ r q k, t = { s with regs := r, ports := q, puell := k }

section
variable {s t : State} (h : portOnly s t)
include h

theorem portOnly.eq : t = { s with regs := t.regs, ports := t.ports, puell := t.puell } := by
  obtain ⟨r, q, k, rfl⟩ := h; rfl

theorem portOnly.left_eq : left s t = t := by
  obtain ⟨r, q, k, rfl⟩ := h; rfl

theorem portOnly.setF (f : Fld) (v : Nat) : portOnly s (t.setF f v) := by
  obtain ⟨r, q, k, rfl⟩ := h; exact ⟨_, _, _, rfl⟩

theorem portOnly.setB (f : Fld) (b : Bool) : portOnly s (t.setB f b) := h.setF f _

theorem portOnly.setPort (p : Nat) (v : PortSt) : portOnly s (t.setPort p v) := by
  obtain ⟨r, q, k, rfl⟩ := h; exact ⟨_, _, _, rfl⟩

theorem portOnly.bell (src a b arg : Nat) : portOnly s (t.bell src a b arg) := by
  obtain ⟨r, q, k, rfl⟩ := h
  obtain ⟨r', k', hbell, -⟩ := State.bell_shape _ src a b arg
  exact ⟨_, _, _, hbell⟩

theorem portOnly.pauseReset (p : Nat) : portOnly s (t.pauseReset p) :=
  ((((h.setPort p _).setF _ _).setF _ _).setF _ _).setF _ _

end

section
variable (s : State) (p : Nat)

theorem portOnly.refl : portOnly s s := ⟨_, _, _, rfl⟩

@[simp] theorem State.setF_portSt (f : Fld) (v : Nat) : (s.setF f v).portSt p = s.portSt p := rfl

@[simp] theorem State.setB_portSt (f : Fld) (b : Bool) : (s.setB f b).portSt p = s.portSt p := rfl

@[simp] theorem State.portCnt_portSt (p' i n : Nat) : (s.portCnt p' i n).portSt p = s.portSt p := rfl

@[simp] theorem State.pauseReset_portSt : (s.pauseReset p).portSt p = { s.portSt p with pause := [] } :=
  State.portSt_setPort s p _

/-- A reset of the pauses changes of a port's registers the pause states and the watchdogs. -/
theorem State.pauseReset_getF {n : Nat} {g : Fld} (hg : g.key = portBase p * 64 + n)
    (hn : n ≠ 528 ∧ n ≠ 536 ∧ n ≠ 1792 ∧ n ≠ 1800) : (s.pauseReset p).getF g = s.getF g := by
  simp [State.pauseReset, State.getF_setF_ne, hg, hn]

theorem State.pauseReset_xoff : (s.pauseReset p).getF (F.portStatusXoffrx p) = 0 ∧
    (s.pauseReset p).getF (F.portStatusXofftx p) = 0 := by
  simp [State.pauseReset, State.getF_setF_ne]

/-- The effect of LINK_UP on a port whose link can come up. -/
def State.linkRaised : State :=
  let t := (s.setB (F.portStatusLinkup p) true).setB (F.portStatusFeclock p) true
  let t := (t.setB (F.portStatusAndone p) (s.negotiates p)).setF (F.portStatusLanes p)
    (modeLanes (s.getF (F.portCfgMode p)))
  let t := ((t.setB (F.portStatusLfault p) false).setB (F.portStatusRfault p) false).pauseReset p
  (t.setPort p { t.portSt p with announce := 3 }).bell bellPort p 1 0

theorem modeLanes_lt (m : Nat) : modeLanes m < 2 ^ 4 := by
  unfold modeLanes; split <;> decide

theorem State.linkRaised_portOnly : portOnly s (s.linkRaised p) :=
  ((((((((portOnly.refl s).setB _ _).setB _ _).setB _ _).setF _ _).setB _ _).setB _ _).pauseReset p |>.setPort p _).bell
    _ _ _ _

theorem State.linkRaised_portSt : ((s.linkRaised p).portSt p).pause = [] ∧ ((s.linkRaised p).portSt p).announce = 3 := by
  simp [State.linkRaised]

theorem State.linkRaised_status : (s.linkRaised p).getF (F.portStatusLinkup p) = 1 ∧
    (s.linkRaised p).getF (F.portStatusFeclock p) = 1 ∧
    (s.linkRaised p).getF (F.portStatusLanes p) = modeLanes (s.getF (F.portCfgMode p)) ∧
    (s.linkRaised p).getF (F.portStatusXoffrx p) = 0 := by
  have hlinkup (u : State) (b : Bool) := u.getF_setB (F.portStatusLinkup p) b Nat.one_pos
  have hlock (u : State) (b : Bool) := u.getF_setB (F.portStatusFeclock p) b Nat.one_pos
  have hlanes (u : State) (m : Nat) :
      (u.setF (F.portStatusLanes p) (modeLanes m)).getF (F.portStatusLanes p) = modeLanes m :=
    (State.getF_setF u _ _).trans (Nat.mod_eq_of_lt (modeLanes_lt m))
  have hkeep := @State.pauseReset_getF
  refine ⟨?_, ?_, ?_, ?_⟩
  · simp [State.linkRaised, State.bell_getF, State.getF_setF_ne, State.getF_setB_ne, hlinkup, hkeep, ofBool]
  · simp [State.linkRaised, State.bell_getF, State.getF_setF_ne, State.getF_setB_ne, hlock, hkeep, ofBool]
  · simp [State.linkRaised, State.bell_getF, State.getF_setB_ne, hlanes, hkeep]
  · simp [State.linkRaised, State.bell_getF, State.pauseReset_xoff]

/-- A port whose link can come up comes up on LINK_UP (12 R332, R334). -/
theorem exec_linkUp_raised {p : Fin 32} {m : BitVec 4} (hw : s.works = true) (hen : s.flag (F.portCfgEnable p.val) = true)
    (hmode : s.getF (F.portCfgMode p.val) ≠ 0) (hdown : s.flag (F.portStatusLinkup p.val) = false)
    (hin : s.inService (p.val / 8) = true) (hagree : s.negotiates p.val = true → m.toNat = s.getF (F.portCfgMode p.val)) :
    exec (.linkUp p m) s = .next (s.linkRaised p.val) := by
  have hpartner : (s.negotiates p.val && m.toNat != s.getF (F.portCfgMode p.val)) = false := by
    cases h : s.negotiates p.val
    · rfl
    · simp [hagree h]
  change execLinkUp p m s = _
  unfold execLinkUp
  rw [work_left s _ hw]
  dsimp only
  rw [if_neg (by simp [hen, hmode, hdown, hin, hpartner])]
  exact congrArg Host.Outcome.next (s.linkRaised_portOnly p.val).left_eq

/-- The effect of LINK_DOWN on a port whose link stands. -/
def State.linkDropped (cut lf rf : Bool) : State :=
  let t := ((s.portCnt p 7 (ofBool cut)).setB (F.portStatusLinkup p) false).setB (F.portStatusFeclock p) false
  let t := (t.setB (F.portStatusAndone p) false).setF (F.portStatusLanes p) 0
  ((((t.pauseReset p).portCnt p 51 1).bell bellPort p 0 0).setB (F.portStatusLfault p) lf).setB (F.portStatusRfault p) rf

theorem State.linkDropped_portOnly (cut lf rf : Bool) : portOnly s (s.linkDropped p cut lf rf) :=
  ((((((((((portOnly.refl s).setF _ _).setB _ _).setB _ _).setB _ _).setF _ _).pauseReset p).setF _ _).bell
    _ _ _ _).setB _ _).setB _ _

theorem State.linkDropped_pause (cut lf rf : Bool) : ((s.linkDropped p cut lf rf).portSt p).pause = [] := by
  simp [State.linkDropped]

theorem State.linkDropped_status (cut lf rf : Bool) : (s.linkDropped p cut lf rf).getF (F.portStatusLinkup p) = 0 ∧
    (s.linkDropped p cut lf rf).getF (F.portStatusLanes p) = 0 ∧
    (s.linkDropped p cut lf rf).getF (F.portStatusLfault p) = ofBool lf ∧
    (s.linkDropped p cut lf rf).getF (F.portStatusRfault p) = ofBool rf ∧
    (s.linkDropped p cut lf rf).getF (F.portStatusXofftx p) = 0 := by
  have hlinkup (u : State) (b : Bool) := u.getF_setB (F.portStatusLinkup p) b Nat.one_pos
  have hlfault (u : State) (b : Bool) := u.getF_setB (F.portStatusLfault p) b Nat.one_pos
  have hkeep := @State.pauseReset_getF
  refine ⟨?_, ?_, ?_, State.getF_setB _ (F.portStatusRfault p) rf Nat.one_pos, ?_⟩
  · simp [State.linkDropped, State.bell_getF, State.getF_setF_ne, State.getF_setB_ne, State.getF_portCnt_ne, hlinkup,
      hkeep, ofBool]
  · simp [State.linkDropped, State.bell_getF, State.getF_setB_ne, State.getF_portCnt_ne, hkeep]
  · simp [State.linkDropped, State.getF_setB_ne, hlfault]
  · simp [State.linkDropped, State.bell_getF, State.getF_setB_ne, State.getF_portCnt_ne, State.pauseReset_xoff]

theorem State.linkDropped_counted (cut lf rf : Bool) : counted s (s.linkDropped p cut lf rf) (portCtr p 51) 1 ∧
    (cut = true → counted s (s.linkDropped p cut lf rf) (portCtr p 7) 1) := by
  have hcnt (u : State) (i n : Nat) :
      (u.portCnt p i n).getF (portCtr p i) = (u.getF (portCtr p i) + n) % 2 ^ (portCtr p i).w := u.getF_incF _ n
  have hkeep := @State.pauseReset_getF
  constructor
  · simp [counted, State.linkDropped, State.bell_getF, State.getF_setF_ne, State.getF_setB_ne, State.getF_portCnt_ne,
      hkeep, hcnt]
  · rintro rfl
    simp [counted, State.linkDropped, State.bell_getF, State.getF_setF_ne, State.getF_setB_ne, State.getF_portCnt_ne,
      hkeep, hcnt, ofBool]

/-- A port whose link stands loses it on LINK_DOWN (12 R349). -/
theorem exec_linkDown_dropped {p : Fin 32} (cut lf rf : Bool) (hw : s.works = true)
    (hup : s.flag (F.portStatusLinkup p.val) = true) :
    exec (.linkDown ⟨p, cut, lf, rf⟩) s = .next (s.linkDropped p.val cut lf rf) := by
  have hstill : (s.portCnt p.val 7 (ofBool cut)).flag (F.portStatusLinkup p.val) = true := by
    rw [State.flag, State.getF_portCnt_ne _ _ (by simp)]; exact hup
  change execLinkDown _ s = _
  unfold execLinkDown
  rw [work_left s _ hw]
  dsimp only
  rw [if_neg (by simp [hup]), State.portDown, if_neg (by simp [hstill])]
  exact congrArg Host.Outcome.next (s.linkDropped_portOnly p.val cut lf rf).left_eq

end

/-! ### Staged fields put in effect together (00 R13) -/

/-- Every held shadow copy of a list of fields applied, in order. -/
def State.applyShadows (s : State) (l : List Fld) : State := l.foldl State.applyShadow s

section
variable (s : State)

@[simp] theorem State.setF_shadow (f g : Fld) (v : Nat) : (s.setF f v).shadow g = s.shadow g := rfl

@[simp] theorem State.setB_shadow (f g : Fld) (b : Bool) : (s.setB f b).shadow g = s.shadow g := rfl

theorem State.dropShadow_shadow (f : Fld) : (s.dropShadow f).shadow f = none := by
  simp [State.shadow, State.dropShadow]

theorem State.dropShadow_shadow_ne {f g : Fld} (h : g.key ≠ f.key) : (s.dropShadow f).shadow g = s.shadow g := by
  simp [State.shadow, State.dropShadow, tget_tput_ne _ _ _ h]

theorem State.applyShadow_none {f : Fld} (h : s.shadow f = none) : s.applyShadow f = s := by
  simp [State.applyShadow, h]

theorem State.applyShadow_some {f : Fld} {v : Nat} (h : s.shadow f = some v) :
    s.applyShadow f = (s.setF f v).dropShadow f := by
  simp [State.applyShadow, h]

/-- An applied shadow copy is spent and its value is in effect; without one the field stays. -/
theorem State.applyShadow_same (f : Fld) : (s.applyShadow f).shadow f = none ∧
    (s.applyShadow f).getF f = ((s.shadow f).map (· % 2 ^ f.w)).getD (s.getF f) := by
  cases h : s.shadow f with
  | none => simp [s.applyShadow_none h, h]
  | some v =>
    rw [s.applyShadow_some h]
    exact ⟨State.dropShadow_shadow _ f, s.getF_setF f v⟩

theorem State.applyShadow_ne {f g : Fld} (h : g.key ≠ f.key) : (s.applyShadow f).shadow g = s.shadow g ∧
    (s.applyShadow f).getF g = s.getF g := by
  cases hs : s.shadow f with
  | none => simp [s.applyShadow_none hs]
  | some v =>
    rw [s.applyShadow_some hs]
    exact ⟨State.dropShadow_shadow_ne _ h, s.getF_setF_ne v h⟩

theorem State.applyShadows_ne {l : List Fld} {g : Fld} (h : g.key ∉ l.map Fld.key) :
    (s.applyShadows l).shadow g = s.shadow g ∧ (s.applyShadows l).getF g = s.getF g := by
  induction l generalizing s with
  | nil => exact ⟨rfl, rfl⟩
  | cons f r ih =>
    rw [List.map_cons, List.mem_cons, not_or] at h
    obtain ⟨hsh, hget⟩ := ih (s.applyShadow f) h.2
    obtain ⟨hsh', hget'⟩ := s.applyShadow_ne h.1
    exact ⟨hsh.trans hsh', hget.trans hget'⟩

/-- Of fields with keys of their own each gets its own shadow copy. -/
theorem State.applyShadows_mem {l : List Fld} (hl : (l.map Fld.key).Nodup) {f : Fld} (hf : f ∈ l) :
    (s.applyShadows l).shadow f = none ∧
      (s.applyShadows l).getF f = ((s.shadow f).map (· % 2 ^ f.w)).getD (s.getF f) := by
  induction l generalizing s with
  | nil => cases hf
  | cons a r ih =>
    rw [List.map_cons, List.nodup_cons] at hl
    obtain ⟨ha, hr⟩ := hl
    rcases List.mem_cons.mp hf with rfl | hf
    · obtain ⟨hsh, hget⟩ := (s.applyShadow f).applyShadows_ne ha
      obtain ⟨hsh', hget'⟩ := s.applyShadow_same f
      exact ⟨hsh.trans hsh', hget.trans hget'⟩
    · have hne : f.key ≠ a.key := fun h => ha (h ▸ List.mem_map_of_mem hf)
      obtain ⟨hsh, hget⟩ := s.applyShadow_ne hne
      have hrest := ih (s.applyShadow a) hr hf
      rwa [hsh, hget] at hrest

/-- Nothing but registers changes. -/
theorem State.applyShadows_shape (l : List Fld) : ∃ r, s.applyShadows l = { s with regs := r } := by
  induction l generalizing s with
  | nil => exact ⟨_, rfl⟩
  | cons f r ih =>
    obtain ⟨x, hx⟩ : ∃ x, s.applyShadow f = { s with regs := x } := by
      unfold State.applyShadow; split <;> exact ⟨_, rfl⟩
    obtain ⟨y, hy⟩ := ih (s.applyShadow f)
    exact ⟨y, hy.trans (by rw [hx])⟩

end

/-! ### What sending pause frames changes (12 R346) -/

/-- From `s` to `t` only output, the XOFF states and the counters of port `p` have changed. -/
def pauseOnly (p : Nat) (s t : State) : Prop :=
  (∃ r o, t = { s with regs.fields := r, out := o }) ∧
    ∀ g : Fld, g.key ≠ (F.portStatusXofftx p).key → (∀ i, g.key ≠ (portCtr p i).key) → t.getF g = s.getF g

section
variable {p : Nat} {s t : State}

theorem pauseOnly.refl : pauseOnly p s s := ⟨⟨_, _, rfl⟩, fun _ _ _ => rfl⟩

theorem pauseOnly.xofftx (h : pauseOnly p s t) (v : Nat) : pauseOnly p s (t.setF (F.portStatusXofftx p) v) := by
  obtain ⟨⟨r, o, rfl⟩, hget⟩ := h
  exact ⟨⟨_, _, rfl⟩, fun g hx hc => (State.getF_setF_ne _ v hx).trans (hget g hx hc)⟩

theorem pauseOnly.portCnt (h : pauseOnly p s t) (i n : Nat) : pauseOnly p s (t.portCnt p i n) := by
  obtain ⟨⟨r, o, rfl⟩, hget⟩ := h
  exact ⟨⟨_, _, rfl⟩, fun g hx hc => (State.getF_portCnt_ne _ n (hc i)).trans (hget g hx hc)⟩

theorem pauseOnly.portCnts (h : pauseOnly p s t) (l : List Nat) :
    pauseOnly p s (l.foldl (fun s q => s.portCnt p (16 + q) 1) t) := by
  induction l generalizing t with
  | nil => exact h
  | cons q r ih => exact ih (h.portCnt (16 + q) 1)

theorem pauseOnly.frameOut (h : pauseOnly p s t) (dst prio etype : Nat) (body : List Byte) :
    pauseOnly p s (t.frameOut p dst prio etype body) := by
  obtain ⟨⟨r, o, hshape⟩, hget⟩ := (h.portCnt 0 1).portCnt 1 (t.frameSize p body)
  exact ⟨⟨r, _, congrArg (State.emit · _) hshape⟩, hget⟩

theorem pauseOnly.sendPause (h : pauseOnly p s t) (enable : Nat) (quanta : Nat → Nat) :
    pauseOnly p s (t.sendPause p enable quanta) := by
  unfold State.sendPause
  split
  · exact h
  · dsimp only
    split
    · exact (h.portCnts _).frameOut _ _ _ _
    · exact (h.portCnt _ _).frameOut _ _ _ _

theorem pauseOnly.pauseMove (h : pauseOnly p s t) (offs ons : List Nat) : pauseOnly p s (t.pauseMove p offs ons) :=
  (h.xofftx _).sendPause _ _

/-- Pauses that follow a commit leave thresholds and REFUSED. -/
theorem pauseOnly.getF_low (h : pauseOnly p s t) {g : Fld} {n : Nat} (hkey : g.key = portBase p * 64 + n)
    (hx : n ≠ 528) (hn : n < 16384) : t.getF g = s.getF g := by
  refine h.2 g ?_ fun i => ?_
  · rw [hkey, key_portStatusXofftx]; omega
  · rw [hkey, key_portCtr]; omega

theorem pauseOnly.shadow (h : pauseOnly p s t) (g : Fld) : t.shadow g = s.shadow g := by
  obtain ⟨⟨r, o, rfl⟩, -⟩ := h; rfl

end

/-! ### Committing the thresholds of a port (12 R342) -/

/-- The staged fields of priority `q` of port `p`. -/
def prioFields (p q : Nat) : List Fld :=
  [F.portPrioShare p q, F.portPrioXoff p q, F.portPrioXon p q, F.portPrioPfcen p q]

/-- The staged fields of all eight priorities. -/
def thresholds (p : Nat) : List Fld := (upTo 8).flatMap (prioFields p)

theorem mem_thresholds (p : Nat) (q : Fin 8) {f : Fld} (hf : f ∈ prioFields p q.val) : f ∈ thresholds p :=
  List.mem_flatMap.mpr ⟨q.val, List.mem_range.mpr q.isLt, hf⟩

/-- The key of a threshold lies between those of the port's commit register and of its counters. -/
theorem key_of_mem_thresholds {p : Nat} {f : Fld} (hf : f ∈ thresholds p) :
    ∃ n, f.key = portBase p * 64 + n ∧ 12288 ≤ n ∧ n < 16384 := by
  obtain ⟨q, hq, hf⟩ := List.mem_flatMap.mp hf
  have hq : q < 8 := List.mem_range.mp hq
  refine ⟨f.key - portBase p * 64, ?_⟩
  simp only [prioFields, List.mem_cons, List.not_mem_nil, or_false] at hf
  rcases hf with rfl | rfl | rfl | rfl <;>
    simp only [Fld.key, portBase, F.portPrioShare, F.portPrioXoff, F.portPrioXon, F.portPrioPfcen] <;> omega

theorem thresholds_nodup : ∀ p : Fin 32, ((thresholds p.val).map Fld.key).Nodup := by decide +kernel

/-- PORT_COMMIT in the register map. -/
theorem regOr_portCommit : ∀ p : Fin 32, regOr (F.portCommitCommit p.val).off =
    ⟨(F.portCommitCommit p.val).off, 32,
      [⟨F.portCommitCommit p.val, .rw, .none, .any⟩, ⟨F.portCommitRefused p.val, .ro, .none, .any⟩]⟩ := by
  decide +kernel

/-- A write to a function that is up, with every field in its range, is not refused (00 R530, 20 R503). -/
theorem State.regRefused_none (s : State) {r : Reg} {v : Nat} (hup : s.blockUp r.off = true) (hr : r.badField v = none) :
    s.regRefused r v = none := by
  simp [State.regRefused, hup, hr]

theorem portCommit_notRefused (s : State) (p : Fin 32) (hup : s.blockUp (F.portCommitCommit p.val).off = true) :
    s.regRefused (regOr (F.portCommitCommit p.val).off) 1 = none := by
  rw [regOr_portCommit]
  exact s.regRefused_none hup (by simp [Reg.badField, Range.ok])

/-- The thresholds that a legal COMMIT puts in effect. -/
def State.committed (s : State) (p : Nat) : State :=
  (s.applyShadows (thresholds p)).setB (F.portCommitRefused p) false

/-- Priorities whose occupancy exceeds their share. -/
def State.crowded (s : State) (p : Nat) : List Nat :=
  (upTo 8).filter fun q => decide (s.getF (F.portPrioShare p q) * 1024 < s.occupied p q)

theorem State.committed_eq_foldl (s : State) (p : Nat) : s.committed p = ((upTo 8).foldl (fun s q =>
    (((s.applyShadow (F.portPrioShare p q)).applyShadow (F.portPrioXoff p q)).applyShadow
      (F.portPrioXon p q)).applyShadow (F.portPrioPfcen p q)) s).setB (F.portCommitRefused p) false := by
  simp only [State.committed, State.applyShadows, thresholds, List.foldl_flatMap, prioFields, List.foldl_cons,
    List.foldl_nil]

/-- PORT_COMMIT written 1: legal thresholds are put in effect and pauses follow them, illegal ones are refused. The
definition is unfolded as a function: to compare the two sides at their arguments the kernel would evaluate the register
map at a port that is a variable. -/
theorem State.portCommitWrite_one (s : State) (p : Nat) (hr : s.regRefused (regOr (F.portCommitCommit p).off) 1 = none) :
    s.portCommitWrite p 1 =
      if s.prioLegal p then (s.committed p).pauseMove p ((s.committed p).crowded p) (upTo 8)
      else (s.setB (F.portCommitRefused p) true).rejected (F.portCommitCommit p) := by
  have hdef : State.portCommitWrite = State.portCommitWrite := rfl
  conv at hdef => rhs; delta State.portCommitWrite
  have hset : bit 1 0 = true := by decide
  refine (congrFun (congrFun (congrFun hdef s) p) 1).trans ?_
  cases hlegal : s.prioLegal p
  case false => simp [hr, hset]
  case true => simp [hr, hset, State.committed_eq_foldl, State.crowded]

theorem State.rejected_getF (s : State) (f : Fld) {g : Fld} (h : g.key ≠ (F.dieSeqSeq (dieOf f.off)).key) :
    (s.rejected f).getF g = s.getF g := State.record_getF s _ _ _ _ _ _ _ _ h

section
variable (s : State) (p : Nat)

theorem State.committed_shape : ∃ r, s.committed p = { s with regs := r } := by
  obtain ⟨r, hr⟩ := s.applyShadows_shape (thresholds p)
  unfold State.committed
  rw [hr]
  exact ⟨_, rfl⟩

/-- A committed threshold has its shadow copy in effect; REFUSED is another field. -/
theorem State.committed_threshold {p : Fin 32} {f : Fld} (hf : f ∈ thresholds p.val) :
    (s.committed p.val).shadow f = none ∧ (s.committed p.val).getF f = ((s.shadow f).map (· % 2 ^ f.w)).getD (s.getF f) := by
  obtain ⟨n, hkey, hlo, -⟩ := key_of_mem_thresholds hf
  obtain ⟨hshadow, hget⟩ := s.applyShadows_mem (thresholds_nodup p) hf
  have hother : f.key ≠ (F.portCommitRefused p.val).key := by rw [hkey, key_portCommitRefused]; omega
  unfold State.committed
  rw [State.setB_shadow, State.getF_setB_ne _ _ hother]
  exact ⟨hshadow, hget⟩

end

section
variable {s : State} {p : Fin 32} {i : Instr}

/-- PORT_COMMIT written 1 and COMMIT of the port are the same event. -/
theorem exec_commit_port (hi : i ∈ [Instr.portCommit p 1, .commit (.port p)]) :
    exec i s = work s fun s => s.portCommitWrite p.val 1 := by
  simp only [List.mem_cons, List.not_mem_nil, or_false] at hi
  rcases hi with rfl | rfl <;> rfl

variable (hw : s.works = true) (hup : s.blockUp (F.portCommitCommit p.val).off = true)
  (hi : i ∈ [Instr.portCommit p 1, .commit (.port p)])
include hw hup hi

theorem commit_port_legal (hgood : s.prioLegal p.val = true) : runsTo i s fun t =>
    t = { s with regs := t.regs, out := t.out } ∧ t.flag (F.portCommitRefused p.val) = false ∧ ∀ f ∈ thresholds p.val,
      t.shadow f = none ∧ (s.shadow f = none → t.getF f = s.getF f) ∧
        ∀ v, s.shadow f = some v → t.getF f = v % 2 ^ f.w := by
  have hwrite := s.portCommitWrite_one p.val (portCommit_notRefused s p hup)
  rw [if_pos hgood] at hwrite
  have hpause : pauseOnly p.val (s.committed p.val) (s.portCommitWrite p.val 1) :=
    hwrite ▸ pauseOnly.refl.pauseMove _ _
  obtain ⟨r, hr⟩ := s.committed_shape p.val
  obtain ⟨⟨r', o, hshape⟩, -⟩ := id hpause
  rw [hr] at hshape
  refine runsTo_of_work (exec_commit_port hi) hw (by rw [hshape]; rfl) ⟨by rw [hshape], ?_, fun f hf => ?_⟩
  · rw [State.flag, hpause.getF_low (key_portCommitRefused _) (by decide) (by decide)]
    exact State.flag_setB _ (F.portCommitRefused p.val) false Nat.one_pos
  · obtain ⟨n, hkey, hlo, hhi⟩ := key_of_mem_thresholds hf
    obtain ⟨hshadow, hget⟩ := s.committed_threshold hf
    rw [hpause.shadow, hpause.getF_low hkey (by omega) hhi, hget]
    exact ⟨hshadow, fun h => by rw [h]; rfl, fun v h => by rw [h]; rfl⟩

theorem commit_port_illegal (hbad : s.prioLegal p.val = false) : runsTo i s fun t =>
    t = { s with regs := t.regs, err := t.err } ∧ t.flag (F.portCommitRefused p.val) = true ∧
      ∀ f ∈ thresholds p.val, t.getF f = s.getF f := by
  have hwrite := s.portCommitWrite_one p.val (portCommit_notRefused s p hup)
  rw [if_neg (by simp [hbad])] at hwrite
  refine runsTo_of_work (exec_commit_port hi) hw ?_ ?_ <;> rw [hwrite]
  · rfl
  · refine ⟨rfl, ?_, fun f hf => ?_⟩
    · rw [State.flag, State.rejected_getF _ _ (by rw [key_portCommitRefused]; exact portKey_ne_dieSeq _ _ (by decide))]
      exact State.flag_setB _ (F.portCommitRefused p.val) true Nat.one_pos
    · obtain ⟨n, hkey, hlo, hhi⟩ := key_of_mem_thresholds hf
      rw [State.rejected_getF _ _ (by rw [hkey]; exact portKey_ne_dieSeq _ _ (by omega))]
      exact State.getF_setB_ne _ _ (by rw [hkey, key_portCommitRefused]; omega)

end

/-- Settles O17: each event's effect is one state whose fields are read off key by key; a COMMIT is the applied shadow
copies followed by what sending a pause leaves of them, or a record. -/
theorem portLinksAndCommits : Obligations.PortLinksAndCommits := by
  unfold Obligations.PortLinksAndCommits
  intro p s hw
  refine ⟨fun m hen hmode hdown hin hagree => ?_, fun cut lf rf hup => ?_,
    fun hup i hi => ⟨fun hgood => ?_, fun hbad => ?_⟩, ?_⟩
  · obtain ⟨hlinkup, hlock, hlanes, hxoff⟩ := s.linkRaised_status p.val
    obtain ⟨hpause, hannounce⟩ := s.linkRaised_portSt p.val
    exact ⟨_, exec_linkUp_raised s hw hen hmode hdown hin hagree, (s.linkRaised_portOnly p.val).eq,
      State.flag_eq_of_getF hlinkup, State.flag_eq_of_getF hlock, hlanes, hxoff, hpause, hannounce⟩
  · obtain ⟨hlinkup, hlanes, hlf, hrf, hxoff⟩ := s.linkDropped_status p.val cut lf rf
    obtain ⟨hlost, hcut⟩ := s.linkDropped_counted p.val cut lf rf
    exact ⟨_, exec_linkDown_dropped s cut lf rf hw hup, (s.linkDropped_portOnly p.val cut lf rf).eq,
      State.flag_eq_of_getF hlinkup, hlanes, State.flag_eq_of_getF hlf, State.flag_eq_of_getF hrf, hxoff,
      s.linkDropped_pause p.val cut lf rf, hlost, hcut⟩
  · obtain ⟨t, ht, hframe, hrefused, hfields⟩ := commit_port_legal hw hup hi hgood
    exact ⟨t, ht, hframe, hrefused, fun q f hf => hfields f (mem_thresholds p.val q hf)⟩
  · obtain ⟨t, ht, hframe, hrefused, hfields⟩ := commit_port_illegal hw hup hi hbad
    exact ⟨t, ht, hframe, hrefused, fun q f hf => hfields f (mem_thresholds p.val q hf)⟩
  · exact runsTo_of_work (f := fun s => s.setB (F.portCommitCommit p.val) false) rfl hw rfl
      ⟨rfl, State.flag_setB _ (F.portCommitCommit p.val) false Nat.one_pos⟩

end Sys2Proof.Machine

/-! PROOFS about the number formats (02): the element codes, and the vector loads and stores that convert them. -/
namespace Sys2Proof.Machine
/-! ### The element formats of tensors (02 R29, R30) -/

/-- A KQ4 code other than poison is its units over 4, signed by bit 3. -/
theorem srcPlain_kq4 {c : Nat} (hc : c < 16) (h : c ≠ 8) :
    srcPlain .kq4 c = .fin (decide (8 ≤ c)) (fmtKQ4.units (c % 8)) 4 := by
  have hmod : c % 16 = c := Nat.mod_eq_of_lt hc
  have hplain : ¬ (8 ≤ c ∧ c % 8 = 0) := by omega
  simp [srcPlain, Fmt.bits, Fmt.bin, fmtKQ4, BinFmt.one, hmod, hplain]

/-- A KQ8 code other than poison is its units over 1024, signed by bit 7. -/
theorem srcPlain_kq8 {c : Nat} (hc : c < 256) (h : c ≠ 0x80) :
    srcPlain .kq8 c = .fin (decide (128 ≤ c)) (fmtKQ8.units (c % 128)) 1024 := by
  have hmod : c % 256 = c := Nat.mod_eq_of_lt hc
  have hplain : ¬ (128 ≤ c ∧ c % 128 = 0) := by omega
  simp [srcPlain, Fmt.bits, Fmt.bin, fmtKQ8, BinFmt.one, hmod, hplain]

/-- The magnitudes of KQ4 in quarters. -/
theorem units_kq4 : ∀ k, k < 8 → fmtKQ4.units k = ([0, 1, 2, 3, 4, 6, 8, 12] : List Nat).getD k 0 := by decide

/-- A KQ8 magnitude by exponent and mantissa, in units of 2^-10. -/
theorem units_kq8 (k : Nat) : fmtKQ8.units k = if k / 8 = 0 then k % 8 else (8 + k % 8) * 2 ^ (k / 8 - 1) := by
  have hsub : k < 8 ↔ k / 8 = 0 := by omega
  have hman : k / 8 = 0 → k = k % 8 := by omega
  simp only [BinFmt.units, fmtKQ8, Nat.reducePow, hsub]
  split
  · exact hman ‹_›
  · rfl

/-- Settles O44: a code is poison or its units over 4, and the units are the table's. -/
theorem kq4CodesHaveTheirValues : Obligations.Kq4CodesHaveTheirValues :=
  ⟨rfl, rfl, fun c hc h => ⟨_, 4, by decide, srcPlain_kq4 hc h, by rw [units_kq4 _ (Nat.mod_lt _ (by decide))]⟩⟩

/-- Settles O45: a code is poison or its units over 1024, and the units follow its exponent and mantissa. -/
theorem kq8CodesHaveTheirValues : Obligations.Kq8CodesHaveTheirValues := by
  refine ⟨rfl, rfl, fun c e m hc h he hm => ⟨_, 1024, by decide, srcPlain_kq8 hc h, ?_⟩⟩
  have hexp : c % 128 / 8 = e := by omega
  have hman : c % 128 % 8 = m := by omega
  rw [units_kq8, hexp, hman]

end Sys2Proof.Machine

namespace Sys2Proof.Machine

/-! ### What an access to a descriptor leaves alone -/

/-- What a vector word works on stays: the engines, the tallies, the operand caches, and every register field in the
last word of a row of 32 bytes, among which are the control words of the Tally slots (07 R197). -/
structure VecKept (s t : State) : Prop where
  eng : t.eng = s.eng
  train : t.train = s.train
  oc : t.mem.oc = s.mem.oc
  field : ∀ f : Fld, 1792 ≤ f.key % 2048 → t.getF f = s.getF f

section
variable {s t : State}

theorem VecKept.refl (s : State) : VecKept s s := ⟨rfl, rfl, rfl, fun _ _ => rfl⟩

theorem VecKept.of_regs (h : VecKept s t) {u : State} (eng : u.eng = t.eng) (train : u.train = t.train)
    (oc : u.mem.oc = t.mem.oc) (regs : u.regs = t.regs) : VecKept s u :=
  ⟨eng.trans h.eng, train.trans h.train, oc.trans h.oc, fun f hf => by
    rw [← h.field f hf]; simp only [State.getF, regs]⟩

theorem VecKept.setF (h : VecKept s t) {f : Fld} (v : Nat) (hf : f.key % 2048 < 1792) : VecKept s (t.setF f v) :=
  ⟨h.eng, h.train, h.oc, fun g hg => by
    rw [State.getF_setF_ne _ _ (fun e => by omega), h.field g hg]⟩

theorem VecKept.incF (h : VecKept s t) {f : Fld} (n : Nat) (hf : f.key % 2048 < 1792) : VecKept s (t.incF f n) :=
  h.setF _ hf

theorem VecKept.foldl {α : Type} {f : State → α → State} (hf : ∀ t a, VecKept s t → VecKept s (f t a)) (l : List α)
    (h : VecKept s t) : VecKept s (l.foldl f t) := by
  induction l generalizing t with
  | nil => exact h
  | cons a r ih => exact ih (hf t a h)

theorem VecKept.chargeHbm (h : VecKept s t) (who : Option Nat) (n : Nat) : VecKept s (t.chargeHbm who n) := by
  cases who with
  | none => exact h
  | some x => exact h.incF n (by simp only [Fld.key, F.accHbm]; omega)

theorem VecKept.chargePuell (h : VecKept s t) (who : Option Nat) (n : Nat) : VecKept s (t.chargePuell who n) := by
  cases who with
  | none => exact h
  | some x => exact h.incF n (by simp only [Fld.key, F.accPuell]; omega)

theorem VecKept.hbmCorrect (h : VecKept s t) (k : Nat) : VecKept s (t.hbmCorrect k) := by
  unfold State.hbmCorrect
  split
  · exact (h.incF (f := F.hbmCe (hbmStack k)) 1 (by simp only [Fld.key, F.hbmCe, dieOff]; omega)).of_regs rfl rfl rfl rfl
  · exact h

theorem VecKept.xingDrop (h : VecKept s t) (d n : Nat) : VecKept s (t.xingDrop d n) := by
  unfold State.xingDrop
  split
  · exact h.incF 1 (by simp only [Fld.key, F.xdrop, dieOff]; omega)
  · exact h

theorem VecKept.sramRead (h : VecKept s t) (k n : Nat) : VecKept s (t.sramRead k n).2 := by
  unfold State.sramRead
  split <;> exact h.of_regs rfl rfl rfl rfl

theorem VecKept.badCoarse (h : VecKept s t) (die unit x d detail : Nat) :
    VecKept s (t.badCoarse die unit x d detail) :=
  (h.incF (f := F.dieSeqSeq die) 1 (by simp only [Fld.key, F.dieSeqSeq, dieOff]; omega)).of_regs rfl rfl rfl rfl

/-! A request on a Puell link (13 R354–R361) -/

theorem VecKept.setPl (h : VecKept s t) (l : Nat) (k : PlLink) : VecKept s (t.setPl l k) := h.of_regs rfl rfl rfl rfl

theorem VecKept.flitPut (h : VecKept s t) (l ty q : Nat) (bs : List Byte) : VecKept s (t.flitPut l ty q bs) :=
  h.of_regs rfl rfl rfl rfl

theorem VecKept.keyNext (h : VecKept s t) (l : Nat) : VecKept s (t.keyNext l) :=
  ((h.setF (f := F.plStatusKeysel l) _ (by simp only [Fld.key, F.plStatusKeysel]; omega)).flitPut _ _ _ _).setPl _ _

theorem VecKept.dataOut (h : VecKept s t) (l : Nat) (f : Nat × PlMsg) : VecKept s (t.dataOut l f) := by
  unfold State.dataOut State.flitOut
  dsimp only
  split
  · exact (h.flitPut _ _ _ _).keyNext l
  · exact h.flitPut _ _ _ _

theorem VecKept.plPump (h : VecKept s t) (l : Nat) : VecKept s (t.plPump l) := by
  unfold State.plPump
  dsimp only
  split
  · exact h
  · exact VecKept.foldl (fun _ f h => h.dataOut l f) _
      ((h.setPl _ _).incF _ (by simp only [Fld.key, F.plCtr0]; omega))

theorem VecKept.plIssue (h : VecKept s t) (l : Nat) (q : PlAsk) : VecKept s (t.plIssue l q) :=
  (((h.setPl _ _).chargePuell _ _).setPl _ _).plPump l

theorem VecKept.plRequest (h : VecKept s t) (l o a : Nat) (w : PlOwner) (mg : List (Nat × Byte)) (bs : List Byte) :
    VecKept s (t.plRequest l o a w mg bs) := by
  unfold State.plRequest
  dsimp only
  split
  · exact h.plIssue _ _
  · exact h.setPl _ _

end

/-! Accesses -/

section
variable {α β : Type} {P : State → Prop} {s : State}

/-- What follows a look at the state may use that the state looked at has the property. -/
theorem Keeps.getS_bind {f : State → M α} (h : ∀ s, P s → P ((f s).go s).2) : Keeps P (Machine.getS >>= f) :=
  ⟨fun s hs => h s hs⟩

theorem M.go_sramCheck (base k n : Nat) (s : State) : (sramCheck base k n).go s = ((match (s.sramRead k n).1 with
    | some a => .error (.fault clsContext kUncorrectable 0 (a - base) (some uSram))
    | none => .ok ()), (s.sramRead k n).2) := by
  rw [sramCheck, M.go_bind, M.go_getS]
  cases h : (s.sramRead k n).1 with
  | none => simp only [h]; rfl
  | some a => simp only [h]; rfl

theorem sramCheck_keeps_vec (base k n : Nat) : Keeps (VecKept s) (sramCheck base k n) :=
  ⟨fun t h => by rw [M.go_sramCheck]; exact h.sramRead k n⟩

theorem ocReads_keeps_vec (g : Nat) (l : List (Nat × Nat)) : Keeps (VecKept s) (ocReads g l) :=
  Keeps.forM fun _ => sramCheck_keeps_vec _ _ _

theorem domainCheck_keeps_vec (who : Option Nat) (d n : Nat) : Keeps (VecKept s) (domainCheck who d n) :=
  Keeps.getS.bind fun _ => Keeps.ite ((Keeps.setS fun _ h => h.xingDrop _ _).bind fun _ => Keeps.throw _) (Keeps.pure _)

theorem hbmUe_keeps_vec (who : Option Nat) (k : Nat) : Keeps (VecKept s) (hbmUe who k : M α) := by
  refine (Keeps.setS fun t h => ?_).bind fun _ => Keeps.throw _
  exact (h.incF _ (by simp only [Fld.key, F.hbmUe, dieOff]; omega)).setF _
    (by simp only [Fld.key, F.hbmUeaddrAddr, dieOff]; omega)

/-- A check that stops or goes on. -/
theorem Keeps.guard {c : Prop} [Decidable c] {m : M Unit} {f : Unit → M α} (hm : Keeps P m) (hf : ∀ r, Keeps P (f r)) :
    Keeps P (if c then m >>= f else f ()) := Keeps.ite (hm.bind hf) (hf ())

theorem tFault_keeps (cva : Nat) : Keeps P (tFault cva : M α) := Keeps.ctxStop _ _

theorem hbmReach_keeps_vec (who : Option Nat) (k : Nat) : Keeps (VecKept s) (hbmReach who k) := by
  refine Keeps.getS.bind fun _ => Keeps.guard (Keeps.throw _) fun _ => Keeps.getS.bind fun _ => ?_
  exact Keeps.guard (Keeps.stop _) fun _ => domainCheck_keeps_vec _ _ _

theorem hbmRead_keeps_vec (who : Option Nat) (n o len : Nat) : Keeps (VecKept s) (hbmRead who n o len) := by
  refine (Keeps.mapM fun p => Keeps.getS.bind fun _ => (hbmReach_keeps_vec _ _).bind fun _ => Keeps.getS.bind fun _ =>
    Keeps.guard (hbmUe_keeps_vec _ _) fun _ => (Keeps.setS fun t h => ?_).bind fun _ =>
      Keeps.getS.bind fun _ => Keeps.pure _).bind fun _ => Keeps.pure _
  exact ((h.hbmCorrect _).incF _ (by simp only [Fld.key, F.hbmRdbytes, dieOff]; omega)).chargeHbm _ _

theorem compLink_keeps_vec (d : Nat) (who : Option Nat) (a : Nat) : Keeps (VecKept s) (compLink d who a) := by
  refine Keeps.getS.bind fun t => ?_
  split
  · exact Keeps.throw _
  · exact Keeps.guard (Keeps.stop _) fun _ => (domainCheck_keeps_vec _ _ _).bind fun _ => Keeps.pure _

theorem compRead_keeps_vec (d : Nat) (who : Option Nat) (a n : Nat) : Keeps (VecKept s) (compRead d who a n) :=
  (Keeps.forM fun _ => (compLink_keeps_vec _ _ _).bind fun _ => Keeps.setS fun _ h => h.plRequest _ _ _ _ _ _).bind
    fun _ => Keeps.getS.bind fun _ => Keeps.pure _

theorem ptEntry_keeps_vec (cva t i : Nat) : Keeps (VecKept s) (ptEntry cva t i) :=
  Keeps.getS.bind fun _ => Keeps.guard (tFault_keeps _) fun _ => (hbmRead_keeps_vec _ _ _ _).bind fun _ => Keeps.pure _

theorem walk_keeps_vec (root cva : Nat) : Keeps (VecKept s) (walk root cva) := by
  refine (ptEntry_keeps_vec _ _ _).bind fun _ => Keeps.guard (tFault_keeps _) fun _ =>
    (ptEntry_keeps_vec _ _ _).bind fun _ => Keeps.guard (tFault_keeps _) fun _ => Keeps.ite (Keeps.pure _) ?_
  exact Keeps.guard (tFault_keeps _) fun _ => (ptEntry_keeps_vec _ _ _).bind fun _ =>
    Keeps.guard (tFault_keeps _) fun _ => Keeps.pure _

theorem fresh_keeps_vec : Keeps (VecKept s) fresh := ⟨fun _ h => h.of_regs rfl rfl rfl rfl⟩

theorem leafOf_keeps_vec (unit x cva root : Nat) : Keeps (VecKept s) (leafOf unit x cva root) := by
  refine Keeps.getS_bind fun t ht => ?_
  have hwalk := (walk_keeps_vec (s := s) root cva).run t ht
  dsimp only
  split
  · split
    · refine Keeps.run ?_ t ht
      exact Keeps.ite (Keeps.pure _) (fresh_keeps_vec.bind fun _ => Keeps.ite (Keeps.pure _) (Keeps.pure _))
    · rename_i he
      rw [he] at hwalk
      refine Keeps.run (fresh_keeps_vec.bind fun _ => Keeps.ite ?_ (Keeps.pure _)) t ht
      exact Keeps.bind ⟨fun _ _ => hwalk⟩ fun _ => Keeps.throw _
  · refine Keeps.run ((walk_keeps_vec _ _).bind fun _ => (Keeps.setS fun _ h => ?_).bind fun _ => Keeps.pure _) t ht
    exact h.of_regs rfl rfl rfl rfl

theorem translate_keeps_vec (unit x cva : Nat) (write : Bool) : Keeps (VecKept s) (translate unit x cva write) := by
  refine Keeps.getS.bind fun t => ?_
  dsimp only
  split
  · exact tFault_keeps _
  · refine Keeps.guard (tFault_keeps _) fun _ => (leafOf_keeps_vec _ _ _ _).bind fun l =>
      Keeps.guard (tFault_keeps _) fun _ => Keeps.guard (tFault_keeps _) fun _ => Keeps.guard (tFault_keeps _) fun _ =>
      Keeps.guard (tFault_keeps _) fun _ => ?_
    split
    case' isTrue => refine Keeps.guard (tFault_keeps _) fun _ => Keeps.guard (Keeps.stop _) fun _ => ?_
    case' isFalse => refine Keeps.guard (tFault_keeps _) fun _ => ?_
    all_goals
      refine Keeps.ite (Keeps.guard (Keeps.ctxStop _ _) fun _ => ?_) (Keeps.pure _)
      split
      · exact (Keeps.stop _).bind fun _ => Keeps.pure _
      · exact (Keeps.ctxStop _ _).bind fun _ => Keeps.pure _

theorem cvaRead_keeps_vec (unit x a n : Nat) : Keeps (VecKept s) (cvaRead unit x a n) := by
  refine (Keeps.mapM fun p => (translate_keeps_vec _ _ _ _).bind fun tgt => ?_).bind fun _ => Keeps.pure _
  cases tgt with
  | hbm set off => exact hbmRead_keeps_vec _ _ _ _
  | comp addr => exact compRead_keeps_vec _ _ _ _

theorem imgAgain_keeps_vec (unit x image : Nat) (t : ImgTable) (i : Nat) (ok : List Byte → Bool) :
    Keeps (VecKept s) (imgAgain unit x image t i ok) :=
  (cvaRead_keeps_vec _ _ _ _).bind fun _ => (Keeps.check _ _ _).bind fun _ => Keeps.pure _

theorem bufferOf_keeps_vec (unit : Nat) (t : Inst) (d : Nat) : Keeps (VecKept s) (bufferOf unit t d) := by
  refine Keeps.getS.bind fun u => ?_
  dsimp only
  split
  · exact Keeps.ctxStop _ _
  · exact (imgAgain_keeps_vec _ _ _ _ _ _).bind fun _ => (imgAgain_keeps_vec _ _ _ _ _ _).bind fun _ => Keeps.pure _

theorem coarseOf_keeps_vec (unit : Nat) (t : Inst) (d : Nat) : Keeps (VecKept s) (coarseOf unit t d) :=
  (bufferOf_keeps_vec _ _ _).bind fun _ => Keeps.ite (Keeps.pure _) <| (cvaRead_keeps_vec _ _ _ _).bind fun _ => Keeps.pure _

/-- Reading the coarse scales a stream uses keeps what a vector word works on. -/
theorem coarseUse_keeps_vec (core unit : Nat) (t : Inst) (uses : List (Bool × Nat)) :
    Keeps (VecKept s) (coarseUse core unit t uses) := by
  refine (Keeps.mapM fun u => ?_).bind fun cs => ?_
  · exact Keeps.ite (Keeps.pure _) ((coarseOf_keeps_vec _ _ _).bind fun _ => Keeps.pure _)
  · dsimp only
    split
    · exact (Keeps.setS fun _ h => h.badCoarse _ _ _ _ _).bind fun _ => Keeps.pure _
    · exact Keeps.pure _

end

/-! ### Bytes -/

@[simp] theorem leBytes_length (k v : Nat) : (leBytes k v).length = k := by
  induction k generalizing v with
  | zero => rfl
  | succ k ih => simp [leBytes, ih]

/-- The number that the little-endian bytes of a number spell. -/
theorem leNat_leBytes (k v : Nat) : leNat (leBytes k v) = v % 2 ^ (8 * k) := by
  induction k generalizing v with
  | zero => simp [leBytes, leNat, Nat.mod_one]
  | succ k ih =>
    have hbyte : (BitVec.ofNat 8 v).toNat = v % 256 := BitVec.toNat_ofNat v 8
    have hpow : 2 ^ (8 * (k + 1)) = 256 * 2 ^ (8 * k) := by rw [Nat.mul_add, pow_add, mul_comm]; rfl
    rw [leBytes, leNat, ih, hbyte, hpow, Nat.mod_mul]

theorem leNat_leBytes_of_lt {k v : Nat} (h : v < 2 ^ (8 * k)) : leNat (leBytes k v) = v := by
  rw [leNat_leBytes, Nat.mod_eq_of_lt h]

@[simp] theorem w32Bytes_length (x : W32) : (w32Bytes x).length = 4 := leBytes_length 4 _

/-- The first four bytes of a list as a W32 code. -/
theorem w32At_zero {bs : List Byte} (h : bs.length = 4) : w32At bs 0 = BitVec.ofNat 32 (leNat bs) := by
  rw [w32At, fieldAt, List.drop_zero, List.take_of_length_le h.le]

@[simp] theorem w32At_w32Bytes (x : W32) : w32At (w32Bytes x) 0 = x := by
  rw [w32At_zero (w32Bytes_length x), w32Bytes, leNat_leBytes_of_lt x.isLt, BitVec.ofNat_toNat, BitVec.setWidth_eq]

/-- A part of what was read is what a read of the part gives. -/
theorem readBytes_part (d : Byte) (m : Bytes) (a n i k : Nat) (h : i + k ≤ n) :
    ((readBytes d m a n).drop i).take k = readBytes d m (a + i) k := by
  induction n generalizing a i k with
  | zero =>
    obtain ⟨rfl, rfl⟩ : i = 0 ∧ k = 0 := by omega
    rfl
  | succ n ih =>
    cases i with
    | succ i => rw [readBytes, List.drop_succ_cons, ih _ _ _ (by omega), Nat.add_assoc, Nat.add_comm 1 i]
    | zero =>
      cases k with
      | zero => rfl
      | succ k =>
        have := ih (a + 1) 0 k (by omega)
        rw [readBytes, List.drop_zero, List.take_succ_cons, readBytes]
        simpa using this

/-! ### Elements stored in an operand cache -/

section
variable (s : State) (g : Nat)

theorem ocKey_add (g a i : Nat) : ocKey g a + i = ocKey g (a + i) := Nat.add_assoc ..

@[simp] theorem State.ocRead_length (a n : Nat) : (s.ocRead g a n).length = n := readBytes_length ..

theorem State.ocRead_ocWrite {a n : Nat} {bs : List Byte} (h : bs.length = n) : (s.ocWrite g a bs).ocRead g a n = bs :=
  h ▸ readBytes_writeBytes 0 s.mem.oc (ocKey g a) bs

theorem State.ocRead_ocWrite_out {a b n : Nat} {bs : List Byte} (h : b + n ≤ a ∨ a + bs.length ≤ b) :
    (s.ocWrite g a bs).ocRead g b n = s.ocRead g b n :=
  readBytes_writeBytes_out 0 s.mem.oc (ocKey g a) bs (ocKey g b) n (by simp only [ocKey]; omega)

/-- Elements `ls` of `z` bytes each stored from address `p` on. -/
def State.storeElems (p z : Nat) (data : Nat → List Byte) (ls : List Nat) : State :=
  ls.foldl (fun s l => s.ocWrite g (p + z * l) (data l)) s

variable {p z : Nat} {data : Nat → List Byte} {ls : List Nat}

/-- Storing elements changes the operand caches and the check bits of words alone. -/
theorem State.storeElems_shape : ∃ oc bad soft, s.storeElems g p z data ls =
    { s with mem := { s.mem with oc := oc, sramBad := bad, sramSoft := soft } } := by
  induction ls generalizing s with
  | nil => exact ⟨_, _, _, rfl⟩
  | cons l r ih =>
    obtain ⟨oc, bad, soft, h⟩ := ih (s.ocWrite g (p + z * l) (data l))
    exact ⟨oc, bad, soft, h⟩

/-- A byte outside the elements stored keeps its value. -/
theorem State.storeElems_out (hlen : ∀ l ∈ ls, (data l).length = z) {k : Nat}
    (h : ∀ l ∈ ls, k < ocKey g (p + z * l) ∨ ocKey g (p + z * l) + z ≤ k) :
    tget 0 (s.storeElems g p z data ls).mem.oc k = tget 0 s.mem.oc k := by
  induction ls generalizing s with
  | nil => rfl
  | cons l r ih =>
    rw [List.forall_mem_cons] at hlen h
    refine (ih (s.ocWrite g (p + z * l) (data l)) hlen.2 h.2).trans ?_
    exact tget_writeBytes_out _ _ _ _ (by rw [hlen.1]; exact h.1)

/-- An element reads as what was stored, or as before. -/
theorem State.storeElems_read (hlen : ∀ l ∈ ls, (data l).length = z) (l : Nat) :
    (s.storeElems g p z data ls).ocRead g (p + z * l) z = if l ∈ ls then data l else s.ocRead g (p + z * l) z := by
  induction ls generalizing s with
  | nil => rfl
  | cons i r ih =>
    rw [List.forall_mem_cons] at hlen
    refine (ih (s.ocWrite g (p + z * i) (data i)) hlen.2).trans ?_
    by_cases hr : l ∈ r
    · rw [if_pos hr, if_pos (List.mem_cons_of_mem _ hr)]
    · rw [if_neg hr]
      by_cases hi : l = i
      · rw [hi, if_pos List.mem_cons_self, State.ocRead_ocWrite s g hlen.1]
      · have hne : z * l + z ≤ z * i ∨ z * i + z ≤ z * l := by
          rcases Nat.lt_or_gt_of_ne hi with h | h
          · exact .inl (by rw [← Nat.mul_succ]; exact Nat.mul_le_mul_left z h)
          · exact .inr (by rw [← Nat.mul_succ]; exact Nat.mul_le_mul_left z h)
        rw [if_neg (by simp [hi, hr]), State.ocRead_ocWrite_out s g (by rw [hlen.1]; omega)]

/-- Storing elements below number `n` changes their bytes alone. -/
theorem ocChanged_storeElems (hlen : ∀ l ∈ ls, (data l).length = z) {n : Nat} (hn : ∀ l ∈ ls, l < n) :
    ocChanged s (s.storeElems g p z data ls) g p (n * z) := by
  refine ⟨?_, fun b hb => s.storeElems_out g hlen fun l hl => ?_⟩
  · obtain ⟨oc, bad, soft, h⟩ := s.storeElems_shape g (p := p) (z := z) (data := data) (ls := ls)
    rw [h]
  · have hle : (l + 1) * z ≤ n * z := Nat.mul_le_mul_right z (hn l hl)
    rw [Nat.succ_mul, Nat.mul_comm l z] at hle
    simp only [ocKey] at hb ⊢
    omega

end

/-! ### Operands of a vector word (04 R81, R85, R88, R92) -/

/-- A number's bit as a bit of the vector it is the value of. -/
theorem bit_toNat {n : Nat} (x : BitVec n) (i : Nat) : bit x.toNat i = x.getLsbD i := by
  rw [bit, BitVec.getLsbD, Nat.testBit_eq_decide_div_mod_eq, beq_eq_decide]

theorem bit_allLanes {l : Nat} (h : l < 128) : bit (2 ^ 128 - 1) l = true := by
  have hone : bit (BitVec.allOnes 128).toNat l = true := by rw [bit_toNat, BitVec.getLsbD_allOnes, decide_eq_true h]
  exact hone

theorem bit_kmask (s : State) (g n : Nat) {l : Nat} (h : l < 128) : bit (s.kmask g n) l = lit s g n l := by
  unfold State.kmask lit
  split
  · rw [bit_allLanes h, decide_eq_true ‹_›, Bool.true_or]
  · rw [bit_toNat, decide_eq_false ‹_›, Bool.false_or]

theorem mem_lanes {l : Nat} : l ∈ lanes ↔ l < 128 := List.mem_range

section
variable (s : State) (g : Nat) (x : Inst) (q : VWord)

/-- Under a mask the lanes that are on are those the mask lights. -/
theorem State.vecCx_on (h : vCls q.w.toNat ≠ 8) {l : Nat} (hl : l < 128) :
    (s.vecCx g x q).on l = lit s g (bits q.w.toNat 8 3) l := by
  simp only [VCx.on, State.vecCx, if_neg h, bit_kmask s g _ hl]

theorem State.vecCx_active (h : vCls q.w.toNat ≠ 8) : (s.vecCx g x q).active = activeLanes s g q.w.toNat :=
  List.filter_congr fun _ hl => s.vecCx_on g x q h (mem_lanes.1 hl)

/-- A context whose grant is in force runs its words in the operand mode of the grant. -/
theorem State.vecCx_window {r : Grant} (h : s.grant x.ctx = some r) : (s.vecCx g x q).window = r.vmode := by
  simp only [State.vecCx, h]

end

theorem laneAt_map (f : Nat → W32) {l : Nat} (hl : l < 128) : laneAt (lanes.map f) l = f l := by
  simp [laneAt, lanes, upTo, List.getD_eq_getElem?_getD, hl]

/-- The lanes of a vector operand. -/
theorem laneAt_vecLanes (s : State) (c : VCx) (n : Nat) (hbase : c.wbase = (s.vec c.g).wbase) {l : Nat} (hl : l < 128) :
    laneAt (s.vecLanes c n) l = vlane s c.g c.window n l := by
  have hpart : w32At (s.ocRead c.g (c.wbase + 512 * n) 512) (4 * l) =
      w32At (s.ocRead c.g (c.wbase + 512 * n + 4 * l) 4) 0 := by
    rw [w32At_zero (State.ocRead_length ..), w32At, fieldAt, State.ocRead, readBytes_part _ _ _ _ _ _ (by omega),
      ocKey_add, State.ocRead]
  unfold State.vecLanes vlane
  split
  · rw [laneAt_map _ hl, hpart, hbase]
  · rw [laneAt_map _ hl]

/-! ### Running a vector word -/

section
variable {α β : Type} {s t : State}

/-- An access that answers hands its answer and its state on. -/
theorem M.go_bind_ok {m : M α} {a : α} (h : m.go s = (.ok a, t)) (f : α → M β) : (m >>= f).go s = (f a).go t := by
  rw [M.go_bind, h]

/-- What a two-part access answers comes of two answers. -/
theorem M.go_bind_ok_iff {m : M α} {f : α → M β} {b : β} {u : State} :
    (m >>= f).go s = (.ok b, u) ↔ ∃ a t, m.go s = (.ok a, t) ∧ (f a).go t = (.ok b, u) := by
  rw [M.go_bind]
  rcases m.go s with ⟨e | a, t⟩ <;> simp

end

/-- State `t` with the beats of a word of core `g` counted, as a command on `s` leaves it (04 R82, 16 R432). -/
def wordDone (s t : State) (g : Nat) (x : Inst) (n : Nat) : State :=
  left s ((t.incF (F.veBusy g) n).chargeBeats x.ctx n)

/-- Nothing but vector engines, memory and tallies differs. -/
def wrote (u t : State) : Prop := ∃ e m r, t = { u with eng := { u.eng with vec := e }, mem := m, train := r }

section
variable {s u v t : State} {g : Nat} {x : Inst}

theorem wrote.refl (u : State) : wrote u u := ⟨_, _, _, rfl⟩

theorem wrote.trans (h : wrote u v) (h' : wrote v t) : wrote u t := by
  obtain ⟨e, m, r, rfl⟩ := h
  obtain ⟨e', m', r', rfl⟩ := h'
  exact ⟨e', m', r', rfl⟩

theorem wordDone_mem (s t : State) (n : Nat) : (wordDone s t g x n).mem = t.mem := rfl

theorem wordDone_shape (s t : State) (n : Nat) : ∃ r, wordDone s t g x n = { left s t with regs := r } := ⟨_, rfl⟩

theorem wordDone_getF {f : Fld} (s : State) (n : Nat) (hbusy : f.key ≠ (F.veBusy g).key)
    (hbeats : f.key ≠ (F.accBeats x.ctx).key) : (wordDone s t g x n).getF f = t.getF f := by
  have hleft : (wordDone s t g x n).getF f = ((t.incF (F.veBusy g) n).chargeBeats x.ctx n).getF f := rfl
  rw [hleft, State.chargeBeats, State.getF_incF_ne _ n hbeats, State.getF_incF_ne _ n hbusy]

/-- A word that only writes what it may changes no more than its beats do. -/
theorem wrote.vecOnly (h : wrote v t) (s : State) (n : Nat) : vecOnly (left s v) (wordDone s t g x n) g x false := by
  have hfields : ∀ f : Fld, t.getF f = (left s v).getF f := fun f => by obtain ⟨e, m, r, rfl⟩ := h; rfl
  refine ⟨?_, fun _ => ?_, fun f hbusy hbeats _ => (wordDone_getF s n hbusy hbeats).trans (hfields f)⟩
  all_goals
    obtain ⟨r, hr⟩ := wordDone_shape (g := g) (x := x) s t n
    obtain ⟨e, m, r', rfl⟩ := h
    rw [hr]
    rfl

theorem wrote.vecOnly_taken (hu : left s u = u) (h : wrote u t) (n : Nat) :
    Machine.vecOnly u (wordDone s t g x n) g x false := by
  have honly := h.vecOnly (g := g) (x := x) s n
  rwa [hu] at honly

/-- The state with a word taken keeps the queue of commands and the power state. -/
theorem vecFront.left_eq {win : Bool} {q : VWord} {cls op : Nat} (h : vecFront s g x win q cls op u) : left s u = u := by
  obtain ⟨-, -, -, -, ⟨rest, -, rfl⟩, -⟩ := h
  rfl

/-- A word at the front of the queue runs from the state with it taken. -/
theorem runsTo_of_vecFront {i : Instr} {win : Bool} {q : VWord} {cls op : Nat} {f : VCx → M (Nat × List Nat)}
    {r : Nat × List Nat} {P : State → Prop} (h : vecFront s g x win q cls op u)
    (hi : exec i s = work s fun s => s.vecWord g cls op f) (hop : op < vOps cls)
    (hgo : (f (s.vecCx g x q)).go u = (.ok r, t)) (hP : ∀ n, P (wordDone s t g x n)) : runsTo i s P := by
  obtain ⟨hworks, hrun, -, -, ⟨rest, hq, rfl⟩, hnone, hcls, hop', -⟩ := h
  refine ⟨_, by rw [hi, work_left s _ hworks], ?_⟩
  have hword : s.vecWord g cls op f = s.vecDo (s.setVec g { s.vec g with queue := rest }) (s.vecCx g x q) f := by
    simp only [State.vecWord, hrun, hq, hnone, hcls, hop', Option.isSome_none, bne_self_eq_false, Bool.or_self,
      Bool.false_eq_true, if_false, if_neg (Nat.not_le.2 hop)]
  rw [hword, State.vecDo, hgo]
  exact hP _

theorem vecFront.window {win : Bool} {q : VWord} {cls op : Nat} (h : vecFront s g x win q cls op u) :
    (s.vecCx g x q).window = win := by
  obtain ⟨-, -, -, ⟨r, hr, rfl⟩, -⟩ := h
  exact s.vecCx_window g x q hr

end

/-! ### Checks that a word passes -/

section
variable (c : VCx) (s : State)

theorem VCx.go_encIf {b : Bool} (h : b = false) : (c.encIf b).go s = (.ok (), s) := by rw [h]; rfl

theorem VCx.go_seqIf {b : Bool} (h : b = false) : (c.seqIf b).go s = (.ok (), s) := by rw [h]; rfl

theorem VCx.go_vecOf {f : Nat} (h : vecField c.window f) : (c.vecOf f).go s = (.ok f, s) := by
  have hopd : c.opd f = some (.vec f) := if_pos h
  rw [VCx.vecOf, hopd]; rfl

theorem VCx.go_scaOf {f : Nat} (h : scaField f) : (c.scaOf f).go s = (.ok (f - 0x80), s) := by
  have hvec : ¬ f < if c.window then 0x80 else 0x20 := by
    have := h.1
    split <;> omega
  have hopd : c.opd f = some (.sca (f - 0x80)) := (if_neg hvec).trans (if_pos h)
  rw [VCx.scaOf, hopd]; rfl

theorem VCx.go_stream {b : Bool} (h : b = true → s.slotOk c.tslot c.t.ctx = true) :
    (c.stream b).go s = (.ok (), s) := by
  refine c.go_encIf s ?_
  cases b with
  | false => rfl
  | true => rw [h rfl]; rfl

/-- A load or store whose every lane lies in the cache neither faults nor counts a lane (04 R93). -/
theorem VCx.go_laneBounds {ok : Nat → Bool} {at' : Nat → Nat} (h : ∀ l ∈ lanes, ok l = true) :
    (c.laneBounds ok at').go s = (.ok (), s) := by
  have hin : c.active.find? (fun l => !(ok l)) = none :=
    List.find?_eq_none.2 fun l hl => by simp [h l (List.mem_of_mem_filter hl)]
  have hout : (lanes.filter fun l => !(c.on l) && !(ok l)) = [] :=
    List.filter_eq_nil_iff.2 fun l hl => by simp [h l hl]
  simp only [VCx.laneBounds, hin, hout]
  rfl

/-- The addresses of a load or store (04 R90). -/
theorem VCx.go_moveArgs {f : Fmt} (ha : scaField c.a) (hb : scaField c.b) (halign : asNat c.cap.sA % 64 = 0)
    (hpair : f.scaled = true → c.a ≠ 0x9F ∧ asNat c.cap.sB % 16 = 0) :
    (c.moveArgs f).go s = (.ok (asNat c.cap.sA, asNat c.cap.sA1, asNat c.cap.sB), s) := by
  have henc : (f.scaled && c.a - 0x80 == 31) = false := by
    cases hf : f.scaled with
    | false => rfl
    | true =>
      have := (hpair hf).1
      have := ha.1
      simp only [Bool.true_and, beq_eq_false_iff_ne]
      omega
  have hseq : (asNat c.cap.sA % 64 != 0 || (f.scaled && asNat c.cap.sB % 16 != 0)) = false := by
    cases hf : f.scaled with
    | false => simp [halign]
    | true => simp [halign, (hpair hf).2]
  rw [VCx.moveArgs, M.go_bind_ok (c.go_scaOf s ha), M.go_bind_ok (c.go_scaOf s hb), M.go_bind_ok (c.go_encIf s henc),
    M.go_bind_ok (c.go_seqIf s hseq), M.go_pure]

end

/-! ### What an access to a descriptor leaves, read by a word -/

section
variable {s t : State} (h : VecKept s t)
include h

theorem VecKept.slotOk (n x : Nat) : t.slotOk n x = s.slotOk n x := by
  have hvalid := h.field (F.tallyCtlValid n) (by simp only [Fld.key, F.tallyCtlValid]; omega)
  have howner := h.field (F.tallyCtlOwner n) (by simp only [Fld.key, F.tallyCtlOwner]; omega)
  rw [State.slotOk, State.slotOk, State.flag, hvalid, howner]; rfl

theorem VecKept.vec (g : Nat) : t.vec g = s.vec g := by rw [State.vec, h.eng]; rfl

theorem VecKept.stepNo (x : Nat) : t.stepNo x = s.stepNo x := by
  simp only [State.stepNo, State.stepRec, h.train]

theorem VecKept.ocRead (g a n : Nat) : t.ocRead g a n = s.ocRead g a n := by simp only [State.ocRead, h.oc]

theorem VecKept.vlane (g : Nat) (win : Bool) (n l : Nat) : Machine.vlane t g win n l = Machine.vlane s g win n l := by
  simp only [Machine.vlane, h.ocRead, h.vec]

end

/-- Taking a word off the queue changes what no operand is read from. -/
theorem vlane_queue (s : State) (g : Nat) (rest : List VWord) (win : Bool) (n l : Nat) :
    vlane (s.setVec g { s.vec g with queue := rest }) g win n l = vlane s g win n l := by
  simp only [vlane, State.vec_setVec]; rfl

/-! ### Writing a vector result (04 R87, R92) -/

section
variable (v : State) (g : Nat)

/-- Values put in a table of a register file at keys `b + l` for the lanes `ls`. -/
def putRow (b : Nat) (val : Nat → W32) (ls : List Nat) (r : Tbl W32) : Tbl W32 :=
  ls.foldl (fun r l => tput 0#32 r (b + l) (val l)) r

theorem tget_putRow (b : Nat) (val : Nat → W32) (ls : List Nat) (r : Tbl W32) (l : Nat) :
    tget 0#32 (putRow b val ls r) (b + l) = if l ∈ ls then val l else tget 0#32 r (b + l) := by
  induction ls generalizing r with
  | nil => rfl
  | cons i rest ih =>
    refine (ih _).trans ?_
    by_cases hr : l ∈ rest
    · rw [if_pos hr, if_pos (List.mem_cons_of_mem _ hr)]
    · by_cases hi : l = i
      · rw [if_neg hr, hi, if_pos List.mem_cons_self, tget_tput_same]
      · rw [if_neg hr, if_neg (by simp [hi, hr]), tget_tput_ne _ _ _ (by omega)]

theorem tget_putRow_ne {b k : Nat} (val : Nat → W32) {ls : List Nat} (r : Tbl W32) (h : ∀ l ∈ ls, k ≠ b + l) :
    tget 0#32 (putRow b val ls r) k = tget 0#32 r k := by
  induction ls generalizing r with
  | nil => rfl
  | cons i rest ih =>
    rw [List.forall_mem_cons] at h
    exact (ih _ h.2).trans (tget_tput_ne _ _ _ h.1)

theorem State.vec_setVec_ne {g h : Nat} (e : VecEng) (hne : h ≠ g) : (v.setVec g e).vec h = v.vec h :=
  tget_tput_ne _ _ _ hne

/-- The lanes `ls` of vector operand `n` written. -/
def State.putLanes (c : VCx) (n : Nat) (val : Nat → W32) (ls : List Nat) : State :=
  ls.foldl (fun s l => s.putLane c n l (val l)) v

/-- In window mode the lanes are elements of four bytes of the slot. -/
theorem State.putLanes_window {c : VCx} (h : c.window = true) (n : Nat) (val : Nat → W32) (ls : List Nat) :
    v.putLanes c n val ls = v.storeElems c.g (c.wbase + 512 * n) 4 (fun l => w32Bytes (val l)) ls := by
  have hlane : ∀ (s : State) (l : Nat), s.putLane c n l (val l) =
      s.ocWrite c.g (c.wbase + 512 * n + 4 * l) (w32Bytes (val l)) := fun s l => by rw [State.putLane, if_pos h]
  simp only [State.putLanes, State.storeElems, hlane]

/-- In register mode the lanes are entries of the core's register file. -/
theorem State.putLanes_regs {c : VCx} (h : c.window = false) (n : Nat) (val : Nat → W32) (ls : List Nat) :
    ∃ e, v.putLanes c n val ls = { v with eng := { v.eng with vec := e } } ∧
      tget {} e c.g = { v.vec c.g with v := putRow (128 * n) val ls (v.vec c.g).v } ∧
      ∀ k, k ≠ c.g → tget {} e k = v.vec k := by
  induction ls generalizing v with
  | nil => exact ⟨_, rfl, rfl, fun _ _ => rfl⟩
  | cons l r ih =>
    have hlane : v.putLane c n l (val l) =
        v.setVec c.g { v.vec c.g with v := tput 0#32 (v.vec c.g).v (128 * n + l) (val l) } := by
      rw [State.putLane, if_neg (by simp [h])]
    obtain ⟨e, he, hsame, hother⟩ := ih (v.putLane c n l (val l))
    rw [hlane] at he hsame hother
    refine ⟨e, ?_, ?_, fun k hk => ?_⟩
    · rw [State.putLanes, List.foldl_cons, hlane]; exact he
    · rw [hsame, State.vec_setVec]; rfl
    · rw [hother k hk, State.vec_setVec_ne v _ hk]

/-- Writing lanes changes vector engines and memory alone. -/
theorem State.putLanes_shape (c : VCx) (n : Nat) (val : Nat → W32) (ls : List Nat) :
    ∃ e m, v.putLanes c n val ls = { v with eng := { v.eng with vec := e }, mem := m } := by
  cases h : c.window with
  | true =>
    obtain ⟨oc, bad, soft, hs⟩ := v.storeElems_shape c.g (p := c.wbase + 512 * n) (z := 4)
      (data := fun l => w32Bytes (val l)) (ls := ls)
    exact ⟨_, _, (v.putLanes_window h n val ls).trans hs⟩
  | false =>
    obtain ⟨e, he, -⟩ := v.putLanes_regs h n val ls
    exact ⟨e, _, he⟩

/-- A vector result written: the lanes that are on take their values and, with MZ, the others zero (04 R92). -/
def State.putResult (c : VCx) (n : Nat) (on : Nat → Bool) (f : Nat → W32) : State :=
  v.putLanes c n (fun l => if on l then f l else 0#32) (lanes.filter fun l => on l || c.mz)

theorem State.putResult_wrote (c : VCx) (n : Nat) (on : Nat → Bool) (f : Nat → W32) : wrote v (v.putResult c n on f) := by
  obtain ⟨e, m, h⟩ := v.putLanes_shape c n (fun l => if on l then f l else 0#32) (lanes.filter fun l => on l || c.mz)
  exact ⟨e, m, _, h⟩

@[simp] theorem State.putResult_train (c : VCx) (n : Nat) (on : Nat → Bool) (f : Nat → W32) :
    (v.putResult c n on f).train = v.train := by
  obtain ⟨e, m, h⟩ := v.putLanes_shape c n (fun l => if on l then f l else 0#32) (lanes.filter fun l => on l || c.mz)
  rw [State.putResult, h]

theorem lanesSet_putResult {c : VCx} (hbase : c.wbase = (v.vec c.g).wbase) (d : Nat) (on : Nat → Bool)
    (f : Nat → W32) : lanesSet v (v.putResult c d on f) c.g c.window c.mz d on f := by
  unfold State.putResult
  generalize c.mz = mz
  have hmem : ∀ l, l < 128 → (l ∈ (lanes.filter fun l => on l || mz) ↔ (on l || mz) = true) := fun l hl => by
    rw [List.mem_filter]; exact and_iff_right (mem_lanes.2 hl)
  have hval : ∀ l, l < 128 → ∀ old : W32, (if l ∈ (lanes.filter fun l => on l || mz) then
      (if on l then f l else 0#32) else old) = if on l then f l else if mz then 0#32 else old := fun l hl old => by
    simp only [hmem l hl]
    cases on l <;> cases mz <;> rfl
  have hlt : ∀ l ∈ (lanes.filter fun l => on l || mz), l < 128 := fun l hl => mem_lanes.1 (List.mem_of_mem_filter hl)
  generalize (lanes.filter fun l => on l || mz) = ls at *
  cases hwin : c.window with
  | true =>
    rw [v.putLanes_window hwin, hbase]
    have hlen : ∀ l ∈ ls, (w32Bytes (if on l then f l else 0#32)).length = 4 := fun _ _ => w32Bytes_length _
    have hread := v.storeElems_read c.g (p := (v.vec c.g).wbase + 512 * d) hlen
    have hchg := ocChanged_storeElems v c.g (p := (v.vec c.g).wbase + 512 * d) hlen hlt
    obtain ⟨oc, bad, soft, hs⟩ := v.storeElems_shape c.g (p := (v.vec c.g).wbase + 512 * d) (z := 4)
      (data := fun l => w32Bytes (if on l then f l else 0#32)) (ls := ls)
    have hvec : ∀ k, (v.storeElems c.g ((v.vec c.g).wbase + 512 * d) 4
        (fun l => w32Bytes (if on l then f l else 0#32)) ls).vec k = v.vec k := fun k => by rw [hs]; rfl
    refine ⟨fun l hl => ?_, by rw [hvec], fun k _ => hvec k, by rw [hvec], hchg⟩
    rw [← hval l hl]
    simp only [vlane, hvec, hread, if_true]
    split <;> simp
  | false =>
    obtain ⟨e, he, hsame, hother⟩ := v.putLanes_regs hwin d (fun l => if on l then f l else 0#32) ls
    have hvec : ∀ k, (v.putLanes c d (fun l => if on l then f l else 0#32) ls).vec k = tget {} e k := fun k => by
      rw [he]; rfl
    refine ⟨fun l hl => ?_, ?_, fun k hk => ?_, ?_, fun n l _ hl hn => ?_⟩
    · rw [← hval l hl]
      simp only [vlane, hvec, hsame, Bool.false_eq_true, if_false, tget_putRow]
    · rw [hvec, hsame]
    · rw [hvec, hother k hk]
    · rw [he]; rfl
    · simp only [vlane, hvec, hsame, Bool.false_eq_true, if_false]
      exact tget_putRow_ne _ _ fun i hi => by have := hlt i hi; omega

/-- What a word leaves that reports, when it is a write stream, what it wrote (04 R87). -/
def State.reportIf (c : VCx) (stream : Bool) (k : Census) : State :=
  if stream then v.report c.t.ctx c.tslot (v.stepNo c.t.ctx) k else v

theorem State.reportIf_wrote (c : VCx) (stream : Bool) (k : Census) : wrote v (v.reportIf c stream k) := by
  cases stream with
  | false => exact wrote.refl v
  | true => exact ⟨_, _, _, rfl⟩

theorem State.reportIf_eng (c : VCx) (stream : Bool) (k : Census) : (v.reportIf c stream k).eng = v.eng := by
  cases stream <;> rfl

theorem State.reportIf_mem (c : VCx) (stream : Bool) (k : Census) : (v.reportIf c stream k).mem = v.mem := by
  cases stream <;> rfl

/-- A report made of a state whose tallies are those of `v` is one report of `v`. -/
theorem reported_reportIf {c : VCx} {t : State} (h : t.train = v.train) (stream : Bool) (k : Census) (s : State)
    (n : Nat) : reported v (wordDone s (t.reportIf c stream k) g c.t n) c.t c.w stream := by
  have hrec : t.stepRec c.t.ctx = v.stepRec c.t.ctx := by simp only [State.stepRec, h]
  have hstep : t.stepNo c.t.ctx = v.stepNo c.t.ctx := by simp only [State.stepNo, hrec]
  cases stream with
  | false => exact h
  | true =>
    refine ⟨k, ?_⟩
    have hdone : (wordDone s (t.reportIf c true k) g c.t n).train =
        (t.report c.t.ctx c.tslot (t.stepNo c.t.ctx) k).train := rfl
    rw [hdone, hstep]
    simp only [State.report, State.carry, State.setStepRec, hrec, h]
    rfl

/-- What writing a vector result comes to. -/
theorem VCx.go_put {c : VCx} {copy : Bool} (n : Nat) (on : Nat → Bool) (vals : List W32)
    (h : (c.window && !copy) = true → v.slotOk c.tslot c.t.ctx = true) : (c.put n on vals copy).go v = (.ok (),
      (v.putResult c n on (laneAt vals)).reportIf c (c.window && !copy) (censusOf ((lanes.filter on).map (laneAt vals)))) := by
  have hfold : lanes.foldl (fun s l => if on l then s.putLane c n l (laneAt vals l)
      else if c.mz then s.putLane c n l 0#32 else s) v =
      v.putResult c n on (laneAt vals) := by
    rw [State.putResult, State.putLanes, List.foldl_filter]
    congr 1
    funext s l
    cases on l <;> cases c.mz <;> rfl
  rw [VCx.put, M.go_bind_ok (c.go_stream v h), M.go_bind_ok (M.go_setS _ v), hfold]
  cases (c.window && !copy) <;> rfl

end

/-! ### VLD (04 R90, R92) -/

/-- `lanesSet` looks at the vector engines and the memories of its second state alone, and at the lanes below 128. -/
theorem lanesSet.congr {v t t' : State} {g d : Nat} {win mz : Bool} {on on' : Nat → Bool} {f f' : Nat → W32}
    (h : lanesSet v t g win mz d on f) (hvec : t'.eng.vec = t.eng.vec) (hmem : t'.mem = t.mem)
    (hon : ∀ l, l < 128 → on' l = on l) (hf : ∀ l, l < 128 → on l = true → f' l = f l) :
    lanesSet v t' g win mz d on' f' := by
  have hv : ∀ k, t'.vec k = t.vec k := fun k => by rw [State.vec, hvec]; rfl
  have hl : ∀ n l, vlane t' g win n l = vlane t g win n l := fun n l => by
    simp only [vlane, State.ocRead, hv, hmem]
  obtain ⟨hlanes, hsame, hother, hrest⟩ := h
  refine ⟨fun l hlt => ?_, by rw [hv, ← hsame], fun k hk => (hv k).trans (hother k hk), ?_⟩
  · rw [hl, hlanes l hlt, hon l hlt]
    split
    · rw [hf l hlt ‹_›]
    · rfl
  · cases win with
    | true => simpa only [if_true, ocChanged, hv, hmem] using hrest
    | false =>
      simp only [Bool.false_eq_true, if_false] at hrest hl ⊢
      exact ⟨by rw [sramKept, hmem]; exact hrest.1, fun n l hn hlt hne => (hl n l).trans (hrest.2 n l hn hlt hne)⟩

/-- The value VLD gives lane `l`, with coarse scale `k` (02 R36, R51). -/
def loadVal (s : State) (g : Nat) (f : Fmt) (a sa : Nat) (k : W32) (l : Nat) : W32 :=
  if f.scaled && !(coarseOk k) then w32NaN else
    toW32 (srcElem f (elemAt s g f a l) (if f.scaled then leNat (s.ocRead g (sa + l / 16) 1) else 0) k)

/-- The byte ranges VLD reads. -/
def VCx.loadReads (c : VCx) (f : Fmt) (a sa : Nat) : List (Nat × Nat) :=
  c.active.flatMap fun l => (laneByte f a l, laneSize f) :: (if f.scaled then [(sa + l / 16, 1)] else [])

/-- The values VLD puts into its destination. -/
def VCx.loaded (c : VCx) (s : State) (f : Fmt) (a sa : Nat) (k : W32) : List W32 :=
  lanes.map fun l => if !(c.on l) then 0#32 else loadVal s c.g f a sa k l

/-- VLD with legal operands and every lane inside the cache writes its lanes from what it reads. -/
theorem go_vVld {c : VCx} {u v : State} {f : Fmt} {cs : List W32} (haux : c.aux < 4) (hf : f = c2fmt c.aux)
    (hd : vecField c.window c.d) (ha : scaField c.a) (hb : scaField c.b) (halign : asNat c.cap.sA % 64 = 0)
    (hpair : f.scaled = true → c.a ≠ 0x9F ∧ asNat c.cap.sB % 16 = 0)
    (hbind : f.scaled = true → u.bindIn c.t c.c = true)
    (hslot : (c.window && !(f == .w32)) = true → u.slotOk c.tslot c.t.ctx = true)
    (hin : ∀ l ∈ lanes, laneIn f (asNat c.cap.sA) (asNat c.cap.sA1) l = true)
    (hgo : (ocReads c.g (c.loadReads f (asNat c.cap.sA) (asNat c.cap.sA1)) >>= fun _ =>
      coarseUse c.g uVector c.t [(f.scaled, c.c)]).go u = (.ok cs, v)) (hkept : VecKept u v) :
    ∃ n k, (vVld c).go u = (.ok (n, []), (v.putResult c c.d c.on
      (laneAt (c.loaded v f (asNat c.cap.sA) (asNat c.cap.sA1) (cs.getD 0 0)))).reportIf c (c.window && !(f == .w32)) k) := by
  obtain ⟨_, r, hreads, hcoarse⟩ := M.go_bind_ok_iff.1 hgo
  have hbind' : (f.scaled && !(u.bindIn c.t c.c)) = false := by
    cases h : f.scaled with
    | false => rfl
    | true => rw [hbind h]; rfl
  refine ⟨if f.scaled then 2 else 1, censusOf ((lanes.filter c.on).map
    (laneAt (c.loaded v f (asNat c.cap.sA) (asNat c.cap.sA1) (cs.getD 0 0)))), ?_⟩
  rw [vVld, M.go_bind_ok (c.go_encIf u (decide_eq_false (Nat.not_le.2 haux))), M.go_bind_ok (c.go_vecOf u hd)]
  simp only [← hf]
  rw [M.go_bind_ok (c.go_moveArgs u ha hb halign hpair)]
  simp only []
  rw [M.go_bind_ok (M.go_getS u), M.go_bind_ok (c.go_encIf u hbind'), M.go_bind_ok (c.go_stream u hslot),
    M.go_bind_ok (c.go_laneBounds u hin)]
  refine (M.go_bind_ok hreads _).trans ?_
  rw [M.go_bind_ok hcoarse, M.go_bind_ok (M.go_getS v)]
  exact M.go_bind_ok (VCx.go_put v _ _ _ fun h => (hkept.slotOk _ _).trans (hslot h)) _

theorem Keeps.ok {P : State → Prop} {α : Type} {m : M α} (hm : Keeps P m) {s t : State} {a : α}
    (h : m.go s = (.ok a, t)) (hs : P s) : P t := by
  have := hm.run s hs
  rwa [h] at this

/-! What taking a word off the queue leaves -/

section
variable {s u : State} {g : Nat} {x : Inst} {win : Bool} {q : VWord} {cls op : Nat}
variable (h : vecFront s g x win q cls op u)
include h

theorem vecFront.taken : ∃ rest, u = s.setVec g { s.vec g with queue := rest } := by
  obtain ⟨-, -, -, -, ⟨rest, -, hu⟩, -⟩ := h
  exact ⟨rest, hu⟩

theorem vecFront.class_eq : vCls q.w.toNat = cls := by
  obtain ⟨-, -, -, -, -, -, hcls, -⟩ := h
  exact hcls

theorem vecFront.bindIn (t : Inst) (d : Nat) : u.bindIn t d = s.bindIn t d := by
  obtain ⟨rest, rfl⟩ := h.taken; rfl

theorem vecFront.slotOk (n y : Nat) : u.slotOk n y = s.slotOk n y := by
  obtain ⟨rest, rfl⟩ := h.taken; rfl

theorem vecFront.stepNo (y : Nat) : u.stepNo y = s.stepNo y := by
  obtain ⟨rest, rfl⟩ := h.taken; rfl

theorem vecFront.mem_eq : u.mem = s.mem := by
  obtain ⟨rest, rfl⟩ := h.taken; rfl

theorem vecFront.ocRead (k a n : Nat) : u.ocRead k a n = s.ocRead k a n := by rw [State.ocRead, h.mem_eq]; rfl

theorem vecFront.wbase : (u.vec g).wbase = (s.vec g).wbase := by
  obtain ⟨rest, rfl⟩ := h.taken; rw [State.vec_setVec]

theorem vecFront.vlane (n l : Nat) : Machine.vlane u g win n l = Machine.vlane s g win n l := by
  obtain ⟨rest, rfl⟩ := h.taken; exact vlane_queue s g rest win n l

end

/-- What VLD reads of the operand cache is what stood there before the word was taken. -/
theorem loadVal_congr {s v : State} {g : Nat} (h : ∀ a n, v.ocRead g a n = s.ocRead g a n) (f : Fmt) (a sa : Nat)
    (k : W32) (l : Nat) : loadVal v g f a sa k l = loadVal s g f a sa k l := by
  simp only [loadVal, elemAt, h]

section
variable {g : Fin 256} {x : Inst} {win : Bool} {q : VWord} {s u v : State} {f : Fmt} {cs : List W32}

theorem vld_runs (hfront : vecFront s g.val x win q 5 0 u) (hd : vecField win (bits q.w.toNat 12 8))
    (hsa : scaField (bits q.w.toNat 20 8)) (hsb : scaField (bits q.w.toNat 28 8)) (halign : asNat q.sA % 64 = 0)
    (haux : bits q.w.toNat 56 8 < 4) (hf : f = c2fmt (bits q.w.toNat 56 8))
    (hscaled : f.scaled = true → bits q.w.toNat 20 8 ≠ 0x9F ∧ asNat q.sB % 16 = 0 ∧
      s.bindIn x (bits q.w.toNat 36 8) = true)
    (hslot : win = true → f ≠ .w32 → s.slotOk (bits q.w.toNat 44 12) x.ctx = true)
    (hin : ∀ l ∈ lanes, laneIn f (asNat q.sA) (asNat q.sA1) l = true)
    (hgo : (ocReads g.val ((s.vecCx g.val x q).loadReads f (asNat q.sA) (asNat q.sA1)) >>= fun _ =>
      coarseUse g.val uVector x [(f.scaled, bits q.w.toNat 36 8)]).go u = (.ok cs, v)) :
    runsTo (.vld g) s fun t => vecOnly (left s v) t g.val x false ∧
      lanesSet v t g.val win (bit q.w.toNat 11) (bits q.w.toNat 12 8) (lit s g.val (bits q.w.toNat 8 3))
        (loadVal s g.val f (asNat q.sA) (asNat q.sA1) (cs.getD 0 0)) ∧
      reported v t x q.w.toNat (win && decide (f ≠ .w32)) := by
  have hkept : VecKept u v :=
    ((ocReads_keeps_vec _ _).bind fun _ => coarseUse_keeps_vec _ _ _ _).ok hgo (.refl u)
  have hwin : (s.vecCx g.val x q).window = win := hfront.window
  have hon : ∀ l, l < 128 → (s.vecCx g.val x q).on l = lit s g.val (bits q.w.toNat 8 3) l := fun l hl =>
    s.vecCx_on g.val x q (by rw [hfront.class_eq]; decide) hl
  have hstream : (win && !(f == .w32)) = (win && decide (f ≠ .w32)) := by cases f <;> rfl
  have hbase : (s.vecCx g.val x q).wbase = (v.vec g.val).wbase := by rw [hkept.vec, hfront.wbase]; rfl
  obtain ⟨n, k, hrun⟩ := go_vVld (c := s.vecCx g.val x q) haux hf (by rw [hwin]; exact hd) hsa hsb halign
    (fun h => ⟨(hscaled h).1, (hscaled h).2.1⟩) (fun h => (hfront.bindIn _ _).trans (hscaled h).2.2)
    (fun h => (hfront.slotOk _ _).trans <| by
      rw [hwin, hstream, Bool.and_eq_true, decide_eq_true_eq] at h
      exact hslot h.1 h.2) hin hgo hkept
  rw [hwin, hstream] at hrun
  have hread : ∀ a n, v.ocRead g.val a n = s.ocRead g.val a n := fun a n => (hkept.ocRead _ _ _).trans (hfront.ocRead _ _ _)
  have hset := lanesSet_putResult v hbase (bits q.w.toNat 12 8) (s.vecCx g.val x q).on
    (laneAt ((s.vecCx g.val x q).loaded v f (asNat q.sA) (asNat q.sA1) (cs.getD 0 0)))
  rw [hwin] at hset
  refine runsTo_of_vecFront hfront rfl (by decide) hrun fun n => ⟨?_, ?_, ?_⟩
  · exact ((v.putResult_wrote _ _ _ _).trans (State.reportIf_wrote _ _ _ _)).vecOnly s n
  · refine hset.congr (congrArg Eng.vec (State.reportIf_eng _ _ _ _)) (State.reportIf_mem _ _ _ _)
      (fun l hl => (hon l hl).symm) fun l hl hl' => ?_
    rw [VCx.loaded, laneAt_map _ hl, hl']
    exact (loadVal_congr hread _ _ _ _ _).symm
  · exact reported_reportIf v g.val (c := s.vecCx g.val x q) (v.putResult_train _ _ _ _) _ _ s n

end

/-! ### What a KW16 element can be written as (02 R42–R48) -/

/-- Below the first code beyond the finite ones, in units, a KW16 magnitude falls on a finite code. -/
theorem floorCode_kw16 {x : Nat} (h : x < 2 ^ 134) : fmtKW16.floorCode x < 0x7F00 := by
  have hman : fmtKW16.man = 8 := rfl
  unfold BinFmt.floorCode
  split <;> rename_i hsub <;> simp only [hman] at hsub ⊢
  · omega
  · have hx : x ≠ 0 := by omega
    have hlog : Nat.log2 x < 134 := (Nat.log2_lt hx).2 h
    have hlow : 8 ≤ Nat.log2 x := (Nat.le_log2 hx).2 (by omega)
    have hexp : Nat.log2 x + 1 = 9 + (Nat.log2 x - 8 + 1 - 1) := by omega
    have hquot : x / 2 ^ (Nat.log2 x - 8 + 1 - 1) < 2 ^ 9 := by
      rw [Nat.div_lt_iff_lt_mul (Nat.two_pow_pos _), ← pow_add, ← hexp]
      exact Nat.lt_log2_self
    omega

theorem nearest_kw16_le {n d : Nat} (hd : 0 < d) (h : fmtKW16.outOfRange n d = false) :
    fmtKW16.nearest n d ≤ 0x7F00 := by
  have hlimit : fmtKW16.limit2 ≤ 2 ^ 135 := by decide +kernel
  have hfloor : fmtKW16.floorCode (n * fmtKW16.one / d) < 0x7F00 := by
    refine floorCode_kw16 ?_
    rw [Nat.div_lt_iff_lt_mul hd]
    have hlt := of_decide_eq_false h
    have hmul := Nat.mul_le_mul_right d hlimit
    rw [Nat.mul_assoc] at hlt
    omega
  simp only [BinFmt.nearest]
  split
  · exact hfloor.le
  · split
    · exact hfloor
    · split
      · exact hfloor.le
      · exact hfloor

theorem stochastic_kw16_le (n d u : Nat) : stochastic fmtKW16 n d u ≤ 0x7F00 := by
  have htop : fmtKW16.top = 0x7EFF := rfl
  simp only [stochastic, htop]
  split
  · omega
  · split <;> omega

/-- A KW16 magnitude code with its sign has 16 bits. -/
theorem signCode_kw16_lt (neg : Bool) {k : Nat} (h : k ≤ 0x7F00) : signCode .kw16 neg k < 2 ^ 16 := by
  have hbits : 2 ^ (Fmt.bits .kw16 - 1) = 32768 := rfl
  rw [signCode, hbits]
  split <;> omega

theorem beyond_kw16_lt (sat neg : Bool) : beyond .kw16 sat neg < 2 ^ 16 := by
  cases sat <;> cases neg <;> decide

theorem srcW32_den {x : W32} {neg : Bool} {n d : Nat} (h : srcW32 x = .fin neg n d) : 0 < d := by
  unfold srcW32 at h
  split at h
  · cases h
  · split at h
    · cases h
    · obtain ⟨-, -, rfl⟩ := Src.fin.inj h
      exact Nat.two_pow_pos _

/-- Every W32 value converts to a 16-bit code of KW16. -/
theorem convCode_kw16_lt {c : Cvc} (hc : c.fmt = .kw16) (u : Nat) (x : W32) :
    (convCode c false u (srcW32 x)).1 < 2 ^ 16 := by
  have hbin : Fmt.bin .kw16 = fmtKW16 := rfl
  cases hx : srcW32 x with
  | nan => simp only [convCode, hc, poisonCode]; decide
  | inf neg => simp only [convCode, hc]; exact beyond_kw16_lt _ _
  | fin neg n d =>
    have hd := srcW32_den hx
    simp only [convCode, hc, hbin, Bool.false_eq_true, if_false]
    split
    · exact beyond_kw16_lt _ _
    · refine signCode_kw16_lt neg ?_
      split
      · exact stochastic_kw16_le _ _ _
      · exact nearest_kw16_le hd (Bool.eq_false_iff.2 ‹_›)

/-! ### Reads of an operand cache without uncorrectable errors (05 R113) -/

/-- A part of a range without bad words has none. -/
theorem wordsOf_part {t : Tbl Bool} {g a n : Nat} (h : wordsOf t (ocKey g 0) ocSize = []) (hin : a + n ≤ ocSize) :
    wordsOf t (ocKey g a) n = [] := by
  rw [wordsOf, List.filter_eq_nil_iff] at h ⊢
  intro e he hpart
  refine h e he ?_
  simp only [Bool.and_eq_true, bne_iff_ne, decide_eq_true_eq] at hpart ⊢
  simp only [ocKey, ocSize] at hin hpart ⊢
  obtain ⟨⟨hn, hlo⟩, hhi⟩ := hpart
  omega

/-- Reading ranges of a cache without bad words answers, and touches but the check bits. -/
theorem go_ocReads {g : Nat} {l : List (Nat × Nat)} {s : State} (hgood : ocGood s g 0 ocSize)
    (hin : ∀ r ∈ l, r.1 + r.2 ≤ ocSize) : ∃ soft ce, (ocReads g l).go s =
      (.ok (), { s with mem := { s.mem with sramSoft := soft, sramCe := ce } }) := by
  induction l generalizing s with
  | nil => exact ⟨_, _, rfl⟩
  | cons r rest ih =>
    rw [List.forall_mem_cons] at hin
    have hread := M.go_sramCheck (ocKey g 0) (ocKey g r.1) r.2 s
    simp only [State.sramRead, wordsOf_part hgood hin.1] at hread
    obtain ⟨soft, ce, h⟩ := ih (s := { s with mem := { s.mem with
      sramSoft := s.mem.sramSoft.filter fun e => !((wordsOf s.mem.sramSoft (ocKey g r.1) r.2).contains e)
      sramCe := s.mem.sramCe + (wordsOf s.mem.sramSoft (ocKey g r.1) r.2).length } }) hgood hin.2
    exact ⟨soft, ce, (M.go_bind_ok hread _).trans h⟩

/-! ### VST of a format without scales (04 R91, R92) -/

section
variable {s t u : State} {g a n : Nat}

theorem ocChanged.trans (h : ocChanged s t g a n) (h' : ocChanged t u g a n) : ocChanged s u g a n := by
  obtain ⟨hmem, hkeep⟩ := h
  obtain ⟨hmem', hkeep'⟩ := h'
  exact ⟨by rw [hmem', hmem], fun b hb => (hkeep' b hb).trans (hkeep b hb)⟩

theorem ocChanged.congr (h : ocChanged s t g a n) (hmem : u.mem = t.mem) : ocChanged s u g a n := by
  rw [ocChanged, hmem]; exact h

theorem ocChanged_soft (s : State) (g a n : Nat) (soft : Tbl Bool) (ce : Nat) :
    ocChanged s { s with mem := { s.mem with sramSoft := soft, sramCe := ce } } g a n := ⟨rfl, fun _ _ => rfl⟩

end

/-- The bytes of a lane of a format without scales lie one behind the other. -/
theorem laneByte_plain {f : Fmt} (h : f.scaled = false) (a l : Nat) : laneByte f a l = a + laneSize f * l := by
  cases f with
  | w32 => simp only [laneByte, laneSize, Fmt.bits, Fmt.bin, fmtW32]; omega
  | kw16 => simp only [laneByte, laneSize, Fmt.bits, Fmt.bin, fmtKW16]; omega
  | kq8 => cases h
  | kq4 => cases h

/-- A stream that uses no coarse scale reads none. -/
theorem go_coarseUse_unused (core unit : Nat) (t : Inst) (d : Nat) (s : State) :
    (coarseUse core unit t [(false, d)]).go s = (.ok [w32One], s) := by
  have hok : coarseOk w32One = true := by decide
  refine (M.go_bind_ok (a := [(w32One, d, 0)]) (t := s) rfl _).trans ?_
  simp only [List.find?_cons, List.find?_nil, hok]
  rfl

/-- The code an unscaled store gives element `i` of value `x` in step `step`: a copy keeps it (02 R51, 04 R87). -/
def VCx.storeCode (c : VCx) (v : Cvc) (step i : Nat) (x : W32) : Nat :=
  if v.fmt = .w32 then x.toNat
  else (convCode v false (draw (BitVec.ofNat 64 step) c.tslot i) (srcW32 x)).1

theorem VCx.storeCode_lt (c : VCx) {v : Cvc} (h : v.fmt.scaled = false) (step i : Nat) (x : W32) :
    c.storeCode v step i x < 2 ^ (8 * laneSize v.fmt) := by
  unfold VCx.storeCode
  cases hf : v.fmt with
  | w32 => exact x.isLt
  | kw16 => exact convCode_kw16_lt hf _ x
  | kq8 => rw [hf] at h; cases h
  | kq4 => rw [hf] at h; cases h

section
variable (c : VCx) (v : Cvc) (a i0 : Nat) (val : Nat → W32)

/-- Storing one lane writes its code. -/
theorem VCx.go_stLane (b i : Nat) (x : W32) (s : State) : ∃ k, (c.stLane (v.fmt == .w32) v b i x).go s =
    (.ok k, s.ocWrite c.g b (leBytes (laneSize v.fmt) (c.storeCode v (s.stepNo c.t.ctx) i x))) := by
  refine ⟨({} : Census).count (convCode v false (draw (BitVec.ofNat 64 (s.stepNo c.t.ctx)) c.tslot i) (srcW32 x)).2
    (srcW32 x), ?_⟩
  simp only [VCx.storeCode, ← beq_iff_eq (a := v.fmt)]
  rfl

/-- Storing lanes one after the other writes the code of each. -/
theorem VCx.go_stLanes (h : v.fmt.scaled = false) (ls : List Nat) (s : State) : ∃ ks,
    (ls.mapM fun l => c.stLane (v.fmt == .w32) v (laneByte v.fmt a l) (i0 + l) (val l)).go s =
      (.ok ks, s.storeElems c.g a (laneSize v.fmt)
        (fun l => leBytes (laneSize v.fmt) (c.storeCode v (s.stepNo c.t.ctx) (i0 + l) (val l))) ls) := by
  induction ls generalizing s with
  | nil => exact ⟨[], rfl⟩
  | cons l r ih =>
    obtain ⟨k, hk⟩ := c.go_stLane v (laneByte v.fmt a l) (i0 + l) (val l) s
    obtain ⟨ks, hks⟩ := ih (s.ocWrite c.g (laneByte v.fmt a l)
      (leBytes (laneSize v.fmt) (c.storeCode v (s.stepNo c.t.ctx) (i0 + l) (val l))))
    refine ⟨k :: ks, ?_⟩
    rw [List.mapM_cons, M.go_bind_ok hk, M.go_bind_ok hks, laneByte_plain h]
    rfl

end

/-- The lanes that are on stored with their codes and, with MZ, the others with code 0 (04 R92). -/
def State.storeLanes (s : State) (c : VCx) (v : Cvc) (a i0 : Nat) (val : Nat → W32) : State :=
  let t := s.storeElems c.g a (laneSize v.fmt)
    (fun l => leBytes (laneSize v.fmt) (c.storeCode v (s.stepNo c.t.ctx) (i0 + l) (val l))) c.active
  if c.mz then t.storeElems c.g a (laneSize v.fmt) (fun _ => leBytes (laneSize v.fmt) 0)
    (lanes.filter fun l => !(c.on l)) else t

section
variable (s : State) (c : VCx) {v : Cvc} (a i0 : Nat) (val : Nat → W32)

theorem State.storeLanes_shape : ∃ m, s.storeLanes c v a i0 val = { s with mem := m } := by
  unfold State.storeLanes
  dsimp only
  obtain ⟨oc, bad, soft, h⟩ := s.storeElems_shape c.g (p := a) (z := laneSize v.fmt)
    (data := fun l => leBytes (laneSize v.fmt) (c.storeCode v (s.stepNo c.t.ctx) (i0 + l) (val l))) (ls := c.active)
  rw [h]
  split
  · obtain ⟨oc', bad', soft', h'⟩ := State.storeElems_shape
      { s with mem := { s.mem with oc := oc, sramBad := bad, sramSoft := soft } } c.g (p := a) (z := laneSize v.fmt)
      (data := fun _ => leBytes (laneSize v.fmt) 0) (ls := lanes.filter fun l => !(c.on l))
    rw [h']
    exact ⟨_, rfl⟩
  · exact ⟨_, rfl⟩

theorem State.storeLanes_wrote : wrote s (s.storeLanes c v a i0 val) := by
  obtain ⟨m, h⟩ := s.storeLanes_shape c (v := v) a i0 val
  exact ⟨_, m, _, h⟩

theorem State.storeLanes_eng : (s.storeLanes c v a i0 val).eng = s.eng := by
  obtain ⟨m, h⟩ := s.storeLanes_shape c (v := v) a i0 val
  rw [h]

theorem State.storeLanes_train : (s.storeLanes c v a i0 val).train = s.train := by
  obtain ⟨m, h⟩ := s.storeLanes_shape c (v := v) a i0 val
  rw [h]

theorem ocChanged_storeLanes : ocChanged s (s.storeLanes c v a i0 val) c.g a (128 * laneSize v.fmt) := by
  have hactive := ocChanged_storeElems s c.g (p := a) (z := laneSize v.fmt) (ls := c.active) (n := 128)
    (data := fun l => leBytes (laneSize v.fmt) (c.storeCode v (s.stepNo c.t.ctx) (i0 + l) (val l)))
    (fun _ _ => leBytes_length _ _) fun l hl => mem_lanes.1 (List.mem_of_mem_filter hl)
  unfold State.storeLanes
  dsimp only
  split
  · exact hactive.trans (ocChanged_storeElems _ c.g (fun _ _ => leBytes_length _ _)
      fun l hl => mem_lanes.1 (List.mem_of_mem_filter hl))
  · exact hactive

/-- A lane reads as its code, as 0 where MZ clears it, or as before. -/
theorem State.storeLanes_read (h : v.fmt.scaled = false) {l : Nat} (hl : l < 128) :
    leNat ((s.storeLanes c v a i0 val).ocRead c.g (a + laneSize v.fmt * l) (laneSize v.fmt)) =
      if c.on l then c.storeCode v (s.stepNo c.t.ctx) (i0 + l) (val l)
      else if c.mz then 0 else leNat (s.ocRead c.g (a + laneSize v.fmt * l) (laneSize v.fmt)) := by
  have hactive : l ∈ c.active ↔ c.on l = true := List.mem_filter.trans (and_iff_right (mem_lanes.2 hl))
  have hidle : l ∈ lanes.filter (fun l => !(c.on l)) ↔ (!(c.on l)) = true :=
    List.mem_filter.trans (and_iff_right (mem_lanes.2 hl))
  have hcode := leNat_leBytes_of_lt (c.storeCode_lt h (s.stepNo c.t.ctx) (i0 + l) (val l))
  have hzero : leNat (leBytes (laneSize v.fmt) 0) = 0 := leNat_leBytes_of_lt (Nat.two_pow_pos _)
  have hread := s.storeElems_read c.g (p := a) (ls := c.active) (z := laneSize v.fmt)
    (data := fun l => leBytes (laneSize v.fmt) (c.storeCode v (s.stepNo c.t.ctx) (i0 + l) (val l)))
    (fun _ _ => leBytes_length _ _) l
  unfold State.storeLanes
  dsimp only
  cases hmz : c.mz with
  | false =>
    simp only [Bool.false_eq_true, if_false, hread, hactive]
    cases c.on l with
    | true => exact hcode
    | false => rfl
  | true =>
    simp only [if_true]
    rw [State.storeElems_read _ c.g (fun _ _ => leBytes_length _ _) l, hread]
    simp only [hactive, hidle]
    cases c.on l with
    | true => exact hcode
    | false => exact hzero

end

/-- The lanes of a window slot inside the cache are read without a fault where the cache has no bad word. -/
theorem VCx.go_slotReads (c : VCx) {n : Nat} {s : State} (hgood : ocGood s c.g 0 ocSize)
    (hslot : c.window = true → c.wbase + 512 * n + 512 ≤ ocSize) : ∃ soft ce,
      (c.slotReads n c.active).go s = (.ok (), { s with mem := { s.mem with sramSoft := soft, sramCe := ce } }) := by
  unfold VCx.slotReads
  split
  · refine go_ocReads hgood fun r hr => ?_
    obtain ⟨l, hl, rfl⟩ := List.mem_map.1 hr
    have hlt := mem_lanes.1 (List.mem_of_mem_filter hl)
    have := hslot ‹_›
    dsimp only
    omega
  · exact ⟨_, _, rfl⟩

/-- VST of a format without scales, with legal operands and every lane inside the cache, stores its lanes. -/
theorem go_vVst_plain {c : VCx} {u : State} {v : Cvc} (hdec : cvcDecode c.aux = some v) (hplain : v.fmt.scaled = false)
    (hd : vecField c.window c.d) (ha : scaField c.a) (hb : scaField c.b) (halign : asNat c.cap.sA % 64 = 0)
    (hslot : (v.fmt != .w32) = true → u.slotOk c.tslot c.t.ctx = true)
    (hin : ∀ l ∈ lanes, laneIn v.fmt (asNat c.cap.sA) (asNat c.cap.sA1) l = true) (hgood : ocGood u c.g 0 ocSize)
    (hwin : c.window = true → c.wbase + 512 * c.d + 512 ≤ ocSize) : ∃ n k soft ce u', u' =
      { u with mem := { u.mem with sramSoft := soft, sramCe := ce } } ∧ (vVst c).go u = (.ok (n, [c.d]),
        (u'.storeLanes c v (asNat c.cap.sA) (asNat c.cap.sB) (laneAt (u'.vecLanes c c.d))).reportIf c
          (v.fmt != .w32) k) := by
  obtain ⟨soft, ce, hreads⟩ := c.go_slotReads (n := c.d) hgood hwin
  generalize hu' : { u with mem := { u.mem with sramSoft := soft, sramCe := ce } } = u' at hreads
  obtain ⟨ks, hks⟩ := c.go_stLanes v (asNat c.cap.sA) (asNat c.cap.sB) (laneAt (u'.vecLanes c c.d)) hplain c.active u'
  refine ⟨1, sumCensus ks, soft, ce, u', hu'.symm, ?_⟩
  have hidle : (lanes.filter fun l => !(c.on l) && laneIn v.fmt (asNat c.cap.sA) (asNat c.cap.sA1) l) =
      lanes.filter fun l => !(c.on l) := List.filter_congr fun l hl => by rw [hin l hl, Bool.and_true]
  have hargs := c.go_moveArgs u (f := v.fmt) ha hb halign fun h => by rw [hplain] at h; cases h
  rw [vVst, hdec]
  simp only [hplain, Bool.false_and, Bool.false_eq_true, if_false]
  rw [M.go_bind_ok (c.go_vecOf u hd), M.go_bind_ok (c.go_seqIf u rfl), M.go_bind_ok hargs]
  dsimp only
  rw [M.go_bind_ok (M.go_getS u), M.go_bind_ok (c.go_encIf u rfl), M.go_bind_ok (c.go_stream u hslot),
    M.go_bind_ok (c.go_seqIf u rfl), M.go_bind_ok (c.go_laneBounds u hin), M.go_bind_ok hreads,
    M.go_bind_ok (M.go_getS u'), M.go_bind_ok (go_coarseUse_unused _ _ _ _ u')]
  rw [M.go_bind_ok hks, hidle]
  simp only [laneByte_plain hplain, State.storeLanes]
  cases c.mz <;> cases (v.fmt != .w32) <;> rfl

theorem vecFront.ocGood {s u : State} {g : Nat} {x : Inst} {win : Bool} {q : VWord} {cls op : Nat}
    (h : vecFront s g x win q cls op u) : Machine.ocGood u g 0 ocSize := by
  obtain ⟨rest, rfl⟩ := h.taken
  obtain ⟨-, -, -, -, -, -, -, -, -, -, hgood⟩ := h
  exact hgood

/-- A slot of the window lies inside the cache (04 R81). -/
theorem vecFront.slot_in {s u : State} {g : Nat} {x : Inst} {win : Bool} {q : VWord} {cls op : Nat}
    (h : vecFront s g x win q cls op u) (hwin : win = true) {n : Nat} (hn : vecField win n) :
    (s.vec g).wbase + 512 * n + 512 ≤ ocSize := by
  obtain ⟨-, -, -, -, -, -, -, -, hmod, hlt, -⟩ := h
  have hslot : n < 128 := by rw [vecField, if_pos hwin] at hn; exact hn
  simp only [ocSize] at hlt ⊢
  omega

section
variable {g : Fin 256} {x : Inst} {win : Bool} {q : VWord} {s u : State} {c : Cvc}

theorem vst_plain_runs (hfront : vecFront s g.val x win q 5 1 u) (hd : vecField win (bits q.w.toNat 12 8))
    (hsa : scaField (bits q.w.toNat 20 8)) (hsb : scaField (bits q.w.toNat 28 8)) (halign : asNat q.sA % 64 = 0)
    (hdec : cvcDecode (bits q.w.toNat 56 8) = some c) (hplain : c.fmt.scaled = false)
    (hslot : c.fmt ≠ .w32 → s.slotOk (bits q.w.toNat 44 12) x.ctx = true)
    (hin : ∀ l ∈ lanes, laneIn c.fmt (asNat q.sA) (asNat q.sA1) l = true) :
    runsTo (.vst g) s fun t => vecOnly u t g.val x false ∧ t.eng.vec = u.eng.vec ∧
      (∀ l, l < 128 → leNat (t.ocRead g.val (asNat q.sA + laneSize c.fmt * l) (laneSize c.fmt)) =
        if lit s g.val (bits q.w.toNat 8 3) l then
          (s.vecCx g.val x q).storeCode c (s.stepNo x.ctx) (asNat q.sB + l) (vlane s g.val win (bits q.w.toNat 12 8) l)
        else if bit q.w.toNat 11 then 0
        else leNat (s.ocRead g.val (asNat q.sA + laneSize c.fmt * l) (laneSize c.fmt))) ∧
      ocChanged u t g.val (asNat q.sA) (128 * laneSize c.fmt) ∧
      reported u t x q.w.toNat (decide (c.fmt ≠ .w32)) := by
  have hwin : (s.vecCx g.val x q).window = win := hfront.window
  have hstream : (c.fmt != .w32) = decide (c.fmt ≠ .w32) := by cases c.fmt <;> rfl
  obtain ⟨n, k, soft, ce, u', hu', hrun⟩ := go_vVst_plain (c := s.vecCx g.val x q) (u := u) hdec hplain
    (by rw [hwin]; exact hd) hsa hsb halign
    (fun h => (hfront.slotOk _ _).trans (hslot (by rwa [hstream, decide_eq_true_eq] at h))) hin hfront.ocGood
    fun h => hfront.slot_in (hwin.symm.trans h) hd
  rw [hstream] at hrun
  refine runsTo_of_vecFront hfront rfl (by decide) hrun fun n => ⟨?_, ?_, fun l hl => ?_, ?_, ?_⟩
  · exact wrote.vecOnly_taken hfront.left_eq ((wrote.trans ⟨_, _, _, hu'⟩ (u'.storeLanes_wrote _ _ _ _)).trans
      (State.reportIf_wrote _ _ _ _)) n
  · exact (congrArg Eng.vec (State.reportIf_eng _ _ _ _)).trans
      (congrArg Eng.vec ((u'.storeLanes_eng _ _ _ _).trans (by rw [hu'])))
  · have hoc : ∀ b m, u'.ocRead g.val b m = s.ocRead g.val b m := fun b m => by rw [← hfront.ocRead, hu']; rfl
    have hlane : laneAt (u'.vecLanes (s.vecCx g.val x q) (bits q.w.toNat 12 8)) l =
        vlane s g.val win (bits q.w.toNat 12 8) l := by
      rw [laneAt_vecLanes u' (s.vecCx g.val x q) _ (by rw [hu']; exact hfront.wbase.symm) hl, ← hfront.vlane, hwin, hu']
      rfl
    have hstep : u'.stepNo x.ctx = s.stepNo x.ctx := by rw [← hfront.stepNo, hu']; rfl
    have hon := s.vecCx_on g.val x q (by rw [hfront.class_eq]; decide) hl
    rw [State.ocRead, (wordDone_mem _ _ _).trans (State.reportIf_mem _ _ _ _), ← hlane, ← hon, ← hstep, ← hoc]
    exact u'.storeLanes_read (s.vecCx g.val x q) _ _ _ hplain hl
  · exact ((ocChanged_soft u _ _ _ soft ce).trans (hu' ▸ ocChanged_storeLanes u' (s.vecCx g.val x q) _ _ _)).congr
      ((wordDone_mem _ _ _).trans (State.reportIf_mem _ _ _ _))
  · exact reported_reportIf u g.val (c := s.vecCx g.val x q) ((u'.storeLanes_train _ _ _ _).trans (by rw [hu'])) _ _ s n

end

/-! ### VST of a format with scales (04 R91) -/

/-- Packed codes take the bytes of their elements (02 R35). -/
theorem packCodes_length (f : Fmt) (l : List Nat) : (packCodes f l).length = f.bytes l.length := by
  induction f, l using packCodes.induct with
  | case1 a b r ih =>
    simp only [packCodes, List.length_cons, ih, Fmt.bytes, Fmt.bits, Fmt.bin, fmtKQ4]
    omega
  | case2 a => simp [packCodes, Fmt.bytes, Fmt.bits, Fmt.bin, fmtKQ4]
  | case3 f => cases f <;> rfl
  | case4 f a r h1 h2 ih =>
    have hcodes : packCodes f (a :: r) = leBytes (f.bits / 8) a ++ packCodes f r := by
      rw [packCodes]
      · exact h1
      · exact h2
    rw [hcodes, List.length_append, leBytes_length, ih, List.length_cons]
    cases f with
    | kq4 =>
      cases r with
      | nil => exact absurd rfl (h2 rfl)
      | cons b r => exact absurd rfl (h1 b r rfl)
    | w32 => simp only [Fmt.bytes, Fmt.bits, Fmt.bin, fmtW32]; omega
    | kw16 => simp only [Fmt.bytes, Fmt.bits, Fmt.bin, fmtKW16]; omega
    | kq8 => simp only [Fmt.bytes, Fmt.bits, Fmt.bin, fmtKQ8]; omega

/-- A block converts to one code an element. -/
theorem convBlock_length (c : Cvc) (k : W32) (bad : Bool) (given : Nat) {vs : List Src} {us : List Nat}
    (h : us.length = vs.length) : (convBlock c k bad given vs us).1.length = vs.length := by
  unfold convBlock
  split
  · simp
  · split <;> simp [h]

/-- The codes, scale and census of block `b` of a scaled store (02 R34, R36–R53). -/
def VCx.blockConv (c : VCx) (v : Cvc) (k : W32) (fine step i0 b : Nat) (val : Nat → W32) :
    List Nat × Option Nat × Census :=
  convBlock v k false fine ((upTo 16).map fun i => srcW32 (val (16 * b + i)))
    ((upTo 16).map fun i => draw (BitVec.ofNat 64 step) c.tslot (i0 + (16 * b + i)))

/-- A block's codes are eight bytes of KQ4 or sixteen of KQ8. -/
theorem VCx.packed_length {v : Cvc} (h : v.fmt.scaled = true) (c : VCx) (k : W32) (fine step i0 b : Nat)
    (val : Nat → W32) : (packCodes v.fmt (c.blockConv v k fine step i0 b val).1).length = 2 * v.fmt.bits := by
  have hlen : (c.blockConv v k fine step i0 b val).1.length = 16 :=
    (convBlock_length _ _ _ _ (by simp)).trans (by simp [upTo])
  rw [packCodes_length, hlen]
  cases hf : v.fmt with
  | kq8 => rfl
  | kq4 => rfl
  | w32 => rw [hf] at h; cases h
  | kw16 => rw [hf] at h; cases h

/-- A block's codes stored at `p` and its scale byte, where one is written, at `q`. -/
def State.storeBlock (s : State) (g p q : Nat) (codes : List Byte) : Option Nat → State
  | some k => (s.ocWrite g p codes).ocWrite g q [BitVec.ofNat 8 k]
  | none => s.ocWrite g p codes

section
variable (s : State) (g p q : Nat) (codes : List Byte) (scale : Option Nat)

theorem State.storeBlock_wrote : wrote s (s.storeBlock g p q codes scale) := by
  cases scale <;> exact ⟨_, _, _, rfl⟩

theorem State.storeBlock_eng : (s.storeBlock g p q codes scale).eng = s.eng := by
  cases scale <;> rfl

theorem State.storeBlock_train : (s.storeBlock g p q codes scale).train = s.train := by
  cases scale <;> rfl

/-- Bytes that are neither a code's nor the scale's stay. -/
theorem State.storeBlock_out {k : Nat} (h : k < ocKey g p ∨ ocKey g p + codes.length ≤ k) (hq : k ≠ ocKey g q) :
    tget 0 (s.storeBlock g p q codes scale).mem.oc k = tget 0 s.mem.oc k := by
  have hcodes : tget 0 (s.ocWrite g p codes).mem.oc k = tget 0 s.mem.oc k := tget_writeBytes_out _ _ _ _ h
  cases scale with
  | none => exact hcodes
  | some x =>
    have hscale : tget 0 ((s.ocWrite g p codes).ocWrite g q [BitVec.ofNat 8 x]).mem.oc k =
        tget 0 (s.ocWrite g p codes).mem.oc k :=
      tget_writeBytes_out _ _ _ _ (by rw [List.length_singleton]; omega)
    exact hscale.trans hcodes

/-- The codes read as stored where the scale byte lies elsewhere. -/
theorem State.storeBlock_codes {n : Nat} (hn : codes.length = n) (h : q < p ∨ p + n ≤ q) :
    (s.storeBlock g p q codes scale).ocRead g p n = codes := by
  cases scale with
  | none => exact s.ocRead_ocWrite g hn
  | some x =>
    refine (State.ocRead_ocWrite_out _ g ?_).trans (s.ocRead_ocWrite g hn)
    rw [List.length_singleton]
    omega

theorem State.storeBlock_scale {k : Nat} (h : scale = some k) :
    tget 0 (s.storeBlock g p q codes scale).mem.oc (ocKey g q) = BitVec.ofNat 8 k := by
  rw [h]; exact tget_tput_same _ _ _ _

theorem ocChanged_storeBlock {n : Nat} (hp : p + codes.length ≤ n) (hq : q < n) :
    ocChanged s (s.storeBlock g p q codes scale) g 0 n := by
  refine ⟨by cases scale <;> rfl, fun b hb => s.storeBlock_out g p q codes scale ?_ ?_⟩ <;>
    simp only [ocKey] at hb ⊢ <;> omega

end

/-- Converting one block of a scaled store writes its codes and, where it is derived, its scale. -/
theorem VCx.go_stBlock (c : VCx) (v : Cvc) (k : W32) (a sa i0 b : Nat) (src : List W32) (s : State) :
    let r := c.blockConv v k (leNat (s.ocRead c.g (sa + b) 1)) (s.stepNo c.t.ctx) i0 b (laneAt src)
    (c.stBlock v k a sa i0 src b).go s =
      (.ok r.2.2, s.storeBlock c.g (laneByte v.fmt a (16 * b)) (sa + b) (packCodes v.fmt r.1) r.2.1) := by
  intro r
  have hconv : convBlock v k false (leNat (s.ocRead c.g (sa + b) 1))
      (((upTo 16).map fun i => 16 * b + i).map fun l => srcW32 (laneAt src l))
      (((upTo 16).map fun i => 16 * b + i).map fun l => draw (BitVec.ofNat 64 (s.stepNo c.t.ctx)) c.tslot (i0 + l)) = r := by
    rw [List.map_map, List.map_map]; rfl
  rw [VCx.stBlock, M.go_bind_ok (M.go_getS s)]
  dsimp only
  rw [hconv]
  refine (M.go_bind_ok (M.go_setS _ s) _).trans ?_
  cases r.2.1 <;> rfl

theorem VCx.slotReads_keeps_vec (c : VCx) (n : Nat) (ls : List Nat) {s : State} :
    Keeps (VecKept s) (c.slotReads n ls) := Keeps.ite (ocReads_keeps_vec _ _) (Keeps.pure _)

section
variable {c : VCx} {b : Nat} (hmask : ∀ l, l < 128 → c.on l = decide (l / 16 = b))
include hmask

/-- Where one block is active, it is active as a whole. -/
theorem VCx.blockOn_eq {q : Nat} (hq : q < 8) : c.blockOn q = if q = b then 16 else 0 := by
  have hon : ∀ i ∈ upTo 16, c.on (16 * q + i) = decide (q = b) := fun i hi => by
    have hi := List.mem_range.1 hi
    have hdiv : (16 * q + i) / 16 = q := by omega
    rw [hmask _ (by omega), hdiv]
  rw [VCx.blockOn, List.filter_congr hon]
  split
  · simp [upTo, *]
  · simp [*]

theorem VCx.blocks_whole : ((upTo 8).any fun q => c.blockOn q != 0 && c.blockOn q != 16) = false := by
  refine List.any_eq_false.2 fun q hq => ?_
  rw [VCx.blockOn_eq hmask (List.mem_range.1 hq)]
  split <;> decide

theorem VCx.blocks_active (hb : b < 8) : ((upTo 8).filter fun q => c.blockOn q = 16) = [b] := by
  have hon : ∀ q ∈ upTo 8, decide (c.blockOn q = 16) = decide (q = b) := fun q hq => by
    rw [VCx.blockOn_eq hmask (List.mem_range.1 hq)]
    by_cases h : q = b <;> simp [h]
  have hone : ∀ b, b < 8 → ((upTo 8).filter fun q => decide (q = b)) = [b] := by decide
  rw [List.filter_congr hon, hone b hb]

/-- VST of a format with scales, with legal operands, one block active and every lane inside the cache, stores that
block. -/
theorem go_vVst_scaled {u w : State} {v : Cvc} {cs : List W32} (hdec : cvcDecode c.aux = some v)
    (hscaled : v.fmt.scaled = true) (hmz : c.mz = false) (hd : vecField c.window c.d) (ha : scaField c.a)
    (hb : scaField c.b) (halign : asNat c.cap.sA % 64 = 0) (hpair : c.a ≠ 0x9F) (hindex : asNat c.cap.sB % 16 = 0)
    (hbind : u.bindIn c.t c.c = true) (hslot : u.slotOk c.tslot c.t.ctx = true)
    (hin : ∀ l ∈ lanes, laneIn v.fmt (asNat c.cap.sA) (asNat c.cap.sA1) l = true) (hlt : b < 8)
    (hgo : (c.slotReads c.d c.active >>= fun _ =>
      ocReads c.g (if v.given then [(asNat c.cap.sA1 + b, 1)] else []) >>= fun _ =>
      coarseUse c.g uVector c.t [(true, c.c)]).go u = (.ok cs, w)) : ∃ n k u' r, VecKept u u' ∧
        r = c.blockConv v (cs.getD 0 0) (leNat (w.ocRead c.g (asNat c.cap.sA1 + b) 1)) (w.stepNo c.t.ctx)
          (asNat c.cap.sB) b (laneAt (u'.vecLanes c c.d)) ∧
        (vVst c).go u = (.ok (n, [c.d]), (w.storeBlock c.g (laneByte v.fmt (asNat c.cap.sA) (16 * b))
          (asNat c.cap.sA1 + b) (packCodes v.fmt r.1) r.2.1).reportIf c true k) := by
  obtain ⟨_, u₁, hslots, hrest⟩ := M.go_bind_ok_iff.1 hgo
  obtain ⟨_, u₂, hscale, hcoarse⟩ := M.go_bind_ok_iff.1 hrest
  have hkept : VecKept u u₂ := (ocReads_keeps_vec _ _).ok hscale ((c.slotReads_keeps_vec _ _).ok hslots (.refl u))
  have hstored := c.go_stBlock v (cs.getD 0 0) (asNat c.cap.sA) (asNat c.cap.sA1) (asNat c.cap.sB) b
    (u₂.vecLanes c c.d) w
  generalize hr : c.blockConv v (cs.getD 0 0) (leNat (w.ocRead c.g (asNat c.cap.sA1 + b) 1)) (w.stepNo c.t.ctx)
    (asNat c.cap.sB) b (laneAt (u₂.vecLanes c c.d)) = r at hstored
  have hargs := c.go_moveArgs u (f := v.fmt) ha hb halign fun _ => ⟨hpair, hindex⟩
  have hstream : (v.fmt != .w32) = true := by
    cases hf : v.fmt with
    | w32 => rw [hf] at hscaled; cases hscaled
    | kw16 | kq8 | kq4 => rfl
  have hgiven : ∀ f : Unit → M (Nat × List Nat), (if v.given = true then
      ocReads c.g ([b].map fun q => (asNat c.cap.sA1 + q, 1)) >>= f else f ()).go u₁ = (f ()).go u₂ := fun f => by
    cases h : v.given with
    | true => rw [h] at hscale; exact M.go_bind_ok hscale f
    | false =>
      rw [h] at hscale
      obtain rfl : u₁ = u₂ := congrArg Prod.snd hscale
      rfl
  refine ⟨2, sumCensus [r.2.2], u₂, r, hkept, hr.symm, ?_⟩
  rw [vVst, hdec]
  simp only [hscaled, hmz, Bool.true_and, if_true, VCx.blocks_whole hmask, VCx.blocks_active hmask hlt, hstream]
  rw [M.go_bind_ok (c.go_vecOf u hd), M.go_bind_ok (c.go_seqIf u rfl), M.go_bind_ok hargs]
  dsimp only
  rw [M.go_bind_ok (M.go_getS u), M.go_bind_ok (c.go_encIf u (by rw [hbind]; rfl)),
    M.go_bind_ok (c.go_stream u fun _ => hslot), M.go_bind_ok (c.go_seqIf u rfl), M.go_bind_ok (c.go_laneBounds u hin),
    M.go_bind_ok hslots]
  refine (hgiven _).trans ?_
  rw [M.go_bind_ok (M.go_getS u₂), M.go_bind_ok hcoarse, List.mapM_cons, List.mapM_nil]
  refine (M.go_bind_ok ((M.go_bind_ok hstored _).trans rfl) _).trans ?_
  rfl

end

section
variable {g : Fin 256} {x : Inst} {win : Bool} {q : VWord} {s u v : State} {c : Cvc} {cs : List W32} {b : Nat}
  {r : List Nat × Option Nat × Census}

/-- The ranges of a window slot that a store of the active lanes reads. -/
theorem VCx.slotReads_eq (hfront : vecFront s g.val x win q 5 1 u) (n : Nat) :
    (s.vecCx g.val x q).slotReads n (s.vecCx g.val x q).active = ocReads g.val (if win then
      (activeLanes s g.val q.w.toNat).map fun l => ((s.vec g.val).wbase + 512 * n + 4 * l, 4) else []) := by
  have hact := s.vecCx_active g.val x q (by rw [hfront.class_eq]; decide)
  rw [VCx.slotReads, hfront.window, hact]
  cases win <;> rfl

/-- The bytes of a block's codes. -/
theorem laneByte_block (f : Fmt) (a b : Nat) : laneByte f a (16 * b) = a + 2 * f.bits * b := by
  have hbits : 16 * b * f.bits = 8 * (2 * f.bits * b) := by ring
  rw [laneByte, hbits, Nat.mul_div_cancel_left _ (by decide)]

/-- A block of a scaled format whose lanes lie in the cache lies in it with its scale byte. -/
theorem block_in {f : Fmt} (hf : f.scaled = true) {a sa : Nat} (hin : ∀ l ∈ lanes, laneIn f a sa l = true) (hb : b < 8) :
    a + 2 * f.bits * b + 2 * f.bits ≤ ocSize ∧ sa + b < ocSize := by
  have hlast := hin 127 (mem_lanes.2 (by decide))
  simp only [laneIn, hf, ocOk, Bool.not_true, Bool.false_or, Bool.and_eq_true, decide_eq_true_eq] at hlast
  obtain ⟨hlane, hscale⟩ := hlast
  cases f with
  | w32 => cases hf
  | kw16 => cases hf
  | kq8 =>
    have hlane : a + 127 * 8 / 8 + 15 / 8 ≤ ocSize := hlane
    have hbits : Fmt.bits .kq8 = 8 := rfl
    rw [hbits]
    omega
  | kq4 =>
    have hlane : a + 127 * 4 / 8 + 11 / 8 ≤ ocSize := hlane
    have hbits : Fmt.bits .kq4 = 4 := rfl
    rw [hbits]
    omega

theorem VCx.blockConv_congr (y : VCx) (k : W32) (fine step i0 : Nat) {val val' : Nat → W32}
    (h : ∀ i, i < 16 → val (16 * b + i) = val' (16 * b + i)) :
    y.blockConv c k fine step i0 b val = y.blockConv c k fine step i0 b val' := by
  have hsrc : ((upTo 16).map fun i => srcW32 (val (16 * b + i))) = (upTo 16).map fun i => srcW32 (val' (16 * b + i)) :=
    List.map_congr_left fun i hi => congrArg srcW32 (h i (List.mem_range.1 hi))
  rw [VCx.blockConv, hsrc]
  rfl

theorem vst_scaled_runs (hfront : vecFront s g.val x win q 5 1 u) (hd : vecField win (bits q.w.toNat 12 8))
    (hsa : scaField (bits q.w.toNat 20 8)) (hsb : scaField (bits q.w.toNat 28 8)) (halign : asNat q.sA % 64 = 0)
    (hdec : cvcDecode (bits q.w.toNat 56 8) = some c) (hscaled : c.fmt.scaled = true)
    (hmz : bit q.w.toNat 11 = false) (hpair : bits q.w.toNat 20 8 ≠ 0x9F) (hindex : asNat q.sB % 16 = 0)
    (hbind : s.bindIn x (bits q.w.toNat 36 8) = true) (hslot : s.slotOk (bits q.w.toNat 44 12) x.ctx = true)
    (hin : ∀ l ∈ lanes, laneIn c.fmt (asNat q.sA) (asNat q.sA1) l = true) (hb : b < 8)
    (hmask : ∀ l, l < 128 → lit s g.val (bits q.w.toNat 8 3) l = decide (l / 16 = b))
    (hgo : (ocReads g.val (if win then (activeLanes s g.val q.w.toNat).map fun l =>
        ((s.vec g.val).wbase + 512 * bits q.w.toNat 12 8 + 4 * l, 4) else []) >>= fun _ =>
      ocReads g.val (if c.given then [(asNat q.sA1 + b, 1)] else []) >>= fun _ =>
      coarseUse g.val uVector x [(true, bits q.w.toNat 36 8)]).go u = (.ok cs, v))
    (hr : r = (s.vecCx g.val x q).blockConv c (cs.getD 0 0) (leNat (s.ocRead g.val (asNat q.sA1 + b) 1)) (s.stepNo x.ctx)
      (asNat q.sB) b (vlane s g.val win (bits q.w.toNat 12 8))) :
    runsTo (.vst g) s fun t => vecOnly (left s v) t g.val x false ∧ t.eng.vec = u.eng.vec ∧
      reported v t x q.w.toNat true ∧ ocChanged v t g.val 0 ocSize ∧
      (∀ k, (k < ocKey g.val (asNat q.sA + 2 * c.fmt.bits * b) ∨
          ocKey g.val (asNat q.sA + 2 * c.fmt.bits * (b + 1)) ≤ k) → k ≠ ocKey g.val (asNat q.sA1 + b) →
        tget 0 t.mem.oc k = tget 0 s.mem.oc k) ∧
      (asNat q.sA1 + b < asNat q.sA + 2 * c.fmt.bits * b ∨ asNat q.sA + 2 * c.fmt.bits * (b + 1) ≤ asNat q.sA1 + b →
        t.ocRead g.val (asNat q.sA + 2 * c.fmt.bits * b) (2 * c.fmt.bits) = packCodes c.fmt r.1) ∧
      (∀ k, r.2.1 = some k → tget 0 t.mem.oc (ocKey g.val (asNat q.sA1 + b)) = BitVec.ofNat 8 k) := by
  have hwin : (s.vecCx g.val x q).window = win := hfront.window
  have hkept : VecKept u v := ((ocReads_keeps_vec _ _).bind fun _ => (ocReads_keeps_vec _ _).bind fun _ =>
    coarseUse_keeps_vec _ _ _ _).ok hgo (.refl u)
  rw [← VCx.slotReads_eq hfront] at hgo
  obtain ⟨n, k, u', r', hkept', hr', hrun⟩ := go_vVst_scaled (c := s.vecCx g.val x q) (b := b)
    (fun l hl => (s.vecCx_on g.val x q (by rw [hfront.class_eq]; decide) hl).trans (hmask l hl)) hdec hscaled hmz
    (by rw [hwin]; exact hd) hsa hsb halign hpair hindex ((hfront.bindIn _ _).trans hbind)
    ((hfront.slotOk _ _).trans hslot) hin hb hgo
  have hsame : r' = r := by
    rw [hr', hr, hkept.stepNo, hkept.ocRead, hfront.stepNo, hfront.ocRead]
    refine VCx.blockConv_congr _ _ _ _ _ fun i hi => ?_
    rw [laneAt_vecLanes u' (s.vecCx g.val x q) _ (by rw [hkept'.vec]; exact hfront.wbase.symm) (by omega), hkept'.vlane,
      hwin]
    exact hfront.vlane _ _
  rw [hsame, laneByte_block] at hrun
  have hlen : (packCodes c.fmt r.1).length = 2 * c.fmt.bits := by rw [hr]; exact VCx.packed_length hscaled _ _ _ _ _ _ _
  have hnext : 2 * c.fmt.bits * (b + 1) = 2 * c.fmt.bits * b + 2 * c.fmt.bits := Nat.mul_succ _ _
  obtain ⟨hpin, hqin⟩ := block_in hscaled hin hb
  have hoc : v.mem.oc = s.mem.oc := hkept.oc.trans (congrArg Mem.oc hfront.mem_eq)
  have hmem : ∀ n, (wordDone s ((v.storeBlock g.val (asNat q.sA + 2 * c.fmt.bits * b) (asNat q.sA1 + b)
      (packCodes c.fmt r.1) r.2.1).reportIf (s.vecCx g.val x q) true k) g.val x n).mem =
      (v.storeBlock g.val (asNat q.sA + 2 * c.fmt.bits * b) (asNat q.sA1 + b) (packCodes c.fmt r.1) r.2.1).mem := fun n =>
    (wordDone_mem _ _ _).trans (State.reportIf_mem _ _ _ _)
  refine runsTo_of_vecFront hfront rfl (by decide) hrun fun n => ⟨?_, ?_, ?_, ?_, fun j hj hq => ?_, fun hq => ?_,
    fun j hj => ?_⟩
  · exact ((v.storeBlock_wrote _ _ _ _ _).trans (State.reportIf_wrote _ _ _ _)).vecOnly s n
  · exact (congrArg Eng.vec (State.reportIf_eng _ _ _ _)).trans
      (congrArg Eng.vec ((v.storeBlock_eng _ _ _ _ _).trans hkept.eng))
  · exact reported_reportIf v g.val (c := s.vecCx g.val x q) (v.storeBlock_train _ _ _ _ _) _ _ s n
  · exact (ocChanged_storeBlock v _ _ _ _ _ (by rw [hlen]; exact hpin) hqin).congr (hmem n)
  · rw [hnext] at hj
    refine (congrArg (fun m => tget 0 (Mem.oc m) j) (hmem n)).trans ((v.storeBlock_out _ _ _ _ _ ?_ hq).trans (by rw [hoc]))
    rw [hlen, ocKey_add, Nat.add_assoc]
    exact hj
  · rw [hnext] at hq
    refine (congrArg (fun m => readBytes 0 (Mem.oc m) _ _) (hmem n)).trans (v.storeBlock_codes _ _ _ _ _ hlen ?_)
    rw [Nat.add_assoc]
    exact hq
  · exact (congrArg (fun m => tget 0 (Mem.oc m) _) (hmem n)).trans (v.storeBlock_scale _ _ _ _ _ hj)

end

/-- Settles O37: each form of VLD and VST runs through its checks to one written state; what it reads is what stood
there before the word was taken, since reading the coarse scale keeps the engines, the tallies and the operand caches. -/
theorem vectorLoadsAndStores : Obligations.VectorLoadsAndStores := by
  rintro g x win q w s u a sa i0 rfl rfl rfl rfl hsa hsb hd halign
  refine ⟨fun f cs v hfront haux hf hscaled hslot hin hgo => ?_, fun c hfront hdec hin =>
    ⟨fun hplain hslot => vst_plain_runs hfront hd hsa hsb halign hdec hplain hslot hin,
      fun cs v b r hscaled hmz hpair hindex hbind hslot hb hmask hgo hr =>
        vst_scaled_runs hfront hd hsa hsb halign hdec hscaled hmz hpair hindex hbind hslot hin hb hmask hgo hr⟩⟩
  have hact := s.vecCx_active g.val x q (by rw [hfront.class_eq]; decide)
  have hval : (fun l => if f.scaled = true ∧ coarseOk (cs.getD 0 0) = false then w32NaN else
      toW32 (srcElem f (elemAt s g.val f (q.sA.toNat % 2 ^ 32) l)
        (if f.scaled then leNat (s.ocRead g.val (q.sA1.toNat % 2 ^ 32 + l / 16) 1) else 0) (cs.getD 0 0))) =
      loadVal s g.val f (asNat q.sA) (asNat q.sA1) (cs.getD 0 0) := by
    funext l
    simp only [loadVal, Bool.and_eq_true, Bool.not_eq_true', asNat]
  rw [hval]
  exact vld_runs hfront hd hsa hsb halign haux hf hscaled hslot hin (by rw [VCx.loadReads, hact]; exact hgo)

end Sys2Proof.Machine

/-! PROOFS about the matrix engines (03): the segment stack and the tree T, the engine words and their faults, and
the sums of vector words. -/
namespace Sys2Proof.Machine

/-! ### The tree T (03 R59) -/

/-- The largest power of two below the length of a list of two or more halves it, or more. -/
theorem splitPoint {n : Nat} (h : 2 ≤ n) : 2 ^ Nat.log2 (n - 1) < n ∧ n ≤ 2 ^ (Nat.log2 (n - 1) + 1) := by
  have hlow : 2 ^ Nat.log2 (n - 1) ≤ n - 1 := Nat.log2_self_le (by omega)
  have hhigh : n - 1 < 2 ^ (Nat.log2 (n - 1) + 1) := Nat.lt_log2_self
  omega

theorem treeSum_cons₂ (f : Nat) (x y : W32) (r : List W32) : treeSum (f + 1) (x :: y :: r) =
    w32Add (treeSum f ((x :: y :: r).take (2 ^ Nat.log2 (r.length + 1))))
      (treeSum f ((x :: y :: r).drop (2 ^ Nat.log2 (r.length + 1)))) := rfl

/-- A depth that reaches every leaf is enough. -/
theorem treeSum_succ (f : Nat) (l : List W32) (h : l.length ≤ 2 ^ f) : treeSum (f + 1) l = treeSum (f + 2) l := by
  induction f generalizing l with
  | zero =>
    match l, h with
    | [], _ => rfl
    | [_], _ => rfl
    | _ :: _ :: r, h => simp at h
  | succ f ih =>
    match l, h with
    | [], _ => rfl
    | [_], _ => rfl
    | x :: y :: r, h =>
      obtain ⟨hlow, hhigh⟩ := splitPoint (n := r.length + 2) (by omega)
      simp only [List.length_cons, Nat.add_one_sub_one] at h hlow hhigh
      have hp : 2 ^ Nat.log2 (r.length + 1) ≤ 2 ^ f :=
        Nat.pow_le_pow_right (by decide) (Nat.lt_succ_iff.1 ((Nat.pow_lt_pow_iff_right (by decide)).1 (hlow.trans_le h)))
      rw [treeSum_cons₂, treeSum_cons₂, ih _ ((List.length_take_le _ _).trans hp), ih _ ?_]
      rw [List.length_drop, List.length_cons, List.length_cons]
      omega

theorem sumT_split {l : List W32} (h : 2 ≤ l.length) (hmax : l.length ≤ 65536) :
    sumT l = w32Add (sumT (l.take (2 ^ Nat.log2 (l.length - 1)))) (sumT (l.drop (2 ^ Nat.log2 (l.length - 1)))) := by
  match l, h with
  | x :: y :: r, h =>
    have hdepth : ∀ k : List W32, k.length ≤ (x :: y :: r).length → treeSum 63 k = sumT k := fun k hk =>
      treeSum_succ 62 k (hk.trans (hmax.trans (by decide)))
    refine (treeSum_cons₂ 63 x y r).trans ?_
    rw [hdepth _ (List.length_take_le' _ _), hdepth _ (by simp)]
    rfl

/-- T over a list that a full tree of `2 ^ k` leaves begins. -/
theorem sumT_append {a b : List W32} {k : Nat} (ha : a.length = 2 ^ k) (hb : 0 < b.length) (hle : b.length ≤ 2 ^ k)
    (hmax : (a ++ b).length ≤ 65536) : sumT (a ++ b) = w32Add (sumT a) (sumT b) := by
  have hlen : (a ++ b).length = 2 ^ k + b.length := by rw [List.length_append, ha]
  have hpos : 0 < 2 ^ k := Nat.two_pow_pos k
  have hlog : Nat.log2 ((a ++ b).length - 1) = k :=
    (Nat.log2_eq_iff (by omega)).2 ⟨by omega, by rw [pow_succ]; omega⟩
  rw [sumT_split (by omega) hmax, hlog, List.take_left' ha, List.drop_left' ha]

/-! ### Cells of a tile -/

theorem tget_append {α : Type} (d : α) (a b : Tbl α) (k : Nat) (h : ∀ e ∈ a, e.1 ≠ k) :
    tget d (a ++ b) k = tget d b k := by
  induction a with
  | nil => rfl
  | cons e r ih =>
    rw [List.forall_mem_cons] at h
    simp only [List.cons_append, tget, if_neg (Ne.symm h.1), ih h.2]

theorem tget_append_left {α : Type} (d : α) (a b : Tbl α) (k : Nat) (h : ∀ e ∈ b, e.1 ≠ k) :
    tget d (a ++ b) k = tget d a k := by
  induction a with
  | nil => simpa using tget_append d b [] k h
  | cons e r ih => simp only [List.cons_append, tget, ih]

/-- Row `i` of a tile built from a function: the cells that are not +0. -/
def tileRow (cols i : Nat) (f : Nat → W32) : Tile :=
  (upTo cols).filterMap fun j => if f j = 0#32 then none else some (cell i j, f j)

theorem tileRow_succ (cols i : Nat) (f : Nat → W32) : tileRow (cols + 1) i f =
    tileRow cols i f ++ if f cols = 0#32 then [] else [(cell i cols, f cols)] := by
  simp only [tileRow, upTo, List.range_succ, List.filterMap_append]
  by_cases h : f cols = 0#32 <;> simp [h]

theorem tileRow_keys {cols i : Nat} {f : Nat → W32} {e : Nat × W32} (h : e ∈ tileRow cols i f) :
    ∃ j, j < cols ∧ e.1 = cell i j := by
  obtain ⟨j, hj, he⟩ := List.mem_filterMap.1 h
  split at he
  · cases he
  · cases he
    exact ⟨j, List.mem_range.1 hj, rfl⟩

theorem tget_tileRow {cols i j : Nat} (f : Nat → W32) (hj : j < cols) :
    tget 0#32 (tileRow cols i f) (cell i j) = f j := by
  induction cols with
  | zero => omega
  | succ c ih =>
    rw [tileRow_succ]
    by_cases hlast : j = c
    · subst hlast
      rw [tget_append _ _ _ _ fun e he => by obtain ⟨j', hj', hkey⟩ := tileRow_keys he; simp only [hkey, cell]; omega]
      by_cases h : f j = 0#32 <;> simp [h, tget]
    · rw [tget_append_left, ih (by omega)]
      intro e he
      split at he
      · cases he
      · rw [List.mem_singleton.1 he]; simp only [cell]; omega

theorem mkTile_succ (rows cols : Nat) (f : Nat → Nat → W32) :
    mkTile (rows + 1) cols f = mkTile rows cols f ++ tileRow cols rows (f rows) := by
  simp only [mkTile, tileRow, upTo, List.range_succ, List.flatMap_append, List.flatMap_singleton]

theorem mkTile_keys {rows cols : Nat} {f : Nat → Nat → W32} {e : Nat × W32} (h : e ∈ mkTile rows cols f) :
    ∃ i j, i < rows ∧ j < cols ∧ e.1 = cell i j := by
  obtain ⟨i, hi, he⟩ := List.mem_flatMap.1 h
  obtain ⟨j, hj, hkey⟩ := tileRow_keys (f := f i) he
  exact ⟨i, j, List.mem_range.1 hi, hj, hkey⟩

/-- A tile built from a function holds its value in every cell. -/
theorem tileAt_mkTile {rows cols i j : Nat} (f : Nat → Nat → W32) (hcols : cols ≤ 64) (hi : i < rows) (hj : j < cols) :
    tileAt (mkTile rows cols f) i j = f i j := by
  unfold tileAt
  induction rows with
  | zero => omega
  | succ r ih =>
    rw [mkTile_succ]
    by_cases hlast : i = r
    · subst hlast
      rw [tget_append _ _ _ _ fun e he => by
        obtain ⟨i', j', hi', hj', hkey⟩ := mkTile_keys he; simp only [hkey, cell]; omega]
      exact tget_tileRow _ hj
    · rw [tget_append_left _ _ _ _ fun e he => by
        obtain ⟨j', hj', hkey⟩ := tileRow_keys he; simp only [hkey, cell]; omega]
      exact ih (by omega)

section
variable {m : MatEng} {i j : Nat}

theorem tileAt_tileMap2 (a b : Tile) (hcols : m.ncols ≤ 64) (hi : i < m.mrows) (hj : j < m.ncols) :
    tileAt (m.tileMap2 a b) i j = w32Add (tileAt a i j) (tileAt b i j) := tileAt_mkTile _ hcols hi hj

end

/-! ### The segment stack (03 R58–R60) -/

/-- A segment stack, top first, holds in cell (i, j) the values `vs`: each entry is T over a run of them, the runs
follow one another up to the top, and their lengths are powers of two that rise strictly from the top, from `2 ^ b`
on. -/
def stackHolds (i j : Nat) : Nat → List (Nat × Tile) → List W32 → Prop
  | _, [], vs => vs = []
  | b, (n, t) :: r, vs => ∃ k us c, b ≤ k ∧ n = 2 ^ k ∧ c.length = 2 ^ k ∧ tileAt t i j = sumT c ∧ vs = us ++ c ∧
      stackHolds i j (k + 1) r us

section
variable {m : MatEng} {i j b f k n : Nat} {r st : List (Nat × Tile)} {t : Tile} {us vs c : List W32}

theorem stackHolds.mono {b' : Nat} (h : stackHolds i j b st vs) (hb : b' ≤ b) : stackHolds i j b' st vs := by
  match st with
  | [] => exact h
  | (n, t) :: r =>
    obtain ⟨k, us, c, hk, hrest⟩ := h
    exact ⟨k, us, c, hb.trans hk, hrest⟩

/-- A stack of `n` entries holds at least as many values as its smallest sizes add up to. -/
theorem stackHolds.le_length (h : stackHolds i j b st vs) : 2 ^ b * (2 ^ st.length - 1) ≤ vs.length := by
  induction st generalizing b vs with
  | nil => simp
  | cons e r ih =>
    obtain ⟨k, us, c, hk, -, hc, -, rfl, hr⟩ := h
    have hrest := ih hr
    have hone : 2 ^ (r.length + 1) - 1 = 2 * (2 ^ r.length - 1) + 1 := by
      have := Nat.two_pow_pos r.length
      rw [pow_succ]
      omega
    calc 2 ^ b * (2 ^ (e :: r).length - 1)
        _ ≤ 2 ^ k * (2 ^ (r.length + 1) - 1) := Nat.mul_le_mul_right _ (Nat.pow_le_pow_right (by decide) hk)
        _ = 2 ^ (k + 1) * (2 ^ r.length - 1) + 2 ^ k := by rw [hone, pow_succ]; ring
        _ ≤ (us ++ c).length := by rw [List.length_append, hc]; omega

/-- A stack of no more than 65,536 values has no more than 16 entries (03 R60). -/
theorem stackHolds.length_le (h : stackHolds i j 0 st vs) (hvs : vs.length ≤ 65536) : st.length ≤ 16 := by
  by_contra hlong
  have hpow : 2 ^ 17 ≤ 2 ^ st.length := Nat.pow_le_pow_right (by decide) (by omega)
  have hlen := h.le_length
  omega

/-- An entry put on a stack whose sizes are no smaller merges down to a stack that holds its values too. -/
theorem stackHolds_merge (hcols : m.ncols ≤ 64) (hi : i < m.mrows) (hj : j < m.ncols) (hb : b ≤ k)
    (hc : c.length = 2 ^ k) (ht : tileAt t i j = sumT c) (hr : stackHolds i j k r us)
    (hfuel : (us ++ c).length ≤ 2 ^ (k + f)) (hmax : (us ++ c).length ≤ 65536) :
    stackHolds i j b (m.merge f ((2 ^ k, t) :: r)) (us ++ c) := by
  induction f generalizing k t r us c with
  | zero =>
    match r, hr with
    | [], hr => exact ⟨k, us, c, hb, rfl, hc, ht, rfl, hr⟩
    | (n, x) :: r', ⟨k', us', c', hk, _, hc', _, hus, _⟩ =>
      have hpow : 2 ^ k ≤ 2 ^ k' := Nat.pow_le_pow_right (by decide) hk
      have hpos := Nat.two_pow_pos k
      simp only [hus, List.length_append, hc, hc', Nat.add_zero] at hfuel
      omega
  | succ f ih =>
    match r, hr with
    | [], hr => exact ⟨k, us, c, hb, rfl, hc, ht, rfl, hr⟩
    | (n, x) :: r', ⟨k', us', c', hk, hn, hc', hx, hus, hr'⟩ =>
      subst hn hus
      by_cases heq : k = k'
      · subst heq
        have hmerge : m.merge (f + 1) ((2 ^ k, t) :: (2 ^ k, x) :: r') =
            m.merge f ((2 ^ (k + 1), m.tileMap2 x t) :: r') := by rw [pow_succ']; exact if_pos rfl
        rw [List.append_assoc] at hfuel hmax ⊢
        rw [hmerge]
        refine ih (hb.trans (Nat.le_succ k)) ?_ ?_ hr' (hfuel.trans_eq (by congr 1; omega)) hmax
        · rw [List.length_append, hc, hc', pow_succ]; omega
        · rw [tileAt_tileMap2 _ _ hcols hi hj, hx, ht,
            sumT_append hc' (hc ▸ Nat.two_pow_pos k) hc.le (by simp only [List.length_append] at hmax ⊢; omega)]
      · have hne : ¬ 2 ^ k = 2 ^ k' := fun h => heq (Nat.pow_right_injective le_rfl h)
        have hmerge : m.merge (f + 1) ((2 ^ k, t) :: (2 ^ k', x) :: r') = (2 ^ k, t) :: (2 ^ k', x) :: r' := if_neg hne
        rw [hmerge]
        exact ⟨k, us' ++ c', c, hb, rfl, hc, ht, rfl, k', us', c', by omega, rfl, hc', hx, rfl, hr'⟩

/-- Folding a stack adds up all that it holds: the shorter run is always the right part of T. -/
theorem foldAll_holds (hcols : m.ncols ≤ 64) (hi : i < m.mrows) (hj : j < m.ncols) (hc : 0 < c.length)
    (hle : c.length ≤ 2 ^ b) (ht : tileAt t i j = sumT c) (hr : stackHolds i j b r us) (hf : r.length ≤ f)
    (hmax : (us ++ c).length ≤ 65536) :
    ∃ n' t', m.foldAll f ((n, t) :: r) = [(n', t')] ∧ tileAt t' i j = sumT (us ++ c) := by
  induction r generalizing f n t us c b with
  | nil =>
    cases (show us = [] from hr)
    exact ⟨n, t, by cases f <;> rfl, ht⟩
  | cons e r' ih =>
    obtain ⟨k, us', c', hk, -, hc', hx, rfl, hr'⟩ := hr
    obtain ⟨f, rfl⟩ : ∃ f', f = f' + 1 := ⟨f - 1, by simp only [List.length_cons] at hf; omega⟩
    have hck : c.length ≤ 2 ^ k := hle.trans (Nat.pow_le_pow_right (by decide) hk)
    rw [List.append_assoc] at hmax ⊢
    refine ih (by simp [hc]) ?_ ?_ hr' (Nat.le_of_succ_le_succ hf) hmax
    · rw [List.length_append, hc', pow_succ]; omega
    · rw [tileAt_tileMap2 _ _ hcols hi hj, hx, ht, sumT_append hc' hc hck (by simp only [List.length_append] at hmax ⊢; omega)]

/-- An engine between segments, of a tile with cell (i, j), whose stack holds `vs` there. -/
structure Summed (m : MatEng) (i j : Nat) (vs : List W32) : Prop where
  blk : m.blk = 0
  cols : m.ncols ≤ 64
  row : i < m.mrows
  col : j < m.ncols
  held : stackHolds i j 0 m.stack vs

/-- The sums of one segment pushed on the stack. -/
def MatEng.pushTile (m : MatEng) (t : Tile) : MatEng := MatEng.push { m with acc := t, blk := 1 }

theorem Summed.pushTile (h : Summed m i j vs) (t : Tile) (hmax : vs.length < 65536) :
    Summed (m.pushTile t) i j (vs ++ [tileAt t i j]) := by
  refine ⟨rfl, h.cols, h.row, h.col, ?_⟩
  exact stackHolds_merge (m := { m with acc := t, blk := 1 }) (k := 0) h.cols h.row h.col le_rfl rfl rfl h.held
    (by simp only [List.length_append, List.length_singleton]; omega)
    (by simp only [List.length_append, List.length_singleton]; omega)

theorem Summed.pushTiles (h : Summed m i j vs) (ts : List Tile) (hmax : vs.length + ts.length ≤ 65536) :
    Summed (ts.foldl MatEng.pushTile m) i j (vs ++ ts.map fun t => tileAt t i j) := by
  induction ts generalizing m vs with
  | nil => simpa using h
  | cons t r ih =>
    simp only [List.length_cons] at hmax
    have hall := ih (h.pushTile t (by omega)) (by simp only [List.length_append, List.length_singleton]; omega)
    rwa [List.append_assoc] at hall

/-- An engine between segments folds its stack to T over what the stack holds. -/
theorem Summed.folded (h : Summed m i j vs) (hpos : 0 < vs.length) (hmax : vs.length ≤ 65536) :
    tileAt m.folded i j = sumT vs := by
  have hpush : m.push = m := if_pos h.blk
  have hheld := h.held
  have hlen := hheld.length_le hmax
  rw [MatEng.folded, hpush]
  rcases hst : m.stack with _ | ⟨⟨n, t⟩, r⟩
  · rw [hst] at hheld
    cases (show vs = [] from hheld)
    cases hpos
  · rw [hst] at hheld hlen
    obtain ⟨k, us, c, -, -, hc, ht, rfl, hr⟩ := hheld
    obtain ⟨n', t', hfold, ht'⟩ := foldAll_holds (m := m) (n := n) (f := 16) h.cols h.row h.col
      (hc ▸ Nat.two_pow_pos k) (hc.trans_le (Nat.pow_le_pow_right (by decide) (Nat.le_succ k))) ht hr
      (by simp only [List.length_cons] at hlen; omega) hmax
    simp only [hfold, ht']

end

/-- Settles O33: a segment pushed keeps the stack one of full runs of T, and folding takes the shorter run as the
right part each time. -/
theorem segmentStackIsTheTree : Obligations.SegmentStackIsTheTree := by
  refine ⟨⟨rfl, fun _ => rfl, fun l h hmax => ?_⟩, fun m ts i j hstack hblk _ hcols hi hj hpos hmax => ?_⟩
  · obtain ⟨hlow, hhigh⟩ := splitPoint h
    exact ⟨Nat.log2 (l.length - 1), hlow, hhigh, sumT_split h hmax⟩
  · have hempty : Summed m i j [] := ⟨hblk, hcols, hi, hj, by rw [hstack]; rfl⟩
    have hall := hempty.pushTiles ts (by simpa using hmax)
    exact hall.folded (by simpa using hpos) (by simpa using hmax)

end Sys2Proof.Machine

namespace Sys2Proof.Machine

/-! ### Taking an engine word (03 R64, R65, R74) -/

section
variable {s : State} {g e op : Nat} {x : Inst} {q : MWord} {m : MatEng}

/-- The word at the front runs from the state with it taken. -/
theorem matFront.matWord (h : matFront s g e x q op m) (hlow : 1 ≤ op) (hhigh : op ≤ 5)
    (f : State → Inst → MWord → MatEng → State) : s.matWord g e op f = f (s.setMat (matIdx g e) m) x q m := by
  obtain ⟨-, hrun, -, ⟨r, hq, rfl⟩, hop, hzero, hheld⟩ := h
  have hlegal : ¬ (op = 0 ∨ 5 < op) := by omega
  simp only [State.matWord, hrun, hq, hop, hzero, hheld, if_neg hlegal, bne_self_eq_false, Bool.or_self,
    Bool.false_eq_true, if_false]

theorem matFront.ctx_lt (h : matFront s g e x q op m) : x.ctx < 256 := by
  obtain ⟨-, -, hlt, -⟩ := h
  exact hlt

theorem matFront.op_eq (h : matFront s g e x q op m) : bits q.w.toNat 0 4 = op := by
  obtain ⟨-, -, -, -, hop, -⟩ := h
  exact hop

theorem matFront.exec_eq (h : matFront s g e x q op m) {i : Instr} {f : State → State}
    (hi : exec i s = work s f) : exec i s = .next (left s (f s)) := hi.trans (work_left s f h.1)

end

/-! ### Well-formed words (03 R66–R70) -/

section
variable {s : State} {g w : Nat} {x : Inst} {m : MatEng}

theorem matFormed_macc (hop : bits w 0 4 = 1) : matFormed s x w m ↔ ¬ (bits w 8 2 = 3 ∨ bits w 10 2 = 3 ∨
    segCount (bits w 24 16) ≤ bits w 40 16 ∨ bits w 56 8 != 0 ∨ bits w 96 32 != 0) := by
  simp [matFormed, hop]

theorem matFormed_mma (hop : bits w 0 4 = 2) : matFormed s x w m ↔ mmaReserved w = false := by
  simp [matFormed, hop, mmaReserved]

theorem matFormed_mpart (hop : bits w 0 4 = 3) : matFormed s x w m ↔ ¬ (bits w 8 8 != 0 ∨ bits w 42 86 != 0 ∨
    !(ocOk (64 * bits w 16 14) partialBytes) ∨ !(s.slotOk (bits w 30 12) x.ctx)) := by
  simp [matFormed, hop, ocOk]

theorem matFormed_mcomb (hop : bits w 0 4 = 4) : matFormed s x w m ↔
    ¬ (bits w 8 8 != 0 ∨ bits w 30 98 != 0 ∨ !(ocOk (64 * bits w 16 14) partialBytes)) := by
  simp [matFormed, hop, ocOk]

/-- What makes a MOUT word to format `c` ill formed. -/
def moutBad (s : State) (x : Inst) (w : Nat) (m : MatEng) (c : Cvc) : Bool :=
  let np := (m.outLen (bits w 56 1) + 15) / 16
  bits w 57 7 != 0 || bits w 88 40 != 0 || !(ocOk (64 * bits w 16 14) (np * panelBytes c.fmt))
    || (c.fmt.scaled && !(ocOk (64 * bits w 30 14) (64 * np))) || !(s.slotOk (bits w 44 12) x.ctx)
    || (m.fa != 2 && !(s.bindIn x (bits w 64 8))) || (m.fb != 2 && !(s.bindIn x (bits w 72 8)))
    || (c.fmt.scaled && !(s.bindIn x (bits w 80 8)))

theorem matFormed_mout (hop : bits w 0 4 = 5) : matFormed s x w m ↔
    ∃ c, cvcDecode (bits w 8 8) = some c ∧ moutBad s x w m c = false := by
  simp only [matFormed, hop, moutBad, ocOk, Bool.or_eq_false_iff, Bool.and_eq_false_imp, bne_eq_false_iff_eq,
    Bool.not_eq_false', decide_eq_true_eq, bne_iff_ne, ne_eq]
  constructor
  · rintro ⟨c, _, hdec, rfl, h57, h88, hde, hscaled, hslot, ha, hb⟩
    exact ⟨c, hdec, ⟨⟨⟨⟨⟨⟨h57, h88⟩, hde⟩, fun h => (hscaled h).1⟩, hslot⟩, ha⟩, hb⟩, fun h => (hscaled h).2⟩
  · rintro ⟨c, hdec, ⟨⟨⟨⟨⟨⟨h57, h88⟩, hde⟩, hds⟩, hslot⟩, ha⟩, hb⟩, hbind⟩
    exact ⟨c, _, hdec, rfl, h57, h88, hde, fun h => ⟨hds h, hbind h⟩, hslot, ha, hb⟩

/-! ### Words in their turn (03 R61–R63, R67) -/

theorem matInTurn_mma (hop : bits w 0 4 = 2) : matInTurn s g w m ↔ m.mmaOutOfTurn w = false := by
  simp [matInTurn, hop, MatEng.mmaOutOfTurn, and_assoc]

theorem matInTurn_mpart (hop : bits w 0 4 = 3) : matInTurn s g w m ↔ ¬ (m.st = .idle ∨ !m.spanOk) := by
  simp [matInTurn, hop]

/-- The header `h` of a partial tile is that of a tile of the engine's accumulation (03 R62, R68). -/
def MatEng.sameTile (m : MatEng) (h : List Byte) : Bool :=
  fieldAt h 0 4 == m.tag && segCount (fieldAt h 4 2) == m.nseg && fieldAt h 10 1 == place m.fa 0 2 + place m.fb 2 2
    && fieldAt h 11 1 + 1 == m.mrows && fieldAt h 12 1 + 1 == m.ncols

theorem matInTurn_mcomb (hop : bits w 0 4 = 4) {h : List Byte} (hh : h = s.ocRead g (64 * bits w 16 14) 64) :
    matInTurn s g w m ↔ ¬ (m.st = .idle ∨ !m.spanOk ∨ !(m.sameTile h) ∨
      !(siblings m.seg0 m.span (fieldAt h 6 2) (segCount (fieldAt h 8 2)) m.nseg)) := by
  subst hh
  simp [matInTurn, hop, MatEng.sameTile, and_assoc]

theorem matInTurn_mout (hop : bits w 0 4 = 5) : matInTurn s g w m ↔
    ¬ (m.st = .idle ∨ !m.spanOk ∨ m.seg0 != 0 ∨ m.span != m.nseg ∨ !m.endK) := by
  simp [matInTurn, hop]

end
end Sys2Proof.Machine

namespace Sys2Proof.Machine

/-! ### What each engine word comes to -/

theorem State.reading_ok {s v : State} {g unit : Nat} {x : Inst} {l : List (Nat × Nat)}
    (h : (ocReads g l).go s = (.ok (), v)) (f : State → State) : s.reading g unit x l f = f v := by
  rw [State.reading, h]

/-- The engine as MACC leaves it (03 R67). -/
def MatEng.openedBy (m : MatEng) (w : Nat) : MatEng :=
  { st := .opened, fa := bits w 8 2, fb := bits w 10 2, mrows := bits w 12 6 + 1, ncols := bits w 18 6 + 1,
    nseg := segCount (bits w 24 16), seg0 := bits w 40 16, tag := bits w 64 32, fresh := true, queue := m.queue }

/-- The engine as an MMA whose work is suppressed leaves it but for the values in its tiles (07 R214). -/
def MatEng.skipBlocks (m : MatEng) (w n : Nat) : MatEng :=
  { (upTo n).foldl (fun m _ => m.addBlock []) m with endK := bits w 72 5 != 0 }

/-- The engine as MCOMB leaves it with the partial tile at `src`, of header `h` (03 R62). -/
def MatEng.combined (m : MatEng) (s : State) (g src : Nat) (h : List Byte) : MatEng :=
  let n := segCount (fieldAt h 8 2)
  { m with
    st := .folded
    endK := m.endK || bit (fieldAt h 13 1) 0
    seg0 := Nat.min m.seg0 (fieldAt h 6 2)
    pushed := m.span + n
    blk := 0
    acc := []
    stack := [(m.span + n, mkTile m.mrows m.ncols fun i j =>
      w32Add (tileAt m.folded i j) (w32At (s.ocRead g (src + 64 + 4 * cell i j) 4) 0))] }

section
variable {s v : State} {g e : Nat} {x : Inst} {q : MWord} {m : MatEng}

section
variable (h : matFront s g e x q 1 m)
include h

theorem matFront.macc_illFormed (hf : ¬ matFormed s x q.w.toNat m) :
    s.macc g e = (s.setMat (matIdx g e) m).matFault g e false :=
  (h.matWord (by decide) (by decide) _).trans (if_pos (not_not.1 fun hn => hf ((matFormed_macc h.op_eq).2 hn)))

theorem matFront.macc_formed (hf : matFormed s x q.w.toNat m) : s.macc g e =
    ((s.setMat (matIdx g e) m).setMat (matIdx g e) (m.openedBy q.w.toNat)).matBeats g e x 2 :=
  (h.matWord (by decide) (by decide) _).trans (if_neg ((matFormed_macc h.op_eq).1 hf))

end

section
variable (h : matFront s g e x q 2 m)
include h

theorem matFront.mma_illFormed (hdone : q.done = 0) (hf : ¬ matFormed s x q.w.toNat m) :
    s.mma g e = (s.setMat (matIdx g e) m).matFault g e false := by
  rw [matFormed_mma h.op_eq, Bool.not_eq_false] at hf
  exact (h.matWord (by decide) (by decide) _).trans (if_pos (by simp [hdone, hf]))

theorem matFront.mma_outOfTurn (hdone : q.done = 0) (hf : matFormed s x q.w.toNat m)
    (ht : ¬ matInTurn s g q.w.toNat m) : s.mma g e = (s.setMat (matIdx g e) m).matFault g e true := by
  rw [matFormed_mma h.op_eq] at hf
  rw [matInTurn_mma h.op_eq, Bool.not_eq_false] at ht
  exact (h.matWord (by decide) (by decide) _).trans ((if_neg (by simp [hf])).trans (if_pos (by simp [hdone, ht])))

theorem matFront.mma_outside (hdone : q.done = 0) (hf : matFormed s x q.w.toNat m) (ht : matInTurn s g q.w.toNat m)
    (hin : m.mmaInside q.w.toNat = false) : s.mma g e = (s.setMat (matIdx g e) m).matFault g e false := by
  rw [matFormed_mma h.op_eq] at hf
  rw [matInTurn_mma h.op_eq] at ht
  exact (h.matWord (by decide) (by decide) _).trans ((if_neg (by simp [hf])).trans ((if_neg (by simp [ht])).trans
    (if_pos (by simp [hdone, hin]))))

/-- An MMA word that passes its checks, which come before its first block, does its work or has it suppressed. -/
theorem matFront.mma_passed (hf : matFormed s x q.w.toNat m) (ht : q.done = 0 → matInTurn s g q.w.toNat m)
    (hin : q.done = 0 → m.mmaInside q.w.toNat = true) : s.mma g e =
      if s.suppressed x.ctx then ((s.setMat (matIdx g e) m).freeTiles (matIdx g e)
        (m.skipBlocks q.w.toNat (bits q.w.toNat 8 8 + 1 - q.done))).matBeats g e x 1
      else (s.setMat (matIdx g e) m).reading g uMatrix x (mmaReads q.w.toNat q.done m) fun t =>
        ((t.setMat (matIdx g e) ((m.addBlock (mmaBlock t g q.w.toNat q.done m).1).mmaNext q)).incF (F.mePoison g e)
          (ofBool (mmaBlock t g q.w.toNat q.done m).2)).matBeats g e x
            (blockBeats m.fa m.fb + (if m.fresh then 6 else 0)) := by
  rw [matFormed_mma h.op_eq] at hf
  rw [matInTurn_mma h.op_eq] at ht
  exact (h.matWord (by decide) (by decide) _).trans ((if_neg (by simp [hf])).trans
    ((if_neg (by simpa using ht)).trans (if_neg (by simpa using hin))))

end

section
variable (h : matFront s g e x q 3 m)
include h

theorem matFront.mpart_illFormed (hf : ¬ matFormed s x q.w.toNat m) :
    s.mpart g e = (s.setMat (matIdx g e) m).matFault g e false :=
  (h.matWord (by decide) (by decide) _).trans (if_pos (not_not.1 fun hn => hf ((matFormed_mpart h.op_eq).2 hn)))

theorem matFront.mpart_outOfTurn (hf : matFormed s x q.w.toNat m) (ht : ¬ matInTurn s g q.w.toNat m) :
    s.mpart g e = (s.setMat (matIdx g e) m).matFault g e true :=
  (h.matWord (by decide) (by decide) _).trans ((if_neg ((matFormed_mpart h.op_eq).1 hf)).trans
    (if_pos (not_not.1 fun hn => ht ((matInTurn_mpart h.op_eq).2 hn))))

theorem matFront.mpart_inTurn (hf : matFormed s x q.w.toNat m) (ht : matInTurn s g q.w.toNat m) {t : State}
    (hv : t = ((s.setMat (matIdx g e) m).ocWrite g (64 * bits q.w.toNat 16 14) m.partialTile).setMat (matIdx g e) m.closed) :
    s.mpart g e = (t.report x.ctx (bits q.w.toNat 30 12) (t.stepNo x.ctx) m.census).matBeats g e x 137 := by
  subst hv
  exact (h.matWord (by decide) (by decide) _).trans ((if_neg ((matFormed_mpart h.op_eq).1 hf)).trans
    (if_neg ((matInTurn_mpart h.op_eq).1 ht)))

end

section
variable (h : matFront s g e x q 4 m)
include h

theorem matFront.mcomb_illFormed (hf : ¬ matFormed s x q.w.toNat m) :
    s.mcomb g e = (s.setMat (matIdx g e) m).matFault g e false :=
  (h.matWord (by decide) (by decide) _).trans (if_pos (not_not.1 fun hn => hf ((matFormed_mcomb h.op_eq).2 hn)))

theorem matFront.mcomb_outOfTurn (hf : matFormed s x q.w.toNat m) (ht : ¬ matInTurn s g q.w.toNat m)
    (hgo : (ocReads g [(64 * bits q.w.toNat 16 14, partialBytes)]).go (s.setMat (matIdx g e) m) = (.ok (), v)) :
    s.mcomb g e = v.matFault g e true := by
  have hread := (((ocReads_keeps_vec (s := s.setMat (matIdx g e) m) g _).ok hgo (.refl _)).ocRead g
    (64 * bits q.w.toNat 16 14) 64)
  refine (h.matWord (by decide) (by decide) _).trans ((if_neg ((matFormed_mcomb h.op_eq).1 hf)).trans
    ((State.reading_ok hgo _).trans (if_pos (not_not.1 fun hn => ht ((matInTurn_mcomb h.op_eq hread).2 hn)))))

theorem matFront.mcomb_inTurn (hf : matFormed s x q.w.toNat m) (ht : matInTurn s g q.w.toNat m)
    (hgo : (ocReads g [(64 * bits q.w.toNat 16 14, partialBytes)]).go (s.setMat (matIdx g e) m) = (.ok (), v)) :
    s.mcomb g e = (v.setMat (matIdx g e) (m.combined v g (64 * bits q.w.toNat 16 14)
      (v.ocRead g (64 * bits q.w.toNat 16 14) 64))).matBeats g e x 138 := by
  have hread := (((ocReads_keeps_vec (s := s.setMat (matIdx g e) m) g _).ok hgo (.refl _)).ocRead g
    (64 * bits q.w.toNat 16 14) 64)
  refine (h.matWord (by decide) (by decide) _).trans ((if_neg ((matFormed_mcomb h.op_eq).1 hf)).trans
    ((State.reading_ok hgo _).trans (if_neg ((matInTurn_mcomb h.op_eq hread).1 ht))))

end

section
variable (h : matFront s g e x q 5 m)
include h

theorem matFront.mout_illFormed (hf : ¬ matFormed s x q.w.toNat m) :
    s.mout g e = (s.setMat (matIdx g e) m).matFault g e false := by
  refine (h.matWord (by decide) (by decide) _).trans ?_
  rcases hdec : cvcDecode (bits q.w.toNat 8 8) with _ | c
  · simp only [hdec]
  · have hbad : moutBad s x q.w.toNat m c = true := by
      rw [← Bool.not_eq_false]
      exact fun hgood => hf ((matFormed_mout h.op_eq).2 ⟨c, hdec, hgood⟩)
    simp only [hdec]
    exact if_pos hbad

theorem matFront.mout_outOfTurn (hf : matFormed s x q.w.toNat m) (ht : ¬ matInTurn s g q.w.toNat m) :
    s.mout g e = (s.setMat (matIdx g e) m).matFault g e true := by
  obtain ⟨c, hdec, hgood⟩ := (matFormed_mout h.op_eq).1 hf
  refine (h.matWord (by decide) (by decide) _).trans ?_
  simp only [hdec]
  exact (if_neg (Bool.eq_false_iff.1 hgood)).trans (if_pos (not_not.1 fun hn => ht ((matInTurn_mout h.op_eq).2 hn)))

theorem matFront.mout_suppressed (hf : matFormed s x q.w.toNat m) (ht : matInTurn s g q.w.toNat m)
    (hs : s.suppressed x.ctx = true) :
    s.mout g e = ((s.setMat (matIdx g e) m).setMat (matIdx g e) m.closed).matBeats g e x 1 := by
  obtain ⟨c, hdec, hgood⟩ := (matFormed_mout h.op_eq).1 hf
  refine (h.matWord (by decide) (by decide) _).trans ?_
  simp only [hdec]
  exact (if_neg (Bool.eq_false_iff.1 hgood)).trans ((if_neg ((matInTurn_mout h.op_eq).1 ht)).trans (if_pos hs))

theorem matFront.mout_writes (hf : matFormed s x q.w.toNat m) (ht : matInTurn s g q.w.toNat m)
    (hs : s.suppressed x.ctx = false) {c : Cvc} (hdec : cvcDecode (bits q.w.toNat 8 8) = some c) {cs : List W32}
    (hgo : (ocReads g (m.outReads c (64 * bits q.w.toNat 30 14) (bits q.w.toNat 56 1)) >>= fun _ =>
      coarseUse g uMatrix x [(m.fa != 2, bits q.w.toNat 64 8), (m.fb != 2, bits q.w.toNat 72 8),
        (c.fmt.scaled, bits q.w.toNat 80 8)]).go (s.setMat (matIdx g e) m) = (.ok cs, v)) {o : OutCtl}
    (ho : o = { cvc := c, de := 64 * bits q.w.toNat 16 14, ds := 64 * bits q.w.toNat 30 14, axis := bits q.w.toNat 56 1,
                slot := bits q.w.toNat 44 12, ca := cs.getD 0 0, cb := cs.getD 1 0, cd := cs.getD 2 0 }) {t : State}
    (hv : t = (v.outTile g x.ctx m o).1.setMat (matIdx g e) m.closed) :
    s.mout g e = (t.report x.ctx (bits q.w.toNat 44 12) (t.stepNo x.ctx) (v.outTile g x.ctx m o).2).matBeats g e x
      (8 + outBeats c.fmt) := by
  subst ho hv
  obtain ⟨c', hdec', hgood⟩ := (matFormed_mout h.op_eq).1 hf
  obtain rfl : c = c' := Option.some.inj (hdec.symm.trans hdec')
  obtain ⟨_, r, hreads, hcoarse⟩ := M.go_bind_ok_iff.1 hgo
  refine (h.matWord (by decide) (by decide) _).trans ?_
  simp only [hdec]
  refine (if_neg (Bool.eq_false_iff.1 hgood)).trans ((if_neg ((matInTurn_mout h.op_eq).1 ht)).trans
    ((if_neg (Bool.eq_false_iff.1 hs)).trans ((State.reading_ok hreads _).trans ?_)))
  simp only [hcoarse]

end

end
end Sys2Proof.Machine

namespace Sys2Proof.Machine

/-! ### What the words of an engine leave (03 R72, R73) -/

section
variable {s t u v : State} {g e n : Nat} {x : Inst} {m : MatEng}

theorem State.mat_setMat_ne (s : State) {i k : Nat} (m : MatEng) (h : k ≠ i) : (s.setMat i m).mat k = s.mat k :=
  tget_tput_ne _ _ _ h

/-- State `t` is `s` but for registers and matrix engines, with memories, tallies and count of free values as given. -/
def engineWork (s t : State) (mem : Mem) (tr : Train) (c : Nat) : Prop :=
  ∃ r k, t = { s with regs := r, eng := { s.eng with mat := k }, mem := mem, train := tr, freeCtr := c }

theorem engineWork.refl (s : State) : engineWork s s s.mem s.train s.freeCtr := ⟨_, _, rfl⟩

section
variable {mem : Mem} {tr : Train} {c : Nat} (h : engineWork s t mem tr c)
include h

theorem engineWork.setMat (k : Nat) (m : MatEng) : engineWork s (t.setMat k m) mem tr c := by
  obtain ⟨r, k', rfl⟩ := h; exact ⟨_, _, rfl⟩

theorem engineWork.incF (f : Fld) (n : Nat) : engineWork s (t.incF f n) mem tr c := by
  obtain ⟨r, k, rfl⟩ := h; exact ⟨_, _, rfl⟩

theorem engineWork.setMem (mem' : Mem) : engineWork s { t with mem := mem' } mem' tr c := by
  obtain ⟨r, k, rfl⟩ := h; exact ⟨_, _, rfl⟩

theorem engineWork.setFree (c' : Nat) : engineWork s { t with freeCtr := c' } mem tr c' := by
  obtain ⟨r, k, rfl⟩ := h; exact ⟨_, _, rfl⟩

theorem engineWork.report (x slot step : Nat) (k : Census) :
    ∃ tr', tr' = (t.report x slot step k).train ∧ engineWork s (t.report x slot step k) mem tr' c := by
  obtain ⟨r, k, rfl⟩ := h; exact ⟨_, rfl, _, _, rfl⟩

/-- What a command leaves of an engine's work and its beats. -/
theorem engineWork.beats (s₀ : State) : ∃ r k, left s₀ (t.matBeats g e x n) =
    left s₀ { s with regs := r, eng := { s.eng with mat := k }, mem := mem, train := tr, freeCtr := c } := by
  obtain ⟨r, k, rfl⟩ := h; exact ⟨_, _, rfl⟩

end

/-- From `s` to `v` engine `e` of core `g` became `m`, and every other stayed, as the registers did but for the
engine's count of NaN blocks. -/
structure Engaged (s v : State) (g e : Nat) (m : MatEng) : Prop where
  mat : v.mat (matIdx g e) = m
  other : ∀ k, k ≠ matIdx g e → v.mat k = s.mat k
  field : ∀ f : Fld, f.key ≠ (F.mePoison g e).key → v.getF f = s.getF f

theorem Engaged.taken (s : State) (m : MatEng) : Engaged s (s.setMat (matIdx g e) m) g e m :=
  ⟨State.mat_setMat _ _ _, fun _ hk => State.mat_setMat_ne s m hk, fun _ _ => rfl⟩

theorem Engaged.setMat (h : Engaged s v g e m) (m' : MatEng) : Engaged s (v.setMat (matIdx g e) m') g e m' :=
  ⟨State.mat_setMat _ _ _, fun k hk => (State.mat_setMat_ne v m' hk).trans (h.other k hk),
    fun f hf => (State.setMat_getF v _ m' f).trans (h.field f hf)⟩

theorem Engaged.poison (h : Engaged s v g e m) (n : Nat) : Engaged s (v.incF (F.mePoison g e) n) g e m :=
  ⟨h.mat, h.other, fun f hf => (State.getF_incF_ne v n hf).trans (h.field f hf)⟩

/-- Engines and registers alone are looked at. -/
theorem Engaged.congr (h : Engaged s v g e m) (hmat : t.eng.mat = v.eng.mat) (hregs : t.regs = v.regs) :
    Engaged s t g e m := by
  have hget : ∀ f, t.getF f = v.getF f := fun f => by rw [State.getF, hregs]; rfl
  have hm : ∀ k, t.mat k = v.mat k := fun k => by rw [State.mat, hmat]; rfl
  exact ⟨(hm _).trans h.mat, fun k hk => (hm k).trans (h.other k hk), fun f hf => (hget f).trans (h.field f hf)⟩

/-- Counting an engine's beats sets the two counters of beats (03 R73, 16 R432). -/
theorem Engaged.beats (h : Engaged s v g e m) (hx : x.ctx < 256) (s₀ : State) :
    matSet s (left s₀ (v.matBeats g e x n)) g e x m n := by
  have hget : ∀ f, (left s₀ (v.matBeats g e x n)).getF f = ((v.incF (F.meBusy g e) n).incF (F.accBeats x.ctx) n).getF f :=
    fun _ => rfl
  have hctx : 0x40 * x.ctx < 0x40 * 256 := Nat.mul_lt_mul_of_pos_left hx (by decide)
  have hkeys : (F.meBusy g e).key ≠ (F.accBeats x.ctx).key := by
    simp only [Fld.key, F.meBusy, F.accBeats, clOff, dieOff]; omega
  have hbusy : (F.meBusy g e).key ≠ (F.mePoison g e).key := by simp only [Fld.key, F.meBusy, F.mePoison]; omega
  have hbeats : (F.accBeats x.ctx).key ≠ (F.mePoison g e).key := by
    simp only [Fld.key, F.mePoison, F.accBeats, clOff, dieOff]; omega
  refine ⟨h.mat, h.other, ?_, ?_, fun f hne hne' hpoison => ?_⟩
  · rw [counted, hget, State.getF_incF_ne _ _ hkeys, State.getF_incF, h.field _ hbusy]
  · rw [counted, hget, State.getF_incF, State.getF_incF_ne _ _ hkeys.symm, h.field _ hbeats]
  · rw [hget, State.getF_incF_ne _ _ hne', State.getF_incF_ne _ _ hne, h.field _ hpoison]

/-- A word at the front comes to what its meaning says, with the queue of commands and the power state as they were. -/
theorem matFront.comesTo {op : Nat} {q : MWord} (h : matFront s g e x q op m) {i : Instr} {f : State → State}
    (hi : exec i s = work s f) (hf : f s = t) : exec i s = .next (left s t) := hf ▸ h.exec_eq hi

theorem matFront.runs {op : Nat} {q : MWord} (h : matFront s g e x q op m) {i : Instr} {f : State → State}
    {P : State → Prop} (hi : exec i s = work s f) (hf : f s = t) (hP : P (left s t)) : runsTo i s P :=
  ⟨left s t, h.comesTo hi hf, hP⟩

/-- Reading ranges of a cache that hold no bad word answers, and touches but the check bits (05 R113). -/
theorem go_ocReads_of_good {l : List (Nat × Nat)} (hgood : ∀ r ∈ l, ocGood s g r.1 r.2) :
    ∃ v, (ocReads g l).go s = (.ok (), v) ∧
      ∃ soft ce, v = { s with mem := { s.mem with sramSoft := soft, sramCe := ce } } := by
  induction l generalizing s with
  | nil => exact ⟨s, rfl, _, _, rfl⟩
  | cons r rest ih =>
    rw [List.forall_mem_cons] at hgood
    have hread := M.go_sramCheck (ocKey g 0) (ocKey g r.1) r.2 s
    simp only [State.sramRead, show wordsOf s.mem.sramBad (ocKey g r.1) r.2 = [] from hgood.1] at hread
    obtain ⟨v, hrest, soft, ce, rfl⟩ := ih (s := { s with mem := { s.mem with
      sramSoft := s.mem.sramSoft.filter fun e => !((wordsOf s.mem.sramSoft (ocKey g r.1) r.2).contains e)
      sramCe := s.mem.sramCe + (wordsOf s.mem.sramSoft (ocKey g r.1) r.2).length } }) hgood.2
    exact ⟨_, (M.go_bind_ok hread _).trans hrest, soft, ce, rfl⟩

end

/-! ### MACC and MMA (03 R58, R67, R76) -/

/-- The tile of a block comes of the bytes of the operand caches alone. -/
theorem mmaBlock_congr {s t : State} (h : t.mem.oc = s.mem.oc) (g w i : Nat) (m : MatEng) :
    mmaBlock t g w i m = mmaBlock s g w i m := by
  simp only [mmaBlock, blockTile, panelRows, State.ocRead, h]

section
variable (m : MatEng)

theorem MatEng.push_queue : m.push.queue = m.queue := by
  unfold MatEng.push; split <;> rfl

theorem MatEng.addBlock_queue (t : Tile) : (m.addBlock t).queue = m.queue := by
  unfold MatEng.addBlock
  dsimp only
  split
  · exact MatEng.push_queue _
  · rfl

/-- A block counts as one, be it the last of a segment or not (03 R58). -/
theorem MatEng.addBlock_blocks (t : Tile) :
    256 * (m.addBlock t).pushed + (m.addBlock t).blk = 256 * m.pushed + m.blk + 1 := by
  unfold MatEng.addBlock
  dsimp only
  split
  · have hpush : ∀ k : MatEng, k.blk = 256 → 256 * k.push.pushed + k.push.blk = 256 * k.pushed + 256 := fun k hk => by
      rw [MatEng.push, if_neg (by omega)]; dsimp only; omega
    rw [hpush _ ‹_›]
    dsimp only
    omega
  · rfl

theorem MatEng.skipBlocks_keep (w n : Nat) : (m.skipBlocks w n).endK = decide (bits w 72 5 ≠ 0) ∧
    (m.skipBlocks w n).queue = m.queue ∧
    256 * (m.skipBlocks w n).pushed + (m.skipBlocks w n).blk = 256 * m.pushed + m.blk + n := by
  refine ⟨by rw [Bool.eq_iff_iff]; simp [MatEng.skipBlocks], ?_⟩
  simp only [MatEng.skipBlocks]
  induction n with
  | zero => exact ⟨rfl, rfl⟩
  | succ n ih =>
    obtain ⟨hqueue, hblocks⟩ := ih
    rw [upTo, List.range_succ, List.foldl_append]
    exact ⟨(MatEng.addBlock_queue _ _).trans hqueue, (MatEng.addBlock_blocks _ _).trans (by rw [← upTo, hblocks]; rfl)⟩

/-- Values left open are put into the tiles alone (07 R214). -/
theorem MatEng.freeTiles_shape (s : State) (k : Nat) : ∃ acc stack n,
    s.freeTiles k m = { s.setMat k { m with acc := acc, stack := stack } with freeCtr := n } := ⟨_, _, _, rfl⟩

end

section
variable {s : State} {g : Fin 256} {e : Fin 2} {x : Inst} {q : MWord} {m : MatEng}

theorem macc_runs (h : matFront s g.val e.val x q 1 m) (hf : matFormed s x q.w.toNat m) :
    runsTo (.macc g e) s fun t => t = { s with regs := t.regs, eng.mat := t.eng.mat } ∧
      matSet s t g.val e.val x (m.openedBy q.w.toNat) 2 := by
  refine h.runs (f := fun s => s.macc g.val e.val) rfl (h.macc_formed hf)
    ⟨?_, ((Engaged.taken s m).setMat _).beats h.ctx_lt s⟩
  obtain ⟨r, k, ht⟩ := (((engineWork.refl s).setMat (matIdx g.val e.val) m).setMat (matIdx g.val e.val)
    (m.openedBy q.w.toNat)).beats (g := g.val) (e := e.val) (x := x) (n := 2) s
  rw [ht]
  rfl

section
variable (h : matFront s g.val e.val x q 2 m) (hf : matFormed s x q.w.toNat m)
  (ht : q.done = 0 → matInTurn s g.val q.w.toNat m) (hin : q.done = 0 → m.mmaInside q.w.toNat = true)
include h hf ht hin

theorem mma_runs (hs : s.suppressed x.ctx = false) (hgood : ∀ r ∈ mmaReads q.w.toNat q.done m, ocGood s g.val r.1 r.2) :
    runsTo (.mma g e) s fun t => t = { s with regs := t.regs, eng.mat := t.eng.mat, mem := t.mem } ∧ sramKept s t ∧
      matSet s t g.val e.val x ((m.addBlock (mmaBlock s g.val q.w.toNat q.done m).1).mmaNext q)
        (blockBeats m.fa m.fb + (if m.fresh then 6 else 0)) := by
  obtain ⟨v, hgo, soft, ce, hv⟩ := go_ocReads_of_good (s := s.setMat (matIdx g.val e.val) m) hgood
  have hrun := ((h.mma_passed hf ht hin).trans (if_neg (Bool.eq_false_iff.1 hs))).trans (State.reading_ok hgo _)
  rw [mmaBlock_congr (s := s) (by rw [hv]; rfl)] at hrun
  have hwork : engineWork s v { s.mem with sramSoft := soft, sramCe := ce } s.train s.freeCtr :=
    hv ▸ ((engineWork.refl s).setMat _ m).setMem _
  obtain ⟨r, k, ht⟩ := ((hwork.setMat (matIdx g.val e.val) ((m.addBlock (mmaBlock s g.val q.w.toNat q.done m).1).mmaNext
    q)).incF (F.mePoison g.val e.val) (ofBool (mmaBlock s g.val q.w.toNat q.done m).2)).beats (g := g.val) (e := e.val)
      (x := x) (n := blockBeats m.fa m.fb + (if m.fresh then 6 else 0)) s
  have heng : Engaged s v g.val e.val m := (Engaged.taken s m).congr (by rw [hv]) (by rw [hv])
  refine h.runs (f := fun s => s.mma g.val e.val) rfl hrun ⟨?_, ?_, ((heng.setMat _).poison _).beats h.ctx_lt s⟩
  · rw [ht]; rfl
  · rw [ht]; rfl

theorem mma_suppressed_runs (hs : s.suppressed x.ctx = true) (hdone : q.done = 0) : runsTo (.mma g e) s fun t =>
    t = { s with regs := t.regs, eng.mat := t.eng.mat, freeCtr := t.freeCtr } ∧
      matSet s t g.val e.val x (t.mat (matIdx g.val e.val)) 1 ∧
      (t.mat (matIdx g.val e.val)).endK = decide (bits q.w.toNat 72 5 ≠ 0) ∧
      (t.mat (matIdx g.val e.val)).queue = m.queue ∧
      256 * (t.mat (matIdx g.val e.val)).pushed + (t.mat (matIdx g.val e.val)).blk =
        256 * m.pushed + m.blk + bits q.w.toNat 8 8 + 1 := by
  have hrun := (h.mma_passed hf ht hin).trans (if_pos hs)
  rw [hdone, Nat.sub_zero] at hrun
  obtain ⟨hend, hqueue, hblocks⟩ := m.skipBlocks_keep q.w.toNat (bits q.w.toNat 8 8 + 1)
  generalize m.skipBlocks q.w.toNat (bits q.w.toNat 8 8 + 1) = k at *
  obtain ⟨acc, stack, n, hfree⟩ := k.freeTiles_shape (s.setMat (matIdx g.val e.val) m) (matIdx g.val e.val)
  generalize (s.setMat (matIdx g.val e.val) m).freeTiles (matIdx g.val e.val) k = v at hrun hfree
  have hwork : engineWork s v s.mem s.train n := hfree ▸ (((engineWork.refl s).setMat _ m).setMat _ _).setFree n
  obtain ⟨r, k', ht⟩ := hwork.beats (g := g.val) (e := e.val) (x := x) (n := 1) s
  have heng : Engaged s v g.val e.val { k with acc := acc, stack := stack } :=
    ((Engaged.taken s m).setMat _).congr (by rw [hfree]) (by rw [hfree])
  have hset := heng.beats (n := 1) h.ctx_lt s
  refine h.runs (f := fun s => s.mma g.val e.val) rfl hrun ⟨by rw [ht]; rfl, ?_⟩
  rw [hset.1]
  exact ⟨hset, hend, hqueue, hblocks⟩

end

end
end Sys2Proof.Machine

namespace Sys2Proof.Machine

/-! ### MPART and MCOMB (03 R62, R68) -/

/-- A report makes of the tallies what it would of the same tallies in another state. -/
theorem State.report_train {s t : State} (h : t.train = s.train) (x slot : Nat) (c : Census) :
    (t.report x slot (t.stepNo x) c).train = (s.report x slot (s.stepNo x) c).train := by
  have hrec : t.stepRec x = s.stepRec x := by rw [State.stepRec, h]; rfl
  have hstep : t.stepNo x = s.stepNo x := congrArg StepRec.step hrec
  rw [hstep]
  simp only [State.report, State.carry, State.setStepRec, hrec, h]

theorem Engaged.report {s v : State} {g e : Nat} {m : MatEng} (h : Engaged s v g e m) (x slot step : Nat) (c : Census) :
    Engaged s (v.report x slot step c) g e m := ⟨h.mat, h.other, h.field⟩

theorem ocChanged_ocWrite {bs : List Byte} {n : Nat} (s : State) (g a : Nat) (h : bs.length = n) :
    ocChanged s (s.ocWrite g a bs) g a n :=
  ⟨rfl, fun _ hb => tget_writeBytes_out _ _ _ _ (by rw [h]; exact hb)⟩

/-- A partial tile is a header of 64 bytes and 4,096 elements of four. -/
theorem MatEng.partialTile_length (m : MatEng) : m.partialTile.length = partialBytes := by
  have hcells : (((upTo 4096).flatMap fun c => w32Bytes (tget 0#32 m.folded c))).length = 4096 * 4 := by
    rw [List.length_flatMap, List.map_congr_left fun c _ => w32Bytes_length _, List.map_const', List.sum_replicate,
      upTo, List.length_range, smul_eq_mul]
  simp only [MatEng.partialTile, List.length_append, leBytes_length, hcells, partialBytes]

/-- The folded span of an engine that MCOMB left: each cell with the sibling's added (03 R62). -/
theorem MatEng.combined_folded {m : MatEng} (hcols : m.ncols ≤ 64) (s : State) (g src : Nat) (h : List Byte) {a b : Nat}
    (ha : a < m.mrows) (hb : b < m.ncols) : tileAt (m.combined s g src h).folded a b =
      w32Add (tileAt m.folded a b) (w32At (s.ocRead g (src + 64 + 4 * cell a b) 4) 0) :=
  tileAt_mkTile (fun i j => w32Add (tileAt m.folded i j) (w32At (s.ocRead g (src + 64 + 4 * cell i j) 4) 0)) hcols ha hb

section
variable {s : State} {g : Fin 256} {e : Fin 2} {x : Inst} {q : MWord} {m : MatEng}

theorem mpart_runs (h : matFront s g.val e.val x q 3 m) (hf : matFormed s x q.w.toNat m)
    (ht : matInTurn s g.val q.w.toNat m) : runsTo (.mpart g e) s fun t =>
      t = { s with regs := t.regs, eng.mat := t.eng.mat, mem := t.mem, train := t.train } ∧
      matSet s t g.val e.val x { queue := m.queue } 137 ∧ ocChanged s t g.val (64 * bits q.w.toNat 16 14) partialBytes ∧
      t.ocRead g.val (64 * bits q.w.toNat 16 14) partialBytes = m.partialTile ∧
      t.train = (s.report x.ctx (bits q.w.toNat 30 12) (s.stepNo x.ctx) m.census).train := by
  have hlen := m.partialTile_length
  have hrun := h.mpart_inTurn hf ht rfl
  generalize m.partialTile = bs at hlen hrun ⊢
  have hchanged := ocChanged_ocWrite s g.val (64 * bits q.w.toNat 16 14) hlen
  have hread := State.ocRead_ocWrite s g.val (a := 64 * bits q.w.toNat 16 14) hlen
  have hshape : (s.setMat (matIdx g.val e.val) m).ocWrite g.val (64 * bits q.w.toNat 16 14) bs =
      { s.setMat (matIdx g.val e.val) m with mem := (s.ocWrite g.val (64 * bits q.w.toNat 16 14) bs).mem } := rfl
  rw [hshape] at hrun
  generalize s.ocWrite g.val (64 * bits q.w.toNat 16 14) bs = w at *
  obtain ⟨v, hv⟩ : ∃ v, v = { s.setMat (matIdx g.val e.val) m with mem := w.mem } := ⟨_, rfl⟩
  rw [← hv] at hrun
  have hwork : engineWork s v w.mem s.train s.freeCtr := hv ▸ ((engineWork.refl s).setMat _ m).setMem _
  have heng : Engaged s v g.val e.val m := (Engaged.taken s m).congr (by rw [hv]) (by rw [hv])
  have htrain := State.report_train (s := s) (t := v.setMat (matIdx g.val e.val) m.closed) (by rw [hv]; rfl) x.ctx
    (bits q.w.toNat 30 12) m.census
  obtain ⟨tr, htr, hdone⟩ := (hwork.setMat (matIdx g.val e.val) m.closed).report x.ctx (bits q.w.toNat 30 12)
    ((v.setMat (matIdx g.val e.val) m.closed).stepNo x.ctx) m.census
  obtain ⟨r, k, hr⟩ := hdone.beats (g := g.val) (e := e.val) (x := x) (n := 137) s
  refine h.runs (f := fun s => s.mpart g.val e.val) rfl hrun ⟨?_, ?_, ?_, ?_, ?_⟩
  · rw [hr]; rfl
  · exact ((heng.setMat _).report _ _ _ _).beats h.ctx_lt s
  · exact hchanged.congr (by rw [hr]; rfl)
  · rw [← hread, hr]; rfl
  · rw [← htrain, ← htr, hr]; rfl

theorem mcomb_runs (h : matFront s g.val e.val x q 4 m) (hf : matFormed s x q.w.toNat m)
    (ht : matInTurn s g.val q.w.toNat m) (hcols : m.ncols ≤ 64)
    (hgood : ocGood s g.val (64 * bits q.w.toNat 16 14) partialBytes) {hd : List Byte}
    (hhd : hd = s.ocRead g.val (64 * bits q.w.toNat 16 14) 64) : runsTo (.mcomb g e) s fun t =>
      t = { s with regs := t.regs, eng.mat := t.eng.mat, mem := t.mem } ∧ sramKept s t ∧
      matSet s t g.val e.val x (t.mat (matIdx g.val e.val)) 138 ∧
      (t.mat (matIdx g.val e.val)).seg0 = min m.seg0 (fieldAt hd 6 2) ∧
      (t.mat (matIdx g.val e.val)).span = m.span + segCount (fieldAt hd 8 2) ∧
      (t.mat (matIdx g.val e.val)).st = .folded ∧ (t.mat (matIdx g.val e.val)).queue = m.queue ∧
      ∀ a b, a < m.mrows → b < m.ncols → tileAt (t.mat (matIdx g.val e.val)).folded a b =
        w32Add (tileAt m.folded a b) (w32At (s.ocRead g.val (64 * bits q.w.toNat 16 14 + 64 + 4 * cell a b) 4) 0) := by
  obtain ⟨v, hgo, soft, ce, hv⟩ := go_ocReads_of_good (s := s.setMat (matIdx g.val e.val) m)
    (l := [(64 * bits q.w.toNat 16 14, partialBytes)]) (fun r hr => by rw [List.mem_singleton.1 hr]; exact hgood)
  have hread : ∀ a n, v.ocRead g.val a n = s.ocRead g.val a n := fun a n => by rw [hv]; rfl
  have hrun := h.mcomb_inTurn hf ht hgo
  rw [hread, ← hhd] at hrun
  have htile := fun a b => MatEng.combined_folded hcols v g.val (64 * bits q.w.toNat 16 14) hd (a := a) (b := b)
  simp only [hread] at htile
  have hspan : (m.combined v g.val (64 * bits q.w.toNat 16 14) hd).span = m.span + segCount (fieldAt hd 8 2) := rfl
  have hwork : engineWork s v { s.mem with sramSoft := soft, sramCe := ce } s.train s.freeCtr :=
    hv ▸ ((engineWork.refl s).setMat _ m).setMem _
  obtain ⟨r, k, ht⟩ := (hwork.setMat (matIdx g.val e.val) (m.combined v g.val (64 * bits q.w.toNat 16 14) hd)).beats
    (g := g.val) (e := e.val) (x := x) (n := 138) s
  have heng : Engaged s v g.val e.val m := (Engaged.taken s m).congr (by rw [hv]) (by rw [hv])
  have hset := (heng.setMat (m.combined v g.val (64 * bits q.w.toNat 16 14) hd)).beats (n := 138) h.ctx_lt s
  refine h.runs (f := fun s => s.mcomb g.val e.val) rfl hrun ⟨by rw [ht]; rfl, by rw [ht]; rfl, ?_⟩
  rw [hset.1]
  exact ⟨hset, rfl, hspan, rfl, rfl, htile⟩

end

/-! ### MOUT (03 R69) -/

/-- Converting a tile writes operand caches alone. -/
theorem State.outBlock_shape (s : State) (g x : Nat) (m : MatEng) (t : Tile) (o : OutCtl) (p r : Nat) :
    ∃ mem, (s.outBlock g x m t o p r).1 = { s with mem := mem } := by
  unfold State.outBlock
  dsimp only
  split <;> exact ⟨_, rfl⟩

theorem foldl_mem_only {α β : Type} {f : State × α → β → State × α} (hf : ∀ s b, ∃ mem, (f s b).1 = { s.1 with mem := mem })
    (l : List β) (s : State × α) : ∃ mem, (l.foldl f s).1 = { s.1 with mem := mem } := by
  induction l generalizing s with
  | nil => exact ⟨_, rfl⟩
  | cons b r ih =>
    obtain ⟨mem, h⟩ := hf s b
    obtain ⟨mem', h'⟩ := ih (f s b)
    exact ⟨mem', by rw [List.foldl_cons, h', h]⟩

theorem State.outTile_shape (s : State) (g x : Nat) (m : MatEng) (o : OutCtl) :
    ∃ mem, (s.outTile g x m o).1 = { s with mem := mem } := by
  refine foldl_mem_only (fun r p => ?_) _ ((s, {}) : State × Census)
  refine foldl_mem_only (fun r i => ?_) _ r
  exact State.outBlock_shape r.1 g x m m.folded o p i

section
variable {s : State} {g : Fin 256} {e : Fin 2} {x : Inst} {q : MWord} {m : MatEng}
variable (h : matFront s g.val e.val x q 5 m) (hf : matFormed s x q.w.toNat m) (ht : matInTurn s g.val q.w.toNat m)
include h hf ht

theorem mout_suppressed_runs (hs : s.suppressed x.ctx = true) : runsTo (.mout g e) s fun t =>
    t = { s with regs := t.regs, eng.mat := t.eng.mat } ∧ matSet s t g.val e.val x { queue := m.queue } 1 := by
  refine h.runs (f := fun s => s.mout g.val e.val) rfl (h.mout_suppressed hf ht hs)
    ⟨?_, ((Engaged.taken s m).setMat _).beats h.ctx_lt s⟩
  obtain ⟨r, k, hr⟩ := (((engineWork.refl s).setMat (matIdx g.val e.val) m).setMat (matIdx g.val e.val) m.closed).beats
    (g := g.val) (e := e.val) (x := x) (n := 1) s
  rw [hr]
  rfl

theorem mout_runs {u : State} {c : Cvc} {cs : List W32} {o : OutCtl} (hs : s.suppressed x.ctx = false)
    (hdec : cvcDecode (bits q.w.toNat 8 8) = some c)
    (hgo : (ocReads g.val (m.outReads c (64 * bits q.w.toNat 30 14) (bits q.w.toNat 56 1)) >>= fun _ =>
      coarseUse g.val uMatrix x [(m.fa != 2, bits q.w.toNat 64 8), (m.fb != 2, bits q.w.toNat 72 8),
        (c.fmt.scaled, bits q.w.toNat 80 8)]).go (s.setMat (matIdx g.val e.val) m) = (.ok cs, u))
    (ho : o = { cvc := c, de := 64 * bits q.w.toNat 16 14, ds := 64 * bits q.w.toNat 30 14, axis := bits q.w.toNat 56 1,
                slot := bits q.w.toNat 44 12, ca := cs.getD 0 0, cb := cs.getD 1 0, cd := cs.getD 2 0 }) :
    runsTo (.mout g e) s fun t => t = left s { u with
        regs := t.regs
        eng.mat := t.eng.mat
        mem := (u.outTile g.val x.ctx m o).1.mem
        train := (u.report x.ctx (bits q.w.toNat 44 12) (u.stepNo x.ctx) (u.outTile g.val x.ctx m o).2).train } ∧
      matSet u t g.val e.val x { queue := m.queue } (8 + outBeats c.fmt) := by
  have hrun := h.mout_writes hf ht hs hdec hgo ho rfl
  obtain ⟨mem, hshape⟩ := u.outTile_shape g.val x.ctx m o
  generalize u.outTile g.val x.ctx m o = p at hrun hshape ⊢
  obtain ⟨p, k⟩ := p
  subst hshape
  have htrain := State.report_train (s := u) (t := State.setMat { u with mem := mem } (matIdx g.val e.val) m.closed) rfl x.ctx
    (bits q.w.toNat 44 12) k
  obtain ⟨tr, htr, hdone⟩ := (((engineWork.refl u).setMem mem).setMat (matIdx g.val e.val) m.closed).report x.ctx
    (bits q.w.toNat 44 12) ((State.setMat { u with mem := mem } (matIdx g.val e.val) m.closed).stepNo x.ctx) k
  obtain ⟨r, k', hr⟩ := hdone.beats (g := g.val) (e := e.val) (x := x) (n := 8 + outBeats c.fmt) s
  have heng : Engaged u (State.setMat { u with mem := mem } (matIdx g.val e.val) m.closed) g.val e.val m.closed :=
    (Engaged.taken u m.closed).congr rfl rfl
  refine h.runs (f := fun s => s.mout g.val e.val) rfl hrun ⟨?_, (heng.report _ _ _ _).beats h.ctx_lt s⟩
  rw [← htrain, ← htr, hr]
  rfl

end

/-! ### A word out of its turn that is not asked for its turn -/

/-- An MPART word to address 0 and slot 0, marked as one of which a block has run, as only an MMA can be (03 R76). -/
def mpartBegun : MWord := { w := 3, seq := 0, done := 1 }

/-- Work of context 0, with no code. -/
def inst0 : Inst :=
  { ctx := 0, subseq := 0, task := 0, index := 0, count := 1, rank := 0, size := 1, args := 0, shared := 0, sharedLen := 0,
    step := 0, gtag := 0, code := 0, codeLen := 0 }

/-- The module in RUN with context 0 on core 0 and `mpartBegun` before engine 0, which is idle. -/
def idleBefore : State :=
  let s : State := { State.reset with
    power := { State.reset.power with st := .run, runEn := true, rstN := true, pwrOk := true, railsUp := true } }
  ((((s.setF (F.ctxStateState 0) cResident).setB (F.tallyCtlValid 0) true).setCore 0 { s.core 0 with inst := some inst0 }).setMat
    0 { queue := [mpartBegun] })

theorem idleBefore_front : matFront idleBefore 0 0 inst0 mpartBegun 3 {} :=
  ⟨by decide +kernel, by decide +kernel, by decide, ⟨[], by decide +kernel, rfl⟩, by decide +kernel, by decide +kernel,
    by decide +kernel⟩

theorem idleBefore_formed : matFormed idleBefore inst0 mpartBegun.w.toNat {} :=
  (matFormed_mpart (by decide +kernel)).2 (by decide +kernel)

/-- An idle engine has no span for MPART: the context is faulted. -/
theorem idleBefore_faults : exec (.mpart 0 0) idleBefore =
    .next (left idleBefore ((idleBefore.setMat 0 {}).matFault 0 0 true)) := by
  have hturn : ¬ matInTurn idleBefore 0 mpartBegun.w.toNat {} := fun h =>
    (matInTurn_mpart idleBefore_front.op_eq).1 h (.inl rfl)
  exact idleBefore_front.comesTo (f := fun s => s.mpart 0 0) rfl (idleBefore_front.mpart_outOfTurn idleBefore_formed hturn)

/-- Refutes O31: a word is asked to be in its turn only where no block of it has run (`done = 0`), yet MPART, MCOMB and
MOUT do not look at `done`: an MPART marked as begun faults on an idle engine instead of completing. Of words in their
turn the clauses hold: `macc_runs`, `mma_runs`, `mma_suppressed_runs`, `mpart_runs`, `mcomb_runs`,
`mout_suppressed_runs` and `mout_runs`. -/
theorem not_matrixWordsActOnTheSpan : ¬ Obligations.MatrixWordsActOnTheSpan := by
  intro h
  obtain ⟨-, -, hmpart, -⟩ := h 0 0 inst0 mpartBegun _ _ {} idleBefore rfl rfl idleBefore_formed
    fun hdone => absurd hdone (by decide)
  obtain ⟨t, ht, hframe, -⟩ := hmpart idleBefore_front
  have hkept : t.err.nextRid = idleBefore.err.nextRid := by rw [hframe]
  cases idleBefore_faults.symm.trans ht
  exact absurd hkept (by decide +kernel)

end Sys2Proof.Machine

namespace Sys2Proof.Machine

/-! ### Source operands of a vector word (04 R81, R85, R86; 05 R113) -/

/-- Nothing but the check bits of SRAM words, and what is counted of them, differs: words were read without a fault. -/
def softRead (u v : State) : Prop := ∃ soft ce, v = { u with mem := { u.mem with sramSoft := soft, sramCe := ce } }

section
variable {s u v t : State} {g : Nat}

theorem softRead.refl (u : State) : softRead u u := ⟨_, _, rfl⟩

theorem softRead.trans (h : softRead u v) (h' : softRead v t) : softRead u t := by
  obtain ⟨soft, ce, rfl⟩ := h
  obtain ⟨soft', ce', rfl⟩ := h'
  exact ⟨soft', ce', rfl⟩

theorem softRead.kept (h : softRead u v) : VecKept u v := by
  obtain ⟨soft, ce, rfl⟩ := h
  exact ⟨rfl, rfl, rfl, fun _ _ => rfl⟩

theorem softRead.wrote (h : softRead u v) : wrote u v := by
  obtain ⟨soft, ce, rfl⟩ := h
  exact ⟨_, _, _, rfl⟩

theorem softRead.sramKept (h : softRead u v) : sramKept u v := by
  obtain ⟨soft, ce, rfl⟩ := h
  rfl

theorem softRead.ocGood (h : softRead u v) {a n : Nat} (hgood : ocGood u g a n) : Machine.ocGood v g a n := by
  obtain ⟨soft, ce, rfl⟩ := h
  exact hgood

/-- What a word writes into its destination it writes there of the state before its reads. -/
theorem softRead.lanesSet (h : softRead u v) {win mz : Bool} {d : Nat} {on : Nat → Bool} {f : Nat → W32}
    (hset : lanesSet v t g win mz d on f) : Machine.lanesSet u t g win mz d on f := by
  have hkept := h.kept
  obtain ⟨hlanes, hsame, hother, hrest⟩ := hset
  refine ⟨fun l hl => by rw [hlanes l hl, hkept.vlane], by rw [hsame, hkept.vec],
    fun k hk => by rw [hother k hk, hkept.vec], ?_⟩
  obtain ⟨soft, ce, rfl⟩ := h
  cases win with
  | true => exact ⟨hrest.1, (ocChanged_soft u _ _ _ soft ce).trans hrest.2⟩
  | false => exact ⟨hrest.1, hrest.2⟩

/-- A source operand is read without a fault where the cache has no bad word, and gives each lane its value. -/
theorem VCx.go_src {c : VCx} {f : Nat} (k : Word64) (hf : srcField c.window f) (hgood : Machine.ocGood u c.g 0 ocSize)
    (hbase : c.wbase = (u.vec c.g).wbase) (hslot : c.window = true → vecField c.window f → c.wbase + 512 * f + 512 ≤ ocSize) :
    ∃ vals v, (c.src f k).go u = (.ok vals, v) ∧ softRead u v ∧ vals.length = 128 ∧
      ∀ l, l < 128 → laneAt vals l = vval u c.g c.window f k l := by
  have hlanes : ∀ (h : Nat → W32), (lanes.map h).length = 128 := fun h => by simp [lanes, upTo]
  rcases hf with hvec | hsca
  · have hopd : c.opd f = some (.vec f) := if_pos hvec
    have hlow : f < 0x80 := by unfold vecField at hvec; split at hvec <;> omega
    obtain ⟨v, hv, hreads⟩ : ∃ v, softRead u v ∧ (c.slotReads f c.active).go u = (.ok (), v) := by
      obtain ⟨soft, ce, hreads⟩ := c.go_slotReads (n := f) hgood fun hw => hslot hw hvec
      exact ⟨_, ⟨soft, ce, rfl⟩, hreads⟩
    refine ⟨v.vecLanes c f, v, ?_, hv, ?_, fun l hl => ?_⟩
    · rw [VCx.src, VCx.srcOn, hopd]
      exact M.go_bind_ok hreads _
    · unfold State.vecLanes
      split <;> exact hlanes _
    · rw [vval, if_pos hlow, laneAt_vecLanes v c f (by rw [hv.kept.vec, hbase]) hl, hv.kept.vlane]
  · have hvec : ¬ f < if c.window then 0x80 else 0x20 := by
      have := hsca.1
      split <;> omega
    have hopd : c.opd f = some (.sca (f - 0x80)) := (if_neg hvec).trans (if_pos hsca)
    refine ⟨_, u, by rw [VCx.src, VCx.srcOn, hopd]; rfl, softRead.refl u, hlanes _, fun l hl => ?_⟩
    rw [vval, if_neg (Nat.not_lt.2 hsca.1), laneAt_map _ hl]

end

section
variable {s u v : State} {g : Nat} {x : Inst} {win : Bool} {q : VWord} {cls op : Nat}
variable (h : vecFront s g x win q cls op u)
include h

theorem vecFront.vval (f : Nat) (k : Word64) (l : Nat) : Machine.vval u g win f k l = Machine.vval s g win f k l := by
  rw [Machine.vval, Machine.vval, h.vlane]

theorem vecFront.on (hcls : cls ≠ 8) {l : Nat} (hl : l < 128) :
    (s.vecCx g x q).on l = lit s g (bits q.w.toNat 8 3) l := s.vecCx_on g x q (by rwa [h.class_eq]) hl

theorem vecFront.vec_other {k : Nat} (hk : k ≠ g) : u.vec k = s.vec k := by
  obtain ⟨rest, rfl⟩ := h.taken
  exact State.vec_setVec_ne s _ hk

theorem vecFront.pairs : (u.vec g).pairs = (s.vec g).pairs := by
  obtain ⟨rest, rfl⟩ := h.taken
  rw [State.vec_setVec]

/-- A source of the word at the front, read behind others, gives what stood there before the word was taken. -/
theorem vecFront.go_src (hv : softRead u v) {f : Nat} (k : Word64) (hf : srcField win f) :
    ∃ vals t, ((s.vecCx g x q).src f k).go v = (.ok vals, t) ∧ softRead u t ∧ vals.length = 128 ∧
      ∀ l, l < 128 → laneAt vals l = Machine.vval s g win f k l := by
  have hwin : (s.vecCx g x q).window = win := h.window
  have hbase : (s.vecCx g x q).wbase = (v.vec g).wbase := by rw [hv.kept.vec, h.wbase]; rfl
  obtain ⟨vals, t, hgo, hsoft, hlen, hvals⟩ := VCx.go_src (c := s.vecCx g x q) (u := v) (f := f) k (by rwa [hwin])
    (hv.ocGood h.ocGood) hbase fun hw hvec => h.slot_in (hwin.symm.trans hw) (by rwa [hwin] at hvec)
  refine ⟨vals, t, hgo, hv.trans hsoft, hlen, fun l hl => (hvals l hl).trans ?_⟩
  rw [← h.vval, hwin, Machine.vval, Machine.vval, hv.kept.vlane]
  rfl

/-- A word that writes its destination completes with its lanes set, and with one report where the destination is a
write stream (04 R87, R92). -/
theorem vecFront.put_runs {i : Instr} {f : VCx → M (Nat × List Nat)} {r : Nat × List Nat} {d : Nat} {on on' : Nat → Bool}
    {val val' : Nat → W32} {k : Census} (hi : exec i s = work s fun s => s.vecWord g cls op f) (hop : op < vOps cls)
    (hv : softRead u v) (hgo : (f (s.vecCx g x q)).go u =
      (.ok r, (v.putResult (s.vecCx g x q) d on val).reportIf (s.vecCx g x q) win k))
    (hon : ∀ l, l < 128 → on' l = on l) (hval : ∀ l, l < 128 → on l = true → val' l = val l) :
    runsTo i s fun t => vecOnly u t g x false ∧ lanesSet u t g win (bit q.w.toNat 11) d on' val' ∧
      reported u t x q.w.toNat win := by
  have hbase : (s.vecCx g x q).wbase = (v.vec g).wbase := by rw [hv.kept.vec, h.wbase]; rfl
  have hset := lanesSet_putResult v hbase d on val
  rw [show (s.vecCx g x q).window = win from h.window] at hset
  refine runsTo_of_vecFront h hi hop hgo fun n => ⟨?_, ?_, ?_⟩
  · exact wrote.vecOnly_taken h.left_eq (hv.wrote.trans ((v.putResult_wrote _ _ _ _).trans (State.reportIf_wrote _ _ _ _))) n
  · exact hv.lanesSet (hset.congr (congrArg Eng.vec (State.reportIf_eng _ _ _ _)) (State.reportIf_mem _ _ _ _) hon hval)
  · exact reported_reportIf u g (c := s.vecCx g x q) ((v.putResult_train _ _ _ _).trans hv.kept.train) _ _ s n

/-- A word that does nothing but read and change its vector engine completes with the engine changed. -/
theorem vecFront.engine_runs {i : Instr} {f : VCx → M (Nat × List Nat)} {r : Nat × List Nat} {e : VecEng}
    (hi : exec i s = work s fun s => s.vecWord g cls op f) (hop : op < vOps cls) (hv : softRead u v)
    (hgo : (f (s.vecCx g x q)).go u = (.ok r, v.setVec g e)) :
    runsTo i s fun t => vecQuiet u t g x false ∧ t.vec g = e ∧ ∀ k, k ≠ g → t.vec k = s.vec k := by
  have hset : wrote v (v.setVec g e) := ⟨_, _, _, rfl⟩
  refine runsTo_of_vecFront h hi hop hgo fun n => ⟨⟨wrote.vecOnly_taken h.left_eq (hv.wrote.trans hset) n, ?_, ?_⟩, ?_,
    fun k hk => ?_⟩
  · exact hv.sramKept
  · exact hv.kept.train
  · exact v.vec_setVec g e
  · exact (v.vec_setVec_ne e hk).trans ((hv.kept.vec k).trans (h.vec_other hk))

/-- A word that does nothing but read and write a scalar register completes with the register written. -/
theorem vecFront.scalar_runs {i : Instr} {f : VCx → M (Nat × List Nat)} {r : Nat × List Nat} {n : Nat} {a : Word64}
    (hi : exec i s = work s fun s => s.vecWord g cls op f) (hop : op < vOps cls) (hv : softRead u v)
    (hgo : (f (s.vecCx g x q)).go u = (.ok r, v.putScalar g n a)) :
    runsTo i s fun t => vecQuiet u t g x true ∧ t.eng.vec = u.eng.vec ∧ scalarSet u t g n a := by
  have hleft := h.left_eq
  have hvec : v.eng.vec = u.eng.vec := congrArg Eng.vec hv.kept.eng
  have hcore : ∀ k, v.core k = u.core k := fun k => by rw [State.core, hv.kept.eng]; rfl
  refine runsTo_of_vecFront h hi hop hgo fun b => ⟨⟨⟨?_, nofun, fun f hbusy hbeats _ => ?_⟩,
    hv.sramKept, hv.kept.train⟩, ?_, ?_, fun k hk => ?_⟩
  · obtain ⟨r', hr⟩ := wordDone_shape (g := g) (x := x) s (v.putScalar g n a) b
    rw [hr]
    obtain ⟨soft, ce, rfl⟩ := hv
    generalize hw : u = w at hleft ⊢
    rw [← hleft]
    rfl
  · rw [wordDone_getF s b hbusy hbeats]
    obtain ⟨soft, ce, rfl⟩ := hv
    rfl
  · exact hvec
  · refine (v.core_setCore g _).trans ?_
    rw [hcore]
  · exact (tget_tput_ne _ _ _ hk).trans (hcore k)

end

/-! ### Compensated pairs (04 R99) -/

/-- Entries `ls` of a table changed one after another. -/
theorem tget_foldl_tmod {α : Type} [DecidableEq α] (d : α) (f : Nat → α → α) {ls : List Nat} (hnodup : ls.Nodup)
    (t : Tbl α) (l : Nat) : tget d (ls.foldl (fun t i => tmod d t i (f i)) t) l =
      if l ∈ ls then f l (tget d t l) else tget d t l := by
  induction ls generalizing t with
  | nil => rfl
  | cons i r ih =>
    rw [List.nodup_cons] at hnodup
    rw [List.foldl_cons, ih hnodup.2, tmod, tget_tput]
    by_cases hi : l = i
    · subst hi
      simp [hnodup.1]
    · simp [hi]

theorem VCx.active_nodup (c : VCx) : c.active.Nodup := List.nodup_range.filter _

theorem VCx.mem_active (c : VCx) {l : Nat} (hl : l < 128) : l ∈ c.active ↔ c.on l = true :=
  List.mem_filter.trans (and_iff_right (mem_lanes.2 hl))

/-- MSEL and MZ clear name every lane. -/
theorem noMask_of_bits {w : Nat} (h : bits w 8 4 = 0) : bits w 8 3 = 0 ∧ bit w 11 = false := by
  simp only [bits, bit, beq_eq_false_iff_ne] at h ⊢
  omega

section
variable {c : VCx} {u : State}

theorem VCx.go_noAux (c : VCx) (haux : c.aux = 0) : c.noAux.go u = (.ok (), u) := c.go_encIf u (by rw [haux]; rfl)

theorem VCx.go_noMask (c : VCx) (hmask : bits c.w 8 4 = 0) : c.noMask.go u = (.ok (), u) := by
  obtain ⟨hmsel, hmz⟩ := noMask_of_bits hmask
  refine c.go_encIf u ?_
  rw [VCx.msel, VCx.mz, hmsel, hmz]
  rfl

theorem VCx.opd_sca {f : Nat} (h : scaField f) : c.opd f = some (.sca (f - 0x80)) := by
  have hvec : ¬ f < if c.window then 0x80 else 0x20 := by
    have := h.1
    split <;> omega
  exact (if_neg hvec).trans (if_pos h)

theorem VCx.opd_vec {f : Nat} (h : vecField c.window f) : c.opd f = some (.vec f) := if_pos h

/-- A result for scalar D. -/
theorem VCx.go_putEither_sca (h : scaField c.d) (on : Nat → Bool) (v : W32) :
    (c.putEither on v).go u = (.ok (), u.putScalar c.g (c.d - 0x80) (v.setWidth 64)) := by
  rw [VCx.putEither, VCx.opd_sca h]
  rfl

/-- A result for each lane of vector D that is on. -/
theorem VCx.go_putEither_vec (h : vecField c.window c.d) (on : Nat → Bool) (v : W32)
    (hslot : c.window = true → u.slotOk c.tslot c.t.ctx = true) : ∃ k, (c.putEither on v).go u =
      (.ok (), (u.putResult c c.d on (laneAt (lanes.map fun _ => v))).reportIf c c.window k) := by
  have hstream : (c.window && !false) = c.window := by simp
  refine ⟨censusOf ((lanes.filter on).map (laneAt (lanes.map fun _ => v))), ?_⟩
  rw [VCx.putEither, VCx.opd_vec h]
  exact (VCx.go_put u c.d on _ (by rwa [hstream])).trans (by rw [hstream])

end

section
variable {g : Fin 256} {x : Inst} {win : Bool} {q : VWord} {s u : State}

theorem vaccz_runs (h : vecFront s g.val x win q 6 0 u) (haux : bits q.w.toNat 56 8 = 0) (hmask : bits q.w.toNat 8 4 = 0) :
    runsTo (.vaccz g) s fun t => vecQuiet u t g.val x false ∧ t.vec g.val = { u.vec g.val with pairs := [] } ∧
      ∀ k, k ≠ g.val → t.vec k = s.vec k := by
  refine h.engine_runs (r := (1, [])) rfl (by decide) (softRead.refl u) ?_
  rw [vVaccz, M.go_bind_ok (VCx.go_noAux (s.vecCx g.val x q) haux), M.go_bind_ok (VCx.go_noMask (s.vecCx g.val x q) hmask)]
  rfl

/-- The pairs of an engine after the active lanes of a VACC word added their values. -/
def VCx.accumulate (c : VCx) (p : Tbl (W32 × W32)) (a b : Nat → W32) : Tbl (W32 × W32) :=
  c.active.foldl (fun t l => tmod pair0 t l fun e => pairAdd e (accX c.aux (a l) (b l))) p

/-- VACC once its sources are read: b is a where the word does not name it. -/
theorem go_vVacc {c : VCx} {u v v' : State} {va vb : List W32} (haux : c.aux < 3) (ha : c.srcA.go u = (.ok va, v))
    (hb : (if c.aux = 2 then c.srcB else pure va).go v = (.ok vb, v')) : (vVacc c).go u =
      (.ok (1, if c.aux = 2 then [c.a, c.b] else [c.a]), v'.setVec c.g { v'.vec c.g with
        pairs := c.accumulate (v'.vec c.g).pairs (laneAt va) (laneAt vb) }) := by
  have henc := c.go_encIf u (decide_eq_false (Nat.not_le.2 haux))
  refine (M.go_bind_ok henc _).trans ((M.go_bind_ok ha _).trans ?_)
  by_cases htwo : c.aux = 2
  · rw [if_pos htwo] at hb
    simp only [if_pos htwo]
    exact (M.go_bind_ok hb _).trans (M.go_bind_ok (M.go_setS _ _) _)
  · rw [if_neg htwo] at hb
    simp only [if_neg htwo]
    exact (M.go_bind_ok hb _).trans (M.go_bind_ok (M.go_setS _ _) _)

/-- VACC reads its sources and adds to the pairs. -/
theorem vacc_go (h : vecFront s g.val x win q 6 1 u) (haux : bits q.w.toNat 56 8 < 3)
    (ha : srcField win (bits q.w.toNat 20 8)) (hb : bits q.w.toNat 56 8 = 2 → srcField win (bits q.w.toNat 28 8)) :
    ∃ va vb v r, softRead u v ∧
      (∀ l, l < 128 → accX (bits q.w.toNat 56 8) (laneAt va l) (laneAt vb l) = accX (bits q.w.toNat 56 8)
        (vval s g.val win (bits q.w.toNat 20 8) q.sA l) (vval s g.val win (bits q.w.toNat 28 8) q.sB l)) ∧
      (vVacc (s.vecCx g.val x q)).go u = (.ok r, v.setVec g.val { v.vec g.val with
        pairs := (s.vecCx g.val x q).accumulate (v.vec g.val).pairs (laneAt va) (laneAt vb) }) := by
  obtain ⟨va, v, hgo, hv, -, hva⟩ := h.go_src (softRead.refl u) q.sA ha
  have hauxEq : (s.vecCx g.val x q).aux = bits q.w.toNat 56 8 := rfl
  by_cases htwo : bits q.w.toNat 56 8 = 2
  · obtain ⟨vb, v', hgo', hv', -, hvb⟩ := h.go_src hv q.sB (hb htwo)
    exact ⟨va, vb, v', _, hv', fun l hl => by rw [hva l hl, hvb l hl],
      go_vVacc haux hgo (by rw [if_pos (hauxEq.trans htwo)]; exact hgo')⟩
  · have hone : ∀ a b b', accX (bits q.w.toNat 56 8) a b = accX (bits q.w.toNat 56 8) a b' := fun a b b' => by
      have hlow : bits q.w.toNat 56 8 = 0 ∨ bits q.w.toNat 56 8 = 1 := by omega
      rcases hlow with h | h <;> simp [accX, h]
    exact ⟨va, va, v, _, hv, fun l hl => by rw [hva l hl]; exact hone _ _ _,
      go_vVacc haux hgo (by rw [hauxEq, if_neg htwo]; rfl)⟩

theorem vacc_runs (h : vecFront s g.val x win q 6 1 u) (haux : bits q.w.toNat 56 8 < 3)
    (ha : srcField win (bits q.w.toNat 20 8)) (hb : bits q.w.toNat 56 8 = 2 → srcField win (bits q.w.toNat 28 8)) :
    runsTo (.vacc g) s fun t => vecQuiet u t g.val x false ∧
      t.vec g.val = { u.vec g.val with pairs := (t.vec g.val).pairs } ∧ (∀ k, k ≠ g.val → t.vec k = s.vec k) ∧
      ∀ l, l < 128 → tget pair0 (t.vec g.val).pairs l =
        if lit s g.val (bits q.w.toNat 8 3) l then pairAdd (tget pair0 (s.vec g.val).pairs l)
          (accX (bits q.w.toNat 56 8) (vval s g.val win (bits q.w.toNat 20 8) q.sA l)
            (vval s g.val win (bits q.w.toNat 28 8) q.sB l))
        else tget pair0 (s.vec g.val).pairs l := by
  obtain ⟨va, vb, v, r, hv, hval, hgo⟩ := vacc_go h haux ha hb
  rw [hv.kept.vec] at hgo
  obtain ⟨t, ht, hquiet, hvec, hother⟩ := h.engine_runs (i := .vacc g) rfl (by decide) hv hgo
  refine ⟨t, ht, hquiet, by rw [hvec], hother, fun l hl => ?_⟩
  have hon := (s.vecCx g.val x q).mem_active hl
  rw [h.on (by decide) hl] at hon
  rw [hvec]
  simp only [VCx.accumulate, tget_foldl_tmod pair0 _ (VCx.active_nodup _), hon, h.pairs]
  rw [← hval l hl]
  rfl

/-! ### Folds and reductions (04 R100) -/

/-- A word whose one result is for scalar D or for the lanes of vector D that are on. -/
theorem vecFront.either_runs {cls op : Nat} {i : Instr} {f : VCx → M (Nat × List Nat)} {v : State} {r : Nat × List Nat}
    {on on' : Nat → Bool} {a : W32} (h : vecFront s g.val x win q cls op u)
    (hi : exec i s = work s fun s => s.vecWord g.val cls op f) (hop : op < vOps cls) (hv : softRead u v)
    (hgo : ∀ t, ((s.vecCx g.val x q).putEither on a).go v = (.ok (), t) → (f (s.vecCx g.val x q)).go u = (.ok r, t))
    (hon : ∀ l, l < 128 → on' l = on l) :
    (scaField (bits q.w.toNat 12 8) → runsTo i s fun t => vecQuiet u t g.val x true ∧ t.eng.vec = u.eng.vec ∧
      scalarSet u t g.val (bits q.w.toNat 12 8 - 0x80) (a.setWidth 64)) ∧
    (vecField win (bits q.w.toNat 12 8) → (win = true → s.slotOk (bits q.w.toNat 44 12) x.ctx = true) →
      runsTo i s fun t => vecOnly u t g.val x false ∧
        lanesSet u t g.val win (bit q.w.toNat 11) (bits q.w.toNat 12 8) on' (fun _ => a) ∧ reported u t x q.w.toNat win) := by
  have hwin : (s.vecCx g.val x q).window = win := h.window
  refine ⟨fun hd => h.scalar_runs hi hop hv (hgo _ (VCx.go_putEither_sca (c := s.vecCx g.val x q) hd on a)), fun hd hslot => ?_⟩
  obtain ⟨k, hput⟩ := VCx.go_putEither_vec (c := s.vecCx g.val x q) (u := v) (by rwa [hwin]) on a
    fun hw => (hv.kept.slotOk _ _).trans ((h.slotOk _ _).trans (hslot (hwin.symm.trans hw)))
  rw [hwin] at hput
  exact h.put_runs hi hop hv (hgo _ hput) hon fun l hl _ => (laneAt_map (fun _ => a) hl).symm

theorem reduce_runs {op : Nat} {i : Instr} {f : List W32 → W32} (h : vecFront s g.val x win q 6 op u)
    (hi : exec i s = work s fun s => s.vecWord g.val 6 op (vReduce f)) (hop : op < 6) (haux : bits q.w.toNat 56 8 = 0)
    (ha : srcField win (bits q.w.toNat 20 8)) {r : W32}
    (hr : r = f ((activeLanes s g.val q.w.toNat).map (vval s g.val win (bits q.w.toNat 20 8) q.sA))) :
    (scaField (bits q.w.toNat 12 8) → runsTo i s fun t => vecQuiet u t g.val x true ∧ t.eng.vec = u.eng.vec ∧
      scalarSet u t g.val (bits q.w.toNat 12 8 - 0x80) (r.setWidth 64)) ∧
    (vecField win (bits q.w.toNat 12 8) → (win = true → s.slotOk (bits q.w.toNat 44 12) x.ctx = true) →
      runsTo i s fun t => vecOnly u t g.val x false ∧
        lanesSet u t g.val win (bit q.w.toNat 11) (bits q.w.toNat 12 8) (lit s g.val (bits q.w.toNat 8 3)) (fun _ => r) ∧
        reported u t x q.w.toNat win) := by
  obtain ⟨va, v, hgo, hv, -, hva⟩ := h.go_src (softRead.refl u) q.sA ha
  have hvals : f ((s.vecCx g.val x q).active.map (laneAt va)) = r := by
    rw [hr, ← s.vecCx_active g.val x q (by rw [h.class_eq]; decide)]
    congr 1
    exact List.map_congr_left fun l hl => hva l (mem_lanes.1 (List.mem_of_mem_filter hl))
  refine h.either_runs hi hop hv (on := (s.vecCx g.val x q).on) (r := (8, [bits q.w.toNat 20 8])) (fun t ht => ?_)
    fun l hl => (h.on (by decide) hl).symm
  rw [vReduce]
  refine (M.go_bind_ok (VCx.go_noAux (s.vecCx g.val x q) haux) _).trans ((M.go_bind_ok hgo _).trans ?_)
  rw [hvals]
  exact M.go_bind_ok ht _

section
variable (h : vecFront s g.val x win q 6 2 u) (haux : bits q.w.toNat 56 8 = 0) (hmask : bits q.w.toNat 8 4 = 0)
include h haux hmask

/-- VFOLD with a scalar b. -/
theorem vfold_sca_runs (hb : scaField (bits q.w.toNat 28 8)) :
    (scaField (bits q.w.toNat 12 8) → runsTo (.vfold g) s fun t => vecQuiet u t g.val x true ∧ t.eng.vec = u.eng.vec ∧
      scalarSet u t g.val (bits q.w.toNat 12 8 - 0x80)
        ((w32Mul (foldPairs (s.vec g.val).pairs) (q.sB.setWidth 32)).setWidth 64)) ∧
    (vecField win (bits q.w.toNat 12 8) → (win = true → s.slotOk (bits q.w.toNat 44 12) x.ctx = true) →
      runsTo (.vfold g) s fun t => vecOnly u t g.val x false ∧
        lanesSet u t g.val win (bit q.w.toNat 11) (bits q.w.toNat 12 8) (fun _ => true)
          (fun _ => w32Mul (foldPairs (s.vec g.val).pairs) (q.sB.setWidth 32)) ∧ reported u t x q.w.toNat win) := by
  refine h.either_runs rfl (by decide) (softRead.refl u) (r := (8, [bits q.w.toNat 28 8])) (on := fun _ => true)
    (fun t ht => ?_) fun _ _ => rfl
  rw [vVfold, M.go_bind_ok (VCx.go_noAux (s.vecCx g.val x q) haux), M.go_bind_ok (VCx.go_noMask (s.vecCx g.val x q) hmask), M.go_bind_ok (M.go_getS u)]
  have hopd : (s.vecCx g.val x q).opd (s.vecCx g.val x q).b = some (.sca (bits q.w.toNat 28 8 - 0x80)) := VCx.opd_sca hb
  have hpairs : (u.vec (s.vecCx g.val x q).g).pairs = (s.vec g.val).pairs := h.pairs
  simp only [hopd, hpairs]
  exact M.go_bind_ok ht _

/-- VFOLD with a vector b. -/
theorem vfold_vec_runs (hb : vecField win (bits q.w.toNat 28 8)) (hd : vecField win (bits q.w.toNat 12 8))
    (hslot : win = true → s.slotOk (bits q.w.toNat 44 12) x.ctx = true) :
    runsTo (.vfold g) s fun t => vecOnly u t g.val x false ∧
      lanesSet u t g.val win (bit q.w.toNat 11) (bits q.w.toNat 12 8) (fun _ => true)
        (fun l => w32Mul (foldPairs (s.vec g.val).pairs) (vval s g.val win (bits q.w.toNat 28 8) q.sB l)) ∧
      reported u t x q.w.toNat win := by
  have hwin : (s.vecCx g.val x q).window = win := h.window
  have hstream : (win && !false) = win := by simp
  obtain ⟨vb, v, hgo, hv, hlen, hvb⟩ := h.go_src (softRead.refl u) q.sB (.inl hb)
  have hput := VCx.go_put (c := s.vecCx g.val x q) (copy := false) v (bits q.w.toNat 12 8) (fun _ => true)
    (vb.map fun y => w32Mul (foldPairs (s.vec g.val).pairs) y)
    fun hw => (hv.kept.slotOk _ _).trans ((h.slotOk _ _).trans (hslot (by rwa [hwin, hstream] at hw)))
  rw [hwin, hstream] at hput
  have hfold : (vVfold (s.vecCx g.val x q)).go u = (.ok (8, [bits q.w.toNat 28 8]),
      (v.putResult (s.vecCx g.val x q) (bits q.w.toNat 12 8) (fun _ => true)
        (laneAt (vb.map fun y => w32Mul (foldPairs (s.vec g.val).pairs) y))).reportIf (s.vecCx g.val x q) win
        (censusOf ((lanes.filter fun _ => true).map
          (laneAt (vb.map fun y => w32Mul (foldPairs (s.vec g.val).pairs) y))))) := by
    rw [vVfold, M.go_bind_ok (VCx.go_noAux (s.vecCx g.val x q) haux), M.go_bind_ok (VCx.go_noMask (s.vecCx g.val x q) hmask), M.go_bind_ok (M.go_getS u)]
    have hopd : (s.vecCx g.val x q).opd (s.vecCx g.val x q).b = some (.vec (bits q.w.toNat 28 8)) :=
      VCx.opd_vec (by rwa [hwin])
    have hpairs : (u.vec (s.vecCx g.val x q).g).pairs = (s.vec g.val).pairs := h.pairs
    simp only [hopd, hpairs]
    refine (M.go_bind_ok ((s.vecCx g.val x q).go_vecOf u (by rwa [hwin])) _).trans ((M.go_bind_ok hgo _).trans ?_)
    exact M.go_bind_ok hput _
  refine h.put_runs rfl (by decide) hv hfold (fun _ _ => rfl) fun l hl _ => ?_
  rw [← hvb l hl]
  simp [laneAt, List.getD_eq_getElem?_getD, hlen, hl]

end

end

/-- Settles O38: each word's checks pass, its sources are read without a fault, and what it writes is one change of the
pairs, of a scalar or of the lanes of a vector. -/
theorem vectorSumsAndFolds : Obligations.VectorSumsAndFolds := by
  rintro g x win q w s u rfl
  refine ⟨vaccz_runs, vacc_runs, fun r h haux hmask hr => ?_, fun e he r h haux ha hr => ?_⟩
  · subst hr
    have hmz := (noMask_of_bits hmask).2
    refine ⟨fun hb hd => (vfold_sca_runs h haux hmask hb).1 hd, fun hb hd hslot => ?_⟩
    have hlow : scaField (bits q.w.toNat 28 8) → ∀ l, vval s g.val win (bits q.w.toNat 28 8) q.sB l = q.sB.setWidth 32 :=
      fun hsca l => if_neg (Nat.not_lt.2 hsca.1)
    rcases hb with hvec | hsca
    · simpa only [hmz] using vfold_vec_runs h haux hmask hvec hd hslot
    · simpa only [hmz, hlow hsca] using (vfold_sca_runs h haux hmask hsca).2 hd hslot
  · simp only [List.mem_cons, List.not_mem_nil, or_false] at he
    rcases he with rfl | rfl | rfl
    · exact reduce_runs h rfl (by decide : 3 < 6) haux ha hr
    · exact reduce_runs h rfl (by decide : 4 < 6) haux ha hr
    · exact reduce_runs h rfl (by decide : 5 < 6) haux ha hr

end Sys2Proof.Machine

namespace Sys2Proof.Machine

/-! ### Words that a matrix engine refuses (03 R62, R63, R65, R70) -/

/-- A command whose work leaves the state leaves it whether work comes about or not. -/
theorem work_id {s : State} {f : State → State} (h : f s = s) : work s f = .next s := by
  rcases hworks : s.works with _ | _
  · rw [State.works, Bool.and_eq_false_iff, Bool.not_eq_false'] at hworks
    exact hworks.elim (work_dead s f) (work_fatal s f)
  · rw [work_left s f hworks, h]
    rfl

/-- The matrix engine's words with their opcode (03 R65). -/
def matWords (g : Fin 256) (e : Fin 2) : List (Instr × Nat) :=
  [(.macc g e, 1), (.mma g e, 2), (.mpart g e, 3), (.mcomb g e, 4), (.mout g e, 5)]

/-- Each takes its word from the front of the queue, and has an opcode that is not reserved. -/
theorem matWords_take {g : Fin 256} {e : Fin 2} : ∀ i ∈ matWords g e, 1 ≤ i.2 ∧ i.2 ≤ 5 ∧
    ∃ f, ∀ s, exec i.1 s = work s fun s => s.matWord g.val e.val i.2 f := by
  simp only [matWords, List.forall_mem_cons, List.not_mem_nil, false_imp_iff, implies_true, and_true]
  exact ⟨⟨by decide, by decide, _, fun _ => rfl⟩, ⟨by decide, by decide, _, fun _ => rfl⟩,
    ⟨by decide, by decide, _, fun _ => rfl⟩, ⟨by decide, by decide, _, fun _ => rfl⟩,
    ⟨by decide, by decide, _, fun _ => rfl⟩⟩

section
variable {s u v : State} {g e op : Nat} {x : Inst} {q : MWord} {m : MatEng} {r : List MWord}
  {f : State → Inst → MWord → MatEng → State}

/-- Nothing is taken from an empty queue. -/
theorem State.matWord_empty (hq : (s.mat (matIdx g e)).queue = []) : s.matWord g e op f = s := by
  rw [State.matWord]
  split
  · rfl
  · simp only [hq]

section
variable (hrun : s.running g = some x) (hq : (s.mat (matIdx g e)).queue = q :: r)
include hrun hq

/-- A reserved opcode faults whichever word is commanded. -/
theorem State.matWord_reserved (hop : bits q.w.toNat 0 4 = 0 ∨ 5 < bits q.w.toNat 0 4) :
    s.matWord g e op f = (s.setMat (matIdx g e) { s.mat (matIdx g e) with queue := r }).matFault g e false := by
  simp only [State.matWord, hrun, hq, if_pos hop]

/-- A word that is not the one commanded stays where it is. -/
theorem State.matWord_other (hlegal : ¬ (bits q.w.toNat 0 4 = 0 ∨ 5 < bits q.w.toNat 0 4))
    (hop : bits q.w.toNat 0 4 ≠ op) : s.matWord g e op f = s := by
  simp only [State.matWord, hrun, hq, if_neg hlegal, bne_iff_ne.2 hop, Bool.true_or, if_true]

/-- Header bits that are not 0 fault the word. -/
theorem State.matWord_header (hlow : 1 ≤ op) (hhigh : op ≤ 5) (hop : bits q.w.toNat 0 4 = op)
    (hhead : bits q.w.toNat 5 3 ≠ 0) (hheld : s.matHeld g e q = false) :
    s.matWord g e op f = (s.setMat (matIdx g e) { s.mat (matIdx g e) with queue := r }).matFault g e false := by
  have hlegal : ¬ (op = 0 ∨ 5 < op) := by omega
  simp only [State.matWord, hrun, hq, hop, hheld, if_neg hlegal, bne_self_eq_false, Bool.or_self, Bool.false_eq_true,
    if_false, bne_iff_ne.2 hhead, if_true]

end

/-- Reading no range of the cache leaves the state. -/
theorem go_ocReads_nil (h : (ocReads g []).go u = (.ok (), v)) : v = u := (Prod.ext_iff.1 h).2.symm

end

section
variable {s : State} {g : Fin 256} {e : Fin 2} {x : Inst} {q : MWord} {m : MatEng} {i : Instr × Nat}
variable (hi : i ∈ matWords g e) (h : matFront s g.val e.val x q i.2 m) (hdone : q.done = 0)
include hi h hdone

/-- A word at the front with ill-formed fields faults (03 R65). -/
theorem matWords_illFormed (hf : ¬ matFormed s x q.w.toNat m) :
    exec i.1 s = .next (left s ((s.setMat (matIdx g.val e.val) m).matFault g.val e.val false)) := by
  simp only [matWords, List.mem_cons, List.not_mem_nil, or_false] at hi
  rcases hi with rfl | rfl | rfl | rfl | rfl
  · exact h.comesTo (f := fun s => s.macc g.val e.val) rfl (h.macc_illFormed hf)
  · exact h.comesTo (f := fun s => s.mma g.val e.val) rfl (h.mma_illFormed hdone hf)
  · exact h.comesTo (f := fun s => s.mpart g.val e.val) rfl (h.mpart_illFormed hf)
  · exact h.comesTo (f := fun s => s.mcomb g.val e.val) rfl (h.mcomb_illFormed hf)
  · exact h.comesTo (f := fun s => s.mout g.val e.val) rfl (h.mout_illFormed hf)

/-- A well-formed word that the accumulation does not allow faults, MCOMB behind the read of its operand (03 R63). -/
theorem matWords_outOfTurn {v : State} (hf : matFormed s x q.w.toNat m) (ht : ¬ matInTurn s g.val q.w.toNat m)
    (hgo : (ocReads g.val (if i.2 = 4 then [(64 * bits q.w.toNat 16 14, partialBytes)] else [])).go
      (s.setMat (matIdx g.val e.val) m) = (.ok (), v)) :
    exec i.1 s = .next (left s (v.matFault g.val e.val true)) := by
  simp only [matWords, List.mem_cons, List.not_mem_nil, or_false] at hi
  rcases hi with rfl | rfl | rfl | rfl | rfl
  · have hop := h.op_eq
    exact absurd (by simp only [matInTurn, hop]) ht
  · cases go_ocReads_nil hgo
    exact h.comesTo (f := fun s => s.mma g.val e.val) rfl (h.mma_outOfTurn hdone hf ht)
  · cases go_ocReads_nil hgo
    exact h.comesTo (f := fun s => s.mpart g.val e.val) rfl (h.mpart_outOfTurn hf ht)
  · exact h.comesTo (f := fun s => s.mcomb g.val e.val) rfl (h.mcomb_outOfTurn hf ht hgo)
  · cases go_ocReads_nil hgo
    exact h.comesTo (f := fun s => s.mout g.val e.val) rfl (h.mout_outOfTurn hf ht)

/-- An MMA whose panels leave the cache faults (03 R67). -/
theorem matWords_outside (hf : matFormed s x q.w.toNat m) (ht : matInTurn s g.val q.w.toNat m) (hmma : i.2 = 2)
    (hin : m.mmaInside q.w.toNat = false) :
    exec i.1 s = .next (left s ((s.setMat (matIdx g.val e.val) m).matFault g.val e.val false)) := by
  simp only [matWords, List.mem_cons, List.not_mem_nil, or_false] at hi
  rcases hi with rfl | rfl | rfl | rfl | rfl
  case inr.inl => exact h.comesTo (f := fun s => s.mma g.val e.val) rfl (h.mma_outside hdone hf ht hin)
  all_goals simp at hmma

end
end Sys2Proof.Machine

namespace Sys2Proof.Machine

/-! ### What the vector engine's words do, by class and operation (04 R84) -/

/-- The shape of a vector word's effect, by its class and operation. -/
inductive VecShape : Nat → Nat → (VCx → M (Nat × List Nat)) → Prop
  | un {op n copy f} : VecShape 1 op (vUn n copy f)
  | bin {op n f} : VecShape 1 op (vBin n f)
  | tri {op f} : VecShape 1 op (vTri f)
  | cmp {op f two} : VecShape 2 op (vCmp f two)
  | mask {op f} : VecShape 3 op (vMask f)
  | knot : VecShape 3 4 vKnot
  | kfirst : VecShape 3 5 vKfirst
  | kcount : VecShape 3 6 vKcount
  | xfn {op n copy f} : VecShape 4 op (vUn n copy f)
  | vld : VecShape 5 0 vVld
  | vst : VecShape 5 1 vVst
  | vaccz : VecShape 6 0 vVaccz
  | vacc : VecShape 6 1 vVacc
  | vfold : VecShape 6 2 vVfold
  | reduce {op f} (h : 3 ≤ op) : VecShape 6 op (vReduce f)
  | vcompress : VecShape 7 0 vVcompress
  | vcstore : VecShape 7 1 vVcstore
  | vexpand : VecShape 7 2 vVexpand
  | vxload : VecShape 7 3 vVxload
  | vgather : VecShape 7 4 vVgather
  | vscatter : VecShape 7 5 vVscatter
  | vbcast : VecShape 7 6 vVbcast
  | fused {op k} (h : op < 3) : VecShape 8 op (vFused k)
  | vwin : VecShape 9 0 vVwin

/-- With no fused word in execution the command `e` takes a word of its class and operation, whose shape is known. -/
def vecTakes (g : Fin 256) (e : Instr × Nat × Nat) : Prop :=
  e.2.2 < vOps e.2.1 ∧ ∃ f, VecShape e.2.1 e.2.2 f ∧
    ∀ s : State, (s.vec g.val).run = none → exec e.1 s = work s fun s => s.vecWord g.val e.2.1 e.2.2 f

section
variable {g : Fin 256}

theorem VecShape.takes {i : Instr} {cls op : Nat} {f : VCx → M (Nat × List Nat)} (h : VecShape cls op f)
    (hop : op < vOps cls := by decide)
    (hi : ∀ s, exec i s = work s fun s => s.vecWord g.val cls op f := by exact fun _ => rfl) : vecTakes g (i, cls, op) :=
  ⟨hop, f, h, fun s _ => hi s⟩

/-- With none in execution a fused word is taken like any other (04 R83). -/
theorem State.vecFused_idle {s : State} {g op : Nat} (hrun : (s.vec g).run = none) (begin next : VCx → M (Nat × List Nat)) :
    s.vecFused g op begin next = s.vecWord g 8 op begin := by
  rw [State.vecFused, hrun]
  cases s.running g with
  | none => rfl
  | some x => rfl

theorem vecTakes_fused {i : Instr} {op : Nat} {k : Fused} (hop : op < 3)
    (hi : ∀ s, exec i s = work s fun s => s.vecFused g.val op (vFused k) (vFusedNext k)) : vecTakes g (i, 8, op) := by
  refine ⟨hop, vFused k, .fused hop, fun s hrun => (hi s).trans ?_⟩
  rw [work, work, act, act, State.vecFused_idle hrun]

open VecShape in
theorem vecWords_take : ∀ e ∈ vecWords g, vecTakes g e := by
  simp only [vecWords, List.forall_mem_cons, List.not_mem_nil, false_imp_iff, implies_true, and_true]
  exact ⟨bin.takes, bin.takes, bin.takes, tri.takes, tri.takes, bin.takes, bin.takes, un.takes, un.takes,
    un.takes, bin.takes, un.takes, tri.takes, un.takes, un.takes, cmp.takes, cmp.takes, cmp.takes, cmp.takes,
    cmp.takes, cmp.takes, mask.takes, mask.takes, mask.takes, mask.takes, knot.takes, kfirst.takes,
    kcount.takes, xfn.takes, xfn.takes, xfn.takes, xfn.takes, xfn.takes, xfn.takes, xfn.takes, xfn.takes,
    xfn.takes, xfn.takes, xfn.takes, vld.takes, vst.takes, vaccz.takes, vacc.takes, vfold.takes,
    (reduce (by decide)).takes, (reduce (by decide)).takes, (reduce (by decide)).takes, vcompress.takes,
    vcstore.takes, vexpand.takes, vxload.takes, vgather.takes, vscatter.takes, vbcast.takes,
    vecTakes_fused (by decide) fun _ => rfl, vecTakes_fused (by decide) fun _ => rfl,
    vecTakes_fused (by decide) fun _ => rfl, vwin.takes⟩

end
end Sys2Proof.Machine

namespace Sys2Proof.Machine

/-! ### Checks that stop a vector word (04 R84, R85, R88, R93) -/

/-- From `u` the word stops with a fault of its context, and has changed nothing. -/
def stopsWith {α : Type} (m : M α) (u : State) (kind detail : Nat) : Prop :=
  m.go u = (.error (.fault clsContext kind 0 detail none), u)

section
variable {α β : Type} {m : M α} {u : State} {k d : Nat}

theorem stopsWith.bind (h : stopsWith m u k d) (f : α → M β) : stopsWith (m >>= f) u k d := by
  rw [stopsWith, M.go_bind, h]

theorem stopsWith_of_bind {a : α} (hm : m.go u = (.ok a, u)) {f : α → M β} (h : stopsWith (f a) u k d) :
    stopsWith (m >>= f) u k d := (M.go_bind_ok hm f).trans h

end

section
variable {c : VCx} {u : State}

theorem VCx.enc_stops {α : Type} : stopsWith (c.enc : M α) u kEncoding c.g := rfl

theorem VCx.encIf_stops {b : Bool} (h : b = true) : stopsWith (c.encIf b) u kEncoding c.g := by
  rw [VCx.encIf, if_pos h]
  exact VCx.enc_stops

theorem VCx.seqIf_stops {b : Bool} (h : b = true) : stopsWith (c.seqIf b) u kSequence c.g := by
  rw [VCx.seqIf, if_pos h]
  rfl

theorem VCx.noAux_stops (h : c.aux ≠ 0) : stopsWith c.noAux u kEncoding c.g := VCx.encIf_stops (bne_iff_ne.2 h)

theorem VCx.noMask_stops (h : bits c.w 8 4 ≠ 0) : stopsWith c.noMask u kEncoding c.g := by
  refine VCx.encIf_stops ?_
  simp only [VCx.msel, VCx.mz, bit, bits, Bool.or_eq_true, bne_iff_ne, beq_iff_eq] at h ⊢
  omega

/-- A field that names no vector operand. -/
theorem VCx.vecOf_stops {f : Nat} (h : ¬ vecField c.window f) : stopsWith (c.vecOf f) u kEncoding c.g := by
  rw [VCx.vecOf]
  rcases hopd : c.opd f with _ | n | n
  · exact VCx.enc_stops
  · have hrest : c.opd f = if 0x80 ≤ f ∧ f < 0xA0 then some (.sca (f - 0x80)) else none := if_neg h
    rw [hrest] at hopd
    split at hopd <;> cases hopd
  · exact VCx.enc_stops

theorem VCx.maskOf_stops {f : Nat} {dest : Bool} (h : 8 ≤ f) : stopsWith (c.maskOf f dest) u kEncoding c.g :=
  (VCx.encIf_stops (decide_eq_true h)).bind _

/-- Mask 0 is no destination (04 R88). -/
theorem VCx.maskOf_zero_stops {f : Nat} (h : f = 0) : stopsWith (c.maskOf f true) u kSequence c.g := by
  subst h
  exact stopsWith_of_bind (c.go_encIf u rfl) ((VCx.seqIf_stops rfl).bind _)

/-! ### Words that stop -/

variable {cls op : Nat} {f : VCx → M (Nat × List Nat)}

/-- The words that use AUX (04 R84). -/
def auxWords : List (Nat × Nat) := [(5, 0), (5, 1), (6, 1), (7, 1), (7, 3), (8, 0), (8, 1), (8, 2)]

/-- A word without AUX checks it first, KNOT behind its field b. -/
theorem VecShape.aux_stops (h : VecShape cls op f) (haux : (cls, op) ∉ auxWords) (hne : c.aux ≠ 0) :
    stopsWith (f c) u kEncoding c.g := by
  have hstop : stopsWith c.noAux u kEncoding c.g := VCx.noAux_stops hne
  cases h with
  | knot =>
    rcases hb : c.b != 0 with _ | _
    · exact stopsWith_of_bind (c.go_encIf u hb) (hstop.bind _)
    · exact (VCx.encIf_stops hb).bind _
  | fused h =>
    refine absurd ?_ haux
    interval_cases op <;> decide
  | vld | vst | vacc | vcstore | vxload => exact absurd (by decide) haux
  | _ => exact hstop.bind _

/-- The words whose result is for vector D (04 R85). -/
def vecDest (cls op : Nat) : Prop :=
  cls = 1 ∨ cls = 4 ∨ (cls, op) = (7, 0) ∨ (cls, op) = (7, 2) ∨ (cls, op) = (7, 4) ∨ (cls, op) = (7, 6)

theorem VecShape.dest_stops (h : VecShape cls op f) (hdest : vecDest cls op) (haux : c.aux = 0)
    (hd : ¬ vecField c.window c.d) : stopsWith (f c) u kEncoding c.g := by
  have hpass := c.go_noAux (u := u) haux
  have hstop : stopsWith (c.vecOf c.d) u kEncoding c.g := VCx.vecOf_stops hd
  cases h with
  | un | bin | tri | xfn | vcompress | vexpand | vgather | vbcast => exact stopsWith_of_bind hpass (hstop.bind _)
  | _ => simp [vecDest] at hdest

/-- The words whose result is for mask D check it behind AUX, KNOT behind its field b too (04 R88). -/
theorem VecShape.mask_stops (h : VecShape cls op f) (hcls : cls = 2 ∨ cls = 3) (hcount : (cls, op) ≠ (3, 6))
    (hnot : (cls, op) = (3, 4) → c.b = 0) (haux : c.aux = 0) {k n : Nat}
    (hstop : stopsWith (c.maskOf c.d true) u k n) : stopsWith (f c) u k n := by
  have hpass := c.go_noAux (u := u) haux
  cases h with
  | cmp | mask | kfirst => exact stopsWith_of_bind hpass (hstop.bind _)
  | knot =>
    exact stopsWith_of_bind (c.go_encIf u (by rw [hnot rfl]; rfl)) (stopsWith_of_bind hpass (hstop.bind _))
  | kcount => exact absurd rfl hcount
  | _ => simp at hcls

/-- The words that take no mask check MSEL and MZ behind AUX (04 R93). -/
theorem VecShape.noMask_stops (h : VecShape cls op f)
    (hword : (cls, op) = (6, 0) ∨ (cls, op) = (6, 2) ∨ (cls, op) = (9, 0)) (haux : c.aux = 0) (hmask : bits c.w 8 4 ≠ 0) :
    stopsWith (f c) u kEncoding c.g := by
  have hpass := c.go_noAux (u := u) haux
  have hstop : stopsWith c.noMask u kEncoding c.g := VCx.noMask_stops hmask
  cases h with
  | vaccz | vfold | vwin => exact stopsWith_of_bind hpass (hstop.bind _)
  | reduce h => simp at hword; omega
  | _ => simp at hword

/-! ### VLD of W32 elements (04 R90, R93) -/

/-- A VLD of W32 elements checks the alignment of its address behind its fields. -/
theorem vVld_misaligned_stops (haux : c.aux = 3) (hd : vecField c.window c.d) (ha : scaField c.a) (hb : scaField c.b)
    (hmis : asNat c.cap.sA % 64 ≠ 0) : stopsWith (vVld c) u kSequence c.g := by
  have hfmt : c2fmt c.aux = .w32 := by rw [haux]; rfl
  have hseq : (asNat c.cap.sA % 64 != 0 || (Fmt.w32.scaled && asNat c.cap.sB % 16 != 0)) = true := by
    rw [bne_iff_ne.2 hmis, Bool.true_or]
  have hmove : stopsWith (c.moveArgs .w32) u kSequence c.g :=
    stopsWith_of_bind (c.go_scaOf u ha) (stopsWith_of_bind (c.go_scaOf u hb) (stopsWith_of_bind (c.go_encIf u rfl)
      ((VCx.seqIf_stops hseq).bind _)))
  rw [vVld]
  refine stopsWith_of_bind (c.go_encIf u (by rw [haux]; rfl)) (stopsWith_of_bind (c.go_vecOf u hd) ?_)
  simp only [hfmt]
  exact hmove.bind _

/-- The first active lane that leaves the cache stops the load. -/
theorem VCx.laneBounds_stops {ok : Nat → Bool} {at' : Nat → Nat} {l : Nat} (hl : l < 128) (hon : c.on l = true)
    (hout : ok l = false) (hfirst : ∀ k, k < l → c.on k = true → ok k = true) :
    stopsWith (c.laneBounds ok at') u kBounds (at' l) := by
  have hfind : c.active.find? (fun l => !(ok l)) = some l := by
    rw [VCx.active, List.find?_filter, lanes, upTo, List.find?_range_eq_some]
    simpa [hon, hout, hl] using fun k hk => (Bool.eq_false_or_eq_true (c.on k)).symm.imp_right (hfirst k hk)
  simp only [VCx.laneBounds, hfind]
  rfl

theorem vVld_outside_stops (haux : c.aux = 3) (hd : vecField c.window c.d) (ha : scaField c.a) (hb : scaField c.b)
    (halign : asNat c.cap.sA % 64 = 0) {l : Nat} (hl : l < 128) (hon : c.on l = true)
    (hout : ocSize < asNat c.cap.sA + 4 * l + 4)
    (hfirst : ∀ k, k < l → c.on k = true → asNat c.cap.sA + 4 * k + 4 ≤ ocSize) :
    stopsWith (vVld c) u kBounds (asNat c.cap.sA + 4 * l) := by
  have hfmt : c2fmt c.aux = .w32 := by rw [haux]; rfl
  have hat : ∀ a l, laneByte .w32 a l = a + 4 * l := fun a l => laneByte_plain rfl a l
  have hin : ∀ a sa k, laneIn .w32 a sa k = decide (a + 4 * k + 4 ≤ ocSize) := fun a sa k => by
    rw [laneIn, hat]
    exact Bool.and_true _
  rw [vVld]
  refine stopsWith_of_bind (c.go_encIf u (by rw [haux]; rfl)) (stopsWith_of_bind (c.go_vecOf u hd) ?_)
  simp only [hfmt]
  refine stopsWith_of_bind (c.go_moveArgs u ha hb halign fun h => absurd h (by decide)) (stopsWith_of_bind (M.go_getS u)
    (stopsWith_of_bind (c.go_encIf u rfl) (stopsWith_of_bind (c.go_stream u (by simp)) (stopsWith.bind ?_ _))))
  rw [← hat]
  refine VCx.laneBounds_stops hl hon ?_ fun k hk honk => ?_
  · rw [hin, decide_eq_false (Nat.not_le.2 hout)]
  · rw [hin, decide_eq_true (hfirst k hk honk)]

end
end Sys2Proof.Machine

namespace Sys2Proof.Machine

/-! ### Words that a vector engine refuses (04 R84, R85, R88, R93, R106) -/

section
variable {s u : State} {g : Nat} {x : Inst} {win : Bool} {q : VWord} {cls op : Nat} {rest : List VWord}
  {f : VCx → M (Nat × List Nat)}

/-- Nothing is taken from an empty queue. -/
theorem State.vecWord_empty (hq : (s.vec g).queue = []) : s.vecWord g cls op f = s := by
  rw [State.vecWord]
  split
  · rfl
  · simp only [hq]

section
variable (hrun : s.running g = some x) (hq : (s.vec g).queue = q :: rest) (hnone : (s.vec g).run = none)
include hrun hq hnone

/-- A reserved class or operation faults whichever word is commanded. -/
theorem State.vecWord_reserved (hop : vOps (vCls q.w.toNat) ≤ vOp q.w.toNat) :
    s.vecWord g cls op f = (s.setVec g { s.vec g with queue := rest }).vecFault g kEncoding g := by
  simp only [State.vecWord, hrun, hq, hnone, Option.isSome_none, Bool.false_eq_true, if_false, if_pos hop]

/-- A word that is not the one commanded stays where it is. -/
theorem State.vecWord_other (hlegal : vOp q.w.toNat < vOps (vCls q.w.toNat))
    (hother : (vCls q.w.toNat, vOp q.w.toNat) ≠ (cls, op)) : s.vecWord g cls op f = s := by
  have hne : (vCls q.w.toNat != cls || vOp q.w.toNat != op) = true := by
    simp only [ne_eq, Prod.mk.injEq, not_and] at hother
    simp only [Bool.or_eq_true, bne_iff_ne]
    exact or_iff_not_imp_left.2 fun h => hother (not_not.1 h)
  simp only [State.vecWord, hrun, hq, hnone, Option.isSome_none, Bool.false_eq_true, if_false,
    if_neg (Nat.not_le.2 hlegal), hne, if_true]

end

/-- A word that stops so is a fault of a vector word (04 R106). -/
theorem State.vecDo_stops {c : VCx} {k d : Nat} (hk : k = kEncoding ∨ k = kSequence ∨ k = kBounds)
    (hstop : stopsWith (f c) u k d) : s.vecDo u c f = u.vecFault c.g k d := by
  rw [State.vecDo, hstop]
  exact if_pos ⟨rfl, rfl, hk⟩

/-- A word at the front that stops in its checks is a fault of the core from the state with it taken (04 R106). -/
theorem vecFront.faults (h : vecFront s g x win q cls op u) {i : Instr} {k d : Nat}
    (hi : exec i s = work s fun s => s.vecWord g cls op f) (hop : op < vOps cls)
    (hk : k = kEncoding ∨ k = kSequence ∨ k = kBounds) (hstop : stopsWith (f (s.vecCx g x q)) u k d) :
    exec i s = .next (left s (u.vecFault g k d)) := by
  obtain ⟨hworks, hrun, -, -, ⟨rest, hq, rfl⟩, hnone, hcls, hop', -⟩ := h
  have hword : s.vecWord g cls op f = s.vecDo (s.setVec g { s.vec g with queue := rest }) (s.vecCx g x q) f := by
    simp only [State.vecWord, hrun, hq, hnone, hcls, hop', Option.isSome_none, bne_self_eq_false, Bool.or_self,
      Bool.false_eq_true, if_false, if_neg (Nat.not_le.2 hop)]
  rw [hi, work_left s _ hworks, hword, State.vecDo_stops hk hstop]
  rfl

end

section
variable {s u : State} {g : Fin 256} {x : Inst} {win : Bool} {q : VWord} {e : Instr × Nat × Nat}

/-- A command of the vector engine whose word stops in its checks, whatever the shape of the word. -/
theorem vecWords_fault (he : e ∈ vecWords g) (h : vecFront s g.val x win q e.2.1 e.2.2 u) {k d : Nat}
    (hk : k = kEncoding ∨ k = kSequence ∨ k = kBounds)
    (hstop : ∀ f, VecShape e.2.1 e.2.2 f → stopsWith (f (s.vecCx g.val x q)) u k d) :
    exec e.1 s = .next (left s (u.vecFault g.val k d)) := by
  obtain ⟨hop, f, hshape, htake⟩ := vecWords_take e he
  have hnone : (s.vec g.val).run = none := by
    obtain ⟨-, -, -, -, -, hnone, -⟩ := h
    exact hnone
  exact h.faults (htake s hnone) hop hk (hstop f hshape)

/-- Words of the queue's front that no command runs. -/
theorem vecWords_refused {rest : List VWord} (hworks : s.works = true) (hrun : s.running g.val = some x)
    (hq : (s.vec g.val).queue = q :: rest) (hnone : (s.vec g.val).run = none)
    (hu : u = s.setVec g.val { s.vec g.val with queue := rest }) (he : e ∈ vecWords g) :
    (vOps (vCls q.w.toNat) ≤ vOp q.w.toNat → exec e.1 s = .next (left s (u.vecFault g.val kEncoding g.val))) ∧
    (vOp q.w.toNat < vOps (vCls q.w.toNat) → (vCls q.w.toNat, vOp q.w.toNat) ≠ e.2 → exec e.1 s = .next s) := by
  obtain ⟨hop, f, hshape, htake⟩ := vecWords_take e he
  subst hu
  refine ⟨fun hres => ?_, fun hlegal hother => ?_⟩
  · rw [htake s hnone, work_left s _ hworks, State.vecWord_reserved hrun hq hnone hres]
  · rw [htake s hnone, work_id (State.vecWord_other hrun hq hnone hlegal hother)]

theorem vecWords_empty (hq : (s.vec g.val).queue = []) (hnone : (s.vec g.val).run = none) (he : e ∈ vecWords g) :
    exec e.1 s = .next s := by
  obtain ⟨hop, f, hshape, htake⟩ := vecWords_take e he
  rw [htake s hnone, work_id (State.vecWord_empty hq)]

/-- A VLD of W32 elements that stops in its checks. -/
theorem vld_fault (h : vecFront s g.val x win q 5 0 u) {k d : Nat} (hk : k = kEncoding ∨ k = kSequence ∨ k = kBounds)
    (hstop : stopsWith (vVld (s.vecCx g.val x q)) u k d) : exec (.vld g) s = .next (left s (u.vecFault g.val k d)) :=
  h.faults rfl (by decide) hk hstop

end

/-- The matrix engine's half of O32 (03 R62, R63, R65, R70). -/
theorem matWords_refused {s : State} {g : Fin 256} {e : Fin 2} {x : Inst} {q : MWord} {r : List MWord} {i : Instr × Nat}
    (hi : i ∈ matWords g e) (hworks : s.works = true) (hrun : s.running g.val = some x)
    (hq : (s.mat (matIdx g.val e.val)).queue = q :: r) {m : MatEng}
    (hm : m = { s.mat (matIdx g.val e.val) with queue := r }) :
    (bits q.w.toNat 0 4 = 0 ∨ 5 < bits q.w.toNat 0 4 ∨
        (bits q.w.toNat 0 4 = i.2 ∧ bits q.w.toNat 5 3 ≠ 0 ∧ s.matHeld g.val e.val q = false) →
      exec i.1 s = .next (left s ((s.setMat (matIdx g.val e.val) m).matFault g.val e.val false))) ∧
    (bits q.w.toNat 0 4 ≠ 0 → bits q.w.toNat 0 4 ≤ 5 → bits q.w.toNat 0 4 ≠ i.2 → exec i.1 s = .next s) := by
  obtain ⟨hlow, hhigh, f, htake⟩ := matWords_take i hi
  subst hm
  refine ⟨fun hbad => ?_, fun hpos hle hother => ?_⟩
  · rw [htake s, work_left s _ hworks]
    rcases hbad with hzero | hhigh' | ⟨hop, hhead, hheld⟩
    · rw [State.matWord_reserved hrun hq (.inl hzero)]
    · rw [State.matWord_reserved hrun hq (.inr hhigh')]
    · rw [State.matWord_header hrun hq hlow hhigh hop hhead hheld]
  · rw [htake s, work_id (State.matWord_other hrun hq (by omega) hother)]

/-- Settles O32: a word at the front is refused before it is taken for another's, or stops at the first of its checks
that fails, in the state with the word taken. -/
theorem engineWordsFault : Obligations.EngineWordsFault := by
  refine ⟨?_, ?_⟩
  · rintro g e x q w m s u rfl rfl i hi
    have hi : i ∈ matWords g e := hi
    refine ⟨fun r hworks hrun hq hm => matWords_refused hi hworks hrun hq hm, fun hq => ?_, fun h hdone =>
      ⟨matWords_illFormed hi h hdone, matWords_outside hi h hdone, fun v => matWords_outOfTurn hi h hdone⟩⟩
    obtain ⟨-, -, f, htake⟩ := matWords_take i hi
    rw [htake s, work_id (State.matWord_empty hq)]
  · rintro g x win q w s u rfl
    refine ⟨fun rest hworks hrun hq hnone hu e he => vecWords_refused hworks hrun hq hnone hu he,
      fun hq hnone e he => vecWords_empty hq hnone he,
      fun e he haux h hne => vecWords_fault he h (.inl rfl) fun f hf => hf.aux_stops haux hne,
      fun e he hdest h haux hd => vecWords_fault he h (.inl rfl) fun f hf => hf.dest_stops hdest haux ?_,
      fun e he hcls hcount hnot h haux => ⟨fun hd => ?_, fun hd => ?_⟩,
      fun e he hword h haux hmask => vecWords_fault he h (.inl rfl) fun f hf => hf.noMask_stops hword haux hmask,
      fun h haux hd ha hb a hat => ⟨fun hmis => ?_, fun l halign hl hon hout hfirst => ?_⟩⟩
    · rw [h.window]
      exact hd
    · exact vecWords_fault he h (.inl rfl) fun f hf => hf.mask_stops (c := s.vecCx g.val x q) hcls hcount hnot haux (VCx.maskOf_stops hd)
    · exact vecWords_fault he h (.inr (.inl rfl)) fun f hf =>
        hf.mask_stops (c := s.vecCx g.val x q) hcls hcount hnot haux (VCx.maskOf_zero_stops hd)
    · subst hat
      exact vld_fault h (.inr (.inl rfl)) (vVld_misaligned_stops haux (by rwa [h.window]) ha hb hmis)
    · subst hat
      have hlit : ∀ k, k < 128 → (s.vecCx g.val x q).on k = lit s g.val (bits q.w.toNat 8 3) k := fun k hk =>
        h.on (by decide) hk
      exact vld_fault h (.inr (.inr rfl)) (vVld_outside_stops (c := s.vecCx g.val x q) haux (by rwa [h.window]) ha hb halign hl
        ((hlit l hl).trans hon) hout fun k hk honk => hfirst k hk ((hlit k (hk.trans hl)).symm.trans honk))

end Sys2Proof.Machine

/-! PROOFS about the vector engine (04): lane words, masks, the transcendentals, permutations and fused rows; and the
control core's instructions that issue and wait (06). -/
namespace Sys2Proof.Machine

/-! ### What a vector word may read and change, step by step (04 R81, R92, R93) -/

section
variable {s u v t : State} {g : Nat} {x : Inst} {core core' : Bool}

theorem vecOnly.refl (u : State) : vecOnly u u g x false := ⟨rfl, fun _ => rfl, fun _ _ _ _ => rfl⟩

theorem vecOnly.trans (h : vecOnly u v g x core) (h' : vecOnly v t g x core') : vecOnly u t g x (core || core') := by
  obtain ⟨hv, hcore, hfield⟩ := h
  obtain ⟨ht, hcore', hfield'⟩ := h'
  refine ⟨by rw [ht, hv], fun hc => ?_, fun f h1 h2 h3 => (hfield' f h1 h2 h3).trans (hfield f h1 h2 h3)⟩
  rw [Bool.or_eq_false_iff] at hc
  exact (hcore' hc.2).trans (hcore hc.1)

theorem wrote.only (h : wrote u t) : Machine.vecOnly u t g x false := by
  obtain ⟨e, m, r, rfl⟩ := h
  exact ⟨rfl, fun _ => rfl, fun _ _ _ _ => rfl⟩

theorem vecOnly_putScalar (u : State) (n : Nat) (a : Word64) : vecOnly u (u.putScalar g n a) g x true :=
  ⟨rfl, nofun, fun _ _ _ _ => rfl⟩

theorem vecOnly_suppress (u : State) (n : Nat) : vecOnly u (u.incF (F.veSuppress g) n) g x false :=
  ⟨rfl, fun _ => rfl, fun _ _ _ h => State.getF_incF_ne _ n h⟩

/-- Counting the beats of a word leaves it within what a word may change. -/
theorem vecOnly.done (hu : left s u = u) (h : vecOnly u t g x core) (n : Nat) :
    vecOnly u (wordDone s t g x n) g x core := by
  obtain ⟨ht, hcore, hfield⟩ := h
  obtain ⟨r, hr⟩ := wordDone_shape (g := g) (x := x) s t n
  refine ⟨?_, fun hc => by rw [hr]; exact hcore hc, fun f hbusy hbeats hsup =>
    (wordDone_getF s n hbusy hbeats).trans (hfield f hbusy hbeats hsup)⟩
  rw [hr, ht]
  generalize hw : u = w at hu ⊢
  rw [← hu]
  rfl

/-- Operands were read without a fault: the check bits of SRAM words, what is counted of them, and lanes counted as
suppressed may differ. -/
structure OperandsRead (g : Nat) (x : Inst) (u v : State) : Prop where
  kept : VecKept u v
  only : vecOnly u v g x false
  mem : v.mem = { u.mem with sramSoft := v.mem.sramSoft, sramCe := v.mem.sramCe }

theorem OperandsRead.trans (h : OperandsRead g x u v) (h' : OperandsRead g x v t) : OperandsRead g x u t :=
  ⟨⟨h'.kept.eng.trans h.kept.eng, h'.kept.train.trans h.kept.train, h'.kept.oc.trans h.kept.oc,
    fun f hf => (h'.kept.field f hf).trans (h.kept.field f hf)⟩, h.only.trans h'.only, by rw [h'.mem, h.mem]⟩

theorem softRead.operands (h : softRead u v) : OperandsRead g x u v :=
  ⟨h.kept, h.wrote.only, by obtain ⟨soft, ce, rfl⟩ := h; rfl⟩

theorem OperandsRead.suppress (u : State) (n : Nat) : OperandsRead g x u (u.incF (F.veSuppress g) n) :=
  ⟨(VecKept.refl u).incF n (by simp only [Fld.key, F.veSuppress, clOff, dieOff]; omega), vecOnly_suppress u n, rfl⟩

theorem OperandsRead.ocGood (h : OperandsRead g x u v) {k a n : Nat} (hgood : Machine.ocGood u k a n) :
    Machine.ocGood v k a n := by
  rw [Machine.ocGood, h.mem]
  exact hgood

theorem OperandsRead.sramKept (h : OperandsRead g x u v) : Machine.sramKept u v := by
  rw [Machine.sramKept, h.mem]

theorem OperandsRead.ocChanged (h : OperandsRead g x u v) {k a n : Nat} (ht : Machine.ocChanged v t k a n) :
    Machine.ocChanged u t k a n :=
  Machine.ocChanged.trans ⟨by rw [h.mem], fun _ _ => by rw [h.kept.oc]⟩ ht

/-- What a word writes into its destination it writes there of the state before its reads. -/
theorem OperandsRead.lanesSet (h : OperandsRead g x u v) {k d : Nat} {win mz : Bool} {on : Nat → Bool} {f : Nat → W32}
    (hset : Machine.lanesSet v t k win mz d on f) : Machine.lanesSet u t k win mz d on f := by
  obtain ⟨hlanes, hsame, hother, hrest⟩ := hset
  refine ⟨fun l hl => by rw [hlanes l hl, h.kept.vlane], by rw [hsame, h.kept.vec],
    fun j hj => by rw [hother j hj, h.kept.vec], ?_⟩
  cases win with
  | true =>
    rw [h.kept.vec] at hrest
    exact ⟨hrest.1, h.ocChanged hrest.2⟩
  | false =>
    refine ⟨?_, fun n l hn hl hne => (hrest.2 n l hn hl hne).trans (h.kept.vlane _ _ _ _)⟩
    have hkept := hrest.1
    rw [Machine.sramKept, h.mem] at hkept
    exact hkept

end

section
variable {s u v t : State} {g : Nat} {x : Inst} {win : Bool} {q : VWord} {cls op : Nat}
variable (h : vecFront s g x win q cls op u)
include h

/-- A word whose last write is the lanes of its destination with the report of that stream, and perhaps a scalar: what
it leaves (04 R87, R92). -/
theorem vecFront.lanes_written {core stream : Bool} {d : Nat} {on on' : Nat → Bool} {val val' : Nat → W32} {k : Census}
    {p : State} (hv : OperandsRead g x u v)
    (hp : p = (v.putResult (s.vecCx g x q) d on val).reportIf (s.vecCx g x q) stream k) (honly : vecOnly p t g x core)
    (hvec : t.eng.vec = p.eng.vec) (hmem : t.mem = p.mem) (htrain : t.train = p.train)
    (hon : ∀ l, l < 128 → on' l = on l) (hval : ∀ l, l < 128 → on l = true → val' l = val l) (n : Nat) :
    vecOnly u (wordDone s t g x n) g x core ∧ reported u (wordDone s t g x n) x q.w.toNat stream ∧
      lanesSet u (wordDone s t g x n) g win (bit q.w.toNat 11) d on' val' := by
  subst hp
  have hbase : (s.vecCx g x q).wbase = (v.vec g).wbase := by rw [hv.kept.vec, h.wbase]; rfl
  have hset := lanesSet_putResult v hbase d on val
  rw [show (s.vecCx g x q).window = win from h.window] at hset
  refine ⟨?_, ?_, ?_⟩
  · exact (hv.only.trans (((v.putResult_wrote _ _ _ _).trans (State.reportIf_wrote _ _ _ _)).only.trans honly)).done
      h.left_eq n
  · have hrep := reported_reportIf u g (c := s.vecCx g x q)
      ((v.putResult_train (s.vecCx g x q) d on val).trans hv.kept.train) stream k s n
    unfold reported at hrep ⊢
    rwa [show (wordDone s t g x n).train = t.train from rfl, htrain]
  · exact hv.lanesSet (hset.congr (hvec.trans (congrArg Eng.vec (State.reportIf_eng _ _ _ _)))
      (hmem.trans (State.reportIf_mem _ _ _ _)) hon hval)

/-- A word whose effect is the lanes of its destination. -/
theorem vecFront.lanes_runs {i : Instr} {f : VCx → M (Nat × List Nat)} {r : Nat × List Nat} {stream : Bool} {d : Nat}
    {on on' : Nat → Bool} {val val' : Nat → W32} {k : Census} (hi : exec i s = work s fun s => s.vecWord g cls op f)
    (hop : op < vOps cls) (hv : OperandsRead g x u v) (hgo : (f (s.vecCx g x q)).go u =
      (.ok r, (v.putResult (s.vecCx g x q) d on val).reportIf (s.vecCx g x q) stream k))
    (hon : ∀ l, l < 128 → on' l = on l) (hval : ∀ l, l < 128 → on l = true → val' l = val l) :
    runsTo i s fun t => vecOnly u t g x false ∧ reported u t x q.w.toNat stream ∧
      lanesSet u t g win (bit q.w.toNat 11) d on' val' :=
  runsTo_of_vecFront h hi hop hgo fun n =>
    h.lanes_written hv rfl (vecOnly.refl _) rfl rfl rfl hon hval n

end

/-! ### Lane words (04 R79, R87, R88, R97) -/

theorem laneAt_zipWith (f : W32 → W32 → W32) {a b : List W32} {l : Nat} (ha : l < a.length) (hb : l < b.length) :
    laneAt (List.zipWith f a b) l = f (laneAt a l) (laneAt b l) := by
  simp [laneAt, List.getD_eq_getElem?_getD, ha, hb]

theorem laneAt_map_list (f : W32 → W32) {a : List W32} {l : Nat} (ha : l < a.length) :
    laneAt (a.map f) l = f (laneAt a l) := by
  simp [laneAt, List.getD_eq_getElem?_getD, ha]

section
variable {s u : State} {g : Fin 256} {x : Inst} {win : Bool} {q : VWord} {cls op : Nat} {i : Instr}

/-- What a lane word leaves: the active lanes of D take `val`, and a window write stream reports. -/
def laneWord (s u : State) (g : Nat) (x : Inst) (win : Bool) (q : VWord) (i : Instr) (stream : Bool) (val : Nat → W32) :
    Prop :=
  runsTo i s fun t => vecOnly u t g x false ∧
    lanesSet u t g win (bit q.w.toNat 11) (bits q.w.toNat 12 8) (lit s g (bits q.w.toNat 8 3)) val ∧
    reported u t x q.w.toNat stream

variable (h : vecFront s g.val x win q cls op u) (hop : op < vOps cls) (hcls : cls ≠ 8)
include h hop hcls

/-- A word that, its operands read, puts a value into each active lane of D. -/
theorem vecFront.put_laneWord {f : VCx → M (Nat × List Nat)} {r : Nat × List Nat} {copy : Bool} {vals : List W32}
    {val : Nat → W32} {v : State} (hi : exec i s = work s fun s => s.vecWord g.val cls op f)
    (hslot : win = true → copy = false → s.slotOk (bits q.w.toNat 44 12) x.ctx = true) (hv : softRead u v)
    (hgo : ∀ t, ((s.vecCx g.val x q).put (bits q.w.toNat 12 8) (s.vecCx g.val x q).on vals copy).go v = (.ok (), t) →
      (f (s.vecCx g.val x q)).go u = (.ok r, t)) (hval : ∀ l, l < 128 → val l = laneAt vals l) :
    laneWord s u g.val x win q i (win && !copy) val := by
  have hwin : (s.vecCx g.val x q).window = win := h.window
  have hput := VCx.go_put (c := s.vecCx g.val x q) (copy := copy) v (bits q.w.toNat 12 8) (s.vecCx g.val x q).on vals
    fun hw => (hv.kept.slotOk _ _).trans ((h.slotOk _ _).trans (by
      rw [hwin, Bool.and_eq_true, Bool.not_eq_true'] at hw
      exact hslot hw.1 hw.2))
  rw [hwin] at hput
  obtain ⟨t, ht, honly, hrep, hset⟩ := h.lanes_runs hi hop hv.operands (hgo _ hput)
    (fun l hl => (h.on hcls hl).symm) fun l hl _ => hval l hl
  exact ⟨t, ht, honly, hset, hrep⟩

variable (haux : bits q.w.toNat 56 8 = 0) (hd : vecField win (bits q.w.toNat 12 8))
  (ha : srcField win (bits q.w.toNat 20 8))
include haux hd ha

theorem un_laneWord {n : Nat} {copy : Bool} {f : W32 → W32}
    (hi : exec i s = work s fun s => s.vecWord g.val cls op (vUn n copy f))
    (hslot : win = true → copy = false → s.slotOk (bits q.w.toNat 44 12) x.ctx = true) :
    laneWord s u g.val x win q i (win && !copy) fun l => f (vval s g.val win (bits q.w.toNat 20 8) q.sA l) := by
  obtain ⟨va, v, hgo, hv, hlen, hva⟩ := h.go_src (softRead.refl u) q.sA ha
  refine h.put_laneWord hop hcls hi hslot hv (r := (n, [bits q.w.toNat 20 8])) (vals := va.map f) (fun t ht => ?_)
    fun l hl => ?_
  · rw [vUn, M.go_bind_ok (VCx.go_noAux (s.vecCx g.val x q) haux),
      M.go_bind_ok ((s.vecCx g.val x q).go_vecOf u (by rwa [h.window]))]
    exact (M.go_bind_ok hgo _).trans (M.go_bind_ok ht _)
  · rw [laneAt_map_list f (hlen ▸ hl), hva l hl]

theorem bin_laneWord {n : Nat} {f : W32 → W32 → W32}
    (hi : exec i s = work s fun s => s.vecWord g.val cls op (vBin n f)) (hb : srcField win (bits q.w.toNat 28 8))
    (hslot : win = true → s.slotOk (bits q.w.toNat 44 12) x.ctx = true) :
    laneWord s u g.val x win q i win fun l => f (vval s g.val win (bits q.w.toNat 20 8) q.sA l)
      (vval s g.val win (bits q.w.toNat 28 8) q.sB l) := by
  obtain ⟨va, v, hgo, hv, hlen, hva⟩ := h.go_src (softRead.refl u) q.sA ha
  obtain ⟨vb, v', hgo', hv', hlen', hvb⟩ := h.go_src hv q.sB hb
  have hput := h.put_laneWord hop hcls hi (copy := false) (fun hw _ => hslot hw) hv'
    (r := (n, [bits q.w.toNat 20 8, bits q.w.toNat 28 8])) (vals := List.zipWith f va vb)
    (val := fun l => f (vval s g.val win (bits q.w.toNat 20 8) q.sA l) (vval s g.val win (bits q.w.toNat 28 8) q.sB l))
    (fun t ht => ?_) fun l hl => ?_
  · simpa using hput
  · rw [vBin, M.go_bind_ok (VCx.go_noAux (s.vecCx g.val x q) haux),
      M.go_bind_ok ((s.vecCx g.val x q).go_vecOf u (by rwa [h.window]))]
    exact (M.go_bind_ok hgo _).trans ((M.go_bind_ok hgo' _).trans (M.go_bind_ok ht _))
  · rw [laneAt_zipWith f (hlen ▸ hl) (hlen' ▸ hl), hva l hl, hvb l hl]

theorem tri_laneWord {f : W32 → W32 → W32 → W32}
    (hi : exec i s = work s fun s => s.vecWord g.val cls op (vTri f)) (hb : srcField win (bits q.w.toNat 28 8))
    (hc : srcField win (bits q.w.toNat 36 8)) (hslot : win = true → s.slotOk (bits q.w.toNat 44 12) x.ctx = true) :
    laneWord s u g.val x win q i win fun l => f (vval s g.val win (bits q.w.toNat 20 8) q.sA l)
      (vval s g.val win (bits q.w.toNat 28 8) q.sB l) (vval s g.val win (bits q.w.toNat 36 8) q.sC l) := by
  obtain ⟨va, v, hgo, hv, -, hva⟩ := h.go_src (softRead.refl u) q.sA ha
  obtain ⟨vb, v', hgo', hv', -, hvb⟩ := h.go_src hv q.sB hb
  obtain ⟨vc, w, hgo'', hw, -, hvc⟩ := h.go_src hv' q.sC hc
  have hput := h.put_laneWord hop hcls hi (copy := false) (fun hw _ => hslot hw) hw
    (r := (1, [bits q.w.toNat 20 8, bits q.w.toNat 28 8, bits q.w.toNat 36 8]))
    (vals := lanes.map fun l => f (laneAt va l) (laneAt vb l) (laneAt vc l))
    (val := fun l => f (vval s g.val win (bits q.w.toNat 20 8) q.sA l) (vval s g.val win (bits q.w.toNat 28 8) q.sB l)
      (vval s g.val win (bits q.w.toNat 36 8) q.sC l)) (fun t ht => ?_) fun l hl => ?_
  · simpa using hput
  · rw [vTri, M.go_bind_ok (VCx.go_noAux (s.vecCx g.val x q) haux),
      M.go_bind_ok ((s.vecCx g.val x q).go_vecOf u (by rwa [h.window]))]
    exact (M.go_bind_ok hgo _).trans ((M.go_bind_ok hgo' _).trans ((M.go_bind_ok hgo'' _).trans (M.go_bind_ok ht _)))
  · rw [laneAt_map _ hl, hva l hl, hvb l hl, hvc l hl]

end

end Sys2Proof.Machine

namespace Sys2Proof.Machine

/-- The shape of a lane word's effect: how many operands it takes, whether it only copies, what it runs, and the value
it gives a lane. -/
inductive LaneShape : Nat → Bool → (VCx → M (Nat × List Nat)) → (W32 → W32 → W32 → W32) → Prop
  | un {n copy} (f) : LaneShape 1 copy (vUn n copy f) fun a _ _ => f a
  | bin {n} (f) : LaneShape 2 false (vBin n f) fun a b _ => f a b
  | tri (f) : LaneShape 3 false (vTri f) f

theorem LaneShape.laneWord {s u : State} {g : Fin 256} {x : Inst} {win : Bool} {q : VWord} {cls op k : Nat} {i : Instr}
    {copy : Bool} {f : VCx → M (Nat × List Nat)} {val : W32 → W32 → W32 → W32} (hshape : LaneShape k copy f val)
    (h : vecFront s g.val x win q cls op u) (hop : op < vOps cls) (hcls : cls ≠ 8)
    (hi : exec i s = work s fun s => s.vecWord g.val cls op f) (haux : bits q.w.toNat 56 8 = 0)
    (hd : vecField win (bits q.w.toNat 12 8)) (ha : srcField win (bits q.w.toNat 20 8))
    (hb : 2 ≤ k → srcField win (bits q.w.toNat 28 8)) (hc : 3 ≤ k → srcField win (bits q.w.toNat 36 8))
    (hslot : win = true → copy = false → s.slotOk (bits q.w.toNat 44 12) x.ctx = true) :
    Machine.laneWord s u g.val x win q i (win && !copy) fun l => val (vval s g.val win (bits q.w.toNat 20 8) q.sA l)
      (vval s g.val win (bits q.w.toNat 28 8) q.sB l) (vval s g.val win (bits q.w.toNat 36 8) q.sC l) := by
  have hall : (win && !false) = win := Bool.and_true win
  cases hshape with
  | un => exact un_laneWord h hop hcls haux hd ha hi hslot
  | bin =>
    rw [hall]
    exact bin_laneWord h hop hcls haux hd ha hi (hb (by decide)) fun hw => hslot hw rfl
  | tri =>
    rw [hall]
    exact tri_laneWord h hop hcls haux hd ha hi (hb (by decide)) (hc (by decide)) fun hw => hslot hw rfl

/-- The command of `e` takes a lane word of its class, operation, number of operands and value (04 R84, R88). -/
def laneTakes (g : Fin 256) (e : Instr × Nat × Nat × Nat × (W32 → W32 → W32 → W32)) : Prop :=
  e.2.2.1 < vOps e.2.1 ∧ e.2.1 ≠ 8 ∧ ∃ copy f, LaneShape e.2.2.2.1 copy f e.2.2.2.2 ∧ copy = decide (e.1 = .vmov g) ∧
    ∀ s, exec e.1 s = work s fun s => s.vecWord g.val e.2.1 e.2.2.1 f

theorem LaneShape.takes {g : Fin 256} {i : Instr} {cls op k : Nat} {f : VCx → M (Nat × List Nat)}
    {val : W32 → W32 → W32 → W32} (hshape : LaneShape k false f val) (hop : op < vOps cls := by decide)
    (hcls : cls ≠ 8 := by decide) (hmov : i ≠ .vmov g := by nofun)
    (hi : ∀ s, exec i s = work s fun s => s.vecWord g.val cls op f := by exact fun _ => rfl) :
    laneTakes g (i, cls, op, k, val) :=
  ⟨hop, hcls, false, f, hshape, (decide_eq_false hmov).symm, hi⟩

theorem vmov_takes (g : Fin 256) : laneTakes g (.vmov g, 1, 9, 1, fun a _ _ => a) :=
  ⟨(by decide : 9 < vOps 1), (by decide : 1 ≠ 8), true, _, .un id, (decide_eq_true rfl).symm, fun _ => rfl⟩

open LaneShape in
/-- Settles O34: each word has one of three shapes, by its number of operands, and each shape sets the lanes of D. -/
theorem vectorLaneWords : Obligations.VectorLaneWords := by
  rintro g x win q w s u rfl e he
  have htakes : laneTakes g e := by
    revert e
    simp only [List.forall_mem_cons, List.not_mem_nil, false_imp_iff, implies_true, and_true]
    exact ⟨(bin _).takes, (bin _).takes, (bin _).takes, (tri _).takes, (tri _).takes, (bin _).takes, (bin _).takes,
      (un _).takes, (un _).takes, vmov_takes g, (bin _).takes, (un _).takes, (tri _).takes, (un _).takes,
      (un fun a => w32OfNat a.toNat).takes, (un _).takes, (un _).takes, (un _).takes, (un _).takes, (un fRcp).takes,
      (un _).takes, (un _).takes, (un _).takes, (un _).takes, (un _).takes, (un _).takes⟩
  obtain ⟨hop, hcls, copy, f, hshape, hcopy, hi⟩ := htakes
  intro h haux hd ha hb hc hslot
  have hmov : (win && decide (e.1 ≠ .vmov g)) = (win && !copy) := by rw [hcopy, decide_not]
  rw [hmov]
  refine hshape.laneWord h hop hcls (hi s) haux hd ha hb hc fun hw hnot => hslot hw ?_
  rw [hcopy] at hnot
  exact of_decide_eq_false hnot

end Sys2Proof.Machine

namespace Sys2Proof.Machine

/-! ### Masks as numbers (04 R88) -/

theorem bit_eq_testBit (v i : Nat) : bit v i = v.testBit i := by
  rw [bit, Nat.testBit_eq_decide_div_mod_eq, beq_eq_decide]

/-- The number whose bits below `n` are those of `f`. -/
theorem testBit_foldl_pow (f : Nat → Bool) (n : Nat) :
    (List.range n).foldl (fun m l => if f l then m + 2 ^ l else m) 0 < 2 ^ n ∧
      ∀ l, l < n → ((List.range n).foldl (fun m l => if f l then m + 2 ^ l else m) 0).testBit l = f l := by
  induction n with
  | zero => exact ⟨Nat.one_pos, nofun⟩
  | succ n ih =>
    rw [List.range_succ, List.foldl_append, List.foldl_cons, List.foldl_nil]
    obtain ⟨hlt, hbits⟩ := ih
    generalize (List.range n).foldl (fun m l => if f l then m + 2 ^ l else m) 0 = m at hlt hbits ⊢
    have htop : m.testBit n = false := Nat.testBit_lt_two_pow hlt
    refine ⟨?_, fun l hl => ?_⟩
    · rw [pow_succ]
      split <;> omega
    · rcases Nat.lt_succ_iff_lt_or_eq.1 hl with hlow | rfl
      · split
        · rw [Nat.add_comm, Nat.testBit_two_pow_add_gt hlow, hbits l hlow]
        · exact hbits l hlow
      · split <;> rename_i hf
        · rw [Nat.add_comm, Nat.testBit_two_pow_add_eq, htop, hf]
          rfl
        · rw [htop, Bool.eq_false_iff.2 hf]

theorem bit_maskOfLanes (f : Nat → Bool) {l : Nat} (hl : l < 128) : bit (maskOfLanes f) l = f l := by
  rw [bit_eq_testBit]
  exact (testBit_foldl_pow f 128).2 l hl

/-- The bits of a mask as the lanes it lights. -/
theorem getLsbD_maskOfLanes (f : Nat → Bool) {l : Nat} (hl : l < 128) :
    (BitVec.ofNat 128 (maskOfLanes f)).getLsbD l = f l := by
  rw [BitVec.getLsbD_ofNat, decide_eq_true hl, Bool.true_and, ← bit_eq_testBit, bit_maskOfLanes f hl]

theorem bit_all128 {l : Nat} (hl : l < 128) : bit all128 l = true := bit_allLanes hl

theorem bit_and (a b l : Nat) : bit (a &&& b) l = (bit a l && bit b l) := by simp only [bit_eq_testBit, Nat.testBit_and]
theorem bit_or (a b l : Nat) : bit (a ||| b) l = (bit a l || bit b l) := by simp only [bit_eq_testBit, Nat.testBit_or]
theorem bit_xor (a b l : Nat) : bit (a ^^^ b) l = (bit a l != bit b l) := by
  simp only [bit_eq_testBit, Nat.testBit_xor, Bool.bne_eq_xor]
theorem bit_not (a : Nat) {l : Nat} (hl : l < 128) : bit (all128 ^^^ a) l = !(bit a l) := by
  rw [bit_xor, bit_all128 hl, Bool.true_bne]
theorem bit_firstLanes (n : Nat) {l : Nat} (hl : l < 128) : bit (2 ^ Nat.min 128 n - 1) l = decide (l < n) := by
  rw [bit_eq_testBit, Nat.testBit_two_pow_sub_one]
  exact decide_eq_decide.2 (Nat.lt_min.trans (and_iff_right hl))

/-! ### Words whose result is a mask (04 R88, R92) -/

theorem VCx.go_maskOf (c : VCx) (u : State) {f : Nat} {dest : Bool} (hlow : f < 8) (hdest : dest = true → 1 ≤ f) :
    (c.maskOf f dest).go u = (.ok f, u) := by
  have hseq : (dest && f == 0) = false := by
    cases dest with
    | false => rfl
    | true => exact beq_false_of_ne (by have := hdest rfl; omega)
  rw [VCx.maskOf, M.go_bind_ok (c.go_encIf u (decide_eq_false (Nat.not_le.2 hlow))), M.go_bind_ok (c.go_seqIf u hseq),
    M.go_pure]

section
variable {s u v : State} {g : Fin 256} {x : Inst} {win : Bool} {q : VWord} {cls op : Nat} {i : Instr}

theorem vecFront.kmask (h : vecFront s g.val x win q cls op u) (n : Nat) : u.kmask g.val n = s.kmask g.val n := by
  obtain ⟨rest, rfl⟩ := h.taken
  simp only [State.kmask, State.vec_setVec]

/-- A word that does nothing but read and write a mask sets the active lanes of the mask. -/
theorem vecFront.mask_runs (h : vecFront s g.val x win q cls op u) {f : VCx → M (Nat × List Nat)} {r : Nat × List Nat}
    {n : Nat} {val : Nat → Bool} (hi : exec i s = work s fun s => s.vecWord g.val cls op f) (hop : op < vOps cls)
    (hcls : cls ≠ 8) (hv : softRead u v) (hdest : 1 ≤ bits q.w.toNat 12 8)
    (hgo : (f (s.vecCx g.val x q)).go u = (.ok r, v.putMask (s.vecCx g.val x q) (bits q.w.toNat 12 8) n))
    (hval : ∀ l, l < 128 → val l = bit n l) :
    runsTo i s fun t => vecQuiet u t g.val x false ∧
      maskSet u t g.val (bit q.w.toNat 11) (bits q.w.toNat 12 8) (lit s g.val (bits q.w.toNat 8 3)) val := by
  obtain ⟨t, ht, hquiet, hvec, hother⟩ := h.engine_runs hi hop hv hgo
  have hne : ¬ bits q.w.toNat 12 8 = 0 := by omega
  have hvu : v.vec g.val = u.vec g.val := hv.kept.vec _
  have hold : ∀ n, v.kmask g.val n = u.kmask g.val n := fun n => by rw [State.kmask, State.kmask, hvu]
  refine ⟨t, ht, hquiet, fun l hl => ?_, fun n l hn => ?_, ?_, fun k hk => (hother k hk).trans (h.vec_other hk).symm⟩
  · rw [lit, hvec, decide_eq_false hne, Bool.false_or]
    simp only [tget_tput_same, getLsbD_maskOfLanes _ hl, h.on hcls hl, hval l hl]
    rw [show (s.vecCx g.val x q).g = g.val from rfl, hold, bit_kmask u _ _ hl]
    rfl
  · rw [lit, hvec, lit]
    simp only [tget_tput_ne _ _ _ hn]
    rw [show (s.vecCx g.val x q).g = g.val from rfl, hvu]
  · rw [hvec, show (s.vecCx g.val x q).g = g.val from rfl, hvu]

variable (hdest : 1 ≤ bits q.w.toNat 12 8) (hlow : bits q.w.toNat 12 8 < 8)
include hdest hlow

/-- A comparison of a and b, or a test of a. -/
theorem cmp_runs (h : vecFront s g.val x win q 2 op u) (haux : bits q.w.toNat 56 8 = 0) {f : W32 → W32 → Bool} {two : Bool}
    (hi : exec i s = work s fun s => s.vecWord g.val 2 op (vCmp f two)) (hop : op < 6)
    (ha : srcField win (bits q.w.toNat 20 8)) (hb : two = true → srcField win (bits q.w.toNat 28 8))
    (hone : two = false → ∀ a b b', f a b = f a b') :
    runsTo i s fun t => vecQuiet u t g.val x false ∧
      maskSet u t g.val (bit q.w.toNat 11) (bits q.w.toNat 12 8) (lit s g.val (bits q.w.toNat 8 3)) fun l =>
        f (vval s g.val win (bits q.w.toNat 20 8) q.sA l) (vval s g.val win (bits q.w.toNat 28 8) q.sB l) := by
  obtain ⟨va, v, hgo, hv, -, hva⟩ := h.go_src (softRead.refl u) q.sA ha
  obtain ⟨vb, v', hgo', hv', hvb⟩ : ∃ vb v', (if two then (s.vecCx g.val x q).srcB else pure va).go v = (.ok vb, v') ∧
      softRead u v' ∧ ∀ l, l < 128 → f (laneAt va l) (laneAt vb l) =
        f (vval s g.val win (bits q.w.toNat 20 8) q.sA l) (vval s g.val win (bits q.w.toNat 28 8) q.sB l) := by
    cases two with
    | true =>
      obtain ⟨vb, v', hgo', hv', -, hvb⟩ := h.go_src hv q.sB (hb rfl)
      exact ⟨vb, v', hgo', hv', fun l hl => by rw [hva l hl, hvb l hl]⟩
    | false => exact ⟨va, v, rfl, hv, fun l hl => by rw [hva l hl]; exact hone rfl _ _ _⟩
  refine h.mask_runs hi hop (by decide) hv' hdest (r := (1, if two then [bits q.w.toNat 20 8, bits q.w.toNat 28 8]
    else [bits q.w.toNat 20 8])) (n := maskOfLanes fun l => f (laneAt va l) (laneAt vb l)) ?_ fun l hl => ?_
  · refine (M.go_bind_ok (VCx.go_noAux (s.vecCx g.val x q) haux) _).trans ((M.go_bind_ok
      ((s.vecCx g.val x q).go_maskOf u hlow fun _ => hdest) _).trans ((M.go_bind_ok hgo _).trans ?_))
    cases two <;> exact (M.go_bind_ok hgo' _).trans (M.go_bind_ok (M.go_setS _ _) _)
  · rw [bit_maskOfLanes _ hl, hvb l hl]

section
variable (h : vecFront s g.val x win q 3 op u) (haux : bits q.w.toNat 56 8 = 0) (ha : bits q.w.toNat 20 8 < 8)
include h haux ha

/-- What a word on two masks runs. -/
theorem go_vMask (f : Nat → Nat → Nat) (hb : bits q.w.toNat 28 8 < 8) : (vMask f (s.vecCx g.val x q)).go u = (.ok (1, []),
    u.putMask (s.vecCx g.val x q) (bits q.w.toNat 12 8)
      (f (s.kmask g.val (bits q.w.toNat 20 8)) (s.kmask g.val (bits q.w.toNat 28 8)))) := by
  rw [← h.kmask, ← h.kmask]
  exact (M.go_bind_ok (VCx.go_noAux (s.vecCx g.val x q) haux) _).trans ((M.go_bind_ok
    ((s.vecCx g.val x q).go_maskOf u hlow fun _ => hdest) _).trans ((M.go_bind_ok
    ((s.vecCx g.val x q).go_maskOf u ha (dest := false) nofun) _).trans
      (M.go_bind_ok ((s.vecCx g.val x q).go_maskOf u hb (dest := false) nofun) _)))

/-- An operation of masks A and B. -/
theorem maskOp_runs {k : VCx → M (Nat × List Nat)} {f : Nat → Nat → Nat} {b : Bool → Bool → Bool}
    (hi : exec i s = work s fun s => s.vecWord g.val 3 op k) (hop : op < 7) (hb : bits q.w.toNat 28 8 < 8)
    (hk : (k (s.vecCx g.val x q)).go u = (vMask f (s.vecCx g.val x q)).go u)
    (hf : ∀ m n l, l < 128 → bit (f m n) l = b (bit m l) (bit n l)) :
    runsTo i s fun t => vecQuiet u t g.val x false ∧
      maskSet u t g.val (bit q.w.toNat 11) (bits q.w.toNat 12 8) (lit s g.val (bits q.w.toNat 8 3)) fun l =>
        b (lit s g.val (bits q.w.toNat 20 8) l) (lit s g.val (bits q.w.toNat 28 8) l) := by
  refine h.mask_runs hi hop (by decide) (softRead.refl u) hdest (hk.trans (go_vMask hdest hlow h haux ha f hb))
    fun l hl => ?_
  rw [hf _ _ _ hl, bit_kmask s _ _ hl, bit_kmask s _ _ hl]

end

theorem kfirst_runs (h : vecFront s g.val x win q 3 5 u) (haux : bits q.w.toNat 56 8 = 0)
    (ha : scaField (bits q.w.toNat 20 8)) : runsTo (.kfirst g) s fun t => vecQuiet u t g.val x false ∧
      maskSet u t g.val (bit q.w.toNat 11) (bits q.w.toNat 12 8) (lit s g.val (bits q.w.toNat 8 3)) fun l =>
        decide (l < q.sA.toNat % 2 ^ 32) := by
  refine h.mask_runs rfl (by decide) (by decide) (softRead.refl u) hdest (r := (1, []))
    (n := 2 ^ Nat.min 128 (asNat q.sA) - 1) ?_ fun l hl => (bit_firstLanes _ hl).symm
  exact (M.go_bind_ok (VCx.go_noAux (s.vecCx g.val x q) haux) _).trans ((M.go_bind_ok
    ((s.vecCx g.val x q).go_maskOf u hlow fun _ => hdest) _).trans
    (M.go_bind_ok ((s.vecCx g.val x q).go_scaOf u ha) _))

end

section
variable {s u : State} {g : Fin 256} {x : Inst} {win : Bool} {q : VWord}

theorem kcount_runs (h : vecFront s g.val x win q 3 6 u) (haux : bits q.w.toNat 56 8 = 0)
    (hd : scaField (bits q.w.toNat 12 8)) (ha : bits q.w.toNat 20 8 < 8) :
    runsTo (.kcount g) s fun t => vecQuiet u t g.val x true ∧ t.eng.vec = u.eng.vec ∧
      scalarSet u t g.val (bits q.w.toNat 12 8 - 0x80) (BitVec.ofNat 64
        ((activeLanes s g.val q.w.toNat).filter fun l => lit s g.val (bits q.w.toNat 20 8) l).length) := by
  refine h.scalar_runs rfl (by decide) (softRead.refl u) (r := (2, [])) ?_
  have hact := s.vecCx_active g.val x q (by rw [h.class_eq]; decide)
  have hlit : (activeLanes s g.val q.w.toNat).filter (bit (u.kmask g.val (bits q.w.toNat 20 8))) =
      (activeLanes s g.val q.w.toNat).filter fun l => lit s g.val (bits q.w.toNat 20 8) l :=
    List.filter_congr fun l hl => by
      rw [h.kmask]
      exact bit_kmask s _ _ (List.mem_range.1 (List.mem_of_mem_filter hl))
  rw [← hlit, ← hact]
  exact (M.go_bind_ok (VCx.go_noAux (s.vecCx g.val x q) haux) _).trans ((M.go_bind_ok
    ((s.vecCx g.val x q).go_scaOf u hd) _).trans (M.go_bind_ok ((s.vecCx g.val x q).go_maskOf u ha (dest := false) nofun) _))

theorem vwin_runs (h : vecFront s g.val x win q 9 0 u) (haux : bits q.w.toNat 56 8 = 0) (hmask : bits q.w.toNat 8 4 = 0)
    (ha : scaField (bits q.w.toNat 20 8)) (hmod : asNat q.sA % 65536 = 0) (hlt : asNat q.sA < ocSize) :
    runsTo (.vwin g) s fun t => vecQuiet u t g.val x false ∧
      t.vec g.val = { u.vec g.val with wbase := asNat q.sA } ∧ ∀ k, k ≠ g.val → t.vec k = s.vec k := by
  refine h.engine_runs rfl (by decide) (softRead.refl u) (r := (1, [])) ?_
  have hseq : (asNat q.sA % 65536 != 0 || decide (ocSize ≤ asNat q.sA)) = false := by
    rw [hmod, decide_eq_false (Nat.not_le.2 hlt)]
    rfl
  exact (M.go_bind_ok (VCx.go_noAux (s.vecCx g.val x q) haux) _).trans ((M.go_bind_ok
    (VCx.go_noMask (s.vecCx g.val x q) hmask) _).trans ((M.go_bind_ok ((s.vecCx g.val x q).go_scaOf u ha) _).trans
    (M.go_bind_ok ((s.vecCx g.val x q).go_seqIf u hseq) _)))

/-- Settles O36: a mask is a number whose bits are its lanes, and each word writes one mask, one scalar or the window
base from what it reads. -/
theorem vectorMasks : Obligations.VectorMasks := by
  rintro g x win q w s u rfl haux
  refine ⟨fun e he => ?_, fun e he => ?_, fun h hdest hlow ha => kfirst_runs hdest hlow h haux ha,
    fun h hd ha => kcount_runs h haux hd ha, fun h _ hmask ha hmod hlt => vwin_runs h haux hmask ha hmod hlt⟩
  · simp only [List.mem_cons, List.not_mem_nil, or_false] at he
    rcases he with rfl | rfl | rfl | rfl | rfl | rfl <;> intro h hdest hlow ha hb
    · exact cmp_runs hdest hlow h haux rfl (by decide : 0 < 6) ha hb nofun
    · exact cmp_runs hdest hlow h haux rfl (by decide : 1 < 6) ha hb nofun
    · exact cmp_runs hdest hlow h haux rfl (by decide : 2 < 6) ha hb nofun
    · exact cmp_runs hdest hlow h haux rfl (by decide : 3 < 6) ha hb nofun
    · exact cmp_runs hdest hlow h haux rfl (by decide : 4 < 6) ha hb nofun
    · exact cmp_runs hdest hlow h haux rfl (by decide : 5 < 6) ha hb fun _ _ _ _ => rfl
  · simp only [List.mem_cons, List.not_mem_nil, or_false] at he
    rcases he with rfl | rfl | rfl | rfl | rfl <;> intro h hdest hlow ha hb hnot
    · exact maskOp_runs hdest hlow h haux ha rfl (by decide : 0 < 7) hb rfl fun m n l _ => bit_and m n l
    · exact maskOp_runs hdest hlow h haux ha rfl (by decide : 1 < 7) hb rfl fun m n l _ => bit_or m n l
    · exact maskOp_runs hdest hlow h haux ha rfl (by decide : 2 < 7) hb rfl fun m n l _ => bit_xor m n l
    · refine maskOp_runs hdest hlow h haux ha rfl (by decide : 3 < 7) hb rfl fun m n l hl => ?_
      rw [bit_and, bit_not n hl]
    · have hfield : (s.vecCx g.val x q).b = 0 := hnot rfl
      refine maskOp_runs hdest hlow h haux ha rfl (by decide : 4 < 7) hb
        (M.go_bind_ok ((s.vecCx g.val x q).go_encIf u (by rw [hfield]; rfl)) _) fun m n l hl => bit_not m hl

end

end Sys2Proof.Machine

namespace Sys2Proof.Machine

/-! ### Exact values of a binary format (02 R28, R42) -/

section
variable (f : BinFmt)

/-- Magnitude codes rise with what they stand for. -/
theorem BinFmt.units_lt_succ (k : Nat) : f.units k < f.units (k + 1) := by
  have hone : 0 < 2 ^ f.man := Nat.two_pow_pos _
  unfold BinFmt.units
  generalize 2 ^ f.man = p at hone ⊢
  by_cases hk : k < p
  · rw [if_pos hk]
    split
    · omega
    · obtain rfl : p = k + 1 := by omega
      simp [Nat.div_self hone]
  · have hdiv : 1 ≤ k / p := (Nat.one_le_div_iff hone).2 (Nat.not_lt.1 hk)
    rw [if_neg hk, if_neg (by omega)]
    obtain ⟨e, he⟩ : ∃ e, k / p = e + 1 := ⟨k / p - 1, by omega⟩
    have hr := Nat.mod_lt k hone
    have hsplit := Nat.div_add_mod k p
    rw [he] at hsplit ⊢
    by_cases hlast : k % p + 1 < p
    · have hnext : (k + 1) / p = e + 1 := by
        rw [← hsplit, Nat.add_assoc, Nat.mul_add_div hone, Nat.div_eq_of_lt hlast, Nat.add_zero]
      have hrest : (k + 1) % p = k % p + 1 := by
        conv_lhs => rw [← hsplit, Nat.add_assoc, Nat.mul_add_mod, Nat.mod_eq_of_lt hlast]
      rw [hnext, hrest]
      exact Nat.mul_lt_mul_of_pos_right (by omega) (Nat.two_pow_pos _)
    · have hk1 : k + 1 = p * (e + 2) := by
        rw [← hsplit, Nat.add_assoc, show k % p + 1 = p by omega, ← Nat.mul_succ]
      rw [hk1, Nat.mul_div_cancel_left _ hone, Nat.mul_mod_right, Nat.add_sub_cancel, Nat.add_zero]
      have hpow : 2 ^ (e + 2 - 1) = 2 * 2 ^ e := by rw [show e + 2 - 1 = e + 1 by omega, pow_succ, Nat.mul_comm]
      rw [hpow, ← Nat.mul_assoc]
      exact Nat.mul_lt_mul_of_pos_right (by omega) (Nat.two_pow_pos _)

/-- A number of units with no more significant bits than the format holds. -/
def BinFmt.fits (x : Nat) : Prop := x < 2 ^ f.man ∨ 2 ^ (Nat.log2 x - f.man) ∣ x

theorem BinFmt.fits_two_pow (m : Nat) : f.fits (2 ^ m) := by
  refine .inr ?_
  rw [Nat.log2_two_pow]
  exact Nat.pow_dvd_pow 2 (Nat.sub_le _ _)

/-- A small number shifted has no more significant bits than before. -/
theorem BinFmt.fits_mul {a : Nat} (m : Nat) (h0 : a ≠ 0) (h : a < 2 ^ (f.man + 1)) : f.fits (a * 2 ^ m) := by
  have hlog : Nat.log2 (a * 2 ^ m) < f.man + 1 + m := by
    rw [Nat.log2_lt (Nat.mul_ne_zero h0 (Nat.two_pow_pos m).ne'), pow_add 2 (f.man + 1)]
    exact Nat.mul_lt_mul_of_pos_right h (Nat.two_pow_pos m)
  exact .inr (Dvd.dvd.mul_left (Nat.pow_dvd_pow 2 (by omega)) a)

theorem BinFmt.floorCode_parts {x : Nat} (h : ¬ x < 2 ^ f.man) : ∃ e r, e = Nat.log2 x - f.man ∧ r < 2 ^ f.man ∧
    x / 2 ^ e = 2 ^ f.man + r ∧ f.floorCode x = (e + 1) * 2 ^ f.man + r := by
  have hx : x ≠ 0 := by have := Nat.two_pow_pos f.man; omega
  have hlow : f.man ≤ Nat.log2 x := (Nat.le_log2 hx).2 (Nat.not_lt.1 h)
  have hle : 2 ^ f.man ≤ x / 2 ^ (Nat.log2 x - f.man) := by
    rw [Nat.le_div_iff_mul_le (Nat.two_pow_pos _), ← pow_add, Nat.add_sub_cancel' hlow]
    exact Nat.log2_self_le hx
  have hlt : x / 2 ^ (Nat.log2 x - f.man) < 2 ^ (f.man + 1) := by
    rw [Nat.div_lt_iff_lt_mul (Nat.two_pow_pos _), ← pow_add, show f.man + 1 + (Nat.log2 x - f.man) = Nat.log2 x + 1 by omega]
    exact Nat.lt_log2_self
  rw [pow_succ] at hlt
  refine ⟨Nat.log2 x - f.man, x / 2 ^ (Nat.log2 x - f.man) - 2 ^ f.man, rfl, by omega, by omega, ?_⟩
  rw [BinFmt.floorCode, if_neg h]
  rfl

/-- A number that fits is what its code stands for. -/
theorem BinFmt.units_floorCode {x : Nat} (h : f.fits x) : f.units (f.floorCode x) = x := by
  by_cases hx : x < 2 ^ f.man
  · rw [BinFmt.floorCode, if_pos hx, BinFmt.units, if_pos hx]
  · obtain ⟨e, r, he, hr, hquot, hcode⟩ := f.floorCode_parts hx
    have hpos := Nat.two_pow_pos f.man
    have hdvd : 2 ^ e ∣ x := he ▸ h.resolve_left hx
    have hbig : ¬ (e + 1) * 2 ^ f.man + r < 2 ^ f.man := by rw [Nat.add_mul]; omega
    have hdiv : ((e + 1) * 2 ^ f.man + r) / 2 ^ f.man = e + 1 := by
      rw [Nat.mul_comm, Nat.mul_add_div hpos, Nat.div_eq_of_lt hr, Nat.add_zero]
    have hmod : ((e + 1) * 2 ^ f.man + r) % 2 ^ f.man = r := by
      rw [Nat.mul_comm, Nat.mul_add_mod, Nat.mod_eq_of_lt hr]
    rw [hcode, BinFmt.units, if_neg hbig, hdiv, hmod, ← hquot, Nat.add_sub_cancel]
    exact Nat.div_mul_cancel hdvd

theorem BinFmt.floorCode_two_pow {m : Nat} (h : f.man ≤ m) : f.floorCode (2 ^ m) = (m - f.man + 1) * 2 ^ f.man := by
  have hx : ¬ 2 ^ m < 2 ^ f.man := Nat.not_lt.2 (Nat.pow_le_pow_right (by decide) h)
  obtain ⟨e, r, he, hr, hquot, hcode⟩ := f.floorCode_parts hx
  rw [Nat.log2_two_pow] at he
  subst he
  rw [Nat.pow_div (Nat.sub_le _ _) (by decide), Nat.sub_sub_self h] at hquot
  obtain rfl : r = 0 := by omega
  exact hcode

/-- Below `2 ^ (man + e)` units a code has an exponent of at most `e`. -/
theorem BinFmt.floorCode_lt {x e : Nat} (h : x < 2 ^ (f.man + e)) : f.floorCode x < (e + 1) * 2 ^ f.man := by
  by_cases hx : x < 2 ^ f.man
  · rw [BinFmt.floorCode, if_pos hx, Nat.add_mul]
    omega
  · obtain ⟨d, r, hd, hr, -, hcode⟩ := f.floorCode_parts hx
    have hx0 : x ≠ 0 := by have := Nat.two_pow_pos f.man; omega
    have hlog : Nat.log2 x < f.man + e := (Nat.log2_lt hx0).2 h
    have hlow : f.man ≤ Nat.log2 x := (Nat.le_log2 hx0).2 (Nat.not_lt.1 hx)
    have hmul : (d + 1 + 1) * 2 ^ f.man ≤ (e + 1) * 2 ^ f.man := Nat.mul_le_mul_right _ (by omega)
    rw [Nat.add_mul (d + 1)] at hmul
    omega

/-- A magnitude that the format holds rounds to its own code. -/
theorem BinFmt.nearest_exact {n d x : Nat} (hd : 0 < d) (h : n * f.one = x * d) (hx : f.fits x) :
    f.nearest n d = f.floorCode x := by
  have hquot : n * f.one / d = x := by rw [h, Nat.mul_div_cancel _ hd]
  have hlt : 2 * n * f.one < (f.units (f.floorCode x) + f.units (f.floorCode x + 1)) * d := by
    have hnext := f.units_lt_succ (f.floorCode x)
    rw [f.units_floorCode hx] at hnext ⊢
    rw [Nat.mul_assoc, h, ← Nat.mul_assoc]
    exact Nat.mul_lt_mul_of_pos_right (by omega) hd
  rw [BinFmt.nearest, hquot]
  exact if_pos hlt

end

/-! ### Exact W32 values (02 R28) -/

theorem fmtW32_one : fmtW32.one = 2 ^ 149 := rfl

theorem fmtW32_limit2 : 2 * 2 ^ (fmtW32.man + 253) < fmtW32.limit2 := by decide +kernel

section
variable (neg : Bool) {k : Nat}

theorem w32Mk_toNat (h : k < 2 ^ 31) : (w32Mk neg k).toNat = k + if neg then 2 ^ 31 else 0 := by
  rw [w32Mk, BitVec.toNat_ofNat]
  refine Nat.mod_eq_of_lt ?_
  split <;> omega

theorem w32Mk_mag (h : k < 2 ^ 31) : (w32Mk neg k).toNat % 2 ^ 31 = k := by
  rw [w32Mk_toNat neg h]
  split <;> omega

theorem w32Neg_w32Mk (h : k < 2 ^ 31) : w32Neg (w32Mk neg k) = neg := by
  rw [w32Neg, w32Mk_toNat neg h]
  cases neg
  · exact decide_eq_false (by simpa using h)
  · exact decide_eq_true (by simp)

theorem w32Int_w32Mk (h : k < 2 ^ 31) : w32Int (w32Mk neg k) = if neg then -(fmtW32.units k : Int) else fmtW32.units k := by
  rw [w32Int, w32Neg_w32Mk neg h, w32Units, w32Mk_mag neg h]

/-- A magnitude that fits, up to the largest power of two, is coded as it is. -/
theorem w32Round_exact {n d x : Nat} (hd : 0 < d) (h : n * 2 ^ 149 = x * d) (hx : fmtW32.fits x) (hle : x ≤ 2 ^ (fmtW32.man + 253)) :
    w32Round neg n d = w32Mk neg (fmtW32.floorCode x) ∧ fmtW32.floorCode x < 0x7F800000 := by
  refine ⟨?_, fmtW32.floorCode_lt (e := 254) (hle.trans_lt (Nat.pow_lt_pow_right (by decide) (Nat.lt_succ_self _)))⟩
  have hrange : fmtW32.outOfRange n d = false := by
    refine decide_eq_false (Nat.not_le.2 ?_)
    rw [fmtW32_one, Nat.mul_assoc, h, ← Nat.mul_assoc]
    exact Nat.mul_lt_mul_of_pos_right ((Nat.mul_le_mul_left 2 hle).trans_lt fmtW32_limit2) hd
  rw [w32Round, hrange, fmtW32.nearest_exact hd h hx]
  rfl

end

/-- A normal power of two has the code of its exponent. -/
theorem w32Exp2i_normal {k : Nat} (h : k < 254) : w32Exp2i ((k : Int) - 126) = BitVec.ofNat 32 ((k + 1) * 2 ^ 23) := by
  have hexp : ((k : Int) - 126 + 200).toNat = k + 74 := by omega
  have hunits : 2 ^ (k + 74) * 2 ^ 149 = 2 ^ (k + 23) * 2 ^ 200 := by rw [← pow_add, ← pow_add]
  have hle : 2 ^ (k + 23) ≤ 2 ^ (fmtW32.man + 253) := Nat.pow_le_pow_right (by decide) (by simp only [fmtW32]; omega)
  rw [w32Exp2i, if_neg (by omega), if_neg (by omega), hexp,
    (w32Round_exact false (Nat.two_pow_pos 200) hunits (fmtW32.fits_two_pow _) hle).1,
    fmtW32.floorCode_two_pow (Nat.le_add_left 23 k), w32Mk]
  simp only [fmtW32, Nat.add_sub_cancel, Bool.false_eq_true, if_false, Nat.add_zero]

section
variable {k : Nat} (h : k < 254)
include h

theorem w32_powTwo_toNat : (BitVec.ofNat 32 ((k + 1) * 2 ^ 23)).toNat = (k + 1) * 2 ^ 23 := by
  rw [BitVec.toNat_ofNat]
  omega

theorem w32Units_powTwo : w32Units (BitVec.ofNat 32 ((k + 1) * 2 ^ 23)) = 2 ^ (k + 23) := by
  have hmag : (k + 1) * 2 ^ 23 % 2 ^ 31 = (k + 1) * 2 ^ 23 := by omega
  have hcode := fmtW32.units_floorCode (fmtW32.fits_two_pow (k + 23))
  rw [fmtW32.floorCode_two_pow (Nat.le_add_left 23 k)] at hcode
  rw [w32Units, w32_powTwo_toNat h, hmag]
  exact hcode

/-- Normal powers of two are finite, positive and not zero. -/
theorem w32_powTwo_class : w32IsNaN (BitVec.ofNat 32 ((k + 1) * 2 ^ 23)) = false ∧
    w32IsZero (BitVec.ofNat 32 ((k + 1) * 2 ^ 23)) = false ∧ w32Neg (BitVec.ofNat 32 ((k + 1) * 2 ^ 23)) = false ∧
    w32IsInf (BitVec.ofNat 32 ((k + 1) * 2 ^ 23)) = false ∧ w32IsFinite (BitVec.ofNat 32 ((k + 1) * 2 ^ 23)) = true := by
  simp only [w32IsNaN, w32IsZero, w32Neg, w32IsInf, w32IsFinite, w32_powTwo_toNat h, decide_eq_false_iff_not,
    decide_eq_true_eq]
  omega

theorem w32Log2i_powTwo : w32Log2i (BitVec.ofNat 32 ((k + 1) * 2 ^ 23)) = some ((k : Int) - 126) := by
  obtain ⟨-, hzero, hneg, -, hfin⟩ := w32_powTwo_class h
  have hexp : ((k + 23 : Nat) : Int) - 149 = (k : Int) - 126 := by omega
  simp only [w32Log2i, hzero, hneg, hfin, w32Units_powTwo h, Nat.log2_two_pow, Bool.not_true, Bool.or_self,
    Bool.false_eq_true, if_false, if_true, hexp]

end

/-- An integer of up to 24 bits is coded as it is. -/
theorem w32OfSmallInt_exact {n : Int} (h : n.natAbs < 2 ^ 24) : ∃ neg k, w32OfSmallInt n = w32Mk neg k ∧
    k < 0x7F800000 ∧ w32Int (w32Mk neg k) = n * 2 ^ 149 := by
  by_cases h0 : n = 0
  · subst h0
    exact ⟨false, 0, rfl, by decide, rfl⟩
  · have habs : (n * 2 ^ 149).natAbs = n.natAbs * 2 ^ 149 := by rw [Int.natAbs_mul]; rfl
    have hfit : fmtW32.fits (n.natAbs * 2 ^ 149) := fmtW32.fits_mul 149 (Int.natAbs_ne_zero.2 h0) h
    have hle : n.natAbs * 2 ^ 149 ≤ 2 ^ (fmtW32.man + 253) :=
      (Nat.mul_le_mul_right _ h.le).trans ((pow_add 2 24 149).symm.trans_le
        (Nat.pow_le_pow_right (by decide) (by simp only [fmtW32]; decide)))
    obtain ⟨hround, hcode⟩ := w32Round_exact (decide (n * 2 ^ 149 < 0)) (Nat.two_pow_pos 149) rfl hfit hle
    refine ⟨decide (n * 2 ^ 149 < 0), fmtW32.floorCode (n.natAbs * 2 ^ 149), ?_, hcode, ?_⟩
    · rw [w32OfSmallInt, w32OfInt, if_neg (by omega), habs, hround]
    · rw [w32Int_w32Mk _ (by omega), fmtW32.units_floorCode hfit]
      by_cases hneg : n * 2 ^ 149 < 0
      · rw [decide_eq_true hneg, if_pos rfl]
        omega
      · rw [decide_eq_false hneg]
        simp only [Bool.false_eq_true, if_false]
        omega

/-! ### The transcendentals (04 R97, R98) -/

section
variable {v : W32}

theorem w32IsFinite_of_isNaN (h : w32IsNaN v = true) : w32IsFinite v = false := by
  simp only [w32IsNaN, w32IsFinite, decide_eq_true_eq, decide_eq_false_iff_not] at h ⊢
  omega

theorem w32IsNaN_of_isFinite (h : w32IsFinite v = true) : w32IsNaN v = false := by
  by_contra hne
  rw [w32IsFinite_of_isNaN (by simpa using hne)] at h
  cases h

theorem fLogWith_neg {sp : W32 → Option W32} {rest : W32 → W32} (hfin : w32IsFinite v = true) (hzero : w32IsZero v = false)
    (hneg : w32Neg v = true) : fLogWith sp rest v = w32NaN := by
  rw [fLogWith, w32IsNaN_of_isFinite hfin, hzero, hneg]
  rfl

theorem fLogWith_exact {sp : W32 → Option W32} {rest : W32 → W32} {r : W32} (hnan : w32IsNaN v = false)
    (hzero : w32IsZero v = false) (hneg : w32Neg v = false) (hinf : w32IsInf v = false) (h : sp v = some r) :
    fLogWith sp rest v = r := by
  simp only [fLogWith, hnan, hzero, hneg, hinf, h, Bool.false_eq_true, if_false]

theorem fRsqrt_neg (hfin : w32IsFinite v = true) (hzero : w32IsZero v = false) (hneg : w32Neg v = true) :
    fRsqrt v = w32NaN := by
  rw [fRsqrt, w32IsNaN_of_isFinite hfin, hzero, hneg]
  rfl

/-- The sine and the cosine are NaN where the argument is not finite. -/
theorem trig_nan (h : w32IsNaN v = true) : fSin v = w32NaN ∧ fCos v = w32NaN := by
  rw [fSin, fCos, w32IsFinite_of_isNaN h]
  exact ⟨rfl, rfl⟩

theorem fRcp_nan (h : w32IsNaN v = true) : fRcp v = w32NaN := by
  rw [fRcp, w32Div, h, Bool.or_true]
  rfl

theorem fLog2_powTwo {k : Nat} (h : k < 254) :
    fLog2 (BitVec.ofNat 32 ((k + 1) * 2 ^ 23)) = w32OfSmallInt ((k : Int) - 126) := by
  obtain ⟨hnan, hzero, hneg, hinf, -⟩ := w32_powTwo_class h
  exact fLogWith_exact hnan hzero hneg hinf (congrArg (Option.map w32OfSmallInt) (w32Log2i_powTwo h))

/-- The reciprocal root of a power of four. -/
theorem fRsqrt_powFour {n : Nat} (h : n < 127) :
    fRsqrt (BitVec.ofNat 32 ((2 * n + 1) * 2 ^ 23)) = BitVec.ofNat 32 ((190 - n) * 2 ^ 23) := by
  have hlt : 2 * n < 254 := by omega
  obtain ⟨hnan, hzero, hneg, hinf, -⟩ := w32_powTwo_class hlt
  have heven : (((2 * n : Nat) : Int) - 126) % 2 = 0 := by omega
  have hhalf : -((((2 * n : Nat) : Int) - 126) / 2) = ((189 - n : Nat) : Int) - 126 := by omega
  have hexp : 190 - n = 189 - n + 1 := by omega
  rw [fRsqrt, hnan, hzero, hneg, hinf, w32Log2i_powTwo hlt]
  simp only [Bool.false_eq_true, if_false, if_pos heven]
  rw [hhalf, w32Exp2i_normal (by omega), hexp]

theorem fExp2_zero (h : w32IsZero v = true) : fExp2 v = w32One := by
  have hmag : v.toNat % 2 ^ 31 = 0 := of_decide_eq_true h
  have hnan : w32IsNaN v = false := by rw [w32IsNaN, hmag]; rfl
  have hinf : w32IsInf v = false := by rw [w32IsInf, hmag]; rfl
  have hint : w32Int v = 0 := by
    rw [w32Int, w32Units, hmag, show fmtW32.units 0 = 0 from rfl]
    split <;> rfl
  rw [fExp2, hnan, hinf, hint]
  simp only [Bool.false_eq_true, if_false, Int.zero_emod, Int.zero_ediv]
  rw [if_pos (by decide)]
  exact w32Exp2i_normal (k := 126) (by decide)

theorem fExp2_int {n : Int} (hlow : -126 ≤ n) (hhigh : n ≤ 127) :
    fExp2 (w32OfSmallInt n) = BitVec.ofNat 32 ((n + 127).toNat * 2 ^ 23) := by
  obtain ⟨neg, k, hmk, hk, hint⟩ := w32OfSmallInt_exact (n := n) (by omega)
  have hmag := w32Mk_mag neg (k := k) (by omega)
  have hnan : w32IsNaN (w32Mk neg k) = false := by rw [w32IsNaN, hmag]; exact decide_eq_false (by omega)
  have hinf : w32IsInf (w32Mk neg k) = false := by rw [w32IsInf, hmag]; exact decide_eq_false (by omega)
  have hquot : n * 2 ^ 149 / 2 ^ 149 = n := Int.mul_ediv_cancel n (by decide)
  have hexp : n = (((n + 126).toNat : Nat) : Int) - 126 := by omega
  have hcode : (n + 127).toNat = (n + 126).toNat + 1 := by omega
  rw [hmk, fExp2, hnan, hinf, hint, hquot]
  simp only [Bool.false_eq_true, if_false]
  rw [if_pos ⟨Int.mul_emod_left n _, by omega, hhigh⟩, hcode, ← w32Exp2i_normal (by omega), ← hexp]

theorem eq_inf_of_isInf (hneg : w32Neg v = false) (h : w32IsInf v = true) : v = 0x7F800000#32 := by
  simp only [w32Neg, w32IsInf, decide_eq_false_iff_not, decide_eq_true_eq] at hneg h
  exact BitVec.eq_of_toNat_eq (by simp only [BitVec.toNat_ofNat]; omega)

section
variable (hneg : w32Neg v = false) (hnan : w32IsNaN v = false)
include hneg hnan

theorem fExp_beyond (h : 0x42B17218 ≤ v.toNat) : fExp v = 0x7F800000#32 := by
  cases hinf : w32IsInf v with
  | true => rw [eq_inf_of_isInf hneg hinf]; rfl
  | false =>
    have hzero : w32IsZero v = false := by
      simp only [w32Neg, w32IsZero, decide_eq_false_iff_not] at hneg ⊢
      omega
    rw [fExp, hnan, hinf, hzero, hneg, decide_eq_true h]
    rfl

theorem fExp2_beyond (h : 0x43000000 ≤ v.toNat) : fExp2 v = 0x7F800000#32 := by
  cases hinf : w32IsInf v with
  | true => rw [eq_inf_of_isInf hneg hinf]; rfl
  | false =>
    have hmag : v.toNat % 2 ^ 31 = v.toNat := by
      simp only [w32Neg, decide_eq_false_iff_not] at hneg
      omega
    have hunits : 2 ^ 156 ≤ w32Units v := by
      have hman : fmtW32.man = 23 := rfl
      have hpow : 2 ^ 133 ≤ 2 ^ (v.toNat / 2 ^ 23 - 1) := Nat.pow_le_pow_right (by decide) (by omega)
      rw [w32Units, hmag, BinFmt.units, hman, if_neg (by omega)]
      exact (pow_add 2 23 133).trans_le (Nat.mul_le_mul (Nat.le_add_right (2 ^ 23) _) hpow)
    have hbig : ¬ w32Int v / 2 ^ 149 ≤ 127 := by
      rw [w32Int, hneg]
      simp only [Bool.false_eq_true, if_false]
      omega
    rw [fExp2, hnan, hinf, hneg, decide_eq_true h]
    simp only [Bool.false_eq_true, if_false]
    rw [if_neg fun hint => hbig hint.2.2]
    rfl

end

end

/-- Settles O35: the tables' values are the first cases of each function, and the exact cases come of powers of two and
small integers that W32 holds as they are. -/
theorem transcendentalSpecialInputs : Obligations.TranscendentalSpecialInputs := by
  refine ⟨?_, ?_, fun n hn => fLog2_powTwo hn, fun n hn => fRsqrt_powFour hn, fun n hlow hhigh => fExp2_int hlow hhigh,
    fun v hneg hnan => ⟨fExp_beyond hneg hnan, fExp2_beyond hneg hnan⟩⟩
  · simp only [List.forall_mem_cons, List.not_mem_nil, false_imp_iff, implies_true, and_true]
    exact ⟨⟨rfl, rfl, rfl, rfl, fun v h => if_pos h⟩, ⟨rfl, rfl, fExp2_zero rfl, fExp2_zero rfl, fun v h => if_pos h⟩,
      ⟨rfl, rfl, rfl, rfl, fun v h => if_pos h⟩, ⟨rfl, rfl, rfl, rfl, fun v h => if_pos h⟩,
      ⟨rfl, rfl, rfl, rfl, fun v h => fRcp_nan h⟩, ⟨rfl, rfl, rfl, rfl, fun v h => if_pos h⟩,
      ⟨rfl, rfl, rfl, rfl, fun v h => if_pos h⟩, ⟨rfl, rfl, rfl, rfl, fun v h => if_pos h⟩,
      ⟨rfl, rfl, rfl, rfl, fun v h => if_pos h⟩, ⟨rfl, rfl, rfl, rfl, fun v h => (trig_nan h).1⟩,
      ⟨rfl, rfl, rfl, rfl, fun v h => (trig_nan h).2⟩⟩
  · simp only [List.forall_mem_cons, List.not_mem_nil, false_imp_iff, implies_true, and_true]
    exact ⟨fun v => fLogWith_neg, fun v => fLogWith_neg, fun v => fRsqrt_neg⟩

end Sys2Proof.Machine

namespace Sys2Proof.Machine

/-! ### Operands of permutations (04 R94–R96) -/

theorem VCx.active_length (c : VCx) : c.active.length ≤ 128 :=
  (List.length_filter_le c.on lanes).trans_eq List.length_range

theorem VCx.lt_of_mem_active {c : VCx} {l : Nat} (h : l ∈ c.active) : l < 128 :=
  mem_lanes.1 (List.mem_of_mem_filter h)

/-- Fewer lanes are active below an active lane than in all. -/
theorem VCx.rank_lt {c : VCx} {l : Nat} (h : l ∈ c.active) : c.rank l < c.active.length :=
  List.length_filter_lt_length_iff_exists.2 ⟨l, h, by simp⟩

theorem laneAt_map_getD (f : Nat → W32) {ls : List Nat} {l : Nat} (h : l < ls.length) :
    laneAt (ls.map f) l = f (ls.getD l 0) := by
  simp [laneAt, List.getD_eq_getElem?_getD, h]

section
variable {s u v : State} {g : Nat} {x : Inst} {win : Bool} {q : VWord} {cls op : Nat}

/-- One range of a cache without bad words is read without a fault; nothing is read of an empty one. -/
theorem go_ocReads_one {a n : Nat} (hgood : ocGood u g 0 ocSize) (h : n = 0 ∨ a + n ≤ ocSize) :
    ∃ v, softRead u v ∧ (ocReads g [(a, n)]).go u = (.ok (), v) := by
  rcases h with rfl | h
  · have hnone : ocGood u g a 0 := by simp [ocGood, wordsOf]
    obtain ⟨v, hgo, hv⟩ := go_ocReads_of_good (l := [(a, 0)]) (List.forall_mem_singleton.2 hnone)
    exact ⟨v, hv, hgo⟩
  · obtain ⟨soft, ce, hgo⟩ := go_ocReads (l := [(a, n)]) hgood (by simpa using h)
    exact ⟨_, ⟨soft, ce, rfl⟩, hgo⟩

/-- A source operand is read at the lanes `ls` as at the active ones. -/
theorem VCx.go_srcOn {c : VCx} {f : Nat} (k : Word64) {ls : List Nat} (hls : ∀ l ∈ ls, l < 128)
    (hf : srcField c.window f) (hgood : ocGood u c.g 0 ocSize) (hbase : c.wbase = (u.vec c.g).wbase)
    (hslot : c.window = true → vecField c.window f → c.wbase + 512 * f + 512 ≤ ocSize) :
    ∃ vals v, (c.srcOn f k ls).go u = (.ok vals, v) ∧ softRead u v ∧
      ∀ l, l < 128 → laneAt vals l = vval u c.g c.window f k l := by
  rcases hf with hvec | hsca
  · have hlow : f < 0x80 := by unfold vecField at hvec; split at hvec <;> omega
    obtain ⟨v, hv, hreads⟩ : ∃ v, softRead u v ∧ (c.slotReads f ls).go u = (.ok (), v) := by
      unfold VCx.slotReads
      split <;> rename_i hwin
      · obtain ⟨soft, ce, hreads⟩ := go_ocReads (l := ls.map fun l => (c.wbase + 512 * f + 4 * l, 4)) hgood fun r hr => by
          obtain ⟨l, hl, rfl⟩ := List.mem_map.1 hr
          have := hls l hl
          have := hslot hwin hvec
          dsimp only
          omega
        exact ⟨_, ⟨soft, ce, rfl⟩, hreads⟩
      · exact ⟨u, softRead.refl u, rfl⟩
    refine ⟨v.vecLanes c f, v, ?_, hv, fun l hl => ?_⟩
    · rw [VCx.srcOn, VCx.opd_vec hvec]
      exact M.go_bind_ok hreads _
    · rw [vval, if_pos hlow, laneAt_vecLanes v c f (by rw [hv.kept.vec, hbase]) hl, hv.kept.vlane]
  · refine ⟨_, u, by rw [VCx.srcOn, VCx.opd_sca hsca]; rfl, softRead.refl u, fun l hl => ?_⟩
    rw [vval, if_neg (Nat.not_lt.2 hsca.1), laneAt_map _ hl]

/-- Copying into a vector operand reports nothing (04 R87). -/
theorem VCx.go_put_copy (c : VCx) (n : Nat) (on : Nat → Bool) (vals : List W32) :
    (c.put n on vals true).go v = (.ok (), v.putResult c n on (laneAt vals)) := by
  have hnone : (c.window && !true) = false := Bool.and_false _
  have hput := VCx.go_put (c := c) (copy := true) v n on vals (by rw [hnone]; nofun)
  rwa [hnone] at hput

theorem wrote.core (h : wrote u v) (k : Nat) : v.core k = u.core k := by
  obtain ⟨e, m, r, rfl⟩ := h
  rfl

theorem OperandsRead.core (h : OperandsRead g x u v) (k : Nat) : v.core k = u.core k := by
  rw [State.core, h.kept.eng]
  rfl

/-- A scalar register is written with nothing else of a core. -/
theorem scalarSet_putScalar (hcore : ∀ k, v.core k = u.core k) (n : Nat) (a : Word64) :
    scalarSet u (v.putScalar g n a) g n a := by
  refine ⟨(v.core_setCore g _).trans (by rw [hcore]), fun k hk => ?_⟩
  exact (tget_tput_ne _ _ _ hk).trans (hcore k)

section
variable (h : vecFront s g x win q cls op u)
include h

/-- A source of the word at the front, read at the lanes `ls`, gives what stood there before the word was taken. -/
theorem vecFront.go_srcOn {f : Nat} (k : Word64) {ls : List Nat} (hls : ∀ l ∈ ls, l < 128) (hf : srcField win f) :
    ∃ vals v, ((s.vecCx g x q).srcOn f k ls).go u = (.ok vals, v) ∧ softRead u v ∧
      ∀ l, l < 128 → laneAt vals l = Machine.vval s g win f k l := by
  have hwin : (s.vecCx g x q).window = win := h.window
  obtain ⟨vals, v, hgo, hv, hvals⟩ := VCx.go_srcOn (c := s.vecCx g x q) (u := u) k hls (by rwa [hwin]) h.ocGood
    h.wbase.symm fun hw hvec => h.slot_in (hwin.symm.trans hw) (by rwa [hwin] at hvec)
  refine ⟨vals, v, hgo, hv, fun l hl => (hvals l hl).trans ?_⟩
  rw [hwin]
  exact h.vval f k l

theorem vecFront.active (hcls : cls ≠ 8) : (s.vecCx g x q).active = activeLanes s g q.w.toNat :=
  s.vecCx_active g x q (by rwa [h.class_eq])

/-- A word whose effect is the lanes of its destination and then a scalar. -/
theorem vecFront.lanes_scalar_runs {i : Instr} {f : VCx → M (Nat × List Nat)} {r : Nat × List Nat} {stream : Bool} {d : Nat}
    {on on' : Nat → Bool} {val val' : Nat → W32} {k : Census} {m : Nat} {a : Word64}
    (hi : exec i s = work s fun s => s.vecWord g cls op f)
    (hop : op < vOps cls) (hv : OperandsRead g x u v) (hgo : (f (s.vecCx g x q)).go u =
      (.ok r, ((v.putResult (s.vecCx g x q) d on val).reportIf (s.vecCx g x q) stream k).putScalar g m a))
    (hon : ∀ l, l < 128 → on' l = on l) (hval : ∀ l, l < 128 → on l = true → val' l = val l) :
    runsTo i s fun t => vecOnly u t g x true ∧ reported u t x q.w.toNat stream ∧
      lanesSet u t g win (bit q.w.toNat 11) d on' val' ∧ scalarSet u t g m a := by
  refine runsTo_of_vecFront h hi hop hgo fun n => ?_
  obtain ⟨honly, hrep, hset⟩ := h.lanes_written hv rfl (vecOnly_putScalar _ m a) rfl rfl rfl hon hval n
  exact ⟨honly, hrep, hset, scalarSet_putScalar (fun j => (((v.putResult_wrote _ _ _ _).trans
    (State.reportIf_wrote _ _ _ _)).core j).trans (hv.core j)) m a⟩

end
end

/-! ### Compress, expand and broadcast (04 R94, R96) -/

section
variable {s u : State} {g : Fin 256} {x : Inst} {win : Bool} {q : VWord} {act : List Nat}

section
variable (hact : act = activeLanes s g.val q.w.toNat)
include hact

theorem vcompress_runs (h : vecFront s g.val x win q 7 0 u) (haux : bits q.w.toNat 56 8 = 0)
    (hd : vecField win (bits q.w.toNat 12 8)) (hc : scaField (bits q.w.toNat 36 8)) (ha : srcField win (bits q.w.toNat 20 8)) :
    runsTo (.vcompress g) s fun t => vecOnly u t g.val x true ∧ reported u t x q.w.toNat false ∧
      lanesSet u t g.val win (bit q.w.toNat 11) (bits q.w.toNat 12 8)
        (fun l => decide (l < act.length))
        (fun l => vval s g.val win (bits q.w.toNat 20 8) q.sA (act.getD l 0)) ∧
      scalarSet u t g.val (bits q.w.toNat 36 8 - 0x80) (BitVec.ofNat 64 act.length) := by
  have hact := (h.active (by decide)).trans hact.symm
  obtain ⟨va, v, hgo, hv, -, hva⟩ := h.go_src (softRead.refl u) q.sA ha
  have hrun : (vVcompress (s.vecCx g.val x q)).go u = (.ok (2, [bits q.w.toNat 20 8]),
      (v.putResult (s.vecCx g.val x q) (bits q.w.toNat 12 8)
        (fun l => decide (l < act.length))
        (laneAt (act.map (laneAt va)))).putScalar g.val (bits q.w.toNat 36 8 - 0x80)
        (BitVec.ofNat 64 act.length)) := by
    rw [vVcompress, M.go_bind_ok (VCx.go_noAux (s.vecCx g.val x q) haux),
      M.go_bind_ok ((s.vecCx g.val x q).go_vecOf u (by rwa [h.window]))]
    refine (M.go_bind_ok ((s.vecCx g.val x q).go_scaOf u hc) _).trans ((M.go_bind_ok hgo _).trans ?_)
    simp only [hact, List.length_map]
    exact (M.go_bind_ok (VCx.go_put_copy (s.vecCx g.val x q) _ _ _) _).trans rfl
  refine h.lanes_scalar_runs (stream := false) (k := {}) rfl (by decide) hv.operands hrun (fun _ _ => rfl)
    fun l hl hon => ?_
  have hlen := of_decide_eq_true hon
  rw [laneAt_map_getD _ hlen]
  refine (hva _ ?_).symm
  rw [List.getD_eq_getElem _ _ hlen]
  exact VCx.lt_of_mem_active (by rw [hact]; exact List.getElem_mem hlen)

theorem vexpand_runs (h : vecFront s g.val x win q 7 2 u) (haux : bits q.w.toNat 56 8 = 0)
    (hd : vecField win (bits q.w.toNat 12 8)) (hc : scaField (bits q.w.toNat 36 8)) (ha : srcField win (bits q.w.toNat 20 8)) :
    runsTo (.vexpand g) s fun t => vecOnly u t g.val x true ∧ reported u t x q.w.toNat false ∧
      lanesSet u t g.val win (bit q.w.toNat 11) (bits q.w.toNat 12 8) (lit s g.val (bits q.w.toNat 8 3))
        (fun l => vval s g.val win (bits q.w.toNat 20 8) q.sA
          (act.filter fun i => decide (i < l)).length) ∧
      scalarSet u t g.val (bits q.w.toNat 36 8 - 0x80) (BitVec.ofNat 64 act.length) := by
  have hact := (h.active (by decide)).trans hact.symm
  obtain ⟨va, v, hgo, hv, hva⟩ := h.go_srcOn q.sA (ls := upTo (s.vecCx g.val x q).active.length)
    (fun l hl => (List.mem_range.1 hl).trans_le (VCx.active_length _)) ha
  have hrun : (vVexpand (s.vecCx g.val x q)).go u = (.ok (2, [bits q.w.toNat 20 8]),
      (v.putResult (s.vecCx g.val x q) (bits q.w.toNat 12 8) (s.vecCx g.val x q).on
        (laneAt (lanes.map fun l => laneAt va ((s.vecCx g.val x q).rank l)))).putScalar g.val
        (bits q.w.toNat 36 8 - 0x80) (BitVec.ofNat 64 (s.vecCx g.val x q).active.length)) := by
    rw [vVexpand, M.go_bind_ok (VCx.go_noAux (s.vecCx g.val x q) haux),
      M.go_bind_ok ((s.vecCx g.val x q).go_vecOf u (by rwa [h.window]))]
    refine (M.go_bind_ok ((s.vecCx g.val x q).go_scaOf u hc) _).trans ((M.go_bind_ok hgo _).trans ?_)
    exact (M.go_bind_ok (VCx.go_put_copy (s.vecCx g.val x q) _ _ _) _).trans rfl
  rw [hact] at hrun
  refine h.lanes_scalar_runs (stream := false) (k := {}) rfl (by decide) hv.operands hrun
    (fun l hl => (h.on (by decide) hl).symm) fun l hl hon => ?_
  have hrank := (VCx.rank_lt (((s.vecCx g.val x q).mem_active hl).2 hon)).trans_le (VCx.active_length _)
  rw [laneAt_map _ hl, hva _ hrank, VCx.rank, hact]

end

theorem vbcast_runs (h : vecFront s g.val x win q 7 6 u) (haux : bits q.w.toNat 56 8 = 0)
    (hd : vecField win (bits q.w.toNat 12 8)) (hb : scaField (bits q.w.toNat 28 8)) (ha : srcField win (bits q.w.toNat 20 8)) :
    runsTo (.vbcast g) s fun t => vecOnly u t g.val x false ∧ reported u t x q.w.toNat false ∧
      lanesSet u t g.val win (bit q.w.toNat 11) (bits q.w.toNat 12 8) (lit s g.val (bits q.w.toNat 8 3))
        (fun _ => vval s g.val win (bits q.w.toNat 20 8) q.sA (q.sB.toNat % 128)) := by
  have hlane : asNat q.sB % 128 = q.sB.toNat % 128 := Nat.mod_mod_of_dvd _ (by decide)
  have hlt : asNat q.sB % 128 < 128 := Nat.mod_lt _ (by decide)
  obtain ⟨va, v, hgo, hv, hva⟩ := h.go_srcOn q.sA (ls := [asNat q.sB % 128])
    (fun l hl => by rw [List.mem_singleton.1 hl]; exact hlt) ha
  refine h.lanes_runs (stream := false) (k := {}) rfl (by decide) hv.operands (r := (1, [bits q.w.toNat 20 8]))
    (val := laneAt (lanes.map fun _ => laneAt va (asNat q.sB % 128))) (d := bits q.w.toNat 12 8) ?_
    (fun l hl => (h.on (by decide) hl).symm) fun l hl _ => ?_
  · rw [vVbcast, M.go_bind_ok (VCx.go_noAux (s.vecCx g.val x q) haux),
      M.go_bind_ok ((s.vecCx g.val x q).go_vecOf u (by rwa [h.window]))]
    refine (M.go_bind_ok ((s.vecCx g.val x q).go_scaOf u hb) _).trans ((M.go_bind_ok hgo _).trans ?_)
    exact (M.go_bind_ok (VCx.go_put_copy (s.vecCx g.val x q) _ _ _) _).trans rfl
  · rw [laneAt_map _ hl, hva _ hlt, hlane]

end

end Sys2Proof.Machine

namespace Sys2Proof.Machine

/-! ### Codes of elements without scales (02 R42–R48) -/

theorem stochastic_le_top (f : BinFmt) (n d u : Nat) : stochastic f n d u ≤ f.top := by
  simp only [stochastic]
  split
  · exact le_rfl
  · split <;> omega

theorem nearest_w32_le {n d : Nat} (hd : 0 < d) (h : fmtW32.outOfRange n d = false) :
    fmtW32.nearest n d ≤ 0x7F800000 := by
  have hlimit : fmtW32.limit2 ≤ 2 * 2 ^ (fmtW32.man + 254) := by decide +kernel
  have hfloor : fmtW32.floorCode (n * fmtW32.one / d) < 0x7F800000 := by
    refine fmtW32.floorCode_lt (e := 254) ?_
    rw [Nat.div_lt_iff_lt_mul hd]
    have hlt := of_decide_eq_false h
    have hmul := Nat.mul_le_mul_right d hlimit
    rw [Nat.mul_assoc] at hlt hmul
    omega
  simp only [BinFmt.nearest]
  split
  · exact hfloor.le
  · split
    · exact hfloor
    · split
      · exact hfloor.le
      · exact hfloor

/-- Every W32 value converts to a 32-bit code of W32. -/
theorem convCode_w32_lt {c : Cvc} (hc : c.fmt = .w32) (u : Nat) (x : W32) :
    (convCode c false u (srcW32 x)).1 < 2 ^ 32 := by
  have hbin : Fmt.bin .w32 = fmtW32 := rfl
  have htop : fmtW32.top ≤ 0x7F800000 := by decide
  have hsign : ∀ neg k, k ≤ 0x7F800000 → signCode .w32 neg k < 2 ^ 32 := fun neg k hk => by
    have hbits : 2 ^ (Fmt.bits .w32 - 1) = 2 ^ 31 := rfl
    rw [signCode, hbits]
    split <;> omega
  have hbeyond : ∀ sat neg, beyond .w32 sat neg < 2 ^ 32 := by decide
  cases hx : srcW32 x with
  | nan => simp only [convCode, hc, poisonCode]; decide
  | inf neg => simp only [convCode, hc]; exact hbeyond _ _
  | fin neg n d =>
    simp only [convCode, hc, hbin, Bool.false_eq_true, if_false]
    split
    · exact hbeyond _ _
    · refine hsign neg _ ?_
      split
      · exact (stochastic_le_top _ _ _ _).trans htop
      · exact nearest_w32_le (srcW32_den hx) (Bool.eq_false_iff.2 ‹_›)

theorem convCode_plain_lt {c : Cvc} (hc : c.fmt.scaled = false) (u : Nat) (x : W32) :
    (convCode c false u (srcW32 x)).1 < 2 ^ (8 * laneSize c.fmt) := by
  cases hf : c.fmt with
  | w32 => exact convCode_w32_lt hf u x
  | kw16 => exact convCode_kw16_lt hf u x
  | kq8 => rw [hf] at hc; cases hc
  | kq4 => rw [hf] at hc; cases hc

/-- The code that storing element `i` of value `x` in step `step` writes; a copy keeps it (02 R51, 04 R87). -/
def VCx.laneCode (c : VCx) (copy : Bool) (v : Cvc) (step i : Nat) (x : W32) : Nat :=
  if copy then x.toNat else (convCode v false (draw (BitVec.ofNat 64 step) c.tslot i) (srcW32 x)).1

theorem VCx.laneCode_lt (c : VCx) {copy : Bool} {v : Cvc} (h : v.fmt.scaled = false) (hcopy : copy = true → v.fmt = .w32)
    (step i : Nat) (x : W32) : c.laneCode copy v step i x < 2 ^ (8 * laneSize v.fmt) := by
  unfold VCx.laneCode
  split
  · rw [hcopy ‹_›]
    exact x.isLt
  · exact convCode_plain_lt h _ x

/-- The bytes of the elements that a run of stores writes. -/
def VCx.codeBytes (c : VCx) (copy : Bool) (v : Cvc) (step : Nat) (idx : Nat → Nat) (val : Nat → W32) (i : Nat) : List Byte :=
  leBytes (laneSize v.fmt) (c.laneCode copy v step (idx i) (val i))

theorem VCx.codeBytes_length (c : VCx) (copy : Bool) (v : Cvc) (step : Nat) (idx : Nat → Nat) (val : Nat → W32) (i : Nat) :
    (c.codeBytes copy v step idx val i).length = laneSize v.fmt := leBytes_length _ _

/-- Storing elements one behind the other writes the code of each. -/
theorem VCx.go_stElems (c : VCx) (copy : Bool) (v : Cvc) (p : Nat) (idx : Nat → Nat) (val : Nat → W32) (ls : List Nat)
    (s : State) : ∃ ks, (ls.mapM fun i => c.stLane copy v (p + laneSize v.fmt * i) (idx i) (val i)).go s =
      (.ok ks, s.storeElems c.g p (laneSize v.fmt) (c.codeBytes copy v (s.stepNo c.t.ctx) idx val) ls) := by
  induction ls generalizing s with
  | nil => exact ⟨[], rfl⟩
  | cons i r ih =>
    obtain ⟨k, hone⟩ : ∃ k, (c.stLane copy v (p + laneSize v.fmt * i) (idx i) (val i)).go s =
        (.ok k, s.ocWrite c.g (p + laneSize v.fmt * i) (c.codeBytes copy v (s.stepNo c.t.ctx) idx val i)) := ⟨_, rfl⟩
    obtain ⟨ks, hks⟩ := ih (s.ocWrite c.g (p + laneSize v.fmt * i) (c.codeBytes copy v (s.stepNo c.t.ctx) idx val i))
    refine ⟨k :: ks, ?_⟩
    rw [List.mapM_cons, M.go_bind_ok hone, M.go_bind_ok hks]
    rfl

/-- Each element stored reads as its code. -/
theorem VCx.codes_read (c : VCx) {copy : Bool} {v : Cvc} (h : v.fmt.scaled = false) (hcopy : copy = true → v.fmt = .w32)
    (p step : Nat) (idx : Nat → Nat) (val : Nat → W32) (s : State) {n i : Nat} (hi : i < n) :
    leNat ((s.storeElems c.g p (laneSize v.fmt) (c.codeBytes copy v step idx val) (upTo n)).ocRead c.g
      (p + laneSize v.fmt * i) (laneSize v.fmt)) = c.laneCode copy v step (idx i) (val i) := by
  have hmem : i ∈ upTo n := List.mem_range.2 hi
  rw [State.storeElems_read s c.g (fun l _ => c.codeBytes_length copy v step idx val l), if_pos hmem]
  exact leNat_leBytes_of_lt (c.laneCode_lt h hcopy _ _ _)

theorem State.storeElems_wrote (s : State) (g p z : Nat) (data : Nat → List Byte) (ls : List Nat) :
    wrote s (s.storeElems g p z data ls) := by
  obtain ⟨oc, bad, soft, h⟩ := s.storeElems_shape g (p := p) (z := z) (data := data) (ls := ls)
  exact ⟨_, _, _, h⟩

theorem State.storeElems_eng (s : State) (g p z : Nat) (data : Nat → List Byte) (ls : List Nat) :
    (s.storeElems g p z data ls).eng = s.eng := by
  obtain ⟨oc, bad, soft, h⟩ := s.storeElems_shape g (p := p) (z := z) (data := data) (ls := ls)
  rw [h]

theorem State.storeElems_train (s : State) (g p z : Nat) (data : Nat → List Byte) (ls : List Nat) :
    (s.storeElems g p z data ls).train = s.train := by
  obtain ⟨oc, bad, soft, h⟩ := s.storeElems_shape g (p := p) (z := z) (data := data) (ls := ls)
  rw [h]

/-! ### Packed stores and loads (04 R95) -/

/-- A list with the places of its elements. -/
theorem zip_upTo (l : List Nat) : l.zip (upTo l.length) = (upTo l.length).map fun i => (l.getD i 0, i) := by
  refine List.ext_getElem (by simp [upTo]) fun i hi _ => ?_
  simp only [List.length_zip, lt_min_iff] at hi
  simp [upTo, List.getD_eq_getElem?_getD, hi.1]

theorem VCx.go_runAt (c : VCx) (u : State) {z n : Nat} (hb : scaField c.b) (halign : asNat c.cap.sB % z = 0)
    (hin : n = 0 ∨ asNat c.cap.sB + n * z ≤ ocSize) : (c.runAt z n).go u = (.ok (c.b - 0x80, asNat c.cap.sB), u) := by
  have hok : (asNat c.cap.sB % z != 0 || (n != 0 && !(ocOk (asNat c.cap.sB) (n * z)))) = false := by
    rw [halign, ocOk]
    rcases hin with rfl | hin
    · rfl
    · rw [decide_eq_true hin]
      simp
  rw [VCx.runAt, M.go_bind_ok (c.go_scaOf u hb)]
  simp only [hok]
  rfl

section
variable {s u : State} {g : Fin 256} {x : Inst} {win : Bool} {q : VWord} {act : List Nat}
variable (hact : act = activeLanes s g.val q.w.toNat)
include hact

theorem vcstore_go (h : vecFront s g.val x win q 7 1 u) {v : Cvc} (hdec : cvcDecode (bits q.w.toNat 56 8) = some v)
    (hplain : v.fmt.scaled = false) (hsr : v.sr = false) (hgiven : v.given = false) (ha : srcField win (bits q.w.toNat 20 8))
    (hb : scaField (bits q.w.toNat 28 8)) (halign : asNat q.sB % laneSize v.fmt = 0)
    (hin : act.length = 0 ∨
      asNat q.sB + act.length * laneSize v.fmt ≤ ocSize)
    (hslot : v.fmt ≠ .w32 → s.slotOk (bits q.w.toNat 44 12) x.ctx = true) : ∃ va w k r, softRead u w ∧
      (∀ l, l < 128 → laneAt va l = vval s g.val win (bits q.w.toNat 20 8) q.sA l) ∧
      (vVcstore (s.vecCx g.val x q)).go u = (.ok r, ((w.storeElems g.val (asNat q.sB) (laneSize v.fmt)
        ((s.vecCx g.val x q).codeBytes (v.fmt == .w32) v (w.stepNo x.ctx) (fun i => i)
          (fun i => laneAt va (act.getD i 0)))
        (upTo act.length)).reportIf (s.vecCx g.val x q) (decide (v.fmt ≠ .w32)) k).putScalar
        g.val (bits q.w.toNat 28 8 - 0x80)
        (q.sB + BitVec.ofNat 64 (act.length * laneSize v.fmt))) := by
  have hact := (h.active (by decide)).trans hact.symm
  have hstream : (!(v.fmt == .w32)) = decide (v.fmt ≠ .w32) := by cases v.fmt <;> rfl
  obtain ⟨va, w, hgo, hw, -, hva⟩ := h.go_src (softRead.refl u) q.sA ha
  obtain ⟨ks, hks⟩ := (s.vecCx g.val x q).go_stElems (v.fmt == .w32) v (asNat q.sB) (fun i => i)
    (fun i => laneAt va (act.getD i 0)) (upTo act.length) w
  refine ⟨va, w, sumCensus ks, (2 + (act.length * laneSize v.fmt + 511) / 512,
    [bits q.w.toNat 20 8]), hw, hva, ?_⟩
  have hdec' : cvcDecode (s.vecCx g.val x q).aux = some v := hdec
  have hrunAt := (s.vecCx g.val x q).go_runAt w hb halign hin
  have hslot' : (!(v.fmt == .w32)) = true → w.slotOk (bits q.w.toNat 44 12) x.ctx = true := fun hs => by
    rw [hstream, decide_eq_true_eq] at hs
    exact (hw.kept.slotOk _ _).trans ((h.slotOk _ _).trans (hslot hs))
  rw [vVcstore, hdec']
  simp only [hplain, hsr, hgiven, Bool.or_self, hact]
  refine (M.go_bind_ok ((s.vecCx g.val x q).go_encIf u rfl) _).trans ((M.go_bind_ok hgo _).trans
    ((M.go_bind_ok ((s.vecCx g.val x q).go_stream w hslot') _).trans ((M.go_bind_ok hrunAt _).trans ?_)))
  rw [zip_upTo, List.mapM_map]
  refine (M.go_bind_ok hks _).trans ?_
  rw [hstream]
  cases decide (v.fmt ≠ .w32) <;> rfl

theorem vcstore_runs (h : vecFront s g.val x win q 7 1 u) {v : Cvc} (hdec : cvcDecode (bits q.w.toNat 56 8) = some v)
    (hplain : v.fmt.scaled = false) (hsr : v.sr = false) (hgiven : v.given = false) (ha : srcField win (bits q.w.toNat 20 8))
    (hb : scaField (bits q.w.toNat 28 8)) (halign : asNat q.sB % laneSize v.fmt = 0)
    (hin : act.length = 0 ∨
      asNat q.sB + act.length * laneSize v.fmt ≤ ocSize)
    (hslot : v.fmt ≠ .w32 → s.slotOk (bits q.w.toNat 44 12) x.ctx = true) :
    runsTo (.vcstore g) s fun t => vecOnly u t g.val x true ∧ t.eng.vec = u.eng.vec ∧
      (∀ i, i < act.length →
        leNat (t.ocRead g.val (asNat q.sB + laneSize v.fmt * i) (laneSize v.fmt)) =
          (s.vecCx g.val x q).laneCode (v.fmt == .w32) v (s.stepNo x.ctx) i
            (vval s g.val win (bits q.w.toNat 20 8) q.sA (act.getD i 0))) ∧
      ocChanged u t g.val (asNat q.sB) (act.length * laneSize v.fmt) ∧
      reported u t x q.w.toNat (decide (v.fmt ≠ .w32)) ∧
      scalarSet u t g.val (bits q.w.toNat 28 8 - 0x80)
        (q.sB + BitVec.ofNat 64 (act.length * laneSize v.fmt)) := by
  obtain ⟨va, w, k, r, hw, hva, hgo⟩ := vcstore_go hact h hdec hplain hsr hgiven ha hb halign hin hslot
  generalize hdata : (s.vecCx g.val x q).codeBytes (v.fmt == .w32) v (w.stepNo x.ctx) (fun i => i)
    (fun i => laneAt va (act.getD i 0)) = data at hgo
  have hwrote : wrote w ((w.storeElems g.val (asNat q.sB) (laneSize v.fmt) data
      (upTo act.length)).reportIf (s.vecCx g.val x q) (decide (v.fmt ≠ .w32)) k) :=
    (w.storeElems_wrote _ _ _ _ _).trans (State.reportIf_wrote _ _ _ _)
  have hstep : w.stepNo x.ctx = s.stepNo x.ctx := (hw.kept.stepNo _).trans (h.stepNo _)
  refine runsTo_of_vecFront h rfl (by decide) hgo fun n => ⟨?_, ?_, fun i hi => ?_, ?_, ?_, ?_⟩
  · exact ((hw.wrote.trans hwrote).only.trans (vecOnly_putScalar _ _ _)).done h.left_eq n
  · exact (congrArg Eng.vec (State.reportIf_eng _ _ _ _)).trans
      (congrArg Eng.vec ((w.storeElems_eng _ _ _ _ _).trans hw.kept.eng))
  · have hlane : act.getD i 0 < 128 := by
      rw [List.getD_eq_getElem _ _ hi]
      exact VCx.lt_of_mem_active (by rw [h.active (by decide), ← hact]; exact List.getElem_mem hi)
    have hread := (s.vecCx g.val x q).codes_read (copy := v.fmt == .w32) hplain (fun hc => by simpa using hc) (asNat q.sB)
      (w.stepNo x.ctx)
      (fun i => i) (fun i => laneAt va (act.getD i 0)) w hi
    rw [hdata, hstep, hva _ hlane] at hread
    refine Eq.trans (congrArg (fun m => leNat (readBytes 0 (Mem.oc m) _ _)) ?_) hread
    exact State.reportIf_mem _ _ _ _
  · refine hw.operands (g := g.val) (x := x) |>.ocChanged ((ocChanged_storeElems w g.val (fun l _ => ?_)
      fun l hl => List.mem_range.1 hl).congr (State.reportIf_mem _ _ _ _))
    rw [← hdata]
    exact VCx.codeBytes_length _ _ _ _ _ _ _
  · exact reported_reportIf u g.val (c := s.vecCx g.val x q) ((w.storeElems_train _ _ _ _ _).trans hw.kept.train)
      _ k s n
  · exact scalarSet_putScalar (fun j => (hwrote.core j).trans ((hw.operands (g := g.val) (x := x)).core j)) _ _

theorem vxload_runs (h : vecFront s g.val x win q 7 3 u) {f : Fmt} (haux : bits q.w.toNat 56 8 = 2 ∨ bits q.w.toNat 56 8 = 3)
    (hf : f = c2fmt (bits q.w.toNat 56 8)) (hd : vecField win (bits q.w.toNat 12 8)) (hb : scaField (bits q.w.toNat 28 8))
    (halign : asNat q.sB % laneSize f = 0) (hin : act.length = 0 ∨
      asNat q.sB + act.length * laneSize f ≤ ocSize)
    (hslot : win = true → f ≠ .w32 → s.slotOk (bits q.w.toNat 44 12) x.ctx = true) :
    runsTo (.vxload g) s fun t => vecOnly u t g.val x true ∧ reported u t x q.w.toNat (win && decide (f ≠ .w32)) ∧
      lanesSet u t g.val win (bit q.w.toNat 11) (bits q.w.toNat 12 8) (lit s g.val (bits q.w.toNat 8 3))
        (fun l => toW32 (srcPlain f (leNat (s.ocRead g.val (asNat q.sB + laneSize f *
          (act.filter fun i => decide (i < l)).length) (laneSize f))))) ∧
      scalarSet u t g.val (bits q.w.toNat 28 8 - 0x80)
        (q.sB + BitVec.ofNat 64 (act.length * laneSize f)) := by
  have hact := (h.active (by decide)).trans hact.symm
  have hwin : (s.vecCx g.val x q).window = win := h.window
  have hstream : (win && !(f == .w32)) = (win && decide (f ≠ .w32)) := by cases f <;> rfl
  obtain ⟨w, hw, hreads⟩ := go_ocReads_one (a := asNat q.sB) (n := laneSize f * act.length)
    h.ocGood (hin.imp (fun hn => by rw [hn]; rfl) fun hn => by rwa [Nat.mul_comm])
  have henc : ((s.vecCx g.val x q).aux != 2 && (s.vecCx g.val x q).aux != 3) = false := by
    have haux' : (s.vecCx g.val x q).aux = 2 ∨ (s.vecCx g.val x q).aux = 3 := haux
    rcases haux' with h | h <;> rw [h] <;> rfl
  have hput := VCx.go_put (c := s.vecCx g.val x q) (copy := f == .w32) w (bits q.w.toNat 12 8) (s.vecCx g.val x q).on
    (lanes.map fun l => if (s.vecCx g.val x q).on l then toW32 (srcPlain f (leNat (w.ocRead g.val
      (asNat q.sB + laneSize f * (s.vecCx g.val x q).rank l) (laneSize f)))) else 0#32) fun hs =>
    (hw.kept.slotOk _ _).trans ((h.slotOk _ _).trans (by
      rw [hwin, hstream, Bool.and_eq_true, decide_eq_true_eq] at hs
      exact hslot hs.1 hs.2))
  rw [hwin, hstream] at hput
  have hfmt : c2fmt (s.vecCx g.val x q).aux = f := hf.symm
  refine h.lanes_scalar_runs rfl (by decide) hw.operands (d := bits q.w.toNat 12 8)
    (r := (2 + (act.length * laneSize f + 511) / 512, []))
    (by
      rw [vVxload, M.go_bind_ok ((s.vecCx g.val x q).go_encIf u henc),
        M.go_bind_ok ((s.vecCx g.val x q).go_vecOf u (by rwa [hwin]))]
      simp only [hfmt, hact]
      exact (M.go_bind_ok ((s.vecCx g.val x q).go_runAt u hb halign hin) _).trans ((M.go_bind_ok hreads _).trans
        ((M.go_bind_ok (M.go_getS w) _).trans ((M.go_bind_ok hput _).trans rfl))))
    (fun l hl => (h.on (by decide) hl).symm) fun l hl hon => ?_
  rw [laneAt_map _ hl, if_pos hon, VCx.rank, hact, hw.kept.ocRead, h.ocRead]

end

end Sys2Proof.Machine

namespace Sys2Proof.Machine

/-! ### Indexed addresses (04 R93, R94) -/

/-- A load or store whose active lanes lie in the cache does not fault; its other lanes may be counted. -/
theorem VCx.go_laneBounds_active (c : VCx) (u : State) (x : Inst) {ok : Nat → Bool} {at' : Nat → Nat}
    (h : ∀ l ∈ c.active, ok l = true) : ∃ v, OperandsRead c.g x u v ∧ (c.laneBounds ok at').go u = (.ok (), v) := by
  have hin : c.active.find? (fun l => !(ok l)) = none := List.find?_eq_none.2 fun l hl => by simp [h l hl]
  simp only [VCx.laneBounds, hin]
  split
  · exact ⟨_, OperandsRead.suppress u _, rfl⟩
  · exact ⟨u, (softRead.refl u).operands, rfl⟩

theorem getD_map_lane (f : W32 → Nat) {vals : List W32} {l : Nat} (h : l < vals.length) :
    (vals.map f).getD l 0 = f (laneAt vals l) := by
  simp [laneAt, List.getD_eq_getElem?_getD, h]

/-! ### Words stored at indexed addresses (04 R94) -/

/-- The W32 value of each of `ls` stored at its address, the later one last. -/
def State.storeWords (s : State) (g : Nat) (at' : Nat → Nat) (val : Nat → W32) (ls : List Nat) : State :=
  ls.foldl (fun s l => s.ocWrite g (at' l) (w32Bytes (val l))) s

section
variable (s : State) (g : Nat) {at' : Nat → Nat} {val : Nat → W32} {ls : List Nat}

theorem State.storeWords_shape : ∃ oc bad soft, s.storeWords g at' val ls =
    { s with mem := { s.mem with oc := oc, sramBad := bad, sramSoft := soft } } := by
  induction ls generalizing s with
  | nil => exact ⟨_, _, _, rfl⟩
  | cons l r ih =>
    obtain ⟨oc, bad, soft, h⟩ := ih (s.ocWrite g (at' l) (w32Bytes (val l)))
    exact ⟨oc, bad, soft, h⟩

/-- A byte outside the words stored keeps its value. -/
theorem State.storeWords_out {k : Nat} (h : ∀ l ∈ ls, k < ocKey g (at' l) ∨ ocKey g (at' l) + 4 ≤ k) :
    tget 0 (s.storeWords g at' val ls).mem.oc k = tget 0 s.mem.oc k := by
  induction ls generalizing s with
  | nil => rfl
  | cons l r ih =>
    rw [List.forall_mem_cons] at h
    refine (ih (s.ocWrite g (at' l) (w32Bytes (val l))) h.2).trans ?_
    exact tget_writeBytes_out _ _ _ _ (by rw [w32Bytes_length]; exact h.1)

/-- Words at other aligned addresses leave an aligned word as it was. -/
theorem State.storeWords_read_ne {a : Nat} (ha : a % 4 = 0) (h : ∀ l ∈ ls, at' l % 4 = 0 ∧ at' l ≠ a) :
    (s.storeWords g at' val ls).ocRead g a 4 = s.ocRead g a 4 :=
  readBytes_congr _ _ _ _ _ fun k hlo hhi => s.storeWords_out g fun l hl => by
    obtain ⟨halign, hne⟩ := h l hl
    simp only [ocKey] at hlo hhi ⊢
    omega

/-- A word at an address that no later one takes reads as what was stored. -/
theorem State.storeWords_read (hsorted : ls.Pairwise (· < ·)) (halign : ∀ l ∈ ls, at' l % 4 = 0) {l : Nat} (hl : l ∈ ls)
    (hlast : ∀ k ∈ ls, l < k → at' k ≠ at' l) : (s.storeWords g at' val ls).ocRead g (at' l) 4 = w32Bytes (val l) := by
  induction ls generalizing s with
  | nil => cases hl
  | cons i r ih =>
    rw [List.pairwise_cons] at hsorted
    rw [List.forall_mem_cons] at halign hlast
    rcases List.mem_cons.1 hl with rfl | hr
    · refine (State.storeWords_read_ne _ g halign.1 fun k hk => ⟨halign.2 k hk, hlast.2 k hk (hsorted.1 k hk)⟩).trans ?_
      exact s.ocRead_ocWrite g (w32Bytes_length _)
    · exact ih _ hsorted.2 halign.2 hr hlast.2

theorem ocChanged_storeWords (h : ∀ l ∈ ls, at' l + 4 ≤ ocSize) :
    ocChanged s (s.storeWords g at' val ls) g 0 ocSize := by
  refine ⟨?_, fun b hb => s.storeWords_out g fun l hl => ?_⟩
  · obtain ⟨oc, bad, soft, hs⟩ := s.storeWords_shape g (at' := at') (val := val) (ls := ls)
    rw [hs]
  · have := h l hl
    simp only [ocKey] at hb ⊢
    omega

end

/-- The lanes to which a scatter with MZ writes 0: they are not active, and no active lane writes there (04 R92). -/
def VCx.scatterZeros (c : VCx) (at' : Nat → Nat) : List Nat :=
  if c.mz then (lanes.filter fun l => !(c.on l) && at' l % 4 == 0 && ocOk (at' l) 4).filter fun l =>
    !(c.active.any fun i => at' i == at' l) else []

/-- What a scatter stores: the active lanes, and zeros. -/
def State.scattered (s : State) (c : VCx) (at' : Nat → Nat) (val : Nat → W32) : State :=
  (s.storeWords c.g at' val c.active).storeWords c.g at' (fun _ => 0#32) (c.scatterZeros at')

section
variable (s : State) (c : VCx) {at' : Nat → Nat} {val : Nat → W32}

theorem VCx.mem_scatterZeros {l : Nat} (h : l ∈ c.scatterZeros at') :
    c.mz = true ∧ at' l % 4 = 0 ∧ at' l + 4 ≤ ocSize ∧ ∀ k ∈ c.active, at' k ≠ at' l := by
  unfold VCx.scatterZeros at h
  split at h
  · simp only [List.mem_filter, Bool.and_eq_true, beq_iff_eq, ocOk, decide_eq_true_eq, Bool.not_eq_true',
      List.any_eq_false] at h
    obtain ⟨⟨-, ⟨-, halign⟩, hin⟩, hfree⟩ := h
    exact ⟨‹_›, halign, hin, hfree⟩
  · cases h

theorem State.scattered_shape : ∃ oc bad soft, s.scattered c at' val =
    { s with mem := { s.mem with oc := oc, sramBad := bad, sramSoft := soft } } := by
  obtain ⟨oc, bad, soft, h⟩ := s.storeWords_shape c.g (at' := at') (val := val) (ls := c.active)
  obtain ⟨oc', bad', soft', h'⟩ := State.storeWords_shape
    { s with mem := { s.mem with oc := oc, sramBad := bad, sramSoft := soft } } c.g (at' := at') (val := fun _ => 0#32)
    (ls := c.scatterZeros at')
  exact ⟨oc', bad', soft', by rw [State.scattered, h, h']⟩

theorem ocChanged_scattered (h : ∀ l ∈ c.active, at' l + 4 ≤ ocSize) :
    ocChanged s (s.scattered c at' val) c.g 0 ocSize :=
  (ocChanged_storeWords s c.g h).trans (ocChanged_storeWords _ c.g fun l hl => by
    obtain ⟨-, -, hin, -⟩ := c.mem_scatterZeros hl
    exact hin)

/-- An active lane's word reads as its value where no later active lane has the same address. -/
theorem State.scattered_read (halign : ∀ l ∈ c.active, at' l % 4 = 0) {l : Nat} (hl : l ∈ c.active)
    (hlast : ∀ k ∈ c.active, l < k → at' k ≠ at' l) :
    (s.scattered c at' val).ocRead c.g (at' l) 4 = w32Bytes (val l) := by
  have hsorted : c.active.Pairwise (· < ·) := List.pairwise_lt_range.filter _
  refine (State.storeWords_read_ne _ c.g (halign l hl) fun k hk => ?_).trans
    (s.storeWords_read c.g hsorted halign hl hlast)
  obtain ⟨-, hzero, -, hfree⟩ := c.mem_scatterZeros hk
  exact ⟨hzero, (hfree l hl).symm⟩

theorem State.scattered_out (hmz : c.mz = false) {k : Nat}
    (h : ∀ l ∈ c.active, k < ocKey c.g (at' l) ∨ ocKey c.g (at' l) + 4 ≤ k) :
    tget 0 (s.scattered c at' val).mem.oc k = tget 0 s.mem.oc k := by
  have hzeros : c.scatterZeros at' = [] := by rw [VCx.scatterZeros, hmz]; rfl
  rw [State.scattered, hzeros]
  exact s.storeWords_out c.g h

/-- Storing the lanes and then the zeros is what a scatter does. -/
theorem VCx.go_scatter (ad : List Nat) {β : Type} (f : Unit → M β) : (setS (fun s => c.active.foldl (fun s l =>
      s.ocWrite c.g (ad.getD l 0) (w32Bytes (val l))) s) >>= fun _ => if c.mz = true then (setS fun s =>
    (lanes.filter fun l => !(c.on l) && ad.getD l 0 % 4 == 0 && ocOk (ad.getD l 0) 4).foldl (fun s l =>
      if c.active.any (fun i => ad.getD i 0 == ad.getD l 0) then s
      else s.ocWrite c.g (ad.getD l 0) (w32Bytes 0)) s) >>= f else f ()).go s =
    (f ()).go (s.scattered c (fun l => ad.getD l 0) val) := by
  rw [M.go_bind_ok (M.go_setS _ s), State.scattered, VCx.scatterZeros]
  cases c.mz with
  | false => rfl
  | true =>
    simp only [if_true]
    refine (M.go_bind_ok (M.go_setS _ _) _).trans (congrArg (f ()).go ?_)
    conv_rhs => rw [State.storeWords, List.foldl_filter]
    congr 1
    funext s l
    cases c.active.any fun i => ad.getD i 0 == ad.getD l 0 <;> rfl

end

section
variable {s u v : State} {g : Fin 256} {x : Inst} {win : Bool} {q : VWord} {cls op : Nat} {act : List Nat}
variable {at' : Nat → Nat} (hat : ∀ l, at' l = asNat q.sA + 4 * (Machine.vval s g.val win (bits q.w.toNat 28 8) q.sB l).toNat)
variable (haux : bits q.w.toNat 56 8 = 0) (ha : scaField (bits q.w.toNat 20 8)) (hb : srcField win (bits q.w.toNat 28 8))
variable (hact : act = activeLanes s g.val q.w.toNat) (hok : ∀ l ∈ act, at' l % 4 = 0 ∧ at' l + 4 ≤ ocSize)

include hat ha hb hact hok in
/-- The addresses of the lanes, with the inactive ones outside the cache counted. -/
theorem vecFront.go_indexed (h : vecFront s g.val x win q cls op u) (hcls : cls ≠ 8) (hv : softRead u v) : ∃ ad t,
    OperandsRead g.val x u t ∧ ((s.vecCx g.val x q).indexed).go v = (.ok ad, t) ∧ ∀ l, l < 128 → ad.getD l 0 = at' l := by
  obtain ⟨vb, w, hgo, hw, hlen, hvb⟩ := h.go_src hv q.sB hb
  have hval : ∀ l, l < 128 → (vb.map fun y => asNat q.sA + 4 * y.toNat).getD l 0 = at' l := fun l hl => by
    rw [getD_map_lane _ (hlen ▸ hl), hvb l hl, hat]
  obtain ⟨t, ht, hbounds⟩ := (s.vecCx g.val x q).go_laneBounds_active w x
    (ok := fun l => (vb.map fun y => asNat q.sA + 4 * y.toNat).getD l 0 % 4 == 0 &&
      ocOk ((vb.map fun y => asNat q.sA + 4 * y.toNat).getD l 0) 4)
    (at' := fun l => (vb.map fun y => asNat q.sA + 4 * y.toNat).getD l 0) fun l hl => by
      obtain ⟨halign, hin⟩ := hok l (by rwa [hact, ← h.active hcls])
      simp only [hval l (VCx.lt_of_mem_active hl), halign, ocOk, decide_eq_true hin]
      rfl
  refine ⟨_, t, hw.operands.trans ht, ?_, hval⟩
  exact (M.go_bind_ok ((s.vecCx g.val x q).go_scaOf v ha) _).trans ((M.go_bind_ok hgo _).trans (M.go_bind_ok hbounds _))

include hat haux ha hb hact hok

theorem vgather_runs (h : vecFront s g.val x win q 7 4 u) (hd : vecField win (bits q.w.toNat 12 8))
    (hslot : win = true → s.slotOk (bits q.w.toNat 44 12) x.ctx = true) :
    runsTo (.vgather g) s fun t => vecOnly u t g.val x false ∧ reported u t x q.w.toNat win ∧
      lanesSet u t g.val win (bit q.w.toNat 11) (bits q.w.toNat 12 8) (lit s g.val (bits q.w.toNat 8 3))
        (fun l => w32At (s.ocRead g.val (at' l) 4) 0) := by
  have hwin : (s.vecCx g.val x q).window = win := h.window
  obtain ⟨ad, v, hv, hidx, had⟩ := h.go_indexed hat ha hb hact hok (by decide) (softRead.refl u)
  obtain ⟨soft, ce, hreads⟩ := go_ocReads (l := (s.vecCx g.val x q).active.map fun l => (ad.getD l 0, 4))
    (hv.ocGood h.ocGood) fun r hr => by
      obtain ⟨l, hl, rfl⟩ := List.mem_map.1 hr
      rw [had l (VCx.lt_of_mem_active hl)]
      exact (hok l (by rwa [hact, ← h.active (by decide)])).2
  generalize hw' : { v with mem := { v.mem with sramSoft := soft, sramCe := ce } } = w at hreads
  have hw : OperandsRead g.val x u w := hv.trans (softRead.operands ⟨soft, ce, hw'.symm⟩)
  have hall : (win && !false) = win := Bool.and_true win
  have hput := VCx.go_put (c := s.vecCx g.val x q) (copy := false) w (bits q.w.toNat 12 8) (s.vecCx g.val x q).on
    (lanes.map fun l => if (s.vecCx g.val x q).on l then w32At (w.ocRead g.val (ad.getD l 0) 4) 0 else 0#32)
    fun hs => (hw.kept.slotOk _ _).trans ((h.slotOk _ _).trans (hslot (by rwa [hwin, hall] at hs)))
  rw [hwin, hall] at hput
  refine h.lanes_runs rfl (by decide) hw (r := (8, [bits q.w.toNat 28 8])) (d := bits q.w.toNat 12 8) (by
      rw [vVgather, M.go_bind_ok (VCx.go_noAux (s.vecCx g.val x q) haux),
        M.go_bind_ok ((s.vecCx g.val x q).go_vecOf u (by rwa [hwin])), M.go_bind_ok hidx]
      exact (M.go_bind_ok hreads _).trans ((M.go_bind_ok (M.go_getS w) _).trans ((M.go_bind_ok hput _).trans rfl)))
    (fun l hl => (h.on (by decide) hl).symm) fun l hl hon => ?_
  rw [laneAt_map _ hl, if_pos hon, had l hl, hw.kept.ocRead, h.ocRead]

theorem vscatter_go (h : vecFront s g.val x win q 7 5 u) (hc : srcField win (bits q.w.toNat 36 8))
    (hslot : s.slotOk (bits q.w.toNat 44 12) x.ctx = true) : ∃ w ad val k r, OperandsRead g.val x u w ∧
      (∀ l, l < 128 → ad.getD l 0 = at' l) ∧
      (∀ l, l < 128 → val l = vval s g.val win (bits q.w.toNat 36 8) q.sC l) ∧
      (vVscatter (s.vecCx g.val x q)).go u = (.ok r,
        (w.scattered (s.vecCx g.val x q) (fun l => List.getD ad l 0) val).reportIf (s.vecCx g.val x q) true k) := by
  obtain ⟨vc, v, hgo, hv, -, hvc⟩ := h.go_src (softRead.refl u) q.sC hc
  obtain ⟨ad, w, hw, hidx, had⟩ := h.go_indexed hat ha hb hact hok (by decide) hv
  refine ⟨w, ad, laneAt vc, censusOf ((s.vecCx g.val x q).active.map (laneAt vc)),
    (8, [bits q.w.toNat 28 8, bits q.w.toNat 36 8]), hw, had, hvc, ?_⟩
  have hstream := (s.vecCx g.val x q).go_stream v (b := true) fun _ =>
    (hv.kept.slotOk _ _).trans ((h.slotOk _ _).trans hslot)
  rw [vVscatter, M.go_bind_ok (VCx.go_noAux (s.vecCx g.val x q) haux)]
  refine (M.go_bind_ok hgo _).trans ((M.go_bind_ok hstream _).trans ((M.go_bind_ok hidx _).trans ?_))
  exact (VCx.go_scatter w (s.vecCx g.val x q) (val := laneAt vc) ad _).trans rfl

theorem vscatter_runs (h : vecFront s g.val x win q 7 5 u) (hc : srcField win (bits q.w.toNat 36 8))
    (hslot : s.slotOk (bits q.w.toNat 44 12) x.ctx = true) :
    runsTo (.vscatter g) s fun t => vecOnly u t g.val x false ∧ t.eng.vec = u.eng.vec ∧ reported u t x q.w.toNat true ∧
      ocChanged u t g.val 0 ocSize ∧
      (∀ l ∈ act, (∀ k ∈ act, l < k → at' k ≠ at' l) →
        w32At (t.ocRead g.val (at' l) 4) 0 = vval s g.val win (bits q.w.toNat 36 8) q.sC l) ∧
      (bit q.w.toNat 11 = false → ∀ k, (∀ l ∈ act, k < ocKey g.val (at' l) ∨ ocKey g.val (at' l) + 4 ≤ k) →
        tget 0 t.mem.oc k = tget 0 s.mem.oc k) := by
  have hact' : act = (s.vecCx g.val x q).active := hact.trans (h.active (by decide)).symm
  obtain ⟨w, ad, val, k, r, hw, had, hval, hgo⟩ := vscatter_go hat haux ha hb hact hok h hc hslot
  rw [hact'] at hok ⊢
  have had' : ∀ l ∈ (s.vecCx g.val x q).active, ad.getD l 0 = at' l := fun l hl => had l (VCx.lt_of_mem_active hl)
  obtain ⟨oc, bad, soft, hshape⟩ := w.scattered_shape (s.vecCx g.val x q) (at' := fun l => ad.getD l 0) (val := val)
  have hwrote : wrote w (w.scattered (s.vecCx g.val x q) (fun l => ad.getD l 0) val) := ⟨_, _, _, hshape⟩
  have hoc : w.mem.oc = s.mem.oc := hw.kept.oc.trans (congrArg Mem.oc h.mem_eq)
  have hmem : ∀ n, (wordDone s ((w.scattered (s.vecCx g.val x q) (fun l => ad.getD l 0) val).reportIf
      (s.vecCx g.val x q) true k) g.val x n).mem = (w.scattered (s.vecCx g.val x q) (fun l => ad.getD l 0) val).mem :=
    fun n => (wordDone_mem _ _ _).trans (State.reportIf_mem _ _ _ _)
  refine runsTo_of_vecFront h rfl (by decide) hgo fun n => ⟨?_, ?_, ?_, ?_, fun l hl hlast => ?_, fun hmz j hj => ?_⟩
  · exact (hw.only.trans (hwrote.trans (State.reportIf_wrote _ _ _ _)).only).done h.left_eq n
  · exact (congrArg Eng.vec (State.reportIf_eng _ _ _ _)).trans
      (congrArg Eng.vec ((by rw [hshape] : _ = w.eng).trans hw.kept.eng))
  · exact reported_reportIf u g.val (c := s.vecCx g.val x q) ((by rw [hshape] : _ = w.train).trans hw.kept.train) true k s n
  · refine hw.ocChanged ((ocChanged_scattered w (s.vecCx g.val x q) fun l hl => ?_).congr (hmem n))
    rw [had' l hl]
    exact (hok l hl).2
  · have hread := w.scattered_read (s.vecCx g.val x q) (at' := fun l => ad.getD l 0) (val := val)
      (fun i hi => by rw [had' i hi]; exact (hok i hi).1) hl
      fun i hi hlt => by rw [had' i hi, had' l hl]; exact hlast i hi hlt
    rw [had' l hl] at hread
    rw [State.ocRead, hmem, ← hval l (VCx.lt_of_mem_active hl)]
    exact (congrArg (fun bs => w32At bs 0) hread).trans (w32At_w32Bytes _)
  · rw [hmem, ← hoc]
    exact w.scattered_out (s.vecCx g.val x q) hmz fun l hl => by rw [had' l hl]; exact hj l hl

end

/-- Settles O39: each permutation reads its operands without a fault, and writes the lanes of a vector, a scalar or words
of the operand cache from them. -/
theorem vectorPermutations : Obligations.VectorPermutations := by
  rintro g x win q w n p d act on va s u rfl hact rfl rfl rfl rfl rfl
  refine ⟨fun e he => ?_, fun c z h hdec hplain hsr hgiven ha hb hz halign hin hslot => ?_,
    fun f z h haux hf hd hb hz halign hin hslot => ?_, fun at' hat haux ha hb hok => ⟨fun h hd hslot => ?_,
      fun h hc hslot => ?_⟩, fun h haux hd hb ha => vbcast_runs h haux hd hb ha⟩
  · simp only [List.mem_cons, List.not_mem_nil, or_false] at he
    rcases he with rfl | rfl <;> intro h haux hd hc ha
    · exact vcompress_runs hact h haux hd hc ha
    · exact vexpand_runs hact h haux hd hc ha
  · subst hz
    have hcode : ∀ i y, (s.vecCx g.val x q).laneCode (c.fmt == .w32) c (s.stepNo x.ctx) i y = if c.fmt = .w32 then y.toNat
        else (convCode c false (draw (BitVec.ofNat 64 (s.stepNo x.ctx)) (bits q.w.toNat 44 12) i) (srcW32 y)).1 :=
      fun i y => by simp only [VCx.laneCode, beq_iff_eq]; rfl
    have hruns := vcstore_runs hact h hdec hplain hsr hgiven ha hb halign hin hslot
    simp only [hcode] at hruns
    exact hruns
  · subst hz
    obtain ⟨t, ht, honly, hrep, hset, hsca⟩ := vxload_runs hact h haux hf hd hb halign hin hslot
    exact ⟨t, ht, honly, hset, hsca, hrep⟩
  · exact vgather_runs hat haux ha hb hact hok h hd hslot
  · exact vscatter_runs hat haux ha hb hact hok h hc hslot

end Sys2Proof.Machine

namespace Sys2Proof.Machine

/-! ### Fused rows (04 R102–R108) -/

theorem vecOnly.weaken {u t : State} {g : Nat} {x : Inst} (h : vecOnly u t g x false) : vecOnly u t g x true := by
  obtain ⟨hsame, -, hfields⟩ := h
  exact ⟨hsame, nofun, hfields⟩

theorem sramKept.after {u v v' t : State} (h : sramKept u v) (h' : sramKept v' t) (hmem : v'.mem = v.mem := by rfl) :
    sramKept u t := by
  unfold sramKept at h h' ⊢
  rw [h', hmem, h]

/-- From `u` to `t` core `g`'s vector engine has its fused word at `r` and its pairs at `p`; no other engine changed. -/
structure RowStep (g : Nat) (u t : State) (r : Option FusedRun) (p : Tbl (W32 × W32)) : Prop where
  wrote : wrote u t
  vec : t.vec g = { u.vec g with run := r, pairs := p }
  other : ∀ h, h ≠ g → t.vec h = u.vec h

section
variable {g : Nat} {u v t : State} {r r' : Option FusedRun} {p p' : Tbl (W32 × W32)}

theorem RowStep.of_eng (h : Machine.wrote u v) (heng : v.eng = u.eng) :
    RowStep g u v (u.vec g).run (u.vec g).pairs :=
  ⟨h, by rw [State.vec, heng]; rfl, fun k _ => by rw [State.vec, heng]; rfl⟩

theorem RowStep.trans_eng (h : RowStep g u v r p) (ht : Machine.wrote v t) (heng : t.eng = v.eng) :
    RowStep g u t r p := by
  have hsame : ∀ k, t.vec k = v.vec k := fun k => by rw [State.vec, heng]; rfl
  exact ⟨h.wrote.trans ht, (hsame g).trans h.vec, fun k hk => (hsame k).trans (h.other k hk)⟩

theorem RowStep.setVec (h : RowStep g u v r p) : RowStep g u (v.setVec g { v.vec g with run := r', pairs := p' }) r' p' :=
  ⟨h.wrote.trans ⟨_, _, _, rfl⟩, by rw [State.vec_setVec, h.vec], fun k hk =>
    (v.vec_setVec_ne _ hk).trans (h.other k hk)⟩

theorem RowStep.setRun (h : RowStep g u v r p) : RowStep g u (v.setVec g { v.vec g with run := r' }) r' p := by
  obtain rfl : (v.vec g).pairs = p := by rw [h.vec]
  exact h.setVec

theorem RowStep.setPairs (h : RowStep g u v r p) : RowStep g u (v.setVec g { v.vec g with pairs := p' }) r p' := by
  obtain rfl : (v.vec g).run = r := by rw [h.vec]
  exact h.setVec

end

/-- What every chunk of a fused word leaves as it was. -/
def rowKept (u t : State) (g : Nat) (x : Inst) : Prop :=
  vecOnly u t g x true ∧ t.vec g = { u.vec g with run := (t.vec g).run, pairs := (t.vec g).pairs } ∧
    ∀ h, h ≠ g → t.vec h = u.vec h

/-- The fused word goes on at `r'`, with the pairs at `p`. -/
def rowGoes (u t : State) (g : Nat) (r' : FusedRun) (p : Tbl (W32 × W32)) : Prop :=
  (t.vec g).run = some r' ∧ (t.vec g).pairs = p ∧ t.eng.core = u.eng.core

/-- The fused word ended: its pairs are clear and scalar `d` has its result. -/
def rowEnds (u t : State) (g d : Nat) (y : W32) : Prop :=
  (t.vec g).run = none ∧ (t.vec g).pairs = [] ∧ scalarSet u t g d (y.setWidth 64)

section
variable {g : Nat} {x : Inst} {s u t : State} {p : Tbl (W32 × W32)} (hu : left s u = u) (n : Nat)
include hu

theorem RowStep.goes {r' : FusedRun} (h : RowStep g u t (some r') p) :
    rowKept u (wordDone s t g x n) g x ∧ rowGoes u (wordDone s t g x n) g r' p := by
  have hvec : ∀ k, (wordDone s t g x n).vec k = t.vec k := fun _ => rfl
  have hcore : t.eng.core = u.eng.core := by
    obtain ⟨e, m, r, rfl⟩ := h.wrote
    rfl
  exact ⟨⟨(h.wrote.only.done hu n).weaken, by rw [hvec, h.vec], h.other⟩, by rw [hvec, h.vec], by rw [hvec, h.vec], hcore⟩

theorem RowStep.ends (h : RowStep g u t none []) (d : Nat) (y : W32) :
    rowKept u (wordDone s (t.putScalar g d (y.setWidth 64)) g x n) g x ∧
      rowEnds u (wordDone s (t.putScalar g d (y.setWidth 64)) g x n) g d y := by
  have hvec : ∀ k, (wordDone s (t.putScalar g d (y.setWidth 64)) g x n).vec k = t.vec k := fun _ => rfl
  refine ⟨⟨(h.wrote.only.trans (vecOnly_putScalar _ _ _)).done hu n, by rw [hvec, h.vec], h.other⟩,
    by rw [hvec, h.vec], by rw [hvec, h.vec], scalarSet_putScalar h.wrote.core d (y.setWidth 64)⟩

end

/-- Elements of the row's chunk that a fused word executes next, at most 128. -/
def VCx.chunkLen (c : VCx) (r : FusedRun) : Nat := Nat.min 128 (c.fusedArgs.len - 128 * r.chunk)

/-- Element `i` of that chunk. -/
def VCx.chunkElem (c : VCx) (u : State) (r : FusedRun) (i : Nat) : W32 := fusedElem u c.g c.fusedArgs (128 * r.chunk + i)

/-- The row's maximum with that chunk (04 R103). -/
def VCx.chunkMax (c : VCx) (u : State) (r : FusedRun) : W32 :=
  (upTo (c.chunkLen r)).foldl (fun m i => w32Max m (c.chunkElem u r i)) r.m

/-- The pairs with that chunk's exponentials added (04 R103). -/
def VCx.chunkPairs (c : VCx) (u : State) (r : FusedRun) : Tbl (W32 × W32) :=
  (upTo (c.chunkLen r)).foldl (fun p i => tput pair0 p i (pairAdd (tget pair0 p i)
    (rowExp r.m (c.chunkElem u r i)))) (u.vec c.g).pairs

/-- A fused word in execution at `r` that is not suppressed, whose row lies in a cache without bad words. -/
structure RowAt (c : VCx) (u : State) (v : Cvc) (r : FusedRun) : Prop where
  run : (u.vec c.g).run = some r
  dec : cvcDecode c.aux = some v
  live : u.suppressed c.t.ctx = false
  good : ocGood u c.g 0 ocSize
  within : 128 * r.chunk < c.fusedArgs.len
  inside : c.fusedArgs.src + c.fusedArgs.len * laneSize c.fusedArgs.f ≤ ocSize

theorem zip_map_upTo (f : Nat → W32) {n m : Nat} (h : n ≤ m) :
    ((upTo n).map f).zip (upTo m) = (upTo n).map fun i => (f i, i) :=
  List.ext_getElem (by simp [upTo, h]) fun i _ _ => by simp [upTo]

section
variable {c : VCx} {u : State} {k : Fused} {v : Cvc} {r : FusedRun} (h : RowAt c u v r)
include h

theorem RowAt.chunk_inside : c.fusedArgs.src + laneSize c.fusedArgs.f * (128 * r.chunk) +
    laneSize c.fusedArgs.f * c.chunkLen r ≤ ocSize := by
  have hle : 128 * r.chunk + c.chunkLen r ≤ c.fusedArgs.len := by
    have := h.within
    have : c.chunkLen r ≤ c.fusedArgs.len - 128 * r.chunk := Nat.min_le_right _ _
    omega
  have hmul := Nat.mul_le_mul_left (laneSize c.fusedArgs.f) hle
  have hin := h.inside
  rw [Nat.mul_comm c.fusedArgs.len] at hin
  rw [Nat.mul_add] at hmul
  omega

/-- The chunk is read without a fault. -/
theorem RowAt.go_read : ∃ w, softRead u w ∧ (ocReads c.g [(c.fusedArgs.src + laneSize c.fusedArgs.f * (128 * r.chunk),
    laneSize c.fusedArgs.f * ((upTo (Nat.min 128 (c.fusedArgs.len - 128 * r.chunk))).map (128 * r.chunk + ·)).length)]).go u =
      (.ok (), w) := by
  rw [List.length_map, upTo, List.length_range]
  exact go_ocReads_one h.good (.inr h.chunk_inside)

/-- Pass 1 takes the chunk into the maximum (04 R103). -/
theorem RowAt.go_pass1 (hp : r.pass = 1) : ∃ w, softRead u w ∧ (vFusedNext k c).go u =
    ((if c.fusedArgs.len ≤ 128 * r.chunk + 128 then c.endPass1 k { r with m := c.chunkMax u r }
      else c.setRun (some { r with m := c.chunkMax u r, chunk := r.chunk + 1 })) >>= fun _ =>
        pure (chunkBeats k, ([] : List Nat))).go w := by
  obtain ⟨w, hw, hgo⟩ := h.go_read
  refine ⟨w, hw, ?_⟩
  rw [vFusedNext, M.go_bind_ok (M.go_getS u)]
  simp only [h.run, h.dec, h.live, Bool.false_eq_true, if_false]
  refine (M.go_bind_ok hgo _).trans ?_
  simp only [hp, if_true, List.map_map, List.foldl_map, decide_eq_true_eq]
  split <;> rfl

/-- What pass 1 leaves behind a chunk. -/
theorem RowAt.pass1_runs (hp : r.pass = 1) : ∃ t, (vFusedNext k c).go u = (.ok (chunkBeats k, []), t) ∧ t.regs = u.regs ∧
    ∀ s n, left s u = u → chunkRan u (wordDone s t c.g c.t n) c.g c.t k c.fusedArgs v r := by
  obtain ⟨w, hw, hgo⟩ := h.go_pass1 (k := k) hp
  have hstart := RowStep.of_eng (g := c.g) hw.wrote hw.kept.eng
  have hregs : w.regs = u.regs := by
    obtain ⟨soft, ce, rfl⟩ := hw
    rfl
  have hran : ∀ {T : State}, rowKept u T c.g c.t → T.mem = w.mem → T.train = w.train →
      (¬ c.fusedArgs.len ≤ 128 * r.chunk + 128 →
        rowGoes u T c.g { r with m := c.chunkMax u r, chunk := r.chunk + 1 } (u.vec c.g).pairs) →
      (c.fusedArgs.len ≤ 128 * r.chunk + 128 → rowBad (c.chunkMax u r) = true → k = .lse →
        rowEnds u T c.g c.fusedArgs.d w32NaN) →
      (c.fusedArgs.len ≤ 128 * r.chunk + 128 → rowBad (c.chunkMax u r) = true → k ≠ .lse →
        rowGoes u T c.g { r with m := c.chunkMax u r, pass := 3, chunk := 0, res := w32NaN } (u.vec c.g).pairs) →
      (c.fusedArgs.len ≤ 128 * r.chunk + 128 → rowBad (c.chunkMax u r) = false →
        rowGoes u T c.g { r with m := c.chunkMax u r, pass := 2, chunk := 0 } []) →
      chunkRan u T c.g c.t k c.fusedArgs v r := by
    rintro T ⟨honly, hvec, hother⟩ hmem htrain hmore hnan hbad hgood
    refine ⟨honly, hvec, hother, fun _ m hm => ?_, fun h2 => by omega, fun h3 => by omega⟩
    obtain rfl : m = c.chunkMax u r := hm
    refine ⟨?_, htrain.trans hw.kept.train, hmore, hnan, hbad, hgood⟩
    have hkept := hw.sramKept
    unfold sramKept at hkept ⊢
    rwa [hmem]
  by_cases hlast : c.fusedArgs.len ≤ 128 * r.chunk + 128
  · rw [if_pos hlast, VCx.endPass1] at hgo
    cases hrow : rowBad (c.chunkMax u r) with
    | false =>
      simp only [hrow, Bool.not_false, if_true] at hgo
      refine ⟨_, hgo.trans rfl, hregs, fun s n hu => ?_⟩
      obtain ⟨hkept, hgoes⟩ := (hstart.setPairs (p' := [])).setRun.goes (x := c.t) hu n
      exact hran hkept rfl rfl (absurd hlast) (fun _ hb => absurd hrow (by simp [hb]))
        (fun _ hb => absurd hrow (by simp [hb])) fun _ _ => hgoes
    | true =>
      simp only [hrow, Bool.not_true, Bool.false_eq_true, if_false] at hgo
      by_cases hk : k = .lse
      · rw [if_pos hk] at hgo
        refine ⟨_, hgo.trans rfl, hregs, fun s n hu => ?_⟩
        obtain ⟨hkept, hends⟩ := (hstart.setVec (r' := none) (p' := [])).ends (x := c.t) hu n c.fusedArgs.d w32NaN
        exact hran hkept rfl rfl (absurd hlast) (fun _ _ _ => hends) (fun _ _ hne => absurd hk hne)
          (fun _ hg => absurd hrow (by simp [hg]))
      · rw [if_neg hk] at hgo
        refine ⟨_, hgo.trans rfl, hregs, fun s n hu => ?_⟩
        obtain ⟨hkept, hgoes⟩ := hstart.setRun.goes (x := c.t) hu n
        exact hran hkept rfl rfl (absurd hlast) (fun _ _ he => absurd he hk) (fun _ _ _ => hgoes)
          (fun _ hg => absurd hrow (by simp [hg]))
  · rw [if_neg hlast] at hgo
    refine ⟨_, hgo.trans rfl, hregs, fun s n hu => ?_⟩
    obtain ⟨hkept, hgoes⟩ := hstart.setRun.goes (x := c.t) hu n
    exact hran hkept rfl rfl (fun _ => hgoes) (absurd · hlast) (absurd · hlast) (absurd · hlast)

/-- Pass 2 adds the chunk's exponentials to the pairs (04 R103). -/
theorem RowAt.go_pass2 (hp : r.pass = 2) : ∃ w, softRead u w ∧ (vFusedNext k c).go u =
    ((if c.fusedArgs.len ≤ 128 * r.chunk + 128 then c.endPass2 k r else c.setRun (some { r with chunk := r.chunk + 1 })) >>=
      fun _ => pure (0, ([] : List Nat))).go (w.setVec c.g { w.vec c.g with pairs := c.chunkPairs u r }) := by
  obtain ⟨w, hw, hgo⟩ := h.go_read
  refine ⟨w, hw, ?_⟩
  rw [vFusedNext, M.go_bind_ok (M.go_getS u)]
  simp only [h.run, h.dec, h.live, Bool.false_eq_true, if_false]
  refine (M.go_bind_ok hgo _).trans ?_
  have hpairs : (w.vec c.g).pairs = (u.vec c.g).pairs := by rw [hw.kept.vec]
  simp only [hp, OfNat.ofNat_ne_one, if_false, if_true, List.map_map, decide_eq_true_eq]
  refine (M.go_bind_ok (M.go_setS _ w) _).trans ?_
  rw [zip_map_upTo _ (Nat.min_le_left _ _), List.foldl_map, hpairs]
  split <;> rfl

/-- Pass 2 behind its last chunk: the sum, its logarithm and reciprocal, and VXENT's loss (04 R103, R104). -/
def VCx.rowSums (c : VCx) (u : State) (k : Fused) (r : FusedRun) : FusedRun :=
  { r with
    pass := 3
    chunk := 0
    sum := foldPairs (c.chunkPairs u r)
    lse := w32Add r.m (fLog (foldPairs (c.chunkPairs u r)))
    r := fRcp (foldPairs (c.chunkPairs u r))
    res := if k = .xent then
        w32Sub (w32Add r.m (fLog (foldPairs (c.chunkPairs u r)))) (fusedElem u c.g c.fusedArgs c.fusedArgs.t)
      else w32Add r.m (fLog (foldPairs (c.chunkPairs u r))) }

/-- Behind the last chunk of pass 2 a word other than VLSE goes to pass 3. -/
theorem RowAt.go_endPass2 (hk : k ≠ .lse) (ht : k = .xent → c.fusedArgs.t < c.fusedArgs.len) {w : State} (hw : softRead u w) :
    ∃ z, softRead (w.setVec c.g { w.vec c.g with pairs := c.chunkPairs u r }) z ∧
      (c.endPass2 k r).go (w.setVec c.g { w.vec c.g with pairs := c.chunkPairs u r }) =
        (.ok (), z.setVec c.g { z.vec c.g with run := some (c.rowSums u k r) }) := by
  have hpairs : ((w.setVec c.g { w.vec c.g with pairs := c.chunkPairs u r }).vec c.g).pairs = c.chunkPairs u r := by
    rw [State.vec_setVec]
  rw [VCx.endPass2, M.go_bind_ok (M.go_getS _), VCx.rowSums]
  simp only [hk, if_false, hpairs]
  by_cases hxent : k = .xent
  · have hin : c.fusedArgs.src + laneSize c.fusedArgs.f * c.fusedArgs.t + laneSize c.fusedArgs.f ≤ ocSize := by
      have hmul := Nat.mul_le_mul_left (laneSize c.fusedArgs.f) (ht hxent)
      have hinside := h.inside
      rw [Nat.mul_comm c.fusedArgs.len] at hinside
      rw [Nat.mul_succ] at hmul
      omega
    obtain ⟨z, hz, hgo⟩ := go_ocReads_one (u := w.setVec c.g { w.vec c.g with pairs := c.chunkPairs u r })
      (hw.ocGood h.good) (.inr hin)
    refine ⟨z, hz, ?_⟩
    have helem : fusedElem (w.setVec c.g { w.vec c.g with pairs := c.chunkPairs u r }) c.g c.fusedArgs c.fusedArgs.t =
        fusedElem u c.g c.fusedArgs c.fusedArgs.t := by
      rw [fusedElem, fusedElem, ← hw.kept.ocRead]
      rfl
    simp only [hxent, if_true, helem]
    exact M.go_bind_ok hgo _
  · refine ⟨_, softRead.refl _, ?_⟩
    simp only [hxent, if_false]
    rfl

omit h in
/-- Behind the last chunk of pass 2 VLSE ends (04 R103). -/
theorem VCx.go_endPass2_lse {w : State} {p : Tbl (W32 × W32)} (hp : (w.vec c.g).pairs = p) :
    (c.endPass2 .lse r).go w = (.ok (), (w.setVec c.g { w.vec c.g with run := none, pairs := [] }).putScalar c.g
      c.fusedArgs.d ((w32Add r.m (fLog (foldPairs p))).setWidth 64)) := by
  subst hp
  rfl

/-- What pass 2 leaves behind a chunk. -/
theorem RowAt.pass2_runs (hp : r.pass = 2) (ht : k = .xent → c.fusedArgs.t < c.fusedArgs.len) :
    ∃ b t, (vFusedNext k c).go u = (.ok b, t) ∧
      ∀ s n, left s u = u → chunkRan u (wordDone s t c.g c.t n) c.g c.t k c.fusedArgs v r := by
  obtain ⟨w, hw, hgo⟩ := h.go_pass2 (k := k) hp
  have hstart := (RowStep.of_eng (g := c.g) hw.wrote hw.kept.eng).setPairs (p' := c.chunkPairs u r)
  have hran : ∀ {T : State}, rowKept u T c.g c.t → sramKept u T → T.train = u.train →
      (c.fusedArgs.len ≤ 128 * r.chunk + 128 → k = .lse →
        rowEnds u T c.g c.fusedArgs.d (w32Add r.m (fLog (foldPairs (c.chunkPairs u r))))) →
      ((c.fusedArgs.len ≤ 128 * r.chunk + 128 → k ≠ .lse) →
        rowGoes u T c.g (if c.fusedArgs.len ≤ 128 * r.chunk + 128 then c.rowSums u k r else { r with chunk := r.chunk + 1 })
          (c.chunkPairs u r)) →
      chunkRan u T c.g c.t k c.fusedArgs v r := by
    rintro T ⟨honly, hvec, hother⟩ hkept htrain hends hgoes
    refine ⟨honly, hvec, hother, fun h1 => by omega, fun _ ps sum lse hps hsum hlse => ?_, fun h3 => by omega⟩
    obtain rfl : ps = c.chunkPairs u r := hps
    subst hsum hlse
    refine ⟨hkept, htrain, hends, fun hk => ?_⟩
    obtain ⟨hrun, hpairs, hcore⟩ := hgoes hk
    exact ⟨hpairs, hcore, hrun⟩
  by_cases hlast : c.fusedArgs.len ≤ 128 * r.chunk + 128
  · rw [if_pos hlast] at hgo
    by_cases hk : k = .lse
    · have hpairs : ((w.setVec c.g { w.vec c.g with pairs := c.chunkPairs u r }).vec c.g).pairs = c.chunkPairs u r := by
        rw [State.vec_setVec]
      subst hk
      refine ⟨_, _, hgo.trans (M.go_bind_ok (VCx.go_endPass2_lse hpairs) _), fun s n hu => ?_⟩
      obtain ⟨hkept, hends⟩ := (hstart.setVec (r' := none) (p' := [])).ends (x := c.t) hu n c.fusedArgs.d
        (w32Add r.m (fLog (foldPairs (c.chunkPairs u r))))
      exact hran hkept hw.sramKept hw.kept.train (fun _ _ => hends) fun hne => absurd rfl (hne hlast)
    · obtain ⟨z, hz, hend⟩ := h.go_endPass2 hk ht hw
      refine ⟨_, _, hgo.trans (M.go_bind_ok hend _), fun s n hu => ?_⟩
      obtain ⟨hkept, hgoes⟩ := (hstart.trans_eng hz.wrote hz.kept.eng).setRun.goes (x := c.t) hu n
      rw [if_pos hlast] at hran
      exact hran hkept (hw.sramKept.after hz.sramKept) (hz.kept.train.trans hw.kept.train) (fun _ he => absurd he hk)
        fun _ => hgoes
  · rw [if_neg hlast] at hgo hran
    refine ⟨_, _, hgo.trans rfl, fun s n hu => ?_⟩
    obtain ⟨hkept, hgoes⟩ := hstart.setRun.goes (x := c.t) hu n
    exact hran hkept hw.sramKept hw.kept.train (absurd · hlast) fun _ => hgoes

/-- Pass 3 stores the chunk's elements and reports them (04 R103, R104, R108). -/
theorem RowAt.go_pass3 (hp : r.pass = 3) : ∃ w m, softRead u w ∧ (vFusedNext k c).go u =
    ((if c.fusedArgs.len ≤ 128 * r.chunk + 128 then c.rowEnd r.res
      else c.setRun (some { r with chunk := r.chunk + 1 })) >>= fun _ => pure (0, ([] : List Nat))).go
      ((w.storeElems c.g (c.fusedArgs.dst + laneSize v.fmt * (128 * r.chunk)) (laneSize v.fmt)
        (c.codeBytes false v (w.stepNo c.t.ctx) (128 * r.chunk + ·)
          fun i => rowOut k c.fusedArgs r (128 * r.chunk + i) (c.chunkElem u r i))
        (upTo (c.chunkLen r))).reportIf c true m) := by
  obtain ⟨w, hw, hgo⟩ := h.go_read
  obtain ⟨ks, hks⟩ := c.go_stElems false v (c.fusedArgs.dst + laneSize v.fmt * (128 * r.chunk)) (128 * r.chunk + ·)
    (fun i => rowOut k c.fusedArgs r (128 * r.chunk + i) (c.chunkElem u r i)) (upTo (c.chunkLen r)) w
  simp only [Nat.add_assoc, ← Nat.mul_add] at hks
  refine ⟨w, sumCensus ks, hw, ?_⟩
  rw [vFusedNext, M.go_bind_ok (M.go_getS u)]
  simp only [h.run, h.dec, h.live, Bool.false_eq_true, if_false]
  refine (M.go_bind_ok hgo _).trans ?_
  simp only [hp, OfNat.ofNat_ne_one, Nat.reduceEqDiff, if_false, List.map_map, List.zip_map', List.mapM_map,
    decide_eq_true_eq]
  split <;> exact M.go_bind_ok hks _

/-- What pass 3 leaves behind a chunk. -/
theorem RowAt.pass3_runs (hp : r.pass = 3) (hplain : v.fmt.scaled = false) (hw : c.w = r.q.w.toNat) :
    ∃ b t, (vFusedNext k c).go u = (.ok b, t) ∧
      ∀ s n, left s u = u → chunkRan u (wordDone s t c.g c.t n) c.g c.t k c.fusedArgs v r := by
  obtain ⟨w, m, hread, hgo⟩ := h.go_pass3 (k := k) hp
  generalize hdata : c.codeBytes false v (w.stepNo c.t.ctx) (128 * r.chunk + ·)
    (fun i => rowOut k c.fusedArgs r (128 * r.chunk + i) (c.chunkElem u r i)) = data at hgo
  generalize hp' : c.fusedArgs.dst + laneSize v.fmt * (128 * r.chunk) = p at hgo
  generalize hz : (w.storeElems c.g p (laneSize v.fmt) data (upTo (c.chunkLen r))).reportIf c true m = z at hgo
  have hzeng : z.eng = w.eng := by
    rw [← hz]
    exact (State.reportIf_eng _ _ _ _).trans (w.storeElems_eng _ _ _ _ _)
  have hzmem : z.mem = (w.storeElems c.g p (laneSize v.fmt) data (upTo (c.chunkLen r))).mem := by
    rw [← hz]
    exact State.reportIf_mem _ _ _ _
  have hzwrote : wrote w z := by
    rw [← hz]
    exact (w.storeElems_wrote _ _ _ _ _).trans (State.reportIf_wrote _ _ _ _)
  have hstart := RowStep.of_eng (g := c.g) (hread.wrote.trans hzwrote) (hzeng.trans hread.kept.eng)
  have hran : ∀ {T : State}, rowKept u T c.g c.t → T.mem = z.mem → T.train = z.train →
      (c.fusedArgs.len ≤ 128 * r.chunk + 128 → rowEnds u T c.g c.fusedArgs.d r.res) →
      (¬ c.fusedArgs.len ≤ 128 * r.chunk + 128 → rowGoes u T c.g { r with chunk := r.chunk + 1 } (u.vec c.g).pairs) →
      chunkRan u T c.g c.t k c.fusedArgs v r := by
    rintro T ⟨honly, hvec, hother⟩ hmem htrain hends hgoes
    refine ⟨honly, hvec, hother, fun h1 => by omega, fun h2 => by omega, fun _ o ho => ?_⟩
    obtain rfl : p = o := hp'.symm.trans ho.symm
    refine ⟨?_, ?_, fun i hi => ?_, hends, hgoes⟩
    · have hrep := reported_reportIf u c.g (c := c) ((w.storeElems_train c.g p (laneSize v.fmt) data
        (upTo (c.chunkLen r))).trans hread.kept.train) true m u 0
      rw [hz, hw] at hrep
      unfold reported at hrep ⊢
      rwa [htrain]
    · rw [Nat.mul_comm]
      refine (hread.operands (g := c.g) (x := c.t)).ocChanged ((ocChanged_storeElems w c.g (fun i _ => ?_) fun i hi =>
        List.mem_range.1 hi).congr (hmem.trans hzmem))
      rw [← hdata]
      exact c.codeBytes_length _ _ _ _ _ _
    · have hcode := c.codes_read (copy := false) hplain nofun p (w.stepNo c.t.ctx) (128 * r.chunk + ·)
        (fun i => rowOut k c.fusedArgs r (128 * r.chunk + i) (c.chunkElem u r i)) w hi
      rw [hdata, hread.kept.stepNo] at hcode
      rw [State.ocRead, hmem, hzmem, ← hw]
      exact hcode
  by_cases hlast : c.fusedArgs.len ≤ 128 * r.chunk + 128
  · rw [if_pos hlast] at hgo
    refine ⟨_, _, hgo.trans rfl, fun s n hu => ?_⟩
    obtain ⟨hkept, hends⟩ := (hstart.setVec (r' := none) (p' := [])).ends (x := c.t) hu n c.fusedArgs.d r.res
    exact hran hkept rfl rfl (fun _ => hends) (absurd hlast)
  · rw [if_neg hlast] at hgo
    refine ⟨_, _, hgo.trans rfl, fun s n hu => ?_⟩
    obtain ⟨hkept, hgoes⟩ := hstart.setRun.goes (x := c.t) hu n
    exact hran hkept rfl rfl (absurd · hlast) fun _ => hgoes

/-- The next chunk of a fused word completes, in whichever pass it is. -/
theorem RowAt.runs (hpass : 1 ≤ r.pass ∧ r.pass ≤ 3) (ht : k = .xent → c.fusedArgs.t < c.fusedArgs.len)
    (hplain : v.fmt.scaled = false) (hw : c.w = r.q.w.toNat) : ∃ b t, (vFusedNext k c).go u = (.ok b, t) ∧
      ∀ s n, left s u = u → chunkRan u (wordDone s t c.g c.t n) c.g c.t k c.fusedArgs v r := by
  obtain hp | hp | hp : r.pass = 1 ∨ r.pass = 2 ∨ r.pass = 3 := by omega
  · obtain ⟨t, hgo, -, hran⟩ := h.pass1_runs (k := k) hp
    exact ⟨_, t, hgo, hran⟩
  · exact h.pass2_runs hp ht
  · exact h.pass3_runs hp hplain hw

end

/-- A fused word whose fields and row are legal (04 R102). -/
structure RowForm (c : VCx) (u : State) (k : Fused) (v : Cvc) : Prop where
  dec : cvcDecode c.aux = some v
  plain : v.fmt.scaled = false
  given : v.given = false
  mz : c.mz = false
  msel : c.msel < 2
  a : scaField c.a ∧ c.a ≠ 0x9F
  b : scaField c.b
  d : scaField c.d
  pos : 0 < c.fusedArgs.len
  len : c.fusedArgs.len ≤ 65536
  align : c.fusedArgs.src % 64 = 0
  inside : c.fusedArgs.src + c.fusedArgs.len * laneSize c.fusedArgs.f ≤ ocSize
  label : k = .xent → scaField c.c ∧ c.c ≠ 0x9F ∧ c.fusedArgs.t < c.fusedArgs.len
  dest : k ≠ .lse → c.fusedArgs.dst % 64 = 0 ∧ c.fusedArgs.dst + c.fusedArgs.len * laneSize v.fmt ≤ ocSize ∧
    u.slotOk c.tslot c.t.ctx = true

section
variable {c : VCx} {u : State} {k : Fused} {v : Cvc} (h : RowForm c u k v)
include h

theorem RowForm.go_label {β : Type} (f : Unit → M β) :
    (if k = .xent then c.scaOf c.c >>= fun m => c.encIf (m == 31) >>= f else f ()).go u = (f ()).go u := by
  split
  · obtain ⟨hc, hne, -⟩ := h.label ‹_›
    have henc : (c.c - 0x80 == 31) = false := by
      have := hc.1
      simp only [beq_eq_false_iff_ne]
      omega
    exact (M.go_bind_ok (c.go_scaOf u hc) _).trans (M.go_bind_ok (c.go_encIf u henc) _)
  · rfl

theorem RowForm.sequence : (c.fusedArgs.len == 0 || decide (65536 < c.fusedArgs.len) || c.fusedArgs.src % 64 != 0 ||
    (k != .lse && c.fusedArgs.dst % 64 != 0) || (k == .xent && decide (c.fusedArgs.len ≤ c.fusedArgs.t))) = false := by
  have hlen := h.pos
  have hmax := h.len
  have halign := h.align
  have hdest : k ≠ .lse → c.fusedArgs.dst % 64 = 0 := fun hk => (h.dest hk).1
  have hlabel : k = .xent → c.fusedArgs.t < c.fusedArgs.len := fun hk => (h.label hk).2.2
  simp only [Bool.or_eq_false_iff, Bool.and_eq_false_imp, beq_eq_false_iff_ne, decide_eq_false_iff_not, bne_eq_false_iff_eq,
    bne_iff_ne, beq_iff_eq, Nat.not_lt, Nat.not_le]
  exact ⟨⟨⟨⟨hlen.ne', hmax⟩, halign⟩, hdest⟩, hlabel⟩

/-- A legal fused word passes its checks: suppressed it ends, else its first chunk runs (04 R102, R108). -/
theorem RowForm.go_vFused : (vFused k c).go u = if u.suppressed c.t.ctx then (.ok (1, []), u) else
    (vFusedNext k c >>= fun b => pure (40 + b.1, [])).go
      (u.setVec c.g { u.vec c.g with run := some { q := c.cap } }) := by
  have henc : (v.fmt.scaled || v.given || c.mz || decide (2 ≤ c.msel)) = false := by
    rw [h.plain, h.given, h.mz, decide_eq_false (Nat.not_le.2 h.msel)]
    rfl
  have hlast : (c.a - 0x80 == 31) = false := by
    have := h.a.1.1
    have := h.a.2
    simp only [beq_eq_false_iff_ne]
    omega
  have hstream : (k != .lse) = true → u.slotOk c.tslot c.t.ctx = true := fun hk => (h.dest (bne_iff_ne.1 hk)).2.2
  have hsrc : ocOk c.fusedArgs.src (c.fusedArgs.len * laneSize c.fusedArgs.f) = true := decide_eq_true h.inside
  have hdst : (k != .lse && !(ocOk c.fusedArgs.dst (c.fusedArgs.len * laneSize v.fmt))) = false := by
    rw [Bool.and_eq_false_imp]
    intro hk
    rw [ocOk, decide_eq_true (h.dest (bne_iff_ne.1 hk)).2.1]
    rfl
  rw [vFused, h.dec]
  refine (M.go_bind_ok (c.go_encIf u henc) _).trans ((M.go_bind_ok (c.go_scaOf u h.a.1) _).trans
    ((M.go_bind_ok (c.go_scaOf u h.b) _).trans ((M.go_bind_ok (c.go_scaOf u h.d) _).trans
    ((M.go_bind_ok (c.go_encIf u hlast) _).trans ((h.go_label _).trans
    ((M.go_bind_ok (c.go_stream u hstream) _).trans ((M.go_bind_ok (c.go_seqIf u h.sequence) _).trans ?_)))))))
  simp only [hsrc, hdst, Bool.not_true, Bool.false_eq_true, if_false]
  refine (M.go_bind_ok (M.go_getS u) _).trans ?_
  cases u.suppressed c.t.ctx <;> rfl

end

section
variable {s u t : State} {g : Nat} {x : Inst} {f : VCx → M (Nat × List Nat)} {r : Nat × List Nat}

/-- A word that completes leaves its state with its beats counted. -/
theorem State.vecDo_left {c : VCx} (hgo : (f c).go u = (.ok r, t)) :
    left s (s.vecDo u c f) = wordDone s t c.g c.t (Nat.max r.1 (c.portBeats r.2)) := by
  rw [State.vecDo, hgo]
  rfl

/-- What a word at the front of the queue leaves, with the beats it counts. -/
theorem vecFront.exec_eq {i : Instr} {win : Bool} {q : VWord} {cls op : Nat} (h : vecFront s g x win q cls op u)
    (hi : exec i s = work s fun s => s.vecWord g cls op f) (hop : op < vOps cls)
    (hgo : (f (s.vecCx g x q)).go u = (.ok r, t)) :
    exec i s = .next (wordDone s t g x (Nat.max r.1 ((s.vecCx g x q).portBeats r.2))) := by
  obtain ⟨hworks, hrun, -, -, ⟨rest, hq, rfl⟩, hnone, hcls, hop', -⟩ := h
  have hword : s.vecWord g cls op f = s.vecDo (s.setVec g { s.vec g with queue := rest }) (s.vecCx g x q) f := by
    simp only [State.vecWord, hrun, hq, hnone, hcls, hop', Option.isSome_none, bne_self_eq_false, Bool.or_self,
      Bool.false_eq_true, if_false, if_neg (Nat.not_le.2 hop)]
  rw [hi, work_left s _ hworks, hword, State.vecDo_left hgo]
  rfl

/-- The beats of a word are counted as the engine's busy beats. -/
theorem counted_wordDone (hregs : t.regs = s.regs) (n : Nat) :
    counted s (wordDone s t g x n) (F.veBusy g) n := by
  have hkeys : (F.veBusy g).key ≠ (F.accBeats x.ctx).key := by
    simp only [Fld.key, F.veBusy, F.accBeats, clOff, dieOff]
    omega
  have hleft : (wordDone s t g x n).getF (F.veBusy g) = ((t.incF (F.veBusy g) n).chargeBeats x.ctx n).getF (F.veBusy g) :=
    rfl
  have hget : t.getF (F.veBusy g) = s.getF (F.veBusy g) := by
    rw [State.getF, hregs]
    rfl
  rw [counted, hleft, State.chargeBeats, State.getF_incF_ne _ n hkeys, State.getF_incF, hget]

end

section
variable {s u : State} {g : Fin 256} {x : Inst} {win : Bool} {q : VWord} {op : Nat} {k : Fused} {v : Cvc} {i : Instr}
variable (hi : ∀ s, exec i s = work s fun s => s.vecFused g.val op (vFused k) (vFusedNext k))
include hi

/-- A fused word at the front is taken, and its first chunk runs (04 R83, R103, R105, R108). -/
theorem fusedRow_taken (hop : op < 3) (h : vecFront s g.val x win q 8 op u) (hform : RowForm (s.vecCx g.val x q) u k v) :
    (s.suppressed x.ctx = false → runsTo i s fun t =>
      chunkRan (u.setVec g.val { u.vec g.val with run := some { q := q } }) t g.val x k (s.vecCx g.val x q).fusedArgs v
        { q := q } ∧ counted s t (F.veBusy g.val) (40 + chunkBeats k)) ∧
    (s.suppressed x.ctx = true → runsTo i s fun t => vecQuiet u t g.val x false ∧ t.eng.vec = u.eng.vec) := by
  have hleft := h.left_eq
  have hidle : exec i s = work s fun s => s.vecWord g.val 8 op (vFused k) := by
    have hnone : (s.vec g.val).run = none := by
      obtain ⟨-, -, -, -, -, hnone, -⟩ := h
      exact hnone
    rw [hi, work, work, act, act, State.vecFused_idle hnone]
  have hsup : u.suppressed x.ctx = s.suppressed x.ctx := by
    obtain ⟨rest, rfl⟩ := h.taken
    rfl
  have hregs : u.regs = s.regs := by
    obtain ⟨rest, rfl⟩ := h.taken
    rfl
  have hgo := hform.go_vFused
  refine ⟨fun hlive => ?_, fun hdoom => ?_⟩
  · have hlive' : u.suppressed x.ctx = false := hsup.trans hlive
    rw [show u.suppressed (s.vecCx g.val x q).t.ctx = false from hlive', if_neg Bool.false_ne_true] at hgo
    have hat : RowAt (s.vecCx g.val x q) (u.setVec g.val { u.vec g.val with run := some { q := q } }) v { q := q } :=
      ⟨congrArg VecEng.run (u.vec_setVec _ _), hform.dec, hlive', h.ocGood, hform.pos, hform.inside⟩
    obtain ⟨t, hnext, htregs, hran⟩ := hat.pass1_runs (k := k) rfl
    refine ⟨_, h.exec_eq hidle hop (hgo.trans (M.go_bind_ok hnext _)), hran s _ ?_, ?_⟩
    · generalize hw : u = w at hleft ⊢
      rw [← hleft]
      rfl
    · have hbeats : ∀ n, Nat.max n ((s.vecCx g.val x q).portBeats []) = n := fun n => by
        rw [VCx.portBeats, List.filter_nil, List.length_nil, ite_self]
        exact Nat.max_zero n
      rw [hbeats]
      exact counted_wordDone (htregs.trans hregs) _
  · rw [show u.suppressed (s.vecCx g.val x q).t.ctx = true from hsup.trans hdoom, if_pos rfl] at hgo
    refine runsTo_of_vecFront h hidle hop hgo fun n => ⟨⟨(vecOnly.refl u).done hleft n, ?_, rfl⟩, rfl⟩
    exact (softRead.refl u).sramKept

/-- A fused word in execution runs its next chunk; suppressed it ends (04 R83, R108). -/
theorem fusedRow_goes {r : FusedRun} (hworks : s.works = true) (hrun : s.running g.val = some x)
    (hat : (s.vec g.val).run = some r) (hq : r.q = q) (hop : vOp q.w.toNat = op)
    (hdec : cvcDecode (bits q.w.toNat 56 8) = some v) (hplain : v.fmt.scaled = false) (hgood : ocGood s g.val 0 ocSize)
    (hpass : 1 ≤ r.pass ∧ r.pass ≤ 3) (hwithin : 128 * r.chunk < (s.vecCx g.val x q).fusedArgs.len)
    (hinside : (s.vecCx g.val x q).fusedArgs.src +
      (s.vecCx g.val x q).fusedArgs.len * laneSize (s.vecCx g.val x q).fusedArgs.f ≤ ocSize)
    (ht : k = .xent → (s.vecCx g.val x q).fusedArgs.t < (s.vecCx g.val x q).fusedArgs.len) :
    (s.suppressed x.ctx = false → runsTo i s fun t => chunkRan s t g.val x k (s.vecCx g.val x q).fusedArgs v r) ∧
    (s.suppressed x.ctx = true → runsTo i s fun t => vecQuiet s t g.val x false ∧
      t.vec g.val = { s.vec g.val with run := none } ∧ ∀ h, h ≠ g.val → t.vec h = s.vec h) := by
  subst hq
  have hexec : ∀ {b t}, (vFusedNext k (s.vecCx g.val x r.q)).go s = (.ok b, t) →
      exec i s = .next (wordDone s t g.val x (Nat.max b.1 ((s.vecCx g.val x r.q).portBeats b.2))) := fun hgo => by
    have hword : s.vecFused g.val op (vFused k) (vFusedNext k) = s.vecDo s (s.vecCx g.val x r.q) (vFusedNext k) := by
      simp only [State.vecFused, hrun, hat, hop, if_true]
    rw [hi, work_left s _ hworks, hword, State.vecDo_left hgo]
    rfl
  refine ⟨fun hlive => ?_, fun hdoom => ?_⟩
  · have hrow : RowAt (s.vecCx g.val x r.q) s v r := ⟨hat, hdec, hlive, hgood, hwithin, hinside⟩
    obtain ⟨b, t, hgo, hran⟩ := hrow.runs (k := k) hpass ht hplain rfl
    exact ⟨_, hexec hgo, hran s _ rfl⟩
  · have hgo : (vFusedNext k (s.vecCx g.val x r.q)).go s =
        (.ok (0, []), s.setVec g.val { s.vec g.val with run := none }) := by
      have hdec' : cvcDecode (s.vecCx g.val x r.q).aux = some v := hdec
      have hat' : (s.vec (s.vecCx g.val x r.q).g).run = some r := hat
      have hdoom' : s.suppressed (s.vecCx g.val x r.q).t.ctx = true := hdoom
      rw [vFusedNext, M.go_bind_ok (M.go_getS s)]
      simp only [hat', hdec', hdoom', if_true]
      rfl
    have hwrote : wrote s (s.setVec g.val { s.vec g.val with run := none }) := ⟨_, _, _, rfl⟩
    exact ⟨_, hexec hgo, ⟨hwrote.only.done rfl _, (softRead.refl s).sramKept, rfl⟩, s.vec_setVec _ _,
      fun h hne => s.vec_setVec_ne _ hne⟩

end

/-- Settles O40: the first chunk of a fused word behind its checks, and each later one, by the pass it is in. -/
theorem vectorFusedRows : Obligations.VectorFusedRows := by
  rintro g x win q w v a s u rfl hdec hplain hgiven hmz hmsel ha hne hb hd rfl hpos hlen halign hinside e he hlabel hdest
  have hshape : e.2.1 < 3 ∧ ∀ s, exec e.1 s = work s fun s => s.vecFused g.val e.2.1 (vFused e.2.2) (vFusedNext e.2.2) := by
    simp only [List.mem_cons, List.not_mem_nil, or_false] at he
    rcases he with rfl | rfl | rfl <;> exact ⟨by simp, fun _ => rfl⟩
  obtain ⟨hop, hi⟩ := hshape
  refine ⟨fun h => ?_, fun r hworks hrun _ hat hq hop' hgood hlow hhigh hwithin => ?_⟩
  · exact fusedRow_taken hi hop h ⟨hdec, hplain, hgiven, hmz, hmsel, ⟨ha, hne⟩, hb, hd, hpos, hlen, halign, hinside, hlabel,
      fun hk => by
        obtain ⟨hdst, hin, hslot⟩ := hdest hk
        exact ⟨hdst, hin, (h.slotOk _ _).trans hslot⟩⟩
  · exact fusedRow_goes hi hworks hrun hat hq hop' hdec hplain hgood ⟨hlow, hhigh⟩ hwithin hinside fun hk =>
      (hlabel hk).2.2

end Sys2Proof.Machine

namespace Sys2Proof.Machine

/-! ### What a read through a context's translation leaves alone (05 R122, R132, R140; 14 R386) -/

/-- A read on behalf of context `x` may change a field with this key: a counter of the HBM, of a link, of a crossing or
of the context, or a link's key selector. -/
def readKey (x k : Nat) : Prop :=
  (∃ n, k = (F.hbmRdbytes n).key ∨ k = (F.hbmUe n).key ∨ k = (F.hbmUeaddrAddr n).key ∨ k = (F.hbmCe n).key ∨
    k = (F.plCtr0 n).key ∨ k = (F.plStatusKeysel n).key ∨ k = (F.xdrop n).key) ∨
  k = (F.accHbm x).key ∨ k = (F.accPuell x).key

/-- A mover of core `g` has a request on this link, or one that waits for a tag (13 R362). -/
def PlLink.moverAsks (k : PlLink) (g : Nat) : Bool :=
  (k.reqs.any fun r => r.owner = .mover g) || k.tagWait.any fun r => r.owner = .mover g

/-- From `s` to `t` a read on behalf of context `x` may have gone on. -/
structure ReadStep (x : Nat) (s t : State) : Prop where
  frame : t = { s with regs := t.regs, mem.tlb := t.mem.tlb, mem.softBursts := t.mem.softBursts, puell := t.puell,
                       out := t.out, freeCtr := t.freeCtr }
  field : ∀ f : Fld, ¬ readKey x f.key → t.getF f = s.getF f
  asks : ∀ l g, (t.pl l).moverAsks g = (s.pl l).moverAsks g

theorem State.pl_setPl_ne (s : State) {l m : Nat} (k : PlLink) (h : m ≠ l) : (s.setPl l k).pl m = s.pl m :=
  tget_tput_ne _ _ _ h

section
variable {x : Nat} {s t u : State}

theorem ReadStep.refl (s : State) : ReadStep x s s := ⟨rfl, fun _ _ => rfl, fun _ _ => rfl⟩

variable (h : ReadStep x s t)
include h

theorem ReadStep.quiet (hframe : u = { t with mem.tlb := u.mem.tlb, mem.softBursts := u.mem.softBursts,
                                              out := u.out, freeCtr := u.freeCtr } := by rfl) : ReadStep x s u := by
  have hregs : u.regs = t.regs := by rw [hframe]
  have hpuell : u.puell = t.puell := by rw [hframe]
  refine ⟨by rw [hframe, h.frame], fun f hf => ?_, fun l g => ?_⟩
  · rw [← h.field f hf, State.getF, hregs]
    rfl
  · rw [← h.asks l g, State.pl, hpuell]
    rfl

theorem ReadStep.setF {f : Fld} (v : Nat) (hf : readKey x f.key) : ReadStep x s (t.setF f v) := by
  refine ⟨?_, fun g hg => ?_, h.asks⟩
  · rw [State.setF, h.frame]
  · have hne : g.key ≠ f.key := fun he => hg (he ▸ hf)
    rw [State.getF_setF_ne t v hne, h.field g hg]

theorem ReadStep.incF {f : Fld} (n : Nat) (hf : readKey x f.key) : ReadStep x s (t.incF f n) := h.setF _ hf

theorem ReadStep.foldl {α : Type} {f : State → α → State} (hf : ∀ t a, ReadStep x s t → ReadStep x s (f t a))
    (l : List α) : ReadStep x s (l.foldl f t) := by
  induction l generalizing t with
  | nil => exact h
  | cons a r ih => exact ih (hf t a h)

theorem ReadStep.chargeHbm {who : Option Nat} (hwho : who = none ∨ who = some x) (n : Nat) :
    ReadStep x s (t.chargeHbm who n) := by
  rcases hwho with rfl | rfl
  · exact h
  · exact h.incF n (.inr (.inl rfl))

theorem ReadStep.hbmCorrect (k : Nat) : ReadStep x s (t.hbmCorrect k) := by
  unfold State.hbmCorrect
  split
  · exact (h.incF (f := F.hbmCe (hbmStack k)) 1 (.inl ⟨hbmStack k, by simp⟩)).quiet
  · exact h

theorem ReadStep.xingDrop (d n : Nat) : ReadStep x s (t.xingDrop d n) := by
  unfold State.xingDrop
  split
  · exact h.incF 1 (.inl ⟨d, by simp⟩)
  · exact h

/-! A request on a Puell link (13 R354–R361) -/

theorem ReadStep.setPl {l : Nat} {k : PlLink} (hk : ∀ g, k.moverAsks g = (t.pl l).moverAsks g) :
    ReadStep x s (t.setPl l k) := by
  refine ⟨?_, h.field, fun m g => ?_⟩
  · rw [State.setPl, h.frame]
  · rcases eq_or_ne m l with rfl | hne
    · rw [State.pl_setPl, hk, h.asks]
    · rw [t.pl_setPl_ne k hne, h.asks]

omit h in
theorem PlLink.returned_moverAsks (k : PlLink) (g : Nat) : k.returned.moverAsks g = k.moverAsks g := by
  unfold PlLink.returned
  split
  · rfl
  · split <;> rfl

theorem ReadStep.flitPut (l ty q : Nat) (bs : List Byte) : ReadStep x s (t.flitPut l ty q bs) := by
  have hfresh : ReadStep x s t.fresh.2 := h.quiet
  have hput : ∀ n, ReadStep x s (t.fresh.2.setPl l { (t.pl l).returned with fposTx := n }) := fun n =>
    hfresh.setPl fun g => (t.pl l).returned_moverAsks g
  exact (hput _).quiet

theorem ReadStep.keyNext (l : Nat) : ReadStep x s (t.keyNext l) :=
  ((h.setF (f := F.plStatusKeysel l) _ (.inl ⟨l, by simp⟩)).flitPut _ _ _ _).setPl fun _ => rfl

theorem ReadStep.dataOut (l : Nat) (f : Nat × PlMsg) : ReadStep x s (t.dataOut l f) := by
  unfold State.dataOut State.flitOut
  dsimp only
  split
  · exact (h.flitPut _ _ _ _).keyNext l
  · exact h.flitPut _ _ _ _

omit h in
/-- Sending what waits changes no request. -/
theorem plPumpGo_moverAsks (ms : List PlMsg) (held : List Nat) (k : PlLink) (sent : List (Nat × PlMsg)) (g : Nat) :
    (plPumpGo ms held k sent).1.moverAsks g = k.moverAsks g := by
  induction ms generalizing held k sent with
  | nil => rfl
  | cons m r ih =>
    rw [plPumpGo]
    split
    · exact ih _ _ _
    · refine (ih _ _ _).trans ?_
      unfold PlLink.spend
      split
      · rfl
      · split <;> rfl

theorem ReadStep.plPump (l : Nat) : ReadStep x s (t.plPump l) := by
  unfold State.plPump
  dsimp only
  split
  · exact h
  · refine ReadStep.foldl ?_ (fun t f ht => ht.dataOut l f) _
    refine ReadStep.incF ?_ _ (.inl ⟨l, by simp⟩)
    exact h.setPl fun g => plPumpGo_moverAsks _ _ { t.pl l with txWait := [] } _ g

theorem ReadStep.plSend (l : Nat) (m : PlMsg) : ReadStep x s (t.plSend l m) := by
  have hwait : ReadStep x s (t.setPl l { t.pl l with txWait := (t.pl l).txWait ++ [m] }) := h.setPl fun _ => rfl
  exact hwait.plPump l

theorem ReadStep.plIssue (l : Nat) {q : PlAsk} (hq : q.owner = .unit x) : ReadStep x s (t.plIssue l q) := by
  have hpays : ∀ v : State, v.ownerCtx q.owner = some x := fun v => by rw [hq]; rfl
  have hreqs : ∀ r : PlReq, r.owner = q.owner →
      ReadStep x s (t.setPl l { t.pl l with reqs := (t.pl l).reqs ++ [r] }) := fun r hr =>
    h.setPl fun g => by simp [PlLink.moverAsks, hr, hq]
  simp only [State.plIssue, hpays, State.chargePuell]
  exact ((hreqs _ rfl).incF _ (.inr (.inr rfl))).plSend l _

theorem ReadStep.plRequest (l o a : Nat) (mg : List (Nat × Byte)) (bs : List Byte) :
    ReadStep x s (t.plRequest l o a (.unit x) mg bs) := by
  unfold State.plRequest
  dsimp only
  split
  · exact h.plIssue l rfl
  · exact h.setPl fun g => by simp [PlLink.moverAsks]

end

/-! ### Accesses (05 R119–R140) -/

section
variable {α : Type} {x : Nat} {s : State} {who : Option Nat}

theorem domainCheck_reads (who : Option Nat) (d n : Nat) : Keeps (ReadStep x s) (domainCheck who d n) :=
  Keeps.getS.bind fun _ => Keeps.ite ((Keeps.setS fun _ h => h.xingDrop _ _).bind fun _ => Keeps.throw _) (Keeps.pure _)

theorem hbmUe_reads (who : Option Nat) (k : Nat) : Keeps (ReadStep x s) (hbmUe who k : M α) := by
  refine (Keeps.setS fun t h => ?_).bind fun _ => Keeps.throw _
  exact (h.incF (f := F.hbmUe (hbmStack k)) _ (.inl ⟨hbmStack k, by simp⟩)).setF (f := F.hbmUeaddrAddr (hbmStack k)) _
    (.inl ⟨hbmStack k, by simp⟩)

theorem hbmReach_reads (who : Option Nat) (k : Nat) : Keeps (ReadStep x s) (hbmReach who k) := by
  refine Keeps.getS.bind fun _ => Keeps.guard (Keeps.throw _) fun _ => Keeps.getS.bind fun _ => ?_
  exact Keeps.guard (Keeps.stop _) fun _ => domainCheck_reads _ _ _

theorem hbmRead_reads (hwho : who = none ∨ who = some x) (n o len : Nat) : Keeps (ReadStep x s) (hbmRead who n o len) := by
  refine (Keeps.mapM fun p => Keeps.getS.bind fun _ => (hbmReach_reads _ _).bind fun _ => Keeps.getS.bind fun _ =>
    Keeps.guard (hbmUe_reads _ _) fun _ => (Keeps.setS fun t h => ?_).bind fun _ =>
      Keeps.getS.bind fun _ => Keeps.pure _).bind fun _ => Keeps.pure _
  exact ReadStep.chargeHbm (ReadStep.incF (h.hbmCorrect _) _ (.inl ⟨_, .inl rfl⟩)) hwho _

theorem compLink_reads (d : Nat) (who : Option Nat) (a : Nat) : Keeps (ReadStep x s) (compLink d who a) := by
  refine Keeps.getS.bind fun t => ?_
  split
  · exact Keeps.throw _
  · exact Keeps.guard (Keeps.stop _) fun _ => (domainCheck_reads _ _ _).bind fun _ => Keeps.pure _

theorem compRead_reads (d a n : Nat) : Keeps (ReadStep x s) (compRead d (some x) a n) :=
  (Keeps.forM fun _ => (compLink_reads _ _ _).bind fun _ => Keeps.setS fun _ h => h.plRequest _ _ _ _ _).bind
    fun _ => Keeps.getS.bind fun _ => Keeps.pure _

theorem ptEntry_reads (cva t i : Nat) : Keeps (ReadStep x s) (ptEntry cva t i) :=
  Keeps.getS.bind fun _ => Keeps.guard (tFault_keeps _) fun _ => (hbmRead_reads (.inl rfl) _ _ _).bind fun _ => Keeps.pure _

theorem walk_reads (root cva : Nat) : Keeps (ReadStep x s) (walk root cva) := by
  refine (ptEntry_reads _ _ _).bind fun _ => Keeps.guard (tFault_keeps _) fun _ =>
    (ptEntry_reads _ _ _).bind fun _ => Keeps.guard (tFault_keeps _) fun _ => Keeps.ite (Keeps.pure _) ?_
  exact Keeps.guard (tFault_keeps _) fun _ => (ptEntry_reads _ _ _).bind fun _ =>
    Keeps.guard (tFault_keeps _) fun _ => Keeps.pure _

theorem fresh_reads : Keeps (ReadStep x s) fresh := ⟨fun _ h => h.quiet⟩

theorem leafOf_reads (unit y cva root : Nat) : Keeps (ReadStep x s) (leafOf unit y cva root) := by
  refine Keeps.getS_bind fun t ht => ?_
  have hwalk := (walk_reads (x := x) (s := s) root cva).run t ht
  dsimp only
  split
  · split
    · refine Keeps.run ?_ t ht
      exact Keeps.ite (Keeps.pure _) (fresh_reads.bind fun _ => Keeps.ite (Keeps.pure _) (Keeps.pure _))
    · rename_i he
      rw [he] at hwalk
      refine Keeps.run (fresh_reads.bind fun _ => Keeps.ite ?_ (Keeps.pure _)) t ht
      exact Keeps.bind ⟨fun _ _ => hwalk⟩ fun _ => Keeps.throw _
  · exact Keeps.run ((walk_reads _ _).bind fun _ => (Keeps.setS fun _ h => h.quiet).bind fun _ => Keeps.pure _) t ht

theorem translate_reads (unit y cva : Nat) : Keeps (ReadStep x s) (translate unit y cva false) := by
  refine Keeps.getS.bind fun t => ?_
  dsimp only
  split
  · exact tFault_keeps _
  · refine Keeps.guard (tFault_keeps _) fun _ => (leafOf_reads _ _ _ _).bind fun l =>
      Keeps.guard (tFault_keeps _) fun _ => Keeps.guard (tFault_keeps _) fun _ => Keeps.guard (tFault_keeps _) fun _ =>
      Keeps.guard (tFault_keeps _) fun _ => ?_
    split
    · exact Keeps.guard (tFault_keeps _) fun _ => Keeps.guard (Keeps.stop _) fun _ => Keeps.pure _
    · exact Keeps.guard (tFault_keeps _) fun _ => Keeps.pure _

theorem cvaRead_reads (unit a n : Nat) : Keeps (ReadStep x s) (cvaRead unit x a n) := by
  refine (Keeps.mapM fun p => (translate_reads _ _ _).bind fun tgt => ?_).bind fun _ => Keeps.pure _
  cases tgt with
  | hbm set off => exact hbmRead_reads (.inr rfl) _ _ _
  | comp a => exact compRead_reads _ _ _

/-- Fetching an instruction is reading on behalf of its context (06 R194). -/
theorem fetch_reads (g : Nat) (y : Inst) (pc n : Nat) : Keeps (ReadStep y.ctx s) (fetch g y pc n) :=
  (Keeps.mapM fun _ => (Keeps.check _ _ _).bind fun _ => cvaRead_reads _ _ _).bind fun _ => Keeps.pure _

end

end Sys2Proof.Machine

namespace Sys2Proof.Machine

/-! ### What an instruction finds as its fetch left it (06 R187–R194) -/

/-- No read changes a field of the semaphores or another field below the links' registers. -/
theorem not_readKey_of_lt {x k : Nat} (h : k < 0x60000 * 64) : ¬ readKey x k := by
  rintro (⟨n, h'⟩ | h')
  · simp only [Fld.key, F.hbmRdbytes, F.hbmUe, F.hbmUeaddrAddr, F.hbmCe, F.plCtr0, F.plStatusKeysel, F.xdrop, dieOff] at h'
    omega
  · simp only [Fld.key, F.accHbm, F.accPuell] at h'
    omega

/-- No read changes the state of a context. -/
theorem not_readKey_ctxState (x y : Nat) : ¬ readKey x (F.ctxStateState y).key := by
  rintro (⟨n, h⟩ | h)
  · simp only [Fld.key, F.ctxStateState, F.hbmRdbytes, F.hbmUe, F.hbmUeaddrAddr, F.hbmCe, F.plCtr0, F.plStatusKeysel, F.xdrop,
      dieOff] at h
    omega
  · simp only [Fld.key, F.ctxStateState, F.accHbm, F.accPuell] at h
    omega

section
variable {x : Nat} {s u : State} (h : ReadStep x s u)
include h

theorem ReadStep.eng : u.eng = s.eng := by rw [h.frame]
theorem ReadStep.ctxs : u.ctxs = s.ctxs := by rw [h.frame]
theorem ReadStep.oc : u.mem.oc = s.mem.oc := by rw [h.frame]

theorem ReadStep.core (g : Nat) : u.core g = s.core g := by rw [State.core, h.eng]; rfl
theorem ReadStep.mat (i : Nat) : u.mat i = s.mat i := by rw [State.mat, h.eng]; rfl
theorem ReadStep.vec (g : Nat) : u.vec g = s.vec g := by rw [State.vec, h.eng]; rfl

theorem ReadStep.nextIssue (g : Nat) : u.nextIssue g = s.nextIssue g := by simp only [State.nextIssue, h.mat]
theorem ReadStep.pendingScalars (g : Nat) : u.pendingScalars g = s.pendingScalars g := by
  simp only [State.pendingScalars, h.vec]
theorem ReadStep.semReqs (n : Nat) : u.semReqs n = s.semReqs n := by rw [State.semReqs, h.frame]; rfl

theorem ReadStep.ocGood {g a n : Nat} (hgood : Machine.ocGood s g a n) : Machine.ocGood u g a n := by
  rw [Machine.ocGood, h.frame]
  exact hgood

theorem ReadStep.resident (y : Nat) : u.resident y = s.resident y := by
  simp only [State.resident, State.ctxSt, h.field _ (not_readKey_ctxState x y)]

theorem ReadStep.moverReqs (g : Nat) : u.moverReqs g = s.moverReqs g :=
  congrArg (fun p => (upTo 2).any p) (funext fun l => h.asks l g)

theorem ReadStep.getF_low {f : Fld} (hf : f.key < 0x60000 * 64) : u.getF f = s.getF f := h.field f (not_readKey_of_lt hf)

theorem ReadStep.semCount {n : Nat} (hn : n < 4096) : u.getF (F.semCount n) = s.getF (F.semCount n) :=
  h.getF_low (by simp only [Fld.key, F.semCount]; omega)

theorem ReadStep.semUsable (n y : Nat) : u.semUsable n y = s.semUsable n y := by
  by_cases hn : n < 4096
  · have hvalid := h.getF_low (f := F.semValid n) (by simp only [Fld.key, F.semValid]; omega)
    have howner := h.getF_low (f := F.semOwner n) (by simp only [Fld.key, F.semOwner]; omega)
    have hpeer := h.getF_low (f := F.semPeer n) (by simp only [Fld.key, F.semPeer]; omega)
    have hpeeren := h.getF_low (f := F.semPeeren n) (by simp only [Fld.key, F.semPeeren]; omega)
    simp only [State.semUsable, State.flag, hvalid, howner, hpeer, hpeeren]
  · simp only [State.semUsable, decide_eq_false hn, Bool.false_and]

/-- Putting a core back with its commands leaves what its units have to complete. -/
theorem ReadStep.quiet_setCore {g : Nat} {c : CoreSt} (hc : c.cmds = (s.core g).cmds) (m : Nat) :
    (u.setCore g c).quiet g m = s.quiet g m := by
  have hmovers : (u.setCore g c).moverReqs g = s.moverReqs g := h.moverReqs g
  have hmat : ∀ i, (u.setCore g c).mat i = s.mat i := h.mat
  have hvec : (u.setCore g c).vec g = s.vec g := h.vec g
  rw [State.quiet, State.quiet, hmovers, hmat, hmat, hvec, State.core_setCore, hc]

theorem ReadStep.running_setCore {g : Nat} {c : CoreSt} (hc : c.inst = (s.core g).inst) :
    (u.setCore g c).running g = s.running g := by
  have hres : ∀ y, (u.setCore g c).resident y = s.resident y := h.resident
  rw [State.running, State.running, State.core_setCore, hc]
  simp only [hres]

end

/-! ### An instruction fetched whole (06 R189, R190) -/

/-- A word of a control-core instruction of ISA level 1. -/
def coreWord (w : Nat) : Prop := w < 2 ^ 32 ∧ w % 256 ∈ ccOps

theorem coreWord_r {op : Nat} (f : RForm) (h : op < 256) (hop : op ∈ ccOps) : coreWord (rWord op f) := by
  have hlow : rWord op f % 256 = op := by
    simp only [rWord, place]
    omega
  refine ⟨?_, by rwa [hlow]⟩
  simp only [rWord, place]
  omega

theorem coreWord_i {op : Nat} (f : IForm) (h : op < 256) (hop : op ∈ ccOps) : coreWord (iWord op f) := by
  have hlow : iWord op f % 256 = op := by
    simp only [iWord, place]
    omega
  refine ⟨?_, by rwa [hlow]⟩
  simp only [iWord, place]
  omega

theorem coreWord_p {op : Nat} (f : PForm) (h : op < 256) (hop : op ∈ ccOps) : coreWord (pWord op f) := by
  have hlow : pWord op f % 256 = op := by
    simp only [pWord, place]
    omega
  refine ⟨?_, by rwa [hlow]⟩
  simp only [pWord, place]
  omega

section
variable {s u : State} {g word : Nat} {payload : List Byte} {regs : List (BitVec 5)} {x : Inst}
variable (h : fetches s g word payload regs x u)
include h

theorem fetches.reads : ReadStep x.ctx s u := by
  obtain ⟨-, -, -, ⟨v, hword, hpayload⟩, -⟩ := h
  have hfirst := (fetch_reads (s := s) g x (s.core g).pc 4).run s (ReadStep.refl s)
  rw [hword] at hfirst
  have hrest := (fetch_reads (s := s) g x ((s.core g).pc + 4) payload.length).run v hfirst
  rwa [hpayload] at hrest

/-- The instruction commanded is the one fetched, and takes its effect with the program counter behind it. -/
theorem fetches.ccRun {ok : Bool} {f : State → Inst → CoreSt → State} (hw : coreWord word) (hok : ok = true) :
    s.ccRun g word payload ok regs f =
      f u x { s.core g with pc := ((s.core g).pc + (4 + payload.length)) % 2 ^ 64 } := by
  obtain ⟨-, hrun, hwait, ⟨v, hword, hpayload⟩, hregs⟩ := h
  have hfield : fieldAt (leBytes 4 word) 0 1 = word % 256 := by
    simp [fieldAt, leBytes, leNat]
  have hvalue : leNat (leBytes 4 word) = word := leNat_leBytes_of_lt (k := 4) hw.1
  have hop : ccOps.contains (word % 256) = true := List.contains_iff_mem.2 hw.2
  have hpending : (regs.any fun r => (s.pendingScalars g).contains r.toNat) = false :=
    List.any_eq_false.2 fun r hr => by simpa using hregs r hr
  rw [← Nat.add_assoc]
  simp only [State.ccRun, hrun, hwait, bne_self_eq_false, Bool.false_eq_true, if_false, hword, hfield, hop, Bool.not_true,
    hvalue, hpayload, hok, hpending]

/-- What a command of an instruction whose effect is `F` leaves. -/
theorem fetches.exec_eq {o : Host.Outcome State Fault Refusal} {ok : Bool} {f : State → State}
    {F : State → Inst → CoreSt → State} {n : Nat} (hw : coreWord word) (ho : o = work s f)
    (hf : f s = s.ccRun g word payload ok regs F) (hok : ok = true) (hn : 4 + payload.length = n) :
    o = .next (left s (F u x { s.core g with pc := ((s.core g).pc + n) % 2 ^ 64 })) := by
  subst hn
  have hrun := h.ccRun (f := F) hw hok
  obtain ⟨hworks, -⟩ := h
  rw [ho, work_left s _ hworks, hf, hrun]

end

end Sys2Proof.Machine

namespace Sys2Proof.Machine

/-! ### Work issued to the units (06 R191) -/

section
variable {g : Fin 256} {x : Inst} {s u : State}

/-- MIS appends its word to its engine's queue, or waits on a full one. -/
theorem mis_runs {p : PForm} {w : BitVec 128} {m : MatEng} (hrd : p.rd = 0) (hrest : p.rest = 0)
    (h : fetches s g.val (pWord 0x30 p) (leBytes 16 w.toNat) [] x u) (hm : s.mat (matIdx g.val (bits w.toNat 4 1)) = m) :
    exec (.mis g p w) s = .next (if 8 ≤ m.waiting then s else
      (steppedTo s u g.val (s.core g.val) 20).setMat (matIdx g.val (bits w.toNat 4 1))
        { m with queue := m.queue ++ [{ w := w, seq := s.nextIssue g.val }] }) := by
  subst hm
  refine (h.exec_eq (o := execMis g p w s) (coreWord_p p (by decide) (by decide)) rfl rfl (by rw [hrd, hrest]; rfl)
    (by rw [leBytes_length])).trans ?_
  simp only [h.reads.mat, h.reads.nextIssue]
  split <;> rfl

/-- VIS appends its word with the scalars it names, or waits on a full queue or for a scalar that is still to be
written (04 R86). -/
theorem vis_runs {p : PForm} {w : BitVec 64} (hrd : p.rd = 0) (hrest : p.rest = 0)
    (h : fetches s g.val (pWord 0x31 p) (leBytes 8 w.toNat) [] x u) :
    exec (.vis g p w) s = .next (if decide (8 ≤ (s.vec g.val).queue.length) ||
        (vecNames w.toNat).any (fun r => (s.pendingScalars g.val).contains r) then s else
      (steppedTo s u g.val (s.core g.val) 12).setVec g.val { s.vec g.val with queue := (s.vec g.val).queue ++
        [{ w := w, sA := (s.core g.val).capture (bits w.toNat 20 8) 0, sA1 := (s.core g.val).capture (bits w.toNat 20 8) 1,
           sB := (s.core g.val).capture (bits w.toNat 28 8) 0, sC := (s.core g.val).capture (bits w.toNat 36 8) 0,
           sC1 := (s.core g.val).capture (bits w.toNat 36 8) 1 }] }) := by
  refine (h.exec_eq (o := execVis g p w s) (coreWord_p p (by decide) (by decide)) rfl rfl (by rw [hrd, hrest]; rfl)
    (by rw [leBytes_length])).trans ?_
  simp only [h.reads.vec, h.reads.pendingScalars]
  split <;> rfl

section
variable {r : RForm} (hrd : r.rd = 0) (hrb : r.rb = 0) (hrest : r.rest = 0)
  (h : fetches s g.val (rWord 0x32 r) [] [r.ra] x u) (halign : ((s.core g.val).reg r.ra).toNat % 64 = 0)
  (hin : ((s.core g.val).reg r.ra).toNat + 64 ≤ ocSize)
include hrd hrb hrest h halign hin

/-- MVC at an aligned address of the cache waits on a full queue, or reads its command. -/
theorem mvc_exec : exec (.mvc g r) s = .next (left s (if 8 ≤ (s.core g.val).cmds.length then s else
    u.reading g.val uCore x [(((s.core g.val).reg r.ra).toNat, 64)] fun v => v.setCore g.val { s.core g.val with
      pc := ((s.core g.val).pc + 4) % 2 ^ 64
      cmds := (s.core g.val).cmds ++ [{ cmd := v.ocRead g.val ((s.core g.val).reg r.ra).toNat 64 }] })) := by
  have hbounds : (((s.core g.val).reg r.ra).toNat % 64 != 0 || !(ocOk ((s.core g.val).reg r.ra).toNat 64)) = false := by
    rw [halign, ocOk, decide_eq_true hin]
    rfl
  refine (h.exec_eq (o := execMvc g r s) (coreWord_r r (by decide) (by decide)) rfl rfl (by rw [hrd, hrb, hrest]; rfl)
    (n := 4) rfl).trans ?_
  have hreg : ∀ n, ({ s.core g.val with pc := n } : CoreSt).reg r.ra = (s.core g.val).reg r.ra := fun _ => rfl
  simp only [hreg, hbounds, Bool.false_eq_true, if_false]

theorem mvc_waits (hfull : 8 ≤ (s.core g.val).cmds.length) : exec (.mvc g r) s = .next s := by
  rw [mvc_exec hrd hrb hrest h halign hin, if_pos hfull]
  rfl

theorem mvc_issues (hroom : (s.core g.val).cmds.length < 8) (hgood : ocGood s g.val ((s.core g.val).reg r.ra).toNat 64) :
    runsTo (.mvc g r) s fun t => sramKept u t ∧ t = { steppedTo s u g.val { s.core g.val with
      cmds := (s.core g.val).cmds ++ [{ cmd := s.ocRead g.val ((s.core g.val).reg r.ra).toNat 64 }] } 4 with mem := t.mem } := by
  obtain ⟨v, hgo, hv⟩ := go_ocReads_of_good (s := u) (g := g.val) (l := [(((s.core g.val).reg r.ra).toNat, 64)])
    (List.forall_mem_singleton.2 (h.reads.ocGood hgood))
  have hv : softRead u v := hv
  have hcmd : v.ocRead g.val ((s.core g.val).reg r.ra).toNat 64 = s.ocRead g.val ((s.core g.val).reg r.ra).toNat 64 := by
    rw [hv.kept.ocRead, State.ocRead, h.reads.oc]
    rfl
  have hexec : exec (.mvc g r) s = .next (left s (v.setCore g.val { s.core g.val with
      pc := ((s.core g.val).pc + 4) % 2 ^ 64
      cmds := (s.core g.val).cmds ++ [{ cmd := s.ocRead g.val ((s.core g.val).reg r.ra).toNat 64 }] })) := by
    rw [mvc_exec hrd hrb hrest h halign hin, if_neg (Nat.not_le.2 hroom), State.reading, hgo, ← hcmd]
  refine ⟨_, hexec, hv.sramKept, ?_⟩
  obtain ⟨soft, ce, rfl⟩ := hv
  rfl

end

/-! ### Fences and EXIT (06 R192, R193) -/

theorem State.fenceEnd_fence {v : State} {m : Nat} (hrun : v.running g.val = some x) (hwait : (v.core g.val).wait = .fence m) :
    v.fenceEnd g.val = if v.quiet g.val m then v.setCore g.val { v.core g.val with wait := .none } else v := by
  simp only [State.fenceEnd, hrun, hwait]

theorem State.fenceEnd_exit {v : State} (hrun : v.running g.val = some x) (hwait : (v.core g.val).wait = .exit) :
    v.fenceEnd g.val = if v.quiet g.val 15 then v.endInst g.val x else v := by
  simp only [State.fenceEnd, hrun, hwait]

theorem fence_runs {i : IForm} (hi : i.imm.toNat < 16) (h : fetches s g.val (iWord 0x33 i) [] [] x u) :
    runsTo (.fence g i) s fun t => t = { steppedTo s u g.val (s.core g.val) 4 with eng.core := t.eng.core } ∧
      t.core g.val = { s.core g.val with
        pc := ((s.core g.val).pc + 4) % 2 ^ 64
        wait := if s.quiet g.val i.imm.toNat then .none else .fence i.imm.toNat } ∧
      ∀ k, k ≠ g.val → t.core k = s.core k := by
  have hrun : s.running g.val = some x := by
    obtain ⟨-, hrun, -⟩ := h
    exact hrun
  generalize hc : ({ s.core g.val with pc := ((s.core g.val).pc + 4) % 2 ^ 64, wait := .fence i.imm.toNat } : CoreSt) = c
  have hend : (u.setCore g.val c).fenceEnd g.val = if s.quiet g.val i.imm.toNat
      then (u.setCore g.val c).setCore g.val { c with wait := .none } else u.setCore g.val c := by
    rw [State.fenceEnd_fence ((h.reads.running_setCore (by rw [← hc])).trans hrun)
      (by rw [State.core_setCore, ← hc]), h.reads.quiet_setCore (by rw [← hc]), State.core_setCore]
  refine ⟨left s ((u.setCore g.val c).fenceEnd g.val), ?_, ?_⟩
  · subst hc
    exact (h.exec_eq (o := execFence g i s) (coreWord_i i (by decide) (by decide)) rfl rfl (decide_eq_true hi) rfl).trans rfl
  · have hother : ∀ k, k ≠ g.val → (u.setCore g.val c).core k = s.core k := fun k hk =>
      (tget_tput_ne _ _ _ hk).trans (h.reads.core k)
    rw [hend]
    split
    · refine ⟨rfl, ?_, fun k hk => (tget_tput_ne _ _ _ hk).trans (hother k hk)⟩
      exact ((u.setCore g.val c).core_setCore g.val _).trans (by rw [← hc])
    · exact ⟨rfl, (u.core_setCore g.val c).trans hc.symm, hother⟩

theorem fenceRelease_runs {m : Nat} (hworks : s.works = true) (hrun : s.running g.val = some x)
    (hwait : (s.core g.val).wait = .fence m) : exec (.fenceRelease g) s =
      .next (if s.quiet g.val m then s.setCore g.val { s.core g.val with wait := .none } else s) := by
  have hexec : exec (.fenceRelease g) s = work s fun s => s.fenceEnd g.val := rfl
  rw [hexec, work_left s _ hworks, State.fenceEnd_fence hrun hwait]
  split <;> rfl

theorem exitOp_runs {r : RForm} (hr : r = ⟨0, 0, 0, 0⟩) (h : fetches s g.val (rWord 0x3E r) [] [] x u) :
    exec (.exitOp g r) s = .next (if s.quiet g.val 15 then left s
        ((u.setCore g.val { s.core g.val with pc := ((s.core g.val).pc + 4) % 2 ^ 64, wait := .exit }).endInst g.val x)
      else steppedTo s u g.val { s.core g.val with wait := .exit } 4) := by
  have hrun : s.running g.val = some x := by
    obtain ⟨-, hrun, -⟩ := h
    exact hrun
  generalize hc : ({ s.core g.val with pc := ((s.core g.val).pc + 4) % 2 ^ 64, wait := .exit } : CoreSt) = c
  have hexec : exec (.exitOp g r) s = .next (left s ((u.setCore g.val c).fenceEnd g.val)) := by
    subst hc
    exact (h.exec_eq (o := execExitOp g r s) (coreWord_r r (by decide) (by decide)) rfl rfl (by rw [hr]; rfl) rfl).trans rfl
  rw [hexec, State.fenceEnd_exit ((h.reads.running_setCore (by rw [← hc])).trans hrun)
    (by rw [State.core_setCore, ← hc]), h.reads.quiet_setCore (by rw [← hc])]
  split
  · rfl
  · subst hc
    rfl

/-! ### Semaphores (06 R181, R182) -/

section
variable {r : RForm} {n v : Nat} (hrest : r.rest = 0) (hn : ((s.core g.val).reg r.ra).toNat % 4096 = n)
  (hv : ((s.core g.val).reg r.rb).toNat % 2 ^ 32 = v) (hpos : v ≠ 0) (hsem : s.semUsable n x.ctx = true)
include hrest hn hv hpos hsem

/-- A semaphore instruction on a semaphore of its context, with a count, has its effect. -/
theorem fetches.sem_eq {o : Host.Outcome State Fault Refusal} {f : State → State} {op : Nat} {ok : Bool}
    {K : State → Inst → CoreSt → Nat → Nat → State}
    (h : fetches s g.val (rWord op r) [] [r.rd, r.ra, r.rb] x u) (hw : coreWord (rWord op r))
    (ho : o = work s f) (hf : f s = s.ccSem g.val op r ok K) (hok : ok = true) :
    o = .next (left s (K u x { s.core g.val with pc := ((s.core g.val).pc + 4) % 2 ^ 64 } n v)) := by
  have hreg : ∀ k a, ({ s.core g.val with pc := k } : CoreSt).reg a = (s.core g.val).reg a := fun _ _ => rfl
  refine (h.exec_eq hw ho hf (by rw [hok, hrest]; rfl) (n := 4) rfl).trans ?_
  simp only [hreg, hn, hv, hpos, h.reads.semUsable, hsem, if_false, Bool.not_true, Bool.false_eq_true]

theorem semw_runs (hrd : r.rd = 0) (h : fetches s g.val (rWord 0x38 r) [] [r.rd, r.ra, r.rb] x u) :
    exec (.semw g r) s = .next ((steppedTo s u g.val { s.core g.val with wait := .sem n v } 4).setSemReqs n
      (s.semReqs n ++ [⟨.core x.ctx g.val, v⟩])) := by
  have hexec := h.sem_eq hrest hn hv hpos hsem (o := execSemw g r s) (coreWord_r r (by decide) (by decide)) rfl rfl
    (by rw [hrd]; rfl)
  rw [h.reads.semReqs] at hexec
  exact hexec

omit hrest hv hpos hsem in
theorem sem_number_lt : n < 4096 := by
  subst hn
  exact Nat.mod_lt _ (by decide)

theorem sems_runs (hrd : r.rd = 0) (h : fetches s g.val (rWord 0x39 r) [] [r.rd, r.ra, r.rb] x u)
    (hcount : s.getF (F.semCount n) + v < 2 ^ 32) (hdonor : ∀ e ∈ s.ctxs.ctx, e.2.donor = 0) :
    exec (.sems g r) s =
      .next ((steppedTo s u g.val (s.core g.val) 4).setF (F.semCount n) (s.getF (F.semCount n) + v)) := by
  have hsame := h.reads.semCount (sem_number_lt hn)
  have hnone : ∀ t : State, t.ctxs = s.ctxs → t.donationSignal n = t := fun t ht => by
    have hempty : (t.ctxs.ctx.filter fun e => e.2.donor != 0 && e.2.donSem == n) = [] :=
      List.filter_eq_nil_iff.2 fun e he => by simp [hdonor e (by rwa [← ht])]
    rw [State.donationSignal, hempty]
    rfl
  have hsignal : u.semSignal n v = some (u.setF (F.semCount n) (s.getF (F.semCount n) + v)) := by
    rw [State.semSignal]
    simp only [hsame, if_neg (Nat.not_le.2 hcount)]
    exact congrArg some (hnone _ h.reads.ctxs)
  have hexec := h.sem_eq hrest hn hv hpos hsem (o := execSems g r s) (coreWord_r r (by decide) (by decide)) rfl rfl
    (by rw [hrd]; rfl)
  simp only [hsignal] at hexec
  exact hexec

theorem semt_runs (h : fetches s g.val (rWord 0x3A r) [] [r.rd, r.ra, r.rb] x u) : exec (.semt g r) s = .next (
    if (s.semReqs n).isEmpty && decide (v ≤ s.getF (F.semCount n)) then
      (steppedTo s u g.val ((s.core g.val).put r.rd 1) 4).setF (F.semCount n) (s.getF (F.semCount n) - v)
    else steppedTo s u g.val ((s.core g.val).put r.rd 0) 4) := by
  have hsame := h.reads.semCount (sem_number_lt hn)
  refine (h.sem_eq hrest hn hv hpos hsem (o := execSemt g r s) (coreWord_r r (by decide) (by decide)) rfl rfl rfl).trans ?_
  simp only [State.semTake, h.reads.semReqs, hsame]
  cases (s.semReqs n).isEmpty && decide (v ≤ s.getF (F.semCount n)) <;> rfl

end

end

/-- Settles O28: what each instruction finds, its fetch left as it was; it issues its work, waits, or takes its effect
on a semaphore. -/
theorem controlCoreIssuesAndWaits : Obligations.ControlCoreIssuesAndWaits := by
  rintro g x s u c rfl
  refine ⟨fun p w m hrd hrest h hm => ?_, fun p w q hrd hrest h hq => ?_, fun r hrd hrb hrest h halign hin =>
      ⟨mvc_issues hrd hrb hrest h halign hin, mvc_waits hrd hrb hrest h halign hin⟩,
    fun i hi h => fence_runs hi h, fun n hworks hrun hwait => fenceRelease_runs hworks hrun hwait, fun r hr h => ?_,
    fun r n v hrest hn hv hpos hsem => ⟨semw_runs hrest hn hv hpos hsem, sems_runs hrest hn hv hpos hsem, fun h => ?_⟩⟩
  · rw [mis_runs hrd hrest h hm]
    exact ⟨fun hroom => by rw [if_neg (Nat.not_le.2 hroom)], fun hfull => by rw [if_pos hfull]⟩
  · subst hq
    rw [vis_runs hrd hrest h]
    refine ⟨fun hroom hfree => congrArg _ (if_neg ?_), fun hwait => congrArg _ (if_pos ?_)⟩
    · simpa [hroom] using hfree
    · simpa using hwait
  · rw [exitOp_runs hr h]
    exact ⟨fun hbusy => by rw [hbusy]; rfl, fun hquiet => by rw [hquiet]; rfl⟩
  · rw [semt_runs hrest hn hv hpos hsem h]
    refine ⟨fun hempty hle => by rw [hempty, decide_eq_true hle]; rfl, fun hno => congrArg _ (if_neg ?_)⟩
    rcases hno with hqueue | hlow
    · simp [hqueue]
    · simp [Nat.not_le.2 hlow]

end Sys2Proof.Machine

/-! PROOFS about package memory and the movers (05): what a fetch leaves alone, HBM behind the interleave, ways, sets
and invalidations, protected pages and scrubs, and the commands of a mover. -/
namespace Sys2Proof.Machine

/-- What a read may have changed, in the terms of the statements. -/
theorem ReadStep.readOnly {x : Nat} {s u : State} (h : ReadStep x s u) : Machine.readOnly s u x := by
  refine ⟨h.frame, fun f hother hhbm hpuell => h.field f ?_⟩
  rintro (⟨n, hkey⟩ | hkey | hkey)
  · obtain ⟨h1, h2, h3, h4, h5, h6, h7⟩ := hother n
    rcases hkey with hkey | hkey | hkey | hkey | hkey | hkey | hkey
    exacts [h1 hkey, h2 hkey, h3 hkey, h4 hkey, h5 hkey, h6 hkey, h7 hkey]
  · exact hhbm hkey
  · exact hpuell hkey

/-- Settles O30: a read of virtual memory keeps all but what the reads of HBM and of companion memory move, and a fetch
is such a read. -/
theorem fetchChangesNothingElse : Obligations.FetchChangesNothingElse := by
  refine fun s => ⟨fun unit x a n b u h => ?_, fun g x pc n u b h => ?_⟩
  · have hread := (cvaRead_reads (x := x) (s := s) unit a n).run s (ReadStep.refl s)
    rw [h] at hread
    exact hread.readOnly
  · have hread := (fetch_reads (s := s) g x pc n).run s (ReadStep.refl s)
    rw [h] at hread
    exact hread.readOnly

end Sys2Proof.Machine

namespace Sys2Proof.Machine

/-! ### The places an interleave gives (05 R125) -/

/-- Every granule is a whole number of bursts, and divides the bytes of a pseudo-channel. -/
theorem granule_cases (c : Nat) : granule c = 256 ∨ granule c = 2048 ∨ granule c = 4096 := by
  unfold granule
  split
  · exact .inl rfl
  · split
    · exact .inr (.inl rfl)
    · exact .inr (.inr rfl)

/-- Bytes of one burst lie one behind the other. -/
theorem State.hbmKey_add (s : State) (n : Nat) {o i : Nat} (h : o % 32 + i < 32) :
    s.hbmKey n (o + i) = s.hbmKey n o + i := by
  have hq : (o + i) / granule (s.getF (F.isDescGran n)) = o / granule (s.getF (F.isDescGran n)) ∧
      (o + i) % granule (s.getF (F.isDescGran n)) = o % granule (s.getF (F.isDescGran n)) + i := by
    rcases granule_cases (s.getF (F.isDescGran n)) with hg | hg | hg <;> rw [hg] <;> omega
  simp only [State.hbmKey, hq.1, hq.2]
  omega

/-- A byte within a set lies within its pseudo-channel, and the channel within its stack. -/
theorem State.hbmKey_parts (s : State) {n o : Nat} (hpc : s.getF (F.isDescBpc n) + 2 ^ s.getF (F.isDescLw n) ≤ 32)
    (ho : o < s.setSize n) :
    s.getF (F.isDescBpc n) + o / granule (s.getF (F.isDescGran n)) % s.setMembers n / 2 ^ s.getF (F.isDescLns n) < 32 ∧
    o / granule (s.getF (F.isDescGran n)) / s.setMembers n * granule (s.getF (F.isDescGran n)) +
      o % granule (s.getF (F.isDescGran n)) < pcSize := by
  have hm : 0 < s.setMembers n := by unfold State.setMembers; positivity
  have hchan : o / granule (s.getF (F.isDescGran n)) % s.setMembers n / 2 ^ s.getF (F.isDescLns n) <
      2 ^ s.getF (F.isDescLw n) :=
    Nat.div_lt_of_lt_mul (by rw [mul_comm]; exact Nat.mod_lt _ hm)
  refine ⟨by omega, ?_⟩
  rw [State.setSize] at ho
  have hrow : ∀ g c, granule (s.getF (F.isDescGran n)) = g → pcSize = g * c → o / g / s.setMembers n < c := by
    intro g c _ hc
    rw [Nat.div_div_eq_div_mul]
    refine Nat.div_lt_of_lt_mul ?_
    rwa [mul_right_comm, ← hc, mul_comm]
  rcases granule_cases (s.getF (F.isDescGran n)) with hg | hg | hg <;> rw [hg]
  · have := hrow 256 4718592 hg rfl
    unfold pcSize; omega
  · have := hrow 2048 589824 hg rfl
    unfold pcSize; omega
  · have := hrow 4096 294912 hg rfl
    unfold pcSize; omega

/-- Stack, channel and place within the channel are found again in a key. -/
theorem hbmKey_split {bst st st' bpc pc pc' x x' : Nat} (hpc : bpc + pc < 32) (hpc' : bpc + pc' < 32) (hx : x < pcSize)
    (hx' : x' < pcSize) (h : ((bst + st) * 32 + (bpc + pc)) * pcSize + x = ((bst + st') * 32 + (bpc + pc')) * pcSize + x') :
    st = st' ∧ pc = pc' ∧ x = x' := by
  unfold pcSize at *
  omega

/-- Two bytes of a set whose channels lie within its stacks have places of their own. -/
theorem State.hbmKey_inj (s : State) {n a b : Nat} (hpc : s.getF (F.isDescBpc n) + 2 ^ s.getF (F.isDescLw n) ≤ 32)
    (ha : a < s.setSize n) (hb : b < s.setSize n) (h : s.hbmKey n a = s.hbmKey n b) : a = b := by
  obtain ⟨hca, hra⟩ := s.hbmKey_parts hpc ha
  obtain ⟨hcb, hrb⟩ := s.hbmKey_parts hpc hb
  simp only [State.hbmKey] at h
  generalize s.getF (F.isDescBpc n) = bpc at *
  generalize s.getF (F.isDescBstack n) = bst at *
  generalize hg : granule (s.getF (F.isDescGran n)) = g at *
  generalize s.setMembers n = m at *
  generalize 2 ^ s.getF (F.isDescLns n) = ns at *
  obtain ⟨hstack, hchan, hrow⟩ := hbmKey_split hca hcb hra hrb h
  have hj : a / g % m = b / g % m := by
    rw [← Nat.div_add_mod (a / g % m) ns, ← Nat.div_add_mod (b / g % m) ns, hstack, hchan]
  have hx : a / g / m = b / g / m ∧ a % g = b % g := by
    rcases granule_cases (s.getF (F.isDescGran n)) with h' | h' | h' <;> rw [hg] at h' <;> subst h' <;> omega
  have hq : a / g = b / g := by
    rw [← Nat.div_add_mod (a / g) m, ← Nat.div_add_mod (b / g) m, hx.1, hj]
  rw [← Nat.div_add_mod a g, ← Nat.div_add_mod b g, hq, hx.2]

/-- A set's places hang on the fields of its descriptor behind bit 0. -/
theorem State.hbmKey_congr {s t : State} (h : ∀ f : Fld, f.key % 64 ≠ 0 → t.getF f = s.getF f) (n o : Nat) :
    t.hbmKey n o = s.hbmKey n o := by
  have hgran : t.getF (F.isDescGran n) = s.getF (F.isDescGran n) := h _ (by simp only [Fld.key, F.isDescGran]; omega)
  have hlns : t.getF (F.isDescLns n) = s.getF (F.isDescLns n) := h _ (by simp only [Fld.key, F.isDescLns]; omega)
  have hlw : t.getF (F.isDescLw n) = s.getF (F.isDescLw n) := h _ (by simp only [Fld.key, F.isDescLw]; omega)
  have hstack : t.getF (F.isDescBstack n) = s.getF (F.isDescBstack n) :=
    h _ (by simp only [Fld.key, F.isDescBstack]; omega)
  have hpc : t.getF (F.isDescBpc n) = s.getF (F.isDescBpc n) := h _ (by simp only [Fld.key, F.isDescBpc]; omega)
  simp only [State.hbmKey, State.setMembers, hgran, hlns, hlw, hstack, hpc]

/-! ### The bursts of a range (05 R121) -/

/-- `f` pieces are enough for the bursts of `n` bytes from `o` on. -/
def enoughBursts (f o n : Nat) : Prop := n = 0 ∨ o % 32 + n ≤ 32 * f

theorem enoughBursts_range (o n : Nat) : enoughBursts (n / 32 + 2) o n := .inr (by omega)

/-- A range not empty is its first burst and the range behind it. -/
theorem bursts_cons {f o n : Nat} (hn : n ≠ 0) (h : enoughBursts f o n) : ∃ f' k, 0 < k ∧ k ≤ n ∧ o % 32 + k ≤ 32 ∧
    enoughBursts f' (o + k) (n - k) ∧ bursts f o n = (o, k) :: bursts f' (o + k) (n - k) := by
  have hfuel := h.resolve_left hn
  obtain ⟨f', rfl⟩ : ∃ f', f = f' + 1 := ⟨f - 1, by omega⟩
  have hk : Nat.min n (32 - o % 32) = min n (32 - o % 32) := rfl
  refine ⟨f', Nat.min n (32 - o % 32), by omega, by omega, by omega, ?_, by rw [bursts, if_neg hn]⟩
  unfold enoughBursts
  omega

theorem bursts_nil (f o : Nat) : bursts f o 0 = [] := by cases f <;> rfl

/-- A property of ranges that a first burst and the range behind it hand on. -/
theorem bursts_induction {P : Nat → Nat → List (Nat × Nat) → Prop} (nil : ∀ o, P o 0 [])
    (cons : ∀ o n k l, 0 < k → k ≤ n → o % 32 + k ≤ 32 → P (o + k) (n - k) l → P o n ((o, k) :: l)) {f o n : Nat}
    (h : enoughBursts f o n) : P o n (bursts f o n) := by
  induction n using Nat.strong_induction_on generalizing f o with
  | _ n ih =>
    rcases eq_or_ne n 0 with rfl | hn
    · rw [bursts_nil]; exact nil o
    · obtain ⟨f', k, hpos, hle, hin, hrest, heq⟩ := bursts_cons hn h
      rw [heq]
      exact cons o n k _ hpos hle hin (ih _ (by omega) hrest)

/-! ### Bytes of a memory by their places -/

theorem readBytes_eq_map (d : Byte) (m : Bytes) (a n : Nat) :
    readBytes d m a n = (List.range n).map fun i => tget d m (a + i) := by
  induction n generalizing a with
  | zero => rfl
  | succ n ih =>
    rw [readBytes, ih, List.range_succ_eq_map, List.map_cons, List.map_map, Nat.add_zero]
    refine congrArg _ (List.map_congr_left fun i _ => ?_)
    simp only [Function.comp, Nat.succ_eq_add_one]
    congr 1; omega

/-- A byte that a write covers is the one it wrote. -/
theorem tget_writeBytes_in (d : Byte) (m : Bytes) (a : Nat) (bs : List Byte) {i : Nat} (h : i < bs.length) :
    tget d (writeBytes d m a bs) (a + i) = bs.getD i d := by
  have hread := congrArg (fun l => l.getD i d) (readBytes_writeBytes d m a bs)
  simpa [readBytes_eq_map, List.getD_eq_getElem?_getD, h] using hread

/-! ### What an access to HBM counts (05 R121–R123) -/

/-- From `s` to `t` counters moved and erroneous symbols were corrected, and no more; no counter lies beside bit 0 of its
register. -/
structure Tallied (s t : State) : Prop where
  frame : t = { s with regs := t.regs, mem.softBursts := t.mem.softBursts }
  field : ∀ f : Fld, f.key % 64 ≠ 0 → t.getF f = s.getF f

section
variable {s t u : State}

theorem Tallied.refl (s : State) : Tallied s s := ⟨rfl, fun _ _ => rfl⟩

theorem Tallied.trans (h : Tallied s t) (h' : Tallied t u) : Tallied s u :=
  ⟨by rw [h'.frame, h.frame], fun f hf => (h'.field f hf).trans (h.field f hf)⟩

theorem Tallied.incF (h : Tallied s t) {f : Fld} (n : Nat) (hf : f.key % 64 = 0) : Tallied s (t.incF f n) :=
  ⟨by rw [State.incF, State.setF, h.frame], fun g hg => by
    rw [State.getF_incF_ne (f := f) t n fun he => hg (he ▸ hf), h.field g hg]⟩

theorem Tallied.chargeHbm (h : Tallied s t) (who : Option Nat) (n : Nat) : Tallied s (t.chargeHbm who n) := by
  cases who with
  | none => exact h
  | some x => exact h.incF n (by simp only [Fld.key, F.accHbm]; omega)

theorem Tallied.hbmCorrect (h : Tallied s t) (k : Nat) : Tallied s (t.hbmCorrect k) := by
  unfold State.hbmCorrect
  split
  · have hcount := h.incF (f := F.hbmCe (hbmStack k)) 1 (by simp only [Fld.key, F.hbmCe]; omega)
    exact ⟨by rw [hcount.frame], hcount.field⟩
  · exact h

theorem Tallied.hbm (h : Tallied s t) : t.mem.hbm = s.mem.hbm := by rw [h.frame]

theorem Tallied.hbmKey (h : Tallied s t) (n o : Nat) : t.hbmKey n o = s.hbmKey n o := State.hbmKey_congr h.field n o

end

/-! ### One burst (05 R121–R123) -/

section
variable {α : Type} {s t : State} {who : Option Nat}

/-- A check that does not answer has not stopped what follows it where that answers. -/
theorem M.go_guard_ok {c : Prop} [Decidable c] {m : M Unit} {f : Unit → M α} {a : α} (hm : ∀ v, m.go s ≠ (.ok (), v))
    (h : (if c then m >>= f else f ()).go s = (.ok a, t)) : (f ()).go s = (.ok a, t) := by
  split at h
  · obtain ⟨_, v, hv, -⟩ := M.go_bind_ok_iff.1 h
    exact absurd hv (hm v)
  · exact h

theorem domainCheck_ok {d n : Nat} (h : (domainCheck who d n).go s = (.ok (), t)) : t = s := by
  obtain ⟨_, _, hs, h⟩ := M.go_bind_ok_iff.1 h
  cases hs
  split at h
  · obtain ⟨_, _, -, hthrow⟩ := M.go_bind_ok_iff.1 h
    cases hthrow
  · cases h
    rfl

/-- A stack that can be reached is reached without a trace. -/
theorem hbmReach_ok {k : Nat} (h : (hbmReach who k).go s = (.ok (), t)) : t = s := by
  obtain ⟨_, _, hs, h⟩ := M.go_bind_ok_iff.1 h
  cases hs
  have h := M.go_guard_ok (fun _ h => by cases h) h
  obtain ⟨_, _, hs, h⟩ := M.go_bind_ok_iff.1 h
  cases hs
  exact domainCheck_ok (M.go_guard_ok (fun _ h => by cases h) h)

theorem hbmUe_stops (k : Nat) (a : α) : (hbmUe who k : M α).go s ≠ (.ok a, t) := by
  intro h
  obtain ⟨_, _, -, hthrow⟩ := M.go_bind_ok_iff.1 h
  cases hthrow

end
end Sys2Proof.Machine
namespace Sys2Proof.Machine

/-! ### Reading HBM (05 R121, R122, R125) -/

/-- One burst of a read of HBM. -/
def hbmReadBurst (who : Option Nat) (n : Nat) (p : Nat × Nat) : M (List Byte) := do
  let k := (← getS).hbmKey n p.1
  hbmReach who k
  if tget false (← getS).mem.badBursts (k / 32) then hbmUe who k
  setS fun s => ((s.hbmCorrect k).incF (F.hbmRdbytes (hbmStack k)) p.2).chargeHbm who p.2
  return readBytes 0 (← getS).mem.hbm k p.2

theorem hbmRead_eq (who : Option Nat) (n o len : Nat) : hbmRead who n o len =
    (burstList o len).mapM (hbmReadBurst who n) >>= fun parts => pure parts.flatten := rfl

section
variable {s t : State} {who : Option Nat} {n o : Nat}

theorem hbmReadBurst_ok {p : Nat × Nat} {bs : List Byte} (h : (hbmReadBurst who n p).go s = (.ok bs, t)) :
    Tallied s t ∧ bs = readBytes 0 s.mem.hbm (s.hbmKey n p.1) p.2 := by
  obtain ⟨_, _, hs, h⟩ := M.go_bind_ok_iff.1 h
  cases hs
  obtain ⟨_, v, hreach, h⟩ := M.go_bind_ok_iff.1 h
  obtain rfl := hbmReach_ok hreach
  obtain ⟨_, _, hs, h⟩ := M.go_bind_ok_iff.1 h
  cases hs
  have h := M.go_guard_ok (fun _ => hbmUe_stops _ _) h
  obtain ⟨_, _, hs, h⟩ := M.go_bind_ok_iff.1 h
  cases hs
  cases h
  have htally := (((Tallied.refl v).hbmCorrect (v.hbmKey n p.1)).incF
    (f := F.hbmRdbytes (hbmStack (v.hbmKey n p.1))) p.2 (by simp only [Fld.key, F.hbmRdbytes]; omega)).chargeHbm who p.2
  exact ⟨htally, by rw [htally.hbm]⟩

theorem hbmReadBursts_ok {l : List (Nat × Nat)} {parts : List (List Byte)}
    (h : (l.mapM (hbmReadBurst who n)).go s = (.ok parts, t)) :
    Tallied s t ∧ parts = l.map fun p => readBytes 0 s.mem.hbm (s.hbmKey n p.1) p.2 := by
  induction l generalizing s parts with
  | nil => cases h; exact ⟨Tallied.refl _, rfl⟩
  | cons p r ih =>
    rw [List.mapM_cons] at h
    obtain ⟨b, v, hfirst, h⟩ := M.go_bind_ok_iff.1 h
    obtain ⟨bs, w, hrest, h⟩ := M.go_bind_ok_iff.1 h
    cases h
    obtain ⟨htally, rfl⟩ := hbmReadBurst_ok hfirst
    obtain ⟨htally', rfl⟩ := ih hrest
    exact ⟨htally.trans htally', by simp only [List.map_cons, htally.hbm, htally.hbmKey]⟩

/-- The bursts of a range, read at their places, are the bytes of the range at theirs. -/
theorem bursts_flatten (s : State) (n : Nat) {f o len : Nat} (h : enoughBursts f o len) :
    ((bursts f o len).map fun p => readBytes 0 s.mem.hbm (s.hbmKey n p.1) p.2).flatten =
      (List.range len).map fun i => tget 0 s.mem.hbm (s.hbmKey n (o + i)) := by
  refine bursts_induction (P := fun o len l =>
    (l.map fun p => readBytes 0 s.mem.hbm (s.hbmKey n p.1) p.2).flatten =
      (List.range len).map fun i => tget 0 s.mem.hbm (s.hbmKey n (o + i))) (fun _ => by simp) ?_ h
  intro o len k l _ hle hin ih
  obtain ⟨r, rfl⟩ := Nat.exists_eq_add_of_le hle
  rw [List.map_cons, List.flatten_cons, ih, readBytes_eq_map, Nat.add_sub_cancel_left, List.range_add, List.map_append,
    List.map_map]
  refine congrArg₂ (· ++ ·) (List.map_congr_left fun i hi => ?_) (List.map_congr_left fun i _ => ?_)
  · rw [s.hbmKey_add n (by have := List.mem_range.1 hi; omega)]
  · rw [Function.comp, Nat.add_assoc]

/-- A read of HBM that answers gives the bytes at their places, and only counts (05 R125). -/
theorem hbmRead_ok {len : Nat} {bs : List Byte} (h : (hbmRead who n o len).go s = (.ok bs, t)) :
    Tallied s t ∧ bs = (List.range len).map fun i => tget 0 s.mem.hbm (s.hbmKey n (o + i)) := by
  rw [hbmRead_eq] at h
  obtain ⟨parts, v, hparts, h⟩ := M.go_bind_ok_iff.1 h
  cases h
  obtain ⟨htally, rfl⟩ := hbmReadBursts_ok hparts
  exact ⟨htally, bursts_flatten s n (enoughBursts_range o len)⟩

end

/-! ### Writing HBM (05 R121, R123, R125) -/

/-- The state behind the write of `m` bytes of the burst at byte `k`. -/
def State.burstPut (s : State) (who : Option Nat) (k m : Nat) (part : List Byte) : State :=
  let u := ((if m = 32 then s else s.hbmCorrect k).incF (F.hbmWrbytes (hbmStack k)) m).chargeHbm who m
  { u with mem.hbm := writeBytes 0 u.mem.hbm k part, mem.badBursts := tput false u.mem.badBursts (k / 32) false,
           mem.softBursts := tput false u.mem.softBursts (k / 32) false }

/-- One burst of a write of `bs` at set offset `o`. -/
def hbmWriteBurst (who : Option Nat) (n o : Nat) (bs : List Byte) (p : Nat × Nat) : M Unit := do
  let k := (← getS).hbmKey n p.1
  hbmReach who k
  if tget false (← getS).mem.badBursts (k / 32) && p.2 != 32 then hbmUe who k
  setS fun s => s.burstPut who k p.2 ((bs.drop (p.1 - o)).take p.2)

theorem hbmWrite_eq (who : Option Nat) (n o : Nat) (bs : List Byte) :
    hbmWrite who n o bs = (burstList o bs.length).forM (hbmWriteBurst who n o bs) := rfl

/-- From `s` to `t` counters moved, and HBM with its check bits changed, and no more. -/
structure HbmMoved (s t : State) : Prop where
  frame : t = { s with regs := t.regs, mem.hbm := t.mem.hbm, mem.badBursts := t.mem.badBursts,
                       mem.softBursts := t.mem.softBursts }
  field : ∀ f : Fld, f.key % 64 ≠ 0 → t.getF f = s.getF f

section
variable {s t u : State} {who : Option Nat} {n o : Nat} {bs : List Byte}

theorem HbmMoved.refl (s : State) : HbmMoved s s := ⟨rfl, fun _ _ => rfl⟩

theorem HbmMoved.trans (h : HbmMoved s t) (h' : HbmMoved t u) : HbmMoved s u :=
  ⟨by rw [h'.frame, h.frame], fun f hf => (h'.field f hf).trans (h.field f hf)⟩

theorem HbmMoved.hbmKey (h : HbmMoved s t) (n o : Nat) : t.hbmKey n o = s.hbmKey n o := State.hbmKey_congr h.field n o

theorem HbmMoved.burstPut (s : State) (who : Option Nat) (k m : Nat) (part : List Byte) :
    HbmMoved s (s.burstPut who k m part) ∧ (s.burstPut who k m part).mem.hbm = writeBytes 0 s.mem.hbm k part := by
  have hcorrect : Tallied s (if m = 32 then s else s.hbmCorrect k) := by
    split
    · exact Tallied.refl s
    · exact (Tallied.refl s).hbmCorrect k
  have htally := (hcorrect.incF (f := F.hbmWrbytes (hbmStack k)) m
    (by simp only [Fld.key, F.hbmWrbytes]; omega)).chargeHbm who m
  exact ⟨⟨by rw [State.burstPut, htally.frame], htally.field⟩, by rw [← htally.hbm]; rfl⟩

theorem hbmWriteBurst_ok {p : Nat × Nat} (h : (hbmWriteBurst who n o bs p).go s = (.ok (), t)) : HbmMoved s t ∧
    t.mem.hbm = writeBytes 0 s.mem.hbm (s.hbmKey n p.1) ((bs.drop (p.1 - o)).take p.2) := by
  obtain ⟨_, _, hs, h⟩ := M.go_bind_ok_iff.1 h
  cases hs
  obtain ⟨_, v, hreach, h⟩ := M.go_bind_ok_iff.1 h
  obtain rfl := hbmReach_ok hreach
  obtain ⟨_, _, hs, h⟩ := M.go_bind_ok_iff.1 h
  cases hs
  have h := M.go_guard_ok (fun _ => hbmUe_stops _ _) h
  cases h
  exact HbmMoved.burstPut v who _ _ _

/-- Behind the bursts of a range each of its bytes is in its place, and every other byte of HBM as it was. -/
theorem hbmWriteBursts_ok (s₀ : State) (hpc : s₀.getF (F.isDescBpc n) + 2 ^ s₀.getF (F.isDescLw n) ≤ 32)
    (hin : o + bs.length ≤ s₀.setSize n) {f a len : Nat} (hf : enoughBursts f a len) :
    o ≤ a → a + len = o + bs.length → ∀ s, HbmMoved s₀ s →
    ((bursts f a len).forM (hbmWriteBurst who n o bs)).go s = (.ok (), t) → HbmMoved s t ∧
    (∀ i, i < len → tget 0 t.mem.hbm (s₀.hbmKey n (a + i)) = bs.getD (a - o + i) 0) ∧
    ∀ k, (∀ i, i < len → k ≠ s₀.hbmKey n (a + i)) → tget 0 t.mem.hbm k = tget 0 s.mem.hbm k := by
  refine bursts_induction (P := fun a len l => o ≤ a → a + len = o + bs.length → ∀ s, HbmMoved s₀ s →
    (l.forM (hbmWriteBurst who n o bs)).go s = (.ok (), t) → HbmMoved s t ∧
    (∀ i, i < len → tget 0 t.mem.hbm (s₀.hbmKey n (a + i)) = bs.getD (a - o + i) 0) ∧
    ∀ k, (∀ i, i < len → k ≠ s₀.hbmKey n (a + i)) → tget 0 t.mem.hbm k = tget 0 s.mem.hbm k) ?_ ?_ hf
  · intro a _ _ s _ h
    cases h
    exact ⟨HbmMoved.refl _, fun i hi => absurd hi (Nat.not_lt_zero i), fun _ _ => rfl⟩
  · intro a len k l _ hle hburst ih ha hlen s hs h
    obtain ⟨_, v, hfirst, hrest⟩ := M.go_bind_ok_iff.1 h
    obtain ⟨hmoved, hbytes⟩ := hbmWriteBurst_ok hfirst
    simp only [hs.hbmKey] at hbytes
    obtain ⟨hmoved', hwritten, hkept⟩ := ih (by omega) (by omega) v (hs.trans hmoved) hrest
    have hpart : ((bs.drop (a - o)).take k).length = k := by simp only [List.length_take, List.length_drop]; omega
    refine ⟨hmoved.trans hmoved', fun i hi => ?_, fun j hj => ?_⟩
    · rcases Nat.lt_or_ge i k with hik | hik
      · have hlater : ∀ j, j < len - k → s₀.hbmKey n (a + i) ≠ s₀.hbmKey n (a + k + j) := fun j hj he => by
          have := s₀.hbmKey_inj hpc (by omega) (by omega) he
          omega
        rw [hkept _ hlater, hbytes, s₀.hbmKey_add n (by omega), tget_writeBytes_in _ _ _ _ (by omega)]
        simp only [List.getD_eq_getElem?_getD, List.getElem?_take, List.getElem?_drop, if_pos hik]
      · obtain ⟨j, rfl⟩ := Nat.exists_eq_add_of_le hik
        rw [← Nat.add_assoc, hwritten j (by omega)]
        congr 1
        omega
    · have hlater : ∀ i, i < len - k → j ≠ s₀.hbmKey n (a + k + i) := fun i hi => by
        rw [Nat.add_assoc]; exact hj (k + i) (by omega)
      have hbeside : j < s₀.hbmKey n a ∨ s₀.hbmKey n a + k ≤ j := by
        by_contra hmid
        refine hj (j - s₀.hbmKey n a) (by omega) ?_
        rw [s₀.hbmKey_add n (by omega)]
        omega
      rw [hkept j hlater, hbytes, tget_writeBytes_out _ _ _ _ (by rwa [hpart])]

end

/-- Settles O22: the bursts of a write put each byte in the place the interleave gives it, and no two in one; a read takes
them from there. -/
theorem hbmHoldsWhatWasWritten : Obligations.HbmHoldsWhatWasWritten := by
  refine fun who n o s hpc => ⟨fun bs t hin h => ?_, fun len bs t _ h => ?_⟩
  · rw [hbmWrite_eq] at h
    obtain ⟨hmoved, hbytes, hother⟩ := hbmWriteBursts_ok s hpc hin (enoughBursts_range o bs.length) le_rfl rfl s
      (HbmMoved.refl s) h
    refine ⟨fun i hi => ?_, hother, hmoved.frame⟩
    rw [hbytes i hi, Nat.sub_self, Nat.zero_add]
  · obtain ⟨htally, rfl⟩ := hbmRead_ok h
    refine ⟨by rw [List.length_map, List.length_range], fun i hi => ?_, htally.frame⟩
    simp [List.getD_eq_getElem?_getD, hi]

end Sys2Proof.Machine

namespace Sys2Proof.Machine

/-! ### Tables cleared over ranges -/

section
variable {α : Type} (d : α) (t : Tbl α)

theorem tget_filter_drop (p : Nat → Bool) {j : Nat} (h : p j = false) : tget d (t.filter fun e => p e.1) j = d := by
  induction t with
  | nil => rfl
  | cons e r ih =>
    by_cases hk : p e.1 = true
    · have hne : j ≠ e.1 := fun he => by rw [he, hk] at h; cases h
      simp [hk, tget, ih, hne]
    · simp [hk, ih]

theorem tget_tclear (lo n j : Nat) : tget d (tclear t lo n) j = if lo ≤ j ∧ j < lo + n then d else tget d t j := by
  split
  · exact tget_filter_drop d t (fun k => !(decide (lo ≤ k) && decide (k < lo + n))) (by simp; omega)
  · exact tget_filter_keep d t (fun k => !(decide (lo ≤ k) && decide (k < lo + n))) (by simp; omega)

/-- Of blocks of `z` keys those listed are cleared. -/
theorem tget_foldl_tclear {z : Nat} (hz : 0 < z) (l : List Nat) (j : Nat) :
    tget d (l.foldl (fun t p => tclear t (p * z) z) t) j = if j / z ∈ l then d else tget d t j := by
  induction l generalizing t with
  | nil => simp
  | cons p r ih =>
    have hblock : (p * z ≤ j ∧ j < p * z + z) ↔ j / z = p := by
      rw [← Nat.le_div_iff_mul_le hz, ← Nat.succ_mul, ← Nat.div_lt_iff_lt_mul hz]
      omega
    rw [List.foldl_cons, ih, tget_tclear]
    simp only [hblock, List.mem_cons]
    by_cases hr : j / z ∈ r <;> by_cases hp : j / z = p <;> simp [hr, hp]

end

/-! ### Bits of mask fields -/

theorem bit_mod_two_pow {v i w : Nat} (h : i < w) : bit (v % 2 ^ w) i = bit v i := by
  simp only [bit_eq_testBit, Nat.testBit_mod_two_pow, h, decide_true, Bool.true_and]

/-- A bit put into a number is the one read there. -/
theorem bit_insert (v i : Nat) (b : Bool) : bit (insert v i 1 (ofBool b)) i = b := by
  have hpos : 0 < 2 ^ i := by positivity
  have hv := Nat.div_add_mod v (2 ^ i)
  have hlow := Nat.mod_lt v hpos
  have hcut : v - v / 2 ^ i % 2 * 2 ^ i = 2 ^ i * (2 * (v / 2 ^ i / 2)) + v % 2 ^ i := by
    have := Nat.div_add_mod (v / 2 ^ i) 2
    generalize v / 2 ^ i = q at *
    generalize hr : v % 2 ^ i = r at *
    subst hv
    have hq : 2 ^ i * q = 2 ^ i * (2 * (q / 2)) + q % 2 * 2 ^ i := by
      rw [mul_comm (q % 2), ← mul_add, this]
    omega
  have hins : insert v i 1 (ofBool b) = 2 ^ i * (2 * (v / 2 ^ i / 2) + ofBool b) + v % 2 ^ i := by
    have hb : ofBool b % 2 = ofBool b := by cases b <;> rfl
    simp only [insert, place, bits, pow_one, Nat.mod_mod, hb, hcut]
    ring
  rw [bit, hins, Nat.mul_add_div hpos, Nat.div_eq_of_lt hlow, Nat.add_zero, Nat.mul_add_mod]
  cases b <;> rfl

theorem State.bitF_setBitF (s : State) (f : Fld) {i : Nat} (b : Bool) (h : i < f.w) :
    (s.setBitF f i b).bitF f i = b := by
  rw [State.bitF, State.setBitF, State.getF_setF, bit_mod_two_pow h, bit_insert]

theorem State.getF_setBitF_ne (s : State) {f g : Fld} (i : Nat) (b : Bool) (h : g.key ≠ f.key) :
    (s.setBitF f i b).getF g = s.getF g := State.getF_setF_ne s _ h

/-! ### Writes of register fields (00 R9, R12–R15) -/

theorem Fld.of_lt (f : Fld) (v : Nat) : f.of v < 2 ^ f.w := Nat.mod_lt _ (by positivity)

section
variable (s : State) {f g : Fld} (v : Nat)

/-- A field that is not locked takes what is written. -/
theorem State.guardWrite_free (f : Fld) : ∃ r, s.guardWrite f v false = { s with regs := r } := by
  unfold State.guardWrite
  split <;> exact ⟨_, rfl⟩

theorem State.getF_guardWrite_free (h : v < 2 ^ f.w) : (s.guardWrite f v false).getF f = v := by
  unfold State.guardWrite
  split
  · exact Eq.symm ‹_›
  · simp [Nat.mod_eq_of_lt h]

theorem State.getF_guardWrite_free_ne (h : g.key ≠ f.key) : (s.guardWrite f v false).getF g = s.getF g := by
  unfold State.guardWrite
  split
  · rfl
  · exact State.getF_setF_ne s v h

/-- The write of a field changes registers and makes a record at most. -/
theorem State.fieldWrite_shape (d : FDesc) (l : Bool) : ∃ r e, s.fieldWrite d v l = { s with regs := r, err := e } := by
  have hguard : ∃ r e, s.guardWrite d.f v l = { s with regs := r, err := e } := by
    unfold State.guardWrite
    split
    · exact ⟨_, _, rfl⟩
    · split <;> exact ⟨_, _, rfl⟩
  unfold State.fieldWrite
  split
  · split
    case h_2 | h_3 => exact hguard
    all_goals exact ⟨_, _, rfl⟩
  · exact ⟨_, _, rfl⟩
  · exact ⟨_, _, rfl⟩

/-- No other field takes part in the write of a field, but the sequence number of a record. -/
theorem State.fieldWrite_getF_ne {d : FDesc} (l : Bool) (h : g.key ≠ d.f.key) (hseq : ∀ n, g.key ≠ (F.dieSeqSeq n).key) :
    (s.fieldWrite d v l).getF g = s.getF g := by
  have hguard : (s.guardWrite d.f v l).getF g = s.getF g := by
    unfold State.guardWrite
    split
    · rfl
    · split
      · exact State.rejected_getF s d.f (hseq _)
      · exact State.getF_setF_ne s v h
  unfold State.fieldWrite
  split
  · split
    case h_1 => rfl
    case h_2 | h_3 => exact hguard
    case h_4 => exact State.getF_setF_ne s v h
  · exact State.getF_setF_ne s _ h
  · rfl

theorem State.fieldsWrite_shape (l : List FDesc) : ∃ r e, s.fieldsWrite l v = { s with regs := r, err := e } := by
  have hfold : ∀ (lock : FDesc → Bool) (t : State), ∃ r e,
      l.foldl (fun t d => t.fieldWrite d (d.f.of v) (lock d)) t = { t with regs := r, err := e } := by
    intro lock
    induction l with
    | nil => exact fun t => ⟨_, _, rfl⟩
    | cons d l ih =>
      intro t
      obtain ⟨r, e, hd⟩ := t.fieldWrite_shape (d.f.of v) d (lock d)
      obtain ⟨r', e', hl⟩ := ih (t.fieldWrite d (d.f.of v) (lock d))
      exact ⟨r', e', by rw [List.foldl_cons, hl, hd]⟩
  exact hfold s.locks s

theorem State.fieldsWrite_getF_ne {l : List FDesc} (h : ∀ d ∈ l, g.key ≠ d.f.key)
    (hseq : ∀ n, g.key ≠ (F.dieSeqSeq n).key) : (s.fieldsWrite l v).getF g = s.getF g := by
  have hfold : ∀ (lock : FDesc → Bool) (t : State),
      (l.foldl (fun t d => t.fieldWrite d (d.f.of v) (lock d)) t).getF g = t.getF g := by
    intro lock
    induction l with
    | nil => exact fun _ => rfl
    | cons d l ih =>
      rw [List.forall_mem_cons] at h
      intro t
      rw [List.foldl_cons, ih h.2, t.fieldWrite_getF_ne _ _ h.1 hseq]
  exact hfold s.locks s

end

/-- A command completes in the state its work comes to, where that has the old queue and power state. -/
theorem runsTo_of_exec {i : Instr} {s t u : State} {o : State → Host.Outcome State Fault Refusal} {P : State → Prop}
    (hi : exec i s = o s) (ho : o s = .next (left s u)) (hu : u = t) (hleft : left s t = t) (hP : P t) : runsTo i s P :=
  ⟨t, by rw [hi, ho, hu, hleft], hP⟩

/-! ### Ways (05 R114, R115) -/

theorem regOr_cmWay : ∀ (k : Fin 32) (w : Fin 16), regOr (F.cmWayValid k.val w.val).off =
    ⟨(F.cmWayValid k.val w.val).off, 32, [⟨F.cmWayOwner k.val w.val, .rw, .locked, .any⟩,
      ⟨F.cmWayValid k.val w.val, .rw, .locked, .any⟩, ⟨F.cmWayMode k.val w.val, .rw, .locked, .any⟩,
      ⟨F.cmWayZeroing k.val w.val, .ro, .none, .any⟩]⟩ := by
  decide +kernel

/-- Whether the block of a field runs hangs on the offset of its register. -/
theorem State.regRunning_congr (s : State) {f g : Fld} (h : f.off = g.off) : s.regRunning f = s.regRunning g := by
  simp only [State.regRunning, h]

/-- OWNER, VALID and MODE of a way written. -/
def State.wayWritten (s : State) (k w v : Nat) : State :=
  ((s.guardWrite (F.cmWayOwner k w) ((F.cmWayOwner k w).of v) false).guardWrite (F.cmWayValid k w)
    ((F.cmWayValid k w).of v) false).guardWrite (F.cmWayMode k w) ((F.cmWayMode k w).of v) false

section
variable (s : State)

/-- CM_WAY written while its cluster is up and its owner not resident there. -/
theorem State.regWrite_cmWay (k : Fin 32) (w : Fin 16) (v : Nat) (hup : s.blockUp (F.cmWayValid k.val w.val).off = true)
    (hrun : s.regRunning (F.cmWayValid k.val w.val) = false) :
    s.regWrite (regOr (F.cmWayValid k.val w.val).off) v = s.wayWritten k.val w.val v := by
  have howner : s.regRunning (F.cmWayOwner k.val w.val) = false := (s.regRunning_congr rfl).trans hrun
  have hmode : s.regRunning (F.cmWayMode k.val w.val) = false := (s.regRunning_congr rfl).trans hrun
  rw [regOr_cmWay, State.regWrite, State.regRefused_none]
  · simp only [State.fieldsWrite, List.foldl_cons, List.foldl_nil, State.fieldWrite, State.locks, hrun, howner, hmode,
      State.wayWritten]
  · exact hup
  · simp [Reg.badField, Range.ok]

theorem State.wayWritten_shape (k w v : Nat) : ∃ r, s.wayWritten k w v = { s with regs := r } := by
  obtain ⟨r₁, h₁⟩ := s.guardWrite_free ((F.cmWayOwner k w).of v) (F.cmWayOwner k w)
  obtain ⟨r₂, h₂⟩ := State.guardWrite_free { s with regs := r₁ } ((F.cmWayValid k w).of v) (F.cmWayValid k w)
  obtain ⟨r₃, h₃⟩ := State.guardWrite_free { s with regs := r₂ } ((F.cmWayMode k w).of v) (F.cmWayMode k w)
  exact ⟨r₃, by rw [State.wayWritten, h₁, h₂, h₃]⟩

theorem State.wayWritten_fields (k w v : Nat) : (s.wayWritten k w v).getF (F.cmWayOwner k w) = (F.cmWayOwner k w).of v ∧
    (s.wayWritten k w v).getF (F.cmWayValid k w) = (F.cmWayValid k w).of v ∧
    (s.wayWritten k w v).getF (F.cmWayMode k w) = (F.cmWayMode k w).of v := by
  have hne : (F.cmWayOwner k w).key ≠ (F.cmWayValid k w).key ∧ (F.cmWayOwner k w).key ≠ (F.cmWayMode k w).key ∧
      (F.cmWayValid k w).key ≠ (F.cmWayMode k w).key := by
    simp only [Fld.key, F.cmWayOwner, F.cmWayValid, F.cmWayMode]; omega
  obtain ⟨hov, hom, hvm⟩ := hne
  unfold State.wayWritten
  refine ⟨?_, ?_, State.getF_guardWrite_free _ _ (Fld.of_lt _ v)⟩
  · rw [State.getF_guardWrite_free_ne _ _ hom, State.getF_guardWrite_free_ne _ _ hov,
      State.getF_guardWrite_free _ _ (Fld.of_lt _ v)]
  · rw [State.getF_guardWrite_free_ne _ _ hvm, State.getF_guardWrite_free _ _ (Fld.of_lt _ v)]

end

/-- CM_WAY_WRITE sets the fields, and ZEROING where one of them changed. -/
theorem cmWayWrite_runs {k : Fin 32} {w : Fin 16} {v : BitVec 32} {s : State} (hworks : s.works = true)
    (hup : s.blockUp (F.cmWayValid k.val w.val).off = true) (hrun : s.regRunning (F.cmWayValid k.val w.val) = false) :
    runsTo (.cmWayWrite k w v) s fun t => t = { s with regs := t.regs } ∧
      t.getF (F.cmWayOwner k.val w.val) = (F.cmWayOwner k.val w.val).of v.toNat ∧
      t.getF (F.cmWayValid k.val w.val) = (F.cmWayValid k.val w.val).of v.toNat ∧
      t.getF (F.cmWayMode k.val w.val) = (F.cmWayMode k.val w.val).of v.toNat ∧
      (t.flag (F.cmWayValid k.val w.val) ≠ s.flag (F.cmWayValid k.val w.val) →
        t.flag (F.cmWayZeroing k.val w.val) = true) := by
  obtain ⟨r, hshape⟩ := s.wayWritten_shape k.val w.val v.toNat
  obtain ⟨howner, hvalid, hmode⟩ := s.wayWritten_fields k.val w.val v.toNat
  have hwrite := s.regWrite_cmWay k w v.toNat hup hrun
  generalize s.wayWritten k.val w.val v.toNat = u at *
  have hne : ∀ f ∈ [F.cmWayOwner k.val w.val, F.cmWayValid k.val w.val, F.cmWayMode k.val w.val],
      f.key ≠ (F.cmWayZeroing k.val w.val).key := by
    simp only [List.forall_mem_cons, Fld.key, F.cmWayOwner, F.cmWayValid, F.cmWayMode, F.cmWayZeroing]
    simp
  simp only [List.forall_mem_cons] at hne
  obtain ⟨hoz, hvz, hmz, -⟩ := hne
  by_cases hsame : u.getF (F.cmWayOwner k.val w.val) = s.getF (F.cmWayOwner k.val w.val) ∧
      u.flag (F.cmWayValid k.val w.val) = s.flag (F.cmWayValid k.val w.val) ∧
      u.flag (F.cmWayMode k.val w.val) = s.flag (F.cmWayMode k.val w.val)
  · refine runsTo_of_exec (o := execCmWayWrite k w v) (t := u) rfl (work_left s _ hworks) (by simp only [hwrite, hsame]; rfl) (by rw [hshape]; rfl) ?_
    exact ⟨by rw [hshape], howner, hvalid, hmode, fun h => absurd hsame.2.1 h⟩
  · refine runsTo_of_exec (o := execCmWayWrite k w v) (t := u.setB (F.cmWayZeroing k.val w.val) true) rfl
      (work_left s _ hworks) (by simp only [hwrite, if_neg hsame]) (by rw [hshape]; rfl) ?_
    refine ⟨by rw [hshape]; rfl, ?_, ?_, ?_, fun _ => State.flag_setB u _ true (Nat.succ_pos 0)⟩
    · rw [State.getF_setB_ne _ _ hoz, howner]
    · rw [State.getF_setB_ne _ _ hvz, hvalid]
    · rw [State.getF_setB_ne _ _ hmz, hmode]

/-- WAY_CLEAR_DONE zeroes the way, discards its lines and clears ZEROING. -/
theorem wayClearDone_runs {k : Fin 32} {w : Fin 16} {s : State} (hworks : s.works = true)
    (hzero : s.flag (F.cmWayZeroing k.val w.val) = true) :
    runsTo (.wayClearDone k w) s fun t => wayCleared s t k.val w.val := by
  refine runsTo_of_exec (o := execWayClearDone k w) (t := { (s.setB (F.cmWayZeroing k.val w.val) false).sramFill (cmWord + wayBase k.val w.val)
      1572864 with mem.cm := tclear s.mem.cm (wayBase k.val w.val) 1572864,
                   mem.lines := s.mem.lines.filter fun l => !(l.cluster == k.val && l.way == w.val) }) rfl
    (work_left s _ hworks) (by simp [hzero]) rfl ?_
  refine ⟨rfl, rfl, State.flag_setB s _ false (Nat.succ_pos 0), fun e => ?_, fun a ha => ?_, fun a ha => ?_⟩
  · simp [List.mem_filter]
    tauto
  · exact (tget_tclear 0 s.mem.cm _ _ _).trans (if_pos (by omega))
  · exact (tget_tclear 0 s.mem.cm _ _ _).trans (if_neg (by omega))

/-! ### Interleave sets (05 R125–R127; 17 R439) -/

/-- Of a descriptor's fields only VALID has the key of VALID. -/
theorem isDesc_others : ∀ n : Fin 256, ∀ d ∈ (regOr (F.isDescValid n.val).off).fields.filter (fun d => d.f != F.isDescValid n.val),
    (F.isDescValid n.val).key ≠ d.f.key := by decide +kernel

theorem regOr_isDesc_off : ∀ n : Fin 256, (regOr (F.isDescValid n.val).off).off = (F.isDescValid n.val).off := by
  decide +kernel

theorem key_isDescValid_ne_dieSeq (n : Fin 256) (d : Nat) : (F.isDescValid n.val).key ≠ (F.dieSeqSeq d).key := by
  simp only [Fld.key, F.isDescValid, F.dieSeqSeq, dieOff]
  omega

/-- A descriptor's fields beside VALID written. -/
def State.descWritten (s : State) (n v : Nat) : State :=
  (s.spend (F.isDescValid n).off).fieldsWrite
    ((regOr (F.isDescValid n).off).fields.filter fun d => d.f != F.isDescValid n) v

section
variable (s : State) (n : Fin 256) (v : Nat)

theorem State.descWritten_shape : ∃ r e, s.descWritten n.val v = { s with regs := r, err := e } := by
  obtain ⟨r, e, h⟩ := (s.spend (F.isDescValid n.val).off).fieldsWrite_shape v
    ((regOr (F.isDescValid n.val).off).fields.filter fun d => d.f != F.isDescValid n.val)
  exact ⟨r, e, h⟩

theorem State.descWritten_valid : (s.descWritten n.val v).setValid n.val = s.setValid n.val :=
  congrArg (· != 0) ((s.spend (F.isDescValid n.val).off).fieldsWrite_getF_ne v (isDesc_others n)
    (key_isDescValid_ne_dieSeq n))

end

section
variable {s : State} {n : Fin 256} {v : Word64}

/-- A descriptor write that is not refused: the other fields first, then VALID by what it was. -/
theorem isDescWrite_exec (hworks : s.works = true) (hup : s.blockUp (F.isDescValid n.val).off = true)
    (hfields : (regOr (F.isDescValid n.val).off).badField v.toNat = none) :
    execIsDescWrite n v s = .next (left s (if s.setValid n.val = bit v.toNat 0 then s.descWritten n.val v.toNat
      else if !bit v.toNat 0 then (s.descWritten n.val v.toNat).clearSet n.val
      else if (s.descWritten n.val v.toNat).setFit n.val then
        { (s.descWritten n.val v.toNat).setB (F.isDescValid n.val) true with
          mem.setClr := tput false (s.descWritten n.val v.toNat).mem.setClr n.val true }
      else (s.descWritten n.val v.toNat).rejected (F.isDescValid n.val))) := by
  have hnone : (s.spend (F.isDescValid n.val).off).regRefused (regOr (F.isDescValid n.val).off) v.toNat = none :=
    State.regRefused_none _ ((congrArg s.blockUp (regOr_isDesc_off n)).trans hup) hfields
  rw [execIsDescWrite, regWork, work_left s _ hworks]
  simp only [hnone]
  rfl

variable (hworks : s.works = true) (hup : s.blockUp (F.isDescValid n.val).off = true)
  (hfields : (regOr (F.isDescValid n.val).off).badField v.toNat = none)
include hworks hup hfields

/-- VALID written to a set that fits puts it in service and starts its clear. -/
theorem isDescWrite_validates (hv : v.getLsbD 0 = true) (hinvalid : s.setValid n.val = false)
    (hfit : (s.descWritten n.val v.toNat).setFit n.val = true) : runsTo (.isDescWrite n v) s fun t =>
      t.setValid n.val = true ∧ tget false t.mem.setClr n.val = true ∧ t.mem.hbm = s.mem.hbm := by
  obtain ⟨r, e, hshape⟩ := s.descWritten_shape n v.toNat
  have hexec := isDescWrite_exec hworks hup hfields
  rw [bit_toNat, hv, hinvalid, hfit] at hexec
  generalize s.descWritten n.val v.toNat = d at hexec hshape
  refine runsTo_of_exec (t := { d.setB (F.isDescValid n.val) true with mem.setClr := tput false d.mem.setClr n.val true })
    rfl hexec rfl (by rw [hshape]; rfl) ⟨State.flag_setB d (F.isDescValid n.val) true Nat.one_pos, ?_, by rw [hshape]; rfl⟩
  exact tget_tput_same false d.mem.setClr n.val true

/-- VALID written to a set that does not fit leaves it invalid, with a record. -/
theorem isDescWrite_rejects (hv : v.getLsbD 0 = true) (hinvalid : s.setValid n.val = false)
    (hfit : (s.descWritten n.val v.toNat).setFit n.val = false) : runsTo (.isDescWrite n v) s fun t =>
      t.setValid n.val = false ∧ t.mem = s.mem ∧ ∃ r ∈ t.err.recQ, r.kind = kRejected := by
  obtain ⟨r, e, hshape⟩ := s.descWritten_shape n v.toNat
  have hvalid := s.descWritten_valid n v.toNat
  have hexec := isDescWrite_exec hworks hup hfields
  rw [bit_toNat, hv, hinvalid, hfit] at hexec
  generalize s.descWritten n.val v.toNat = d at hexec hshape hvalid
  refine runsTo_of_exec (t := d.rejected (F.isDescValid n.val)) rfl hexec rfl (by rw [hshape]; rfl)
    ⟨?_, by rw [hshape]; rfl, ?_⟩
  · rw [← hinvalid, ← hvalid, State.setValid, State.flag, State.rejected_getF _ _ (key_isDescValid_ne_dieSeq n _)]
    rfl
  · exact ⟨_, List.mem_append_right _ (List.mem_singleton.2 rfl), rfl⟩

/-- VALID cleared takes the set out of service, and its seal (17 R439). -/
theorem isDescWrite_retires (hv : v.getLsbD 0 = false) (hset : s.setValid n.val = true) :
    runsTo (.isDescWrite n v) s fun t => t.setValid n.val = false ∧
      t.bitF (F.secSealSealed (n.val / 32)) (n.val % 32) = false ∧ t.mem.hbm = s.mem.hbm := by
  obtain ⟨r, e, hshape⟩ := s.descWritten_shape n v.toNat
  have hexec := isDescWrite_exec hworks hup hfields
  rw [bit_toNat, hv, hset] at hexec
  generalize s.descWritten n.val v.toNat = d at hexec hshape
  have hkey : (F.isDescValid n.val).key ≠ (F.secSealSealed (n.val / 32)).key := by
    simp only [Fld.key, F.isDescValid, F.secSealSealed]; omega
  have hgone := State.flag_setB d (F.isDescValid n.val) false Nat.one_pos
  refine runsTo_of_exec (t := d.clearSet n.val) rfl hexec rfl (by rw [hshape]; rfl) ⟨?_, ?_, by rw [hshape]; rfl⟩
  · rw [State.flag, ← State.getF_setBitF_ne _ (n.val % 32) false hkey] at hgone
    exact hgone
  · exact State.bitF_setBitF (d.setB (F.isDescValid n.val) false) (F.secSealSealed (n.val / 32)) false
      (Nat.mod_lt _ (by decide))

end

/-- Counting the writes of a clear changes registers alone. -/
theorem foldl_incF_shape (f : Nat → Fld) (k : Nat) (l : List Nat) (s : State) :
    ∃ r, l.foldl (fun s p => s.incF (f p) k) s = { s with regs := r } := by
  induction l generalizing s with
  | nil => exact ⟨_, rfl⟩
  | cons p l ih =>
    obtain ⟨r, hr⟩ := ih (s.incF (f p) k)
    exact ⟨r, hr⟩

/-- SET_CLEAR_DONE zeroes the members of the set and no other pseudo-channel. -/
theorem setClearDone_runs {n : Fin 256} {s : State} (hworks : s.works = true)
    (hclr : tget false s.mem.setClr n.val = true) : runsTo (.setClearDone n) s fun t => setCleared s t n.val := by
  obtain ⟨r, hr⟩ := foldl_incF_shape (fun p => F.hbmWrbytes (p / 32)) pcSize (s.members n.val) s
  have hpos : 0 < pcSize := by decide
  refine runsTo_of_exec (o := execSetClearDone n) (t := { s with
    regs := r
    mem.hbm := (s.members n.val).foldl (fun m p => tclear m (p * pcSize) pcSize) s.mem.hbm
    mem.badBursts := (s.members n.val).foldl (fun m p => tclear m (p * pcSize / 32) (pcSize / 32)) s.mem.badBursts
    mem.softBursts := (s.members n.val).foldl (fun m p => tclear m (p * pcSize / 32) (pcSize / 32)) s.mem.softBursts
    mem.setClr := tput false s.mem.setClr n.val false }) rfl (work_left s _ hworks) (by simp only [hclr, hr]; rfl) rfl
    ⟨rfl, rfl, tget_tput_same false s.mem.setClr n.val false, fun m hm a ha => ?_, fun a ha => ?_⟩
  · refine (tget_foldl_tclear 0 s.mem.hbm hpos _ _).trans (if_pos ?_)
    rwa [Nat.mul_comm, Nat.mul_add_div hpos, Nat.div_eq_of_lt ha, Nat.add_zero]
  · refine (tget_foldl_tclear 0 s.mem.hbm hpos _ _).trans (if_neg fun hm => ?_)
    have hdiv := Nat.div_add_mod a pcSize
    have hmod := Nat.mod_lt a hpos
    have hout := ha _ hm
    rw [Nat.mul_comm] at hdiv
    omega

/-! ### Page-table set and invalidations (05 R132, R143; 20 R504) -/

theorem regOr_memCfg : regOr F.memCfgPtset.off = ⟨F.memCfgPtset.off, 32, [⟨F.memCfgPtset, .rw, .init, .any⟩]⟩ := by
  decide +kernel

/-- A READY bit set is remembered, and no more. -/
theorem State.markPkg_shape (s : State) (i : Nat) : ∃ r c, s.markPkg i true = { s with regs := r, sec := c } :=
  ⟨_, _, rfl⟩

theorem State.getF_markPkg_ne (s : State) {i : Nat} {g : Fld} (h : g.key ≠ F.readyPkgReady.key) :
    (s.markPkg i true).getF g = s.getF g := s.getF_setBitF_ne i true h

theorem State.bitF_markPkg (s : State) {i : Nat} (h : i < F.readyPkgReady.w) :
    (s.markPkg i true).bitF F.readyPkgReady i = true := State.bitF_setBitF s F.readyPkgReady true h

section
variable {s : State} (hworks : s.works = true)
include hworks

/-- Before memory is ready MEM_CFG takes a valid house set, and rejects any other. -/
theorem memCfgWrite_exec {v : BitVec 32} (hup : s.blockUp F.memCfgPtset.off = true)
    (hready : s.bitF F.readyPkgReady rMem = false) : execMemCfgWrite v s = .next (left s (
      if !(s.setValid (F.memCfgPtset.of v.toNat)) || !(s.flag (F.isDescHouse (F.memCfgPtset.of v.toNat))) then
        s.rejected F.memCfgPtset
      else (s.setF F.memCfgPtset (F.memCfgPtset.of v.toNat)).markPkg rMem true)) := by
  have hnone : s.regRefused (regOr F.memCfgPtset.off) v.toNat = none := by
    rw [regOr_memCfg]
    exact s.regRefused_none hup (by simp [Reg.badField, Range.ok])
  refine (work_left s _ hworks).trans ?_
  simp only [hnone, hready]
  rfl

theorem memCfgWrite_runs {v : BitVec 32} (hup : s.blockUp F.memCfgPtset.off = true)
    (hready : s.bitF F.readyPkgReady rMem = false) :
    (s.setValid (F.memCfgPtset.of v.toNat) = true ∧ s.flag (F.isDescHouse (F.memCfgPtset.of v.toNat)) = true →
      runsTo (.memCfgWrite v) s fun t =>
      t = { s with regs := t.regs, sec := t.sec } ∧ t.getF F.memCfgPtset = F.memCfgPtset.of v.toNat ∧
      t.bitF F.readyPkgReady rMem = true) ∧
    (s.setValid (F.memCfgPtset.of v.toNat) = false ∨ s.flag (F.isDescHouse (F.memCfgPtset.of v.toNat)) = false →
      runsTo (.memCfgWrite v) s fun t =>
      t = { s with regs := t.regs, err := t.err } ∧ t.getF F.memCfgPtset = s.getF F.memCfgPtset ∧
      ∃ r, t.err.recQ = s.err.recQ ++ [r] ∧ r.kind = kRejected) := by
  refine ⟨fun ⟨hvalid, hhouse⟩ => ?_, fun hbad => ?_⟩
  · obtain ⟨r, c, hmark⟩ := (s.setF F.memCfgPtset (F.memCfgPtset.of v.toNat)).markPkg_shape rMem
    refine runsTo_of_exec rfl (memCfgWrite_exec hworks hup hready) (if_neg (by simp [hvalid, hhouse]))
      (by rw [hmark]; rfl) ⟨by rw [hmark]; rfl, ?_, State.bitF_markPkg _ (by decide)⟩
    have hne : F.memCfgPtset.key ≠ F.readyPkgReady.key := by decide
    rw [State.getF_markPkg_ne _ hne, State.getF_setF, Nat.mod_eq_of_lt (Fld.of_lt _ _)]
  · refine runsTo_of_exec rfl (memCfgWrite_exec hworks hup hready) (if_pos (by rcases hbad with h | h <;> simp [h])) rfl
      ⟨rfl, State.rejected_getF s _ (by decide +kernel), _, rfl, rfl⟩

/-- MEM_TINV starts an invalidation, or waits behind the one that runs. -/
theorem memTinv_runs {v : Word64} (hup : s.blockUp F.memTinvCtx.off = true)
    (hfields : (regOr F.memTinvCtx.off).badField v.toNat = none) :
    (s.flag F.memTinvStDone = true → runsTo (.memTinv v) s fun t => t = { s with regs := t.regs, mem.tinvNow := v } ∧
      t.flag F.memTinvStDone = false) ∧
    (s.flag F.memTinvStDone = false → runsTo (.memTinv v) s fun t =>
      t = { s with regs.hold := t.regs.hold, mem.tinvNext := s.mem.tinvNext ++ [v] }) := by
  have hoff : (regOr F.memTinvCtx.off).off = F.memTinvCtx.off := by decide +kernel
  have hnone : (s.spend F.memTinvCtx.off).regRefused (regOr F.memTinvCtx.off) v.toNat = none :=
    State.regRefused_none _ ((congrArg s.blockUp hoff).trans hup) hfields
  have hexec : execMemTinv v s = .next (left s (if (s.spend F.memTinvCtx.off).flag F.memTinvStDone then
      { (s.spend F.memTinvCtx.off).setB F.memTinvStDone false with mem.tinvNow := v }
    else { s.spend F.memTinvCtx.off with mem.tinvNext := s.mem.tinvNext ++ [v] })) := by
    rw [execMemTinv, regWork, work_left s _ hworks]
    simp only [hnone]
    rfl
  refine ⟨fun hdone => ?_, fun hbusy => ?_⟩
  · refine runsTo_of_exec rfl hexec (if_pos hdone) rfl ⟨rfl, ?_⟩
    exact State.flag_setB (s.spend F.memTinvCtx.off) F.memTinvStDone false (by decide)
  · exact runsTo_of_exec rfl hexec (if_neg (Bool.eq_false_iff.1 hbusy)) rfl rfl

/-- The cached translations that the running invalidation does not cover. -/
def State.tlbLeft (s : State) : List TlbE := s.mem.tlb.filter fun e => !tinvHits s.mem.tinvNow.toNat e

omit hworks in
theorem State.mem_tlbLeft (s : State) (e : TlbE) :
    e ∈ s.tlbLeft ↔ e ∈ s.mem.tlb ∧ tinvHits s.mem.tinvNow.toNat e = false := by
  rw [State.tlbLeft, List.mem_filter, Bool.not_eq_true']

/-- TINV_DONE drops what the invalidation covers, and starts the next or sets DONE. -/
theorem tinvDone_runs (hbusy : s.flag F.memTinvStDone = false) : runsTo .tinvDone s fun t =>
    (∀ e, e ∈ t.mem.tlb ↔ e ∈ s.mem.tlb ∧ tinvHits s.mem.tinvNow.toNat e = false) ∧ t.mem.hbm = s.mem.hbm ∧
    (s.mem.tinvNext = [] → t.flag F.memTinvStDone = true) ∧
    ∀ v r, s.mem.tinvNext = v :: r → t.mem.tinvNow = v ∧ t.mem.tinvNext = r ∧ t.flag F.memTinvStDone = false := by
  cases hnext : s.mem.tinvNext with
  | nil =>
    refine runsTo_of_exec (o := execTinvDone) (t := ({ s with mem.tlb := s.tlbLeft } : State).setB F.memTinvStDone true)
      rfl (work_left s _ hworks) (by simp only [hbusy, hnext]; rfl) rfl ⟨s.mem_tlbLeft, rfl, fun _ => ?_, nofun⟩
    exact State.flag_setB _ F.memTinvStDone true (by decide)
  | cons v r =>
    refine runsTo_of_exec (o := execTinvDone) (t := { s with mem.tlb := s.tlbLeft, mem.tinvNow := v, mem.tinvNext := r })
      rfl (work_left s _ hworks) (by simp only [hbusy, hnext]; rfl) rfl ⟨s.mem_tlbLeft, rfl, nofun, ?_⟩
    rintro _ _ ⟨⟩
    exact ⟨rfl, rfl, hbusy⟩

end

/-- Settles O23: each command's work comes to one state, whose tables and fields are read off key by key. -/
theorem waysSetsAndInvalidations : Obligations.WaysSetsAndInvalidations := by
  refine ⟨fun k w v s hworks hup hrun => cmWayWrite_runs hworks hup hrun,
    fun k w s hworks hzero => wayClearDone_runs hworks hzero, fun n v s u hworks hup hfields hu => ?_,
    fun n s hworks hclr => setClearDone_runs hworks hclr,
    fun v s hworks hup hready => memCfgWrite_runs hworks hup hready,
    fun v s hworks hup hfields => memTinv_runs hworks hup hfields, fun s hworks hbusy => tinvDone_runs hworks hbusy⟩
  subst hu
  exact ⟨isDescWrite_validates hworks hup hfields, isDescWrite_rejects hworks hup hfields,
    isDescWrite_retires hworks hup hfields⟩

end Sys2Proof.Machine

namespace Sys2Proof.Machine

/-! ### Writes to protected pages (05 R133, R134) -/

section
variable (s : State) (x k : Nat)

/-- A write that meets a protected page asks for its copy, and no more. -/
theorem State.touch_shape : ∃ c, s.touch x k = { s with res.ctx := c } := by
  unfold State.touch
  dsimp only
  split <;> exact ⟨_, rfl⟩

theorem State.touch_copying (h : tget false (s.resc x).snap.cleared k = false) :
    tget false ((s.touch x k).resc x).snap.copying k = true := by
  have hcleared : tget false (tget {} s.res.ctx x).snap.cleared k = false := h
  simp [State.touch, hcleared, State.resc]

end

section
variable {x : Fin 256} {u : Fin 36} {a : BitVec 48} {bs : List Byte} {s v : State}

/-- PROTECTED_PAGE_WRITE of a protected page, with a staging page free, waits for the copy. -/
theorem protectedPageWrite_waits {y k : Nat} (hworks : s.works = true)
    (h : (translate u.val x.val a.toNat true).go s = (.error (.touch y k), v)) (hfree : s.stgFree y = true) :
    runsTo (.protectedPageWrite x u a bs) s fun t =>
      t = { s with mem.wpWaits := t.mem.wpWaits, res.ctx := t.res.ctx } ∧
      t.mem.wpWaits = s.mem.wpWaits ++ [⟨y, u.val, a.toNat, bs⟩] ∧
      (tget false (s.resc y).snap.cleared k = false → tget false (t.resc y).snap.copying k = true) := by
  obtain ⟨c, htouch⟩ := s.touch_shape y k
  have hfree' : (s.postWait y k u.val a.toNat bs).stgFree y = true := by rw [State.postWait, htouch]; exact hfree
  refine runsTo_of_exec (o := execProtectedPageWrite x u a bs) (t := s.postWait y k u.val a.toNat bs) rfl
    (work_left s _ hworks) (by simp only [h, hfree', Bool.or_true, if_true]) ?_ ⟨?_, ?_, s.touch_copying y k⟩
  · rw [State.postWait, htouch]
    rfl
  · rw [State.postWait, htouch]
  · rw [State.postWait, htouch]

/-- A page that may be written is left alone. -/
theorem protectedPageWrite_open {g : Tgt} (hworks : s.works = true)
    (h : (translate u.val x.val a.toNat true).go s = (.ok g, v)) : exec (.protectedPageWrite x u a bs) s = .next s := by
  have hexec : execProtectedPageWrite x u a bs s = .next (left s s) :=
    (work_left s _ hworks).trans (by simp only [h])
  exact hexec

end

/-! ### First-touch copies (18 R465, R466) -/

theorem not_readKey_resFtc (x : Nat) : ¬ readKey x F.resFtc.key := by
  rintro (⟨n, h⟩ | h)
  · simp only [Fld.key, F.resFtc, F.hbmRdbytes, F.hbmUe, F.hbmUeaddrAddr, F.hbmCe, F.plCtr0, F.plStatusKeysel, F.xdrop,
      dieOff] at h
    omega
  · simp only [Fld.key, F.resFtc, F.accHbm, F.accPuell] at h
    omega

/-- From `s` to `t` no snapshot and no count of first-touch copies has changed. -/
structure CopyKept (s t : State) : Prop where
  ctx : t.res.ctx = s.res.ctx
  ftc : t.getF F.resFtc = s.getF F.resFtc

section
variable {α : Type} {x : Nat} {s t u : State}

theorem CopyKept.refl (s : State) : CopyKept s s := ⟨rfl, rfl⟩

theorem CopyKept.setF (h : CopyKept s t) {f : Fld} (v : Nat) (hf : F.resFtc.key ≠ f.key) : CopyKept s (t.setF f v) :=
  ⟨h.ctx, (State.getF_setF_ne t v hf).trans h.ftc⟩

theorem CopyKept.of_fields (h : CopyKept s t) (ctx : u.res.ctx = t.res.ctx := by rfl) (regs : u.regs = t.regs := by rfl) :
    CopyKept s u := ⟨ctx.trans h.ctx, by rw [← h.ftc, State.getF, regs]; rfl⟩

/-- What only reads keeps the snapshots. -/
theorem Keeps.copyKept {m : M α} (h : ∀ t, Keeps (ReadStep x t) m) : Keeps (CopyKept s) m := by
  refine ⟨fun t ht => ?_⟩
  have hread := (h t).run t (ReadStep.refl t)
  exact ⟨by rw [hread.frame]; exact ht.ctx, (hread.field _ (not_readKey_resFtc x)).trans ht.ftc⟩

/-! Reads of a page -/

theorem leafAt_reads (y cva : Nat) : Keeps (ReadStep x s) (leafAt y cva) := by
  refine Keeps.getS.bind fun t => ?_
  split
  · exact tFault_keeps _
  · refine (ptEntry_reads _ _ _).bind fun _ => Keeps.guard (tFault_keeps _) fun _ => (ptEntry_reads _ _ _).bind fun _ => ?_
    exact Keeps.guard (tFault_keeps _) fun _ => Keeps.pure _

theorem pageTgt_reads (y : Nat) (r : Region) (p : Nat) : Keeps (ReadStep x s) (pageTgt y r p) := by
  refine Keeps.ite (Keeps.pure _) ?_
  exact Keeps.getS.bind fun _ => (leafAt_reads _ _).bind fun _ => (hbmRead_reads (.inl rfl) _ _ _).bind fun _ => Keeps.pure _

theorem pageDie_reads (y : Nat) (r : Region) (p : Nat) : Keeps (ReadStep x s) (pageDie y r p) := by
  refine (pageTgt_reads _ _ _).bind fun tgt => ?_
  cases tgt with
  | hbm set off => exact Keeps.getS.bind fun _ => Keeps.pure _
  | comp a => exact Keeps.pure _

theorem compAsk_reads (d a n : Nat) : Keeps (ReadStep x s) (compAsk d (some x) a n) :=
  Keeps.forM fun _ => (compLink_reads _ _ _).bind fun _ => Keeps.setS fun _ h => h.plRequest _ _ _ _ _

theorem setReach_reads (set : Nat) : Keeps (ReadStep x s) (setReach x set) :=
  Keeps.getS.bind fun _ => Keeps.forM fun _ => hbmReach_reads _ _

theorem rangeCheck_reads (set o len : Nat) : Keeps (ReadStep x s) (rangeCheck x set o len) := by
  refine Keeps.getS.bind fun t => ?_
  dsimp only
  split
  · exact hbmUe_reads _ _
  · exact Keeps.setS fun u h => h.foldl (fun _ _ h => h.hbmCorrect _) _

/-- Bytes moved from a set are counted at its stacks and charged to the context. -/
theorem ReadStep.moveSet (h : ReadStep x s t) (set n : Nat) : ReadStep x s (t.moveSet x set n false) :=
  (h.foldl (fun _ _ h => h.incF _ (.inl ⟨_, .inl rfl⟩)) _).chargeHbm (.inr rfl) n

theorem pageBytes_reads (r : Region) (p : Nat) : Keeps (ReadStep x s) (pageBytes x r p) := by
  refine (pageTgt_reads _ _ _).bind fun tgt => ?_
  cases tgt with
  | hbm set off =>
    exact (setReach_reads _).bind fun _ => (rangeCheck_reads _ _ _).bind fun _ =>
      (Keeps.setS fun _ h => h.moveSet _ _).bind fun _ => Keeps.getS.bind fun _ => Keeps.pure _
  | comp a => exact (compAsk_reads _ _ _).bind fun _ => Keeps.getS.bind fun _ => Keeps.pure _

/-! The protection of a page cleared -/

theorem CopyKept.burstPut (h : CopyKept s t) (k m : Nat) (part : List Byte) : CopyKept s (t.burstPut none k m part) := by
  have hcorrect : CopyKept s (if m = 32 then t else t.hbmCorrect k) := by
    unfold State.hbmCorrect
    split
    · exact h
    · split
      · have hcount : CopyKept s (t.incF (F.hbmCe (hbmStack k)) 1) :=
          h.setF _ (by simp only [Fld.key, F.resFtc, F.hbmCe, dieOff]; omega)
        exact hcount.of_fields
      · exact h
  have hcount : CopyKept s ((if m = 32 then t else t.hbmCorrect k).incF (F.hbmWrbytes (hbmStack k)) m) :=
    hcorrect.setF _ (by simp only [Fld.key, F.resFtc, F.hbmWrbytes, dieOff]; omega)
  exact hcount.of_fields

theorem hbmWrite_copyKept (n o : Nat) (bs : List Byte) : Keeps (CopyKept s) (hbmWrite none n o bs) := by
  rw [hbmWrite_eq]
  exact Keeps.forM fun p => Keeps.getS.bind fun _ => (Keeps.copyKept (x := 0) fun _ => hbmReach_reads _ _).bind fun _ =>
    Keeps.getS.bind fun _ => Keeps.guard (Keeps.copyKept (x := 0) fun _ => hbmUe_reads _ _) fun _ =>
      Keeps.setS fun t h => h.burstPut _ _ _

theorem setLeaf_copyKept (y cva : Nat) (on : Bool) : Keeps (CopyKept s) (setLeaf y cva on) := by
  refine Keeps.getS.bind fun _ => (Keeps.copyKept (x := 0) fun _ => leafAt_reads _ _).bind fun _ =>
    (Keeps.copyKept (x := 0) fun _ => hbmRead_reads (.inl rfl) _ _ _).bind fun _ => (hbmWrite_copyKept _ _ _).bind fun _ => ?_
  exact Keeps.setS fun _ h => h.of_fields

theorem protectPage_copyKept (y : Nat) (r : Region) (p : Nat) (on : Bool) : Keeps (CopyKept s) (protectPage y r p on) :=
  Keeps.ite (Keeps.setS fun _ h => h.of_fields) (setLeaf_copyKept _ _ _)

end

/-- The state behind a first-touch copy whose page has been read as `data` and unprotected. -/
def State.pageCopied (s : State) (x i p d : Nat) (data : Bytes) : State :=
  (((s.setSnap x { (s.resc x).snap with
      regions := lmod (s.resc x).snap.regions i fun r => { r with touched := r.touched + 1 }
      cleared := tput false (s.resc x).snap.cleared (pageKey i p) true
      copying := tput false (s.resc x).snap.copying (pageKey i p) false
      staged := (s.resc x).snap.staged ++ [⟨i, p, d, data⟩] }).moveSet x (s.stgSet d) pageSize true).stgTake x 1).incF
    F.resFtc 1

/-- A copy that completes has left the snapshots alone up to its last step. -/
theorem copyPage_ok {x i p : Nat} {s u : State} (h : (copyPage x i p true).go s = (.ok (), u)) :
    ∃ v d data, CopyKept s v ∧ u = v.pageCopied x i p d data := by
  obtain ⟨_, _, hs, h⟩ := M.go_bind_ok_iff.1 h
  cases hs
  obtain ⟨d, v, hdie, h⟩ := M.go_bind_ok_iff.1 h
  obtain ⟨data, w, hbytes, h⟩ := M.go_bind_ok_iff.1 h
  obtain ⟨_, z, hclear, h⟩ := M.go_bind_ok_iff.1 h
  have hz : CopyKept s z := (protectPage_copyKept _ _ _ _).ok hclear <|
    (Keeps.copyKept fun _ => pageBytes_reads _ _).ok hbytes <|
    (Keeps.copyKept (x := 0) fun _ => pageDie_reads _ _ _).ok hdie (CopyKept.refl s)
  cases h
  exact ⟨z, d, data, hz, rfl⟩

/-- From `s` to `t` registers changed, but not the count of first-touch copies. -/
structure RegsOnly (s t : State) : Prop where
  frame : t = { s with regs := t.regs }
  ftc : t.getF F.resFtc = s.getF F.resFtc

section
variable {s t : State} {x i p d : Nat} {data : Bytes}

theorem RegsOnly.refl (s : State) : RegsOnly s s := ⟨rfl, rfl⟩

theorem RegsOnly.incF (h : RegsOnly s t) {f : Fld} (n : Nat) (hf : F.resFtc.key ≠ f.key) : RegsOnly s (t.incF f n) :=
  ⟨by rw [State.incF, State.setF, h.frame], (State.getF_incF_ne t n hf).trans h.ftc⟩

theorem RegsOnly.moveSet (x : Fin 256) (s : State) (set n : Nat) (write : Bool) :
    RegsOnly s (s.moveSet x.val set n write) := by
  refine RegsOnly.incF (f := F.accHbm x.val) ?_ n (by simp only [Fld.key, F.resFtc, F.accHbm]; omega)
  refine List.foldlRecOn _ _ (RegsOnly.refl s) fun t ht i _ => ht.incF _ ?_
  split
  · simp only [Fld.key, F.resFtc, F.hbmWrbytes, dieOff]; omega
  · simp only [Fld.key, F.resFtc, F.hbmRdbytes, dieOff]; omega

theorem RegsOnly.stgTake (h : RegsOnly s t) (x n : Nat) : RegsOnly s (t.stgTake x n) :=
  (h.incF n (by decide)).incF (f := F.resStgHeld x) n (by simp only [Fld.key, F.resFtc, F.resStgHeld]; omega)

/-- A copy counts itself, and its page is staged and no longer copied. -/
theorem State.pageCopied_kept (s : State) (x : Fin 256) (i p d : Nat) (data : Bytes) :
    ((s.pageCopied x.val i p d data).resc x.val).snap = { (s.resc x.val).snap with
      regions := lmod (s.resc x.val).snap.regions i fun r => { r with touched := r.touched + 1 }
      cleared := tput false (s.resc x.val).snap.cleared (pageKey i p) true
      copying := tput false (s.resc x.val).snap.copying (pageKey i p) false
      staged := (s.resc x.val).snap.staged ++ [⟨i, p, d, data⟩] } ∧
    counted s (s.pageCopied x.val i p d data) F.resFtc 1 := by
  unfold State.pageCopied
  generalize hsn : ({ (s.resc x.val).snap with
      regions := lmod (s.resc x.val).snap.regions i fun r => { r with touched := r.touched + 1 }
      cleared := tput false (s.resc x.val).snap.cleared (pageKey i p) true
      copying := tput false (s.resc x.val).snap.copying (pageKey i p) false
      staged := (s.resc x.val).snap.staged ++ [⟨i, p, d, data⟩] } : Snap) = sn
  have hregs := (RegsOnly.moveSet x (s.setSnap x.val sn) (s.stgSet d) pageSize true).stgTake x.val 1
  generalize (((s.setSnap x.val sn).moveSet x.val (s.stgSet d) pageSize true).stgTake x.val 1) = t at hregs
  refine ⟨?_, ?_⟩
  · rw [hregs.frame]
    exact congrArg ResCtx.snap (tget_tput_same _ _ _ _)
  · have hsame : (s.setSnap x.val sn).getF F.resFtc = s.getF F.resFtc := rfl
    rw [counted, State.getF_incF, hregs.ftc, hsame]

end

/-- Where nothing waits nothing goes on. -/
theorem State.unblocked_idle {s : State} (hw : s.mem.wpWaits = []) (hk : s.rmt.keyWait = []) (x : Nat) :
    s.unblocked x = s := by
  have hrelease : s.release x = s := by simp [State.release, State.releaseWrites, hw]
  have hredrive : ∀ d, s.redrive d = s := by
    intro d
    have hnone : s.keyWaits d = [] := by rw [State.keyWaits, hk]; rfl
    rw [State.redrive, hnone, State.setKeyWaits, hk]
    exact congrArg (fun k => ({ s with rmt.keyWait := k } : State)) hk.symm
  rw [State.unblocked, hrelease]
  exact List.foldlRecOn (motive := fun t => t = s) _ _ rfl fun t ht d _ => by rw [ht, hredrive]

section
variable {x : Fin 256} {i : Fin 64} {p : Nat} {s u : State}

/-- A copy that completes leaves its page cleared, staged and counted. -/
theorem copyPage_stages (hcopy : (copyPage x.val i.val p true).go s = (.ok (), u)) :
    tget false ((left s u).resc x.val).snap.cleared (pageKey i.val p) = true ∧
    tget false ((left s u).resc x.val).snap.copying (pageKey i.val p) = false ∧
    (∃ g, ((left s u).resc x.val).snap.staged = (s.resc x.val).snap.staged ++ [g] ∧ g.region = i.val ∧ g.page = p) ∧
    counted s (left s u) F.resFtc 1 := by
  obtain ⟨v, d, data, hkept, hu⟩ := copyPage_ok hcopy
  obtain ⟨hsnap, hcount⟩ := v.pageCopied_kept x i.val p d data
  have hresc : v.resc x.val = s.resc x.val := by rw [State.resc, State.resc, hkept.ctx]
  rw [← hu] at hsnap hcount
  have hleft : (left s u).resc x.val = u.resc x.val := rfl
  have hftc : counted s u F.resFtc 1 := by rwa [counted, ← hkept.ftc]
  rw [hleft, hsnap, ← hresc]
  exact ⟨tget_tput_same false (v.resc x.val).snap.cleared _ true, tget_tput_same false (v.resc x.val).snap.copying _ false,
    ⟨_, rfl, rfl, rfl⟩, hftc⟩

/-- FIRST_TOUCH_COPY_DONE with nothing waiting behind the copy. -/
theorem firstTouchCopyDone_exec (hworks : s.works = true) (hopen : s.snapOpen x.val = true)
    (hcopying : tget false (s.resc x.val).snap.copying (pageKey i.val p) = true) (hfree : s.stgFree x.val = true)
    (hroom : s.pageRoom x.val i.val p = true) (hcopy : (copyPage x.val i.val p true).go s = (.ok (), u))
    (hw : u.mem.wpWaits = []) (hk : u.rmt.keyWait = []) :
    execFirstTouchCopyDone x i p s = .next (left s u) := by
  refine (work_left s _ hworks).trans ?_
  simp only [hopen, hcopying, hfree, hroom, hcopy, u.unblocked_idle hw hk, Bool.not_true, Bool.or_false,
    Bool.false_eq_true, if_false]

end

/-! ### Scrubs (05 R119, R120, R122, R123) -/

/-- The first burst of HBM stack `h`. -/
def scrubBase (h : Nat) : Nat := h * 32 * pcSize / 32

/-- A burst key lies in HBM stack `h`. -/
def inScrub (h k : Nat) : Bool := decide (scrubBase h ≤ k) && decide (k < scrubBase h + 32 * pcSize / 32)

/-- What a scrub of stack `h` reads and corrects. -/
def State.scrubRead (s : State) (h : Nat) (hits : List ScrubHit) : State :=
  let soft := s.mem.softBursts.filter fun e => inScrub h e.1
  (({ s with mem.softBursts := s.mem.softBursts.filter fun e => !(soft.contains e) } : State).incF (F.hbmRdbytes h)
    (32 * pcSize)).incF (F.hbmCe h) (soft.length + (hits.filter fun f => !f.uncorrectable).length)

/-- The uncorrectable errors that a scrub finds. -/
def State.scrubFound (s : State) (h : Nat) (hits : List ScrubHit) : State :=
  (hits.filter fun f => f.uncorrectable).foldl (fun s f =>
    { s with mem.badBursts := tput false s.mem.badBursts (scrubBase h + f.addr.toNat / 32) true }) s

/-- An uncorrectable error at stack-local address `a` counted and recorded as die-class. -/
def State.scrubRecord (s : State) (h a : Nat) : State :=
  ((s.incF (F.hbmUe h) 1).setF (F.hbmUeaddrAddr h) a).record clsDie (h / 4) uHbm kUncorrectable 0 none none a

/-- The uncorrectable errors of a stack recorded. -/
def State.scrubRecords (s : State) (h : Nat) : State :=
  (s.mem.badBursts.filter fun e => inScrub h e.1).foldl (fun s e => s.scrubRecord h (32 * (e.1 - scrubBase h))) s

/-- Errors that a scrub reports of addresses within the stack. -/
def scrubHits (found : List ScrubHit) : List ScrubHit :=
  found.filter fun f => decide (f.addr.toNat / 32 < 32 * pcSize / 32)

/-- The whole scrub. -/
def State.scrubbed (s : State) (h : Nat) (found : List ScrubHit) : State :=
  ((s.scrubRead h (scrubHits found)).scrubFound h (scrubHits found)).scrubRecords h

/-- From `s` to `t` errors of stack `h` have been noted and recorded. -/
structure Scrubbed (h : Nat) (s t : State) : Prop where
  frame : t = { s with regs := t.regs, err := t.err, mem.badBursts := t.mem.badBursts }
  field : ∀ f : Fld, f.key ≠ (F.hbmUe h).key → f.key ≠ (F.hbmUeaddrAddr h).key → f.key ≠ (F.dieSeqSeq (h / 4)).key →
    t.getF f = s.getF f

section
variable {s t : State} {h : Nat}

theorem Scrubbed.refl (h : Nat) (s : State) : Scrubbed h s s := ⟨rfl, fun _ _ _ _ => rfl⟩

theorem Scrubbed.found (hits : List ScrubHit) (s : State) : Scrubbed h s (s.scrubFound h hits) :=
  List.foldlRecOn _ _ (Scrubbed.refl h s) fun _ ht _ _ => ⟨by rw [ht.frame], ht.field⟩

theorem Scrubbed.scrubRecord (ht : Scrubbed h s t) (a : Nat) : Scrubbed h s (t.scrubRecord h a) := by
  refine ⟨by rw [State.scrubRecord, State.record, State.incF, State.setF, State.incF, State.setF, State.setF, ht.frame],
    fun f hue haddr hseq => ?_⟩
  rw [State.scrubRecord, State.record_getF _ _ _ _ _ _ _ _ _ hseq, State.getF_setF_ne _ _ haddr,
    State.getF_incF_ne _ _ hue, ht.field f hue haddr hseq]

theorem Scrubbed.scrubRecords (ht : Scrubbed h s t) : Scrubbed h s (t.scrubRecords h) :=
  List.foldlRecOn _ _ ht fun _ hv _ _ => hv.scrubRecord _

end

section
variable (s : State) (h : Nat)

theorem State.incF_incF_shape (b : Tbl Bool) (f g : Fld) (n m : Nat) :
    ∃ r, (({ s with mem.softBursts := b } : State).incF f n).incF g m = { s with regs := r, mem.softBursts := b } :=
  ⟨_, rfl⟩

theorem State.scrubRead_shape (hits : List ScrubHit) :
    ∃ r b, s.scrubRead h hits = { s with regs := r, mem.softBursts := b } := by
  obtain ⟨r, hr⟩ := State.incF_incF_shape s _ (F.hbmRdbytes h) (F.hbmCe h) _ _
  exact ⟨r, _, hr⟩

/-- What a scrub reads it counts, and what it corrects. -/
theorem State.scrubRead_counted (hits : List ScrubHit) :
    counted s (s.scrubRead h hits) (F.hbmRdbytes h) (32 * pcSize) ∧
    (s.mem.softBursts = [] → counted s (s.scrubRead h hits) (F.hbmCe h) (hits.filter fun f => !f.uncorrectable).length) := by
  have hne : (F.hbmRdbytes h).key ≠ (F.hbmCe h).key := by simp only [Fld.key, F.hbmRdbytes, F.hbmCe]; omega
  have hsame : ∀ (t : Tbl Bool) (f : Fld), ({ s with mem.softBursts := t } : State).getF f = s.getF f := fun _ _ => rfl
  refine ⟨?_, fun hsoft => ?_⟩
  · rw [counted, State.scrubRead, State.getF_incF_ne _ _ hne, State.getF_incF, hsame]
  · have hnone : (s.mem.softBursts.filter fun e => inScrub h e.1).length = 0 := by rw [hsoft]; rfl
    rw [counted, State.scrubRead, State.getF_incF, State.getF_incF_ne _ _ hne.symm, hnone, Nat.zero_add, hsame]

theorem State.scrubRead_ue (hits : List ScrubHit) : (s.scrubRead h hits).getF (F.hbmUe h) = s.getF (F.hbmUe h) := by
  have hrd : (F.hbmUe h).key ≠ (F.hbmRdbytes h).key := by simp only [Fld.key, F.hbmUe, F.hbmRdbytes]; omega
  have hce : (F.hbmUe h).key ≠ (F.hbmCe h).key := by simp only [Fld.key, F.hbmUe, F.hbmCe]; omega
  exact (State.getF_incF_ne _ _ hce).trans (State.getF_incF_ne _ _ hrd)

/-- An error recorded is counted, its address kept, and the record is die-class. -/
theorem State.scrubRecord_kept (a : Nat) : counted s (s.scrubRecord h a) (F.hbmUe h) 1 ∧
    (s.scrubRecord h a).getF (F.hbmUeaddrAddr h) = a % 2 ^ 40 ∧
    ∃ r, (s.scrubRecord h a).err.recQ = s.err.recQ ++ [r] ∧ r.cls = clsDie ∧ r.die = h / 4 ∧
      r.unit = uHbm ∧ r.kind = kUncorrectable := by
  have hseq : (F.hbmUe h).key ≠ (F.dieSeqSeq (h / 4)).key ∧ (F.hbmUeaddrAddr h).key ≠ (F.dieSeqSeq (h / 4)).key := by
    simp only [Fld.key, F.hbmUe, F.hbmUeaddrAddr, F.dieSeqSeq]; omega
  have hne : (F.hbmUe h).key ≠ (F.hbmUeaddrAddr h).key := by simp only [Fld.key, F.hbmUe, F.hbmUeaddrAddr]; omega
  refine ⟨?_, ?_, _, rfl, rfl, rfl, rfl, rfl⟩
  · rw [counted, State.scrubRecord, State.record_getF _ _ _ _ _ _ _ _ _ hseq.1, State.getF_setF_ne _ _ hne, State.getF_incF]
  · have hw : (F.hbmUeaddrAddr h).w = 40 := rfl
    rw [State.scrubRecord, State.record_getF _ _ _ _ _ _ _ _ _ hseq.2, State.getF_setF, hw]

variable {s}

/-- A stack with one bad burst has that one recorded. -/
theorem State.scrubRecords_one {q : Nat} (hq : q < 32 * pcSize / 32) (hbad : s.mem.badBursts = [(scrubBase h + q, true)]) :
    s.scrubRecords h = s.scrubRecord h (32 * q) := by
  have hin : inScrub h (scrubBase h + q) = true := by
    rw [inScrub, Bool.and_eq_true, decide_eq_true_eq, decide_eq_true_eq]
    exact ⟨Nat.le_add_right _ _, Nat.add_lt_add_left hq _⟩
  simp only [State.scrubRecords, hbad, List.filter_cons, hin, if_true, List.filter_nil, List.foldl_cons, List.foldl_nil,
    Nat.add_sub_cancel_left]

theorem State.scrubFound_one (a : BitVec 40) (hbad : s.mem.badBursts = []) :
    s.scrubFound h [⟨a, true⟩] = { s with mem.badBursts := [(scrubBase h + a.toNat / 32, true)] } := by
  unfold State.scrubFound
  generalize scrubBase h = b
  simp only [List.filter_cons, if_true, List.filter_nil, List.foldl_cons, List.foldl_nil, hbad]
  rfl

/-- A scrub that finds one uncorrectable error where none was known records that one. -/
theorem State.scrubbed_one {a : BitVec 40} (hbad : s.mem.badBursts = []) (ha : a.toNat < 32 * pcSize) :
    counted s (s.scrubbed h [⟨a, true⟩]) (F.hbmUe h) 1 ∧
    (s.scrubbed h [⟨a, true⟩]).getF (F.hbmUeaddrAddr h) = a.toNat / 32 * 32 ∧
    ∃ r, (s.scrubbed h [⟨a, true⟩]).err.recQ = s.err.recQ ++ [r] ∧ r.cls = clsDie ∧ r.die = h / 4 ∧ r.unit = uHbm ∧
      r.kind = kUncorrectable := by
  have hin : a.toNat / 32 < 32 * pcSize / 32 := by unfold pcSize at *; omega
  have hhits : scrubHits [⟨a, true⟩] = [⟨a, true⟩] := List.filter_cons_of_pos (decide_eq_true hin)
  obtain ⟨r, b, hshape⟩ := s.scrubRead_shape h [⟨a, true⟩]
  have hue := s.scrubRead_ue h [⟨a, true⟩]
  rw [State.scrubbed, hhits]
  obtain ⟨u, hu⟩ : ∃ u, s.scrubRead h [⟨a, true⟩] = u := ⟨_, rfl⟩
  rw [hu] at hshape hue ⊢
  have hbad' : u.mem.badBursts = [] := by rw [hshape]; exact hbad
  have herr : u.err = s.err := by rw [hshape]
  have hfound := State.scrubFound_one h a hbad'
  have hsame : ∀ (b : Tbl Bool) (f : Fld), ({ u with mem.badBursts := b } : State).getF f = u.getF f := fun _ _ => rfl
  have hue' : (u.scrubFound h [⟨a, true⟩]).getF (F.hbmUe h) = s.getF (F.hbmUe h) := by rw [hfound, hsame, hue]
  have herr' : (u.scrubFound h [⟨a, true⟩]).err = s.err := by rw [hfound, ← herr]
  have hnew : (u.scrubFound h [⟨a, true⟩]).mem.badBursts = [(scrubBase h + a.toNat / 32, true)] := by rw [hfound]
  obtain ⟨v, hv⟩ : ∃ v, u.scrubFound h [⟨a, true⟩] = v := ⟨_, rfl⟩
  rw [hv] at hue' herr' hnew ⊢
  rw [State.scrubRecords_one h hin hnew]
  obtain ⟨hcount, haddr, hrec⟩ := v.scrubRecord_kept h (32 * (a.toNat / 32))
  have hsize := a.isLt
  rw [counted, hue'] at hcount
  exact ⟨hcount, by rw [haddr]; omega, herr' ▸ hrec⟩

end

section
variable {h : Fin 16} {found : List ScrubHit} {s : State} (hworks : s.works = true)
  (hon : s.getF (F.hbmScrubHours h.val) ≠ 0) (htrained : s.flag (F.hbmStatusTrained h.val) = true)
include hworks hon htrained

theorem hbmScrub_exec : execHbmScrub h found s = .next (left s (s.scrubbed h.val found)) := by
  refine (work_left s _ hworks).trans ?_
  simp only [htrained, decide_eq_false hon, Bool.not_true, Bool.or_false, Bool.false_eq_true, if_false]
  rfl

/-- HBM_SCRUB of a trained stack without known uncorrectable errors. -/
theorem hbmScrub_runs (hbad : s.mem.badBursts = []) : runsTo (.hbmScrub h found) s fun t =>
      t = { s with regs := t.regs, err := t.err, mem.badBursts := t.mem.badBursts, mem.softBursts := t.mem.softBursts } ∧
      counted s t (F.hbmRdbytes h.val) (32 * pcSize) ∧
      (s.mem.softBursts = [] → counted s t (F.hbmCe h.val)
        (found.filter fun f => decide (f.addr.toNat / 32 < 32 * pcSize / 32) && !f.uncorrectable).length) ∧
      ∀ a : BitVec 40, found = [⟨a, true⟩] → a.toNat < 32 * pcSize →
        counted s t (F.hbmUe h.val) 1 ∧ t.getF (F.hbmUeaddrAddr h.val) = a.toNat / 32 * 32 ∧
        ∃ r, t.err.recQ = s.err.recQ ++ [r] ∧ r.cls = clsDie ∧ r.die = h.val / 4 ∧ r.unit = uHbm ∧
          r.kind = kUncorrectable := by
  have hscrubbed : Scrubbed h.val (s.scrubRead h.val (scrubHits found)) (s.scrubbed h.val found) :=
    (Scrubbed.found (scrubHits found) _).scrubRecords
  have hkeys : ∀ f ∈ [F.hbmRdbytes h.val, F.hbmCe h.val], f.key ≠ (F.hbmUe h.val).key ∧
      f.key ≠ (F.hbmUeaddrAddr h.val).key ∧ f.key ≠ (F.dieSeqSeq (h.val / 4)).key := by
    simp only [List.forall_mem_cons, Fld.key, F.hbmRdbytes, F.hbmCe, F.hbmUe, F.hbmUeaddrAddr, F.dieSeqSeq]
    simp
    omega
  simp only [List.forall_mem_cons] at hkeys
  obtain ⟨⟨hru, hra, hrs⟩, ⟨hcu, hca, hcs⟩, -⟩ := hkeys
  obtain ⟨hrd, hce⟩ := s.scrubRead_counted h.val (scrubHits found)
  obtain ⟨r, b, hshape⟩ := s.scrubRead_shape h.val (scrubHits found)
  have hone : ∀ a : BitVec 40, found = [⟨a, true⟩] → _ := fun a hfound ha =>
    hfound ▸ State.scrubbed_one h.val (a := a) hbad ha
  have hexec := hbmScrub_exec hworks hon htrained (found := found)
  generalize s.scrubbed h.val found = t at *
  generalize s.scrubRead h.val (scrubHits found) = u at *
  have hframe : t = { s with regs := t.regs, err := t.err, mem.badBursts := t.mem.badBursts, mem.softBursts := b } := by
    rw [hscrubbed.frame, hshape]
  refine runsTo_of_exec rfl hexec rfl (by rw [hframe]; rfl) ⟨by rw [hframe], ?_, fun hsoft => ?_, hone⟩
  · rw [counted, hscrubbed.field _ hru hra hrs]
    exact hrd
  · rw [counted, hscrubbed.field _ hcu hca hcs, hce hsoft, scrubHits, List.filter_filter]
    simp only [Bool.and_comm]

end

/-- Settles O24: a write that meets protection waits; a copy leaves the snapshot to its last step, which stages the page;
a scrub is a count and its records; a scrub that is off, and a refresh, change nothing. -/
theorem protectedPagesScrubAndRefresh : Obligations.ProtectedPagesScrubAndRefresh := by
  refine ⟨fun x u a bs s v hworks => ⟨fun y k h hfree => protectedPageWrite_waits hworks h hfree,
      fun g h => protectedPageWrite_open hworks h⟩, fun x i p s u hworks hopen hcopying hfree hroom hcopy hw hk =>
      ⟨left s u, firstTouchCopyDone_exec hworks hopen hcopying hfree hroom hcopy hw hk, copyPage_stages hcopy⟩,
    fun h found s => hbmScrub_runs, fun h found s hoff => ?_, fun h c s => ?_⟩
  · have hexec : execHbmScrub h found s = .next s := work_id (by simp only [hoff]; rfl)
    exact hexec
  · have hexec : execHbmRefresh h c s = .next s := work_id rfl
    exact hexec

end Sys2Proof.Machine

namespace Sys2Proof.Machine

/-! ### What a mover does with its command (05 R138, R139) -/

/-- Companion lines that a command reads. -/
def State.mvNeed (s : State) (g : Nat) (x : Inst) (c : MvCmd) : List Nat :=
  if c.ssp = 0 ∧ c.mop ≤ 2 then s.compLines ⟨g, x, c.na⟩ c.ranges else []

/-- A command whose last piece is made. -/
def State.mvMade (v s : State) (g i : Nat) (x : Inst) (c : MvCmd) (d : Cvc) (step : Nat) (k : Census) : State :=
  let t : State := { v.mvDone g i with
    puell.inHand := v.puell.inHand.filter fun h => !(h.1 == g && (s.mvNeed g x c).contains h.2) }
  if c.reports d then t.report x.ctx c.tslot step k else t

/-- Command `i` of core `g` is a legal one of operation `mop` that may run now: R139, R117. -/
structure MvReady (s : State) (g i mop : Nat) (x : Inst) (w : MvWork) (c : MvCmd) (d : Cvc) : Prop where
  running : s.running g = some x
  cmd : (s.core g).cmds[i]? = some w
  decoded : mvDecode w.cmd = c
  op : c.mop = mop
  defined : mop ≠ 0 ∧ mop ≤ 5
  conversion : c.dconv = some d
  legal : c.illegal d = false
  bound : c.bindBad s x d = false
  free : c.conv = true → s.suppressed x.ctx = false
  lines : c.ssp = 0 → c.mop ≤ 2 → ∀ a ∈ s.compLines ⟨g, x, c.na⟩ c.ranges, (g, a) ∈ s.puell.inHand

/-- The pieces of a command whose stream is `q`. -/
def MvCmd.plan (c : MvCmd) (g : Nat) (x : Inst) (d : Cvc) (q : List W32 × Nat) : List (M Census) :=
  c.pieces ⟨g, x, c.na⟩ ⟨d, q.1.getD 0 0, q.1.getD 1 0, q.2⟩

/-- What comes of a command whose next pieces end so. -/
def State.mvAfter (s : State) (g i : Nat) (x : Inst) (c : MvCmd) (d : Cvc) (q : List W32 × Nat) :
    Option Stop × MvWork × State → State
  | (some e, z, v) => v.mvStop g i x z e
  | (none, z, v) =>
    if z.made < (c.plan g x d q).length then v.mvStop g i x z .wait else v.mvMade s g i x c d q.2 z.census

section
variable {g i mop : Nat} {s u v : State} {x : Inst} {w z : MvWork} {c : MvCmd} {d : Cvc} {q : List W32 × Nat}

/-- A command that may run has the companion lines it reads. -/
theorem MvReady.noneMissing (h : MvReady s g i mop x w c d) : (s.mvNeed g x c).filter
    (fun a => !(s.puell.inHand.contains (g, a)) && (s.routeLink (coreDie g) a).isSome) = [] := by
  rw [List.filter_eq_nil_iff]
  intro a ha
  unfold State.mvNeed at ha
  split at ha
  case isTrue hsp =>
    simp [h.lines hsp.1 hsp.2 a ha]
  case isFalse => simp at ha

/-- A command that may run makes the next pieces of its plan; what comes of it follows from how they end. -/
theorem MvReady.mover_eq (h : MvReady s g i mop x w c d) (hbegin : s.mvBegin g x c d w = (.ok q, u)) :
    s.mover g i mop = s.mvAfter g i x c d q
      (runPieces (((c.plan g x d q).drop w.made).take (c.chunk d)) { w with stream := some q } u) := by
  have hmiss := h.noneMissing
  unfold State.mvNeed at hmiss
  obtain ⟨hrunning, hcmd, rfl, rfl, hdefined, hconversion, hlegal, hbound, hsuppressed, -⟩ := h
  have hop : ¬((mvDecode w.cmd).mop = 0 ∨ 5 < (mvDecode w.cmd).mop) := by omega
  have hfree : ((mvDecode w.cmd).conv && s.suppressed x.ctx) = false := by
    rcases hconv : (mvDecode w.cmd).conv with _ | _
    · rfl
    · rw [hsuppressed hconv]; rfl
  simp only [State.mover, hrunning, hcmd, hop, bne_self_eq_false, hconversion, hlegal, hbound, hfree, hmiss, hbegin,
    Bool.or_self, Bool.false_eq_true, List.isEmpty_nil, Bool.not_true, if_false]
  rfl

/-- Pieces add to what a command has made. -/
theorem runPieces_made (ps : List (M Census)) (w : MvWork) (s : State) : w.made ≤ (runPieces ps w s).2.1.made := by
  induction ps generalizing w s with
  | nil => exact le_rfl
  | cons m ps ih =>
    rw [runPieces]
    split
    · next k t _ => exact (Nat.le_succ _).trans (ih { w with made := w.made + 1, census := w.census.add k } t)
    · exact le_rfl

/-- A command that waits stays, with what it has made. -/
theorem State.mvStop_wait (v : State) (g i : Nat) (x : Inst) (z : MvWork) : (v.mvStop g i x z .wait).mem = v.mem ∧
    ((v.mvStop g i x z .wait).core g).cmds = lmod (v.core g).cmds i fun _ => z :=
  ⟨rfl, congrArg CoreSt.cmds (State.core_setCore _ g _)⟩

/-- A command that is made is gone, and a converting one reports. -/
theorem State.mvMade_kept (v s : State) (g i : Nat) (x : Inst) (c : MvCmd) (d : Cvc) (step : Nat) (k : Census) :
    (v.mvMade s g i x c d step k).mem = v.mem ∧
    ((v.mvMade s g i x c d step k).core g).cmds = ldrop (v.core g).cmds i ∧
    (c.reports d = false → (v.mvMade s g i x c d step k).train.reports = v.train.reports) ∧
    (c.reports d = true → ∃ p, (v.mvMade s g i x c d step k).train.reports = v.train.reports ++ [p] ∧ p.ctx = x.ctx ∧
      p.slot = c.tslot ∧ p.step = step) := by
  have hcore : ((v.mvDone g i).core g).cmds = ldrop (v.core g).cmds i := congrArg CoreSt.cmds (State.core_setCore _ g _)
  rcases hreports : c.reports d with _ | _
  · simp only [State.mvMade, hreports, Bool.false_eq_true, if_false]
    exact ⟨rfl, hcore, fun _ => rfl, (fun h => nomatch h)⟩
  · simp only [State.mvMade, hreports, if_true]
    exact ⟨rfl, hcore, (fun h => nomatch h), fun _ => ⟨_, rfl, rfl, rfl, rfl⟩⟩

/-! ### Commands that do nothing, and illegal ones (05 R139) -/

theorem State.mover_none (mop : Nat) (h : (s.core g).cmds[i]? = none) : s.mover g i mop = s := by
  unfold State.mover
  rw [h]
  cases s.running g <;> rfl

theorem State.mover_other (hrunning : s.running g = some x) (hcmd : (s.core g).cmds[i]? = some w)
    (hdefined : (mvDecode w.cmd).mop ≠ 0 ∧ (mvDecode w.cmd).mop ≤ 5) (hop : (mvDecode w.cmd).mop ≠ mop) :
    s.mover g i mop = s := by
  have hlegal : ¬((mvDecode w.cmd).mop = 0 ∨ 5 < (mvDecode w.cmd).mop) := by omega
  simp only [State.mover, hrunning, hcmd, hlegal, bne_iff_ne.2 hop, if_false, if_true]

theorem State.mover_illegal (hrunning : s.running g = some x) (hcmd : (s.core g).cmds[i]? = some w)
    (hbad : (mvDecode w.cmd).mop = 0 ∨ 5 < (mvDecode w.cmd).mop ∨ ((mvDecode w.cmd).mop = mop ∧
      ((mvDecode w.cmd).dconv = none ∨ ∃ d, (mvDecode w.cmd).dconv = some d ∧
        ((mvDecode w.cmd).illegal d = true ∨ (mvDecode w.cmd).bindBad s x d = true)))) :
    s.mover g i mop = s.coreFault g uMover kEncoding 0 g := by
  rw [← or_assoc] at hbad
  by_cases hdefined : (mvDecode w.cmd).mop = 0 ∨ 5 < (mvDecode w.cmd).mop
  · simp only [State.mover, hrunning, hcmd, hdefined, if_true]
  · obtain ⟨rfl, hbreach⟩ := hbad.resolve_left hdefined
    simp only [State.mover, hrunning, hcmd, hdefined, bne_self_eq_false, Bool.false_eq_true, if_false]
    obtain hconversion | ⟨d, hconversion, hbreach⟩ := hbreach
    · simp only [hconversion]
    · simp only [hconversion, Bool.or_eq_true_iff.2 hbreach, if_true]

/-! ### A row within the operand cache (05 R136) -/

/-- A stream without conversion begins without a change. -/
theorem State.mvBegin_plain (d : Cvc) (hconv : c.conv = false) : ∃ q, s.mvBegin g x c d w = (.ok q, s) := by
  have hcoarse : (coarseUse g uMover x [(false, c.dsrc), (false, c.ddst)]).go s = (.ok [w32One, w32One], s) := by
    have hok : coarseOk w32One = true := by decide
    refine (M.go_bind_ok (a := [(w32One, c.dsrc, 0), (w32One, c.ddst, 0)]) (t := s) rfl _).trans ?_
    simp only [List.find?_cons, List.find?_nil, hok]
    rfl
  unfold State.mvBegin
  split
  · exact ⟨_, rfl⟩
  · simp only [hconv, Bool.false_and, hcoarse]
    exact ⟨_, rfl⟩

/-- A command of one piece that completes is made at once. -/
theorem MvReady.mover_single {m : M Census} {k : Census} (h : MvReady s g i mop x w c d)
    (hbegin : s.mvBegin g x c d w = (.ok q, s)) (hmade : w.made = 0) (hplan : c.plan g x d q = [m])
    (hgo : m.go s = (.ok k, v)) : s.mover g i mop = v.mvMade s g i x c d q.2 (w.census.add k) := by
  have htake : ([m].drop w.made).take (c.chunk d) = [m] := by
    rw [hmade]
    exact List.take_of_length_le (Nat.le_max_left _ _)
  have hrun : runPieces [m] { w with stream := some q } s =
      (none, { w with stream := some q, made := w.made + 1, census := w.census.add k }, v) := by
    simp only [runPieces, hgo]
  have hall : ¬(w.made + 1 < 1) := by omega
  rw [h.mover_eq hbegin, hplan, htake, hrun]
  simp only [State.mvAfter, hplan, List.length_singleton, hall, if_false]

/-- A command that reads no companion memory and does not convert just goes when it is made. -/
theorem State.mvMade_plain (step : Nat) (k : Census) (hneed : s.mvNeed g x c = []) (hconv : c.conv = false) :
    v.mvMade s g i x c d step k = v.mvDone g i := by
  have hreports : c.reports d = false := by rw [MvCmd.reports, hconv, Bool.false_and]
  have hkept : (v.puell.inHand.filter fun h => !(h.1 == g && ([] : List Nat).contains h.2)) = v.puell.inHand :=
    List.filter_eq_self.2 fun h _ => by simp
  simp only [State.mvMade, hreports, hneed, hkept, Bool.false_eq_true, if_false]
  rfl

/-- Data written to the operand cache by a command that is then gone. -/
theorem State.mvDone_wrote {a n : Nat} {bs : List Byte} (h : softRead s u) (hlen : bs.length = n) :
    (u.ocWrite g a bs).mvDone g i = { s with mem := (u.ocWrite g a bs).mem
                                             eng.core := ((u.ocWrite g a bs).mvDone g i).eng.core } ∧
    ((u.ocWrite g a bs).mvDone g i).ocRead g a n = bs ∧ ocChanged s ((u.ocWrite g a bs).mvDone g i) g a n ∧
    ((u.ocWrite g a bs).mvDone g i).core g = { s.core g with cmds := ldrop (s.core g).cmds i } := by
  obtain ⟨soft, ce, rfl⟩ := h
  refine ⟨rfl, State.ocRead_ocWrite _ _ hlen, ?_, State.core_setCore _ g _⟩
  exact ((ocChanged_soft s g a n soft ce).trans (ocChanged_ocWrite _ g a hlen)).congr rfl

theorem ocWrite_go {a : Nat} {bs : List Byte} (h : a + bs.length ≤ ocSize) :
    (ocWrite g a bs).go s = (.ok (), s.ocWrite g a bs) := by
  unfold ocWrite check ocOk
  rw [decide_eq_true h]
  rfl

theorem ocRead_go {a n : Nat} (h : a + n ≤ ocSize) (hgood : ocGood s g a n) :
    ∃ u, softRead s u ∧ (ocRead g a n).go s = (.ok (s.ocRead g a n), u) := by
  obtain ⟨u, hgo, soft, ce, rfl⟩ := go_ocReads_of_good (l := [(a, n)]) (List.forall_mem_singleton.2 hgood)
  refine ⟨_, ⟨soft, ce, rfl⟩, ?_⟩
  unfold ocRead check ocOk
  rw [decide_eq_true h]
  exact (M.go_bind_ok (a := ()) (t := s) rfl _).trans (M.go_bind_ok hgo _)

theorem rowPieces_one {n : Nat} (hn : n ≠ 0) (hle : n ≤ 1024) : rowPieces n = [(0, n)] := by
  have hone : (n + 1023) / 1024 = 1 := by omega
  rw [rowPieces, hone]
  exact congrArg (fun k => [(0, k)]) (Nat.min_eq_right hle)

theorem MvCmd.rowlen_of_legal (h : c.illegal d = false) : c.rowlen ≠ 0 := by
  intro hzero
  simp [MvCmd.illegal, hzero] at h

end

section
variable {g : Nat} {s : State} {x : Inst} {c : MvCmd} {d : Cvc} {q : List W32 × Nat}

/-- A COPY of one unscaled row within the operand cache is one piece, a read and a write. -/
theorem MvCmd.copy_plan (hmop : c.mop = 1) (hrows : c.rows = 1) (hlen : c.rowlen ≠ 0) (hle : c.rowlen ≤ 1024) :
    c.plan g x d q = [mvPiece ⟨g, x, c.na⟩ c ⟨d, q.1.getD 0 0, q.1.getD 1 0, q.2⟩ 0 0 c.rowlen] := by
  simp only [MvCmd.plan, MvCmd.pieces, hmop, if_true, MvCmd.copyPieces, hrows, rowPieces_one hlen hle]
  rfl

theorem mvPiece_go {p : MvStream} (hscaled : c.sfmt.scaled = false) (hconv : c.conv = false) (hssp : c.ssp = 2)
    (hdsp : c.dsp = 2) (hsrc : c.saddr + c.sfmt.bytes c.rowlen ≤ ocSize)
    (hgood : ocGood s g c.saddr (c.sfmt.bytes c.rowlen)) (hdst : c.daddr + c.sfmt.bytes c.rowlen ≤ ocSize) :
    ∃ u, softRead s u ∧ (mvPiece ⟨g, x, c.na⟩ c p 0 0 c.rowlen).go s =
      (.ok {}, u.ocWrite g c.daddr (s.ocRead g c.saddr (c.sfmt.bytes c.rowlen))) := by
  obtain ⟨u, hsoft, hread⟩ := ocRead_go hsrc hgood
  refine ⟨u, hsoft, ?_⟩
  have hlen : (s.ocRead g c.saddr (c.sfmt.bytes c.rowlen)).length = c.sfmt.bytes c.rowlen := by simp [State.ocRead]
  have hwrite := ocWrite_go (s := u) (g := g) (hlen.symm ▸ hdst)
  have hoff : ∀ f, elemOff f 0 = 0 := fun f => by simp [elemOff]
  simp only [mvPiece, mvRead, mvWrite, hscaled, hconv, hssp, hdsp, hoff, Nat.zero_mul, Nat.add_zero, if_true,
    Bool.false_eq_true, if_false, Bool.not_false]
  exact (M.go_bind_ok hread _).trans ((M.go_bind_ok (a := []) (t := u) rfl _).trans (M.go_bind_ok hwrite _))

theorem Fmt.bytes_pos (f : Fmt) {n : Nat} (h : n ≠ 0) : f.bytes n ≠ 0 := by
  have hbits : 1 ≤ f.bits := by cases f <;> decide
  have hle : 1 ≤ n * f.bits := Nat.mul_pos (Nat.pos_of_ne_zero h) hbits
  unfold Fmt.bytes
  omega

/-- A FILL of one row of at most 4 KiB in the operand cache is one piece, a write. -/
theorem MvCmd.fill_plan (hmop : c.mop = 3) (hrows : c.rows = 1) (hlen : c.rowlen ≠ 0)
    (hbits : c.rowlen * c.sfmt.bits ≤ 32768) (hdsp : c.dsp = 2) (hdst : c.daddr + c.sfmt.bytes c.rowlen ≤ ocSize) :
    ∃ m, c.plan g x d q = [m] ∧
      m.go s = (.ok {}, s.ocWrite g c.daddr (fillBytes c.saddr 0 (c.sfmt.bytes c.rowlen))) := by
  have hpos := c.sfmt.bytes_pos hlen
  have hle : c.sfmt.bytes c.rowlen ≤ 4096 := by unfold Fmt.bytes; omega
  have hone : (c.sfmt.bytes c.rowlen + 4095) / 4096 = 1 := by omega
  have hmin : Nat.min 4096 (c.sfmt.bytes c.rowlen) = c.sfmt.bytes c.rowlen := Nat.min_eq_right hle
  refine ⟨do
    mvWrite ⟨g, x, c.na⟩ c.dsp c.daddr (fillBytes c.saddr 0 (c.sfmt.bytes c.rowlen))
    return {}, ?_, ?_⟩
  · simp only [MvCmd.plan, MvCmd.pieces, hmop, MvCmd.fillPieces, hrows, hone]
    simp [upTo, hmin]
  · rw [mvWrite, if_pos hdsp]
    exact M.go_bind_ok (ocWrite_go (by simpa [fillBytes, upTo] using hdst)) _

end

/-! ### The movers (05 R135 to R139) -/

/-- The commands of a mover, each with its operation. -/
def moverInstrs (g : Fin 256) (m : Fin 2) (i : Fin 8) : List (Instr × Nat) :=
  [(.copy g m i, 1), (.pack g m i, 2), (.fill g m i, 3), (.cmflush g m i, 4), (.cminv g m i, 5)]

section
variable {g : Fin 256} {m : Fin 2} {i : Fin 8} {s : State} {x : Inst}

theorem exec_mover (g : Fin 256) (m : Fin 2) (i : Fin 8) (s : State) :
    ∀ e ∈ moverInstrs g m i, exec e.1 s = work s fun s => s.mover g.val i.val e.2 := by
  simp only [moverInstrs, List.forall_mem_cons]
  exact ⟨rfl, rfl, rfl, rfl, rfl, fun _ h => nomatch h⟩

theorem moverInstrs_defined : ∀ e ∈ moverInstrs g m i, e.2 ≠ 0 ∧ e.2 ≤ 5 := by
  simp [moverInstrs]

variable (hworks : s.works = true)
include hworks

/-- What a mover leaves is what its command leaves. -/
theorem mover_runs {e : Instr × Nat} {t : State} {P : State → Prop} (he : e ∈ moverInstrs g m i)
    (ht : s.mover g.val i.val e.2 = t) (hP : P (left s t)) : runsTo e.1 s P :=
  ⟨left s t, by rw [exec_mover g m i s e he, work_left s _ hworks, ht], hP⟩

/-- Pieces made, or still to be made. -/
theorem mover_pieces {e : Instr × Nat} (he : e ∈ moverInstrs g m i) {w z : MvWork} {c : MvCmd} {d : Cvc}
    {q : List W32 × Nat} {r : Option Stop} {u v : State} (h : MvReady s g.val i.val e.2 x w c d)
    (hbegin : s.mvBegin g.val x c d w = (.ok q, u))
    (hrun : runPieces (((c.plan g.val x d q).drop w.made).take (c.chunk d)) { w with stream := some q } u = (r, z, v)) :
    (r = none → (c.plan g.val x d q).length ≤ z.made → runsTo e.1 s fun t => t.mem = v.mem ∧
      (t.core g.val).cmds = ldrop (v.core g.val).cmds i.val ∧
      (c.reports d = false → t.train.reports = v.train.reports) ∧
      (c.reports d = true → ∃ p, t.train.reports = v.train.reports ++ [p] ∧ p.ctx = x.ctx ∧ p.slot = c.tslot ∧
        p.step = q.2)) ∧
    ((r = none ∧ z.made < (c.plan g.val x d q).length) ∨ r = some .wait → runsTo e.1 s fun t => t.mem = v.mem ∧
      w.made ≤ z.made ∧ (t.core g.val).cmds = lmod (v.core g.val).cmds i.val fun _ => z) := by
  have heq := h.mover_eq hbegin
  have hmade : w.made ≤ z.made := (congrArg (fun a => a.2.1.made) hrun).subst
    (motive := fun k => w.made ≤ k) (runPieces_made _ { w with stream := some q } u)
  rw [hrun] at heq
  obtain ⟨hmem, hcmds⟩ := v.mvStop_wait g.val i.val x z
  refine ⟨fun hr hall => ?_, fun hr => ?_⟩
  · subst hr
    rw [State.mvAfter, if_neg (Nat.not_lt.2 hall)] at heq
    exact mover_runs hworks he heq (v.mvMade_kept s g.val i.val x c d q.2 z.census)
  · have hwait : s.mover g.val i.val e.2 = v.mvStop g.val i.val x z .wait := by
      rcases hr with ⟨rfl, hmore⟩ | rfl
      · rw [heq, State.mvAfter, if_pos hmore]
      · exact heq
    exact mover_runs hworks he hwait ⟨hmem, hmade, hcmds⟩

/-- One piece that writes a row of the operand cache, and the command is gone. -/
theorem mover_row {e : Instr × Nat} (he : e ∈ moverInstrs g m i) {w : MvWork} {c : MvCmd} {d : Cvc}
    (h : MvReady s g.val i.val e.2 x w c d) (hconv : c.conv = false) (hneed : s.mvNeed g.val x c = [])
    (hmade : w.made = 0) {a n : Nat} {bs : List Byte} (hlen : bs.length = n)
    (hpiece : ∀ q, ∃ k u, softRead s u ∧ c.plan g.val x d q = [k] ∧ k.go s = (.ok {}, u.ocWrite g.val a bs)) :
    runsTo e.1 s fun t => t = { s with mem := t.mem, eng.core := t.eng.core } ∧ t.ocRead g.val a n = bs ∧
      ocChanged s t g.val a n ∧ t.core g.val = { s.core g.val with cmds := ldrop (s.core g.val).cmds i.val } := by
  obtain ⟨q, hbegin⟩ := s.mvBegin_plain (g := g.val) (x := x) (w := w) d hconv
  obtain ⟨k, u, hsoft, hplan, hgo⟩ := hpiece q
  obtain ⟨hshape, hread, hchanged, hcore⟩ := State.mvDone_wrote (g := g.val) (i := i.val) (a := a) hsoft hlen
  have heq := (h.mover_single hbegin hmade hplan hgo).trans (State.mvMade_plain _ _ hneed hconv)
  refine mover_runs hworks he heq ⟨?_, hread, hchanged, hcore⟩
  rw [hshape]
  rfl

end

/-- Settles O25: a command that may run makes pieces of its plan; a row within an operand cache is one piece; a command
of another operation, and an illegal one, stop at the checks. -/
theorem moversMoveData : Obligations.MoversMoveData := by
  intro g m i x s hworks hrunning
  refine ⟨fun w z c d q r u v e he hcmd hdec hop hconversion hlegal hbound hfree hlines hbegin ps hps hrun => ?_,
    fun w c d hcmd hmade hdec hconversion hlegal hconv hrows hscaled hdsp hdst hle => ?_, fun e he => ?_⟩
  · subst hps
    exact mover_pieces hworks he ⟨hrunning, hcmd, hdec, hop, moverInstrs_defined e he, hconversion, hlegal, hbound, hfree,
      hlines⟩ hbegin hrun
  · have hbound : c.bindBad s x d = false := by rw [MvCmd.bindBad, hconv, Bool.false_and]
    have hfree : c.conv = true → s.suppressed x.ctx = false := by simp [hconv]
    have hlen := MvCmd.rowlen_of_legal hlegal
    refine ⟨fun hmop hssp hsrc hgood => ?_, fun hmop hbits => ?_⟩
    · have hneed : s.mvNeed g.val x c = [] := if_neg (by simp [hssp])
      refine mover_row (m := m) (e := (.copy g m i, 1)) hworks (by simp [moverInstrs]) ⟨hrunning, hcmd, hdec, hmop, by simp,
        hconversion, hlegal, hbound, hfree, by simp [hssp]⟩ hconv hneed hmade (by simp [State.ocRead]) fun q => ?_
      obtain ⟨u, hsoft, hgo⟩ := mvPiece_go hscaled hconv hssp hdsp hsrc hgood hdst
      exact ⟨_, u, hsoft, MvCmd.copy_plan hmop hrows hlen hle, hgo⟩
    · have hneed : s.mvNeed g.val x c = [] := if_neg (by simp [hmop])
      refine mover_row (m := m) (e := (.fill g m i, 3)) hworks (by simp [moverInstrs]) ⟨hrunning, hcmd, hdec, hmop, by simp,
        hconversion, hlegal, hbound, hfree, by simp [hmop]⟩ hconv hneed hmade (by simp [fillBytes, upTo]) fun q => ?_
      obtain ⟨k, hplan, hgo⟩ := MvCmd.fill_plan hmop hrows hlen hbits hdsp hdst
      exact ⟨k, s, softRead.refl s, hplan, hgo⟩
  · have hexec := exec_mover g m i s e he
    refine ⟨fun hnone => hexec.trans (work_id (s.mover_none _ hnone)), fun w hcmd =>
      ⟨fun hzero hfive hother => hexec.trans (work_id (State.mover_other hrunning hcmd ⟨hzero, hfive⟩ hother)),
        fun hbad => ?_⟩⟩
    rw [hexec, work_left s _ hworks, State.mover_illegal hrunning hcmd hbad]
    rfl

end Sys2Proof.Machine

/-! PROOFS about the task contract and the scheduler (06): what the instructions of a control core compute and refuse,
submission rings, graphs and completions, semaphores and the scheduler's registers. -/
namespace Sys2Proof.Machine

/-! ### What the instructions of a control core write (06 R190) -/

/-- The program counter is none of the registers. -/
@[simp] theorem CoreSt.reg_withPc (c : CoreSt) (n : Nat) (r : BitVec 5) : ({ c with pc := n } : CoreSt).reg r = c.reg r := rfl

theorem State.core_setCore_ne (s : State) {g k : Nat} (c : CoreSt) (h : k ≠ g) : (s.setCore g c).core k = s.core k :=
  tget_tput_ne _ _ _ h

section
variable {g : Fin 256} {x : Inst} {s u : State} {i : Instr} {op : Nat}

/-- An instruction that writes a function of two registers to a third. -/
theorem fetches.bin_runs {r : RForm} {f : Word64 → Word64 → Word64}
    (h : fetches s g.val (rWord op r) [] [r.rd, r.ra, r.rb] x u)
    (hi : exec i s = work s fun s => s.ccBin g.val op r f) (hop : op < 256 ∧ op ∈ ccOps) (hrest : r.rest = 0) :
    exec i s = .next (steppedTo s u g.val
      ((s.core g.val).put r.rd (f ((s.core g.val).reg r.ra) ((s.core g.val).reg r.rb))) 4) :=
  h.exec_eq (coreWord_r r hop.1 hop.2) hi rfl (by rw [hrest]; rfl) rfl

/-- An instruction that writes a function of a register and its immediate. -/
theorem fetches.imm_runs {r : IForm} {ok : Bool} {f : Word64 → BitVec 14 → Word64}
    (h : fetches s g.val (iWord op r) [] [r.rd, r.ra] x u)
    (hi : exec i s = work s fun s => s.ccImm g.val op r ok f) (hop : op < 256 ∧ op ∈ ccOps) (hok : ok = true) :
    exec i s = .next (steppedTo s u g.val ((s.core g.val).put r.rd (f ((s.core g.val).reg r.ra) r.imm)) 4) :=
  h.exec_eq (coreWord_i r hop.1 hop.2) hi rfl hok rfl

theorem ffma_runs {r : RForm} (hrest : r.rest = 0) (h : fetches s g.val (rWord 0x4A r) [] [r.rd, r.ra, r.rb] x u) :
    exec (.ffma g r) s = .next (steppedTo s u g.val ((s.core g.val).put r.rd
      ((w32Fma (((s.core g.val).reg r.ra).setWidth 32) (((s.core g.val).reg r.rb).setWidth 32)
        (((s.core g.val).reg r.rd).setWidth 32)).setWidth 64)) 4) :=
  h.exec_eq (o := execFfma g r s) (coreWord_r r (by decide) (by decide)) rfl rfl (by rw [hrest]; rfl) rfl

theorem rds_runs {r : IForm} {v : Nat} (h : fetches s g.val (iWord 0x40 r) [] [r.rd] x u)
    (hv : x.startValue r.imm.toNat = some v) :
    exec (.rds g r) s = .next (steppedTo s u g.val ((s.core g.val).put r.rd (BitVec.ofNat 64 v)) 4) := by
  refine (h.exec_eq (o := execRds g r s) (coreWord_i r (by decide) (by decide)) rfl rfl rfl rfl).trans ?_
  simp only [hv]
  rfl

section
variable {p : PForm} {w : BitVec 32} (hrest : p.rest = 0)
include hrest

theorem li_runs (h : fetches s g.val (pWord 0x18 p) (leBytes 4 w.toNat) [p.rd] x u) :
    exec (.li g p w) s = .next (steppedTo s u g.val ((s.core g.val).put p.rd (w.setWidth 64)) 8) :=
  h.exec_eq (o := execLi g p w s) (coreWord_p p (by decide) (by decide)) rfl rfl (by rw [hrest]; rfl)
    (by rw [leBytes_length])

theorem lih_runs (h : fetches s g.val (pWord 0x19 p) (leBytes 4 w.toNat) [p.rd] x u) :
    exec (.lih g p w) s = .next (steppedTo s u g.val
      ((s.core g.val).put p.rd (w ++ ((s.core g.val).reg p.rd).setWidth 32)) 8) :=
  h.exec_eq (o := execLih g p w s) (coreWord_p p (by decide) (by decide)) rfl rfl (by rw [hrest]; rfl)
    (by rw [leBytes_length])

end

/-! ### The instructions of two registers and of an immediate -/

/-- SLTU and SLT compare as numbers without and with sign. -/
theorem execSltu_ccBin (r : RForm) : exec (.sltu g r) s =
    work s fun s => s.ccBin g.val 0x0A r fun a b => if a.toNat < b.toNat then 1 else 0 := by
  have hcmp : (fun a b : Word64 => if a.ult b then (1 : Word64) else 0) = fun a b => if a.toNat < b.toNat then 1 else 0 := by
    funext a b
    simp only [BitVec.ult, decide_eq_true_eq]
  rw [← hcmp]
  rfl

theorem execSlt_ccBin (r : RForm) : exec (.slt g r) s =
    work s fun s => s.ccBin g.val 0x0B r fun a b => if a.toInt < b.toInt then 1 else 0 := by
  have hcmp : (fun a b : Word64 => if a.slt b then (1 : Word64) else 0) = fun a b => if a.toInt < b.toInt then 1 else 0 := by
    funext a b
    simp only [BitVec.slt, decide_eq_true_eq]
  rw [← hcmp]
  rfl

end

/-- The instructions that compute from two registers, with their operation codes (06 R190). -/
def binInstrs (g : Fin 256) (r : RForm) : List (Instr × Nat × (Word64 → Word64 → Word64)) :=
  [(.add g r, 0x01, fun a b => a + b), (.sub g r, 0x02, fun a b => a - b), (.mul g r, 0x03, fun a b => a * b),
   (.andOp g r, 0x04, fun a b => a &&& b), (.orOp g r, 0x05, fun a b => a ||| b), (.xor g r, 0x06, fun a b => a ^^^ b),
   (.shl g r, 0x07, fun a b => a <<< (b.toNat % 64)), (.shr g r, 0x08, fun a b => a >>> (b.toNat % 64)),
   (.sar g r, 0x09, fun a b => a.sshiftRight (b.toNat % 64)), (.sltu g r, 0x0A, fun a b => if a.toNat < b.toNat then 1 else 0),
   (.slt g r, 0x0B, fun a b => if a.toInt < b.toInt then 1 else 0),
   (.fadd g r, 0x48, fun a b => (w32Add (a.setWidth 32) (b.setWidth 32)).setWidth 64),
   (.fmul g r, 0x49, fun a b => (w32Mul (a.setWidth 32) (b.setWidth 32)).setWidth 64),
   (.flt g r, 0x4B, fun a b => if w32Lt (a.setWidth 32) (b.setWidth 32) = true then 1 else 0)]

theorem exec_bin (g : Fin 256) (r : RForm) (s : State) : ∀ e ∈ binInstrs g r, (e.2.1 < 256 ∧ e.2.1 ∈ ccOps) ∧
    exec e.1 s = work s fun s => s.ccBin g.val e.2.1 r e.2.2 := by
  simp only [binInstrs, List.forall_mem_cons]
  exact ⟨⟨by decide, rfl⟩, ⟨by decide, rfl⟩, ⟨by decide, rfl⟩, ⟨by decide, rfl⟩, ⟨by decide, rfl⟩, ⟨by decide, rfl⟩,
    ⟨by decide, rfl⟩, ⟨by decide, rfl⟩, ⟨by decide, rfl⟩, ⟨by decide, execSltu_ccBin r⟩, ⟨by decide, execSlt_ccBin r⟩,
    ⟨by decide, rfl⟩, ⟨by decide, rfl⟩, ⟨by decide, rfl⟩, List.forall_mem_nil _⟩

/-- The instructions that compute from a register and the sign-extended immediate. -/
def immInstrs (g : Fin 256) (i : IForm) : List (Instr × Nat × (Word64 → Word64 → Word64)) :=
  [(.addi g i, 0x10, fun a b => a + b), (.andi g i, 0x11, fun a b => a &&& b), (.ori g i, 0x12, fun a b => a ||| b)]

theorem exec_imm (g : Fin 256) (i : IForm) (s : State) : ∀ e ∈ immInstrs g i, (e.2.1 < 256 ∧ e.2.1 ∈ ccOps) ∧
    exec e.1 s = work s fun s => s.ccImm g.val e.2.1 i true fun a n => e.2.2 a (n.signExtend 64) := by
  simp only [immInstrs, List.forall_mem_cons]
  exact ⟨⟨by decide, rfl⟩, ⟨by decide, rfl⟩, ⟨by decide, rfl⟩, List.forall_mem_nil _⟩

/-- The shifts by the immediate. -/
def shiftInstrs (g : Fin 256) (i : IForm) : List (Instr × Nat × (Word64 → Nat → Word64)) :=
  [(.shli g i, 0x13, fun a n => a <<< n), (.shri g i, 0x14, fun a n => a >>> n),
   (.sari g i, 0x15, fun a n => a.sshiftRight n)]

theorem exec_shift (g : Fin 256) (i : IForm) (s : State) : ∀ e ∈ shiftInstrs g i, (e.2.1 < 256 ∧ e.2.1 ∈ ccOps) ∧
    exec e.1 s = work s fun s => s.ccImm g.val e.2.1 i (shiftOk i) fun a n => e.2.2 a (n.toNat % 64) := by
  simp only [shiftInstrs, List.forall_mem_cons]
  exact ⟨⟨by decide, rfl⟩, ⟨by decide, rfl⟩, ⟨by decide, rfl⟩, List.forall_mem_nil _⟩

/-- Settles O26: each row of the tables is its instruction's meaning, and an instruction finds its registers as its
fetch left them. -/
theorem controlCoreComputes : Obligations.ControlCoreComputes := by
  rintro g x s u c rfl
  refine ⟨fun r hrest => ⟨fun e he h => ?_, ffma_runs hrest⟩,
    fun i => ⟨fun e he h => ?_, fun e he hlt h => ?_, fun v h hv => rds_runs h hv⟩,
    fun p w hrest => ⟨li_runs hrest, lih_runs hrest⟩⟩
  · obtain ⟨hop, hexec⟩ := exec_bin g r s e he
    exact h.bin_runs hexec hop hrest
  · obtain ⟨hop, hexec⟩ := exec_imm g i s e he
    exact h.imm_runs (f := fun a n => e.2.2 a (n.signExtend 64)) hexec hop rfl
  · obtain ⟨hop, hexec⟩ := exec_shift g i s e he
    rw [h.imm_runs (f := fun a n => e.2.2 a (n.toNat % 64)) hexec hop (decide_eq_true hlt), Nat.mod_eq_of_lt hlt]

end Sys2Proof.Machine

namespace Sys2Proof.Machine

/-! ### Loads, stores, branches and jumps of a control core (06 R187, R190) -/

theorem coreWord_b {op : Nat} (f : BForm) (h : op < 256) (hop : op ∈ ccOps) : coreWord (bWord op f) := by
  have hlow : bWord op f % 256 = op := by
    simp only [bWord, place]
    omega
  refine ⟨?_, by rwa [hlow]⟩
  simp only [bWord, place]
  omega

/-- A signed 14-bit field as an integer. -/
theorem sext_toNat (v : BitVec 14) : sext 14 v.toNat = v.toInt := by
  have hlt := v.isLt
  simp only [sext, BitVec.toInt_eq_toNat_cond, Nat.mod_eq_of_lt hlt]
  split <;> split <;> omega

theorem ocWordOk_iff {a : Nat} : ocWordOk a = true ↔ a % 8 = 0 ∧ a + 8 ≤ ocSize := by
  simp [ocWordOk, ocOk]

section
variable {g : Fin 256} {x : Inst} {s u : State}

section
variable {i : IForm} {a : Nat} (ha : a = ((s.core g.val).reg i.ra + i.imm.signExtend 64).toNat) (halign : a % 8 = 0)
  (hin : a + 8 ≤ ocSize)
include ha halign hin

theorem ld_runs (h : fetches s g.val (iWord 0x20 i) [] [i.rd, i.ra] x u) (hgood : ocGood s g.val a 8) :
    runsTo (.ld g i) s fun t => sramKept u t ∧ t = { steppedTo s u g.val
      ((s.core g.val).put i.rd (BitVec.ofNat 64 (leNat (s.ocRead g.val a 8)))) 4 with mem := t.mem } := by
  subst ha
  obtain ⟨v, hgo, hv⟩ := go_ocReads_of_good (s := u) (g := g.val)
    (l := [(((s.core g.val).reg i.ra + i.imm.signExtend 64).toNat, 8)])
    (List.forall_mem_singleton.2 (h.reads.ocGood hgood))
  have hv : softRead u v := hv
  have hsame : v.ocRead g.val ((s.core g.val).reg i.ra + i.imm.signExtend 64).toNat 8 =
      s.ocRead g.val ((s.core g.val).reg i.ra + i.imm.signExtend 64).toNat 8 := by
    rw [hv.kept.ocRead, State.ocRead, h.reads.oc]
    rfl
  have hok := ocWordOk_iff.2 ⟨halign, hin⟩
  refine ⟨left s (v.setCore g.val (({ s.core g.val with pc := ((s.core g.val).pc + 4) % 2 ^ 64 } : CoreSt).put i.rd
    (BitVec.ofNat 64 (leNat (v.ocRead g.val ((s.core g.val).reg i.ra + i.imm.signExtend 64).toNat 8))))), ?_, hv.sramKept, ?_⟩
  · refine (h.exec_eq (o := execLd g i s) (coreWord_i i (by decide) (by decide)) rfl rfl rfl (n := 4) rfl).trans ?_
    simp only [CoreSt.reg_withPc, immVal, hok, Bool.not_true, Bool.false_eq_true, if_false, State.reading, hgo]
  · rw [hsame]
    obtain ⟨soft, ce, rfl⟩ := hv
    rfl

theorem st_runs (h : fetches s g.val (iWord 0x21 i) [] [i.rd, i.ra] x u) : runsTo (.st g i) s fun t =>
    t = { steppedTo s u g.val (s.core g.val) 4 with mem := t.mem } ∧ ocChanged u t g.val a 8 ∧
      t.ocRead g.val a 8 = leBytes 8 ((s.core g.val).reg i.rd).toNat := by
  subst ha
  have hok := ocWordOk_iff.2 ⟨halign, hin⟩
  have hlen : (leBytes 8 ((s.core g.val).reg i.rd).toNat).length = 8 := leBytes_length _ _
  refine ⟨left s ((u.setCore g.val { s.core g.val with pc := ((s.core g.val).pc + 4) % 2 ^ 64 }).ocWrite g.val
    ((s.core g.val).reg i.ra + i.imm.signExtend 64).toNat (leBytes 8 ((s.core g.val).reg i.rd).toNat)), ?_, rfl,
    ocChanged_ocWrite u g.val _ hlen, State.ocRead_ocWrite _ _ hlen⟩
  refine (h.exec_eq (o := execSt g i s) (coreWord_i i (by decide) (by decide)) rfl rfl rfl (n := 4) rfl).trans ?_
  simp only [CoreSt.reg_withPc, immVal, hok, Bool.not_true, Bool.false_eq_true, if_false]

end

theorem ldd_runs {i : IForm} {b : List Byte} {y : Nat} {v : State} (hi : i.imm.toNat < 8)
    (h : fetches s g.val (iWord 0x22 i) [] [i.rd, i.ra] x u)
    (hbind : u.bindIn x (((s.core g.val).reg i.ra).toNat % 256) = true)
    (hgo : (bufferOf (dieUnit (coreDie g.val)) x (((s.core g.val).reg i.ra).toNat % 256)).go u = (.ok (b, y), v)) :
    exec (.ldd g i) s = .next (steppedTo s v g.val
      ((s.core g.val).put i.rd (BitVec.ofNat 64 (fieldAt b (8 * i.imm.toNat) 8))) 4) := by
  refine (h.exec_eq (o := execLdd g i s) (coreWord_i i (by decide) (by decide)) rfl rfl (decide_eq_true hi)
    (n := 4) rfl).trans ?_
  simp only [CoreSt.reg_withPc, hbind, Bool.not_true, Bool.false_eq_true, if_false, hgo]
  rfl

/-- An instruction that leaves its core as `c` changes no other core. -/
theorem fetches.jumps {word : Nat} {payload : List Byte} {regs : List (BitVec 5)} {i : Instr} {c : CoreSt}
    (h : fetches s g.val word payload regs x u) (hi : exec i s = .next (left s (u.setCore g.val c))) :
    runsTo i s fun t => t = { steppedTo s u g.val (s.core g.val) 4 with eng.core := t.eng.core } ∧ t.core g.val = c ∧
      ∀ k, k ≠ g.val → t.core k = s.core k :=
  ⟨_, hi, rfl, u.core_setCore g.val c, fun k hk => (State.core_setCore_ne u c hk).trans (h.reads.core k)⟩

theorem jal_runs {i : IForm} (h : fetches s g.val (iWord 0x2C i) [] [i.rd] x u) : runsTo (.jal g i) s fun t =>
    t = { steppedTo s u g.val (s.core g.val) 4 with eng.core := t.eng.core } ∧
      t.core g.val = { (s.core g.val).put i.rd (BitVec.ofNat 64 (((s.core g.val).pc + 4) % 2 ^ 64)) with
        pc := (((((s.core g.val).pc + 4) % 2 ^ 64 : Nat) - 4 + 4 * i.imm.toInt : Int) % 2 ^ 64).toNat } ∧
      ∀ k, k ≠ g.val → t.core k = s.core k := by
  refine h.jumps ?_
  rw [← sext_toNat]
  exact h.exec_eq (o := execJal g i s) (coreWord_i i (by decide) (by decide)) rfl rfl rfl rfl

theorem jr_runs {i : IForm} {a : Nat} (ha : a = ((s.core g.val).reg i.ra + i.imm.signExtend 64).toNat) (halign : a % 4 = 0)
    (h : fetches s g.val (iWord 0x2D i) [] [i.rd, i.ra] x u) : runsTo (.jr g i) s fun t =>
    t = { steppedTo s u g.val (s.core g.val) 4 with eng.core := t.eng.core } ∧
      t.core g.val = { (s.core g.val).put i.rd (BitVec.ofNat 64 (((s.core g.val).pc + 4) % 2 ^ 64)) with pc := a } ∧
      ∀ k, k ≠ g.val → t.core k = s.core k := by
  subst ha
  refine h.jumps ?_
  refine (h.exec_eq (o := execJr g i s) (coreWord_i i (by decide) (by decide)) rfl rfl rfl (n := 4) rfl).trans ?_
  simp only [CoreSt.reg_withPc, immVal, halign, bne_self_eq_false, Bool.false_eq_true, if_false]
  rfl

section
variable {b : BForm} {i : Instr} {op : Nat} {f : Word64 → Word64 → Bool} (h : fetches s g.val (bWord op b) [] [b.ra, b.rb] x u)
  (hi : exec i s = work s fun s => s.ccBranch g.val op b f) (hop : op < 256 ∧ op ∈ ccOps)
include h hi hop

theorem fetches.branch_exec : exec i s = .next (left s (if f ((s.core g.val).reg b.ra) ((s.core g.val).reg b.rb) then
      u.setCore g.val { s.core g.val with
        pc := (((((s.core g.val).pc + 4) % 2 ^ 64 : Nat) - 4 + 4 * b.off.toInt : Int) % 2 ^ 64).toNat }
    else u.setCore g.val { s.core g.val with pc := ((s.core g.val).pc + 4) % 2 ^ 64 })) := by
  rw [← sext_toNat]
  exact h.exec_eq (coreWord_b b hop.1 hop.2) hi rfl rfl rfl

theorem fetches.branch_not_taken (hf : f ((s.core g.val).reg b.ra) ((s.core g.val).reg b.rb) = false) :
    exec i s = .next (steppedTo s u g.val (s.core g.val) 4) := by
  rw [h.branch_exec hi hop, hf]
  rfl

theorem fetches.branch_taken (hf : f ((s.core g.val).reg b.ra) ((s.core g.val).reg b.rb) = true) : runsTo i s fun t =>
    t = { steppedTo s u g.val (s.core g.val) 4 with eng.core := t.eng.core } ∧
      t.core g.val = { s.core g.val with
        pc := (((((s.core g.val).pc + 4) % 2 ^ 64 : Nat) - 4 + 4 * b.off.toInt : Int) % 2 ^ 64).toNat } ∧
      ∀ k, k ≠ g.val → t.core k = s.core k :=
  h.jumps (by rw [h.branch_exec hi hop, if_pos hf])

end

/-- BEQ, BNE, BLTU and BGEU with their operation codes and relations. -/
def branchInstrs (g : Fin 256) (b : BForm) : List (Instr × Nat × (Word64 → Word64 → Bool)) :=
  [(.beq g b, 0x28, fun p q => decide (p = q)), (.bne g b, 0x29, fun p q => decide (p ≠ q)),
   (.bltu g b, 0x2A, fun p q => decide (p.toNat < q.toNat)), (.bgeu g b, 0x2B, fun p q => decide (q.toNat ≤ p.toNat))]

theorem exec_branch (g : Fin 256) (b : BForm) (s : State) : ∀ e ∈ branchInstrs g b, (e.2.1 < 256 ∧ e.2.1 ∈ ccOps) ∧
    exec e.1 s = work s fun s => s.ccBranch g.val e.2.1 b e.2.2 := by
  have hne : (fun p q : Word64 => decide (p ≠ q)) = fun p q => p != q := by
    funext p q
    rw [decide_not]
    rfl
  have hge : (fun p q : Word64 => decide (q.toNat ≤ p.toNat)) = fun p q => !p.ult q := by
    funext p q
    rw [BitVec.ult, ← decide_not]
    exact decide_eq_decide.2 Nat.not_lt.symm
  simp only [branchInstrs, List.forall_mem_cons, hne, hge]
  exact ⟨⟨by decide, rfl⟩, ⟨by decide, rfl⟩, ⟨by decide, rfl⟩, ⟨by decide, rfl⟩, List.forall_mem_nil _⟩

end

/-- Settles O27: an instruction finds its registers, its operand cache and the other cores as its fetch left them. -/
theorem controlCoreLoadsAndJumps : Obligations.ControlCoreLoadsAndJumps := by
  rintro g x s u c rfl
  refine ⟨fun i a ha => ⟨fun halign hin => ⟨ld_runs ha halign hin, st_runs ha halign hin⟩,
    fun b y v hi h hbind hgo => ldd_runs hi h hbind hgo, jal_runs, jr_runs ha⟩, fun b e he h => ?_⟩
  obtain ⟨hop, hexec⟩ := exec_branch g b s e he
  exact ⟨h.branch_not_taken hexec hop, h.branch_taken hexec hop⟩

end Sys2Proof.Machine

namespace Sys2Proof.Machine

/-! ### Instructions that fault their context (06 R194) -/

section
variable {s u : State} {g word : Nat} {payload : List Byte} {regs : List (BitVec 5)} {x : Inst} {ok : Bool}
  {f : State → Inst → CoreSt → State}

/-- A reserved operation code is an illegal encoding whichever word is commanded. -/
theorem State.ccRun_reserved {bs : List Byte} (hrun : s.running g = some x) (hwait : (s.core g).wait = .none)
    (hfetch : (fetch g x (s.core g).pc 4).go s = (.ok bs, u)) (hop : fieldAt bs 0 1 ∉ ccOps) :
    s.ccRun g word payload ok regs f = u.coreFault g uCore kEncoding 0 g := by
  have hnot : ccOps.contains (fieldAt bs 0 1) = false := by simpa using hop
  simp only [State.ccRun, hrun, hwait, bne_self_eq_false, Bool.false_eq_true, if_false, hfetch, hnot, Bool.not_false,
    if_true, State.ccFault]

/-- A fetch behind the code is a bounds fault. -/
theorem fetch_beyond {pc : Nat} (h : x.codeLen ≤ pc) :
    (fetch g x pc 4).go s = (.error (.fault clsContext kBounds 0 ((x.code + pc) % 2 ^ 64) none), s) := by
  have hpast : ¬ pc + 4 * 0 < x.codeLen := Nat.not_lt.2 h
  have hcheck : (check (decide (pc + 4 * 0 < x.codeLen)) kBounds ((x.code + (pc + 4 * 0)) % 2 ^ 64)).go s =
      (.error (.fault clsContext kBounds 0 ((x.code + pc) % 2 ^ 64) none), s) := by
    rw [decide_eq_false hpast]
    rfl
  have hone : upTo (4 / 4) = [0] := rfl
  simp only [fetch, hone, List.mapM_cons, M.go_bind, hcheck]

theorem State.ccRun_beyond (hrun : s.running g = some x) (hwait : (s.core g).wait = .none) (h : x.codeLen ≤ (s.core g).pc) :
    s.ccRun g word payload ok regs f = s.coreStop g uCore x
      (.fault clsContext kBounds 0 ((x.code + (s.core g).pc) % 2 ^ 64) (some uCore)) := by
  simp only [State.ccRun, hrun, hwait, bne_self_eq_false, Bool.false_eq_true, if_false, fetch_beyond h, State.fetchStop]

/-- A nonzero unused field is an illegal encoding. -/
theorem fetches.ccRun_unused (h : fetches s g word payload [] x u) (hw : coreWord word) :
    s.ccRun g word payload false regs f = u.coreFault g uCore kEncoding 0 g := by
  obtain ⟨-, hrun, hwait, ⟨v, hword, hpayload⟩, -⟩ := h
  have hfield : fieldAt (leBytes 4 word) 0 1 = word % 256 := by
    simp [fieldAt, leBytes, leNat]
  have hvalue : leNat (leBytes 4 word) = word := leNat_leBytes_of_lt (k := 4) hw.1
  have hop : ccOps.contains (word % 256) = true := List.contains_iff_mem.2 hw.2
  simp only [State.ccRun, hrun, hwait, bne_self_eq_false, Bool.false_eq_true, if_false, hword, hfield, hop, Bool.not_true,
    hvalue, hpayload, Bool.not_false, if_true, State.ccFault]

end

/-- Command `e` of `coreForms` runs its word on core `g`, and takes it for ill-formed where its form says that a field
is nonzero that must be 0. -/
def runsForm (s : State) (g : Nat) (e : Instr × Nat × List Byte × Bool) : Prop :=
  ∃ f ok regs F, coreWord e.2.1 ∧ exec e.1 s = work s f ∧ f s = s.ccRun g e.2.1 e.2.2.1 ok regs F ∧
    (e.2.2.2 = true → ok = false)

section
variable {s : State} {g : Nat} {e : Instr × Nat × List Byte × Bool}

theorem runsForm.of (o : State → Host.Outcome State Fault Refusal) {f : State → State} {ok : Bool} {regs : List (BitVec 5)}
    {F : State → Inst → CoreSt → State} (hw : coreWord e.2.1) (hok : e.2.2.2 = true → ok = false)
    (hi : exec e.1 s = o s := by rfl) (ho : o s = work s f := by rfl)
    (hf : f s = s.ccRun g e.2.1 e.2.2.1 ok regs F := by rfl) : runsForm s g e :=
  ⟨f, ok, regs, F, hw, hi.trans ho, hf, hok⟩

variable {u : State} {x : Inst} (h : runsForm s g e)
include h

theorem runsForm.reserved {bs : List Byte} (hworks : s.works = true) (hrun : s.running g = some x)
    (hwait : (s.core g).wait = .none) (hfetch : (fetch g x (s.core g).pc 4).go s = (.ok bs, u))
    (hop : fieldAt bs 0 1 ∉ ccOps) : exec e.1 s = .next (left s (u.coreFault g uCore kEncoding 0 g)) := by
  obtain ⟨f, ok, regs, F, -, hi, hf, -⟩ := h
  rw [hi, work_left s f hworks, hf, State.ccRun_reserved hrun hwait hfetch hop]

theorem runsForm.beyond (hworks : s.works = true) (hrun : s.running g = some x)
    (hwait : (s.core g).wait = .none) (hlen : x.codeLen ≤ (s.core g).pc) :
    exec e.1 s = .next (left s (s.coreStop g uCore x
      (.fault clsContext kBounds 0 ((x.code + (s.core g).pc) % 2 ^ 64) (some uCore)))) := by
  obtain ⟨f, ok, regs, F, -, hi, hf, -⟩ := h
  rw [hi, work_left s f hworks, hf, State.ccRun_beyond hrun hwait hlen]

theorem runsForm.unused (hfetch : fetches s g e.2.1 e.2.2.1 [] x u) (hbad : e.2.2.2 = true) :
    exec e.1 s = .next (left s (u.coreFault g uCore kEncoding 0 g)) := by
  obtain ⟨f, ok, regs, F, hw, hi, hf, hok⟩ := h
  rw [hi, work_left s f hfetch.1, hf, hok hbad, hfetch.ccRun_unused hw]

end

/-- A field that must be 0 and is not makes its check fail. -/
theorem unused_bool : ∀ a : Bool, (false || !a) = true → a = false := by decide
theorem unused_bools : ∀ a b : Bool, (!a || !b) = true → (a && b) = false := by decide

/-- Each form is its instruction's own. -/
theorem coreForms_run (g : Fin 256) (r : RForm) (i : IForm) (b : BForm) (p : PForm) (w : BitVec 32) (y : BitVec 64)
    (z : BitVec 128) (s : State) : ∀ e ∈ coreForms g r i b p w y z, runsForm s g.val e := by
  have hrest : (false || r.rest != 0) = true → (r.rest == 0) = false := unused_bool (r.rest == 0)
  have hrd : (r.rd != 0 || r.rest != 0) = true → (r.rd == 0 && r.rest == 0) = false := unused_bools _ _
  have hmvc : (r.rd != 0 || r.rb != 0 || r.rest != 0) = true → (r.rd == 0 && r.rb == 0 && r.rest == 0) = false := by
    rw [bne, bne, ← Bool.not_and]
    exact unused_bools _ _
  have hexit : (r.rd != 0 || r.ra != 0 || r.rb != 0 || r.rest != 0) = true →
      (r.rd == 0 && r.ra == 0 && r.rb == 0 && r.rest == 0) = false := by
    rw [bne, bne, bne, ← Bool.not_and, ← Bool.not_and]
    exact unused_bools _ _
  have hany : Nat.ble 16384 i.imm.toNat = true → true = false := fun h =>
    absurd (Nat.le_of_ble_eq_true h) (Nat.not_le.2 i.imm.isLt)
  have himm : ∀ n, Nat.ble n i.imm.toNat = true → decide (i.imm.toNat < n) = false := fun n h =>
    decide_eq_false (Nat.not_lt.2 (Nat.le_of_ble_eq_true h))
  have hpay : (false || p.rest != 0) = true → (p.rest == 0) = false := unused_bool (p.rest == 0)
  have hissue : (p.rd != 0 || p.rest != 0) = true → (p.rd == 0 && p.rest == 0) = false := unused_bools _ _
  have hr : ∀ op, op < 256 → op ∈ ccOps → coreWord (rWord op r) := fun _ => coreWord_r r
  have hi : ∀ op, op < 256 → op ∈ ccOps → coreWord (iWord op i) := fun _ => coreWord_i i
  have hb : ∀ op, op < 256 → op ∈ ccOps → coreWord (bWord op b) := fun _ => coreWord_b b
  have hp : ∀ op, op < 256 → op ∈ ccOps → coreWord (pWord op p) := fun _ => coreWord_p p
  simp only [coreForms, List.forall_mem_cons]
  exact ⟨.of (execAdd g r) (hr _ (by decide) (by decide)) hrest, .of (execSub g r) (hr _ (by decide) (by decide)) hrest,
    .of (execMul g r) (hr _ (by decide) (by decide)) hrest, .of (execAndOp g r) (hr _ (by decide) (by decide)) hrest,
    .of (execOrOp g r) (hr _ (by decide) (by decide)) hrest, .of (execXor g r) (hr _ (by decide) (by decide)) hrest,
    .of (execShl g r) (hr _ (by decide) (by decide)) hrest, .of (execShr g r) (hr _ (by decide) (by decide)) hrest,
    .of (execSar g r) (hr _ (by decide) (by decide)) hrest, .of (execSltu g r) (hr _ (by decide) (by decide)) hrest,
    .of (execSlt g r) (hr _ (by decide) (by decide)) hrest, .of (execFadd g r) (hr _ (by decide) (by decide)) hrest,
    .of (execFmul g r) (hr _ (by decide) (by decide)) hrest, .of (execFfma g r) (hr _ (by decide) (by decide)) hrest,
    .of (execFlt g r) (hr _ (by decide) (by decide)) hrest, .of (execSemt g r) (hr _ (by decide) (by decide)) hrest,
    .of (execSemw g r) (hr _ (by decide) (by decide)) hrd, .of (execSems g r) (hr _ (by decide) (by decide)) hrd,
    .of (execMvc g r) (hr _ (by decide) (by decide)) hmvc, .of (execExitOp g r) (hr _ (by decide) (by decide)) hexit,
    .of (execAddi g i) (hi _ (by decide) (by decide)) hany, .of (execAndi g i) (hi _ (by decide) (by decide)) hany,
    .of (execOri g i) (hi _ (by decide) (by decide)) hany, .of (execShli g i) (hi _ (by decide) (by decide)) (himm 64),
    .of (execShri g i) (hi _ (by decide) (by decide)) (himm 64), .of (execSari g i) (hi _ (by decide) (by decide)) (himm 64),
    .of (execLd g i) (hi _ (by decide) (by decide)) hany, .of (execSt g i) (hi _ (by decide) (by decide)) hany,
    .of (execLdd g i) (hi _ (by decide) (by decide)) (himm 8), .of (execJal g i) (hi _ (by decide) (by decide)) hany,
    .of (execJr g i) (hi _ (by decide) (by decide)) hany, .of (execFence g i) (hi _ (by decide) (by decide)) (himm 16),
    .of (execTrap g i) (hi _ (by decide) (by decide)) hany, .of (execRds g i) (hi _ (by decide) (by decide)) hany,
    .of (execBeq g b) (hb _ (by decide) (by decide)) nofun, .of (execBne g b) (hb _ (by decide) (by decide)) nofun,
    .of (execBltu g b) (hb _ (by decide) (by decide)) nofun, .of (execBgeu g b) (hb _ (by decide) (by decide)) nofun,
    .of (execLi g p w) (hp _ (by decide) (by decide)) hpay, .of (execLih g p w) (hp _ (by decide) (by decide)) hpay,
    .of (execMis g p z) (hp _ (by decide) (by decide)) hissue, .of (execVis g p y) (hp _ (by decide) (by decide)) hissue,
    List.forall_mem_nil _⟩

section
variable {g : Fin 256} {x : Inst} {s u : State}

section
variable {i : IForm}

theorem rds_faults (hi : 8 < i.imm.toNat) (h : fetches s g.val (iWord 0x40 i) [] [i.rd] x u) :
    exec (.rds g i) s = .next (left s (u.coreFault g.val uCore kEncoding 0 g.val)) := by
  have hnone : x.startValue i.imm.toNat = none := List.getElem?_eq_none hi
  refine (h.exec_eq (o := execRds g i s) (coreWord_i i (by decide) (by decide)) rfl rfl rfl rfl).trans ?_
  simp only [hnone, State.ccFault]

theorem ldd_faults (hi : i.imm.toNat < 8) (h : fetches s g.val (iWord 0x22 i) [] [i.rd, i.ra] x u)
    (hbind : u.bindIn x (((s.core g.val).reg i.ra).toNat % 256) = false) :
    exec (.ldd g i) s = .next (left s (u.coreFault g.val uCore kEncoding 0 g.val)) := by
  refine (h.exec_eq (o := execLdd g i s) (coreWord_i i (by decide) (by decide)) rfl rfl (decide_eq_true hi) rfl).trans ?_
  simp only [CoreSt.reg_withPc, hbind, Bool.not_false, if_true, State.ccFault]

theorem trap_faults (h : fetches s g.val (iWord 0x3F i) [] [] x u) :
    exec (.trap g i) s = .next (left s (u.coreFault g.val uCore kTrap 0 (i.imm.signExtend 64).toNat)) :=
  h.exec_eq (o := execTrap g i s) (coreWord_i i (by decide) (by decide)) rfl rfl rfl rfl

variable {a : Nat} (ha : a = ((s.core g.val).reg i.ra + i.imm.signExtend 64).toNat)

theorem ocWordOk_false (hbad : a % 8 ≠ 0 ∨ ocSize < a + 8) : ocWordOk a = false := by
  rw [← Bool.not_eq_true, ocWordOk_iff, not_and_or, Nat.not_le]
  exact hbad

include ha

theorem ld_faults (hbad : a % 8 ≠ 0 ∨ ocSize < a + 8) (h : fetches s g.val (iWord 0x20 i) [] [i.rd, i.ra] x u) :
    exec (.ld g i) s = .next (left s (u.coreFault g.val uCore kBounds 0 a)) := by
  subst ha
  refine (h.exec_eq (o := execLd g i s) (coreWord_i i (by decide) (by decide)) rfl rfl rfl rfl).trans ?_
  simp only [CoreSt.reg_withPc, immVal, ocWordOk_false hbad, Bool.not_false, if_true, State.ccFault]

theorem st_faults (hbad : a % 8 ≠ 0 ∨ ocSize < a + 8) (h : fetches s g.val (iWord 0x21 i) [] [i.rd, i.ra] x u) :
    exec (.st g i) s = .next (left s (u.coreFault g.val uCore kBounds 0 a)) := by
  subst ha
  refine (h.exec_eq (o := execSt g i s) (coreWord_i i (by decide) (by decide)) rfl rfl rfl rfl).trans ?_
  simp only [CoreSt.reg_withPc, immVal, ocWordOk_false hbad, Bool.not_false, if_true, State.ccFault]

theorem jr_faults (hbad : a % 4 ≠ 0) (h : fetches s g.val (iWord 0x2D i) [] [i.rd, i.ra] x u) :
    exec (.jr g i) s = .next (left s (u.coreFault g.val uCore kSequence 0 g.val)) := by
  subst ha
  refine (h.exec_eq (o := execJr g i s) (coreWord_i i (by decide) (by decide)) rfl rfl rfl rfl).trans ?_
  simp only [CoreSt.reg_withPc, immVal, bne_iff_ne.2 hbad, if_true, State.ccFault]

end

section
variable {r : RForm} (hrest : r.rest = 0)
include hrest

theorem mvc_faults (hrd : r.rd = 0) (hrb : r.rb = 0) (h : fetches s g.val (rWord 0x32 r) [] [r.ra] x u)
    (hbad : ((s.core g.val).reg r.ra).toNat % 64 ≠ 0 ∨ ocSize < ((s.core g.val).reg r.ra).toNat + 64) :
    exec (.mvc g r) s = .next (left s (u.coreFault g.val uCore kBounds 0 ((s.core g.val).reg r.ra).toNat)) := by
  have hbounds : (((s.core g.val).reg r.ra).toNat % 64 != 0 || !(ocOk ((s.core g.val).reg r.ra).toNat 64)) = true := by
    simpa [ocOk] using hbad
  refine (h.exec_eq (o := execMvc g r s) (coreWord_r r (by decide) (by decide)) rfl rfl (by rw [hrd, hrb, hrest]; rfl)
    rfl).trans ?_
  simp only [CoreSt.reg_withPc, hbounds, if_true, State.ccFault]

variable {i : Instr} {op : Nat} {ok : Bool} {f : State → State}
  {K : State → Inst → CoreSt → Nat → Nat → State} (h : fetches s g.val (rWord op r) [] [r.rd, r.ra, r.rb] x u)
  (hw : coreWord (rWord op r)) (hi : exec i s = work s f) (hf : f s = s.ccSem g.val op r ok K) (hok : ok = true)
include h hw hi hf hok

theorem fetches.sem_zero (hv : ((s.core g.val).reg r.rb).toNat % 2 ^ 32 = 0) :
    exec i s = .next (left s (u.coreFault g.val uCore kEncoding 0 g.val)) := by
  refine (h.exec_eq hw hi hf (by rw [hok, hrest]; rfl) (n := 4) rfl).trans ?_
  simp only [CoreSt.reg_withPc, hv, if_true, State.ccFault]

theorem fetches.sem_alien {n : Nat} (hn : ((s.core g.val).reg r.ra).toNat % 4096 = n)
    (hv : ((s.core g.val).reg r.rb).toNat % 2 ^ 32 ≠ 0) (hsem : s.semUsable n x.ctx = false) :
    exec i s = .next (left s (u.coreFault g.val uCore kEncoding n g.val)) := by
  refine (h.exec_eq hw hi hf (by rw [hok, hrest]; rfl) (n := 4) rfl).trans ?_
  simp only [CoreSt.reg_withPc, hv, hn, h.reads.semUsable, hsem, if_false, Bool.not_false, if_true, State.ccFault]

theorem fetches.sem_faults {n : Nat} (hn : ((s.core g.val).reg r.ra).toNat % 4096 = n) :
    (((s.core g.val).reg r.rb).toNat % 2 ^ 32 = 0 →
      exec i s = .next (left s (u.coreFault g.val uCore kEncoding 0 g.val))) ∧
    (((s.core g.val).reg r.rb).toNat % 2 ^ 32 ≠ 0 → s.semUsable n x.ctx = false →
      exec i s = .next (left s (u.coreFault g.val uCore kEncoding n g.val))) :=
  ⟨h.sem_zero hrest hw hi hf hok, h.sem_alien hrest hw hi hf hok hn⟩

end

theorem sems_overflows {r : RForm} {n v : Nat} (hrest : r.rest = 0) (hrd : r.rd = 0)
    (hn : ((s.core g.val).reg r.ra).toNat % 4096 = n) (hv : ((s.core g.val).reg r.rb).toNat % 2 ^ 32 = v) (hpos : v ≠ 0)
    (hsem : s.semUsable n x.ctx = true) (h : fetches s g.val (rWord 0x39 r) [] [r.rd, r.ra, r.rb] x u)
    (hcount : 2 ^ 32 ≤ s.getF (F.semCount n) + v) :
    exec (.sems g r) s = .next (left s (u.coreFault g.val uCore kOverflow 0 n)) := by
  have hsignal : u.semSignal n v = none := by
    rw [State.semSignal, h.reads.semCount (sem_number_lt hn)]
    exact if_pos hcount
  refine (h.sem_eq hrest hn hv hpos hsem (o := execSems g r s) (coreWord_r r (by decide) (by decide)) rfl rfl
    (by rw [hrd]; rfl)).trans ?_
  simp only [hsignal, State.ccFault]

end

/-- SEMW, SEMS and SEMT fault alike on a count or a semaphore they may not have. -/
theorem semInstrs_fault {g : Fin 256} {x : Inst} {s u : State} {r : RForm} {n : Nat} (hrest : r.rest = 0) (hrd : r.rd = 0)
    (hn : ((s.core g.val).reg r.ra).toNat % 4096 = n) :
    ∀ e ∈ ([(.semw g r, 0x38), (.sems g r, 0x39), (.semt g r, 0x3A)] : List (Instr × Nat)),
      fetches s g.val (rWord e.2 r) [] [r.rd, r.ra, r.rb] x u →
      (((s.core g.val).reg r.rb).toNat % 2 ^ 32 = 0 →
        exec e.1 s = .next (left s (u.coreFault g.val uCore kEncoding 0 g.val))) ∧
      (((s.core g.val).reg r.rb).toNat % 2 ^ 32 ≠ 0 → s.semUsable n x.ctx = false →
        exec e.1 s = .next (left s (u.coreFault g.val uCore kEncoding n g.val))) := by
  have hok : (r.rd == 0) = true := by rw [hrd]; rfl
  have hw : ∀ op, op < 256 → op ∈ ccOps → coreWord (rWord op r) := fun _ => coreWord_r r
  simp only [List.forall_mem_cons]
  exact ⟨fun h => h.sem_faults hrest (i := .semw g r) (hw _ (by decide) (by decide))
      (show execSemw g r s = work s _ from rfl) rfl hok hn,
    fun h => h.sem_faults hrest (i := .sems g r) (hw _ (by decide) (by decide))
      (show execSems g r s = work s _ from rfl) rfl hok hn,
    fun h => h.sem_faults hrest (i := .semt g r) (hw _ (by decide) (by decide))
      (show execSemt g r s = work s _ from rfl) rfl rfl hn, List.forall_mem_nil _⟩

/-- Settles O29: a word stops before its effect at its operation code, at the end of the code, or at an unused field;
what an instruction refuses, it refuses of the registers its fetch left. -/
theorem controlCoreFaults : Obligations.ControlCoreFaults := by
  rintro g x s u c rfl
  refine ⟨fun r i b p w y z e he => ?_, fun i a ha => ⟨rds_faults, fun hi hbind h => ldd_faults hi h hbind, fun hbad => ?_,
    jr_faults ha, trap_faults⟩, fun r n hrest hrd hn => ⟨semInstrs_fault hrest hrd hn, fun h hsem hcount hpos =>
      sems_overflows hrest hrd hn rfl hpos hsem h hcount⟩, fun r hrd hrb hrest h => mvc_faults hrest hrd hrb h⟩
  · have hform := coreForms_run g r i b p w y z s e he
    exact ⟨fun bs => hform.reserved, hform.beyond, hform.unused⟩
  · simp only [List.forall_mem_cons]
    exact ⟨ld_faults ha hbad, st_faults ha hbad, List.forall_mem_nil _⟩

end Sys2Proof.Machine

namespace Sys2Proof.Machine

/-! ### Registers of the map and their writes (00 R12–R15, R530; 05 R142) -/

/-- What is found in the register map at an offset has that offset. -/
def offIs (off : Nat) (o : Option Reg) : Prop := ∀ r, o = some r → r.off = off

section
variable {off : Nat}

theorem offIs.none : offIs off none := nofun

theorem offIs.pick (l : List Reg) : offIs off (pick off l) := fun r h => by
  have hfound := List.find?_some h
  simpa using hfound

theorem offIs.ite {c : Prop} [Decidable c] {o p : Option Reg} (ho : offIs off o) (hp : offIs off p) :
    offIs off (if c then o else p) := by
  split <;> assumption

theorem offIs_clusterReg (k o : Nat) : offIs off (clusterReg k o off) := by
  refine .ite (.ite (.pick _) (.ite (.pick _) .none)) (.ite (.pick _) (.ite (.pick _) .none))

theorem offIs_dieReg (d o : Nat) : offIs off (dieReg d o off) := by
  have hcounter : ∀ l, offIs off (some ⟨off, 64, l⟩) := fun l r h => by
    obtain rfl := Option.some.inj h
    rfl
  unfold dieReg
  repeat' first
    | exact .none
    | exact .pick _
    | exact hcounter _
    | exact offIs_clusterReg _ _
    | apply offIs.ite

theorem offIs_regAt : offIs off (regAt off) := by
  unfold regAt
  repeat' first
    | exact .none
    | exact .pick _
    | exact offIs_dieReg _ _
    | apply offIs.ite

theorem regOr_off : (regOr off).off = off := by
  unfold regOr
  cases h : regAt off with
  | none => rfl
  | some r => exact offIs_regAt r h

/-- A register whose function is up takes a write with every field in its range. -/
theorem State.regRefused_up {s : State} {v : Nat} (hup : s.blockUp off = true) (hbad : (regOr off).badField v = .none) :
    s.regRefused (regOr off) v = .none := s.regRefused_none (by rwa [regOr_off]) hbad

theorem State.regWrite_up {s : State} {v : Nat} (hup : s.blockUp off = true) (hbad : (regOr off).badField v = .none) :
    s.regWrite (regOr off) v = s.fieldsWrite (regOr off).fields v := by
  rw [State.regWrite, State.regRefused_up hup hbad]

end

end Sys2Proof.Machine

namespace Sys2Proof.Machine

theorem regWork_left {s : State} (off : Nat) (f : State → State) (h : s.works = true) :
    regWork s off f = .next (left s (f (s.spend off))) := work_left s _ h

/-! ### Semaphores (06 R180–R184; 17 R437) -/

section
variable {s : State} {n : Fin 4096}

/-- The state with `v` taken for the request at the head of a semaphore's queue. -/
def State.semTaken (s : State) (n v : Nat) (rest : List SemReq) : State :=
  (s.setF (F.semCount n) (s.getF (F.semCount n) - v)).setSemReqs n rest

theorem semaphoreGrant_empty (h : s.semReqs n.val = []) : exec (.semaphoreGrant n) s = .next s := by
  refine show execSemaphoreGrant n s = .next s from work_id ?_
  simp only [h]

section
variable {r : SemReq} {rest : List SemReq} (h : s.semReqs n.val = r :: rest)
include h

theorem semaphoreGrant_waits (hlow : s.getF (F.semCount n.val) < r.v) : exec (.semaphoreGrant n) s = .next s := by
  refine show execSemaphoreGrant n s = .next s from work_id ?_
  simp only [h, hlow, if_true]

variable (hworks : s.works = true) (hroom : r.v ≤ s.getF (F.semCount n.val))
include hworks hroom

/-- A request that the count allows is taken and its waiter goes on. -/
theorem semaphoreGrant_grants : exec (.semaphoreGrant n) s = .next (left s (match r.who with
    | .core y c => (s.semTaken n.val r.v rest).resumeSem y c
    | .task y sub i => ((s.semTaken n.val r.v rest).modTask y sub i fun t => { t with acquired := true }).admitTask y sub i
    | w => { s.semTaken n.val r.v rest with sched.granted := (s.semTaken n.val r.v rest).sched.granted ++ [w] })) := by
  refine show execSemaphoreGrant n s = _ from (work_left s _ hworks).trans ?_
  cases hwho : r.who <;> simp only [h, if_neg (Nat.not_lt.2 hroom), State.semTaken, hwho]

end

/-- A core that runs for the context goes on behind its SEMW. -/
theorem State.resumeSem_core {x g : Nat} {e : Inst} (h : (s.core g).inst = some e) (he : e.ctx = x) :
    s.resumeSem x g = s.setCore g { s.core g with wait := .none } := by
  simp only [State.resumeSem, h, he, beq_self_eq_true, if_true]

section
variable {w : Word64} (hworks : s.works = true) (hup : s.blockUp (F.semCount n.val).off = true)
  (hbad : (regOr (F.semCount n.val).off).badField w.toNat = none)
include hworks hup hbad

/-- The fields of a semaphore written, or the write rejected whole. -/
theorem semWrite_exec {v : State}
    (hv : v = (s.spend (F.semCount n.val).off).fieldsWrite (regOr (F.semCount n.val).off).fields w.toNat) :
    ∃ f : Fld, exec (.semWrite n w) s =
      .next (left s (if v.peerAlien n.val then (s.spend (F.semCount n.val).off).rejected f else v)) := by
  have hwrite : (s.spend (F.semCount n.val).off).regWrite (regOr (F.semCount n.val).off) w.toNat = v :=
    (State.regWrite_up (s := s.spend _) hup hbad).trans hv.symm
  have hexec : exec (.semWrite n w) s = .next (left s ((s.spend (F.semCount n.val).off).semWrite n.val w.toNat)) :=
    show execSemWrite n w s = _ from regWork_left _ _ hworks
  rw [hexec, State.semWrite, hwrite]
  cases v.peerAlien n.val
  · exact ⟨F.semPeeren n.val, rfl⟩
  · simp only [Bool.not_true, Bool.false_eq_true, if_false, if_true]
    split
    · exact ⟨_, rfl⟩
    · exact ⟨_, rfl⟩

theorem semWrite_rejects {v : State}
    (hv : v = (s.spend (F.semCount n.val).off).fieldsWrite (regOr (F.semCount n.val).off).fields w.toNat)
    (halien : v.peerAlien n.val = true) :
    runsTo (.semWrite n w) s fun t => t = { s with regs := t.regs, err := t.err } ∧
      t.getF (F.semCount n.val) = s.getF (F.semCount n.val) ∧ t.getF (F.semPeer n.val) = s.getF (F.semPeer n.val) ∧
      ∃ r, t.err.recQ = s.err.recQ ++ [r] ∧ r.kind = kRejected := by
  obtain ⟨f, hexec⟩ := semWrite_exec hworks hup hbad hv
  rw [halien] at hexec
  have hcount : ∀ d, (F.semCount n.val).key ≠ (F.dieSeqSeq d).key := fun d => by
    simp only [Fld.key, F.semCount, F.dieSeqSeq, dieOff]
    omega
  have hpeer : ∀ d, (F.semPeer n.val).key ≠ (F.dieSeqSeq d).key := fun d => by
    simp only [Fld.key, F.semPeer, F.dieSeqSeq, dieOff]
    omega
  exact ⟨_, hexec, rfl, State.rejected_getF _ f (hcount _), State.rejected_getF _ f (hpeer _), _, rfl, rfl⟩

end
end

/-! ### The probe (06 R186) -/

/-- The number that SCH_PROBE_RES shows for a task's state. -/
def TaskSt.number : TaskSt → Nat
  | .pending => 0 | .semwait => 1 | .admitted => 2 | .ready => 3 | .running => 4 | .done => 5 | .cancelled => 6 | .faulted => 7

theorem TaskSt.number_lt (t : TaskSt) : t.number < 2 ^ F.schProbeResState.w := by cases t <;> decide

/-- SCH_PROBE_RES written. -/
def State.probed (s : State) (st : Nat) (b : Bool) (n : Nat) : State :=
  ((s.setF F.schProbeResState st).setB F.schProbeResValid b).setF F.schProbeResIdone n

theorem State.probed_fields (s : State) (st : Nat) (b : Bool) (n : Nat) :
    (s.probed st b n).flag F.schProbeResValid = b ∧
      (s.probed st b n).getF F.schProbeResIdone = n % 2 ^ F.schProbeResIdone.w ∧
      (s.probed st b n).getF F.schProbeResState = st % 2 ^ F.schProbeResState.w := by
  have hvalid : (s.probed st b n).getF F.schProbeResValid = ofBool b := by
    rw [State.probed, State.getF_setF_ne _ _ (by decide), State.getF_setB _ _ _ (by decide)]
  refine ⟨State.flag_eq_of_getF hvalid, State.getF_setF _ _ _, ?_⟩
  rw [State.probed, State.getF_setF_ne _ _ (by decide), State.getF_setB_ne _ _ (by decide), State.getF_setF]

section
variable {s : State} {w : Word64} (hworks : s.works = true) (hup : s.blockUp F.schProbeCtx.off = true)
  (hbad : (regOr F.schProbeCtx.off).badField w.toNat = none)
include hworks hup hbad

theorem schProbe_found {g : Graph} {y : TaskS}
    (hg : s.findGraph (F.schProbeCtx.of w.toNat) (F.schProbeSubseq.of w.toNat) = some g)
    (hy : g.tasks[F.schProbeTask.of w.toNat]? = some y) : exec (.schProbe w) s =
      .next (left s ((s.spend F.schProbeCtx.off).probed y.st.number true y.idone)) := by
  have hok : (s.spend F.schProbeCtx.off).regRefused (regOr F.schProbeCtx.off) w.toNat = none :=
    State.regRefused_up (s := s.spend _) hup hbad
  have hg : (s.spend F.schProbeCtx.off).findGraph (F.schProbeCtx.of w.toNat) (F.schProbeSubseq.of w.toNat) = some g := hg
  refine show execSchProbe w s = _ from (regWork_left _ _ hworks).trans ?_
  simp only [hok, hg, hy]
  rfl

theorem schProbe_none
    (hg : s.findGraph (F.schProbeCtx.of w.toNat) (F.schProbeSubseq.of w.toNat) = none) : exec (.schProbe w) s =
      .next (left s ((s.spend F.schProbeCtx.off).probed 0 false 0)) := by
  have hok : (s.spend F.schProbeCtx.off).regRefused (regOr F.schProbeCtx.off) w.toNat = none :=
    State.regRefused_up (s := s.spend _) hup hbad
  have hg : (s.spend F.schProbeCtx.off).findGraph (F.schProbeCtx.of w.toNat) (F.schProbeSubseq.of w.toNat) = none := hg
  refine show execSchProbe w s = _ from (regWork_left _ _ hworks).trans ?_
  simp only [hok, hg]
  rfl

end

/-! ### The completion ring's registers (06 R170) -/

theorem regOr_cqPtr : ∀ x : Fin 256, regOr (F.cqPtrHead x.val).off =
    ⟨(F.cqPtrHead x.val).off, 32, [⟨F.cqPtrTail x.val, .ro, .none, .any⟩, ⟨F.cqPtrHead x.val, .rw, .live, .any⟩]⟩ := by
  decide +kernel

theorem cqPtr_rejected (s : State) (x : Fin 256) : writeRejected s (s.rejected (F.cqPtrHead x.val)) (regOr (F.cqPtrHead x.val).off)
    ⟨F.cqPtrHead x.val, .rw, .init, .any⟩ := by
  have htail : ∀ d, (F.cqPtrTail x.val).key ≠ (F.dieSeqSeq d).key := fun d => by
    simp only [Fld.key, F.cqPtrTail, F.dieSeqSeq, dieOff]
    omega
  have hhead : ∀ d, (F.cqPtrHead x.val).key ≠ (F.dieSeqSeq d).key := fun d => by
    simp only [Fld.key, F.cqPtrHead, F.dieSeqSeq, dieOff]
    omega
  refine ⟨?_, _, rfl, rfl, rfl⟩
  rw [regOr_cqPtr]
  simp only [List.forall_mem_cons]
  exact ⟨State.rejected_getF _ _ (htail _), State.rejected_getF _ _ (hhead _), List.forall_mem_nil _⟩

section
variable {s : State} {x : Fin 256} (hworks : s.works = true)
include hworks

section
variable {w : BitVec 32} (hup : s.blockUp (F.cqPtrHead x.val).off = true)
  (hbad : (regOr (F.cqPtrHead x.val).off).badField w.toNat = none)
include hup hbad

/-- HEAD moves forward up to TAIL, or the write is rejected. -/
theorem cqPtrWrite_exec : exec (.cqPtrWrite x w) s = .next (left s (
    if (s.getF (F.cqPtrTail x.val) + 65536 - (F.cqPtrHead x.val).of w.toNat) % 65536 ≤
        (s.getF (F.cqPtrTail x.val) + 65536 - s.getF (F.cqPtrHead x.val)) % 65536
    then s.setF (F.cqPtrHead x.val) ((F.cqPtrHead x.val).of w.toNat) else s.rejected (F.cqPtrHead x.val))) := by
  refine show execCqPtrWrite x w s = _ from (work_left s _ hworks).trans ?_
  simp only [State.regRefused_up hup hbad]

end

/-- A change of address or size clears HEAD and TAIL. -/
theorem cqConfigWrite_exec {k : CqReg} {w : Word64} {f : Fld} {y : Nat} {v : State}
    (hf : f = match k with | .base => F.cqBaseAddr x.val | .cfg => F.cqCfgLog2size x.val)
    (hy : y = match (generalizing := false) k with | .base => w.toNat | .cfg => w.toNat % 2 ^ 32) (hup : s.blockUp f.off = true)
    (hbad : (regOr f.off).badField y = none) (hv : v = (s.spend f.off).fieldsWrite (regOr f.off).fields y) :
    exec (.cqConfigWrite x k w) s = .next (left s (if v.getF f = s.getF f then v
      else (v.setF (F.cqPtrTail x.val) 0).setF (F.cqPtrHead x.val) 0)) := by
  have hwrite : (s.spend f.off).regWrite (regOr f.off) y = v := (State.regWrite_up (s := s.spend _) hup hbad).trans hv.symm
  refine show execCqConfigWrite x k w s = _ from (regWork_left _ _ hworks).trans ?_
  cases k <;>
  · simp only at hf hy
    subst hf hy
    simp only [hwrite]
    rfl

end

/-- Settles O43: a grant takes the request at the head, a write of registers whose function is up writes their fields,
and the probe copies what it finds. -/
theorem semaphoresAndSchedulerRegisters : Obligations.SemaphoresAndSchedulerRegisters := by
  refine fun s hworks => ⟨fun n => ⟨semaphoreGrant_empty, fun r rest u h => ⟨semaphoreGrant_waits h, fun hroom hu => ?_⟩,
    fun w v hup hbad hv => ⟨fun hown => ?_, semWrite_rejects hworks hup hbad hv⟩⟩, fun w hup hbad =>
    ⟨fun g y hg hy => ?_, fun hg => ?_⟩, fun x => ⟨fun w h tail hup hbad hh htail => ?_,
    fun w y v f k hk hf hup hy hbad hv => ?_⟩⟩
  · have hgrant := semaphoreGrant_grants h hworks hroom
    rw [State.semTaken, ← hu] at hgrant
    refine ⟨fun y c e hwho he hctx => ?_, fun y sub i hwho => ?_, fun hcore htask => ?_⟩
    · rw [hgrant, hwho]
      subst hu
      exact congrArg (fun t => Host.Outcome.next (left s t)) (State.resumeSem_core he hctx)
    · rw [hgrant, hwho]
    · rw [hgrant]
      subst hu
      cases hwho : r.who
      case core y c => exact absurd hwho (hcore y c)
      case task y sub i => exact absurd hwho (htask y sub i)
      all_goals rfl
  · obtain ⟨f, hexec⟩ := semWrite_exec hworks hup hbad hv
    rw [hexec, hown]
    rfl
  · obtain ⟨hvalid, hidone, hstate⟩ := (s.spend F.schProbeCtx.off).probed_fields y.st.number true y.idone
    rw [Nat.mod_eq_of_lt y.st.number_lt] at hstate
    refine ⟨_, schProbe_found hworks hup hbad hg hy, rfl, hvalid, hidone, hstate.trans ?_⟩
    cases y.st <;> rfl
  · obtain ⟨hvalid, -⟩ := (s.spend F.schProbeCtx.off).probed_fields 0 false 0
    exact ⟨_, schProbe_none hworks hup hbad hg, rfl, hvalid⟩
  · subst hh htail
    have hexec := cqPtrWrite_exec (x := x) hworks hup hbad
    refine ⟨fun hle => ?_, fun hlt => ?_⟩
    · rw [hexec, if_pos hle]
      rfl
    · rw [if_neg (Nat.not_le.2 hlt)] at hexec
      exact ⟨_, hexec, rfl, cqPtr_rejected s x⟩
  · have hexec := cqConfigWrite_exec hworks hf hy hup hbad hv
    exact ⟨fun hsame => by rw [hexec, if_pos hsame], fun hnew => by rw [hexec, if_neg hnew]⟩

end Sys2Proof.Machine

namespace Sys2Proof.Machine

/-! ### The head slot of a submission ring (06 R164–R167) -/

section
variable {s u : State} {x : Nat} {e : List Byte}

/-- The head slot is read through the context's translation, or is the copy held of it. -/
theorem headEntry_reads : Keeps (ReadStep x s) (headEntry x) := by
  refine Keeps.getS.bind fun _ => (translate_reads _ _ _).bind fun tgt => ?_
  cases tgt with
  | hbm set off => exact (hbmRead_reads (.inr rfl) _ _ _).bind fun _ => Keeps.pure _
  | comp a => exact Keeps.getS.bind fun _ => Keeps.pure _

theorem headReads.reads (h : headReads s x e u) : ReadStep x s u := by
  obtain ⟨-, -, hgo⟩ := h
  have hread := (headEntry_reads (s := s) (x := x)).run s (ReadStep.refl s)
  rwa [hgo] at hread

theorem ReadStep.sched {y : Nat} (h : ReadStep y s u) : u.sched = s.sched := by rw [h.frame]
theorem ReadStep.left {y : Nat} (h : ReadStep y s u) {t : State} (hpending : t.pending = u.pending) (hpower : t.power = u.power) :
    Machine.left s t = t := by
  have hp : u.pending = s.pending := by rw [h.frame]
  have hw : u.power = s.power := by rw [h.frame]
  rw [Machine.left, ← hp, ← hw, ← hpending, ← hpower]

section
variable {y : Nat} (h : ReadStep y s u) (hx : x < 256)
include h hx

theorem ReadStep.sqStatHead : u.getF (F.sqStatHead x) = s.getF (F.sqStatHead x) :=
  h.getF_low (by simp only [Fld.key, F.sqStatHead]; omega)

theorem ReadStep.sqSize : u.sqSize x = s.sqSize x := by
  have hlog := h.getF_low (f := F.sqCfgLog2size x) (by simp only [Fld.key, F.sqCfgLog2size]; omega)
  rw [State.sqSize, State.sqSize, hlog]

/-- What the head slot holds is judged by the registers as they were before it was read. -/
theorem ReadStep.headView : u.headView x e = s.headView x e := by
  rw [State.headView, State.headView, h.sqStatHead hx, h.sqSize hx]

end

/-! What the head slot holds, by SEQ and OP -/

section
variable (s x)

theorem State.headView_entry (hseq : fieldAt e 16 2 = s.getF (F.sqStatHead x)) (hop : fieldAt e 18 1 = 1 ∨ fieldAt e 18 1 = 2) :
    s.headView x e = .entry (fieldAt e 18 1) e := by
  simp only [State.headView, if_pos hseq, if_pos hop]

theorem State.headView_reserved (hseq : fieldAt e 16 2 = s.getF (F.sqStatHead x)) (h1 : fieldAt e 18 1 ≠ 1)
    (h2 : fieldAt e 18 1 ≠ 2) : s.headView x e = .bad 2 := by
  simp only [State.headView, if_pos hseq, h1, h2, or_self, if_false]

theorem State.headView_empty (hseq : fieldAt e 16 2 ≠ s.getF (F.sqStatHead x))
    (hpass : (fieldAt e 16 2 + s.sqSize x) % 65536 = s.getF (F.sqStatHead x)) : s.headView x e = .empty := by
  simp only [State.headView, if_neg hseq, if_pos hpass]

theorem State.headView_overrun (hseq : fieldAt e 16 2 ≠ s.getF (F.sqStatHead x))
    (hpass : (fieldAt e 16 2 + s.sqSize x) % 65536 ≠ s.getF (F.sqStatHead x)) : s.headView x e = .bad 1 := by
  simp only [State.headView, if_neg hseq, if_neg hpass]

end

section
variable {op : Nat} {f : State → List Byte → State}

theorem headReads.lookHead (h : headReads s x e u) (hx : x < 256) : s.lookHead x op f = match s.headView x e with
    | .entry o e => if o = op then f u e else u
    | .empty => u
    | .bad err => u.stopQueue x err kOverflow x := by
  obtain ⟨hconsuming, hroom, hgo⟩ := h
  have hview : u.headView x e = s.headView x e := (headReads.reads ⟨hconsuming, hroom, hgo⟩).headView hx
  cases hcase : s.headView x e <;>
    simp only [State.lookHead, hconsuming, hroom, Bool.not_true, Bool.or_self, Bool.false_eq_true, if_false, hgo, hview,
      hcase]

theorem State.lookHead_idle (h : s.consuming x = false ∨ s.graphRoom x = false) : s.lookHead x op f = s := by
  rw [State.lookHead, if_pos]
  rcases h with h | h <;> simp [h]

end

/-- A stopped queue shows its error and makes one record. -/
theorem State.stopQueue_stopped {err : Nat} (herr : err < 256) (d : Nat) :
    queueStopped u (u.stopQueue x err kOverflow d) x err := by
  have hstate : ∀ n, (F.sqStatState x).key ≠ (F.dieSeqSeq n).key := fun n => by
    simp only [Fld.key, F.sqStatState, F.dieSeqSeq, dieOff]
    omega
  have hserr : ∀ n, (F.sqStatErr x).key ≠ (F.dieSeqSeq n).key := fun n => by
    simp only [Fld.key, F.sqStatErr, F.dieSeqSeq, dieOff]
    omega
  have hne : (F.sqStatState x).key ≠ (F.sqStatErr x).key := by
    simp only [Fld.key, F.sqStatState, F.sqStatErr]
    omega
  refine ⟨rfl, ?_, ?_, _, rfl, rfl, rfl⟩
  · rw [State.stopQueue, State.record_getF _ _ _ _ _ _ _ _ _ (hstate 0), State.getF_setF_ne _ _ hne, State.getF_setF]
    rfl
  · rw [State.stopQueue, State.record_getF _ _ _ _ _ _ _ _ _ (hserr 0), State.getF_setF]
    exact Nat.mod_eq_of_lt herr

end

/-- SUBMIT, CANCEL and HEAD_LINE_POLL look at the head slot for an entry of their own operation. -/
theorem headInstrs_look (x : Fin 256) (s : State) : ∀ i ∈ [Instr.submit x, .cancel x, .headLinePoll x],
    ∃ op f, exec i s = work s (fun s => s.lookHead x.val op f) ∧ op ≤ 2 ∧ (op = 1 → i = .submit x) ∧
      (op = 2 → i = .cancel x) := by
  simp only [List.forall_mem_cons]
  exact ⟨⟨1, _, show execSubmit x s = work s _ from rfl, by decide, fun _ => trivial, nofun⟩,
    ⟨2, _, show execCancel x s = work s _ from rfl, by decide, nofun, fun _ => trivial⟩,
    ⟨0, _, show execHeadLinePoll x s = work s _ from rfl, by decide, nofun, nofun⟩, List.forall_mem_nil _⟩

section
variable {s u : State} {x : Fin 256} {e : List Byte} (hworks : s.works = true) (h : headReads s x.val e u) {i : Instr}
  (hi : i ∈ [Instr.submit x, .cancel x, .headLinePoll x])
include hworks h hi

/-- An entry of another operation, or an empty slot, is left. -/
theorem headReads.entry_left (hseq : fieldAt e 16 2 = s.getF (F.sqStatHead x.val))
    (hop : (fieldAt e 18 1 = 1 ∧ i ≠ .submit x) ∨ (fieldAt e 18 1 = 2 ∧ i ≠ .cancel x)) : exec i s = .next (left s u) := by
  obtain ⟨op, f, hexec, -, hsubmit, hcancel⟩ := headInstrs_look x s i hi
  have hother : fieldAt e 18 1 ≠ op := by
    rintro rfl
    rcases hop with ⟨hop, hne⟩ | ⟨hop, hne⟩
    exacts [hne (hsubmit hop), hne (hcancel hop)]
  rw [hexec, work_left s _ hworks, h.lookHead x.isLt, s.headView_entry x.val hseq (hop.imp And.left And.left)]
  simp only [hother, if_false]

theorem headReads.empty_left (hseq : fieldAt e 16 2 ≠ s.getF (F.sqStatHead x.val))
    (hpass : (fieldAt e 16 2 + s.sqSize x.val) % 65536 = s.getF (F.sqStatHead x.val)) : exec i s = .next (left s u) := by
  obtain ⟨op, f, hexec, -⟩ := headInstrs_look x s i hi
  rw [hexec, work_left s _ hworks, h.lookHead x.isLt, s.headView_empty x.val hseq hpass]

/-- Whatever else the slot holds stops the queue. -/
theorem headReads.stops {err : Nat} (hview : s.headView x.val e = .bad err) (herr : err < 256) :
    runsTo i s fun t => queueStopped u t x.val err := by
  obtain ⟨op, f, hexec, -⟩ := headInstrs_look x s i hi
  have hstopped := State.stopQueue_stopped (u := u) (x := x.val) herr x.val
  refine ⟨u.stopQueue x.val err kOverflow x.val, ?_, hstopped⟩
  rw [hexec, work_left s _ hworks, h.lookHead x.isLt, hview]
  exact congrArg Host.Outcome.next (h.reads.left rfl rfl)

end

theorem headInstrs_idle {s : State} {x : Fin 256} (h : s.consuming x.val = false ∨ s.graphRoom x.val = false) :
    ∀ i ∈ [Instr.submit x, .cancel x, .headLinePoll x], exec i s = .next s := by
  intro i hi
  obtain ⟨op, f, hexec, -⟩ := headInstrs_look x s i hi
  rw [hexec]
  exact work_id (State.lookHead_idle h)

/-! ### Entries consumed (06 R164, R165, R168; 07 R202) -/

/-- What follows the step record of a consumed entry. -/
theorem State.consumed_eq {s u v w : State} {x : Nat} (hv : v = u.incF (F.sqStatHead x) 1) (hdue : u.sched.recDue = s.sched.recDue)
    (hw : (if tget false s.sched.recDue x then
        ({ v with sched.recDue := tput false v.sched.recDue x false }).readStepRec x true else some v) = some w) (cva : Nat) :
    u.consumed x cva = some (((w.setActive x).dropHead x cva).settle.watchHead x) := by
  subst hv
  have hsame : (u.incF (F.sqStatHead x) 1).sched.recDue = s.sched.recDue := hdue
  simp only [State.consumed, hsame] at hw ⊢
  rw [hw]
  rfl

section
variable {s u v w : State} {x : Fin 256} {e : List Byte} (hworks : s.works = true) (h : headReads s x.val e u)
  (hseq : fieldAt e 16 2 = s.getF (F.sqStatHead x.val))
  (hw : (if tget false s.sched.recDue x.val then
      ({ v with sched.recDue := tput false v.sched.recDue x.val false }).readStepRec x.val true else some v) = some w)
include hworks h hseq hw

theorem submit_consumes (hop : fieldAt e 18 1 = 1)
    (hv : v = ({ u with sched.graphs := u.sched.graphs ++ [submitted x.val (s.getF (F.sqStatHead x.val)) e] }).incF
      (F.sqStatHead x.val) 1) :
    exec (.submit x) s =
      .next (left s (((w.setActive x.val).dropHead x.val (u.headCva x.val)).settle.watchHead x.val)) := by
  have hdue : u.sched.recDue = s.sched.recDue := congrArg _ h.reads.sched
  have hhead := h.reads.sqStatHead x.isLt
  refine show execSubmit x s = _ from (work_left s _ hworks).trans ?_
  rw [h.lookHead x.isLt, s.headView_entry x.val hseq (.inl hop)]
  simp only [hop, if_true, hhead]
  have hconsumed := State.consumed_eq (s := s) (u := { u with
    sched.graphs := u.sched.graphs ++ [submitted x.val (s.getF (F.sqStatHead x.val)) e] }) hv hdue hw (u.headCva x.val)
  simp only [submitted] at hconsumed
  rw [hconsumed]
  rfl

theorem cancel_misses (hop : fieldAt e 18 1 = 2) (hmiss : ∀ g ∈ u.graphsOf x.val, g.gtag ≠ fieldAt e 8 8)
    (hv : v = ({ u with
        sched.graphs := u.sched.graphs ++ [cancelMissed x.val (s.getF (F.sqStatHead x.val)) e]
        sched.finished := u.sched.finished ++ [(x.val, s.getF (F.sqStatHead x.val))] }).incF (F.sqStatHead x.val) 1) :
    exec (.cancel x) s =
      .next (left s (((w.setActive x.val).dropHead x.val (u.headCva x.val)).settle.watchHead x.val)) := by
  have hdue : u.sched.recDue = s.sched.recDue := congrArg _ h.reads.sched
  have hhead := h.reads.sqStatHead x.isLt
  have hnone : ((u.graphsOf x.val).filter fun g => g.gtag = fieldAt e 8 8 ∧ g.fin != some ⟨2, 12, 0⟩) = [] :=
    List.filter_eq_nil_iff.2 fun g hg => by simp [hmiss g hg]
  refine show execCancel x s = _ from (work_left s _ hworks).trans ?_
  rw [h.lookHead x.isLt, s.headView_entry x.val hseq (.inr hop)]
  simp only [hop, if_true, hhead, hnone, List.isEmpty_nil]
  have hconsumed := State.consumed_eq (s := s) (u := { u with
    sched.graphs := u.sched.graphs ++ [cancelMissed x.val (s.getF (F.sqStatHead x.val)) e]
    sched.finished := u.sched.finished ++ [(x.val, s.getF (F.sqStatHead x.val))] }) hv hdue hw (u.headCva x.val)
  simp only [cancelMissed] at hconsumed
  rw [hconsumed]
  rfl

end

/-! ### The submission ring's registers (06 R165, R166) -/

section
variable {s : State} {x : Fin 256}

theorem rewatchTimer_idle (h : tget false s.sched.rewatch x.val = false) : exec (.rewatchTimer x) s = .next s := by
  refine show execRewatchTimer x s = .next s from work_id ?_
  simp only [h, Bool.not_false, if_true]

variable (hworks : s.works = true)
include hworks

theorem rewatchTimer_asks (h : tget false s.sched.rewatch x.val = true) : exec (.rewatchTimer x) s = .next (left s
    (({ s with sched.rewatch := tput false s.sched.rewatch x.val false }).watchHead x.val)) := by
  refine show execRewatchTimer x s = _ from (work_left s _ hworks).trans ?_
  simp only [h, Bool.not_true, Bool.false_eq_true, if_false]

theorem sqBaseWrite_exec {w : Word64} {v : State} (hup : s.blockUp (F.sqBaseAddr x.val).off = true)
    (hbad : (regOr (F.sqBaseAddr x.val).off).badField w.toNat = none)
    (hv : v = (s.spend (F.sqBaseAddr x.val).off).fieldsWrite (regOr (F.sqBaseAddr x.val).off).fields w.toNat) :
    exec (.sqBaseWrite x w) s = .next (left s (if v.getF (F.sqBaseAddr x.val) = s.getF (F.sqBaseAddr x.val) then v
      else (v.setF (F.sqStatHead x.val) 0).watchHead x.val)) := by
  have hwrite : (s.spend (F.sqBaseAddr x.val).off).regWrite (regOr (F.sqBaseAddr x.val).off) w.toNat = v :=
    (State.regWrite_up (s := s.spend _) hup hbad).trans hv.symm
  refine show execSqBaseWrite x w s = _ from (regWork_left _ _ hworks).trans ?_
  simp only [hwrite]
  rfl

section
variable {w : BitVec 32} {v : State} (hup : s.blockUp (F.sqCfgEnable x.val).off = true)
  (hbad : (regOr (F.sqCfgEnable x.val).off).badField w.toNat = none)
  (hv : v = s.fieldsWrite (regOr (F.sqCfgEnable x.val).off).fields w.toNat)
  (hsize : v.getF (F.sqCfgLog2size x.val) = s.getF (F.sqCfgLog2size x.val))
include hup hbad hv hsize

theorem sqCfgWrite_enables (hnow : v.flag (F.sqCfgEnable x.val) = true) (hwas : s.flag (F.sqCfgEnable x.val) = false) :
    exec (.sqCfgWrite x w) s =
      .next (left s (((v.setF (F.sqStatState x.val) 1).setF (F.sqStatErr x.val) 0).watchHead x.val)) := by
  have hwrite := (State.regWrite_up hup hbad).trans hv.symm
  refine show execSqCfgWrite x w s = _ from (work_left s _ hworks).trans ?_
  simp only [hwrite, hsize, if_true, hnow, hwas, Bool.not_true, Bool.not_false, Bool.false_eq_true, if_false]

theorem sqCfgWrite_disables (hnow : v.flag (F.sqCfgEnable x.val) = false) : runsTo (.sqCfgWrite x w) s fun t =>
    t = { s with regs := t.regs, err := t.err } ∧ t.getF (F.sqStatState x.val) = 0 ∧
      t.getF (F.sqStatHead x.val) = v.getF (F.sqStatHead x.val) := by
  have hwrite := (State.regWrite_up hup hbad).trans hv.symm
  have hne : (F.sqCfgEnable x.val).key ≠ (F.sqStatState x.val).key := by
    simp only [Fld.key, F.sqCfgEnable, F.sqStatState]
    omega
  have hhead : (F.sqStatHead x.val).key ≠ (F.sqStatState x.val).key := by
    simp only [Fld.key, F.sqStatHead, F.sqStatState]
    omega
  have hidle : (v.setF (F.sqStatState x.val) 0).watchHead x.val = v.setF (F.sqStatState x.val) 0 := by
    have hoff : (v.setF (F.sqStatState x.val) 0).consuming x.val = false := by
      have hflag : (v.setF (F.sqStatState x.val) 0).flag (F.sqCfgEnable x.val) = false :=
        (congrArg (· != 0) (State.getF_setF_ne v 0 hne)).trans hnow
      simp only [State.consuming, hflag, Bool.false_and]
    simp only [State.watchHead, hoff, Bool.not_false, Bool.true_or, if_true]
  have hexec : exec (.sqCfgWrite x w) s = .next (left s (v.setF (F.sqStatState x.val) 0)) := by
    refine show execSqCfgWrite x w s = _ from (work_left s _ hworks).trans ?_
    simp only [hwrite, hsize, if_true, hnow, Bool.not_false, hidle]
  obtain ⟨r, err, hshape⟩ := s.fieldsWrite_shape w.toNat (regOr (F.sqCfgEnable x.val).off).fields
  rw [← hv] at hshape
  refine ⟨_, hexec, ?_, (State.getF_setF v _ 0).trans (Nat.zero_mod _), State.getF_setF_ne v 0 hhead⟩
  rw [hshape]
  rfl

end
end

/-- Settles O41: the head slot is judged by SEQ and OP as HEAD stood before its read; what is consumed goes on as
`consumed` says, and a write of the ring's registers compares the fields before and after. -/
theorem submissionRings : Obligations.SubmissionRings := by
  rintro x s u e h hworks rfl
  refine ⟨fun hreads i hi => ⟨fun o hseq ho => ⟨fun hop hne => ?_, fun hop hne => ?_, fun h1 h2 => ?_⟩, fun hseq =>
      ⟨hreads.empty_left hworks hi hseq, fun hpass => ?_⟩⟩,
    fun v w hreads hseq hw => ⟨submit_consumes hworks hreads hseq hw, cancel_misses hworks hreads hseq hw⟩,
    headInstrs_idle, rewatchTimer_idle, rewatchTimer_asks hworks, fun w v hup hbad hv => ?_,
    fun w v hup hbad hv hsize => ⟨sqCfgWrite_disables hworks hup hbad hv hsize, sqCfgWrite_enables hworks hup hbad hv hsize⟩⟩
  · subst ho
    exact hreads.entry_left hworks hi hseq (.inl ⟨hop, hne⟩)
  · subst ho
    exact hreads.entry_left hworks hi hseq (.inr ⟨hop, hne⟩)
  · subst ho
    exact hreads.stops hworks hi (s.headView_reserved x.val hseq h1 h2) (by decide)
  · exact hreads.stops hworks hi (s.headView_overrun x.val hseq hpass) (by decide)
  · have hexec := sqBaseWrite_exec hworks hup hbad hv
    exact ⟨fun hsame => by rw [hexec, if_pos hsame], fun hnew => by rw [hexec, if_neg hnew]⟩

end Sys2Proof.Machine

namespace Sys2Proof.Machine

/-! ### The image check (06 R159, R168) -/

section
variable {s u : State} {x : Fin 256} {sub : BitVec 16}

theorem imageCheckDone_idle (h : ∀ g, s.findGraph x.val sub.toNat = some g → g.checking = false) :
    exec (.imageCheckDone x sub) s = .next s := by
  refine show execImageCheckDone x sub s = .next s from work_id ?_
  cases hg : s.findGraph x.val sub.toNat with
  | none => simp only [hg]
  | some g => simp only [hg, h g hg, Bool.not_false, if_true]

section
variable {g : Machine.Graph} {c : Nat} {h : List Byte} {ts : List TaskS} (hworks : s.works = true)
  (hg : s.findGraph x.val sub.toNat = some g) (hchecking : g.checking = true)
  (hgo : (checkImage x.val g.image).go s = (.ok (c, h, ts), u))
include hworks hg hchecking hgo

theorem imageCheckDone_checked (hc : c = 0) (hkept : g.cancelled = false) : exec (.imageCheckDone x sub) s =
    .next (left s ((u.modGraph x.val sub.toNat fun g =>
      { g with hdr := h, tasks := u.withPlaces ts, checking := false }).advance x.val).settle) := by
  subst hc
  refine show execImageCheckDone x sub s = _ from (work_left s _ hworks).trans ?_
  simp only [hg, hchecking, Bool.not_true, Bool.false_eq_true, if_false, hgo, hkept]

theorem imageCheckDone_rejects (hc : c ≠ 0) :
    exec (.imageCheckDone x sub) s = .next (left s ((u.finishGraph x.val sub.toNat 2 c).settle)) := by
  obtain ⟨n, rfl⟩ := Nat.exists_eq_succ_of_ne_zero hc
  refine show execImageCheckDone x sub s = _ from (work_left s _ hworks).trans ?_
  simp only [hg, hchecking, Bool.not_true, Bool.false_eq_true, if_false, hgo]

end

/-- An image that is misplaced, or whose first bytes are not those of a version 1 image, has its code (06 R159). -/
theorem checkImage_head (s : State) (x : Nat) : imageHeadCodes s x := by
  refine fun a => ⟨fun hoff => ?_, fun h u halign hread => ⟨fun hmagic => ?_, fun hmagic hmajor => ?_⟩⟩
  · have hoff : (a % 64 != 0) = true := bne_iff_ne.2 hoff
    simp only [checkImage, hoff, if_true]
    rfl
  · have hmagic : (fieldAt h 0 4 != 0x47435443) = true := bne_iff_ne.2 hmagic
    simp only [checkImage, halign, bne_self_eq_false, Bool.false_eq_true, if_false]
    refine (M.go_bind_ok hread _).trans ?_
    simp only [hmagic, if_true]
    rfl
  · have hmajor : (fieldAt h 4 2 != 1) = true := bne_iff_ne.2 hmajor
    simp only [checkImage, halign, bne_self_eq_false, Bool.false_eq_true, if_false]
    refine (M.go_bind_ok hread _).trans ?_
    simp only [hmagic, bne_self_eq_false, Bool.false_eq_true, if_false, hmajor, if_true]
    rfl

end

/-! ### Embers (06 R174, R178) -/

/-- The tasks of a context that wait for an Ember. -/
def State.emberTasks (s : State) (x : Nat) : List (Machine.Graph × Nat × Nat × TaskS) :=
  (s.taskList x).filter fun p => p.2.2.2.st == .admitted && !p.1.cancelled && p.1.fin.isNone

/-- Task `i` of graph `sub` receives the next Ember, and the three counters of R174 advance. -/
def State.emberGiven (u : State) (x sub i : Nat) : State :=
  ({ ((u.incF (F.ctxEmbersHeld x) 1).incF F.schEmberInuse 1).incF F.schEmbIssue 1 with
    sched.nextEmber := u.sched.nextEmber + 1 }).modTask x sub i fun t => { t with st := .ready, ember := some u.sched.nextEmber }

section
variable {s : State} {x : Fin 256} (hworks : s.works = true)
include hworks

theorem emberIssue_none (h : (s.advance x.val).getF (F.ctxSchedEmberQuota x.val) ≤ (s.advance x.val).getF (F.ctxEmbersHeld x.val) ∨
    16384 ≤ (s.advance x.val).getF F.schEmberInuse ∨ (s.advance x.val).emberTasks x.val = []) :
    exec (.emberIssue x) s = .next (left s (s.advance x.val)) := by
  refine show execEmberIssue x s = _ from (work_left s _ hworks).trans ?_
  rw [← or_assoc] at h
  rcases h with h | h
  · simp only [if_pos h]
  · rw [State.emberTasks] at h
    simp only [h, leastBy, ite_self]

theorem emberIssue_gives {g : Machine.Graph} {k i : Nat} {y : TaskS}
    (hquota : (s.advance x.val).getF (F.ctxEmbersHeld x.val) < (s.advance x.val).getF (F.ctxSchedEmberQuota x.val))
    (htable : (s.advance x.val).getF F.schEmberInuse < 16384)
    (hleast : leastBy (fun p => taskKey p.2.2.2 p.2.1 p.2.2.1) ((s.advance x.val).emberTasks x.val) = some (g, k, i, y)) :
    exec (.emberIssue x) s = .next (left s ((s.advance x.val).emberGiven x.val g.subseq i)) := by
  refine show execEmberIssue x s = _ from (work_left s _ hworks).trans ?_
  have hroom : ¬ ((s.advance x.val).getF (F.ctxSchedEmberQuota x.val) ≤ (s.advance x.val).getF (F.ctxEmbersHeld x.val) ∨
      16384 ≤ (s.advance x.val).getF F.schEmberInuse) := by omega
  rw [State.emberTasks] at hleast
  simp only [if_neg hroom, hleast]
  rfl

end

theorem State.incF_shape (u : State) (f : Fld) (n : Nat) : ∃ r, u.incF f n = { u with regs := r } := ⟨_, rfl⟩

theorem State.emberGiven_shape (u : State) (x sub i : Nat) :
    u.emberGiven x sub i = { u with regs := (u.emberGiven x sub i).regs, sched := (u.emberGiven x sub i).sched } ∧
      (u.emberGiven x sub i).sched = { ((u.modTask x sub i fun y =>
        { y with st := .ready, ember := some u.sched.nextEmber }).sched) with nextEmber := u.sched.nextEmber + 1 } := by
  obtain ⟨a, ha⟩ := u.incF_shape (F.ctxEmbersHeld x) 1
  obtain ⟨b, hb⟩ := State.incF_shape { u with regs := a } F.schEmberInuse 1
  obtain ⟨c, hc⟩ := State.incF_shape { u with regs := b } F.schEmbIssue 1
  simp only [State.emberGiven, ha, hb, hc]
  exact ⟨rfl, rfl⟩

theorem State.emberGiven_counts (u : State) (x : Fin 256) (sub i : Nat) :
    counted u (u.emberGiven x.val sub i) (F.ctxEmbersHeld x.val) 1 ∧ counted u (u.emberGiven x.val sub i) F.schEmberInuse 1 ∧
      counted u (u.emberGiven x.val sub i) F.schEmbIssue 1 := by
  have hregs : ∀ f, (u.emberGiven x.val sub i).getF f =
      (((u.incF (F.ctxEmbersHeld x.val) 1).incF F.schEmberInuse 1).incF F.schEmbIssue 1).getF f := fun _ => rfl
  have hhu : (F.ctxEmbersHeld x.val).key ≠ F.schEmberInuse.key := by
    simp only [Fld.key, F.ctxEmbersHeld, F.schEmberInuse]
    omega
  have hhi : (F.ctxEmbersHeld x.val).key ≠ F.schEmbIssue.key := by
    simp only [Fld.key, F.ctxEmbersHeld, F.schEmbIssue]
    omega
  have hui : F.schEmberInuse.key ≠ F.schEmbIssue.key := by decide
  refine ⟨?_, ?_, ?_⟩
  · rw [counted, hregs, State.getF_incF_ne _ _ hhi, State.getF_incF_ne _ _ hhu, State.getF_incF]
  · rw [counted, hregs, State.getF_incF_ne _ _ hui, State.getF_incF, State.getF_incF_ne _ _ hhu.symm]
  · rw [counted, hregs, State.getF_incF, State.getF_incF_ne _ _ hui.symm, State.getF_incF_ne _ _ hhi.symm]

/-! ### Placement (06 R175–R177, R188) -/

section
variable {α : Type} (key : α → Nat)

theorem sortBy_ins_head (a : α) (l : List α) : (sortBy.ins key a l).head? = match l.head? with
    | some b => if key b < key a then some b else some a
    | none => some a := by
  cases l with
  | nil => rfl
  | cons b r =>
    simp only [sortBy.ins, List.head?_cons]
    split <;> rfl

/-- The first of the sorted tasks is the least. -/
theorem sortBy_head (l : List α) : (sortBy key l).head? = leastBy key l := by
  induction l with
  | nil => rfl
  | cons a r ih => cases hr : leastBy key r <;> simp only [sortBy, sortBy_ins_head, ih, leastBy, hr]

end

/-- The tasks with an Ember and cohorts to place, and of these those that go first (06 R177). -/
def State.dueTasks (s : State) (x : Nat) : List (Machine.Graph × Nat × Nat × TaskS) :=
  (s.taskList x).filter fun p => p.2.2.2.ember.isSome && !p.1.cancelled && p.1.fin.isNone
    && decide (p.2.2.2.placed < p.2.2.2.instances)
def firstDue (due : List (Machine.Graph × Nat × Nat × TaskS)) : List (Machine.Graph × Nat × Nat × TaskS) :=
  if due.any fun p => !p.2.2.2.fill then due.filter fun p => !p.2.2.2.fill else due

section
variable {s : State} {x : Fin 256} {gr : Grant} (hworks : s.works = true) (hres : s.resident x.val = true)
  (hgrant : s.grant x.val = some gr)
include hworks hres hgrant

theorem cohortPlace_exec : exec (.cohortPlace x) s = .next (left s (
    match leastBy (fun p => taskKey p.2.2.2 (p.2.2.2.ember.getD 0) 0) (firstDue (s.dueTasks x.val)) with
    | some p => (s.placeTask x.val gr p.1 p.2.2.1 p.2.2.2).getD s
    | none => s)) := by
  refine show execCohortPlace x s = _ from (work_left s _ hworks).trans ?_
  rw [← sortBy_head, State.dueTasks]
  simp only [hres, hgrant, Bool.not_true, Bool.false_eq_true, if_false]
  rfl

end

/-- The registers that a placed core starts with (06 R188). -/
theorem startRegs_toList (a b c d e f : Nat) :
    ((([a, b, c, d, e, f].zip (upTo 6)).foldl (fun v q => v.set! q.2 (BitVec.ofNat 64 q.1))
      (Vector.replicate 32 0#64)) : Vector Word64 32).toList =
      ([a, b, c, d, e, f] ++ List.replicate 26 0).map (BitVec.ofNat 64) := rfl

theorem placeAt_single {s t : State} {x : Nat} {gr : Grant} {g : Machine.Graph} {i : Nat} {y : TaskS} {code : Nat × Nat}
    {sh k a c : Nat} {rest : List Nat} (hone : y.lcohort = 0) (hfree : s.freeCores gr k = c :: rest)
    (ht : t = s.placeAt x gr g i y code sh k a) :
    startsAs (t.core c)
        { ctx := x, subseq := g.subseq, task := i, index := y.placed, count := y.instances, rank := 0, size := 1,
          args := y.args, shared := if sh = 0 then 0 else (k % 8) * 2 ^ 25 + a, sharedLen := sh, step := s.stepNo x,
          gtag := g.gtag, code := code.1, codeLen := code.2 } ∧
      ∀ d, d ≠ c → t.core d = s.core d := by
  have hcores : ((s.freeCores gr k).take (2 ^ y.lcohort)).zip (upTo (2 ^ y.lcohort)) = [(c, 0)] := by
    rw [hfree, hone]
    rfl
  subst ht
  simp only [State.placeAt, hcores, List.foldl_cons, List.foldl_nil]
  refine ⟨⟨_, ?_, startRegs_toList _ _ _ _ _ _⟩, fun d hd => ?_⟩
  · refine (State.core_setCore s c _).trans ?_
    rw [hone]
    rfl
  · exact State.core_setCore_ne s _ hd

/-! ### Completion entries (06 R169, R170) -/

section
variable {s u : State} {x : Fin 256}

theorem completionEntryWrite_idle (h : (s.sched.finished.find? fun p => p.1 = x.val) = none) :
    exec (.completionEntryWrite x) s = .next s := by
  refine show execCompletionEntryWrite x s = .next s from work_id ?_
  simp only [h]

variable {sub : Nat} {g : Machine.Graph} {c : Completion}
  (hfin : (s.sched.finished.find? fun p => p.1 = x.val) = some (x.val, sub)) (hg : s.findGraph x.val sub = some g)
  (hc : g.fin = some c)
include hfin hg hc

theorem completionEntryWrite_full
    (hfull : (s.getF (F.cqPtrTail x.val) + 65536 - s.getF (F.cqPtrHead x.val)) % 65536 = s.cqSize x.val) :
    exec (.completionEntryWrite x) s = .next s := by
  refine show execCompletionEntryWrite x s = .next s from work_id ?_
  simp only [hfin, hg, hc, hfull, if_true]

theorem completionEntryWrite_writes (hworks : s.works = true)
    (hroom : (s.getF (F.cqPtrTail x.val) + 65536 - s.getF (F.cqPtrHead x.val)) % 65536 ≠ s.cqSize x.val)
    (hgo : (cvaWrite (dieUnit 0) x.val (64 * s.getF (F.cqBaseAddr x.val) + 32 * (s.getF (F.cqPtrTail x.val) % s.cqSize x.val))
      (completionBytes s x.val g c)).go s = (.ok (), u)) {v : State} (hv : v = u.incF (F.cqPtrTail x.val) 1) :
    exec (.completionEntryWrite x) s = .next (left s ((if u.flag (F.cqCfgBell x.val) = true then
      v.bell bellCompletion x.val 0 (v.getF (F.cqPtrTail x.val)) else v).dropGraph x.val sub)) := by
  have hbell : v.flag (F.cqCfgBell x.val) = u.flag (F.cqCfgBell x.val) := by
    have hne : (F.cqCfgBell x.val).key ≠ (F.cqPtrTail x.val).key := by
      simp only [Fld.key, F.cqCfgBell, F.cqPtrTail]
      omega
    rw [hv, State.flag, State.getF_incF_ne _ _ hne, State.flag]
  have hentry : completionBytes s x.val g c = s.cqEntry x.val g c := rfl
  rw [hentry] at hgo
  refine show execCompletionEntryWrite x s = _ from (work_left s _ hworks).trans ?_
  simp only [hfin, hg, hc, if_neg hroom, hgo, ← hv, hbell]

end

/-- Settles O42: each command goes the way of the case its state is in; the least task is the first of the sorted ones. -/
theorem graphsTasksAndCompletions : Obligations.GraphsTasksAndCompletions := by
  refine fun x s hworks => ⟨fun sub g c h ts u hg hchecking hgo => ⟨imageCheckDone_checked hworks hg hchecking hgo,
      imageCheckDone_rejects hworks hg hchecking hgo⟩, fun sub h => imageCheckDone_idle h, checkImage_head s x.val,
    fun u cand hu hcand => ?_, fun gr due hres hgrant hdue => ?_, fun gr g i y code sh k a c rest hone hfree t ht =>
      placeAt_single hone hfree ht, completionEntryWrite_idle, fun sub tail size d g c hfin hg hc htail hsize hd => ?_⟩
  · subst hu hcand
    refine ⟨emberIssue_none hworks, fun g k i y hquota htable hleast => ?_⟩
    have hexec := emberIssue_gives hworks hquota htable hleast
    obtain ⟨hshape, hsched⟩ := (s.advance x.val).emberGiven_shape x.val g.subseq i
    obtain ⟨hheld, hinuse, hissue⟩ := (s.advance x.val).emberGiven_counts x g.subseq i
    exact ⟨_, hexec, congrArg (left s) hshape, hsched, hheld, hinuse, hissue⟩
  · have hexec := cohortPlace_exec hworks hres hgrant
    rw [State.dueTasks, ← hdue] at hexec
    refine ⟨fun hnone => ?_, fun p hleast => ?_⟩
    · rw [hexec, hnone]
      rfl
    · rw [firstDue, hleast] at hexec
      exact hexec
  · subst htail hsize hd
    exact ⟨completionEntryWrite_full hfin hg hc, fun u v hroom hgo hv =>
      completionEntryWrite_writes hfin hg hc hworks hroom hgo hv⟩

end Sys2Proof.Machine

/-! PROOFS about the numerics of training (07): the counts of Tally's slots with the doom of a step, row 3 of the close;
and an update from its request to DONESEM. -/
namespace Sys2Proof.Machine

/-! ### The live counts of a slot (07 R200, R204) -/

section
variable (s : State)

/-- Live counts found for a slot and a step are theirs. -/
theorem State.liveOf_key (n k : Nat) : (s.liveOf n k).slot = n ∧ (s.liveOf n k).step = k := by
  unfold State.liveOf
  cases h : s.train.live.find? fun l => l.slot = n ∧ l.step = k with
  | none => exact ⟨rfl, rfl⟩
  | some l => simpa using List.find?_some h

/-- Counts put back are found for their slot and step, since what stood for them is gone. -/
@[simp] theorem State.liveOf_setLive (l : Live) : (s.setLive l).liveOf l.slot l.step = l := by
  have hgone : (s.train.live.filter fun k => !(k.slot = l.slot ∧ k.step = l.step)).find?
      (fun k => k.slot = l.slot ∧ k.step = l.step) = none := by
    rw [List.find?_eq_none]
    intro k hk
    simpa [imp_iff_not_or] using (List.mem_filter.1 hk).2
  rw [State.liveOf, State.setLive, List.find?_append, hgone]
  simp

/-- Counts put back leave those of every other slot or step. -/
theorem State.liveOf_setLive_ne (l : Live) {n k : Nat} (h : n ≠ l.slot ∨ k ≠ l.step) :
    (s.setLive l).liveOf n k = s.liveOf n k := by
  have hkept : (s.train.live.filter fun j => !(j.slot = l.slot ∧ j.step = l.step)).find?
      (fun j => j.slot = n ∧ j.step = k) = s.train.live.find? fun j => j.slot = n ∧ j.step = k := by
    rw [List.find?_filter]
    congr 1
    funext j
    by_cases hj : j.slot = n ∧ j.step = k
    · obtain ⟨rfl, rfl⟩ := hj
      simpa [not_and_or] using h
    · simp [hj]
  have hnew : ¬(l.slot = n ∧ l.step = k) := by omega
  rw [State.liveOf, State.setLive, List.find?_append, hkept, List.find?_cons_of_neg (by simpa using hnew)]
  simp [State.liveOf]

end

/-! ### The registers of a slot (07 R197, R200, R204) -/

section
variable (n : Nat)

@[simp] theorem key_tallyZero : (F.tallyZero n).key = 2048 * n + 46137344 := by simp only [Fld.key, F.tallyZero]; omega
@[simp] theorem key_tallySat : (F.tallySat n).key = 2048 * n + 46137856 := by simp only [Fld.key, F.tallySat]; omega
@[simp] theorem key_tallyNonfin : (F.tallyNonfin n).key = 2048 * n + 46138368 := by simp only [Fld.key, F.tallyNonfin]; omega
@[simp] theorem key_tallyMaxMaxmag : (F.tallyMaxMaxmag n).key = 2048 * n + 46138880 := by
  simp only [Fld.key, F.tallyMaxMaxmag]; omega
@[simp] theorem key_tallyCtlOwner : (F.tallyCtlOwner n).key = 2048 * n + 46139136 := by
  simp only [Fld.key, F.tallyCtlOwner]; omega
@[simp] theorem key_tallyCtlWatch : (F.tallyCtlWatch n).key = 2048 * n + 46139145 := by
  simp only [Fld.key, F.tallyCtlWatch]; omega
@[simp] theorem key_tallyCtlLivenf : (F.tallyCtlLivenf n).key = 2048 * n + 46139152 := by
  simp only [Fld.key, F.tallyCtlLivenf]; omega
@[simp] theorem key_tallyCtlOvf : (F.tallyCtlOvf n).key = 2048 * n + 46139153 := by
  simp only [Fld.key, F.tallyCtlOvf]; omega

end

/-! ### Reports that reach their slot (07 R199, R200, R204, R213) -/

/-- Counts with a report's added, and the larger maximum. -/
def Live.plus (l : Live) (r : Report) : Live :=
  { l with zero := l.zero + r.zero, sat := l.sat + r.sat, nonfin := l.nonfin + r.nonfin, max := Nat.max l.max r.max }

theorem Live.plus_key (l : Live) (r : Report) : (l.plus r).slot = l.slot ∧ (l.plus r).step = l.step := ⟨rfl, rfl⟩

/-- A report's counts put into its slot, and nothing else. -/
def State.tallied (s : State) (r : Report) : State := s.setLive ((s.liveOf r.slot r.step).plus r)

/-- A report with non-finite counts put into its slot: LIVENF is set when its step is the open one. -/
def State.talliedLive (s : State) (r : Report) : State :=
  if r.step = s.openStep r.ctx then (s.tallied r).setB (F.tallyCtlLivenf r.slot) true else s.tallied r

section
variable (s : State)

@[simp] theorem State.stepRec_setStepRec (x : Nat) (r : StepRec) : (s.setStepRec x r).stepRec x = r := by
  simp [State.stepRec, State.setStepRec]

theorem State.openStep_setStepRec (x : Nat) {r : StepRec} (h : r.step = s.stepNo x) :
    (s.setStepRec x r).openStep x = s.openStep x := by
  have hstep : (s.setStepRec x r).stepNo x = s.stepNo x := by rw [State.stepNo, State.stepRec_setStepRec, h]
  simp only [State.openStep, hstep]
  rfl

theorem State.doomOf_setStepRec (x k : Nat) {r : StepRec} (h : r.step = s.stepNo x) :
    (s.setStepRec x r).doomOf x k = if k = s.openStep x then r.doom else r.doomNext := by
  rw [State.doomOf, s.openStep_setStepRec x h, State.stepRec_setStepRec]

/-- A change of a step's doom is the doom read back. -/
theorem State.doomOf_setDoom (x k : Nat) (f : Doom → Doom) : (s.setDoom x k f).doomOf x k = f (s.doomOf x k) := by
  by_cases hk : k = s.openStep x
  · have hset : s.setDoom x k f = s.setStepRec x { s.stepRec x with doom := f (s.stepRec x).doom } :=
      congrArg (s.setStepRec x) (if_pos hk)
    have hdoom : s.doomOf x k = (s.stepRec x).doom := if_pos hk
    rw [hset, hdoom]
    refine (s.doomOf_setStepRec x k ?_).trans (if_pos hk)
    rfl
  · have hset : s.setDoom x k f = s.setStepRec x { s.stepRec x with doomNext := f (s.stepRec x).doomNext } :=
      congrArg (s.setStepRec x) (if_neg hk)
    have hdoom : s.doomOf x k = (s.stepRec x).doomNext := if_neg hk
    rw [hset, hdoom]
    refine (s.doomOf_setStepRec x k ?_).trans (if_neg hk)
    rfl

variable {s} {r : Report}

theorem State.liveOf_tallied : (s.tallied r).liveOf r.slot r.step = (s.liveOf r.slot r.step).plus r := by
  obtain ⟨hslot, hstep⟩ := (s.liveOf r.slot r.step).plus_key r
  obtain ⟨hslot', hstep'⟩ := s.liveOf_key r.slot r.step
  have h := s.liveOf_setLive ((s.liveOf r.slot r.step).plus r)
  rwa [hslot, hstep, hslot', hstep'] at h

theorem State.liveOf_tallied_ne {n k : Nat} (h : n ≠ r.slot ∨ k ≠ r.step) :
    (s.tallied r).liveOf n k = s.liveOf n k := by
  obtain ⟨hslot, hstep⟩ := s.liveOf_key r.slot r.step
  exact s.liveOf_setLive_ne _ (by simpa [Live.plus, hslot, hstep] using h)

theorem State.tallyArrive_late (h : r.step < s.openStep r.ctx) :
    s.tallyArrive r = s.setStepRec r.ctx { s.stepRec r.ctx with late := (s.stepRec r.ctx).late + 1 } := if_pos h

/-- A report of a step that is not closed is counted; one with non-finite values sets LIVENF of the open step, and on a
watched slot moves the doom. -/
theorem State.tallyArrive_open (h : s.openStep r.ctx ≤ r.step) :
    s.tallyArrive r = if r.nonfin = 0 then s.tallied r
      else if (s.talliedLive r).flag (F.tallyCtlWatch r.slot) then
        (s.talliedLive r).watchedNonfinite r.ctx r.step r.slot
      else s.talliedLive r :=
  if_neg (Nat.not_lt.2 h)

theorem State.tallyArrive_finite (h : s.openStep r.ctx ≤ r.step) (hfin : r.nonfin = 0) :
    s.tallyArrive r = s.tallied r := by
  rw [State.tallyArrive_open h, if_pos hfin]

/-- LIVENF set changes register fields alone. -/
theorem State.talliedLive_shape : ∃ g, s.talliedLive r = { s.tallied r with regs := g } := by
  unfold State.talliedLive
  split
  · exact ⟨_, rfl⟩
  · exact ⟨_, rfl⟩

/-- Behind its counts a report changes register fields and step records alone. -/
theorem State.tallyArrive_shape (h : s.openStep r.ctx ≤ r.step) :
    ∃ g k, s.tallyArrive r = { s.tallied r with regs := g, train.steps := k } := by
  obtain ⟨g, hg⟩ := State.talliedLive_shape (s := s) (r := r)
  rw [State.tallyArrive_open h, hg]
  split
  · exact ⟨_, _, rfl⟩
  · split
    · exact ⟨_, _, rfl⟩
    · exact ⟨_, _, rfl⟩

/-- A watched report with a non-finite count moves the doom of its step, as it stood. -/
theorem State.tallyArrive_watched (h : s.openStep r.ctx ≤ r.step) (hnonfin : r.nonfin ≠ 0)
    (hwatch : s.flag (F.tallyCtlWatch r.slot) = true) :
    s.tallyArrive r = (s.talliedLive r).watchedNonfinite r.ctx r.step r.slot := by
  have hkey : (F.tallyCtlWatch r.slot).key ≠ (F.tallyCtlLivenf r.slot).key := by simp
  have hflag : (s.talliedLive r).flag (F.tallyCtlWatch r.slot) = true := by
    unfold State.talliedLive
    split
    · rw [State.flag, State.getF_setB_ne _ _ hkey]
      exact hwatch
    · exact hwatch
  rw [State.tallyArrive_open h, if_neg hnonfin, if_pos hflag]

theorem State.doomOf_talliedLive (x k : Nat) : (s.talliedLive r).doomOf x k = s.doomOf x k := by
  obtain ⟨g, hg⟩ := State.talliedLive_shape (s := s) (r := r)
  rw [hg]
  rfl

end

/-- Before the step's norm is formed the step is doomed, and the first such slot stays its DOOMSLOT. -/
theorem State.watchedNonfinite_open (s : State) (x k n : Nat) (h : (s.doomOf x k).normed = false) :
    (s.watchedNonfinite x k n).doomOf x k = { s.doomOf x k with
      doomed := true, slot := if (s.doomOf x k).slot = 0xFFFF then n else (s.doomOf x k).slot } := by
  rw [State.watchedNonfinite, State.doomOf_setDoom]
  exact if_neg (by simp [h])

theorem State.watchedNonfinite_normed (s : State) (x k n : Nat) (h : (s.doomOf x k).normed = true) :
    (s.watchedNonfinite x k n).doomOf x k = { s.doomOf x k with latewatch := true } := by
  rw [State.watchedNonfinite, State.doomOf_setDoom]
  exact if_pos h

/-- Report `i` is no longer on its way. -/
def State.reportTaken (s : State) (i : Nat) : State := { s with train.reports := ldrop s.train.reports i }

theorem tallyReport_exec {s : State} {i : Nat} {r : Report} (hworks : s.works = true) (hr : s.train.reports[i]? = some r) :
    exec (.tallyReport i) s = .next (left s ((s.reportTaken i).tallyArrive r)) := by
  refine show execTallyReport i s = _ from (work_left s _ hworks).trans ?_
  simp only [hr, State.reportTaken]

/-- A report of a closed step counts LATE alone. -/
theorem tallyReport_late {i : Nat} {r : Report} {s : State} (hworks : s.works = true) (hr : s.train.reports[i]? = some r)
    (hlate : r.step < s.openStep r.ctx) :
    runsTo (.tallyReport i) s fun t => t = { s with train := t.train } ∧ t.train.live = s.train.live ∧
      t.train.reports = ldrop s.train.reports i ∧
      t.stepRec r.ctx = { s.stepRec r.ctx with late := (s.stepRec r.ctx).late + 1 } := by
  have h := tallyReport_exec hworks hr
  rw [State.tallyArrive_late (s := s.reportTaken i) hlate] at h
  exact ⟨_, h, rfl, rfl, rfl, State.stepRec_setStepRec _ _ _⟩

/-- A report of a step still open is counted in its slot; a watched one with non-finite values moves the doom. -/
theorem tallyReport_counted {i : Nat} {r : Report} {s : State} (hworks : s.works = true)
    (hr : s.train.reports[i]? = some r) (hopen : s.openStep r.ctx ≤ r.step) :
    runsTo (.tallyReport i) s fun t => t = { s with regs := t.regs, train := t.train } ∧
      t.train.reports = ldrop s.train.reports i ∧ t.liveOf r.slot r.step = (s.liveOf r.slot r.step).plus r ∧
      (∀ n k, n ≠ r.slot ∨ k ≠ r.step → t.liveOf n k = s.liveOf n k) ∧
      (r.nonfin = 0 → t.stepRec r.ctx = s.stepRec r.ctx) ∧
      (r.nonfin ≠ 0 → s.flag (F.tallyCtlWatch r.slot) = true →
        ((s.doomOf r.ctx r.step).normed = false → t.doomOf r.ctx r.step = { s.doomOf r.ctx r.step with
          doomed := true, slot := if (s.doomOf r.ctx r.step).slot = 0xFFFF then r.slot else (s.doomOf r.ctx r.step).slot }) ∧
        ((s.doomOf r.ctx r.step).normed = true →
          t.doomOf r.ctx r.step = { s.doomOf r.ctx r.step with latewatch := true })) := by
  have h := tallyReport_exec hworks hr
  generalize hs : s.reportTaken i = v at h
  have hv : v.openStep r.ctx ≤ r.step := hs ▸ hopen
  obtain ⟨g, k, hshape⟩ := State.tallyArrive_shape hv
  refine ⟨_, h, ?_, ?_, ?_, fun n k' hne => ?_, fun hfin => ?_, fun hnonfin hwatch => ?_⟩
  · rw [hshape, ← hs]; rfl
  · rw [hshape, ← hs]; rfl
  · rw [hshape]
    exact State.liveOf_tallied.trans (by rw [← hs]; rfl)
  · rw [hshape]
    exact (State.liveOf_tallied_ne hne).trans (by rw [← hs]; rfl)
  · rw [State.tallyArrive_finite hv hfin, ← hs]; rfl
  · have hdoom : (v.talliedLive r).doomOf r.ctx r.step = s.doomOf r.ctx r.step := by
      rw [State.doomOf_talliedLive, ← hs]; rfl
    rw [State.tallyArrive_watched hv hnonfin (by rw [← hs]; exact hwatch), ← hdoom]
    exact ⟨State.watchedNonfinite_open _ r.ctx r.step r.slot, State.watchedNonfinite_normed _ r.ctx r.step r.slot⟩

/-! ### The counts of a slot cleared and closed (07 R197, R200, R204) -/

/-- Every count of a slot, live and closed, at 0. -/
def State.slotCleared (s : State) (n : Nat) : State :=
  (((((s.clearLive n).setF (F.tallyZero n) 0).setF (F.tallySat n) 0).setF (F.tallyNonfin n) 0).setF
    (F.tallyMaxMaxmag n) 0).setB (F.tallyCtlOvf n) false

/-- The counts of a slot's last closed step are those of `l`. -/
def State.slotClosed (s : State) (n : Nat) (l : Live) : State :=
  ((((s.setF (F.tallyZero n) (cap48 l.zero)).setF (F.tallySat n) (cap48 l.sat)).setF (F.tallyNonfin n) (cap48 l.nonfin)).setF
    (F.tallyMaxMaxmag n) l.max).setB (F.tallyCtlOvf n) (decide (2 ^ 48 - 1 ≤ Nat.max l.zero (Nat.max l.sat l.nonfin)))

section
variable (s : State) (n : Nat)

theorem State.slotCleared_live : ∀ l ∈ (s.slotCleared n).train.live, l.slot ≠ n :=
  fun _ hl => by simpa using (List.mem_filter.1 hl).2

theorem State.clearLive_getF {g : Fld} (h : g.key ≠ (F.tallyCtlLivenf n).key) : (s.clearLive n).getF g = s.getF g :=
  State.getF_setB_ne s false h

theorem State.clearLive_livenf : (s.clearLive n).flag (F.tallyCtlLivenf n) = false :=
  s.flag_setB (F.tallyCtlLivenf n) false Nat.one_pos

/-- A cleared slot's counts read 0, and its owner as before. -/
theorem State.slotCleared_getF : (s.slotCleared n).getF (F.tallyCtlOwner n) = s.getF (F.tallyCtlOwner n) ∧
    (s.slotCleared n).getF (F.tallyZero n) = 0 ∧ (s.slotCleared n).getF (F.tallySat n) = 0 ∧
    (s.slotCleared n).getF (F.tallyNonfin n) = 0 ∧ (s.slotCleared n).getF (F.tallyMaxMaxmag n) = 0 := by
  simp [State.slotCleared, State.getF_setB_ne, State.getF_setF_ne, State.clearLive_getF]

theorem State.slotCleared_flags : (s.slotCleared n).flag (F.tallyCtlLivenf n) = false ∧
    (s.slotCleared n).flag (F.tallyCtlOvf n) = false := by
  refine ⟨?_, State.flag_setB _ _ false Nat.one_pos⟩
  have h := s.clearLive_livenf n
  rw [State.flag] at h ⊢
  simpa [State.slotCleared, State.getF_setB_ne, State.getF_setF_ne] using h

theorem cap48_mod (m : Nat) : cap48 m % 2 ^ 48 = min m (2 ^ 48 - 1) := by
  have hle : cap48 m ≤ 2 ^ 48 - 1 := Nat.min_le_right _ _
  exact Nat.mod_eq_of_lt (by omega)

/-- The counts of a closed step are capped at 2^48 − 1, and its maximum is a W32 code. -/
theorem State.slotClosed_getF {l : Live} (hmax : l.max < 2 ^ 32) :
    (s.slotClosed n l).getF (F.tallyZero n) = min l.zero (2 ^ 48 - 1) ∧
    (s.slotClosed n l).getF (F.tallySat n) = min l.sat (2 ^ 48 - 1) ∧
    (s.slotClosed n l).getF (F.tallyNonfin n) = min l.nonfin (2 ^ 48 - 1) ∧
    (s.slotClosed n l).getF (F.tallyMaxMaxmag n) = l.max := by
  have hzero : cap48 l.zero % 2 ^ (F.tallyZero n).w = min l.zero (2 ^ 48 - 1) := cap48_mod l.zero
  have hsat : cap48 l.sat % 2 ^ (F.tallySat n).w = min l.sat (2 ^ 48 - 1) := cap48_mod l.sat
  have hnonfin : cap48 l.nonfin % 2 ^ (F.tallyNonfin n).w = min l.nonfin (2 ^ 48 - 1) := cap48_mod l.nonfin
  have hcode : l.max % 2 ^ (F.tallyMaxMaxmag n).w = l.max := Nat.mod_eq_of_lt hmax
  simp [State.slotClosed, State.getF_setB_ne, State.getF_setF_ne, hzero, hsat, hnonfin, hcode]

/-- Closing a slot writes the live counts of the step as the closed ones; LIVENF follows. -/
theorem State.closeSlot_getF (x k : Nat) {g : Fld} (h : g.key ≠ (F.tallyCtlLivenf n).key) :
    (s.closeSlot x k n).getF g = (s.slotClosed n (s.liveOf n k)).getF g := State.getF_setB_ne _ _ h

theorem State.closeSlot_live (x k : Nat) : ∀ m ∈ (s.closeSlot x k n).train.live, m.slot ≠ n ∨ m.step ≠ k := by
  intro m hm
  have h := (List.mem_filter.1 hm).2
  simp only [Bool.not_eq_true', decide_eq_false_iff_not] at h
  omega

end

section
variable {n : Fin 4096} {v : BitVec 32} {s u : State} (hworks : s.works = true)
  (hu : u = s.regWrite (regOr (F.tallyCtlOwner n.val).off) v.toNat)
include hworks hu

theorem tallyCtlWrite_exec : exec (.tallyCtlWrite n v) s = .next (left s
    (if u.getF (F.tallyCtlOwner n.val) = s.getF (F.tallyCtlOwner n.val) ∧
        u.getF (F.tallyCtlValid n.val) = s.getF (F.tallyCtlValid n.val) then u else u.slotCleared n.val)) := by
  subst hu
  exact show execTallyCtlWrite n v s = _ from work_left s _ hworks

theorem tallyCtlWrite_same (hown : u.getF (F.tallyCtlOwner n.val) = s.getF (F.tallyCtlOwner n.val))
    (hvalid : u.getF (F.tallyCtlValid n.val) = s.getF (F.tallyCtlValid n.val)) :
    exec (.tallyCtlWrite n v) s = .next (left s u) := by
  rw [tallyCtlWrite_exec hworks hu, if_pos ⟨hown, hvalid⟩]

theorem tallyCtlWrite_clears (h : u.getF (F.tallyCtlOwner n.val) ≠ s.getF (F.tallyCtlOwner n.val) ∨
      u.getF (F.tallyCtlValid n.val) ≠ s.getF (F.tallyCtlValid n.val)) :
    exec (.tallyCtlWrite n v) s = .next (left s (u.slotCleared n.val)) := by
  rw [tallyCtlWrite_exec hworks hu, if_neg (not_and_or.2 h)]

end

/-! ### Row 3 of the close (07 R211) -/

section
variable (r : StepRec) (a : Bool)

/-- The move of the loss scale leaves the counters, the cursor and the flags. -/
theorem StepRec.moveScale_shape : ∃ l c, r.moveScale a = { r with lossScale := l, clean := c } := by
  unfold StepRec.moveScale
  repeat' split
  all_goals exact ⟨_, _, rfl⟩

/-- Row 3 counts the step, and moves the cursor unless the step is skipped and its cursor held. -/
theorem StepRec.advance_counters : (r.advance a).step = r.step + 1 ∧
    (r.advance a).applied = r.applied + (if a then 1 else 0) ∧ (r.advance a).skipped = r.skipped + (if a then 0 else 1) ∧
    (r.advance a).cursor = r.cursor + (if a = false ∧ bit r.flags 1 = true then 0 else 1) := by
  obtain ⟨l, c, h⟩ := r.moveScale_shape a
  unfold StepRec.advance
  rw [h]
  cases a
  · cases hheld : bit r.flags 1
    · exact ⟨rfl, rfl, rfl, by simp [hheld]⟩
    · exact ⟨rfl, rfl, rfl, by simp [hheld]⟩
  · exact ⟨rfl, rfl, rfl, by simp⟩

theorem StepRec.moveScale_static (h : bit r.flags 2 = false) : r.moveScale a = r := by
  simp [StepRec.moveScale, h]

variable {r} (hdyn : bit r.flags 2 = true) (hdue : r.checkDue = false)
include hdyn hdue

theorem StepRec.moveScale_skipped :
    r.moveScale false = { r with lossScale := lsUp (w32Mul r.lossScale 0x3F000000#32) r.lsMin, clean := 0 } := by
  simp [StepRec.moveScale, hdyn, hdue]

theorem StepRec.moveScale_applied_short (h : r.clean + 1 < if r.growInt = 0 then 2000 else r.growInt) :
    r.moveScale true = { r with clean := r.clean + 1 } := by
  simp [StepRec.moveScale, hdyn, hdue, h]

theorem StepRec.moveScale_applied_full (h : (if r.growInt = 0 then 2000 else r.growInt) ≤ r.clean + 1) :
    r.moveScale true = { r with lossScale := lsDown (w32Mul r.lossScale 0x40000000#32) r.lsMax, clean := 0 } := by
  simp [StepRec.moveScale, hdyn, hdue, Nat.not_lt.2 h]

end

theorem StepRec.advance_lossScale (r : StepRec) (a : Bool) : (r.advance a).lossScale = (r.moveScale a).lossScale := rfl
theorem StepRec.advance_clean (r : StepRec) (a : Bool) : (r.advance a).clean = (r.moveScale a).clean := rfl

/-- Settles O46: a report is late or is counted, and its doom is that of its step read back; a slot's registers have
keys of their own; row 3 moves its counters, and the loss scale by the branch its outcome and CLEAN choose. -/
theorem tallyCountsAndDoom : Obligations.TallyCountsAndDoom := by
  refine ⟨fun i r l s hworks hr hl => ⟨tallyReport_late hworks hr, fun hopen => ?_⟩,
    fun n v s u hworks hu => ⟨fun hown hvalid => ?_, fun hchanged => ?_⟩, fun x k n l s hn hl hmax => ?_, fun r a => ?_⟩
  · obtain ⟨t, ht, hshape, hreports, hlive, hother, hfin, hwatched⟩ := tallyReport_counted hworks hr hopen
    obtain ⟨hslot, hstep⟩ := s.liveOf_key r.slot r.step
    subst hl
    refine ⟨t, ht, hshape, hreports, ?_, hother, hfin, fun hnonfin _ hwatch => ?_⟩
    · rw [hlive, Live.plus, hslot, hstep]
    · obtain ⟨hbefore, hafter⟩ := hwatched hnonfin hwatch
      refine ⟨fun hnot => ?_, hafter⟩
      rw [hbefore hnot]
      exact ⟨rfl, rfl⟩
  · exact tallyCtlWrite_same hworks hu hown hvalid
  · obtain ⟨hown, hzero, hsat, hnonfin, hmax⟩ := u.slotCleared_getF n.val
    obtain ⟨hlivenf, hovf⟩ := u.slotCleared_flags n.val
    exact ⟨_, tallyCtlWrite_clears hworks hu hchanged, u.slotCleared_live n.val, hown, hzero, hsat, hnonfin, hmax, hlivenf,
      hovf⟩
  · subst hl
    obtain ⟨hzero, hsat, hnonfin, hmag⟩ := s.slotClosed_getF n hmax
    refine ⟨(s.closeSlot_getF n x k ?_).trans hzero, (s.closeSlot_getF n x k ?_).trans hsat,
      (s.closeSlot_getF n x k ?_).trans hnonfin, (s.closeSlot_getF n x k ?_).trans hmag, s.closeSlot_live n x k⟩
    all_goals simp
  · obtain ⟨hstep, happlied, hskipped, hcursor⟩ := r.advance_counters a
    refine ⟨hstep, ?_, happlied, hcursor, fun hstatic => ?_, fun hdyn hdue => ⟨?_, ?_, ?_⟩⟩
    · rw [happlied, hskipped]
      cases a
      · rfl
      · exact Nat.add_right_comm _ _ _
    · rw [StepRec.advance_lossScale, StepRec.advance_clean, r.moveScale_static a hstatic]
      exact ⟨rfl, rfl⟩
    · rintro rfl
      rw [StepRec.advance_lossScale, StepRec.advance_clean, StepRec.moveScale_skipped hdyn hdue]
      exact ⟨rfl, rfl⟩
    · rintro rfl hshort
      rw [StepRec.advance_lossScale, StepRec.advance_clean, StepRec.moveScale_applied_short hdyn hdue hshort]
      exact ⟨rfl, rfl⟩
    · rintro rfl hfull
      rw [StepRec.advance_lossScale, StepRec.advance_clean, StepRec.moveScale_applied_full hdyn hdue hfull]
      exact ⟨rfl, rfl⟩

end Sys2Proof.Machine

namespace Sys2Proof.Machine

/-! ### The request of an update (08 R221, R223) -/

section
variable {s : State} {x : Fin 256} {g : Grant} (hworks : s.works = true) (hg : s.grant x.val = some g)
  (halive : s.alive x.val = true)
include hg

theorem updateRequest_again (hopen : (s.upd x.val).isSome = true) : exec (.updateRequest x) s = .next s := by
  refine show execUpdateRequest x s = _ from work_id ?_
  simp [hg, hopen]

include hworks halive
variable {b : List Byte} {u r : State} (hnone : s.upd x.val = none)
  (hgo : (cvaRead (dieUnit 0) x.val g.udesc 128).go s = (.ok b, u))
  (hr : r = (u.unitJoin (fieldAt b 0 2) (.update x.val)).settle)
include hnone hgo hr

/-- A request that is not granted yet waits in GOSEM's queue. -/
theorem updateRequest_waits (hwaits : r.resident x.val = false ∨ r.unitTake (.update x.val) = none) :
    exec (.updateRequest x) s = .next (left s r) := by
  refine show execUpdateRequest x s = _ from (work_left s _ hworks).trans ?_
  simp only [hg, halive, hnone, hgo, ← hr, Bool.not_true, Option.isSome_none, Bool.or_self, Bool.false_eq_true, if_false]
  rcases hwaits with h | h
  · simp only [h, Bool.not_false, if_true]
  · simp only [h, ite_self]

/-- A request that is granted and passes its checks opens the update. -/
theorem updateRequest_granted {z v : State} {w : Upd} (hres : r.resident x.val = true)
    (hz : r.unitTake (.update x.val) = some z) (hcheck : (checkUpdate x.val g.udesc b).go z = (.ok w, v)) :
    exec (.updateRequest x) s = .next (left s (v.setUpd x.val (some w))) := by
  refine show execUpdateRequest x s = _ from (work_left s _ hworks).trans ?_
  simp only [hg, halive, hnone, hgo, ← hr, hres, hz, hcheck, Bool.not_true, Option.isSome_none, Bool.or_self,
    Bool.false_eq_true, if_false]

end

/-! ### The decision (08 R226, R227) -/

section
variable {u : Upd} {q l n : W32} {a : Nat} (hn : n = w32Mul (w32Sqrt q) (w32Div w32One l))
include hn

/-- A norm that is not finite, or absurd, skips the step. -/
theorem Upd.decide_skips
    (h : w32IsFinite q = false ∨ (w32IsZero u.absurd = false ∧ w32Lt u.absurd n = true)) :
    u.decide q l a = skippedAs u q l n := by
  subst hn
  cases hq : w32IsFinite q with
  | false => simp [Upd.decide, skippedAs, hq]
  | true =>
    obtain ⟨hzero, hlt⟩ := h.resolve_left (by simp [hq])
    simp [Upd.decide, skippedAs, hq, hzero, hlt]

/-- A finite norm that is not absurd applies the step, with its clip factor. -/
theorem Upd.decide_applies (hq : w32IsFinite q = true) (h : w32IsZero u.absurd = true ∨ w32Lt u.absurd n = false) :
    (u.decide q l a).phase = .applied ∧ (u.decide q l a).outcome = 1 ∧ (u.decide q l a).n = n ∧
      (u.decide q l a).c = if w32IsZero u.clip = true ∨ w32Lt u.clip n = false then w32One else w32Div u.clip n := by
  subst hn
  have habs : (!w32IsZero u.absurd && w32Lt u.absurd (w32Mul (w32Sqrt q) (w32Div w32One l))) = false := by
    rcases h with h | h <;> simp [h]
  simp [Upd.decide, hq, habs]

end

theorem skippedAs_phase (u : Upd) (q l n : W32) : (skippedAs u q l n).phase = .skipped := by
  unfold skippedAs
  split <;> rfl

/-- Accesses that answer leave what they came to. -/
theorem State.runFrom_ok {s t old : State} {x d : Nat} {m : M Unit} (h : m.go s = (.ok (), t)) :
    s.runFrom old x d m = t := by
  rw [State.runFrom, h]

section
variable {s : State} {x : Fin 256} {u : Upd} {k : Nat} {q : W32} (hu : s.upd x.val = some u)
  (hq : (s.col1 x.val).q = some (k, q))
include hu hq

theorem skipDecision_other (hk : k ≠ u.step) : exec (.skipDecision x) s = .next s := by
  refine show execSkipDecision x s = _ from work_id ?_
  simp [hu, hq, hk]

variable (hworks : s.works = true) (hphase : u.phase = .waitQ) (hres : s.resident x.val = true) (hk : k = u.step)
include hworks hphase hres hk

/-- On the norm of its own step the update takes the decision; an applied one goes on to its pre-pass and its shards. -/
theorem skipDecision_decides {w : Upd} (hw : w = u.decide q (s.stepRec x.val).lossScale (s.stepRec x.val).applied) :
    exec (.skipDecision x) s = .next (left s ((s.setUpd x.val (some w)).runFrom s x.val 0 (do
      if w.phase = .applied then
        trustPass x.val w
        w.shards.forM fun h => startShard x.val w.step h))) := by
  have hgate : (u.phase != .waitQ || !(s.resident x.val) || k != u.step) = false := by simp [hphase, hres, hk]
  refine show execSkipDecision x s = _ from (work_left s _ hworks).trans ?_
  simp only [hu, hq, hgate, ← hw, Bool.false_eq_true, if_false]

theorem skipDecision_skips {l n : W32} (hl : l = (s.stepRec x.val).lossScale)
    (hn : n = w32Mul (w32Sqrt q) (w32Div w32One l))
    (h : w32IsFinite q = false ∨ (w32IsZero u.absurd = false ∧ w32Lt u.absurd n = true)) :
    exec (.skipDecision x) s = .next (left s (s.setUpd x.val (some (skippedAs u q l n)))) := by
  have hw : skippedAs u q l n = u.decide q (s.stepRec x.val).lossScale (s.stepRec x.val).applied := by
    rw [← hl, Upd.decide_skips hn h]
  have hphase' : (skippedAs u q l n).phase ≠ .applied := by simp [skippedAs_phase]
  rw [skipDecision_decides hu hq hworks hphase hres hk hw, if_neg hphase']
  rfl

theorem skipDecision_applies {w : Upd} {v : State}
    (hw : w = u.decide q (s.stepRec x.val).lossScale (s.stepRec x.val).applied) (happlied : w.phase = .applied)
    (hgo : (do trustPass x.val w; w.shards.forM fun h => startShard x.val w.step h).go (s.setUpd x.val (some w)) =
      (.ok (), v)) :
    exec (.skipDecision x) s = .next (left s v) := by
  rw [skipDecision_decides hu hq hworks hphase hres hk hw, if_pos happlied, State.runFrom_ok hgo]

end

/-! ### The step commit record (08 R243; 07 R204, R211) -/

/-- Row 3 once the record stands: its Bell, the counters `r`, the norm let go, and, of an applied step, the group
records it read in force. -/
def State.stepCommitted (s : State) (x : Nat) (u : Upd) (r : StepRec) (ok : Bool) : State :=
  let s := if u.bell then s.bell bellStep x u.outcome u.step else s
  let s := (s.setUpd x (some { u with phase := .drain })).setStepRec x r
  let s := s.setCol x { s.col1 x with q := none }
  if ok then { s with smithy.groups := u.groups.foldl (fun t e => tput none t e.1 e.2) s.smithy.groups } else s

@[simp] theorem State.upd_setUpd (s : State) (x : Nat) (u : Option Upd) : (s.setUpd x u).upd x = u := by
  simp [State.upd, State.setUpd]

theorem State.upd_groups (s : State) (x : Nat) (g : Tbl (Option Grp)) :
    ({ s with smithy.groups := g } : State).upd x = s.upd x := rfl

@[simp] theorem State.col1_setCol (s : State) (x : Nat) (c : ColCtx) : (s.setCol x c).col1 x = c := by
  simp [State.col1, State.setCol]

/-- A Bell that is generated with room in the queue joins it with the next number. -/
theorem State.bell_queued {s : State} (src a b arg : Nat) (hfatal : s.fatal = false) (hroom : s.puell.bellQ.length < 1024) :
    (s.bell src a b arg).puell.bellQ = s.puell.bellQ ++ [(s.puell.bseq, ⟨src, a, b, arg⟩)] := by
  simp [State.bell, hfatal, Nat.not_le.2 hroom]

section
variable (s : State) (x : Nat) (u : Upd) (r : StepRec) (ok : Bool)

theorem State.stepCommitted_puell : (s.stepCommitted x u r ok).puell =
    (if u.bell then s.bell bellStep x u.outcome u.step else s).puell := by
  cases ok <;> rfl

theorem State.stepCommitted_bell (hbell : u.bell = true) (hfatal : s.fatal = false) (hroom : s.puell.bellQ.length < 1024) :
    (s.stepCommitted x u r ok).puell.bellQ = s.puell.bellQ ++ [(s.puell.bseq, ⟨bellStep, x, u.outcome, u.step⟩)] := by
  rw [State.stepCommitted_puell, if_pos hbell, State.bell_queued _ _ _ _ hfatal hroom]

/-- A Bell touches none of the update, the counters, the norm and the group records: they are what row 3 sets. -/
theorem State.stepCommitted_parts : (s.stepCommitted x u r ok).mem = s.mem ∧ (s.stepCommitted x u r ok).stepRec x = r ∧
    (s.stepCommitted x u r ok).upd x = some { u with phase := .drain } ∧ ((s.stepCommitted x u r ok).col1 x).q = none ∧
    (ok = true →
      (s.stepCommitted x u r ok).smithy.groups = u.groups.foldl (fun m e => tput none m e.1 e.2) s.smithy.groups) := by
  have hbell : ∃ g k, (if u.bell then s.bell bellStep x u.outcome u.step else s) =
      { s with regs.fields := g, puell := k } := by
    split
    · obtain ⟨g, k, h, -⟩ := s.bell_shape bellStep x u.outcome u.step
      exact ⟨g, k, h⟩
    · exact ⟨_, _, rfl⟩
  obtain ⟨g, k, hbell⟩ := hbell
  unfold State.stepCommitted
  rw [hbell]
  cases ok
  · exact ⟨rfl, State.stepRec_setStepRec _ x r, State.upd_setUpd _ x _, congrArg ColCtx.q (State.col1_setCol _ x _), nofun⟩
  · exact ⟨rfl, State.stepRec_setStepRec _ x r, (State.upd_groups _ x _).trans (State.upd_setUpd _ x _),
      congrArg ColCtx.q (State.col1_setCol _ x _), fun _ => rfl⟩

end

/-- The accesses of a step commit record, with what is set of the state once they stand. -/
theorem commitRun_then {s v : State} {x : Nat} {u : Upd} {ok : Bool} {a : Nat} (f : State → State)
    (h : (commitRun x u ok a).go s = (.ok (), v)) :
    (do
      if ok then u.shards.forM fun h => do if !(← shardDone x h) then stop .wait
      cvaWrite (dieUnit 0) x (u.ring + 64 * (u.step % 2 ^ u.ringLog2)) (recordBytes (← getS) u a)
      if ok then u.shards.forM fun h => shWrite 0 x h (h.progress + 44) (leBytes 1 2)
      setS f : M Unit).go s = (.ok (), f v) := by
  cases ok with
  | false =>
    obtain ⟨_, s₁, hget, h⟩ := M.go_bind_ok_iff.1 h
    obtain ⟨_, s₂, hrecord, h⟩ := M.go_bind_ok_iff.1 h
    cases h
    exact (M.go_bind_ok hget _).trans (M.go_bind_ok hrecord _)
  | true =>
    obtain ⟨_, s₁, hdone, h⟩ := M.go_bind_ok_iff.1 h
    obtain ⟨_, s₂, hget, h⟩ := M.go_bind_ok_iff.1 h
    obtain ⟨_, s₃, hrecord, hmarks⟩ := M.go_bind_ok_iff.1 h
    exact (M.go_bind_ok hdone _).trans ((M.go_bind_ok hget _).trans ((M.go_bind_ok hrecord _).trans (M.go_bind_ok hmarks _)))

theorem stepCommitRecord_commits {s v : State} {x : Fin 256} {u : Upd} {ok : Bool} (hworks : s.works = true)
    (hu : s.upd x.val = some u) (hres : s.resident x.val = true) (hslots : u.slots = [])
    (hacked : ∀ h ∈ u.shards, s.unacked x.val (s.shTargets 0 x.val h h.progress 64) = false)
    (hok : ok = decide (u.outcome = 1)) (hphase : u.phase = if ok then .applied else .skipped)
    (hgo : (commitRun x.val u ok ((s.stepRec x.val).advance ok).applied).go s = (.ok (), v)) :
    exec (.stepCommitRecord x) s = .next (left s (v.stepCommitted x.val u ((s.stepRec x.val).advance ok) ok)) := by
  have hout : (u.outcome == 1) = ok := hok.symm
  have hmarks : (u.shards.any fun h => s.unacked x.val (s.shTargets 0 x.val h h.progress 64)) = false := by
    simpa using hacked
  have hdecided : (u.phase != .applied && u.phase != .skipped) = false := by
    rw [hphase]
    cases ok <;> rfl
  have hgate : (!(s.resident x.val) || !(u.slots.isEmpty) || (u.phase != .applied && u.phase != .skipped)
      || u.shards.any fun h => s.unacked x.val (s.shTargets 0 x.val h h.progress 64)) = false := by
    rw [hres, hslots, hdecided, hmarks]
    rfl
  refine show execStepCommitRecord x s = _ from (work_left s _ hworks).trans ?_
  simp only [hu, hgate, hout, Bool.false_eq_true, if_false]
  exact congrArg (fun t => Host.Outcome.next (left s t))
    (State.runFrom_ok (commitRun_then (fun t => t.stepCommitted x.val u ((s.stepRec x.val).advance ok) ok) hgo))

/-! ### The close and DONESEM (07 R204) -/

theorem closeDrainEnd_draining {s : State} {x : Fin 256} {u : Upd} {g : Grant} (hu : s.upd x.val = some u)
    (hg : s.grant x.val = some g) (h : s.draining x.val u.step = true) : exec (.closeDrainEnd x) s = .next s := by
  refine show execCloseDrainEnd x s = _ from work_id ?_
  simp [hu, hg, h]

theorem M.go_tryCatch_ok {α : Type} {m : M α} {s t : State} {a : α} (h : m.go s = (.ok a, t)) (f : Stop → M α) :
    (tryCatch m f).go s = (.ok a, t) := by
  simp only [M.go, ExceptT.run, StateT.run] at h
  simp only [M.go, tryCatch, tryCatchThe, MonadExceptOf.tryCatch, ExceptT.tryCatch, ExceptT.run, ExceptT.mk, bind,
    StateT.bind, StateT.run, h]
  rfl

/-- A signal that does not overflow, while no time is donated, adds to the count alone. -/
theorem State.semSignal_undonated (s : State) {n v : Nat} (hroom : s.getF (F.semCount n) + v < 2 ^ 32)
    (hdonors : ∀ e ∈ s.ctxs.ctx, e.2.donor = 0) :
    s.semSignal n v = some (s.setF (F.semCount n) (s.getF (F.semCount n) + v)) := by
  have hnone : (s.ctxs.ctx.filter fun e => e.2.donor != 0 && e.2.donSem == n) = [] := by
    rw [List.filter_eq_nil_iff]
    intro e he
    simp [hdonors e he]
  rw [State.semSignal, if_neg (Nat.not_le.2 hroom), State.donationSignal, State.setF_ctxs, hnone]
  rfl

/-- With neither a snapshot nor a twin copy due the update is put back as it is, unless the context is gone. -/
theorem State.closeAfter_none (s : State) (x : Nat) {u : Upd} (h : u.after = 0) :
    s.closeAfter x u = s ∨ s.closeAfter x u = s.setUpd x (some u) := by
  have hcleared : insert u.after 0 1 0 = u.after := by rw [h]; rfl
  have hopen : bit u.after 0 = false := by rw [h]; rfl
  have htwin : bit u.after 1 = false := by rw [h]; rfl
  unfold State.closeAfter
  simp only [hopen, hcleared, htwin, Bool.false_eq_true, if_false, if_true, Bool.not_false]
  cases s.alive x
  · exact .inl rfl
  · exact .inr rfl

/-- Rows 5 to 7 of a close with its scale list in order, by the accesses they are built of. -/
theorem closeRows_go {s v w : State} {x : Nat} {r : StepRec} {ok : Bool} {close last : State → State}
    {handler : Stop → M Unit} {record : M Unit}
    (hlist : (if ok then scaleList x r else pure ()).go (close s) = (.ok (), v))
    (hrecord : record.go v = (.ok (), w)) :
    (do
      setS close
      if ok then do
        tryCatch (scaleList x r) handler
        record
        setS last
      else do
        record
        setS last : M Unit).go s = (.ok (), last w) := by
  refine (M.go_bind_ok (M.go_setS close s) _).trans ?_
  cases ok with
  | false =>
    obtain ⟨-, hv⟩ := Prod.mk.inj hlist
    rw [hv]
    exact M.go_bind_ok hrecord _
  | true => exact (M.go_bind_ok (M.go_tryCatch_ok hlist handler) _).trans (M.go_bind_ok hrecord _)

/-- LASTAPP follows a step that was applied. -/
def State.lastApplied (s : State) (x step : Nat) (ok : Bool) : State :=
  if ok then s.setF (F.colLastappStep x) step else s

section
variable (s : State) (x step : Nat) (ok : Bool)

@[simp] theorem State.lastApplied_mem : (s.lastApplied x step ok).mem = s.mem := by cases ok <;> rfl
@[simp] theorem State.lastApplied_train : (s.lastApplied x step ok).train = s.train := by cases ok <;> rfl

theorem State.lastApplied_getF : (s.lastApplied x step true).getF (F.colLastappStep x) = step % 2 ^ (F.colLastappStep x).w :=
  State.getF_setF s (F.colLastappStep x) step

theorem State.lastApplied_twin : (s.lastApplied x step ok).flag (F.resCtlEnable x) = s.flag (F.resCtlEnable x) := by
  have hkey : (F.resCtlEnable x).key ≠ (F.colLastappStep x).key := by
    simp only [Fld.key, F.resCtlEnable, F.colLastappStep]
    omega
  cases ok
  · rfl
  · exact congrArg (· != 0) (State.getF_setF_ne s step hkey)

end

/-- An update whose step record is written, with neither a snapshot nor a twin copy due. -/
def Upd.recorded (u : Upd) : Upd := { u with phase := .recorded, after := 0 }

section
variable {s v w : State} {x : Fin 256} {u : Upd} {g : Grant} {ok : Bool} (hworks : s.works = true)
  (hu : s.upd x.val = some u) (hg : s.grant x.val = some g) (hphase : u.phase = .drain)
  (hdrained : s.draining x.val u.step = false) (hok : ok = decide (u.outcome = 1))
  (hdue : (s.stepRec x.val).checkDue = false) (hcount : (s.stepRec x.val).nscale ≤ 4096)
  (hlist : (if ok then scaleList x.val (s.stepRec x.val) else pure ()).go (s.closeSlots x.val u.step) = (.ok (), v))
  (hrecord : (writeRecord x.val u.step u.outcome g.steprec).go v = (.ok (), w))
  (htwin : w.flag (F.resCtlEnable x.val) = false)
include hworks hu hg hphase hdrained hok hdue hcount hlist hrecord htwin

theorem closeDrainEnd_closes : exec (.closeDrainEnd x) s = .next (left s
    (((w.lastApplied x.val u.step ok).setUpd x.val (some u.recorded)).closeAfter x.val u.recorded)) := by
  have hout : (u.outcome == 1) = ok := hok.symm
  have hgate : (u.phase != .drain || s.draining x.val u.step) = false := by
    rw [hphase, hdrained]
    rfl
  have hfew : decide (4096 < (s.stepRec x.val).nscale) = false := decide_eq_false (Nat.not_lt.2 hcount)
  have hlast : (if ok then w.setF (F.colLastappStep x.val) u.step else w) = w.lastApplied x.val u.step ok := rfl
  have hflag := (w.lastApplied_twin x.val u.step ok).trans htwin
  have hnone : place (ofBool false) 0 1 + place (ofBool false) 1 1 = 0 := rfl
  refine show execCloseDrainEnd x s = _ from (work_left s _ hworks).trans ?_
  simp only [hu, hg, hgate, hout, hdue, hfew, Bool.false_and, Bool.not_false, Bool.and_true, Bool.false_eq_true, if_false]
  rw [closeRows_go (close := fun t => t.closeSlots x.val u.step)
    (last := fun t => if ok then t.setF (F.colLastappStep x.val) u.step else t) hlist hrecord]
  simp only [hlast, hflag, hnone, Bool.false_and, Bool.and_false, Bool.or_self, Bool.false_eq_true, if_false, Upd.recorded]

/-- What the close leaves: the memory and the records that its accesses wrote, the update recorded, and LASTAPP. -/
theorem closeDrainEnd_runs : runsTo (.closeDrainEnd x) s fun t => t.mem = w.mem ∧ t.train = w.train ∧
    t.upd x.val = some u.recorded ∧
    (ok = true → t.getF (F.colLastappStep x.val) = u.step % 2 ^ (F.colLastappStep x.val).w) := by
  have h := closeDrainEnd_closes hworks hu hg hphase hdrained hok hdue hcount hlist hrecord htwin
  have hmem := w.lastApplied_mem x.val u.step ok
  have htrain := w.lastApplied_train x.val u.step ok
  have hlast : ok = true → (w.lastApplied x.val u.step ok).getF (F.colLastappStep x.val) =
      u.step % 2 ^ (F.colLastappStep x.val).w := fun hap => hap ▸ w.lastApplied_getF x.val u.step
  generalize w.lastApplied x.val u.step ok = t at h hmem htrain hlast
  obtain hafter | hafter := (t.setUpd x.val (some u.recorded)).closeAfter_none x.val (u := u.recorded) rfl
  · rw [hafter] at h
    exact ⟨_, h, hmem, htrain, State.upd_setUpd t x.val _, hlast⟩
  · rw [hafter] at h
    exact ⟨_, h, hmem, htrain, State.upd_setUpd _ x.val _, hlast⟩

end

/-- DONESEM is signalled, and the update is gone. -/
theorem donesemSignal_signals {s : State} {x : Fin 256} {u : Upd} (hworks : s.works = true) (hu : s.upd x.val = some u)
    (hphase : u.phase = .recorded) (hafter : u.after = 0) (hsem : s.semUsable u.donesem x.val = true)
    (hroom : s.getF (F.semCount u.donesem) + 1 < 2 ^ 32) (hdonors : ∀ e ∈ s.ctxs.ctx, e.2.donor = 0) :
    exec (.donesemSignal x) s = .next (left s (((s.setUpd x.val none).setF (F.semCount u.donesem)
      (s.getF (F.semCount u.donesem) + 1)).settle)) := by
  have husable : (s.setUpd x.val none).semUsable u.donesem x.val = true := hsem
  have hsignal : (s.setUpd x.val none).semSignal u.donesem 1 = some ((s.setUpd x.val none).setF (F.semCount u.donesem)
      (s.getF (F.semCount u.donesem) + 1)) := State.semSignal_undonated _ hroom hdonors
  refine show execDonesemSignal x s = _ from (work_left s _ hworks).trans ?_
  have hgate : (u.phase != .recorded) = false := by rw [hphase]; rfl
  simp only [hu, hgate, hafter, husable, hsignal, if_true, Bool.false_eq_true, if_false]
  rfl

/-- Settles O47: each command's conditions choose its branch, and its accesses are those of the statement in turn; what
row 3 and the close set is then read off the state that they come to. -/
theorem updateDecidesAndCloses : Obligations.UpdateDecidesAndCloses := by
  refine fun x s hworks => ⟨fun g b u v r w hg halive => ⟨updateRequest_again hg, fun hnone hgo hr =>
      ⟨updateRequest_waits hworks hg halive hnone hgo hr, fun z hres hz hcheck =>
        updateRequest_granted hworks hg halive hnone hgo hr hres hz hcheck⟩⟩,
    fun u k q l n hu hq hphase hres hl hn => ⟨skipDecision_other hu hq, fun hk =>
      skipDecision_skips hu hq hworks hphase hres hk hl hn, fun w v hk hfin habs hw hgo => ?_⟩,
    fun u v ok hu hres hslots hacked hok hphase hgo => ?_, fun u g v w ok hu hg => ⟨closeDrainEnd_draining hu hg,
      fun hphase hdrained hok hdue hcount hlist hrecord htwin =>
        closeDrainEnd_runs hworks hu hg hphase hdrained hok hdue hcount hlist hrecord htwin⟩,
    fun u hu hphase hafter hsem hroom hdonors => donesemSignal_signals hworks hu hphase hafter hsem hroom hdonors⟩
  · subst hl hw
    obtain ⟨happlied, hout, hnorm, hclip⟩ := Upd.decide_applies (a := (s.stepRec x.val).applied) hn hfin habs
    exact ⟨happlied, hout, hnorm, hclip, skipDecision_applies hu hq hworks hphase hres hk rfl happlied hgo⟩
  · obtain ⟨hmem, hrec, hupd, hq, hgroups⟩ := v.stepCommitted_parts x.val u ((s.stepRec x.val).advance ok) ok
    exact ⟨_, stepCommitRecord_commits hworks hu hres hslots hacked hok hphase hgo, hmem, hrec, hupd, hq, hgroups,
      v.stepCommitted_bell x.val u _ ok⟩

end Sys2Proof.Machine

/-! PROOFS about the Smithy's chunks and exports (08): an export's start that is rejected. -/
namespace Sys2Proof.Machine

/-! ### A start of an export while one runs (08 R247; 00 R12, R14) -/

theorem regOr_smyExpCtl : regOr F.smyExpCtlCtx.off =
    ⟨F.smyExpCtlCtx.off, 64, [⟨F.smyExpCtlCtx, .rw, .locked, .any⟩, ⟨F.smyExpCtlGo, .wo, .none, .any⟩]⟩ := by
  decide +kernel

/-- Every value that a write may carry is within the ranges of SMY_EXP_CTL. -/
theorem smyExpCtl_badField (v : Nat) : (regOr F.smyExpCtlCtx.off).badField v = none := by
  rw [regOr_smyExpCtl]
  rfl

section
variable {s : State} {v : Nat}

/-- While an export runs its context is locked: a write that names another is rejected (00 R12). -/
theorem State.smyExpCtl_locked (hrun : s.smithy.exp.isSome = true) (hctx : F.smyExpCtlCtx.of v ≠ s.getF F.smyExpCtlCtx) :
    s.fieldsWrite (regOr F.smyExpCtlCtx.off).fields v = s.rejected F.smyExpCtlCtx := by
  have hlocks : s.locks ⟨F.smyExpCtlCtx, .rw, .locked, .any⟩ = true := hrun
  rw [regOr_smyExpCtl]
  simp only [State.fieldsWrite, List.foldl_cons, List.foldl_nil, State.fieldWrite, State.guardWrite, hlocks, if_neg hctx,
    if_true]

/-- A start that names another context while an export runs is rejected twice: its GO by DONE, its CTX by the lock. -/
theorem State.exportWrite_rejects (hup : s.blockUp F.smyExpCtlCtx.off = true) (hgo : bit v 8 = true)
    (hdone : s.flag F.smyExpStDone = false) (hrun : s.smithy.exp.isSome = true)
    (hctx : F.smyExpCtlCtx.of v ≠ s.getF F.smyExpCtlCtx) :
    s.exportWrite v = (s.rejected F.smyExpCtlGo).rejected F.smyExpCtlCtx := by
  have hpresent : (F.presentDiePresent 0).key ≠ (F.dieSeqSeq (dieOf F.smyExpCtlGo.off)).key := by decide
  have hctxKey : F.smyExpCtlCtx.key ≠ (F.dieSeqSeq (dieOf F.smyExpCtlGo.off)).key := by decide
  have hup' : (s.rejected F.smyExpCtlGo).blockUp F.smyExpCtlCtx.off = true :=
    (congrArg (fun n => bit n rdSmithy) (s.rejected_getF F.smyExpCtlGo hpresent)).trans hup
  have hlocked : (s.rejected F.smyExpCtlGo).regWrite (regOr F.smyExpCtlCtx.off) v =
      (s.rejected F.smyExpCtlGo).rejected F.smyExpCtlCtx :=
    (State.regWrite_up hup' (smyExpCtl_badField v)).trans
      (State.smyExpCtl_locked hrun (by rwa [s.rejected_getF F.smyExpCtlGo hctxKey]))
  simp only [State.exportWrite, State.regRefused_up hup (smyExpCtl_badField v), hgo, hdone, hlocked, Bool.not_true,
    Bool.not_false, Bool.false_eq_true, if_false, if_true]

/-- Each rejection makes a record of its own (00 R14). -/
theorem State.rejected_rejected_recQ (s : State) (f g : Fld) :
    ((s.rejected f).rejected g).err.recQ.length = s.err.recQ.length + 2 := by
  simp only [State.rejected, State.rejectedAt, State.record_recQ, List.length_append, List.length_singleton]

end

/-- The module in RUN with the Smithy of P0 brought up. -/
def smithyUp : State :=
  let s : State := { State.reset with
    power := { State.reset.power with st := .run, runEn := true, rstN := true, pwrOk := true, railsUp := true } }
  s.setF (F.presentDiePresent 0) (2 ^ rdSmithy)

/-- An export for context 1 has been started. -/
def exportStarted : State := (smithyUp.spend F.smyExpCtlCtx.off).exportWrite 0x101

theorem smithyUp_exports : exec (.smyExport 0x101) smithyUp = .next exportStarted := by
  have hworks : smithyUp.works = true := by decide +kernel
  have hpending : smithyUp.pending = exportStarted.pending := by decide +kernel
  have hpower : smithyUp.power = exportStarted.power := by decide +kernel
  have hleft : left smithyUp exportStarted = exportStarted := by rw [left, hpending, hpower]
  exact (show execSmyExport 0x101 smithyUp = _ from regWork_left _ _ hworks).trans (congrArg _ hleft)

/-- A start for context 2 meanwhile makes two records, not one. -/
theorem exportStarted_rejects : exec (.smyExport 0x102) exportStarted = .next (left exportStarted
    (((exportStarted.spend F.smyExpCtlCtx.off).rejected F.smyExpCtlGo).rejected F.smyExpCtlCtx)) := by
  have hworks : exportStarted.works = true := by decide +kernel
  refine show execSmyExport 0x102 exportStarted = _ from (regWork_left _ _ hworks).trans ?_
  rw [State.exportWrite_rejects (by decide +kernel) (by decide +kernel) (by decide +kernel) (by decide +kernel)
    (by decide +kernel)]

/-- Refutes O48: the CTX field of SMY_EXP_CTL is locked while an export runs, so a GO that names another context is
rejected twice and makes two records (00 R12, R14), where the statement asks for exactly one. -/
theorem not_chunkTransactionsAndExport : ¬ Obligations.ChunkTransactionsAndExport := by
  intro h
  obtain ⟨-, -, hexport, -⟩ := h
  obtain ⟨-, hwhile, -⟩ := hexport 0x102 exportStarted _ (by decide +kernel) (by decide +kernel) (smyExpCtl_badField _) rfl
  obtain ⟨t, ht, -, r, hone, -⟩ := hwhile (by decide +kernel) (by decide +kernel)
  cases exportStarted_rejects.symm.trans ht
  have htwo := (exportStarted.spend F.smyExpCtlCtx.off).rejected_rejected_recQ F.smyExpCtlGo F.smyExpCtlCtx
  have hlength := congrArg List.length hone
  rw [List.length_append, List.length_singleton] at hlength
  exact Nat.succ_ne_self _ (Nat.succ.inj (htwo.symm.trans hlength))

end Sys2Proof.Machine

/-! PROOFS about the stage queues (09): the slots and credits of a queue end, and the write of STQ_CFG. -/
namespace Sys2Proof.Machine

/-! ### A queue end that moves (09 R262; 06 R183) -/

/-- The counts of an end are neither its WSEM nor the count of a semaphore. -/
theorem queueCount_key {f : Fld} {n w : Nat} (hf : f = F.stqIssue n ∨ f = F.stqReturn n) (hw : w < 4096) :
    (F.stqCfgWsem n).key ≠ f.key ∧ (F.semCount w).key ≠ f.key := by
  rcases hf with rfl | rfl
  · simp only [Fld.key, F.stqCfgWsem, F.semCount, F.stqIssue]
    omega
  · simp only [Fld.key, F.stqCfgWsem, F.semCount, F.stqReturn]
    omega

/-- A count of an end rises together with WSEM when nothing else hears of the signal. -/
theorem State.queueSignal_moved {u : State} {n : Nat} {f : Fld} (hf : f = F.stqIssue n ∨ f = F.stqReturn n)
    (h : signalFits u (u.getF (F.stqCfgWsem n))) : (u.incF f 1).queueSignal n = queueMoved u n f := by
  obtain ⟨hw, hroom, hdonors⟩ := h
  obtain ⟨hwsem, hsem⟩ := queueCount_key hf hw
  have hcount := u.getF_incF_ne 1 hsem
  have hsignal := (u.incF f 1).semSignal_undonated (v := 1) (by rwa [hcount]) hdonors
  rw [hcount] at hsignal
  simp only [State.queueSignal, u.getF_incF_ne 1 hwsem, hsignal, queueMoved]

/-- A transfer of the expected sequence number and size whose bytes are stored counts ISSUE and signals WSEM. -/
theorem State.queueFill_stored {s u : State} {n seq : Nat} {b : List Byte} (hseq : seq = s.getF (F.stqIssue n))
    (hlen : b.length = s.qBytes n)
    (hgo : (cvaWrite (dieUnit (s.qDie n)) (s.qOwner n) (s.qSlot n seq) b).go s = (.ok (), u))
    (hfits : signalFits u (u.getF (F.stqCfgWsem n))) : s.queueFill n seq b = .over (queueMoved u n (F.stqIssue n)) := by
  rw [State.queueFill, if_neg (by simp [hseq, hlen])]
  simp only [hgo, State.queueSignal_moved (.inl rfl) hfits]

theorem State.queueFill_unexpected {s : State} {n seq : Nat} {b : List Byte}
    (h : seq ≠ s.getF (F.stqIssue n) ∨ b.length ≠ s.qBytes n) : s.queueFill n seq b = .over (s.queueFault n) := by
  rw [State.queueFill, if_pos (by simpa using h)]

theorem State.queueCredit_next {s : State} {n c : Nat} (hc : c = s.getF (F.stqReturn n) + 1)
    (hfits : signalFits s (s.getF (F.stqCfgWsem n))) : s.queueCredit n c = queueMoved s n (F.stqReturn n) := by
  rw [State.queueCredit, if_neg (by simpa using hc), State.queueSignal_moved (.inr rfl) hfits]

theorem State.queueCredit_unexpected {s : State} {n c : Nat} (h : c ≠ s.getF (F.stqReturn n) + 1) :
    s.queueCredit n c = s.queueFault n := by
  rw [State.queueCredit, if_pos (by simpa using h)]

/-- The check of both receptions, as the Boolean that they compute. -/
theorem queueHears_iff {s : State} {n role l : Nat} : queueHears s n role l ↔
    (!(s.qValid n role) || s.qLink n != l || s.preempted (s.qOwner n)) = false := by
  simp [queueHears, and_assoc]

/-! ### What a write of STQ_CFG asks (09 R261, R268) -/

/-- An end keeps its fields when one of the two checks of the write finds it so. -/
theorem queueKeeps_iff {a u : State} {n : Nat} : queueKeeps a u n ↔
    (a.flag (F.stqCfgValid n) && a.stqRunning n) = true ∨ (a.flag (F.stqCfgValid n) &&
      (regOr (F.stqCfgValid n).off).fields.all fun d => u.getF d.f == a.getF d.f) = true := by
  simp only [queueKeeps, Bool.and_eq_true, List.all_eq_true, beq_iff_eq, and_or_left]

/-- Setting VALID leaves what the issue of credits reads. -/
theorem State.queueStart_credited (a u : State) (n : Nat) :
    (u.unitLeave (.queue (a.qOwner n) n)).queueStart n = credited a u n := by
  have hwsem : (F.stqCfgWsem n).key ≠ (F.stqCfgValid n).key := by simp [Fld.key, F.stqCfgWsem, F.stqCfgValid]
  have hrole : (F.stqCfgRole n).key ≠ (F.stqCfgValid n).key := by simp [Fld.key, F.stqCfgRole, F.stqCfgValid]
  have hnslot : (F.stqCfgNslot n).key ≠ (F.stqCfgValid n).key := by simp [Fld.key, F.stqCfgNslot, F.stqCfgValid]
  simp only [State.queueStart, credited, State.stqSlots, State.getF_setB_ne _ true hwsem, State.getF_setB_ne _ true hrole,
    State.getF_setB_ne _ true hnslot]
  rfl

section
variable {n : Fin 256} {s : State} (hworks : s.works = true)
include hworks

/-! ### A unit whose turn on TSEM has come or not (09 R262, R265, R266) -/

theorem queueSend_waits (h : queueWaits s n.val 0) : exec (.queueSend n) s = .next (left s (s.queueJoin n.val)) := by
  refine show execQueueSend n s = _ from (work_left s _ hworks).trans ?_
  rcases h with hnotReady | hnone
  · simp only [hnotReady, Bool.not_false, if_true]
  · simp only [hnone, ite_self]

theorem queueFree_waits (h : queueWaits s n.val 1) : exec (.queueFree n) s = .next (left s (s.queueJoin n.val)) := by
  refine show execQueueFree n s = _ from (work_left s _ hworks).trans ?_
  rcases h with hnotReady | hnone
  · simp only [hnotReady, Bool.not_false, if_true]
  · simp only [hnone, ite_self]

section
variable {u : State} (hturn : queueTurn s n.val 0 u)
include hturn

section
variable {b : List Byte} {v w : State} (hlink : u.qLink n.val = 15)
  (hpeer : u.qValid (u.getF (F.stqPeerPeerq n.val)) 1 = true)
  (hread : (cvaRead (dieUnit (u.qDie n.val)) ((s.queueJoin n.val).qOwner n.val)
    (u.qSlot n.val (u.getF (F.stqIssue n.val))) (u.qBytes n.val)).go u = (.ok b, v))
include hlink hpeer hread

theorem queueSend_peer_over (hfill : (v.incF (F.stqIssue n.val) 1).queueFill (u.getF (F.stqPeerPeerq n.val))
    (u.getF (F.stqIssue n.val)) b = .over w) : exec (.queueSend n) s = .next (left s w) := by
  obtain ⟨_, t, rfl, hready, htake, rfl⟩ := hturn
  refine show execQueueSend n s = _ from (work_left s _ hworks).trans ?_
  simp only [hready, htake, hlink, hpeer, hread, hfill, Bool.not_true, Bool.false_eq_true, if_false, if_true]

/-- A slot that the peer cannot store yet stays unsent: the count of TSEM is not taken. -/
theorem queueSend_peer_wait (hfill : (v.incF (F.stqIssue n.val) 1).queueFill (u.getF (F.stqPeerPeerq n.val))
    (u.getF (F.stqIssue n.val)) b = .wait w) :
    exec (.queueSend n) s = .next (left s { s.queueJoin n.val with res := w.res }) := by
  obtain ⟨_, t, rfl, hready, htake, rfl⟩ := hturn
  refine show execQueueSend n s = _ from (work_left s _ hworks).trans ?_
  simp only [hready, htake, hlink, hpeer, hread, hfill, Bool.not_true, Bool.false_eq_true, if_false, if_true]

end

theorem queueSend_link {m : List Byte} {k : Nat} (hlink : u.qLink n.val ≠ 15) (hpath : u.queuePath n.val = some (m, k)) :
    exec (.queueSend n) s = .next (left s ((u.incF (F.stqIssue n.val) 1).rmtMessage k
      { owner := .queue n.val (u.getF (F.stqIssue n.val))
        opc := opWrite
        cxh := some (queueCxh m (u.getF (F.stqPeerPeerq n.val)) 0x10 (u.getF (F.stqIssue n.val)))
        src := some (u.qSlot n.val (u.getF (F.stqIssue n.val)))
        len := u.qBytes n.val })) := by
  obtain ⟨_, w, rfl, hready, htake, rfl⟩ := hturn
  refine show execQueueSend n s = _ from (work_left s _ hworks).trans ?_
  simp only [hready, htake, hlink, hpath, Bool.not_true, Bool.false_eq_true, if_false]

theorem queueSend_pathless (hlink : u.qLink n.val ≠ 15) (hpath : u.queuePath n.val = none) :
    exec (.queueSend n) s = .next (left s (u.queueFault n.val)) := by
  obtain ⟨_, w, rfl, hready, htake, rfl⟩ := hturn
  refine show execQueueSend n s = _ from (work_left s _ hworks).trans ?_
  simp only [hready, htake, hlink, hpath, Bool.not_true, Bool.false_eq_true, if_false]

end

section
variable {u : State} (hturn : queueTurn s n.val 1 u)
include hturn

theorem queueFree_peer (hlink : u.qLink n.val = 15) (hpeer : u.qValid (u.getF (F.stqPeerPeerq n.val)) 0 = true) :
    exec (.queueFree n) s = .next (left s ((u.incF (F.stqReturn n.val) 1).queueCredit
      (u.getF (F.stqPeerPeerq n.val)) (u.getF (F.stqReturn n.val) + 1))) := by
  obtain ⟨_, w, rfl, hready, htake, rfl⟩ := hturn
  refine show execQueueFree n s = _ from (work_left s _ hworks).trans ?_
  simp only [hready, htake, hlink, hpeer, Bool.not_true, Bool.false_eq_true, if_false, if_true]

theorem queueFree_link {m : List Byte} {k : Nat} (hlink : u.qLink n.val ≠ 15) (hpath : u.queuePath n.val = some (m, k)) :
    exec (.queueFree n) s = .next (left s ((u.incF (F.stqReturn n.val) 1).rmtMessage k
      { owner := .credit n.val
        opc := opWrite
        cxh := some (queueCxh m (u.getF (F.stqPeerPeerq n.val)) 0x11 (u.getF (F.stqReturn n.val) + 1)) })) := by
  obtain ⟨_, w, rfl, hready, htake, rfl⟩ := hturn
  refine show execQueueFree n s = _ from (work_left s _ hworks).trans ?_
  simp only [hready, htake, hlink, hpath, Bool.not_true, Bool.false_eq_true, if_false]

theorem queueFree_pathless (hlink : u.qLink n.val ≠ 15) (hpath : u.queuePath n.val = none) :
    exec (.queueFree n) s = .next (left s (u.queueFault n.val)) := by
  obtain ⟨_, w, rfl, hready, htake, rfl⟩ := hturn
  refine show execQueueFree n s = _ from (work_left s _ hworks).trans ?_
  simp only [hready, htake, hlink, hpath, Bool.not_true, Bool.false_eq_true, if_false]

end

/-! ### Transfers and credits that arrive (09 R262, R264) -/

section
variable {l : Fin 16} {seq : Nat} {b : List Byte}

theorem queueTransferReceive_deaf (h : ¬queueHears s n.val 1 l.val) :
    exec (.queueTransferReceive n l seq b) s = .next (left s s) := by
  rw [queueHears_iff, Bool.not_eq_false] at h
  refine show execQueueTransferReceive n l seq b s = _ from (work_left s _ hworks).trans ?_
  simp only [h, if_true]

theorem queueTransferReceive_hears (h : queueHears s n.val 1 l.val) :
    exec (.queueTransferReceive n l seq b) s = .next (left s (s.queueFill n.val seq b).state) := by
  rw [queueHears_iff] at h
  refine show execQueueTransferReceive n l seq b s = _ from (work_left s _ hworks).trans ?_
  simp only [h, Bool.false_eq_true, if_false]

theorem queueCreditReceive_deaf (h : ¬queueHears s n.val 0 l.val) :
    exec (.queueCreditReceive n l seq) s = .next (left s s) := by
  rw [queueHears_iff, Bool.not_eq_false] at h
  refine show execQueueCreditReceive n l seq s = _ from (work_left s _ hworks).trans ?_
  simp only [h, if_true]

theorem queueCreditReceive_hears (h : queueHears s n.val 0 l.val) :
    exec (.queueCreditReceive n l seq) s = .next (left s (s.queueCredit n.val seq)) := by
  rw [queueHears_iff] at h
  refine show execQueueCreditReceive n l seq s = _ from (work_left s _ hworks).trans ?_
  simp only [h, Bool.false_eq_true, if_false]

end

/-! ### A write of STQ_CFG (09 R261, R268, R269; log entry 59) -/

section
variable {v : Word64} {a u : State} (ha : a = s.spend (F.stqCfgValid n.val).off)
  (hup : s.blockUp (F.stqCfgValid n.val).off = true) (hbad : (regOr (F.stqCfgValid n.val).off).badField v.toNat = none)
  (hu : u = configured a n.val v.toNat)
include ha hup hbad hu

/-- A write that is not refused whole, by its checks in their order. -/
theorem stqCfgWrite_exec : exec (.stqCfgWrite n v) s = .next (left s (
    if !(bit v.toNat 0) then quitted a u n.val
    else if a.flag (F.stqCfgValid n.val) && a.stqRunning n.val then u
    else if a.flag (F.stqCfgValid n.val) &&
        (regOr (F.stqCfgValid n.val).off).fields.all (fun d => u.getF d.f == a.getF d.f) then u
    else if !(u.queueFit n.val) then (if a.flag (F.stqCfgValid n.val) then a else u).rejected (F.stqCfgValid n.val)
    else if sameEnd a u n.val then u else credited a u n.val)) := by
  have hok : a.regRefused (regOr (F.stqCfgValid n.val).off) v.toNat = none := by
    rw [ha]
    exact State.regRefused_up (s := s.spend _) hup hbad
  subst hu
  refine show execStqCfgWrite n v s = _ from (regWork_left _ _ hworks).trans ?_
  rw [← ha]
  simp only [hok, ← State.queueStart_credited]
  rfl

theorem stqCfgWrite_quits (hvalid : bit v.toNat 0 = false) :
    exec (.stqCfgWrite n v) s = .next (left s (quitted a u n.val)) := by
  simp only [stqCfgWrite_exec hworks ha hup hbad hu, hvalid, Bool.not_false, if_true]

section
variable (hvalid : bit v.toNat 0 = true)
include hvalid

theorem stqCfgWrite_keeps (h : queueKeeps a u n.val) : exec (.stqCfgWrite n v) s = .next (left s u) := by
  rw [stqCfgWrite_exec hworks ha hup hbad hu, hvalid]
  rcases queueKeeps_iff.1 h with hrunning | hsame
  · simp only [hrunning, Bool.not_true, Bool.false_eq_true, if_false, if_true]
  · simp only [hsame, Bool.not_true, Bool.false_eq_true, if_false, if_true, ite_self]

/-- An end that takes more than its fields is judged: rejected, left as it was, or given its credits. -/
theorem stqCfgWrite_judged (h : ¬queueKeeps a u n.val) : exec (.stqCfgWrite n v) s = .next (left s (
    if u.queueFit n.val = false then (if a.flag (F.stqCfgValid n.val) then a else u).rejected (F.stqCfgValid n.val)
    else if sameEnd a u n.val then u else credited a u n.val)) := by
  obtain ⟨hidle, hchanged⟩ := not_or.1 (queueKeeps_iff.not.1 h)
  simp only [stqCfgWrite_exec hworks ha hup hbad hu, hvalid, hidle, hchanged, Bool.not_true, Bool.false_eq_true, if_false,
    Bool.not_eq_true']

end
end
end

/-- Settles O49: the unit's turn and the end's link choose the branch of a send or free, the sequence number that of an
arrival, and the checks of STQ_CFG that of its write. -/
theorem stageQueuesMoveSlotsAndCredits : Obligations.StageQueuesMoveSlotsAndCredits := by
  refine fun n s hworks => ⟨?_, fun u seq q hturn hseq hq => ?_, fun u c q hturn hc hq => ?_, fun l seq b => ?_,
    fun l seq b u hhears hseq hlen hgo hfits => ?_, fun l c hhears hc hfits => ?_, fun v a u ha hup hbad hu => ?_⟩
  · simp only [List.forall_mem_cons]
    exact ⟨queueSend_waits hworks, queueFree_waits hworks, List.forall_mem_nil _⟩
  · subst hseq hq
    exact ⟨fun b v w hlink hpeer hread =>
      ⟨queueSend_peer_over hworks hturn hlink hpeer hread, queueSend_peer_wait hworks hturn hlink hpeer hread⟩,
      fun m k => queueSend_link hworks hturn, queueSend_pathless hworks hturn⟩
  · subst hc hq
    exact ⟨queueFree_peer hworks hturn, fun m k => queueFree_link hworks hturn, queueFree_pathless hworks hturn⟩
  · simp only [List.forall_mem_cons]
    refine ⟨⟨queueTransferReceive_deaf hworks, fun hhears hseq => ?_⟩,
      ⟨queueCreditReceive_deaf hworks, fun hhears hseq => ?_⟩, List.forall_mem_nil _⟩
    · rw [queueTransferReceive_hears hworks hhears, State.queueFill_unexpected hseq, QDone.state]
    · rw [queueCreditReceive_hears hworks hhears, State.queueCredit_unexpected hseq]
  · rw [queueTransferReceive_hears hworks hhears, State.queueFill_stored hseq hlen hgo hfits, QDone.state]
  · rw [queueCreditReceive_hears hworks hhears, State.queueCredit_next hc hfits]
  · refine ⟨stqCfgWrite_quits hworks ha hup hbad hu, fun hvalid =>
      ⟨stqCfgWrite_keeps hworks ha hup hbad hu hvalid, fun hkeeps hunfit => ?_, fun hkeeps hfit => ?_⟩⟩
    · rw [stqCfgWrite_judged hworks ha hup hbad hu hvalid hkeeps, if_pos hunfit]
    · rw [stqCfgWrite_judged hworks ha hup hbad hu hvalid hkeeps, if_neg (by simp [hfit])]

end Sys2Proof.Machine

/-! PROOFS about the collective unit (10): the fetch of a ring entry, the commands of each operation, what a completed
NORM or MSWAP leaves, and what the unit answers arrivals, packets and stalls. -/
namespace Sys2Proof.Machine

/-! ### What an access that answers has done, wherever it began -/

/-- Whenever the access answers `a` and ends in `t`, `Q a t` holds. -/
structure Answers {α : Type} (Q : α → State → Prop) (m : M α) : Prop where
  run : ∀ s a t, m.go s = (.ok a, t) → Q a t

section
variable {α β : Type} {Q : α → State → Prop}

theorem Answers.pure {a : α} (h : ∀ t, Q a t) : Answers Q (Pure.pure a : M α) :=
  ⟨fun s b t hgo => by cases hgo; exact h s⟩

theorem Answers.bind {m : M β} {f : β → M α} (h : ∀ b, Answers Q (f b)) : Answers Q (m >>= f) := by
  refine ⟨fun s a t hgo => ?_⟩
  obtain ⟨b, u, -, hgo⟩ := M.go_bind_ok_iff.1 hgo
  exact (h b).run u a t hgo

theorem Answers.setS {f : State → State} {a : α} (h : ∀ s, Q a (f s)) :
    Answers Q (Machine.setS f >>= fun _ => (Pure.pure a : M α)) :=
  ⟨fun s b t hgo => by cases hgo; exact h s⟩

theorem Answers.ite {c : Prop} [Decidable c] {m n : M α} (hm : Answers Q m) (hn : Answers Q n) :
    Answers Q (if c then m else n) := by split <;> assumption

/-- A first part that may be left out goes before what follows it either way. -/
theorem Answers.guard {c : Prop} [Decidable c] {m : M Unit} {f : Unit → M α} (h : ∀ r, Answers Q (f r)) :
    Answers Q (if c then m >>= f else f ()) := Answers.ite (Answers.bind h) (h ())

/-- What is kept by a first part that may be left out holds where what follows it begins. -/
theorem Keeps.go_guard {P : State → Prop} {c : Prop} [Decidable c] {m : M Unit} {f : Unit → M α} (hm : Keeps P m)
    {s t : State} {a : α} (hs : P s) (h : (if c then m >>= f else f ()).go s = (.ok a, t)) :
    ∃ u, P u ∧ (f ()).go u = (.ok a, t) := by
  split at h
  · obtain ⟨_, u, hgo, h⟩ := M.go_bind_ok_iff.1 h
    have hu := hm.run s hs
    rw [hgo] at hu
    exact ⟨u, hu, h⟩
  · exact ⟨s, hs, h⟩

end

/-! ### Maps and the command table (10 R271, R273, R276) -/

section
variable {x : Nat} {s : State}

theorem ReadStep.col1 {t : State} (h : ReadStep x s t) (y : Nat) : t.col1 y = s.col1 y := by
  rw [h.frame]
  rfl

theorem mapRead_reads (sl : Nat) : Keeps (ReadStep x s) (mapRead x sl) :=
  Keeps.getS.bind fun _ => Keeps.guard (Keeps.ctxStop _ _) fun _ => Keeps.getS.bind fun _ => Keeps.getS.bind fun _ =>
    Keeps.guard (Keeps.ctxStop _ _) fun _ => hbmRead_reads (.inr rfl) _ _ _

theorem ringMap_reads (c : ColCmd) : Keeps (ReadStep x s) (ringMap x c) :=
  Keeps.getS.bind fun _ => Keeps.guard (Keeps.ctxStop _ _) fun _ => (mapRead_reads _).bind fun _ =>
    Keeps.ite (Keeps.pure _) (Keeps.ctxStop _ _)

theorem getCmd_go (c : ColCmd) (s : State) : (getCmd x c).go s = (.ok ((s.colCmd x c.num).getD c), s) := rfl

/-- The table holds the command of ring position `n`, and it belongs to step `k`. -/
def State.colOfStep (s : State) (x n k : Nat) : Prop := ∃ d, s.colCmd x n = some d ∧ d.step = k

theorem State.colOfStep.of_cmds {t : State} {n k : Nat} (h : s.colOfStep x n k)
    (hcmds : (t.col1 x).cmds = (s.col1 x).cmds) : t.colOfStep x n k := by
  unfold State.colOfStep State.colCmd
  rwa [hcmds]

/-- A change of a command that keeps its ring position is what its position then holds. -/
theorem State.colCmd_modCmd (s : State) (x n : Nat) {f : ColCmd → ColCmd} (hf : ∀ d, (f d).num = d.num) :
    (s.modCmd x n f).colCmd x n = (s.colCmd x n).map f := by
  have hnum : ((fun d : ColCmd => decide (d.num = n)) ∘ fun d => if d.num = n then f d else d) =
      fun d => decide (d.num = n) := by
    funext d
    by_cases hd : d.num = n <;> simp [hd, hf]
  simp only [State.colCmd, State.modCmd, State.col1_setCol, List.find?_map, hnum]
  refine Option.map_congr fun d hd => if_pos ?_
  simpa using List.find?_some hd

theorem State.colOfStep.modCmd {n k : Nat} (h : s.colOfStep x n k) {f : ColCmd → ColCmd} (hnum : ∀ d, (f d).num = d.num)
    (hstep : ∀ d, (f d).step = d.step) : (s.modCmd x n f).colOfStep x n k := by
  obtain ⟨d, hd, rfl⟩ := h
  exact ⟨f d, by rw [s.colCmd_modCmd x n hnum, hd, Option.map_some], hstep d⟩

/-- The contribution that a NORM forms moves no command to another step (10 R284). -/
theorem normStart_colOfStep (c : ColCmd) (k : Nat) : Keeps (fun s => s.colOfStep x c.num k) (normStart x c) := by
  refine Keeps.getS.bind fun _ => (Keeps.setS fun _ h => h.of_cmds rfl).bind fun _ =>
    (Keeps.setS fun t h => h.of_cmds ?_).bind fun _ => Keeps.setS fun _ h => h.modCmd (fun _ => rfl) fun _ => rfl
  rw [State.col1_setCol]

end

/-! ### What a completed NORM or MSWAP leaves (10 R274, R284) -/

section
variable {x : Nat} {s u : State} {c : ColCmd}

/-- A NORM that completes holds Q with its step. -/
theorem normRun_holds (hcmd : s.colCmd x c.num = some c) (hgo : (normRun x c).go s = (.ok true, u)) :
    ∃ q, (u.col1 x).q = some (c.step, q) := by
  obtain ⟨m, v, hring, hgo⟩ := M.go_bind_ok_iff.1 hgo
  have hread : ReadStep x s v := by simpa [hring] using (ringMap_reads c).run s (ReadStep.refl (x := x) s)
  have hv : v.colOfStep x c.num c.step := State.colOfStep.of_cmds ⟨c, hcmd, rfl⟩ (congrArg ColCtx.cmds (hread.col1 x))
  obtain ⟨w, ⟨d, hd, hstep⟩, hgo⟩ := (normStart_colOfStep c c.step).go_guard hv hgo
  rw [M.go_bind_ok (getCmd_go c w), hd, Option.getD_some] at hgo
  obtain ⟨_, y, -, hgo⟩ := M.go_bind_ok_iff.1 hgo
  split at hgo
  · cases hgo
  · cases hgo
    exact ⟨_, by rw [State.col1_setCol, hstep]⟩

/-- Slot `n` is the active one of the ring maps or of the pipeline maps. -/
def State.mapActive (s : State) (x n : Nat) : Prop :=
  (s.getF (F.colCtlRslot x) = n ∧ s.flag (F.colCtlRvalid x) = true) ∨
    (s.getF (F.colCtlPslot x) = n ∧ s.flag (F.colCtlPvalid x) = true)

/-- A slot number set together with its VALID reads back, the count of swaps being elsewhere. -/
theorem State.slot_read_of_swap (t : State) {slot valid : Fld} (n : Nat) (hw : slot.w = 3) (hone : valid.w = 1)
    (hne : slot.key ≠ valid.key) (hslot : slot.key ≠ F.colSwaps.key) (hvalid : valid.key ≠ F.colSwaps.key) :
    (((t.setF slot (n % 8)).setB valid true).incF F.colSwaps 1).getF slot = n % 8 ∧
      (((t.setF slot (n % 8)).setB valid true).incF F.colSwaps 1).flag valid = true := by
  constructor
  · rw [State.getF_incF_ne _ 1 hslot, State.getF_setB_ne _ true hne, State.getF_setF, hw]
    exact Nat.mod_mod n 8
  · exact State.flag_eq_of_getF ((State.getF_incF_ne _ 1 hvalid).trans (State.getF_setB _ valid true (by omega)))

theorem State.mapActive_of_swap (t : State) (x n : Nat) (ring : Bool) :
    ((if ring = true then (t.setF (F.colCtlRslot x) (n % 8)).setB (F.colCtlRvalid x) true
      else (t.setF (F.colCtlPslot x) (n % 8)).setB (F.colCtlPvalid x) true).incF F.colSwaps 1).mapActive x (n % 8) := by
  cases ring with
  | true =>
    refine .inl (t.slot_read_of_swap n rfl rfl ?_ ?_ ?_) <;>
      simp only [Fld.key, F.colCtlRslot, F.colCtlRvalid, F.colSwaps] <;> omega
  | false =>
    refine .inr (t.slot_read_of_swap n rfl rfl ?_ ?_ ?_) <;>
      simp only [Fld.key, F.colCtlPslot, F.colCtlPvalid, F.colSwaps] <;> omega

/-- An MSWAP that completes makes its slot active. -/
theorem mswapRun_activates (x : Nat) (c : ColCmd) :
    Answers (fun done t => done = true → t.mapActive x (c.src % 8)) (mswapRun x c) := by
  refine Answers.bind fun m => Answers.bind fun _ => Answers.ite (Answers.pure fun _ => nofun) ?_
  -- the unit sends its messages first, or has sent them: the swap ends alike
  refine Answers.ite (Answers.bind fun _ => Answers.guard fun _ => Answers.bind fun _ => Answers.bind fun _ => ?_) ?_ <;>
    exact Answers.bind fun _ => Answers.ite (Answers.setS fun _ _ => State.mapActive_of_swap _ x c.src _)
      (Answers.pure fun _ => nofun)

/-- A started command that no abort exchange ends goes on as its operation does. -/
theorem colStep_go_run (hstarted : c.started = true) (hcmd : s.colCmd x c.num = some c)
    (hgoes : (c.aborting || s.aborts x c) = false) :
    (c.op = 3 → (colStep x c).go s = (normRun x c).go s) ∧ (c.op = 6 → (colStep x c).go s = (mswapRun x c).go s) := by
  constructor <;> intro hop <;>
    simp only [colStep, hstarted, Bool.not_true, Bool.false_eq_true, if_false, M.go_bind_ok (getCmd_go c s), hcmd,
      Option.getD_some, M.go_bind_ok (M.go_getS s), hgoes, hop]

/-- A command without a SIGSEM that no abort exchange ends leaves the table and is counted. -/
theorem State.colDone_counted (hcmd : s.colCmd x c.num = some c) (hgoes : c.aborting = false) (hsem : c.sigsem = 0xFFFF) :
    s.colDone x c = colWith (s.incF F.colCmds 1) x ((s.col1 x).cmds.filter fun d => d.num != c.num) := by
  simp only [State.colDone, hcmd, Option.any_some, hgoes, hsem, Bool.false_eq_true, if_false, if_true]
  rfl

end

/-! ### The progress of a command (10 R276–R278) -/

section
variable {x : Nat} {s : State} {c : ColCmd}

/-- A reserved operation faults the context at its turn. -/
theorem State.colNext_reserved (hnext : (s.col1 x).cmds.find? (fun d => !d.started) = some c) (hop : c.op = 0 ∨ 6 < c.op)
    (hres : s.preempted x = false) (hmay : s.colMayStart x c = true) :
    s.colNext x = s.ctxFault x 0 uColl kInvalid 0 c.addr := by
  simp only [State.colNext, hnext]
  exact if_pos ⟨hop, hmay, by rw [hres]; rfl⟩

theorem State.colRunOp_absent {tag op : Nat}
    (h : ((s.colNext x).col1 x).cmds.find? (fun c => c.ctag = tag ∧ c.op = op) = none) :
    s.colRunOp x tag op = s.colNext x := by
  simp only [State.colRunOp, h]

theorem State.colRunOp_found {tag op : Nat}
    (h : ((s.colNext x).col1 x).cmds.find? (fun c => c.ctag = tag ∧ c.op = op) = some c) :
    s.colRunOp x tag op = (s.colNext x).colRun x c.num := by
  simp only [State.colRunOp, h]

variable (hcmd : s.colCmd x c.num = some c)
include hcmd

/-- A command that may not start yet, or whose context does not run, changes nothing. -/
theorem State.colRun_waits (h : s.alive x = false ∨ s.preempted x = true ∨ (c.started || s.colMayStart x c) = false) :
    s.colRun x c.num = s := by
  simp only [State.colRun, hcmd]
  refine if_pos ?_
  rcases h with halive | hpre | hmay
  · simp [halive]
  · simp [hpre]
  · simp [hmay]

/-- A command that may run is complete, or leaves what it did so far. -/
theorem State.colRun_goes {done : Bool} {w : State} (halive : s.alive x = true) (hpre : s.preempted x = false)
    (hmay : (c.started || s.colMayStart x c) = true) (hgo : (colStep x c).go s = (.ok done, w)) :
    s.colRun x c.num = if done then w.colDone x c else w := by
  simp only [State.colRun, hcmd, halive, hpre, hmay, hgo, Bool.not_true, Bool.or_self, Bool.false_eq_true, if_false]
  cases done <;> rfl

end

/-- An entry's command holds the entry's fields and has done nothing (10 R277). -/
theorem colCmdOf_entry (num a : Nat) (b : List Byte) : entryCommand (colCmdOf num a b) num a b := by
  simp [entryCommand, colCmdOf]

/-! ### The commands of the unit (10 R274, R276–R278, R291) -/

section
variable {x : Fin 256} {s : State} (hworks : s.works = true)
include hworks

/-- Before its turn the unit waits on GOSEM. -/
theorem collectiveFetch_waits (h : ¬∃ t, colTurn s x.val t) :
    exec (.collectiveFetch x) s = .next (left s (s.colJoin x.val).settle) := by
  refine show execCollectiveFetch x s = _ from (work_left s _ hworks).trans ?_
  dsimp only
  split
  · rfl
  · rename_i hrun
    split
    · rfl
    · rename_i t htake
      simp only [Bool.or_eq_true, Bool.not_eq_true', not_or, Bool.not_eq_false, Bool.not_eq_true] at hrun
      exact absurd ⟨t, _, rfl, hrun.1, hrun.2, htake⟩ h

/-- At its turn the unit adds the command that the entry at HEAD holds. -/
theorem collectiveFetch_adds {t v : State} {b : List Byte} (hturn : colTurn s x.val t)
    (hread : (cvaRead (dieUnit 0) x.val (t.colEntryAt x.val) 64).go (t.incF (F.colHeadHead x.val) 1) = (.ok b, v)) :
    exec (.collectiveFetch x) s = .next (left s (colWith v x.val ((v.col1 x.val).cmds ++
      [colCmdOf (t.getF (F.colHeadHead x.val)) (t.colEntryAt x.val) b]))) := by
  obtain ⟨_, rfl, halive, hpre, htake⟩ := hturn
  refine show execCollectiveFetch x s = _ from (work_left s _ hworks).trans ?_
  simp only [halive, hpre, htake, hread, Bool.not_true, Bool.or_self, Bool.false_eq_true, if_false]
  rfl

/-- The six operations differ in their number alone. -/
theorem collectiveOp_exec (tag : BitVec 32) : ∀ e ∈ ([(.rscat x tag, 1), (.agath x tag, 2), (.norm x tag, 3),
    (.ared x tag, 4), (.dxch x tag, 5), (.mswap x tag, 6)] : List (Instr × Nat)),
    exec e.1 s = .next (left s (s.colRunOp x.val tag.toNat e.2)) := by
  simp only [List.forall_mem_cons]
  have hop : ∀ op, work s (·.colRunOp x.val tag.toNat op) = .next (left s (s.colRunOp x.val tag.toNat op)) := fun _ =>
    work_left s _ hworks
  exact ⟨hop 1, hop 2, hop 3, hop 4, hop 5, hop 6, List.forall_mem_nil _⟩

theorem mapArrival_refused {i gen : BitVec 32} {p : Fin 64}
    (h : s.alive x.val = false ∨ s.preempted x.val = true ∨ s.mapNamed x.val i.toNat = false) :
    exec (.mapArrival x i gen p) s = .next (left s s) := by
  refine show execMapArrival x i gen p s = _ from (work_left s _ hworks).trans ?_
  refine congrArg (fun u => Host.Outcome.next (left s u)) (if_pos ?_)
  rcases h with halive | hpre | hnamed
  · simp [halive]
  · simp [hpre]
  · simp [hnamed]

theorem mapArrival_taken {i gen : BitVec 32} {p : Fin 64} (halive : s.alive x.val = true) (hpre : s.preempted x.val = false)
    (hnamed : s.mapNamed x.val i.toNat = true) :
    exec (.mapArrival x i gen p) s = .next (left s (s.arrival x.val i.toNat gen.toNat p.val)) := by
  refine show execMapArrival x i gen p s = _ from (work_left s _ hworks).trans ?_
  simp only [halive, hpre, hnamed, Bool.not_true, Bool.or_self, Bool.false_eq_true, if_false]

/-- What the unit does with a packet is the case of the answer that its checks come to. -/
theorem collectivePacket_answered (m : ColMsg) : runsTo (.collectivePacket x m) s (colAnswered s x.val m) := by
  refine ⟨_, show execCollectivePacket x m s = _ from work_left s _ hworks, fun hrefused => ?_, fun hfault => ?_,
    fun c htake htrust hfor => ⟨fun hdata => ?_, fun habort hscat hgath hred => ?_⟩, fun u htake htrust hu => ?_⟩
  · rcases hrefused with h | h <;> simp only [h]
  · simp only [hfault]
    rfl
  · simp only [htake, State.colTake, htrust, hfor, hdata, Bool.false_eq_true, if_false, Bool.not_false, if_true]
  · simp [htake, State.colTake, htrust, hfor, habort, hscat, hgath, hred]
  · simp only [htake, State.colTake, htrust, hu, if_true]

/-- A started command that has made no progress faults its context, naming CTAG and position (log entry 30). -/
theorem collectiveStall_found {tag : BitVec 32} {c : ColCmd}
    (h : (s.col1 x.val).cmds.find? (fun c => c.ctag = tag.toNat ∧ c.started) = some c) :
    exec (.collectiveStall x tag) s = .next (left s (if s.resident x.val then
      s.ctxFault x.val 0 uColl kTimeout 0 (tag.toNat + s.colAwaits x.val c * 2 ^ 32) else s)) := by
  have htag : c.ctag = tag.toNat ∧ c.started = true := by simpa using List.find?_some h
  refine show execCollectiveStall x tag s = _ from (work_left s _ hworks).trans ?_
  simp only [h, colDetail, htag.1]

theorem collectiveStall_unfound {tag : BitVec 32}
    (h : (s.col1 x.val).cmds.find? (fun c => c.ctag = tag.toNat ∧ c.started) = none) :
    exec (.collectiveStall x tag) s = .next (left s s) := by
  refine show execCollectiveStall x tag s = _ from (work_left s _ hworks).trans ?_
  simp only [h]

end

/-- Settles O50: each command of the unit has one effect, its own branch chosen by the turn on GOSEM, the command found
or the checks of a message; and a completed NORM or MSWAP ends in the change that its clause names. -/
theorem collectivesRunInOrder : Obligations.CollectivesRunInOrder := by
  refine fun x s hworks => ⟨collectiveFetch_waits hworks, fun t v a b hturn ha hread => ?_,
    fun c => State.colNext_reserved, fun tag u hu e he => ⟨fun hnone => ?_,
      fun c hfind hcmd => ⟨fun hwaits => ?_, fun done w halive hpre hmay hgo => ?_⟩⟩,
    fun c u hstarted hcmd hgoes haborts hgo => ?_, fun c => State.colDone_counted, fun i gen p =>
      ⟨mapArrival_refused hworks, fun halive hpre hnamed u hu => ?_⟩, collectivePacket_answered hworks, fun tag => ?_⟩
  · subst ha
    exact ⟨_, colCmdOf_entry _ _ b, collectiveFetch_adds hworks hturn hread⟩
  · subst hu
    rw [collectiveOp_exec hworks tag e he, State.colRunOp_absent hnone]
  · subst hu
    rw [collectiveOp_exec hworks tag e he, State.colRunOp_found hfind, State.colRun_waits hcmd hwaits]
  · subst hu
    rw [collectiveOp_exec hworks tag e he, State.colRunOp_found hfind, State.colRun_goes hcmd halive hpre hmay hgo]
  · obtain ⟨hnorm, hswap⟩ := colStep_go_run hstarted hcmd (by rw [hgoes, haborts]; rfl)
    exact ⟨fun hop => normRun_holds hcmd ((hnorm hop).symm.trans hgo),
      fun hop => (mswapRun_activates x.val c).run s true u ((hswap hop).symm.trans hgo) rfl⟩
  · subst hu
    rw [mapArrival_taken hworks halive hpre hnamed]
    rfl
  · split
    · exact collectiveStall_found hworks ‹_›
    · exact collectiveStall_unfound hworks ‹_›

end Sys2Proof.Machine

/-! PROOFS about the remote memory transport (11): slots and what is sent for them, the checks of a received packet in
their order, and what a packet that passes them does. -/
namespace Sys2Proof.Machine

/-! ### Slots and the packets sent for them (11 R296, R302) -/

section
variable (s : State) (k : Nat)

@[simp] theorem State.slot_setSlot (v : RmtSlot) : (s.setSlot k v).slot k = v := tget_tput_same _ _ k v

theorem State.slot_setSlot_ne {j : Nat} (v : RmtSlot) (h : j ≠ k) : (s.setSlot k v).slot j = s.slot j :=
  tget_tput_ne _ _ v h

@[simp] theorem State.setSlot_getF (v : RmtSlot) (f : Fld) : (s.setSlot k v).getF f = s.getF f := rfl
@[simp] theorem State.setF_slot (f : Fld) (n : Nat) : (s.setF f n).slot k = s.slot k := rfl
@[simp] theorem State.incF_slot (f : Fld) (n : Nat) : (s.incF f n).slot k = s.slot k := rfl
@[simp] theorem State.rxBytes_slot (j : Nat) (p : Packet) : (s.rxBytes j p).slot k = s.slot k := s.incF_slot k _ _

@[simp] theorem State.mark_dcn (d : Nat) (p : Packet) : (s.mark d p).dcn = p.dcn := rfl
@[simp] theorem State.mark_opc (d : Nat) (p : Packet) : (s.mark d p).opc = p.opc := rfl
@[simp] theorem State.mark_sub (d : Nat) (p : Packet) : (s.mark d p).sub = p.sub := rfl
@[simp] theorem State.mark_psn (d : Nat) (p : Packet) : (s.mark d p).psn = p.psn := rfl

/-- How full a slot's port is depends on the port's frames and the slot's connection alone. -/
theorem State.filled_setSlot {v : RmtSlot} (h : v.conn = (s.slot k).conn) (kib : Nat) :
    (s.setSlot k v).filled k kib = s.filled k kib := by
  simp only [State.filled, State.slot_setSlot, h]
  rfl

end

/-! ### The checks of a received packet (11 R296, R300, R301, R305, R320) -/

section
variable {s : State} {d : Fin 4} {p : Packet} {i : Instr × Bool}

/-- A packet's command is the arrival of a packet of one kind. -/
theorem rmtPackets_exec (s : State) : ∀ i ∈ rmtPackets d p, exec i.1 s = work s fun s => s.rmtIn d.val p i.2 := by
  simp only [rmtPackets, List.forall_mem_cons, List.not_mem_nil, false_imp_iff, implies_true, and_true]
  exact ⟨rfl, rfl, rfl, rfl, rfl, rfl, rfl, rfl, rfl, rfl, rfl, rfl, rfl, rfl, rfl, rfl, rfl⟩

end

section
variable {s : State} {d : Nat} {p : Packet} {kind : Bool}

theorem State.rmtIn_down (h : s.readyDie d rdRmt = false) : s.rmtIn d p kind = s := by
  simp only [State.rmtIn, h, Bool.not_false, if_true]

variable (hup : s.readyDie d rdRmt = true)
include hup

theorem State.rmtIn_badHeaders (hip : pktIpOk p = false) :
    s.rmtIn d p kind = (s.incF (F.rmtCtr1 d) 1).incF (F.rmtCtr12 d) 1 := by
  simp [State.rmtIn, hup, hip]

variable (hip : pktIpOk p = true)
include hip

theorem State.rmtIn_badCheck (hcrc : p.crc ≠ crc32c (pktBytes p)) :
    s.rmtIn d p kind = (s.incF (F.rmtCtr1 d) 1).incF (F.rmtCtr10 d) 1 := by
  simp [State.rmtIn, hup, hip, hcrc]

variable (hcrc : p.crc = crc32c (pktBytes p))
include hcrc

theorem State.rmtIn_badForm (hform : pktForm p = false) :
    s.rmtIn d p kind = (s.incF (F.rmtCtr1 d) 1).incF (F.rmtCtr12 d) 1 := by
  simp [State.rmtIn, hup, hip, hcrc, hform]

variable (hform : pktForm p = true)
include hform

theorem State.rmtIn_otherKind : s.rmtIn d p false = s := by
  simp [State.rmtIn, hup, hip, hcrc, hform]

/-- A whole packet of the command's kind is counted, then judged by the place of its slot. -/
theorem State.rmtIn_whole : s.rmtIn d p true =
    let q := s.mark d p
    let v := (s.incF (F.rmtCtr1 d) 1).incF (F.rmtCtr14 d) (ofBool q.ce)
    if 2 ^ 18 ≤ p.dcn.toNat ∨ slotDie p.dcn.toNat ≠ d then v.incF (F.rmtCtr11 d) 1
    else if (s.connCache d).contains p.dcn.toNat then v.slotIn d q
    else if 256 ≤ (tget [] s.rmt.waiting d).length then v.incF (F.rmtCtr13 d) 1
    else { v with rmt.waiting := tput [] s.rmt.waiting d (tget [] s.rmt.waiting d ++ [q]) } := by
  rw [State.rmtIn]
  simp only [hup, hip, hcrc, hform, Bool.not_true, Bool.false_eq_true, if_false, bne_self_eq_false]

end

/-! ### A packet that reaches its slot (11 R301, R305, R320) -/

section
variable {s u : State} {d : Fin 4} {p q : Packet} {i : Instr × Bool}

/-- What a packet does that its slot's checks let pass, its bytes counted (11 R305 rows 3 to 6). -/
def State.carried (s : State) (d : Nat) (p : Packet) : State :=
  let k := p.dcn.toNat
  let o := p.opc.toNat
  if isRequest o then s.request d p
  else if o = opAck then s.ackIn k p
  else if o = opNak then s.nakIn k p
  else if o = opReadResp then s.readIn k p
  else s.atomicIn k p

/-- A packet that manages no connection is judged by its payload, then by the slot's traffic. -/
theorem State.slotGo_eq {n : Nat} (h : ¬opOpen ≤ p.opc.toNat) : u.slotGo n p =
    if ((u.slot p.dcn.toNat).st != .free && !(payloadOk (u.slot p.dcn.toNat) p)) = true then u.incF (F.rmtCtr12 n) 1
    else if (!((u.slot p.dcn.toNat).traffic p)) = true then u.incF (F.rmtCtr11 n) 1
    else (u.rxBytes p.dcn.toNat p).carried n p := by
  have hplain : ¬(p.opc.toNat = opOpen ∨ p.opc.toNat = opOpenAck ∨ p.opc.toNat = opHalt ∨ p.opc.toNat = opClose) := by
    simp only [opOpen, opOpenAck, opHalt, opClose] at h ⊢
    omega
  rw [State.slotGo]
  simp only [hplain, if_false]
  rfl

theorem State.slotGo_badPayload {n : Nat} (h : ¬opOpen ≤ p.opc.toNat) (hst : (u.slot p.dcn.toNat).st ≠ .free)
    (hpay : payloadOk (u.slot p.dcn.toNat) p = false) : u.slotGo n p = u.incF (F.rmtCtr12 n) 1 := by
  rw [State.slotGo_eq h, if_pos (by simp [hst, hpay])]

theorem State.slotGo_stale {n : Nat} (h : ¬opOpen ≤ p.opc.toNat) (hpay : payloadOk (u.slot p.dcn.toNat) p = true)
    (htraffic : (u.slot p.dcn.toNat).traffic p = false) : u.slotGo n p = u.incF (F.rmtCtr11 n) 1 := by
  rw [State.slotGo_eq h, if_neg (by simp [hpay]), if_pos (by simp [htraffic])]

theorem State.slotGo_carried {n : Nat} (h : ¬opOpen ≤ p.opc.toNat) (hpay : payloadOk (u.slot p.dcn.toNat) p = true)
    (htraffic : (u.slot p.dcn.toNat).traffic p = true) : u.slotGo n p = (u.rxBytes p.dcn.toNat p).carried n p := by
  rw [State.slotGo_eq h, if_neg (by simp [hpay]), if_neg (by simp [htraffic])]

/-- A whole packet's command does what the packet does at its slot. -/
theorem rmtWhole.exec (h : rmtWhole s d.val p q u) (hi : i ∈ rmtPackets d p) (hkind : i.2 = true) :
    Machine.exec i.1 s = .next (left s (u.slotGo d.val q)) := by
  obtain ⟨hworks, hup, hip, hcrc, hform, hlow, hdie, hcached, rfl, rfl⟩ := h
  have hhere : ¬(2 ^ 18 ≤ p.dcn.toNat ∨ slotDie p.dcn.toNat ≠ d.val) := by omega
  rw [rmtPackets_exec s i hi, work_left s _ hworks, hkind, State.rmtIn_whole hup hip hcrc hform]
  simp only [hhere, hcached, if_false, if_true]
  rfl

/-- A packet that passes its slot's checks is carried out. -/
theorem rmtPasses.exec (h : rmtPasses s d.val p q u) (hi : i ∈ rmtPackets d p) (hkind : i.2 = true)
    (hopc : ¬opOpen ≤ p.opc.toNat) : Machine.exec i.1 s = .next (left s (u.carried d.val q)) := by
  obtain ⟨t, hwhole, hpay, htraffic, rfl⟩ := h
  have hexec := hwhole.exec hi hkind
  obtain ⟨-, -, -, -, -, -, -, -, rfl, -⟩ := hwhole
  rw [hexec, State.slotGo_carried (p := s.mark d.val p) hopc hpay htraffic]
  rfl

theorem rmtPasses.mark (h : rmtPasses s d.val p q u) : q = s.mark d.val p := by
  obtain ⟨t, ⟨-, -, -, -, -, -, -, -, hq, -⟩, -⟩ := h
  exact hq

theorem rmtPasses.die (h : rmtPasses s d.val p q u) : slotDie p.dcn.toNat = d.val := by
  obtain ⟨t, ⟨-, -, -, -, -, -, hdie, -⟩, -⟩ := h
  exact hdie

theorem rmtPasses.traffic (h : rmtPasses s d.val p q u) : (u.slot p.dcn.toNat).traffic q = true := by
  obtain ⟨t, -, -, htraffic, rfl⟩ := h
  rwa [State.rxBytes_slot]

end

/-! ### A request in its place in the sequence (11 R307, R308, R324) -/

section
variable {s u : State} {d : Fin 4} {p q : Packet} {i : Instr × Bool}

theorem rmtRequests_packets (hi : i ∈ rmtRequests d p) : i ∈ rmtPackets d p := by
  simp only [rmtRequests, List.mem_cons, List.not_mem_nil, or_false] at hi
  simp only [rmtPackets, List.mem_cons]
  tauto

theorem isOp_opc {o : Nat} {sub : Option Nat} (h : isOp p o sub = true) : p.opc.toNat = o := by
  simp only [isOp, Bool.and_eq_true, beq_iff_eq] at h
  exact h.1

theorem isRequest_of_isOp {o : Nat} {sub : Option Nat} (ho : isRequest o = true) (h : isOp p o sub = true) :
    isRequest p.opc.toNat = true := isOp_opc h ▸ ho

theorem rmtRequests_isRequest : ∀ i ∈ rmtRequests d p, i.2 = true → isRequest p.opc.toNat = true := by
  simp only [rmtRequests, List.forall_mem_cons, List.not_mem_nil, false_imp_iff, implies_true, and_true]
  exact ⟨isRequest_of_isOp rfl, isRequest_of_isOp rfl, isRequest_of_isOp rfl, isRequest_of_isOp rfl,
    isRequest_of_isOp rfl, isRequest_of_isOp rfl, isRequest_of_isOp rfl⟩

theorem not_opOpen_of_isRequest {o : Nat} (h : isRequest o = true) : ¬opOpen ≤ o := by
  simp only [isRequest, List.contains_eq_mem, List.mem_cons, List.not_mem_nil, or_false, decide_eq_true_eq, opWrite,
    opWriteNotify, opReadReq, opAtomic, opReduceWrite] at h
  simp only [opOpen]
  omega

/-- What the expected packet of a connection does: a collective one goes to its unit, another to its key (11 R305). -/
def State.reqBody (s : State) (k : Nat) (p : Packet) : Req :=
  match p.cxh with
  | some c => s.reqCollective k p c
  | none => s.reqKeyed k p

/-- A request that no packet of its connection waits before is handled at once. -/
theorem rmtPasses.request (h : rmtPasses s d.val p q u) (hi : i ∈ rmtRequests d p) (hkind : i.2 = true)
    (hfree : ∀ w ∈ u.keyWaits d.val, w.dcn ≠ p.dcn) : Machine.exec i.1 s = .next (left s (u.reqOne d.val q)) := by
  have hreq := rmtRequests_isRequest i hi hkind
  have hnone : (u.keyWaits d.val).any (fun w => w.dcn = q.dcn) = false := by
    rw [h.mark]
    exact List.any_eq_false.2 fun w hw => mt of_decide_eq_true (hfree w hw)
  have hq : isRequest q.opc.toNat = true := by rwa [h.mark]
  rw [h.exec (rmtRequests_packets hi) hkind (not_opOpen_of_isRequest hreq), State.carried]
  simp only [hq, if_true, State.request, hnone, Bool.false_eq_true, if_false]

theorem State.reqOne_done {t : State} {n : Nat} (h : s.reqGo p.dcn.toNat p = .done t) : s.reqOne n p = t := by
  rw [State.reqOne, h]

theorem State.reqOne_wait {t : State} {n : Nat} (h : s.reqGo p.dcn.toNat p = .wait t) :
    s.reqOne n p = t.setKeyWaits n (t.keyWaits n ++ [p]) := by
  rw [State.reqOne, h]

section
variable (htraffic : (u.slot p.dcn.toNat).traffic p = true)
include htraffic

/-- Beyond the expected PSN the gap is reported, once until it closes. -/
theorem State.reqGo_gap (hpos : 0 < psnDist u p) (hlow : psnDist u p < 2 ^ 31) : u.reqGo p.dcn.toNat p =
    .done (if ((u.slot p.dcn.toNat).busy || (u.slot p.dcn.toNat).gap) = true then u else
      let t := (u.incF (F.rmtCtr6 (slotDie p.dcn.toNat)) 1).sendNak p.dcn.toNat 1 p.ce
      t.setSlot p.dcn.toNat { t.slot p.dcn.toNat with gap := true }) := by
  simp only [psnDist] at hpos hlow
  rw [State.reqGo]
  simp only [htraffic, Bool.not_true, Bool.false_eq_true, if_false, Nat.not_le.2 hlow, bne_iff_ne, ne_eq, hpos.ne',
    not_false_eq_true, if_true]
  split <;> rfl

theorem State.reqGo_dup (hhigh : 2 ^ 31 ≤ psnDist u p) : u.reqGo p.dcn.toNat p = u.reqDup p.dcn.toNat p := by
  simp only [psnDist] at hhigh
  rw [State.reqGo]
  simp only [htraffic, Bool.not_true, Bool.false_eq_true, if_false, hhigh, if_true]

variable (hzero : psnDist u p = 0)
include hzero

/-- The expected packet ends a gap; a message does not begin while the buffer is filled to BUSYTH. -/
theorem State.reqGo_expected : u.reqGo p.dcn.toNat p =
    let b := u.setSlot p.dcn.toNat { u.slot p.dcn.toNat with gap := false, busy := false }
    if (pktFirst p && u.filled p.dcn.toNat (u.getF (F.rmtBufBusyth (slotDie p.dcn.toNat)))) = true then
      .done (b.nakBusy p.dcn.toNat true)
    else b.reqBody p.dcn.toNat p := by
  simp only [psnDist] at hzero
  rw [State.reqGo]
  simp only [htraffic, Bool.not_true, Bool.false_eq_true, if_false, hzero, bne_self_eq_false,
    State.filled_setSlot u p.dcn.toNat (v := { u.slot p.dcn.toNat with gap := false, busy := false }) rfl,
    State.setSlot_getF]
  rfl

end

end

/-! ### Duplicates and keys (11 R308, R316, R317) -/

section
variable {s u b : State} {d : Fin 4} {p q : Packet} {i : Instr × Bool} {k : Nat}

/-- A duplicate write, or an atomic that is no longer logged, is acknowledged. -/
theorem State.reqDup_acked (h : isWrite p.opc.toNat = true ∨ (p.opc.toNat = opAtomic ∧
    ∀ e ∈ (u.slot k).alog, e.1 ≠ p.psn.toNat)) :
    u.reqDup k p = .done ((u.incF (F.rmtCtr5 (slotDie k)) 1).sendAck k p.ce) := by
  rw [State.reqDup]
  rcases h with hwrite | ⟨hatomic, hlog⟩
  · have hread : p.opc.toNat ≠ opReadReq := fun h => by rw [h] at hwrite; cases hwrite
    have hatomic : p.opc.toNat ≠ opAtomic := fun h => by rw [h] at hwrite; cases hwrite
    simp only [hread, hatomic, if_false]
  · have hnone : (u.slot k).alog.find? (fun e => e.1 = p.psn.toNat) = none :=
      List.find?_eq_none.2 fun e he => mt of_decide_eq_true (hlog e he)
    have hread : opAtomic ≠ opReadReq := by decide
    simp only [hatomic, hread, if_false, if_true, hnone]

theorem State.reqDup_logged {e : Nat × Word64} (hatomic : p.opc.toNat = opAtomic)
    (hlog : (u.slot k).alog.find? (fun e => e.1 = p.psn.toNat) = some e) :
    u.reqDup k p = .done ((u.incF (F.rmtCtr5 (slotDie k)) 1).sendAtomic k p.psn.toNat e.2) := by
  have hread : opAtomic ≠ opReadReq := by decide
  rw [State.reqDup]
  simp only [hatomic, hread, if_false, if_true, hlog]

/-- A duplicate read is read again under its key. -/
theorem State.reqDup_read {h : Axh} {c : KeyC} {bs : List Byte} {w : State} (hread : p.opc.toNat = opReadReq)
    (haxh : p.axh = some h) (hkey : u.keyView k opReadReq 0 h = .ok c)
    (hgo : (cvaRead (dieUnit (slotDie k)) (u.slot k).conn.owner (fieldAt c.bytes 0 8 + h.offset.toNat)
      h.length.toNat).go (u.incF (F.rmtCtr5 (slotDie k)) 1) = (.ok bs, w)) :
    u.reqDup k p = .done (w.sendReads k p.psn.toNat bs) := by
  rw [State.reqDup]
  simp only [hread, if_true, haxh, hkey, hgo]

/-- Without a collective header an expected packet goes by its key. -/
theorem State.reqBody_keyed (h : p.cxh = none) : b.reqBody k p = b.reqKeyed k p := by
  rw [State.reqBody, h]

/-- A keyed packet that begins a message where none is open is judged by its key. -/
theorem State.reqKeyed_first {h : Axh} (hfirst : pktFirst p = true) (haxh : p.axh = some h)
    (hrx : (b.slot k).rx = none) :
    (b.keyView k p.opc.toNat p.sub.toNat h = .busy → b.reqKeyed k p = .done (b.nakBusy k p.ce)) ∧
    (b.keyView k p.opc.toNat p.sub.toNat h = .access → b.reqKeyed k p = .done (b.nakAccess k p.ce)) ∧
    (b.keyView k p.opc.toNat p.sub.toNat h = .fetch → b.reqKeyed k p = .wait b) ∧
    ∀ c, b.keyView k p.opc.toNat p.sub.toNat h = .ok c → b.reqKeyed k p =
      ((b.keyUse (slotDie k) c 1).setSlot k { b.slot k with rx := some (rxOf p c h) }).reqEffect k p (rxOf p c h) := by
  refine ⟨fun hkey => ?_, fun hkey => ?_, fun hkey => ?_, fun c hkey => ?_⟩ <;> rw [State.reqKeyed]
  all_goals simp only [haxh, hfirst, hrx, hkey]

theorem rmtExpected.reqGo (h : rmtExpected s d.val p q b) (hi : i ∈ rmtRequests d p) (hkind : i.2 = true) :
    ∃ u : State, exec i.1 s = .next (left s (u.reqOne d.val q)) ∧
      u.reqGo q.dcn.toNat q = b.reqBody p.dcn.toNat q := by
  obtain ⟨u, hpasses, hfree, hzero, hroom, rfl⟩ := h
  have hmark := hpasses.mark
  have hdie := hpasses.die
  have htraffic := hpasses.traffic
  refine ⟨u, hpasses.request hi hkind hfree, ?_⟩
  subst hmark
  have hbusy : (pktFirst p && u.filled p.dcn.toNat (u.getF (F.rmtBufBusyth d.val))) = false := by
    cases hfirst : pktFirst p with
    | false => rfl
    | true => exact hroom hfirst
  refine (State.reqGo_expected (p := s.mark d.val p) htraffic hzero).trans (if_neg ?_)
  show ¬(pktFirst p && u.filled p.dcn.toNat (u.getF (F.rmtBufBusyth (slotDie p.dcn.toNat)))) = true
  rw [hdie, hbusy]
  decide

/-- An expected request that is handled leaves what its body comes to. -/
theorem rmtExpected.exec_done {t : State} (h : rmtExpected s d.val p q b) (hi : i ∈ rmtRequests d p)
    (hkind : i.2 = true) (hgo : b.reqBody p.dcn.toNat q = .done t) : exec i.1 s = .next (left s t) := by
  obtain ⟨u, hexec, hreq⟩ := h.reqGo hi hkind
  rw [hexec, State.reqOne_done (hreq.trans hgo)]

/-- An expected request that must wait joins the packets that wait on the die stack. -/
theorem rmtExpected.exec_wait {t : State} (h : rmtExpected s d.val p q b) (hi : i ∈ rmtRequests d p)
    (hkind : i.2 = true) (hgo : b.reqBody p.dcn.toNat q = .wait t) :
    exec i.1 s = .next (left s (t.setKeyWaits d.val (t.keyWaits d.val ++ [q]))) := by
  obtain ⟨u, hexec, hreq⟩ := h.reqGo hi hkind
  rw [hexec, State.reqOne_wait (hreq.trans hgo)]

theorem rmtExpected.mark (h : rmtExpected s d.val p q b) : q = s.mark d.val p := by
  obtain ⟨u, hpasses, -⟩ := h
  exact hpasses.mark

theorem rmtExpected.die (h : rmtExpected s d.val p q b) : slotDie p.dcn.toNat = d.val := by
  obtain ⟨u, hpasses, -⟩ := h
  exact hpasses.die

end

/-- Settles O51: each check of R305 that decides a packet names one branch of what its command does, and what it leaves
is that branch's state. -/
theorem rmtPacketsInOrderOfChecks : Obligations.RmtPacketsInOrderOfChecks := by
  unfold Obligations.RmtPacketsInOrderOfChecks
  rintro d p q s u v k rfl
  refine ⟨fun i hi hworks => ?_, fun i hi hkind hopc hwhole => ?_, fun i hi hkind hpasses hfree => ?_,
    fun i hi h b hkind hexp hcxh hfirst haxh hrx => ?_⟩
  · have hexec := rmtPackets_exec s i hi
    rw [work_left s _ hworks] at hexec
    refine ⟨fun hdown => ?_, fun hup hu => ?_⟩
    · rw [hexec, State.rmtIn_down hdown]
      rfl
    subst hu
    refine ⟨fun hip => ?_, fun hip hcrc => ?_, fun hip hcrc => ⟨fun hform => ?_, fun hform hkind => ?_,
      fun hform hkind hq hv => ?_⟩⟩
    · rw [hexec, State.rmtIn_badHeaders hup hip]
    · rw [hexec, State.rmtIn_badCheck hup hip hcrc]
    · rw [hexec, State.rmtIn_badForm hup hip hcrc hform]
    · rw [hexec, hkind, State.rmtIn_otherKind hup hip hcrc hform]
      rfl
    subst hq hv
    rw [hkind, State.rmtIn_whole hup hip hcrc hform] at hexec
    refine ⟨fun hplace => ?_, fun hlow hdie hmiss => ?_⟩
    · simp only [hexec, hplace, if_true]
    have hhere : ¬(2 ^ 18 ≤ p.dcn.toNat ∨ slotDie p.dcn.toNat ≠ d.val) := by omega
    simp only [hhere, hmiss, if_false, Bool.false_eq_true] at hexec
    refine ⟨fun hfull => ?_, fun hroom => ⟨_, hexec, ?_⟩⟩
    · simp only [hexec, hfull, if_true]
    · simp only [Nat.not_le.2 hroom, if_false]
      exact ⟨rfl, tget_tput_same _ _ _ _⟩
  · rw [hwhole.exec hi hkind]
    obtain ⟨-, -, -, -, -, -, -, -, rfl, -⟩ := hwhole
    exact ⟨fun hst hpay => by rw [State.slotGo_badPayload (p := s.mark d.val p) hopc hst hpay],
      fun hpay htraffic => by rw [State.slotGo_stale (p := s.mark d.val p) hopc hpay htraffic]⟩
  · have hexec := hpasses.request hi hkind hfree
    have htraffic := hpasses.traffic
    have hdie := hpasses.die
    obtain rfl := hpasses.mark
    refine ⟨fun hpos hlow => ?_, fun hhigh => ?_, fun b hzero hb hfirst hfull => ?_⟩
    · rw [hexec, State.reqOne_done (State.reqGo_gap (p := s.mark d.val p) htraffic hpos hlow)]
      refine ⟨fun hheld => ?_, fun t hbusy hgap ht => ?_⟩
      · rw [if_pos (by simpa using hheld)]
      · rw [if_neg (by simp [hbusy, hgap]), ht, ← hdie]
        rfl
    · have hdup := State.reqGo_dup (p := s.mark d.val p) htraffic hhigh
      refine ⟨fun hacked => ?_, fun old hatomic hlog => ?_, fun h c bs w hread haxh hkey hgo => ?_⟩
      · rw [hexec, State.reqOne_done (hdup.trans (State.reqDup_acked hacked)), ← hdie]
        rfl
      · rw [hexec, State.reqOne_done (hdup.trans (State.reqDup_logged hatomic hlog)), ← hdie]
        rfl
      · rw [← hdie] at hgo
        rw [hexec, State.reqOne_done (hdup.trans (State.reqDup_read hread haxh hkey hgo))]
        rfl
    · have hgo := State.reqGo_expected (p := s.mark d.val p) htraffic hzero
      have hbusy : (pktFirst p && u.filled p.dcn.toNat (u.getF (F.rmtBufBusyth (slotDie p.dcn.toNat)))) = true := by
        rw [hdie, hfirst, hfull]
        rfl
      rw [hexec, State.reqOne_done (hgo.trans (if_pos hbusy)), hb]
      rfl
  · obtain rfl := hexp.mark
    have hkeyed := State.reqBody_keyed (b := b) (k := p.dcn.toNat) (p := s.mark d.val p) hcxh
    obtain ⟨hbusy, haccess, hfetch, -⟩ := State.reqKeyed_first (p := s.mark d.val p) hfirst haxh hrx
    exact ⟨fun hkey => hexp.exec_done hi hkind (hkeyed.trans (hbusy hkey)),
      fun hkey => hexp.exec_done hi hkind (hkeyed.trans (haccess hkey)),
      fun hkey => hexp.exec_wait hi hkind (hkeyed.trans (hfetch hkey))⟩

end Sys2Proof.Machine

/-! PROOFS about the remote memory transport (11): what requests, acknowledgements, responses and connection packets
leave behind. -/
namespace Sys2Proof.Machine

/-! ### Packets handed to a port (12 R337, R345, R348; 14 R386) -/

section
variable {s t : State} (h : portOnly s t)
include h

theorem portOnly.slot (k : Nat) : t.slot k = s.slot k := by
  obtain ⟨r, q, l, rfl⟩ := h
  rfl

theorem portOnly.rmt : t.rmt = s.rmt := by
  obtain ⟨r, q, l, rfl⟩ := h
  rfl

theorem portOnly.mem : t.mem = s.mem := by
  obtain ⟨r, q, l, rfl⟩ := h
  rfl

theorem portOnly.err : t.err = s.err := by
  obtain ⟨r, q, l, rfl⟩ := h
  rfl

end

section
variable (s : State)

/-- A frame handed to a port changes counters and the port's queue alone. -/
theorem State.present_portOnly (port : Nat) (f : TxFrame) : portOnly s (s.present port f) := by
  unfold State.present
  split
  · exact (portOnly.refl s).setF _ _
  · split
    · unfold State.xingDrop
      split
      · exact (portOnly.refl s).setF _ _
      · exact portOnly.refl s
    · exact (portOnly.refl s).setPort _ _

/-- No counter but the port's and the crossing's moves for a frame handed to a port. -/
theorem State.present_getF {port : Nat} {g : Fld} (hctr : ∀ i, g.key ≠ (portCtr port i).key)
    (hdrop : g.key ≠ (F.xdrop (port / 8)).key) (f : TxFrame) : (s.present port f).getF g = s.getF g := by
  unfold State.present
  split
  · exact s.getF_incF_ne 1 (hctr _)
  · split
    · unfold State.xingDrop
      split
      · exact s.getF_incF_ne 1 hdrop
      · rfl
    · rfl

theorem State.sendPkt_portOnly (k : Nat) (p : Packet) : portOnly s (s.sendPkt k p) := by
  obtain ⟨r, q, l, h⟩ := (s.incF (F.rmtCtr0 (slotDie k)) 1).present_portOnly (slotPort k (s.slot k).conn)
    (s.pktFrame k p)
  exact ⟨r, q, l, h⟩

@[simp] theorem State.sendPkt_slot (j k : Nat) (p : Packet) : (s.sendPkt k p).slot j = s.slot j :=
  (s.sendPkt_portOnly k p).slot j

/-! ### What a handled request leaves (11 R307, R309) -/

/-- An acknowledgement changes of its slot what is owed. -/
theorem State.sendAck_slot (k : Nat) (ece : Bool) : (s.sendAck k ece).slot k = s.slot k ∨
    (s.sendAck k ece).slot k = { s.slot k with owed := 0, owedEce := false } := by
  unfold State.sendAck
  dsimp only
  split
  · exact .inl rfl
  · exact .inr (by rw [State.slot_setSlot, State.sendPkt_slot])

/-- A handled request moves E past its PSNs, and owes an acknowledgement unless one is due. -/
theorem State.reqDone_counted (k n : Nat) (p : Packet) : rmtCounted s (s.reqDone k p n) k p n := by
  unfold rmtCounted State.reqDone
  dsimp only
  split
  · rename_i hdue
    refine ⟨?_, fun hlast hareq howed => ?_⟩
    · rcases (s.setSlot k _).sendAck_slot k false with h | h <;> rw [h, State.slot_setSlot]
    · rw [hlast, hareq, decide_eq_false (Nat.not_le.2 howed)] at hdue
      cases hdue
  · exact ⟨by rw [State.slot_setSlot], fun _ _ _ => by rw [State.slot_setSlot]⟩

end

/-! ### Packets of a message (11 R305, R311–R313, R317) -/

section
variable {s b c w : State} {p : Packet} {m : RxMsg} {k : Nat}

/-- A packet that begins a message under its key is the message's first, with the key's reference held. -/
theorem rmtBegins.body (h : rmtBegins b (slotDie p.dcn.toNat) p m c) :
    b.reqBody p.dcn.toNat p = c.reqEffect p.dcn.toNat p m := by
  obtain ⟨hcxh, hfirst, hrx, a, e, haxh, hkey, rfl, rfl⟩ := h
  obtain ⟨-, -, -, hok⟩ := State.reqKeyed_first hfirst haxh hrx
  rw [State.reqBody_keyed hcxh, hok e hkey]

/-- A packet that begins no message goes on with the one open. -/
theorem rmtGoesOn.body (h : rmtGoesOn b p m) : b.reqBody p.dcn.toNat p = b.reqEffect p.dcn.toNat p m := by
  obtain ⟨hcxh, hfirst, hrx, hwaiting⟩ := h
  rw [State.reqBody_keyed hcxh, State.reqKeyed]
  cases p.axh <;> simp only [hfirst, hrx, hwaiting, Bool.false_eq_true, if_false]

theorem State.reqEffect_write {t : State} (h : isWrite m.opc = true) (hgo : c.applyWrite k p m = .done t) :
    c.reqEffect k p m = .done t := by
  have hread : m.opc ≠ opReadReq := fun he => by rw [he] at h; cases h
  have hatomic : m.opc ≠ opAtomic := fun he => by rw [he] at h; cases h
  rw [State.reqEffect]
  simp only [hread, hatomic, if_false, hgo]

/-- The notification of a message that ends, if it asks for one. -/
def State.notified (s : State) (k : Nat) (m : RxMsg) : State :=
  match (s.keyCache (slotDie k)).find? fun e => some e.index = m.key with
  | some e => if m.opc = opWriteNotify then s.notify k e m.imm else s
  | none => s

theorem State.notified_other (h : m.opc ≠ opWriteNotify) : s.notified k m = s := by
  unfold State.notified
  split
  · exact if_neg h
  · rfl

theorem State.notified_notify {e : KeyC} (h : m.opc = opWriteNotify)
    (hkey : (s.keyCache (slotDie k)).find? (fun e => some e.index = m.key) = some e) :
    s.notified k m = s.notify k e m.imm := by
  unfold State.notified
  rw [hkey]
  exact if_pos h

/-- A payload that lands leaves its message advanced, or ended by its last packet. -/
theorem rmtWrites.applyWrite (h : rmtWrites c (slotDie p.dcn.toNat) p m w) :
    c.applyWrite p.dcn.toNat p m = .done ((if p.last = true then (w.notified p.dcn.toNat m).dropRx p.dcn.toNat
      else w).reqDone p.dcn.toNat p 1) := by
  obtain ⟨hopc, hfits, hlast, v, hgo, rfl⟩ := h
  have hmsg : (p.opc.toNat != m.opc || decide (m.left < p.payload.length) || p.last != (m.left == p.payload.length)) =
      false := by
    have hends : p.last = (m.left == p.payload.length) := by
      rw [Bool.eq_iff_iff, hlast, beq_iff_eq]
    rw [hopc, hends, decide_eq_false (Nat.not_lt.2 hfits), bne_self_eq_false, bne_self_eq_false]
    rfl
  rw [State.applyWrite]
  simp only [hmsg, Bool.false_eq_true, if_false, hgo]
  cases p.last <;> rfl

end

/-! ### The requests of a message (11 R305, R308, R311, R316) -/

section
variable {s b c w : State} {p : Packet} {m : RxMsg} {k : Nat}

theorem rmtBegins.opc {n : Nat} (h : rmtBegins b n p m c) : m.opc = p.opc.toNat := by
  obtain ⟨-, -, -, a, e, -, -, rfl, -⟩ := h
  rfl

theorem rmtBegins.conn {n : Nat} (h : rmtBegins b n p m c) : (c.slot p.dcn.toNat).conn = (b.slot p.dcn.toNat).conn := by
  obtain ⟨-, -, -, a, e, -, -, -, rfl⟩ := h
  rw [State.slot_setSlot]

/-- A read that can be read is answered with its bytes and ends its message. -/
theorem State.reqEffect_read {bs : List Byte} (hopc : m.opc = opReadReq)
    (hgo : (cvaRead (dieUnit (slotDie k)) (c.slot k).conn.owner m.next m.left).go c = (.ok bs, w)) :
    c.reqEffect k p m = .done (((w.sendReads k p.psn.toNat bs).dropRx k).reqDone k p
      ((m.left + (c.slot k).conn.pmtu - 1) / (c.slot k).conn.pmtu)) := by
  rw [State.reqEffect]
  simp only [hopc, if_true, State.readNow, hgo]

/-- An atomic that comes about is logged, is answered with the original value and ends its message. -/
theorem State.reqEffect_atomic {old : Word64} (hopc : m.opc = opAtomic)
    (hgo : (atomicOn (dieUnit (slotDie k)) (c.slot k).conn.owner m.next m.sub p.opnd0 p.opnd1).go c = (.ok old, w)) :
    c.reqEffect k p m = .done ((((w.setSlot k { w.slot k with
      alog := ((p.psn.toNat, old) :: (w.slot k).alog).take 16 }).sendAtomic k p.psn.toNat old).dropRx k).reqDone
        k p 1) := by
  have hread : opAtomic ≠ opReadReq := by decide
  rw [State.reqEffect]
  simp only [hopc, hread, if_false, if_true, State.atomicNow, hgo]

/-- A collective message of one packet that its unit takes is delivered whole. -/
theorem State.reqCollective_whole {x : Cxh} {t : State} (hfirst : p.first = true) (hlast : p.last = true)
    (hrx : (b.slot k).rx = none) (htake : b.cxhAdmit (b.slot k).conn.owner k x false = .take)
    (hover : (b.setSlot k { b.slot k with rx := none }).cxhDeliver (b.slot k).conn.owner k x p.payload = .over t) :
    b.reqCollective k p x = .done (t.reqDone k p 1) := by
  rw [State.reqCollective]
  simp only [hrx, Option.isSome_none, htake, cxhMsg, hfirst, hlast, if_true, List.nil_append, Option.getD_some, hover]

end

section
variable {s b c w : State} {d : Fin 4} {p q : Packet} {m : RxMsg} {i : Instr × Bool}

/-- An expected packet of a message does what its message's next packet does. -/
theorem rmtExpected.body (h : rmtExpected s d.val p q b)
    (hopens : rmtBegins b d.val p m c ∨ (rmtGoesOn b p m ∧ c = b)) :
    b.reqBody p.dcn.toNat q = c.reqEffect p.dcn.toNat q m := by
  have hdie := h.die
  obtain rfl := h.mark
  rcases hopens with hbegins | ⟨hgoes, rfl⟩
  · rw [← hdie] at hbegins
    exact rmtBegins.body (p := s.mark d.val p) hbegins
  · exact rmtGoesOn.body (p := s.mark d.val p) hgoes

/-- An expected write or reduction whose payload lands is counted, and its last packet ends the message. -/
theorem rmtExpected.exec_write (h : rmtExpected s d.val p q b) (hi : i ∈ rmtRequests d p) (hkind : i.2 = true)
    (hopens : rmtBegins b d.val p m c ∨ (rmtGoesOn b p m ∧ c = b)) (hwrites : rmtWrites c d.val p m w)
    (hopc : isWrite p.opc.toNat = true) : exec i.1 s = .next (left s ((if p.last = true then
      (w.notified p.dcn.toNat m).dropRx p.dcn.toNat else w).reqDone p.dcn.toNat q 1)) := by
  have hdie := h.die
  have hbody := h.body hopens
  obtain ⟨hmsg, -⟩ := id hwrites
  have hmark := h.mark
  refine h.exec_done hi hkind (hbody.trans (State.reqEffect_write (by rwa [hmsg]) ?_))
  subst hmark
  rw [← hdie] at hwrites
  exact rmtWrites.applyWrite (p := s.mark d.val p) hwrites

end

end Sys2Proof.Machine

/-! PROOFS about the remote memory transport (11): answers to a slot's own packets, and the packets of connections. -/
namespace Sys2Proof.Machine

/-! ### What is carried out for an answer (11 R309, R310, R329) -/

section
variable {s u : State} {d : Fin 4} {p q : Packet} {n k : Nat}

theorem State.carried_ack (h : p.opc.toNat = opAck) : s.carried n p = s.ackIn p.dcn.toNat p := by
  rw [State.carried, h]
  rfl

theorem State.carried_nak (h : p.opc.toNat = opNak) : s.carried n p = s.nakIn p.dcn.toNat p := by
  rw [State.carried, h]
  rfl

theorem State.carried_readResp (h : p.opc.toNat = opReadResp) : s.carried n p = s.readIn p.dcn.toNat p := by
  rw [State.carried, h]
  rfl

theorem State.carried_atomicResp (h : p.opc.toNat = opAtomicResp) : s.carried n p = s.atomicIn p.dcn.toNat p := by
  rw [State.carried, h]
  rfl

theorem isOp_sub {o n : Nat} (h : isOp p o (some n) = true) : p.sub.toNat = n := by
  simp only [isOp, Bool.and_eq_true, beq_iff_eq] at h
  exact h.2

theorem State.nakIn_seq (h : p.sub.toNat = 1) : s.nakIn k p = (s.nakRate k p).resendAll k := if_pos h

/-- A NAK BUSY is counted and starts the connection's wait. -/
theorem State.nakIn_busy (h : p.sub.toNat = 2) : s.nakIn k p =
    ((s.nakRate k p).incF (F.rmtCtr8 (slotDie k)) 1).setSlot k { (s.nakRate k p).slot k with busyWait := true } :=
  (if_neg (by omega)).trans (if_pos h)

theorem State.nakIn_access (h : p.sub.toNat = 3) : s.nakIn k p = (s.nakRate k p).haltFull k haltNakRecv :=
  (if_neg (by omega)).trans (if_neg (by omega))

/-- A response to a request that no RESTORE made is written at its place. -/
theorem State.landResp_lands {t : TxPkt} {bs : List Byte} {f : State → State} {w : State}
    (hown : ∀ x, t.owner ≠ .restore x)
    (hgo : (cvaWrite (dieUnit (slotDie k)) (s.slot k).conn.owner (t.dst + t.got) bs).go s = (.ok (), w)) :
    s.landResp k t bs f = f w := by
  rw [State.landResp]
  simp only [hown, if_false, hgo]

variable {r : TxPkt} {w : State}

theorem State.atomicIn_lands (hopc : p.opc.toNat = opAtomicResp)
    (hfind : ((s.slot k).unacked ++ (s.slot k).reads).find? (rmtAnswers (s.slot k) p) = some r)
    (hown : ∀ x, r.owner ≠ .restore x)
    (hgo : (cvaWrite (dieUnit (slotDie k)) (s.slot k).conn.owner (r.dst + r.got) p.payload).go s = (.ok (), w)) :
    s.atomicIn k p = w.respIn k r r.len p.ece := by
  have hanswers : rmtAnswers (s.slot k) p = fun t => decide (t.opc = opAtomic ∧ t.psn = p.psn.toNat) := by
    funext t
    rw [rmtAnswers, hopc]
    rfl
  rw [hanswers] at hfind
  rw [State.atomicIn]
  simp only [hfind, State.landResp_lands hown hgo]

theorem State.readIn_lands (hopc : p.opc.toNat = opReadResp)
    (hfind : ((s.slot k).unacked ++ (s.slot k).reads).find? (rmtAnswers (s.slot k) p) = some r)
    (hown : ∀ x, r.owner ≠ .restore x) (hlen : p.payload.length = Nat.min (s.slot k).conn.pmtu (r.len - r.got))
    (hgo : (cvaWrite (dieUnit (slotDie k)) (s.slot k).conn.owner (r.dst + r.got) p.payload).go s = (.ok (), w)) :
    s.readIn k p = w.respIn k r p.payload.length p.ece := by
  have hanswers : rmtAnswers (s.slot k) p = fun t =>
      decide (t.opc = opReadReq ∧ (t.psn + t.got / (s.slot k).conn.pmtu) % 2 ^ 32 = p.psn.toNat) := by
    funext t
    rw [rmtAnswers, hopc]
    rfl
  rw [hanswers] at hfind
  rw [State.readIn]
  simp only [hfind, State.landResp_lands hown hgo, hlen, bne_self_eq_false, Bool.false_eq_true, if_false]

/-- The command of an answer carries its packet out. -/
theorem rmtPasses.exec_answer {i : Instr} {o : Nat} {sub : Option Nat} (h : rmtPasses s d.val p q u)
    (hi : (i, isOp p o sub) ∈ rmtPackets d p) (hkind : isOp p o sub = true) (ho : o < opOpen) :
    Machine.exec i s = .next (left s (u.carried d.val q)) :=
  h.exec hi hkind (by rw [isOp_opc hkind]; exact Nat.not_le.2 ho)

end

/-! ### Tables with an entry put in -/

theorem mem_tput {α : Type} [DecidableEq α] {d : α} {t : Tbl α} {k : Nat} {v : α} {e : Nat × α} (h : e ∈ tput d t k v) :
    e = (k, v) ∨ e ∈ t := by
  unfold tput at h
  split at h
  · exact .inr (List.mem_of_mem_filter h)
  · exact mem_tins h

/-! ### Contexts that are not alive take nothing (16 R419, R420) -/

/-- From `s` to `t` no slot and no memory changed, and no context is alive. -/
structure Asleep (s t : State) : Prop where
  rmt : t.rmt = s.rmt
  mem : t.mem = s.mem
  dead : ∀ x, t.alive x = false

section
variable {s t : State}

/-- A field elsewhere in its block than the state of a context says nothing of who is alive. -/
theorem State.alive_setF {f : Fld} (hf : f.key % 4096 ≠ 256) (n x : Nat) : (s.setF f n).alive x = s.alive x := by
  have hne : (F.ctxStateState x).key ≠ f.key := fun h => hf (by rw [← h]; simp only [Fld.key, F.ctxStateState]; omega)
  simp only [State.alive, State.ctxSt, State.getF_setF_ne s n hne]
  rfl

theorem State.alive_incF {f : Fld} (hf : f.key % 4096 ≠ 256) (n x : Nat) : (s.incF f n).alive x = s.alive x :=
  State.alive_setF hf _ x

theorem State.mayRun_dead {x : Nat} (h : s.alive x = false) : s.mayRun x = false := by
  simp [State.mayRun, State.runnable, State.gifted, h]

theorem State.tryEnter_dead {x : Nat} (h : s.alive x = false) : s.tryEnter x = s := by
  simp [State.tryEnter, State.mayRun_dead h]

/-- A context that is not alive and yet waits has no grant. -/
theorem State.alive_setIdle {x : Nat} (h : ∀ y, s.alive y = false) (hst : s.ctxSt x = cWaiting) (y : Nat) :
    (s.setSt x cIdle).alive y = false := by
  rcases eq_or_ne y x with rfl | hne
  · have hgrant : (s.grant y).isSome = false := by simpa [State.alive, hst, cWaiting, cFree, cFaulted] using h y
    have hgrant' : ((s.setSt y cIdle).grant y).isSome = false := hgrant
    simp [State.alive, hgrant']
  · have hkey : (F.ctxStateState y).key ≠ (F.ctxStateState x).key := by
      simp only [Fld.key, F.ctxStateState]
      omega
    rw [← h y]
    simp only [State.alive, State.ctxSt, State.setSt, State.getF_setF_ne s _ hkey]
    rfl

theorem Asleep.foldl {f : State → Nat → State} (hf : ∀ t x, Asleep s t → Asleep s (f t x)) (l : List Nat)
    (h : Asleep s t) : Asleep s (l.foldl f t) := by
  induction l generalizing t with
  | nil => exact h
  | cons a r ih => exact ih (hf t a h)

/-- With no context alive the residency decision moves no slot and no memory. -/
theorem State.settle_asleep (h : ∀ x, s.alive x = false) : Asleep s s.settle := by
  unfold State.settle
  refine Asleep.foldl (fun t x ht => by rwa [State.tryEnter_dead (ht.dead x)]) _ ?_
  refine Asleep.foldl (fun t x ht => ?_) _ ⟨rfl, rfl, h⟩
  simp only [State.mayRun_dead (ht.dead x), Bool.false_and, Bool.not_false, Bool.true_and, Bool.false_eq_true, if_false]
  split
  · split
    · rename_i hst
      have hout : Asleep s { t with ctxs.waiting := t.ctxs.waiting.erase x } := ⟨ht.rmt, ht.mem, ht.dead⟩
      exact ⟨hout.rmt, hout.mem, State.alive_setIdle hout.dead (eq_of_beq hst)⟩
    · exact ⟨ht.rmt, ht.mem, ht.dead⟩
  · exact ht

end

/-! ### A slot that is freed with nothing in flight (11 R302) -/

section
variable {s : State} {k : Nat}

/-- Without a message open the slot keeps all that it holds. -/
theorem State.dropRx_closed (h : (s.slot k).rx = none) : s.dropRx k = s.setSlot k (s.slot k) := by
  rw [State.dropRx]
  simp only [h]
  rw [← h]

theorem State.cmdsEnd_none {v : RmtSlot} (h : v.pkts = []) (n : Nat) : s.cmdsEnd v n = (s, []) := by
  rw [State.cmdsEnd, h]
  rfl

theorem State.usersFail_none {v : RmtSlot} (h : v.pkts = []) : s.usersFail v = s := by
  rw [State.usersFail, h]
  rfl

theorem State.pumpDie_none (h : ∀ e ∈ s.rmt.slot, e.2.queued = []) (d : Nat) : s.pumpDie d = s := by
  rw [State.pumpDie, List.filter_eq_nil_iff.2 fun e he => by simp [h e he]]
  rfl

@[simp] theorem State.alive_setSlot (v : RmtSlot) (x : Nat) : (s.setSlot k v).alive x = s.alive x := rfl

@[simp] theorem State.creditBack_slot (j : Nat) (ts : List TxPkt) : (s.creditBack k ts).slot j = s.slot j := rfl

theorem State.alive_creditBack (ts : List TxPkt) (x : Nat) : (s.creditBack k ts).alive x = s.alive x :=
  (State.alive_setF (by simp only [Fld.key, F.rmtDebtDebt, dieOff]; omega) _ x).trans
    (State.alive_incF (by simp only [Fld.key, F.rmtTxcReturn, dieOff]; omega) _ x)

@[simp] theorem State.freeSlot_slot : (s.freeSlot k).slot k = { lastEpoch := (s.slot k).conn.epoch } :=
  State.slot_setSlot _ _ _

theorem State.freeSlot_slot_ne {j : Nat} (h : j ≠ k) : (s.freeSlot k).slot j = s.slot j := State.slot_setSlot_ne _ _ _ h

theorem State.mem_freeSlot {e : Nat × RmtSlot} (h : e ∈ (s.freeSlot k).rmt.slot) :
    e.2.queued = [] ∨ e ∈ s.rmt.slot := by
  rcases mem_tput h with rfl | h
  · exact .inl rfl
  · exact .inr h

/-- The state in which a slot with nothing in flight is FREE, its message closed and its credits back. -/
theorem State.freed_idle (h : rmtIdle s k) :
    rmtFreed s (((s.dropRx k).creditBack k []).freeSlot k) k ∧
      (∀ e ∈ (((s.dropRx k).creditBack k []).freeSlot k).rmt.slot, e.2.queued = []) ∧
      ∀ x, (((s.dropRx k).creditBack k []).freeSlot k).alive x = false := by
  obtain ⟨hpkts, hrx, -, hqueued, hdead⟩ := h
  rw [State.dropRx_closed hrx]
  refine ⟨⟨?_, fun j hj => ?_, rfl⟩, fun e he => ?_, fun x => ?_⟩
  · rw [State.freeSlot_slot, State.creditBack_slot, State.slot_setSlot]
  · rw [State.freeSlot_slot_ne hj, State.creditBack_slot, State.slot_setSlot_ne _ _ _ hj]
  · rcases State.mem_freeSlot he with hnone | he
    · exact hnone
    · rcases mem_tput he with rfl | he
      · exact (List.append_eq_nil_iff.1 hpkts).2
      · exact hqueued e he
  · rw [State.freeSlot, State.alive_setSlot, State.alive_creditBack, State.alive_setSlot]
    exact hdead x

theorem rmtFreed.of_slots {b t : State} (h : rmtFreed b t k) (hslot : ∀ j, b.slot j = s.slot j) (hmem : b.mem = s.mem) :
    rmtFreed s t k := by
  obtain ⟨hfree, hother, hkeep⟩ := h
  exact ⟨by rw [hfree, hslot], fun j hj => by rw [hother j hj, hslot], hkeep.trans hmem⟩

/-- A slot with nothing in flight that closes is FREE, and nothing else of the slots and the memories changed. -/
theorem State.closeFull_idle (h : rmtIdle s k) : rmtFreed s (s.closeFull k) k := by
  obtain ⟨⟨hslot, hother, hmem⟩, hqueued, hdead⟩ := State.freed_idle h
  obtain ⟨hpkts, hrx, hcmds, -, -⟩ := h
  have hunacked : (s.slot k).unacked = [] := (List.append_eq_nil_iff.1 (List.append_eq_nil_iff.1 hpkts).1).1
  have hcols : s.colUsers (s.slot k).conn.owner k = [] := by rw [State.colUsers, hcmds]; rfl
  have hsettle := State.settle_asleep hdead
  have hclose : s.closeFull k = (((s.dropRx k).creditBack k []).freeSlot k).settle := by
    rw [State.closeFull]
    simp only [hunacked, hcols, State.cmdsEnd_none hpkts, State.usersEnd, State.overflowed, List.foldl_nil,
      State.usersFail_none hpkts]
    exact State.pumpDie_none (by rwa [hsettle.rmt]) _
  rw [hclose]
  refine ⟨?_, fun j hj => ?_, hsettle.mem.trans hmem⟩
  · rw [State.slot, hsettle.rmt]
    exact hslot
  · rw [State.slot, hsettle.rmt]
    exact hother j hj

theorem State.alive_sendPkt (j : Nat) (p : Packet) (x : Nat) : (s.sendPkt j p).alive x = s.alive x := by
  have hst : (s.sendPkt j p).ctxSt x = s.ctxSt x := by
    rw [State.ctxSt, State.sendPkt, State.present_getF]
    · exact State.getF_incF_ne s 1 (by simp only [Fld.key, F.ctxStateState, F.rmtCtr0, dieOff]; omega)
    · simp only [Fld.key, F.ctxStateState, portCtr, dieOff]
      omega
    · simp only [Fld.key, F.ctxStateState, F.xdrop, dieOff]
      omega
  obtain ⟨r, q, l, hshape⟩ := s.sendPkt_portOnly j p
  have hgrant : (s.sendPkt j p).grant x = s.grant x := by
    rw [hshape]
    rfl
  rw [State.alive, State.alive, hst, hgrant]

/-- What is sent for a slot leaves it idle. -/
theorem rmtIdle.sendCn (h : rmtIdle s k) (j opc : Nat) : rmtIdle (s.sendCn j opc) k := by
  obtain ⟨hpkts, hrx, hcmds, hqueued, hdead⟩ := h
  have halive : ∀ x, (s.sendCn j opc).alive x = false := fun x => (State.alive_sendPkt j _ x).trans (hdead x)
  obtain ⟨r, q, l, hshape⟩ : portOnly s (s.sendCn j opc) := s.sendPkt_portOnly j _
  rw [hshape] at halive ⊢
  exact ⟨hpkts, hrx, hcmds, hqueued, halive⟩

theorem rmtIdle.incF (h : rmtIdle s k) {f : Fld} (hf : f.key % 4096 ≠ 256) (n : Nat) : rmtIdle (s.incF f n) k := by
  obtain ⟨hpkts, hrx, hcmds, hqueued, hdead⟩ := h
  exact ⟨hpkts, hrx, hcmds, hqueued, fun x => (State.alive_incF hf n x).trans (hdead x)⟩

theorem rmtIdle.rxBytes (h : rmtIdle s k) (j : Nat) (p : Packet) : rmtIdle (s.rxBytes j p) k :=
  h.incF (by simp only [Fld.key, F.accNet]; omega) _

end

/-! ### Connection packets (11 R302–R304) -/

section
variable {s u : State} {p : Packet} {k n : Nat}

theorem State.slotGo_manage (h : p.opc.toNat = opOpen ∨ p.opc.toNat = opOpenAck ∨ p.opc.toNat = opHalt ∨
    p.opc.toNat = opClose) : u.slotGo n p = u.manage p.dcn.toNat p := by
  rw [State.slotGo]
  exact if_pos h

theorem rmtNames_iff {v : RmtSlot} : (p.epoch.toNat == v.conn.epoch && beNat p.payload == v.conn.pcn &&
    p.srcIp.toNat == v.conn.peerIp) = true ↔ rmtNames v p := by
  simp only [rmtNames, Bool.and_eq_true, beq_iff_eq, and_assoc]

theorem rmtFits_iff {v : RmtSlot} : (if (p.opc.toNat == opOpen || p.opc.toNat == opOpenAck) = true then
    v.st != .opening && v.st != .opened else v.st != .opened && v.st != .closing) = true ↔ ¬rmtFits v p := by
  by_cases hopens : p.opc.toNat = opOpen ∨ p.opc.toNat = opOpenAck <;> simp [rmtFits, isOp, hopens]

/-- A connection packet whose slot is another connection's, or in a state that it does not fit, is stale. -/
theorem State.manage_stale (h : ¬(rmtNames (u.slot k) p ∧ rmtFits (u.slot k) p)) :
    u.manage k p = u.incF (F.rmtCtr11 (slotDie k)) 1 := by
  rw [State.manage]
  refine if_pos ?_
  rw [Bool.or_eq_true, rmtFits_iff, Bool.not_eq_true', ← Bool.not_eq_true, rmtNames_iff]
  tauto

/-- A connection packet that names its slot's connection in a state that fits does what its opcode says. -/
theorem State.manage_fits (hnames : rmtNames (u.slot k) p) (hfits : rmtFits (u.slot k) p) : u.manage k p =
    let b := u.rxBytes k p
    let v := u.slot k
    if p.opc.toNat = opOpen then (if v.st = .opening then b.openSlot k else b).sendCn k opOpenAck
    else if p.opc.toNat = opOpenAck then (if v.st = .opening then b.openSlot k else b)
    else if p.opc.toNat = opHalt then b.haltFull k haltRecv
    else b.closeFull k := by
  rw [State.manage]
  refine if_neg ?_
  rw [Bool.or_eq_true, rmtFits_iff, Bool.not_eq_true', ← Bool.not_eq_true, rmtNames_iff]
  tauto

theorem State.openSlot_opened : ∃ y, rmtOpened s k (slotDie k) (s.slot k) y ∧ s.openSlot k = s.setSlot k y :=
  ⟨_, rfl, rfl⟩

/-- What a connection packet leaves where it fits. -/
theorem State.manage_managed (hnames : rmtNames (u.slot k) p) (hfits : rmtFits (u.slot k) p) :
    rmtManaged u (u.rxBytes k p) (slotDie k) k (u.slot k) p (u.manage k p) := by
  have hopened := (u.rxBytes k p).openSlot_opened (k := k)
  rw [State.rxBytes_slot] at hopened
  obtain ⟨y, hy, hopen⟩ := hopened
  have hack : opOpenAck ≠ opOpen := by decide
  have hhalt : opHalt ≠ opOpen ∧ opHalt ≠ opOpenAck := by decide
  have hclose : opClose ≠ opOpen ∧ opClose ≠ opOpenAck ∧ opClose ≠ opHalt := by decide
  have hfalse : SlotSt.opened ≠ .opening := by decide
  rw [State.manage_fits hnames hfits]
  refine ⟨fun hopc hst => ?_, fun hopc hst => ⟨y, hy, ?_⟩, fun hopc hst => ?_, fun hopc hst => ⟨y, hy, ?_⟩,
    fun hopc => ?_, fun hopc hidle => ?_⟩
  · simp only [isOp_opc hopc, hst, hfalse, if_true, if_false]
  · simp only [isOp_opc hopc, hst, hopen, if_true]
  · simp only [isOp_opc hopc, hst, hack, hfalse, if_true, if_false]
  · simp only [isOp_opc hopc, hst, hack, hopen, if_true, if_false]
  · simp only [isOp_opc hopc, hhalt, if_true, if_false]
  · simp only [isOp_opc hopc, hclose, if_false]
    exact (State.closeFull_idle (hidle.rxBytes k p)).of_slots (fun j => State.rxBytes_slot u j k p)
      (State.incF_mem u _ _)

end

section
variable {s b c w : State} {d : Fin 4} {p q : Packet} {m : RxMsg} {i : Instr × Bool}

/-- A write or reduction without notification ends its message and no more. -/
theorem rmtExpected.exec_plainWrite (h : rmtExpected s d.val p q b) (hi : i ∈ rmtRequests d p) (hkind : i.2 = true)
    (hopens : rmtBegins b d.val p m c ∨ (rmtGoesOn b p m ∧ c = b)) (hwrites : rmtWrites c d.val p m w)
    (hopc : p.opc.toNat = opWrite ∨ p.opc.toNat = opReduceWrite) : exec i.1 s = .next (left s (if p.last = true then
      (w.dropRx p.dcn.toNat).reqDone p.dcn.toNat q 1 else w.reqDone p.dcn.toNat q 1)) := by
  have hwrite : isWrite p.opc.toNat = true := by rcases hopc with h | h <;> rw [h] <;> rfl
  have hmsg : m.opc ≠ opWriteNotify := by
    rw [hwrites.1]
    rcases hopc with h | h <;> rw [h] <;> decide
  rw [h.exec_write hi hkind hopens hwrites hwrite, State.notified_other hmsg]
  split <;> rfl

theorem rmtExpected.exec_read {bs : List Byte} (h : rmtExpected s d.val p q b) (hbegins : rmtBegins b d.val p m c)
    (hkind : isOp p opReadReq = true)
    (hgo : (cvaRead (dieUnit d.val) (b.slot p.dcn.toNat).conn.owner m.next m.left).go c = (.ok bs, w)) :
    exec (.readReq d p) s = .next (left s (((w.sendReads p.dcn.toNat p.psn.toNat bs).dropRx p.dcn.toNat).reqDone
      p.dcn.toNat q ((m.left + (b.slot p.dcn.toNat).conn.pmtu - 1) / (b.slot p.dcn.toNat).conn.pmtu))) := by
  have hi : (Instr.readReq d p, isOp p opReadReq) ∈ rmtRequests d p := by simp [rmtRequests]
  refine h.exec_done hi hkind ((h.body (.inl hbegins)).trans ?_)
  have hmark := h.mark
  rw [← hbegins.conn, ← h.die] at hgo
  rw [State.reqEffect_read (hbegins.opc.trans (isOp_opc hkind)) hgo, hbegins.conn, hmark, State.mark_psn]

theorem rmtExpected.exec_atomic {old : Word64} {t : State} (h : rmtExpected s d.val p q b)
    (hbegins : rmtBegins b d.val p m c) (hi : i ∈ rmtRequests d p) (hkind : i.2 = true) (hopc : p.opc.toNat = opAtomic)
    (hgo : (atomicOn (dieUnit d.val) (b.slot p.dcn.toNat).conn.owner m.next m.sub p.opnd0 p.opnd1).go c = (.ok old, w))
    (ht : t = w.setSlot p.dcn.toNat { w.slot p.dcn.toNat with
      alog := ((p.psn.toNat, old) :: (w.slot p.dcn.toNat).alog).take 16 }) :
    exec i.1 s = .next (left s (((t.sendAtomic p.dcn.toNat p.psn.toNat old).dropRx p.dcn.toNat).reqDone
      p.dcn.toNat q 1)) := by
  refine h.exec_done hi hkind ((h.body (.inl hbegins)).trans ?_)
  have hmark := h.mark
  rw [← hbegins.conn, ← h.die] at hgo
  subst hmark ht
  exact State.reqEffect_atomic (p := s.mark d.val p) (hbegins.opc.trans hopc) hgo

theorem rmtExpected.exec_collective {x : Cxh} {t : State} (h : rmtExpected s d.val p q b)
    (hkind : isOp p opWrite = true) (hcxh : p.cxh = some x) (hfirst : p.first = true) (hlast : p.last = true)
    (hrx : (b.slot p.dcn.toNat).rx = none)
    (htake : b.cxhAdmit (b.slot p.dcn.toNat).conn.owner p.dcn.toNat x false = .take)
    (hover : (b.setSlot p.dcn.toNat { b.slot p.dcn.toNat with rx := none }).cxhDeliver (b.slot p.dcn.toNat).conn.owner
      p.dcn.toNat x p.payload = .over t) : exec (.write d p) s = .next (left s (t.reqDone p.dcn.toNat q 1)) := by
  have hi : (Instr.write d p, isOp p opWrite) ∈ rmtRequests d p := by simp [rmtRequests]
  refine h.exec_done hi hkind ?_
  obtain rfl := h.mark
  rw [State.reqBody, show (s.mark d.val p).cxh = some x from hcxh]
  exact State.reqCollective_whole (p := s.mark d.val p) hfirst hlast hrx htake hover

end

/-- Settles O52: a request that is expected does what its message's next packet does, an answer is carried out, and a
connection packet that fits is managed; each effect is then one state. -/
theorem rmtRequestsAndAnswersTakeEffect : Obligations.RmtRequestsAndAnswersTakeEffect := by
  refine ⟨fun s k n p => s.reqDone_counted k n p, ?_, ?_, ?_⟩
  · rintro d p q s b k rfl hexp
    refine ⟨fun c w m hopens hwrites => ⟨fun i hi hkind => ?_, fun hkind hlast => ?_, fun e hkind hlast hkey => ?_⟩,
      fun c w m bs hbegins hkind hgo => hexp.exec_read hbegins hkind hgo,
      fun c w m old t hbegins hgo ht i hi hkind => ?_,
      fun c x t hkind hcxh hx hfirst hlast hrx htake hover => ?_⟩
    · have hreq : i ∈ rmtRequests d p ∧ (p.opc.toNat = opWrite ∨ p.opc.toNat = opReduceWrite) := by
        revert hkind
        revert i
        simp only [List.forall_mem_cons, List.not_mem_nil, false_imp_iff, implies_true, and_true]
        exact ⟨fun hkind => ⟨by simp [rmtRequests], .inl (isOp_opc hkind)⟩,
          fun hkind => ⟨by simp [rmtRequests], .inr (isOp_opc hkind)⟩⟩
      exact hexp.exec_plainWrite hreq.1 hkind hopens hwrites hreq.2
    · rw [hexp.exec_write (i := (.writeNotify d p, isOp p opWriteNotify)) (by simp [rmtRequests]) hkind hopens hwrites
        (by rw [isOp_opc hkind]; rfl), if_neg (by simp [hlast])]
    · rw [hexp.exec_write (i := (.writeNotify d p, isOp p opWriteNotify)) (by simp [rmtRequests]) hkind hopens hwrites
        (by rw [isOp_opc hkind]; rfl), if_pos hlast, State.notified_notify (hwrites.1.trans (isOp_opc hkind))
        (by rwa [hexp.die])]
    · have hreq : i ∈ rmtRequests d p ∧ p.opc.toNat = opAtomic := by
        revert hkind
        revert i
        simp only [List.forall_mem_cons, List.not_mem_nil, false_imp_iff, implies_true, and_true]
        exact ⟨fun hkind => ⟨by simp [rmtRequests], isOp_opc hkind⟩,
          fun hkind => ⟨by simp [rmtRequests], isOp_opc hkind⟩, fun hkind => ⟨by simp [rmtRequests], isOp_opc hkind⟩⟩
      exact hexp.exec_atomic hbegins hreq.1 hkind hreq.2 hgo ht
    · subst hx
      exact hexp.exec_collective hkind hcxh hfirst hlast hrx htake hover
  · rintro d p q s u k rfl hpasses
    have hdie := hpasses.die
    have hexec : ∀ {i o sub}, (i, isOp p o sub) ∈ rmtPackets d p → isOp p o sub = true → o < opOpen →
      exec i s = .next (left s (u.carried d.val q)) := fun hi hkind ho => hpasses.exec_answer hi hkind ho
    have hopc : ∀ {o sub}, isOp p o sub = true → (s.mark d.val p).opc.toNat = o := fun hkind => isOp_opc (p := p) hkind
    obtain rfl := hpasses.mark
    refine ⟨fun hkind => ?_, fun hkind => ?_, fun hkind => ?_, fun hkind => ?_,
      fun r w hfind hown hgo => ⟨fun hkind => ?_, fun hkind hlen => ?_⟩⟩
    · rw [hexec (by simp [rmtPackets]) hkind (by decide), State.carried_ack (hopc hkind)]
      rfl
    · rw [hexec (by simp [rmtPackets]) hkind (by decide), State.carried_nak (hopc hkind),
        State.nakIn_seq (p := s.mark d.val p) (isOp_sub (p := p) hkind), State.mark_dcn]
    · refine ⟨_, hexec (by simp [rmtPackets]) hkind (by decide), ?_⟩
      rw [State.carried_nak (hopc hkind),
        State.nakIn_busy (p := s.mark d.val p) (isOp_sub (p := p) hkind), State.mark_dcn, hdie]
      refine ⟨rfl, ?_, ?_⟩
      · exact congrArg RmtSlot.busyWait (State.slot_setSlot _ _ _)
      · exact State.getF_incF u _ _
    · rw [hexec (by simp [rmtPackets]) hkind (by decide), State.carried_nak (hopc hkind),
        State.nakIn_access (p := s.mark d.val p) (isOp_sub (p := p) hkind), State.mark_dcn]
    · rw [← hdie] at hgo
      rw [hexec (by simp [rmtPackets]) hkind (by decide), State.carried_atomicResp (hopc hkind), State.mark_dcn,
        State.atomicIn_lands (hopc hkind) hfind hown hgo]
      rfl
    · rw [← hdie] at hgo
      rw [hexec (by simp [rmtPackets]) hkind (by decide), State.carried_readResp (hopc hkind), State.mark_dcn,
        State.readIn_lands (hopc hkind) hfind hown hlen hgo]
      rfl
  · rintro d p q s u b k v rfl hwhole rfl rfl i hi hkind
    have hpkt : i ∈ rmtPackets d p ∧ (p.opc.toNat = opOpen ∨ p.opc.toNat = opOpenAck ∨ p.opc.toNat = opHalt ∨
        p.opc.toNat = opClose) := by
      revert hkind
      revert i
      simp only [List.forall_mem_cons, List.not_mem_nil, false_imp_iff, implies_true, and_true]
      exact ⟨fun hkind => ⟨by simp [rmtPackets], .inl (isOp_opc (p := p) hkind)⟩,
        fun hkind => ⟨by simp [rmtPackets], .inr (.inl (isOp_opc (p := p) hkind))⟩,
        fun hkind => ⟨by simp [rmtPackets], .inr (.inr (.inl (isOp_opc (p := p) hkind)))⟩,
        fun hkind => ⟨by simp [rmtPackets], .inr (.inr (.inr (isOp_opc (p := p) hkind)))⟩⟩
    have hexec := hwhole.exec hpkt.1 hkind
    obtain ⟨-, -, -, -, -, -, hdie, -, rfl, -⟩ := hwhole
    rw [State.slotGo_manage (p := s.mark d.val p) hpkt.2, State.mark_dcn] at hexec
    refine ⟨fun hstale => ?_, fun hnames hfits => ⟨_, hexec, _, rfl, ?_⟩⟩
    · rw [hexec, State.manage_stale (p := s.mark d.val p) hstale, hdie]
    · have hmanaged := State.manage_managed (p := s.mark d.val p) hnames hfits
      rw [hdie] at hmanaged
      exact hmanaged

end Sys2Proof.Machine

/-! PROOFS about the remote memory transport (11): what completions leave of the slots. -/
namespace Sys2Proof.Machine

/-! ### Slots whose packets are marked as paid or not (11 R325, R326) -/

/-- From `s` to `t` no error record was made, and of the slots at most unacknowledged packets were marked. -/
structure SlotsMarked (s t : State) : Prop where
  err : t.err = s.err
  slot : ∀ k, ∃ f : TxPkt → TxPkt, t.slot k = { s.slot k with unacked := (s.slot k).unacked.map f }

/-- Changing every value of a table by a function that keeps the default changes what each key reads by it. -/
theorem tget_map_values {α : Type} {d : α} {f : Nat × α → Nat × α} {g : α → α} (hf : ∀ e, f e = (e.1, g e.2))
    (hg : g d = d) (t : Tbl α) (k : Nat) : tget d (t.map f) k = g (tget d t k) := by
  induction t with
  | nil => exact hg.symm
  | cons e r ih =>
    rw [List.map_cons, hf]
    simp only [tget, ih]
    split <;> rfl

section
variable {s t u : State}

theorem SlotsMarked.refl (s : State) : SlotsMarked s s := ⟨rfl, fun k => ⟨id, by rw [List.map_id]⟩⟩

theorem SlotsMarked.trans (h : SlotsMarked s t) (h' : SlotsMarked t u) : SlotsMarked s u := by
  refine ⟨h'.err.trans h.err, fun k => ?_⟩
  obtain ⟨f, hf⟩ := h.slot k
  obtain ⟨g, hg⟩ := h'.slot k
  exact ⟨g ∘ f, by rw [hg, hf, List.map_map]⟩

/-- A slot without unacknowledged packets stays as it is. -/
theorem SlotsMarked.slot_eq {k : Nat} (h : SlotsMarked s t) (hnone : (s.slot k).unacked = []) :
    t.slot k = s.slot k := by
  obtain ⟨f, hf⟩ := h.slot k
  rw [hf, hnone, List.map_nil, ← hnone]

section
variable (h : SlotsMarked s t)
include h

theorem SlotsMarked.other (hslot : u.rmt.slot = t.rmt.slot := by rfl) (herr : u.err = t.err := by rfl) :
    SlotsMarked s u :=
  ⟨herr.trans h.err, fun k => by rw [State.slot, hslot]; exact h.slot k⟩

theorem SlotsMarked.setF (f : Fld) (n : Nat) : SlotsMarked s (t.setF f n) := h.other

theorem SlotsMarked.foldl {α : Type} {f : State → α → State} (hf : ∀ t a, SlotsMarked s t → SlotsMarked s (f t a))
    (l : List α) : SlotsMarked s (l.foldl f t) := by
  induction l generalizing t with
  | nil => exact h
  | cons a r ih => exact ih (hf t a h)

theorem SlotsMarked.markPaid (x : Nat) (b : Bool) : SlotsMarked s (t.markPaid x b) := by
  refine h.trans ⟨rfl, fun k => ?_⟩
  have hread := tget_map_values (d := ({} : RmtSlot)) (g := fun v => if v.conn.owner = x then
      { v with unacked := v.unacked.map fun p => { p with paid := b } } else v)
    (f := fun e => if e.2.conn.owner = x then
      (e.1, { e.2 with unacked := e.2.unacked.map fun p => { p with paid := b } }) else e)
    (fun e => by split <;> rfl) (by split <;> rfl) t.rmt.slot k
  by_cases hown : (t.slot k).conn.owner = x
  · exact ⟨fun p => { p with paid := b }, hread.trans (if_pos hown)⟩
  · exact ⟨id, hread.trans ((if_neg hown).trans (by rw [List.map_id]; rfl))⟩

theorem SlotsMarked.toDebt (x : Nat) : SlotsMarked s (t.toDebt x) :=
  (h.foldl (fun _ _ h => (h.setF _ _).setF _ _) _).markPaid x false

theorem SlotsMarked.preemptNow (x : Nat) : SlotsMarked s (t.preemptNow x) := by
  unfold State.preemptNow
  split
  · exact h
  · split
    · split
      · exact h
      · exact h.other
    · exact ((h.other (u := t.setCx x _)).toDebt x).setF _ _

theorem SlotsMarked.wayAssign (k w owner : Nat) (valid cache : Bool) :
    SlotsMarked s (t.wayAssign k w owner valid cache) := by
  unfold State.wayAssign
  split
  · exact h
  · exact h.other

theorem SlotsMarked.enter (x : Nat) : SlotsMarked s (t.enter x) := by
  unfold State.enter
  split
  · exact h
  · rename_i g _
    have hways := h.foldl (fun _ w h => h.wayAssign w.1 w.2.1 x true w.2.2) g.wayList
    have hcores := hways.foldl (fun t i ht => (ht.other : SlotsMarked s (t.clearCore i))) g.coreList
    exact SlotsMarked.setF (SlotsMarked.other hcores) _ _

theorem SlotsMarked.tryEnter (x : Nat) : SlotsMarked s (t.tryEnter x) := by
  unfold State.tryEnter
  split
  · exact h
  · split
    · exact h.enter x
    · refine h.foldl (fun t y ht => ?_) _
      split
      · exact ht.preemptNow y
      · exact ht

theorem SlotsMarked.settle : SlotsMarked s t.settle := by
  unfold State.settle
  refine SlotsMarked.foldl (h.foldl (fun t x ht => ?_) _) (fun t x ht => ht.tryEnter x) _
  dsimp only
  split
  · split
    · exact ht.other
    · exact ht.other
  · split
    · split
      · exact ht.other
      · exact ht.other
    · exact ht

/-! ### Completions (11 R328, R329; 06 R181–R183) -/

theorem SlotsMarked.endDonation (n : Nat) : SlotsMarked s (t.endDonation n) := by
  unfold State.endDonation
  dsimp only
  split
  · exact h
  · exact (SlotsMarked.preemptNow h.other n).settle

/-- A signal moves no slot but by the pre-emptions that it brings. -/
theorem SlotsMarked.semSignal {n v : Nat} (hsig : t.semSignal n v = some u) : SlotsMarked s u := by
  unfold State.semSignal at hsig
  dsimp only at hsig
  split at hsig
  · cases hsig
  · cases hsig
    exact (h.setF _ _).foldl (fun t e ht => ht.endDonation e.1) _

theorem SlotsMarked.rmtJoin (x : Nat) : SlotsMarked s (t.rmtJoin x) := by
  unfold State.rmtJoin
  split
  · unfold State.unitJoin
    split
    · exact h
    · exact h.other
  · exact h

theorem SlotsMarked.postWait (x key unit cva : Nat) (bs : List Byte) :
    SlotsMarked s (t.postWait x key unit cva bs) := by
  unfold State.postWait State.touch
  dsimp only
  split
  · exact h.other
  · exact h.other

/-- Reading on behalf of a context leaves slots and records alone. -/
theorem SlotsMarked.read {x : Nat} (hread : ReadStep x t u) : SlotsMarked s u :=
  h.other (by rw [hread.frame]) (by rw [hread.frame])

end

end

section
variable {α : Type} {s : State}

theorem Keeps.marked {x : Nat} {m : M α} (h : ∀ t, Keeps (ReadStep x t) m) : Keeps (SlotsMarked s) m :=
  ⟨fun t ht => ht.read ((h t).run t (ReadStep.refl t))⟩

/-- A translation does nothing but look up its leaf and stop. -/
theorem translate_keeps {P : State → Prop} {unit x cva : Nat} (hleaf : ∀ root, Keeps P (leafOf unit x cva root))
    (write : Bool) : Keeps P (translate unit x cva write) := by
  refine Keeps.getS.bind fun t => ?_
  dsimp only
  split
  · exact tFault_keeps _
  · refine Keeps.guard (tFault_keeps _) fun _ => (hleaf _).bind fun l =>
      Keeps.guard (tFault_keeps _) fun _ => Keeps.guard (tFault_keeps _) fun _ => Keeps.guard (tFault_keeps _) fun _ =>
      Keeps.guard (tFault_keeps _) fun _ => ?_
    split
    case' isTrue => refine Keeps.guard (tFault_keeps _) fun _ => Keeps.guard (Keeps.stop _) fun _ => ?_
    case' isFalse => refine Keeps.guard (tFault_keeps _) fun _ => ?_
    all_goals
      refine Keeps.ite (Keeps.guard (Keeps.ctxStop _ _) fun _ => ?_) (Keeps.pure _)
      split
      · exact (Keeps.stop _).bind fun _ => Keeps.pure _
      · exact (Keeps.ctxStop _ _).bind fun _ => Keeps.pure _

theorem hbmWrite_marked (x n o : Nat) (bs : List Byte) : Keeps (SlotsMarked s) (hbmWrite (some x) n o bs) := by
  refine Keeps.forM fun p => Keeps.getS.bind fun _ => (Keeps.marked (x := x) fun _ => hbmReach_reads _ _).bind fun _ =>
    Keeps.getS.bind fun _ => Keeps.guard (Keeps.marked (x := x) fun _ => hbmUe_reads _ _) fun _ =>
      Keeps.setS fun t h => ?_
  dsimp only
  split
  · exact h.other
  · exact (h.read ((ReadStep.refl (x := x) t).hbmCorrect _)).other

theorem compWrite_marked (d x a : Nat) (bs : List Byte) : Keeps (SlotsMarked s) (compWrite d (some x) a bs) := by
  refine Keeps.forM fun p => Keeps.getS.bind fun _ =>
    (Keeps.marked (x := x) fun _ => compLink_reads _ _ _).bind fun l =>
      Keeps.setS fun t h => SlotsMarked.other (t := t.plWrite l (.unit x) p.1 _) ?_
  unfold State.plWrite
  dsimp only
  split
  · exact h.read ((ReadStep.refl t).plRequest _ _ _ _ _)
  · split
    · exact h.other
    · exact h.read ((ReadStep.refl t).plRequest _ _ _ _ _)

/-- A write on behalf of a context moves no slot and makes no record. -/
theorem cvaWrite_marked (unit x a : Nat) (bs : List Byte) : Keeps (SlotsMarked s) (cvaWrite unit x a bs) := by
  refine Keeps.forM fun p => (translate_keeps (fun _ => Keeps.marked (x := x) fun _ => leafOf_reads _ _ _ _) _).bind
    fun tgt => ?_
  cases tgt with
  | hbm set off => exact hbmWrite_marked _ _ _ _
  | comp addr => exact compWrite_marked _ _ _ _

end

section
variable {s t : State} (h : SlotsMarked s t)
include h

theorem SlotsMarked.post (unit x cva : Nat) (bs : List Byte) : SlotsMarked s (t.post unit x cva bs).2 := by
  have hwrite := (cvaWrite_marked (s := s) unit x cva bs).run t h
  unfold State.post
  split
  · rename_i he
    rwa [he] at hwrite
  · exact h.postWait _ _ _ _ _
  · rename_i he
    rwa [he] at hwrite

/-- A command that completes moves no slot but by the pre-emptions that its signal brings. -/
theorem SlotsMarked.cmdComplete (x i status : Nat) : SlotsMarked s (t.cmdComplete x i status).1 := by
  unfold State.cmdComplete
  dsimp only
  split
  · exact h
  · have hdone : ∀ l n, SlotsMarked s (({ t with rmt.cmds := l } : State).setF (F.rmtCtlInflight x) n) :=
      fun _ _ => h.other
    have hpost := fun l n c bs => ((hdone l n).rmtJoin x).post (dieUnit 0) x c bs
    split
    · exact hpost _ _ _ _
    · split
      · rename_i hsig
        exact (hpost _ _ _ _).semSignal hsig
      · exact hpost _ _ _ _

theorem SlotsMarked.cmdsEnd (v : RmtSlot) (status : Nat) : SlotsMarked s (t.cmdsEnd v status).1 := by
  have hfold : ∀ (os : List (Nat × Nat)) (r : State × List (Nat × Nat)), SlotsMarked s r.1 →
      SlotsMarked s (os.foldl (fun r o =>
        let c := r.1.cmdComplete o.1 o.2 status
        (c.1, match c.2 with | some n => r.2 ++ [(o.1, n)] | none => r.2)) r).1 := by
    intro os
    induction os with
    | nil => exact fun r hr => hr
    | cons o os ih => exact fun r hr => ih _ (hr.cmdComplete o.1 o.2 status)
  exact hfold _ _ h

end

end Sys2Proof.Machine

/-! PROOFS about the remote memory transport (11): halts, fetches, timers and the rate law. -/
namespace Sys2Proof.Machine

/-! ### Halts (11 R304; 19 R484) -/

section
variable {s : State} {k : Nat}

@[simp] theorem State.setSlot_err (v : RmtSlot) : (s.setSlot k v).err = s.err := rfl
@[simp] theorem State.creditBack_err (ts : List TxPkt) : (s.creditBack k ts).err = s.err := rfl

@[simp] theorem State.dropRx_err : (s.dropRx k).err = s.err := by
  unfold State.dropRx
  dsimp only
  split
  · split <;> rfl
  · rfl

theorem State.twinHalt_recQ {parent : Option Nat} {r : Rec} (h : r ∈ s.err.recQ) :
    r ∈ (s.twinHalt k parent).err.recQ := by
  unfold State.twinHalt
  dsimp only
  split
  · exact List.mem_append_left _ h
  · exact h

/-- The record of a halt of slot `k`, where it has just been made. -/
theorem State.haltRecord_made (k cause : Nat) (x : Nat) (parent : Option Nat) (hk : k < 2 ^ 64) :
    ∃ r ∈ (s.record clsContext (slotDie k) uRmt kHalt cause (some x) parent (slotCn k)).err.recQ,
      r.cls = clsContext ∧ r.die = slotDie k ∧ r.unit = uRmt ∧ r.kind = kHalt ∧ r.sub = cause ∧ r.ctx = some x ∧
        r.detail = k := by
  rw [State.record_recQ]
  exact ⟨_, List.mem_append_right _ (List.mem_singleton_self _), rfl, rfl, rfl, rfl, rfl, rfl, Nat.mod_eq_of_lt hk⟩

/-- The slot as a halt leaves it, before the commands of its packets complete. -/
def State.haltedAt (s : State) (k cause : Nat) (parent : Option Nat) : State :=
  let v := s.slot k
  let s := s.record clsContext (slotDie k) uRmt kHalt cause (some v.conn.owner) parent (slotCn k)
  let s := (s.sendCn k opHalt).dropRx k
  let s := if cause = haltTeardown then s else s.creditBack k v.unacked
  let s := s.twinHalt k parent
  s.setSlot k { s.slot k with st := .halted, unacked := [], reads := [], queued := [], gap := false, busy := false,
                              busyWait := false, owed := 0 }

theorem State.haltSlot_carries (cause : Nat) (parent : Option Nat)
    (hst : (s.slot k).st = .opened ∨ (s.slot k).st = .closing) :
    s.haltSlot k cause parent = (s.haltedAt k cause parent).cmdsEnd (s.slot k) (haltStatus cause) :=
  if_neg (by rcases hst with h | h <;> rw [h] <;> decide)

theorem State.haltedAt_slot (cause : Nat) (parent : Option Nat) : ((s.haltedAt k cause parent).slot k).st = .halted ∧
    ((s.haltedAt k cause parent).slot k).unacked = [] ∧ ((s.haltedAt k cause parent).slot k).queued = [] := by
  simp only [State.haltedAt, State.slot_setSlot, and_self]

theorem State.haltedAt_recQ {cause : Nat} {parent : Option Nat} {r : Rec}
    (h : r ∈ (s.record clsContext (slotDie k) uRmt kHalt cause (some (s.slot k).conn.owner) parent
      (slotCn k)).err.recQ) :
    r ∈ (s.haltedAt k cause parent).err.recQ := by
  simp only [State.haltedAt, State.setSlot_err]
  refine State.twinHalt_recQ ?_
  have hsent : ∀ t : State, r ∈ t.err.recQ → r ∈ ((t.sendCn k opHalt).dropRx k).err.recQ := fun t ht => by
    rwa [State.dropRx_err, State.sendCn, (t.sendPkt_portOnly k _).err]
  split
  · exact hsent _ h
  · rw [State.creditBack_err]
    exact hsent _ h

/-- A slot that carries traffic halts with nothing left to send, and its record is made. -/
theorem State.haltSlot_halted (cause : Nat) (parent : Option Nat)
    (hst : (s.slot k).st = .opened ∨ (s.slot k).st = .closing) (hk : k < 2 ^ 64) :
    ((s.haltSlot k cause parent).1.slot k).st = .halted ∧
      ((s.haltSlot k cause parent).1.slot k).unacked = [] ∧ ((s.haltSlot k cause parent).1.slot k).queued = [] ∧
      ∃ r ∈ (s.haltSlot k cause parent).1.err.recQ, r.cls = clsContext ∧ r.die = slotDie k ∧ r.unit = uRmt ∧
        r.kind = kHalt ∧ r.sub = cause ∧ r.ctx = some (s.slot k).conn.owner ∧ r.detail = k := by
  obtain ⟨r, hmem, hr⟩ := s.haltRecord_made k cause (s.slot k).conn.owner parent hk
  obtain ⟨hhalted, hunacked, hqueued⟩ := s.haltedAt_slot (k := k) cause parent
  have hends := (SlotsMarked.refl (s.haltedAt k cause parent)).cmdsEnd (s.slot k) (haltStatus cause)
  rw [State.haltSlot_carries cause parent hst, hends.slot_eq hunacked, hends.err]
  exact ⟨hhalted, hunacked, hqueued, r, State.haltedAt_recQ hmem, hr⟩

end

/-! ### Packets of the connection's own (11 R302) -/

section
variable {s : State} {k : Nat}

theorem State.sendCn_portOnly (k opc : Nat) : portOnly s (s.sendCn k opc) := s.sendPkt_portOnly k _

theorem rmtFreed.left {t : State} (h : rmtFreed s t k) (u : State) : rmtFreed s (Machine.left u t) k := h

end

/-! ### Acknowledgements that are owed (11 R309) -/

section
variable {s : State} {k : Nat}

/-- The packets that slot `k` sends move RMT_CTR 0 of its die stack, and no port counter does (05 R142). -/
theorem State.sendPkt_counted (p : Packet) : counted s (s.sendPkt k p) (F.rmtCtr0 (slotDie k)) 1 := by
  rw [counted, State.sendPkt, State.present_getF]
  · exact s.getF_incF _ 1
  · intro i
    simp only [Fld.key, F.rmtCtr0, portCtr, slotPort, dieOff]
    omega
  · simp only [Fld.key, F.rmtCtr0, F.xdrop, dieOff]
    omega

/-- An acknowledgement that goes out leaves nothing owed. -/
theorem State.sendAck_sent (ece : Bool) (hst : (s.slot k).st = .opened ∨ (s.slot k).st = .closing) :
    ((s.sendAck k ece).slot k).owed = 0 ∧ counted s (s.sendAck k ece) (F.rmtCtr0 (slotDie k)) 1 := by
  have hcarries : ¬((s.slot k).st != .opened && (s.slot k).st != .closing) = true := by
    rcases hst with h | h <;> rw [h] <;> decide
  rw [State.sendAck, if_neg hcarries]
  exact ⟨congrArg RmtSlot.owed (State.slot_setSlot _ _ _), State.sendPkt_counted _⟩

end

/-! ### The commands of fetches and timers (11 R302, R304, R309, R310, R320–R322) -/

section
variable {s : State} {d : Fin 4} {l : BitVec 16} {k : Nat}

theorem slotDie_slotKey (d : Fin 4) (l : BitVec 16) : slotDie (slotKey d.val l.toNat) = d.val := by
  have := l.isLt
  simp only [slotDie, slotKey]
  omega

theorem slotKey_lt (d : Fin 4) (l : BitVec 16) : slotKey d.val l.toNat < 2 ^ 18 := by
  have := l.isLt
  simp only [slotKey]
  omega

/-- A key record that some packet waits for is stored, and the packets that wait try again. -/
theorem keyFetchDone_stored (hworks : s.works = true) {i : BitVec 20} {w : List KeyC} {b : List Byte} {u : State}
    (hasked : ∃ p ∈ s.keyWaits d.val, ∃ h, p.axh = some h ∧ h.key.toNat % 2 ^ 20 = i.toNat)
    (hmiss : ∀ c ∈ s.keyCache d.val, c.index ≠ i.toNat) (hroom : keyRoom (s.keyCache d.val) = some w)
    (hread : (houseRead s.kset (keyAt i.toNat) 64).go s = (.ok b, u)) :
    exec (.keyFetchDone d i) s = .next (left s ((u.setKeys d.val (⟨i.toNat, b, 0⟩ :: w)).redrive d.val)) := by
  refine show execKeyFetchDone d i s = _ from (work_left s _ hworks).trans ?_
  dsimp only
  rw [if_neg]
  · simp only [hroom, hread]
  · obtain ⟨p, hp, h, haxh, hkey⟩ := hasked
    simp only [Bool.or_eq_true, Bool.not_eq_true', List.any_eq_false, List.any_eq_true, decide_eq_true_eq, not_or,
      not_exists, not_and]
    exact ⟨fun hall => hall p hp (by simpa only [haxh, beq_iff_eq] using hkey), hmiss⟩

variable (hk : k = slotKey d.val l.toNat) (hworks : s.works = true)

section
include hk hworks

/-- The packets that waited for a record that arrives go on in order. -/
theorem connFetchDone_fetched {mine rest : List Packet} {u w : State}
    (hmine : mine = (tget [] s.rmt.waiting d.val).filter fun p => p.dcn.toNat = k) (hne : mine ≠ [])
    (hrest : rest = (tget [] s.rmt.waiting d.val).filter fun p => p.dcn.toNat != k)
    (hu : u = { s with rmt.waiting := tput [] s.rmt.waiting d.val rest })
    (huse : u.connUse k = (none, w)) :
    exec (.connFetchDone d l) s = .next (left s (mine.foldl (fun s p => s.slotGo d.val p) w)) := by
  have hsome : mine.isEmpty = false := by simpa using hne
  subst hk
  refine show execConnFetchDone d l s = _ from (work_left s _ hworks).trans ?_
  subst hmine hrest hu
  simp only [hsome, huse, Bool.false_eq_true, if_false]

/-- A timeout is counted, moves the path every HOPN, and resends or halts at RETRYMAX. -/
theorem rtoTimeout_counted {n : Nat} {v : RmtSlot} {u w : State} (hv : v = s.slot k)
    (hst : v.st = .opened ∨ v.st = .closing) (hresend : s.resends k ≠ []) (hbusy : v.busyWait = false)
    (hn : n = v.timeouts + 1)
    (hu : u = (s.incF (F.rmtCtr3 d.val) 1).setSlot k { v with timeouts := n })
    (hw : w = if n % s.getF (F.rmtTimersHopn d.val) = 0 then (u.incF (F.rmtCtr4 d.val) 1).setSlot k
      { v with timeouts := n, path := (v.path + 1) % 8 } else u) :
    exec (.rtoTimeout d l) s = .next (left s (if s.getF (F.rmtTimersRetrymax d.val) ≤ n then
      w.haltFull k haltRetry else w.resendAll k)) := by
  have hhop : u.getF (F.rmtTimersHopn d.val) = s.getF (F.rmtTimersHopn d.val) := by
    rw [hu, State.setSlot_getF]
    exact s.getF_incF_ne 1 (by simp only [Fld.key, F.rmtTimersHopn, F.rmtCtr3, dieOff]; omega)
  have hmax : w.getF (F.rmtTimersRetrymax d.val) = s.getF (F.rmtTimersRetrymax d.val) := by
    have hkeep : u.getF (F.rmtTimersRetrymax d.val) = s.getF (F.rmtTimersRetrymax d.val) := by
      rw [hu, State.setSlot_getF]
      exact s.getF_incF_ne 1 (by simp only [Fld.key, F.rmtTimersRetrymax, F.rmtCtr3, dieOff]; omega)
    rw [hw]
    split
    · rw [State.setSlot_getF, State.getF_incF_ne, hkeep]
      simp only [Fld.key, F.rmtTimersRetrymax, F.rmtCtr4, dieOff]
      omega
    · exact hkeep
  have hslot : u.slot k = { v with timeouts := n } := by rw [hu, State.slot_setSlot]
  have hdue : ¬((v.st != .opened && v.st != .closing) || (s.resends k).isEmpty || v.busyWait) =
      true := by
    rcases hst with h | h <;> simp [h, hbusy, hresend]
  subst hk
  refine show execRtoTimeout d l s = _ from (work_left s _ hworks).trans ?_
  dsimp only
  rw [← hv, if_neg hdue, ← hn, ← hu, hhop, hslot, ← hw, hmax]

theorem ackTimer_owed (howed : (s.slot k).owed ≠ 0) :
    exec (.ackTimer d l) s = .next (left s (s.sendAck k false)) := by
  subst hk
  refine show execAckTimer d l s = _ from (work_left s _ hworks).trans ?_
  simp only [howed, if_false]

theorem nplExpiry_halts (hst : (s.slot k).st = .opened)
    (hunacked : (s.slot k).unacked ≠ []) :
    exec (.nplExpiry d l) s = .next (left s (s.haltFull k haltNpl)) := by
  subst hk
  refine show execNplExpiry d l s = _ from (work_left s _ hworks).trans ?_
  simp only [hst, hunacked, ne_eq, not_false_eq_true, and_self, if_true]

theorem nplExpiry_closes (hst : (s.slot k).st = .closing) : exec (.nplExpiry d l) s =
    .next (left s ((s.sendCn k opClose).closeFull k)) := by
  subst hk
  refine show execNplExpiry d l s = _ from (work_left s _ hworks).trans ?_
  simp [hst]

theorem openRetry_sends (hst : (s.slot k).st = .opening) :
    exec (.openRetry d l) s = .next (left s (s.sendCn k opOpen)) := by
  subst hk
  refine show execOpenRetry d l s = _ from (work_left s _ hworks).trans ?_
  simp only [hst, if_true]

theorem busywaitExpiry_resends (hbusy : (s.slot k).busyWait = true) :
    exec (.busywaitExpiry d l) s = .next (left s
      (((s.setSlot k { s.slot k with busyWait := false }).resendAll k).pump k)) := by
  subst hk
  refine show execBusywaitExpiry d l s = _ from (work_left s _ hworks).trans ?_
  simp only [hbusy, if_true]

/-- At the end of a period the slot moves by the rate law, and a cut is counted. -/
theorem ratePeriod_moves (hst : (s.slot k).st = .opened ∨
    (s.slot k).st = .closing) (ha : (s.slot k).a ≠ 0) :
    exec (.ratePeriod d l) s = .next (left s ((if (s.slot k).m ≠ 0 then
      s.incF (F.rmtCtr15 d.val) 1 else s).setSlot k (rateLaw s d.val k))) := by
  have hdue : ¬(((s.slot k).st != .opened && (s.slot k).st != .closing) || decide ((s.slot k).a = 0)) = true := by
    rcases hst with h | h <;> simp [h, ha]
  subst hk
  refine show execRatePeriod d l s = _ from (work_left s _ hworks).trans ?_
  dsimp only [rateLaw]
  rw [if_neg hdue]
  by_cases hm : (s.slot (slotKey d.val l.toNat)).m = 0
  · by_cases hhold : (s.slot (slotKey d.val l.toNat)).hold = 0 <;> simp [hm, hhold]
  · simp [hm]

end

section
include hk

/-- With no packet waiting for the record, its arrival changes nothing. -/
theorem connFetchDone_unasked (hnone : ∀ p ∈ tget [] s.rmt.waiting d.val, p.dcn.toNat ≠ k) :
    exec (.connFetchDone d l) s = .next s := by
  have hempty : ((tget [] s.rmt.waiting d.val).filter fun p => p.dcn.toNat = k) = [] :=
    List.filter_eq_nil_iff.2 fun p hp => mt of_decide_eq_true (hnone p hp)
  subst hk
  refine show execConnFetchDone d l s = _ from work_id ?_
  simp only [hempty, List.isEmpty_nil, if_true]

/-- No timer of a slot that is FREE or HALTED does anything. -/
theorem timers_idle (hst : (s.slot k).st = .free ∨ (s.slot k).st = .halted) :
    ∀ c ∈ [Instr.rtoTimeout d l, .nplExpiry d l, .ratePeriod d l, .openRetry d l], exec c s = .next s := by
  subst hk
  simp only [List.forall_mem_cons, List.not_mem_nil, false_imp_iff, implies_true, and_true]
  refine ⟨show execRtoTimeout d l s = _ from work_id ?_, show execNplExpiry d l s = _ from work_id ?_,
    show execRatePeriod d l s = _ from work_id ?_, show execOpenRetry d l s = _ from work_id ?_⟩ <;>
    rcases hst with h | h <;> simp [h]

theorem rtoTimeout_idle (h : s.resends k = [] ∨ (s.slot k).busyWait = true) :
    exec (.rtoTimeout d l) s = .next s := by
  subst hk
  refine show execRtoTimeout d l s = _ from work_id ?_
  rcases h with h | h <;> simp [h]

end

end

/-- Settles O53: the command of a fetch or timer runs one branch of its definition, chosen by the slot's state; with
nothing due it runs the one that changes nothing. -/
theorem rmtFetchesTimersAndRates : Obligations.RmtFetchesTimersAndRates := by
  rintro d l s k v hworks rfl rfl
  have hdie := slotDie_slotKey d l
  refine ⟨fun mine rest u w hmine hne hrest hu huse => ?_,
    fun i w b u hasked hmiss hroom hread => keyFetchDone_stored hworks hasked hmiss hroom hread,
    fun hst hresend hbusy n u w hn hu hw => ?_, fun howed hst => ?_, nplExpiry_halts rfl hworks, fun hst hidle => ?_,
    openRetry_sends rfl hworks, busywaitExpiry_resends rfl hworks, fun hst ha => ?_, fun cause parent hst _ => ?_,
    connFetchDone_unasked rfl, fun c hc hst => timers_idle rfl hst c hc, rtoTimeout_idle rfl, fun hnone => ?_,
    fun hst hnone => ?_, fun hnone => ?_, fun hnone => ?_⟩
  · exact connFetchDone_fetched rfl hworks hmine hne hrest hu huse
  · rw [rtoTimeout_counted rfl hworks rfl hst hresend hbusy hn hu hw]
    exact ⟨fun hmax => by rw [if_pos hmax], fun hmax => by rw [if_neg (Nat.not_le.2 hmax)]⟩
  · refine ⟨_, ackTimer_owed rfl hworks howed, rfl, ?_⟩
    have hsent := State.sendAck_sent (s := s) false hst
    rw [hdie] at hsent
    exact hsent
  · exact ⟨_, nplExpiry_closes rfl hworks hst, ((State.closeFull_idle (hidle.sendCn _ opClose)).of_slots
      (State.sendCn_portOnly _ _).slot (State.sendCn_portOnly _ _).mem).left s⟩
  · refine ⟨_, ratePeriod_moves rfl hworks hst ha, ?_, ?_, fun j hj => ?_, fun hm => ?_⟩
    · split <;> rfl
    · exact State.slot_setSlot _ _ _
    · refine (State.slot_setSlot_ne _ _ _ hj).trans ?_
      split <;> rfl
    · rw [if_pos hm]
      exact s.getF_incF _ 1
  · have hhalted := State.haltSlot_halted (s := s) cause parent hst (by have := slotKey_lt d l; omega)
    rwa [hdie] at hhalted
  · exact show execAckTimer d l s = _ from work_id (if_pos hnone)
  · exact show execNplExpiry d l s = _ from work_id (by simp [hst, hnone])
  · exact show execBusywaitExpiry d l s = _ from work_id (by simp [hnone])
  · exact show execRatePeriod d l s = _ from work_id (by simp [hnone])

end Sys2Proof.Machine

/-! PROOFS about the remote memory transport (11): the commands of the driver. -/
namespace Sys2Proof.Machine

/-! ### What the status registers show (11 R330) -/

section
variable {s : State}

theorem State.flag_setF_ne {f g : Fld} (n : Nat) (h : g.key ≠ f.key) : (s.setF f n).flag g = s.flag g := by
  rw [State.flag, s.getF_setF_ne n h, State.flag]

theorem State.flag_setB_ne {f g : Fld} (b : Bool) (h : g.key ≠ f.key) : (s.setB f b).flag g = s.flag g :=
  State.flag_setF_ne _ h

theorem State.setF_regsOnly {t : State} (f : Fld) (n : Nat) (h : t = { s with regs := t.regs }) :
    t.setF f n = { s with regs := (t.setF f n).regs } :=
  congrArg (fun u : State => u.setF f n) h

theorem SlotSt.code_lt (t : SlotSt) : t.code < 8 := by cases t <;> decide

theorem State.connStat_shown {d k r : Nat} (hr : r < 8) : connShown s (s.connStat d k r) d k r := by
  unfold State.connStat
  dsimp only
  refine ⟨?_, ?_, ?_, ?_, ?_⟩
  · iterate 6 refine State.setF_regsOnly _ _ ?_
    rfl
  · rw [State.flag_setF_ne, State.flag_setF_ne, State.flag_setB_ne, State.flag_setF_ne, State.flag_setF_ne]
    · exact State.flag_setB _ _ _ Nat.one_pos
    all_goals
      simp only [Fld.key, F.rmtCstatDone, F.rmtCstatResult, F.rmtCstatState, F.rmtCstatCached, F.rmtCstatPath,
        F.rmtCstatEpoch]
      omega
  · rw [State.getF_setF_ne, State.getF_setF_ne, State.getF_setB_ne, State.getF_setF_ne, State.getF_setF]
    · exact Nat.mod_eq_of_lt hr
    all_goals
      simp only [Fld.key, F.rmtCstatResult, F.rmtCstatState, F.rmtCstatCached, F.rmtCstatPath, F.rmtCstatEpoch]
      omega
  · rw [State.getF_setF_ne, State.getF_setF_ne, State.getF_setB_ne, State.getF_setF]
    · exact Nat.mod_eq_of_lt (SlotSt.code_lt _)
    all_goals
      simp only [Fld.key, F.rmtCstatState, F.rmtCstatCached, F.rmtCstatPath, F.rmtCstatEpoch]
      omega
  · rw [State.flag_setF_ne, State.flag_setF_ne]
    · exact State.flag_setB _ _ _ Nat.one_pos
    all_goals
      simp only [Fld.key, F.rmtCstatCached, F.rmtCstatPath, F.rmtCstatEpoch]
      omega

theorem State.keyStat_shown {r g : Nat} (a : Nat) (hr : r < 8) (hg : g < 4096) :
    keyShown s (s.keyStat r g a) r g := by
  refine ⟨rfl, ?_, ?_, ?_⟩ <;> rw [State.keyStat]
  · rw [State.flag_setF_ne _ (by decide), State.flag_setF_ne _ (by decide), State.flag_setF_ne _ (by decide)]
    exact State.flag_setB _ _ _ Nat.one_pos
  · rw [State.getF_setF_ne _ _ (by decide), State.getF_setF_ne _ _ (by decide), State.getF_setF]
    exact Nat.mod_eq_of_lt hr
  · rw [State.getF_setF_ne _ _ (by decide), State.getF_setF]
    exact Nat.mod_eq_of_lt hg

end

/-! ### Which writes of the command registers are accepted (11 R303, R315; 20 R503) -/

section
variable {s : State} {f : Fld} {g : State → State}

/-- A command of a block that is up does its work on the state with its register's holding copies spent. -/
theorem rmtGate_up {t : State} (hworks : s.works = true) (hup : s.blockUp f.off = true) (h : g (s.spend f.off) = t) :
    regWork s f.off (fun s => s.rmtGate f g) = .next (left s t) := by
  rw [regWork_left _ _ hworks, State.rmtGate, if_pos (show (s.spend f.off).blockUp f.off = true from hup), h]

theorem rmtGate_down (hworks : s.works = true) (hdown : s.blockUp f.off = false) :
    regWork s f.off (fun s => s.rmtGate f g) = .next (left s ((s.spend f.off).rejectedAt f.off f.lo)) := by
  have hreject : ¬(s.spend f.off).blockUp f.off = true := by
    rw [show (s.spend f.off).blockUp f.off = false from hdown]
    exact Bool.false_ne_true
  rw [regWork_left _ _ hworks, State.rmtGate, if_neg hreject]

theorem keyGate_done {t : State} (hworks : s.works = true) (hup : s.blockUp F.rmtKcmdIndex.off = true)
    (hdone : s.flag F.rmtKstatDone = true) (h : g (s.spend F.rmtKcmdIndex.off) = t) :
    regWork s F.rmtKcmdIndex.off (fun s => s.keyGate g) = .next (left s t) :=
  rmtGate_up hworks hup ((if_pos hdone).trans h)

theorem keyGate_running (hworks : s.works = true) (hup : s.blockUp F.rmtKcmdIndex.off = true)
    (hrun : s.flag F.rmtKstatDone = false) : regWork s F.rmtKcmdIndex.off (fun s => s.keyGate g) =
      .next (left s ((s.spend F.rmtKcmdIndex.off).rejected F.rmtKcmdOp)) :=
  rmtGate_up hworks hup (if_neg (show ¬s.flag F.rmtKstatDone = true by rw [hrun]; exact Bool.false_ne_true))

end

/-! ### The connection commands (11 R302, R303, R330) -/

section
variable {s a : State} {d : Fin 4} {l : BitVec 16} {k : Nat}

/-- A closing slot with nothing left leaves by a CLOSE and is FREE. -/
theorem State.closeEnd_idle (hst : (s.slot k).st = .closing) (hpkts : (s.slot k).pkts = [])
    (hrx : (s.slot k).rx = none) : (s.closeEnd k).slot k = { lastEpoch := (s.slot k).conn.epoch } := by
  obtain ⟨hcarried, hqueued⟩ := List.append_eq_nil_iff.1 hpkts
  obtain ⟨hunacked, -⟩ := List.append_eq_nil_iff.1 hcarried
  have hsent : (s.sendCn k opClose).slot k = s.slot k := (State.sendCn_portOnly k opClose).slot k
  have hfree : (((s.sendCn k opClose).dropRx k).freeSlot k).slot k = { lastEpoch := (s.slot k).conn.epoch } := by
    rw [State.freeSlot_slot, State.dropRx_closed (by rw [hsent, hrx]), State.slot_setSlot, hsent]
  rw [State.closeEnd]
  simp only [hst, hunacked, hqueued, and_self, if_true, State.cmdsEnd_none hpkts, State.overflowed, List.foldl_nil]
  rw [← hfree]
  exact (SlotsMarked.refl _).settle.slot_eq (by rw [hfree])

/-- A closing slot that still has packets stays. -/
theorem State.closeEnd_busy (h : (s.slot k).unacked ≠ [] ∨ (s.slot k).queued ≠ []) : s.closeEnd k = s :=
  if_neg fun ⟨_, hunacked, hqueued⟩ => h.elim (· hunacked) (· hqueued)

theorem connOpen_fails {r : Nat} {u : State} (hk : k = slotKey d.val l.toNat) (hworks : s.works = true)
    (ha : a = s.spend (F.rmtCcmdSlot d.val).off) (hup : s.blockUp (F.rmtCcmdSlot d.val).off = true)
    (h : openFails a d.val k l.toNat r u) : exec (.connOpen d l) s = .next (left s (u.connStat d.val k r)) := by
  refine rmtGate_up hworks hup ?_
  dsimp only
  rw [← ha, ← hk]
  rcases h with ⟨hst, rfl, rfl⟩ | ⟨hst, hthere, rfl, rfl⟩ | ⟨hst, ⟨hvalid, hrange⟩, b, hread, h⟩
  · simp [hst]
  · have hmiss : (!u.flag (F.rmtCfgTvalid d.val) ||
        !u.houseRange (u.getF (F.rmtCfgCset d.val)) (256 * l.toNat) 64) = true := by
      rwa [← Bool.not_and, Bool.not_eq_true', ← Bool.not_eq_true, Bool.and_eq_true]
    rw [if_neg (by rw [hst]; decide), if_pos hmiss]
  · rcases h with ⟨hrec, rfl⟩ | ⟨c, hrec, ⟨hgrant, rfl⟩ | ⟨hgrant, hold, rfl⟩⟩
    · simp [hst, hvalid, hrange, hread, hrec]
    · simp [hst, hvalid, hrange, hread, hrec, hgrant]
    · simp [hst, hvalid, hrange, hread, hrec, hold, Option.isNone_iff_eq_none, hgrant]


theorem connOpen_holds {c : ConnRec} {u : State} (hk : k = slotKey d.val l.toNat) (hworks : s.works = true)
    (ha : a = s.spend (F.rmtCcmdSlot d.val).off) (hup : s.blockUp (F.rmtCcmdSlot d.val).off = true)
    (h : openHolds a d.val k l.toNat c u) : exec (.connOpen d l) s = .next (left s
      ((((u.setSlot k { lastEpoch := (u.slot k).lastEpoch, conn := c, st := .opening }).connUse k).2.sendCn
        k opOpen).connStat d.val k 0)) := by
  obtain ⟨hst, hvalid, hrange, b, hread, hrec, hgrant, hnew⟩ := h
  refine rmtGate_up hworks hup ?_
  dsimp only
  rw [← ha, ← hk]
  simp [hst, hvalid, hrange, hread, hrec, hgrant, Nat.not_le.2 hnew]

theorem connClose_drains (hk : k = slotKey d.val l.toNat) (hworks : s.works = true)
    (ha : a = s.spend (F.rmtCcmdSlot d.val).off) (hup : s.blockUp (F.rmtCcmdSlot d.val).off = true)
    (hst : (s.slot k).st = .opened) : exec (.connClose d l) s = .next (left s
      (((a.setSlot k { s.slot k with st := .closing }).closeEnd k).connStat d.val k 0)) := by
  refine rmtGate_up hworks hup ?_
  dsimp only
  rw [← ha, ← hk, show a.slot k = s.slot k by rw [ha]; rfl, hst]

/-- Closing an opening or halted slot frees it at once. -/
theorem connClose_frees (hk : k = slotKey d.val l.toNat) (hworks : s.works = true)
    (ha : a = s.spend (F.rmtCcmdSlot d.val).off) (hup : s.blockUp (F.rmtCcmdSlot d.val).off = true)
    (hst : (s.slot k).st = .opening ∨ (s.slot k).st = .halted) : exec (.connClose d l) s = .next (left s
      ((a.setSlot k { lastEpoch := (s.slot k).conn.epoch }).connStat d.val k 0)) := by
  refine rmtGate_up hworks hup ?_
  dsimp only
  rw [← ha, ← hk, State.freeSlot, show a.slot k = s.slot k by rw [ha]; rfl]
  rcases hst with hst | hst <;> rw [hst]

theorem connClose_refused (hk : k = slotKey d.val l.toNat) (hworks : s.works = true)
    (ha : a = s.spend (F.rmtCcmdSlot d.val).off) (hup : s.blockUp (F.rmtCcmdSlot d.val).off = true)
    (hst : (s.slot k).st = .free ∨ (s.slot k).st = .closing) :
    exec (.connClose d l) s = .next (left s (a.connStat d.val k 3)) := by
  refine rmtGate_up hworks hup ?_
  dsimp only
  rw [← ha, ← hk, show a.slot k = s.slot k by rw [ha]; rfl]
  rcases hst with hst | hst <;> rw [hst]

/-- Closing an open slot with nothing in flight frees it, and the close shows as done. -/
theorem connClose_idle (hk : k = slotKey d.val l.toNat) (hworks : s.works = true)
    (hup : s.blockUp (F.rmtCcmdSlot d.val).off = true) (hst : (s.slot k).st = .opened) (hpkts : (s.slot k).pkts = [])
    (hrx : (s.slot k).rx = none) : runsTo (.connClose d l) s fun t =>
      t.slot k = { lastEpoch := (s.slot k).conn.epoch } ∧ t.getF (F.rmtCstatResult d.val) = 0 := by
  have hclosing := State.slot_setSlot (k := k) (s.spend (F.rmtCcmdSlot d.val).off) { s.slot k with st := .closing }
  obtain ⟨hregs, -, hresult, -, -⟩ := State.connStat_shown (s := ((s.spend (F.rmtCcmdSlot d.val).off).setSlot k
    { s.slot k with st := .closing }).closeEnd k) (d := d.val) (k := k) (r := 0) (by decide)
  refine ⟨_, connClose_drains hk hworks rfl hup hst, ?_, hresult⟩
  rw [hregs]
  refine (State.closeEnd_idle ?_ ?_ ?_).trans ?_
  · rw [hclosing]
  · rw [hclosing]
    exact hpkts
  · rw [hclosing]
    exact hrx
  · rw [hclosing]

end

/-! ### The key commands (11 R315, R318) -/

section
variable {s : State} {i : BitVec 20}

theorem keyThere_missing {a : State} (h : ¬keyThere a i.toNat) :
    (!a.flag (F.rmtCfgTvalid 0) || !a.houseRange a.kset (keyAt i.toNat) 64) = true := by
  rw [← Bool.not_and, Bool.not_eq_true', ← Bool.not_eq_true, Bool.and_eq_true]
  exact h

theorem keyThere_found {a : State} (h : keyThere a i.toNat) :
    ¬(!a.flag (F.rmtCfgTvalid 0) || !a.houseRange a.kset (keyAt i.toNat) 64) = true := by
  rw [← Bool.not_and, Bool.not_eq_true', Bool.not_eq_false, Bool.and_eq_true]
  exact h

theorem keyValidate_fails {r g : Nat} (hworks : s.works = true) (hup : s.blockUp F.rmtKcmdIndex.off = true)
    (hdone : s.flag F.rmtKstatDone = true) (h : keyFails (s.spend F.rmtKcmdIndex.off) i.toNat false r g) :
    exec (.keyValidate i) s = .next (left s ((s.spend F.rmtKcmdIndex.off).keyStat r g 0)) := by
  refine keyGate_done hworks hup hdone ?_
  dsimp only
  rcases h with ⟨hmiss, rfl, rfl⟩ | ⟨hthere, rfl, ⟨hst, rfl⟩ | ⟨hst, hbad, rfl⟩⟩
  · rw [if_pos (keyThere_missing hmiss)]
  · rw [if_neg (keyThere_found hthere), if_pos (bne_iff_ne.2 hst)]
  · rw [if_neg (keyThere_found hthere), if_neg (by simp [hst]), if_pos (by rw [hbad]; rfl)]

theorem keyRevoke_fails {r g : Nat} (hworks : s.works = true) (hup : s.blockUp F.rmtKcmdIndex.off = true)
    (hdone : s.flag F.rmtKstatDone = true) (h : keyFails (s.spend F.rmtKcmdIndex.off) i.toNat true r g) :
    exec (.keyRevoke i) s = .next (left s ((s.spend F.rmtKcmdIndex.off).keyStat r g 0)) := by
  refine keyGate_done hworks hup hdone ?_
  dsimp only
  rcases h with ⟨hmiss, rfl, rfl⟩ | ⟨hthere, rfl, hst, rfl⟩
  · rw [if_pos (keyThere_missing hmiss)]
  · rw [if_neg (keyThere_found hthere), if_pos (bne_iff_ne.2 hst)]

theorem keyValidate_valid {b : List Byte} (hworks : s.works = true) (hup : s.blockUp F.rmtKcmdIndex.off = true)
    (hdone : s.flag F.rmtKstatDone = true) (hthere : keyThere s i.toNat)
    (hb : b = (s.spend F.rmtKcmdIndex.off).keyRec i.toNat) (hst : kState b = 0)
    (hok : (s.spend F.rmtKcmdIndex.off).keyRecOk b = true) : exec (.keyValidate i) s = .next (left s
      (((s.spend F.rmtKcmdIndex.off).keyPut i.toNat (keyBytes b 1 (kGen b))).keyStat 0 (kGen b) 0)) := by
  refine keyGate_done hworks hup hdone ?_
  dsimp only
  rw [if_neg (keyThere_found (a := s.spend F.rmtKcmdIndex.off) hthere), ← hb, if_neg (by simp [hst]),
    if_neg (by simp [hok])]

theorem keyRevoke_closes {b : List Byte} {u : State} (hworks : s.works = true)
    (hup : s.blockUp F.rmtKcmdIndex.off = true) (hdone : s.flag F.rmtKstatDone = true) (hthere : keyThere s i.toNat)
    (hb : b = (s.spend F.rmtKcmdIndex.off).keyRec i.toNat) (hst : kState b = 1)
    (hu : u = ((s.spend F.rmtKcmdIndex.off).keySet i.toNat 2 (kGen b)).setB F.rmtKstatDone false) :
    exec (.keyRevoke i) s = .next (left s { u with rmt.revoke := some ⟨i.toNat, 0⟩ }) := by
  refine keyGate_done hworks hup hdone ?_
  dsimp only
  rw [if_neg (keyThere_found (a := s.spend F.rmtKcmdIndex.off) hthere), ← hb, if_neg (by simp [hst]), hu]

/-! ### The rows of a revocation (11 R318) -/

/-- With no REVOKE of the key running, its rows change nothing. -/
theorem revoke_unasked (h : ∀ r, s.rmt.revoke = some r → r.index ≠ i.toNat) :
    exec (.revokeDrained i) s = .next s ∧ exec (.revokeTimeout i) s = .next s := by
  refine ⟨show execRevokeDrained i s = _ from work_id ?_, show execRevokeTimeout i s = _ from work_id ?_⟩ <;>
    rcases hr : s.rmt.revoke with _ | r
  · rfl
  · exact if_neg fun hdrained => h r hr hdrained.1
  · rfl
  · exact if_pos (bne_iff_ne.2 (h r hr))

theorem revokeDrained_held {r : Revoke} (hr : s.rmt.revoke = some r) (hi : r.index = i.toNat)
    (hrefs : s.keyRefs i.toNat ≠ 0) : exec (.revokeDrained i) s = .next s := by
  refine show execRevokeDrained i s = _ from work_id ?_
  simp only [hr, hi, hrefs, and_false, if_false]

theorem revokeDrained_frees {r : Revoke} (hworks : s.works = true) (hr : s.rmt.revoke = some r)
    (hi : r.index = i.toNat) (hrefs : s.keyRefs i.toNat = 0) :
    exec (.revokeDrained i) s = .next (left s (s.keyFree i.toNat r.aborted)) := by
  refine show execRevokeDrained i s = _ from (work_left s _ hworks).trans ?_
  simp only [hr, hi, hrefs, and_self, if_true]

/-- What still holds the key halts, and the key is freed with those messages counted as aborted. -/
theorem revokeTimeout_halts {r : Revoke} {ks : List Nat} (hworks : s.works = true) (hr : s.rmt.revoke = some r)
    (hi : r.index = i.toNat) (hks : ks = s.keyHolders i.toNat) : exec (.revokeTimeout i) s = .next (left s
      ((ks.foldl (fun s k => s.haltFull k haltRevoke) s).keyFree i.toNat (r.aborted + ks.length))) := by
  refine show execRevokeTimeout i s = _ from (work_left s _ hworks).trans ?_
  simp only [hr, hi, hks, bne_self_eq_false, Bool.false_eq_true, if_false]

/-- A key that no REVOKE names is freed without a result. -/
theorem State.keyFree_unasked {i a g : Nat} {u : State} (hg : g = (kGen (s.keyRec i) + 1) % 4096)
    (hu : u = s.keySet i 0 g) (h : ∀ r, u.rmt.revoke = some r → r.index ≠ i) : s.keyFree i a = u := by
  rw [State.keyFree]
  dsimp only
  rw [← hg, ← hu]
  split
  · rename_i r hr
    exact if_neg (h r hr)
  · rfl

theorem State.keyFree_revoked {i a g : Nat} {u : State} {r : Revoke} (hg : g = (kGen (s.keyRec i) + 1) % 4096)
    (hu : u = s.keySet i 0 g) (hr : u.rmt.revoke = some r) (hi : r.index = i) :
    s.keyFree i a = ({ u with rmt.revoke := none } : State).keyStat (if a = 0 then 0 else 3) g a := by
  rw [State.keyFree]
  dsimp only
  rw [← hg, ← hu, hr]
  exact if_pos hi

end

/-- Settles O54: a command of the driver passes the gate of its register and runs the branch of its definition that the
slot's or the key's state chooses; the status registers read back as set. -/
theorem rmtCommandsOfTheDriver : Obligations.RmtCommandsOfTheDriver := by
  refine ⟨fun d k r s hr => State.connStat_shown (by omega),
    fun r g a s hr hg => State.keyStat_shown a (by omega) hg, ?_, ?_, ?_⟩
  · rintro d l s a k v hworks hk rfl ha
    refine ⟨fun i hi hdown => ?_, fun hup => ⟨?_, connClose_frees hk hworks ha hup, connClose_refused hk hworks ha hup,
      fun hst hbusy => ?_, connClose_idle hk hworks hup, fun r u => connOpen_fails hk hworks ha hup,
      fun c u => connOpen_holds hk hworks ha hup⟩⟩
    · simp only [List.mem_cons, List.not_mem_nil, or_false] at hi
      rcases hi with rfl | rfl | rfl <;> rw [ha] <;> exact rmtGate_down hworks hdown
    · exact rmtGate_up hworks hup (by rw [ha, hk])
    · rw [connClose_drains hk hworks ha hup hst, State.closeEnd_busy]
      simpa only [State.slot_setSlot] using hbusy
  · rintro i s a hworks rfl
    refine ⟨fun e he => ?_, fun b hup hdone hthere hb => ⟨keyValidate_valid hworks hup hdone hthere hb,
      fun u => keyRevoke_closes hworks hup hdone hthere hb⟩, fun c hc hnone => ?_, fun r hr hi =>
      ⟨revokeDrained_held hr hi, revokeDrained_frees hworks hr hi, fun ks => revokeTimeout_halts hworks hr hi⟩⟩
    · simp only [List.mem_cons, List.not_mem_nil, or_false] at he
      rcases he with rfl | rfl
      · exact ⟨rmtGate_down hworks, keyGate_running hworks, fun r g => keyValidate_fails hworks⟩
      · exact ⟨rmtGate_down hworks, keyGate_running hworks, fun r g => keyRevoke_fails hworks⟩
    · obtain ⟨hdrained, htimeout⟩ := revoke_unasked hnone
      simp only [List.mem_cons, List.not_mem_nil, or_false] at hc
      rcases hc with rfl | rfl
      · exact hdrained
      · exact htimeout
  · rintro i a g s u t hg hu rfl
    refine ⟨State.keyFree_unasked hg hu, fun r hr hi => ?_⟩
    rw [State.keyFree_revoked hg hu hr hi]
    exact State.keyStat_shown a (by split <;> decide) (by rw [hg]; exact Nat.mod_lt _ (by decide))

end Sys2Proof.Machine

/-! PROOFS about the remote memory transport (11): the commands of job software. -/
namespace Sys2Proof.Machine

/-! ### Entries of the command ring and their messages (11 R297, R299, R328) -/

theorem leNat_lt (bs : List Byte) : leNat bs < 256 ^ bs.length := by
  induction bs with
  | nil => exact Nat.one_pos
  | cons b bs ih =>
    have hb := b.isLt
    rw [leNat, List.length_cons, Nat.pow_succ]
    omega

theorem fieldAt_lt (bs : List Byte) (o n : Nat) : fieldAt bs o n < 256 ^ n :=
  (leNat_lt _).trans_le (Nat.pow_le_pow_right (by decide) (List.length_take_le _ _))

theorem rmtCmdOf_entry (h a : Nat) (b : List Byte) : rmtEntry (rmtCmdOf h a b) h a b := by
  have hopnd : ∀ o, (BitVec.ofNat 64 (fieldAt b o 8)).toNat = fieldAt b o 8 := fun o =>
    Nat.mod_eq_of_lt (fieldAt_lt b o 8)
  exact ⟨rfl, rfl, rfl, rfl, rfl, rfl, rfl, rfl, rfl, rfl, rfl, hopnd 32, hopnd 40, rfl, rfl, rfl⟩

theorem cmdMsg_of_table (x : Nat) (c : RmtCmd) (hlow : 1 ≤ c.op) (hhigh : c.op ≤ 7) :
    rmtMessageOf x c (cmdMsg x c) := by
  obtain hop | hop | hop | hop | hop | hop | hop : c.op = 1 ∨ c.op = 2 ∨ c.op = 3 ∨ c.op = 4 ∨ c.op = 5 ∨ c.op = 6 ∨
      c.op = 7 := by omega
  all_goals simp [rmtMessageOf, cmdMsg, hop, opWrite, opWriteNotify, opReadReq, opAtomic, opReduceWrite]

/-! ### The turn on GOSEM (11 R328; 06 R182) -/

section
variable {x : Fin 256} {s : State} (hworks : s.works = true)
include hworks

/-- Before its turn the engine waits on GOSEM. -/
theorem rmtCommandFetch_waits (h : ¬∃ t, rmtTurn s x.val t) :
    exec (.rmtCommandFetch x) s = .next (left s (s.rmtJoin x.val).settle) := by
  refine show execRmtCommandFetch x s = _ from (work_left s _ hworks).trans ?_
  dsimp only
  split
  · rfl
  · rename_i hrun
    split
    · rfl
    · rename_i t htake
      simp only [Bool.or_eq_true, Bool.not_eq_true', not_or, Bool.not_eq_false, Bool.not_eq_true] at hrun
      obtain ⟨halive, hpre⟩ := hrun
      exact absurd ⟨t, _, rfl, halive, hpre, htake⟩ h

/-- At its turn the engine reads the entry at HEAD, and adds its command or faults the context. -/
theorem rmtCommandFetch_reads {u v : State} {b : List Byte} (hturn : rmtTurn s x.val u)
    (hread : (cvaRead (dieUnit 0) x.val (u.rmtEntryAt x.val) 64).go (u.incF (F.rmtHeadHead x.val) 1) = (.ok b, v)) :
    (v.rmtFieldsOk x.val b = false → exec (.rmtCommandFetch x) s =
      .next (left s (v.ctxFault x.val 0 uRmt kInvalid 0 (u.rmtEntryAt x.val)))) ∧
    (v.rmtFieldsOk x.val b = true → ∀ l, l = tget [] (s.rmtJoin x.val).settle.rmt.cmds x.val ++
        [rmtCmdOf (u.getF (F.rmtHeadHead x.val)) (u.rmtEntryAt x.val) b] →
      exec (.rmtCommandFetch x) s = .next (left s ((({ v with rmt.cmds := tput [] v.rmt.cmds x.val l }).setF
        (F.rmtCtlInflight x.val) l.length).rmtJoin x.val).settle)) := by
  obtain ⟨_, rfl, halive, hpre, htake⟩ := hturn
  constructor
  · intro hbad
    refine show execRmtCommandFetch x s = _ from (work_left s _ hworks).trans ?_
    simp only [halive, hpre, htake, hread, hbad, Bool.not_true, Bool.not_false, Bool.or_self, Bool.false_eq_true,
      if_false, if_true]
  · rintro hok l rfl
    refine show execRmtCommandFetch x s = _ from (work_left s _ hworks).trans ?_
    simp only [halive, hpre, htake, hread, hok, Bool.not_true, Bool.or_self, Bool.false_eq_true, if_false]

end

/-! ### The start of a command (11 R328, R329; 06 R183) -/

/-- What keeps a command of operation `op` from starting, as the start's guard has it. -/
def State.rmtHeld (s : State) (x : Nat) (c : RmtCmd) (op : Nat) : Bool :=
  let before := (tget [] s.rmt.cmds x).takeWhile fun d => d.index != c.index
  c.op != op || c.started || s.preempted x || !(s.alive x) || (c.fence && !before.isEmpty)
    || before.any (fun d => !d.started && d.conn == c.conn)

section
variable {s : State} {x n op : Nat} {c : RmtCmd}

theorem State.rmtHeld_iff : s.rmtHeld x c op = true ↔ ¬rmtMayStart s x c op := by
  rw [← Bool.not_eq_false, not_iff_not]
  simp only [State.rmtHeld, rmtMayStart, Bool.or_eq_false_iff, Bool.and_eq_false_imp, Bool.not_eq_false',
    List.isEmpty_iff, List.any_eq_false, bne_eq_false_iff_eq, Bool.and_eq_true, Bool.not_eq_true',
    beq_iff_eq, not_and, and_assoc]

theorem State.rmtHeld_not (hmay : rmtMayStart s x c op) : ¬s.rmtHeld x c op = true := fun hheld =>
  State.rmtHeld_iff.1 hheld hmay

theorem State.rmtStart_absent (h : ∀ c ∈ tget [] s.rmt.cmds x, c.index ≠ n) : s.rmtStart x n op = s := by
  have hfind : (tget [] s.rmt.cmds x).find? (fun c => c.index = n) = none := by simpa using h
  simp only [State.rmtStart, hfind]

variable (hfind : (tget [] s.rmt.cmds x).find? (fun c => c.index = n) = some c)
include hfind

theorem rmtCmd_index : c.index = n := by simpa using List.find?_some hfind

theorem State.rmtStart_held (h : ¬rmtMayStart s x c op) : s.rmtStart x n op = s := by
  obtain rfl := rmtCmd_index hfind
  simp only [State.rmtStart, hfind]
  exact if_pos (State.rmtHeld_iff.2 h)

variable (hmay : rmtMayStart s x c op)
include hmay

theorem State.rmtStart_unopened (hslot : 2 ^ 18 ≤ c.conn ∨ (s.slot c.conn).st ≠ .opened) :
    (∀ u, s.cmdComplete x n 3 = (u, none) → s.rmtStart x n op = u.settle) ∧
      ∀ u k, s.cmdComplete x n 3 = (u, some k) → s.rmtStart x n op = u.overflowed 0 [(x, k)] := by
  obtain rfl := rmtCmd_index hfind
  constructor
  · intro u hu
    simp only [State.rmtStart, hfind, hu]
    exact (if_neg (State.rmtHeld_not hmay)).trans (if_pos hslot)
  · intro u k hu
    simp only [State.rmtStart, hfind, hu]
    exact (if_neg (State.rmtHeld_not hmay)).trans (if_pos hslot)

variable (hconn : c.conn < 2 ^ 18) (hst : (s.slot c.conn).st = .opened)
include hconn hst

theorem State.rmtStart_foreign (howner : (s.slot c.conn).conn.owner ≠ x) :
    s.rmtStart x n op = s.ctxFault x 0 uRmt kInvalid 0 c.addr := by
  have hslot : ¬(2 ^ 18 ≤ c.conn ∨ (s.slot c.conn).st ≠ .opened) := not_or.2 ⟨Nat.not_le.2 hconn, not_not.2 hst⟩
  obtain rfl := rmtCmd_index hfind
  simp only [State.rmtStart, hfind]
  exact (if_neg (State.rmtHeld_not hmay)).trans ((if_neg hslot).trans (if_pos (bne_iff_ne.2 howner)))

theorem State.rmtStart_sends {u : State} (howner : (s.slot c.conn).conn.owner = x)
    (huse : s.connUse c.conn = (none, u)) : s.rmtStart x n op =
      ({ u with rmt.cmds := tput [] u.rmt.cmds x ((tget [] s.rmt.cmds x).map fun d =>
        if d.index = n then { d with started := true } else d) } : State).rmtMessage c.conn (cmdMsg x c) := by
  have hslot : ¬(2 ^ 18 ≤ c.conn ∨ (s.slot c.conn).st ≠ .opened) := not_or.2 ⟨Nat.not_le.2 hconn, not_not.2 hst⟩
  have hown : ¬((s.slot c.conn).conn.owner != x) = true := fun hne => bne_iff_ne.1 hne howner
  obtain rfl := rmtCmd_index hfind
  simp only [State.rmtStart, hfind, huse]
  exact (if_neg (State.rmtHeld_not hmay)).trans ((if_neg hslot).trans (if_neg hown))

end

/-- Slot 0 is of die stack 0, which the record of a lost signal of the engine's own names. -/
theorem State.overflowed_zero (s : State) (x k : Nat) :
    s.overflowed 0 [(x, k)] = s.ctxFault x 0 uRmt kOverflow 0 k := by
  rw [State.overflowed, List.foldl_cons, List.foldl_nil, slotDie, Nat.zero_div]

/-- The seven operations differ in their number alone. -/
theorem cmdStart_exec (x : Fin 256) (n : Nat) (s : State) : ∀ i ∈ ([(.cmdWrite x n, 1), (.cmdWriteNotify x n, 2),
    (.cmdRead x n, 3), (.cmdFadd x n, 4), (.cmdCswap x n, 5), (.cmdSwap x n, 6), (.cmdReduceWrite x n, 7)] :
      List (Instr × Nat)), exec i.1 s = work s (·.rmtStart x.val n i.2) := by
  simp only [List.forall_mem_cons]
  exact ⟨rfl, rfl, rfl, rfl, rfl, rfl, rfl, List.forall_mem_nil _⟩

/-- Settles O55: the fetch runs the branch its turn and its entry choose, and a command's start the branch that its slot
chooses, once nothing holds it back. -/
theorem rmtCommandsOfJobSoftware : Obligations.RmtCommandsOfJobSoftware := by
  intro x s hworks
  refine ⟨rmtCommandFetch_waits hworks, fun u v h a b hturn hh ha hread => ?_, fun c => cmdMsg_of_table x.val c,
    fun n i hi => ?_⟩
  · subst hh ha
    obtain ⟨hbad, hok⟩ := rmtCommandFetch_reads hworks hturn hread
    exact ⟨hbad, fun hfields => ⟨_, _, rmtCmdOf_entry _ _ b, rfl, hok hfields _ rfl⟩⟩
  · have hstart : ∀ {t : State}, s.rmtStart x.val n i.2 = t → exec i.1 s = .next (left s t) := fun ht => by
      rw [cmdStart_exec x n s i hi, work_left s _ hworks, ht]
    have hidle : s.rmtStart x.val n i.2 = s → exec i.1 s = .next s := fun hs => by
      rw [cmdStart_exec x n s i hi, work_id hs]
    refine ⟨fun hnone => hidle (State.rmtStart_absent hnone), fun c hfind =>
      ⟨fun hheld => hidle (State.rmtStart_held hfind hheld), fun hmay => ⟨fun hslot => ?_, fun hconn hst howner =>
        hstart (State.rmtStart_foreign hfind hmay hconn hst howner), fun u hconn hst howner huse =>
        hstart (State.rmtStart_sends hfind hmay hconn hst howner huse)⟩⟩⟩
    obtain ⟨hdone, hlost⟩ := State.rmtStart_unopened hfind hmay hslot
    exact ⟨fun u hu => hstart (hdone u hu), fun u k hu => hstart ((hlost u k hu).trans (u.overflowed_zero x.val k))⟩

end Sys2Proof.Machine
